-- ==== Sys2Proof/Word.lean ====
section
/-!
DEFINITION. The word types (00_scope.md R5, R8) and the sparse tables in which the state holds what is indexed.
-/
namespace Sys2Proof

abbrev Byte := BitVec 8
abbrev Word := BitVec 32

/-- A sparse table: keys strictly rising, no entry equal to what an unlisted key reads as. -/
abbrev Tbl (α : Type) := List (Nat × α)

end Sys2Proof
end

