-- ==== Sys2Proof/Syntax.lean ====
section
/-!
DEFINITION. The commands of the WX1024, one constructor per row of spec/opcode_table.json, in its order. The table gives
its rows no bits; the operands are the outside inputs each step has by its own rule (named beside it).
-/
namespace Sys2Proof

/-- The aperture or master through which a register access comes (11 R263, 12 Table 12.2). -/
inductive Via where
  | operator | service | steward | debug
  deriving DecidableEq, Repr, Inhabited

/-- The two loop engines. -/
inductive Eng where
  | lea | leb
  deriving DecidableEq, Repr, Inhabited

/-- The two report ports. -/
inductive Port where
  | rpa | rpb
  deriving DecidableEq, Repr, Inhabited

/-- The two reference inputs. -/
inductive RefIn where
  | a | b
  deriving DecidableEq, Repr, Inhabited

/-- A part of a drive frame that an engine hands over (R239): the SOF_D content, body segment j, the TERM block. -/
inductive Seg where
  | sof
  | body (j : BitVec 5)
  | term
  deriving DecidableEq, Repr, Inhabited

/-- One flipped byte of a handed-over copy: position and the bits flipped (a fault of the datapath). -/
structure Flip where
  pos : Nat
  bits : Byte
  deriving DecidableEq, Repr, Inhabited

/-- A received SOF_S block (Table 3.5). hdrOk: its sync header is valid (R58). -/
structure SofS where
  hdrOk : Bool
  crcOk : Bool
  seq : BitVec 16
  epoch : Byte
  stamp : BitVec 40
  pa : Bool
  held : Bool
  tlock : Bool
  eflt : Bool
  p1ok : Bool
  p0ok : Bool
  port : Bool
  ntap : BitVec 10
  deriving DecidableEq, Repr, Inhabited

/-- The sense status word (Table 3.6). -/
structure Status where
  cerr0 : Byte
  cerr1 : Byte
  efc : Byte
  never : Bool
  aseq : BitVec 16
  deriving DecidableEq, Repr, Inhabited

/-- A received sense segment (R64): whether its blocks' sync headers are valid (R58) and its CRC passes, the status word
(segment 0 only) and its tap codes. -/
structure SenseSeg where
  hdrOk : Bool
  crcOk : Bool
  status : Status
  codes : List (BitVec 16)
  deriving DecidableEq, Repr, Inhabited

/-- A received TRN block (Table 3.4). hdrOk: its sync header is valid (R58); crcOk: it passes its CRC directly; crcInv: its
complement does (R62). -/
structure Trn where
  hdrOk : Bool
  crcOk : Bool
  crcInv : Bool
  tstate : Byte
  fromEic : Bool
  tlock : Bool
  endp : Bool
  nonceTx : BitVec 16
  nonceEcho : BitVec 16
  id : BitVec 40
  deriving DecidableEq, Repr, Inhabited

/-- A received DRSP block (R74): sync header, CRC, its nonce, the instants T4 and T2 and the EIC's turn-round time. -/
structure Drsp where
  hdrOk : Bool
  crcOk : Bool
  nonce : Byte
  t4 : BitVec 64
  t2 : Word
  turn : Word
  deriving DecidableEq, Repr, Inhabited

/-- Transport of a received PTP message (Table 2.1). -/
inductive Transport where
  | ethernet | udp4 | other
  deriving DecidableEq, Repr, Inhabited

/-- What every received PTP message carries that R38 judges: its transport, its destination (none: unicast; else whether it is
01-80-C2-00-00-0E or, over UDP, the peer-delay group), domain, logMessageInterval (s8), and the port that sent it (R39 follows
the chosen transmitter's messages alone). -/
structure PtpHdr where
  transport : Transport
  mcast : Option Bool
  domain : Byte
  logInt : Byte
  src : BitVec 80
  deriving DecidableEq, Repr, Inhabited

/-- An Announce message (R39; time.status layout of Table 11.7). -/
structure Announce where
  parent : BitVec 80
  gmId : BitVec 64
  gmQuality : BitVec 32
  prio1 : Byte
  prio2 : Byte
  steps : BitVec 16
  utc : BitVec 16
  ptpScale : Bool
  deriving DecidableEq, Repr, Inhabited

/-- An error line raised (Table 13.1): fault code, severity 0 to 3, SOURCE word, INFO, hardware-sourced. -/
structure Line where
  code : BitVec 16
  sev : BitVec 2
  src : BitVec 28
  info : Word
  hw : Bool
  deriving DecidableEq, Repr, Inhabited

/-- What a scrub or a use of SRAM words finds (R134, R183, R247); checkFails: SECDED passes and the CHECK of the form that a read
loads does not (R134). -/
inductive Ecc where
  | ok | corrected | uncorrectable | checkFails
  deriving DecidableEq, Repr, Inhabited

/-- A word of the demand engine's memories (R183). -/
inductive DeWord where
  | bead (rod dst : BitVec 10)
  | mirror (bank : Bool) (form : BitVec 12) (rod : BitVec 10)
  | elig (bank : Bool) (form : BitVec 12)
  | meter (sub : BitVec 12) (svc : BitVec 3)
  deriving DecidableEq, Repr, Inhabited

/-- A frame as a report port's MAC received it (R157): its length, whether its FCS passes, its destination, and the FEC codewords
corrected and uncorrectable since the frame before it. -/
structure RxFrame where
  len : Nat
  fcsOk : Bool
  da : BitVec 48
  fecCorr : Nat
  fecUncorr : Nat
  deriving DecidableEq, Repr, Inhabited

/-- Outcome of the repeated measurements of a calibration quantity (R214): the three measurements. -/
structure Meas where
  m1 : Int
  m2 : Int
  m3 : Int
  deriving DecidableEq, Repr, Inhabited

/-- Causes of a host-interface reset (R262). -/
inductive HiReset where
  | flr | hotReset | linkDown | perst | d3hot
  deriving DecidableEq, Repr, Inhabited

/-- A bus-matrix transaction (Table 12.1, R286); data: a write's bytes. -/
structure BmReq where
  mid : BitVec 4
  pl : BitVec 2
  cls : BitVec 2
  tgt : BitVec 3
  write : Bool
  beats : BitVec 5
  addr : BitVec 64
  data : List Byte
  deriving DecidableEq, Repr, Inhabited

/-- One sample of a current-sense channel: its raw code, whether the converter stands at full scale (R333), and whether an
ISENSE run has the channel switched to a reference (R217). -/
structure Sense where
  code : BitVec 16
  full : Bool
  away : Bool
  deriving DecidableEq, Repr, Inhabited

/-- The commands: the rows of spec/opcode_table.json. -/
inductive Instr where
  | frameStrobe
  | phaseStrobe (v : BitVec 6) (p : BitVec 3)
  | segmentHandover (e : Eng) (v : BitVec 6) (g : Seg) (flips : List Flip)
  | noseg (late : Eng) (v : BitVec 6) (g : Seg)
  | frameClose
  | driveFrameDeadline (v : BitVec 6)
  | sampleStrobe (residue : BitVec 32) (aonInc : Option (BitVec 64))
  | sofS (lane : BitVec 7) (b : SofS)
  | senseSegment (lane : BitVec 7) (j : BitVec 4) (d : SenseSeg)
  | releaseSend (v : BitVec 6)
  | drsp (lane : BitVec 7) (d : Drsp)
  | delayExchangeDue (lane : BitVec 7) (nonce : Byte) (t1 : BitVec 64)
  | trn (lane : BitVec 7) (t : Trn)
  | detectDone (lane : BitVec 7) (openP openN short : Bool)
  | blockLock (lane : BitVec 7) (ms : List Meas)
  | lockLost (lane : BitVec 7)
  | openShortDetect (lane : BitVec 7) (openP openN short : Bool)
  | trainingTimeout (lane : BitVec 7)
  | faultRetry (lane : BitVec 7)
  | retrain (via : Via) (lane : BitVec 7) (v : Word)
  | laneEnableWrite (via : Via) (lane : BitVec 7) (v : Word)
  | bKMinus2
  | defaultRead (r : Ecc)
  | slotBoundary
  | chooserStart
  | updatesReleased
  | chooserResult (sram : Bool) (r : Ecc)
  | activationSample
  | planRetire
  | glPauseWrite (via : Via) (v : Word)
  | report (p : Port) (f : RxFrame) (pdu : List Byte)
  | rpFrameRx (p : Port) (f : RxFrame) (etype : BitVec 16) (pdu : List Byte)
  | meterEntry (g : BitVec 4)
  | rodStale (rod : BitVec 10)
  | portDown (p : Port)
  | portUp (p : Port)
  | ptpSync (p : Port) (h : PtpHdr) (seq : BitVec 16) (twoStep : Bool) (origin rx : Int)
  | ptpFollowUp (p : Port) (h : PtpHdr) (seq : BitVec 16) (origin : Int)
  | ptpAnnounce (p : Port) (h : PtpHdr) (a : Announce)
  | ptpDelayResp (p : Port) (h : PtpHdr) (peer : Bool) (seq : BitVec 16) (t1 t2 t3 t4 : Int)
  | ptpRequestSend (p : Port)
  | announceReceiptTimeout (p : Port)
  | syncTimeout (p : Port)
  | tbUncRecompute
  | refLoss (r : RefIn)
  | refUsable (r : RefIn)
  | ppsEdge (falling : Bool) (shorter : Bool) (periodOk : Bool) (diff : Int)
  | ppsOut (rise : Bool)
  | srcChange (via : Via) (v : Word)
  | hostStep (via : Via) (v : Word)
  | tbSnap (via : Via) (v : Word) (ns : BitVec 10) (frac : Word)
  | wakeWaitExpiry
  | resyncCopyDone
  | miswinAgeOut
  | selftestPassDone (e : Eng) (v : BitVec 6) (stest rom cfg : Bool)
  | starved (e : Eng) (v : BitVec 6)
  | engineScrub (e : Eng) (v : BitVec 6) (r : Ecc)
  | fsScrub (slot : BitVec 12) (r : Ecc) (passDone : Bool)
  | deScrub (w : DeWord) (r : Ecc)
  | restoreTestDone (e : Eng) (checks : BitVec 7) (v : BitVec 6)
  | autoRestore (e : Eng)
  | arbFlt (kind : BitVec 2)
  | restoreA (via : Via) (e : Eng) (v : Word)
  | removeA (via : Via) (e : Eng) (v : Word)
  | swap (via : Via) (v : Word)
  | errorLine (extra : List Line) (ticks : BitVec 64)
  | direct
  | darkTmo
  | force (via : Via) (v : Word)
  | exit (via : Via) (v : Word)
  | clrFirst (via : Via) (v : Word)
  | hsnap (via : Via) (v : Word)
  | hclr (via : Via) (v : Word)
  | clrNopress (via : Via) (v : Word)
  | clrEict (via : Via) (v : Word)
  | doorbell (via : Via) (mb : BitVec 3)
  | statusWordRead (via : Via) (mb : BitVec 3)
  | planLoad (mb : BitVec 3)
  | planLoadDone (image : Option (List Byte))
  | planActivate (mb : BitVec 3)
  | planActivateCancel (mb : BitVec 3)
  | formWrite (mb : BitVec 3) (form : Option (List Byte))
  | formDelete (mb : BitVec 3)
  | formRelevel (mb : BitVec 3)
  | loopTuneWrite (mb : BitVec 3)
  | loopTunePreset (mb : BitVec 3)
  | loopTuneReseed (mb : BitVec 3)
  | loopRead (mb : BitVec 3)
  | calRunLane (mb : BitVec 3)
  | calRunTsdly (mb : BitVec 3)
  | calRunIsense (mb : BitVec 3)
  | calRunTap (mb : BitVec 3)
  | calRunEnd (target : Nat) (lost : Bool) (ms : List Meas) (storeOk : Bool)
  | charSweep (mb : BitVec 3)
  | charStop (mb : BitVec 3)
  | injectStart (mb : BitVec 3)
  | injectStop (mb : BitVec 3)
  | injectionEnd (id : BitVec 3)
  | captureStart (mb : BitVec 3)
  | captureEnd
  | pmSetP0 (mb : BitVec 3)
  | pmSetP1 (mb : BitVec 3)
  | pmSetP2 (mb : BitVec 3)
  | pmSetP3 (mb : BitVec 3)
  | pmSetP4 (mb : BitVec 3)
  | twinStatusRead (mb : BitVec 3)
  | twinStatusRestore (mb : BitVec 3)
  | twinStatusRemove (mb : BitVec 3)
  | twinStatusSwap (mb : BitVec 3)
  | nvRecordList (mb : BitVec 3)
  | nvRecordRead (mb : BitVec 3)
  | nvRecordWrite (mb : BitVec 3) (data : Option (List Byte))
  | nvRecordErase (mb : BitVec 3)
  | timeStatus (mb : BitVec 3)
  | demandTenantSet (mb : BitVec 3)
  | demandTenantRead (mb : BitVec 3)
  | demandTenantClear (mb : BitVec 3)
  | counterConfigSet (mb : BitVec 3)
  | counterConfigRead (mb : BitVec 3)
  | counterConfigClear (mb : BitVec 3)
  | sysInfo (mb : BitVec 3)
  | fwWrite (mb : BitVec 3) (image : Option (List Byte))
  | sysHoldHold (mb : BitVec 3)
  | sysHoldRelease (mb : BitVec 3)
  | hifUnlockHi (via : Via) (v : Word)
  | svcPeriodEnd
  | lockoutEnd
  | hifSvcCtlLock (via : Via) (v : Word)
  | hifSvcCodeHi (via : Via) (v : Word)
  | hostInterfaceReset (cause : HiReset)
  | stewardRestart (via : Via) (v : Word)
  | watchdogExpiry
  | lockup (core : BitVec 2)
  | stewardStart
  | stewardReady
  | eventRecord
  | evqRecordWrite (r : BitVec 4) (busOk : Bool)
  | evqModTimer (r : BitVec 4)
  | evqCiWrite (via : Via) (r : BitVec 4) (v : Word)
  | evqRingEnable (via : Via) (r : BitVec 4) (v : Word)
  | evqRingDisable (via : Via) (r : BitVec 4) (v : Word)
  | traceRecordWrite (busOk : Bool)
  | trcCiHiWrite (via : Via) (r : BitVec 3) (v : Word)
  | trcRingEnable (via : Via) (r : BitVec 3) (v : Word)
  | msixUnmask (vec : BitVec 6)
  | bmRequest (q : BmReq)
  | bmGrant (t : BitVec 3) (clocks : Nat)
  | bmResponse (t : BitVec 3) (mid : BitVec 4) (write : Bool) (code : BitVec 3) (data : List Byte)
  | tout (t : BitVec 3) (mid : BitVec 4) (write : Bool)
  | sliceChange (via : Via) (v : Word)
  | sliceSwitch
  | masterReset (m : BitVec 3)
  | rstMid (m : BitVec 3) (t : BitVec 3) (beats : BitVec 4)
  | avsPoll (mv : BitVec 10)
  | avsFail
  | avsRetry
  | avsAlert (status : Word)
  | dividerSwitch
  | p3HoldSend
  | p3ElectricalIdle
  | p3LinkDown
  | p3StewardsHalt
  | p3SlowClock (ns : BitVec 30) (frac : Word)
  | wakeSource (mask : BitVec 5) (lanes : BitVec 128) (ticks : BitVec 64)
  | supplyReady
  | clocksReady
  | wakeStepTimeout (ticks : BitVec 64)
  | wakeRetry
  | wakeMeasured (incW : BitVec 64) (ticks : BitVec 64)
  | wakeFaultClear (via : Via) (v : Word)
  | thModelStep (ch : List Sense) (ticks : BitVec 64)
  | thEvaluate (left : BitVec 32) (ticks : BitVec 64)
  | throtStep
  | tripHold
  | tripOff
  | converged
  | rateArmed
  | thBoardWrite (via : Via) (v : Word)
  | thFitRun (via : Via) (v : Word)
  | fitDone (r1 r2 : Int)
  | nvWriteStart
  | nvPageOpDone (verify : Bool)
  | nvRecordScan
  | snap (via : Via) (v : Word)
  | clrAll (via : Via) (v : Word)
  | freeze (via : Via) (v : Word)
  | pcSelectWrite (via : Via) (off : BitVec 16) (v : Word)
  | rcRead (via : Via) (off : BitVec 23)
  | lowWordRead (via : Via) (off : BitVec 23)
  | registerWrite (via : Via) (off : BitVec 23) (v : Word)
  | aonPowerOnReset
  | resetN (high : Bool)
  | supervisor (aon : Bool)
  | dbgTrstN (low : Bool)
  | mailboxCompletion (mb : BitVec 3)
  | pcieLinkUp (speed : BitVec 3) (width : BitVec 2)
  | ppsLost
  | engineClockLost (e : Eng) (v : BitVec 6)
  | autoRestoreWindowEnd (e : Eng)
  deriving DecidableEq, Repr

end Sys2Proof
end

