-- ==== Sys2Proof/Machine/Regs.lean ====
section
/-!
DEFINITION. The register map of BAR0: every register of the spec's register tables (00_scope.md R6 to R8; 02 R53, 03 R83,
04 R101, 05 R127, 06 R156, 07 R184, 09 R237, 10 R260, 11 R284, 12 R297, 13 R315, 14 R343, 15 R354), its offset in BAR0
(11 Table 11.2), its fields with access codes and the encodings a table does not reserve, its reset value and the
privilege a write needs. The names R.<register> and F.<register>_<field> are the spec's.
-/
namespace Sys2Proof.Machine

/-- Access codes of Table 0.9 (R6). -/
inductive Acc where
  | ro | rw | w1c | rc | wo
  deriving DecidableEq, Repr, Inhabited

/-- One field: bits hi to lo, its access code, and the encodings min to max that its table does not reserve (R7). -/
structure FieldSpec where
  hi : Nat
  lo : Nat
  acc : Acc
  min : Nat
  max : Nat
  deriving DecidableEq, Repr, Inhabited

/-- A register, or an array of registers at a stride. wpl is the largest privilege number (R287) whose writes it takes. -/
structure RegSpec where
  name : String
  base : Nat
  stride : Nat
  count : Nat
  reset : Nat
  wpl : Nat
  fields : List FieldSpec
  deriving DecidableEq, Repr, Inhabited

/-- Where one field lies: BAR0 offset of its register, lowest bit, width. -/
structure Fld where
  reg : Nat
  lo : Nat
  w : Nat
  deriving DecidableEq, Repr, Inhabited

/-- A field whose every encoding is defined. -/
def rf (hi lo : Nat) (a : Acc) : FieldSpec := ⟨hi, lo, a, 0, 2 ^ 32⟩
/-- A field whose encodings outside min to max are reserved. -/
def rg (hi lo : Nat) (a : Acc) (min max : Nat) : FieldSpec := ⟨hi, lo, a, min, max⟩

/-- The registers of window TB. R53 names no privilege for TB_TOD_SEC_LO, TB_TOD_SEC_HI, TB_AON_PPM and TB_WAKE_WAIT: they take PL1,
as the limit registers do (DESIGN CHOICE, log 59). -/
def regsTB : List RegSpec := [
  ⟨"TB_CFG", 0x50000, 0x0, 1, 0xc, 1, [rf 8 8 .rw, rf 7 7 .rw, rf 6 6 .rw, rg 5 4 .rw 0 2, rf 3 3 .rw, rf 2 0 .rw]⟩,
  ⟨"TB_STAT", 0x50004, 0x0, 1, 0x0, 1, [rf 9 9 .ro, rf 8 8 .ro, rf 7 7 .ro, rf 6 6 .ro, rf 5 5 .ro, rf 4 4 .ro, rf 3 3 .ro, rf 2 0 .ro]⟩,
  ⟨"TB_EVT", 0x50008, 0x0, 1, 0x0, 2, [rf 10 10 .w1c, rf 9 9 .w1c, rf 8 8 .w1c, rf 7 7 .w1c, rf 6 6 .w1c, rf 5 5 .w1c, rf 4 4 .w1c, rf 3 3 .w1c, rf 2 2 .w1c, rf 1 1 .w1c, rf 0 0 .w1c]⟩,
  ⟨"TB_REF_STAT", 0x5000c, 0x0, 1, 0x0, 1, [rf 2 2 .ro, rf 1 1 .ro, rf 0 0 .ro]⟩,
  ⟨"TB_PTP_CFG", 0x50010, 0x0, 1, 0x34000, 1, [rf 17 17 .rw, rf 16 16 .rw, rg 15 12 .rw 0 7, rf 11 11 .rw, rf 10 10 .rw, rg 9 8 .rw 0 2, rf 7 0 .rw]⟩,
  ⟨"TB_PPS_CFG", 0x50014, 0x0, 1, 0x64b, 1, [rg 13 4 .rw 1 500, rf 3 3 .rw, rf 2 2 .rw, rf 1 1 .rw, rf 0 0 .rw]⟩,
  ⟨"TB_UNC", 0x50018, 0x0, 1, 0xffffffff, 1, [rf 31 0 .ro]⟩,
  ⟨"TB_SNAP_CTL", 0x5001c, 0x0, 1, 0x0, 3, [rf 0 0 .wo]⟩,
  ⟨"TB_SNAP_SEC_LO", 0x50020, 0x0, 1, 0x0, 1, [rf 31 0 .ro]⟩,
  ⟨"TB_SNAP_SEC_HI", 0x50024, 0x0, 1, 0x0, 1, [rf 15 0 .ro]⟩,
  ⟨"TB_SNAP_NS", 0x50028, 0x0, 1, 0x0, 1, [rf 29 0 .ro]⟩,
  ⟨"TB_SNAP_FRAC", 0x5002c, 0x0, 1, 0x0, 1, [rf 31 0 .ro]⟩,
  ⟨"TB_SAMPLE_LO", 0x50030, 0x0, 1, 0x0, 1, [rf 31 0 .ro]⟩,
  ⟨"TB_SAMPLE_HI", 0x50034, 0x0, 1, 0x0, 1, [rf 31 0 .ro]⟩] ++ [
  ⟨"TB_OFFSET", 0x50038, 0x0, 1, 0x0, 1, [rf 31 0 .ro]⟩,
  ⟨"TB_SHADOW_OFFSET", 0x5003c, 0x0, 1, 0x80000000, 1, [rf 31 0 .ro]⟩,
  ⟨"TB_FREQ_ADJ", 0x50040, 0x0, 1, 0x0, 1, [rf 31 0 .ro]⟩,
  ⟨"TB_PPS_DIFF", 0x50044, 0x0, 1, 0x0, 1, [rf 31 0 .ro]⟩,
  ⟨"TB_UTC_OFFSET", 0x50048, 0x0, 1, 0x0, 1, [rf 15 0 .ro]⟩,
  ⟨"TB_HO_LIMIT", 0x5004c, 0x0, 1, 0x64, 1, [rf 31 0 .rw]⟩,
  ⟨"TB_HO_AGING", 0x50050, 0x0, 1, 0x100, 1, [rf 31 0 .rw]⟩,
  ⟨"TB_UNC_FLOOR", 0x50054, 0x0, 1, 0x8, 1, [rf 31 0 .rw]⟩,
  ⟨"TB_SLEW_MAX", 0x50058, 0x0, 1, 0x5, 1, [rg 7 0 .rw 1 10]⟩,
  ⟨"TB_TOD_SEC_LO", 0x5005c, 0x0, 1, 0x0, 1, [rf 31 0 .rw]⟩,
  ⟨"TB_TOD_SEC_HI", 0x50060, 0x0, 1, 0x0, 1, [rf 15 0 .rw]⟩,
  ⟨"TB_STEP_CTL", 0x50064, 0x0, 1, 0x0, 1, [rf 0 0 .wo]⟩,
  ⟨"TB_AON_INC_LO", 0x50068, 0x0, 1, 0x94000000, 1, [rf 31 0 .ro]⟩,
  ⟨"TB_AON_INC_HI", 0x5006c, 0x0, 1, 0x7735, 1, [rf 31 0 .ro]⟩] ++ [
  ⟨"TB_AON_PPM", 0x50070, 0x0, 1, 0x200, 1, [rf 31 0 .rw]⟩,
  ⟨"TB_WAKE_WAIT", 0x50074, 0x0, 1, 0x7d0, 1, [rf 31 0 .rw]⟩,
  ⟨"TB_HO_FERR", 0x50078, 0x0, 1, 0x0, 1, [rf 31 0 .ro]⟩]

/-- The registers of window VL. -/
def regsVL : List RegSpec := [
  ⟨"VL_CFG", 0x60000, 0x0, 1, 0xa0841, 1, [rf 24 24 .rw, rf 23 16 .rw, rf 15 8 .rw, rg 7 4 .rw 0 9, rf 0 0 .rw]⟩,
  ⟨"VL_VAT_HELD_LO", 0x60008, 0x0, 1, 0xffffffff, 1, [rf 31 0 .ro]⟩,
  ⟨"VL_VAT_HELD_HI", 0x6000c, 0x0, 1, 0xffffffff, 1, [rf 31 0 .ro]⟩,
  ⟨"VL_LANE_UP0", 0x60010, 0x0, 1, 0x0, 1, [rf 31 0 .ro]⟩,
  ⟨"VL_LANE_UP1", 0x60014, 0x0, 1, 0x0, 1, [rf 31 0 .ro]⟩,
  ⟨"VL_LANE_UP2", 0x60018, 0x0, 1, 0x0, 1, [rf 31 0 .ro]⟩,
  ⟨"VL_LANE_UP3", 0x6001c, 0x0, 1, 0x0, 1, [rf 31 0 .ro]⟩,
  ⟨"VL_LCFG", 0x61000, 0x40, 128, 0x5, 1, [rf 4 4 .wo, rf 3 3 .rw, rf 2 1 .rw, rf 0 0 .rw]⟩,
  ⟨"VL_LSTAT", 0x61004, 0x40, 128, 0x0, 1, [rf 14 14 .ro, rf 13 13 .ro, rf 12 12 .ro, rf 11 11 .ro, rf 10 10 .ro, rf 9 9 .ro, rf 8 8 .ro, rf 7 4 .ro, rf 3 0 .ro]⟩,
  ⟨"VL_LDLY_DN", 0x61008, 0x40, 128, 0x0, 1, [rf 15 0 .ro]⟩,
  ⟨"VL_LDLY_UP", 0x6100c, 0x40, 128, 0x0, 1, [rf 15 0 .ro]⟩,
  ⟨"VL_LTOFF", 0x61010, 0x40, 128, 0x80000000, 1, [rf 31 0 .ro]⟩,
  ⟨"VL_LASYM", 0x61014, 0x40, 128, 0x0, 1, [rf 15 0 .rw]⟩,
  ⟨"VL_EIC_ID_LO", 0x61018, 0x40, 128, 0x0, 1, [rf 31 0 .ro]⟩] ++ [
  ⟨"VL_EIC_ID_HI", 0x6101c, 0x40, 128, 0x0, 1, [rf 7 0 .ro]⟩,
  ⟨"VL_CRC_ERR", 0x61020, 0x40, 128, 0x0, 1, [rf 31 0 .rc]⟩,
  ⟨"VL_BLK_ERR", 0x61024, 0x40, 128, 0x0, 1, [rf 31 0 .rc]⟩,
  ⟨"VL_SEQ_ERR", 0x61028, 0x40, 128, 0x0, 1, [rf 31 0 .rc]⟩,
  ⟨"VL_LOCK_LOSS", 0x6102c, 0x40, 128, 0x0, 1, [rf 31 0 .rc]⟩,
  ⟨"VL_RETRAIN", 0x61030, 0x40, 128, 0x0, 1, [rf 31 0 .rc]⟩,
  ⟨"VL_EIC_CERR", 0x61034, 0x40, 128, 0x0, 1, [rf 15 0 .ro]⟩]

/-- The registers of window LEA. -/
def regsLEA : List RegSpec := [
  ⟨"LEA_AFSUM", 0x70800, 0x4, 64, 0x0, 2, [rf 16 8 .ro, rf 7 0 .ro]⟩,
  ⟨"LEA_LFSUM", 0x70900, 0x4, 64, 0x0, 2, [rf 16 8 .ro, rf 7 0 .ro]⟩]

/-- The registers of window LEB. -/
def regsLEB : List RegSpec := [
  ⟨"LEB_AFSUM", 0x80800, 0x4, 64, 0x0, 2, [rf 16 8 .ro, rf 7 0 .ro]⟩,
  ⟨"LEB_LFSUM", 0x80900, 0x4, 64, 0x0, 2, [rf 16 8 .ro, rf 7 0 .ro]⟩]

/-- The registers of window GL. -/
def regsGL : List RegSpec := [
  ⟨"GL_CTL", 0xb0000, 0x0, 1, 0x0, 2, [rf 0 0 .rw]⟩,
  ⟨"GL_STAT", 0xb0004, 0x0, 1, 0x0, 2, [rf 27 16 .ro, rf 15 8 .ro, rf 5 5 .ro, rf 4 4 .ro, rf 3 3 .ro, rf 2 2 .ro, rf 1 1 .ro, rf 0 0 .ro]⟩,
  ⟨"GL_INH", 0xb0008, 0x0, 1, 0x80, 2, [rf 7 7 .ro, rf 6 6 .ro, rf 5 5 .ro, rf 4 4 .ro, rf 3 3 .ro, rf 2 2 .ro, rf 1 1 .ro, rf 0 0 .ro]⟩,
  ⟨"GL_EVT", 0xb000c, 0x0, 1, 0x0, 2, [rf 7 7 .w1c, rf 6 6 .w1c, rf 5 5 .w1c, rf 4 4 .w1c, rf 3 3 .w1c, rf 2 2 .w1c, rf 1 1 .w1c, rf 0 0 .w1c]⟩,
  ⟨"GL_ANCHOR_LO", 0xb0010, 0x0, 1, 0x0, 2, [rf 31 0 .ro]⟩,
  ⟨"GL_ANCHOR_HI", 0xb0014, 0x0, 1, 0x0, 2, [rf 31 0 .ro]⟩,
  ⟨"GL_CYCLEN", 0xb0018, 0x0, 1, 0x0, 2, [rf 19 0 .ro]⟩,
  ⟨"GL_NENT", 0xb001c, 0x0, 1, 0x0, 2, [rf 12 0 .ro]⟩,
  ⟨"GL_SLOT_LO", 0xb0020, 0x0, 1, 0x0, 2, [rf 31 0 .ro]⟩,
  ⟨"GL_SLOT_HI", 0xb0024, 0x0, 1, 0x0, 2, [rf 31 0 .ro]⟩,
  ⟨"GL_NEXTB_LO", 0xb0028, 0x0, 1, 0x0, 2, [rf 31 0 .ro]⟩,
  ⟨"GL_NEXTB_HI", 0xb002c, 0x0, 1, 0x0, 2, [rf 31 0 .ro]⟩,
  ⟨"GL_FORM", 0xb0030, 0x0, 1, 0x0, 2, [rf 11 0 .ro, rf 12 12 .ro, rf 27 16 .ro, rf 28 28 .ro]⟩,
  ⟨"GL_ACT_LO", 0xb0034, 0x0, 1, 0x0, 2, [rf 31 0 .ro]⟩] ++ [
  ⟨"GL_ACT_HI", 0xb0038, 0x0, 1, 0x0, 2, [rf 31 0 .ro]⟩,
  ⟨"GL_PCHK_TH", 0xb003c, 0x0, 1, 0x67, 1, [rf 15 0 .rw]⟩,
  ⟨"GL_LASTCHG", 0xb0040, 0x0, 1, 0x0, 2, [rf 13 0 .ro]⟩,
  ⟨"GL_PRESSES", 0xb0044, 0x0, 1, 0x0, 2, [rf 31 0 .rc]⟩,
  ⟨"GL_NOCHG", 0xb0048, 0x0, 1, 0x0, 2, [rf 31 0 .rc]⟩,
  ⟨"GL_FALLBACK", 0xb004c, 0x0, 1, 0x0, 2, [rf 31 0 .rc]⟩,
  ⟨"GL_REVOKE", 0xb0050, 0x0, 1, 0x0, 2, [rf 31 0 .rc]⟩,
  ⟨"GL_PMISS", 0xb0054, 0x0, 1, 0x0, 2, [rf 31 0 .rc]⟩,
  ⟨"GL_PMISS_CELLS", 0xb0058, 0x0, 1, 0x0, 2, [rf 31 0 .rc]⟩]

/-- The registers of window FS. -/
def regsFS : List RegSpec := [
  ⟨"FS_STAT", 0xa0000, 0x0, 1, 0x0, 2, [rf 12 0 .ro, rf 28 16 .ro]⟩,
  ⟨"FS_CE_CNT", 0xa0004, 0x0, 1, 0x0, 2, [rf 31 0 .rc]⟩,
  ⟨"FS_UE_CNT", 0xa0008, 0x0, 1, 0x0, 2, [rf 31 0 .rc]⟩,
  ⟨"FS_SCRUB_PASS", 0xa000c, 0x0, 1, 0x0, 2, [rf 31 0 .ro]⟩]

/-- The registers of window DE. -/
def regsDE : List RegSpec := [
  ⟨"DE_CFG", 0xc0000, 0x0, 1, 0x18001, 2, [rf 16 16 .rw, rf 15 8 .rw, rf 0 0 .rw]⟩,
  ⟨"DE_STAT", 0xc0004, 0x0, 1, 0x0, 2, [rf 26 16 .ro, rf 3 3 .ro, rf 2 2 .ro, rf 1 1 .ro, rf 0 0 .ro]⟩,
  ⟨"DE_EVT", 0xc0008, 0x0, 1, 0x0, 2, [rf 5 5 .w1c, rf 4 4 .w1c, rf 3 3 .w1c, rf 2 2 .w1c, rf 1 1 .w1c, rf 0 0 .w1c]⟩,
  ⟨"DE_LASTRUN", 0xc000c, 0x0, 1, 0x0, 2, [rf 18 16 .ro, rf 15 12 .ro, rf 11 0 .ro]⟩,
  ⟨"DE_SCORE_LO", 0xc0010, 0x0, 1, 0x0, 2, [rf 31 0 .ro]⟩,
  ⟨"DE_SCORE_HI", 0xc0014, 0x0, 1, 0x0, 2, [rf 15 0 .ro]⟩,
  ⟨"DE_STALE_US", 0xc0018, 0x0, 1, 0xc8, 2, [rg 15 0 .rw 20 65535]⟩,
  ⟨"DE_ANN_DA_LO", 0xc001c, 0x0, 1, 0x4c000001, 1, [rf 31 0 .rw]⟩,
  ⟨"DE_ANN_DA_HI", 0xc0020, 0x0, 1, 0x342, 1, [rf 15 0 .rw]⟩,
  ⟨"DE_REPORTS", 0xc0024, 0x0, 1, 0x0, 2, [rf 31 0 .rc]⟩,
  ⟨"DE_DUP", 0xc0028, 0x0, 1, 0x0, 2, [rf 31 0 .rc]⟩,
  ⟨"DE_RATE", 0xc002c, 0x0, 1, 0x0, 2, [rf 31 0 .rc]⟩,
  ⟨"DE_BADREP", 0xc0030, 0x0, 1, 0x0, 2, [rf 31 0 .rc]⟩,
  ⟨"DE_BADENT", 0xc0034, 0x0, 1, 0x0, 2, [rf 31 0 .rc]⟩] ++ [
  ⟨"DE_RED", 0xc0038, 0x0, 1, 0x0, 2, [rf 31 0 .rc]⟩,
  ⟨"DE_QDROP", 0xc003c, 0x0, 1, 0x0, 2, [rf 31 0 .rc]⟩,
  ⟨"DE_BEAD_SAT", 0xc0040, 0x0, 1, 0x0, 2, [rf 31 0 .rc]⟩,
  ⟨"DE_RUNS", 0xc0044, 0x0, 1, 0x0, 2, [rf 31 0 .rc]⟩,
  ⟨"DE_IDLE", 0xc0048, 0x0, 1, 0x0, 2, [rf 31 0 .rc]⟩,
  ⟨"DE_INVALID", 0xc004c, 0x0, 1, 0x0, 2, [rf 31 0 .rc]⟩,
  ⟨"DE_CE", 0xc0050, 0x0, 1, 0x0, 2, [rf 31 0 .rc]⟩,
  ⟨"DE_UE", 0xc0054, 0x0, 1, 0x0, 2, [rf 31 0 .rc]⟩]

/-- The registers of window RPA. -/
def regsRPA : List RegSpec := [
  ⟨"RPA_CFG", 0xd0000, 0x0, 1, 0x1f, 1, [rf 4 4 .rw, rf 3 3 .rw, rf 2 2 .rw, rf 1 1 .rw, rf 0 0 .rw]⟩,
  ⟨"RPA_STAT", 0xd0004, 0x0, 1, 0x0, 1, [rf 3 3 .ro, rf 2 2 .ro, rf 1 1 .ro, rf 0 0 .ro]⟩,
  ⟨"RPA_MAC_LO", 0xd0008, 0x0, 1, 0x0, 1, [rf 31 0 .rw]⟩,
  ⟨"RPA_MAC_HI", 0xd000c, 0x0, 1, 0x0, 1, [rf 15 0 .rw]⟩,
  ⟨"RPA_RX_NAERN", 0xd0010, 0x0, 1, 0x0, 1, [rf 31 0 .rc]⟩,
  ⟨"RPA_RX_BAD", 0xd0014, 0x0, 1, 0x0, 1, [rf 31 0 .rc]⟩,
  ⟨"RPA_RX_OTHER", 0xd0018, 0x0, 1, 0x0, 1, [rf 31 0 .rc]⟩,
  ⟨"RPA_TX_ANN", 0xd001c, 0x0, 1, 0x0, 1, [rf 31 0 .rc]⟩,
  ⟨"RPA_TX_REVOKE", 0xd0020, 0x0, 1, 0x0, 1, [rf 31 0 .rc]⟩,
  ⟨"RPA_FEC_CORR", 0xd0024, 0x0, 1, 0x0, 1, [rf 31 0 .rc]⟩,
  ⟨"RPA_FEC_UNCORR", 0xd0028, 0x0, 1, 0x0, 1, [rf 31 0 .rc]⟩,
  ⟨"RPA_LINK_DOWN", 0xd002c, 0x0, 1, 0x0, 1, [rf 31 0 .rc]⟩]

/-- The registers of window RPB. -/
def regsRPB : List RegSpec := [
  ⟨"RPB_CFG", 0xe0000, 0x0, 1, 0x1f, 1, [rf 4 4 .rw, rf 3 3 .rw, rf 2 2 .rw, rf 1 1 .rw, rf 0 0 .rw]⟩,
  ⟨"RPB_STAT", 0xe0004, 0x0, 1, 0x0, 1, [rf 3 3 .ro, rf 2 2 .ro, rf 1 1 .ro, rf 0 0 .ro]⟩,
  ⟨"RPB_MAC_LO", 0xe0008, 0x0, 1, 0x0, 1, [rf 31 0 .rw]⟩,
  ⟨"RPB_MAC_HI", 0xe000c, 0x0, 1, 0x0, 1, [rf 15 0 .rw]⟩,
  ⟨"RPB_RX_NAERN", 0xe0010, 0x0, 1, 0x0, 1, [rf 31 0 .rc]⟩,
  ⟨"RPB_RX_BAD", 0xe0014, 0x0, 1, 0x0, 1, [rf 31 0 .rc]⟩,
  ⟨"RPB_RX_OTHER", 0xe0018, 0x0, 1, 0x0, 1, [rf 31 0 .rc]⟩,
  ⟨"RPB_TX_ANN", 0xe001c, 0x0, 1, 0x0, 1, [rf 31 0 .rc]⟩,
  ⟨"RPB_TX_REVOKE", 0xe0020, 0x0, 1, 0x0, 1, [rf 31 0 .rc]⟩,
  ⟨"RPB_FEC_CORR", 0xe0024, 0x0, 1, 0x0, 1, [rf 31 0 .rc]⟩,
  ⟨"RPB_FEC_UNCORR", 0xe0028, 0x0, 1, 0x0, 1, [rf 31 0 .rc]⟩,
  ⟨"RPB_LINK_DOWN", 0xe002c, 0x0, 1, 0x0, 1, [rf 31 0 .rc]⟩]

/-- The registers of window CAL. -/
def regsCAL : List RegSpec := [
  ⟨"CAL_STAT", 0xf0000, 0x0, 1, 0x0, 1, [rf 28 28 .ro, rf 27 24 .ro, rf 23 20 .ro, rf 19 17 .ro, rf 16 9 .ro, rf 8 6 .ro, rf 5 1 .ro, rf 0 0 .ro]⟩,
  ⟨"CAL_EVT", 0xf0004, 0x0, 1, 0x0, 2, [rf 6 6 .w1c, rf 5 5 .w1c, rf 4 4 .w1c, rf 3 3 .w1c, rf 2 2 .w1c, rf 1 1 .w1c, rf 0 0 .w1c]⟩,
  ⟨"CAL_LRX0", 0xf1000, 0x10, 128, 0x20, 1, [rf 13 8 .rw, rf 5 0 .rw]⟩,
  ⟨"CAL_LRX1", 0xf1004, 0x10, 128, 0x0, 1, [rf 29 24 .rw, rf 21 16 .rw, rf 13 8 .rw, rf 5 0 .rw]⟩,
  ⟨"CAL_RPA_TXLAT", 0xf0010, 0x0, 1, 0x0, 1, [rf 15 0 .rw]⟩,
  ⟨"CAL_RPA_RXLAT", 0xf0014, 0x0, 1, 0x0, 1, [rf 15 0 .rw]⟩,
  ⟨"CAL_RPB_TXLAT", 0xf0018, 0x0, 1, 0x0, 1, [rf 15 0 .rw]⟩,
  ⟨"CAL_RPB_RXLAT", 0xf001c, 0x0, 1, 0x0, 1, [rf 15 0 .rw]⟩,
  ⟨"CAL_RUNS", 0xf0020, 0x0, 1, 0x0, 1, [rf 31 0 .rc]⟩,
  ⟨"CAL_FAILS", 0xf0024, 0x0, 1, 0x0, 1, [rf 31 0 .rc]⟩,
  ⟨"CAL_TURNS", 0xf0028, 0x0, 1, 0x0, 1, [rf 31 0 .rc]⟩,
  ⟨"CAL_CAP_DROP", 0xf002c, 0x0, 1, 0x0, 1, [rf 31 0 .rc]⟩,
  ⟨"CAL_LTXLAT", 0xf1008, 0x10, 128, 0x0, 1, [rf 15 0 .rw]⟩,
  ⟨"CAL_LRXLAT", 0xf100c, 0x10, 128, 0x0, 1, [rf 15 0 .rw]⟩]

/-- The registers of window NV. -/
def regsNV : List RegSpec := [
  ⟨"NV_STAT", 0x100000, 0x0, 1, 0x0, 1, [rf 15 8 .ro, rf 3 3 .ro, rf 2 2 .ro, rf 1 1 .ro, rf 0 0 .ro]⟩,
  ⟨"NV_EVT", 0x100004, 0x0, 1, 0x0, 2, [rf 5 5 .w1c, rf 4 4 .w1c, rf 3 3 .w1c, rf 2 2 .w1c, rf 1 1 .w1c, rf 0 0 .w1c]⟩,
  ⟨"NV_WRITES", 0x100008, 0x0, 1, 0x0, 1, [rf 31 0 .rc]⟩,
  ⟨"NV_CRC_FAIL", 0x10000c, 0x0, 1, 0x0, 1, [rf 31 0 .rc]⟩,
  ⟨"NV_REPAIRS", 0x100010, 0x0, 1, 0x0, 1, [rf 31 0 .rc]⟩,
  ⟨"NV_JSEQ", 0x100014, 0x0, 1, 0x0, 1, [rf 31 0 .ro]⟩,
  ⟨"NV_WEAR_MAX", 0x100018, 0x0, 1, 0x0, 1, [rf 31 0 .ro]⟩,
  ⟨"NV_REFRESH_DAYS", 0x10001c, 0x0, 1, 0x2da, 1, [rg 15 0 .rw 30 3650]⟩]

/-- The registers of window TW. -/
def regsTW : List RegSpec := [
  ⟨"TW_CFG", 0x90000, 0x0, 1, 0xa30, 1, [rf 16 16 .rw, rg 15 8 .rw 1 255, rg 7 4 .rw 2 15, rf 0 0 .rw]⟩,
  ⟨"TW_CTL", 0x90004, 0x0, 1, 0x0, 1, [rf 4 4 .wo, rf 3 3 .wo, rf 2 2 .wo, rf 1 1 .wo, rf 0 0 .wo]⟩,
  ⟨"TW_STAT", 0x90008, 0x0, 1, 0x9, 1, [rf 19 18 .ro, rf 17 17 .ro, rf 16 16 .ro, rf 15 12 .ro, rf 11 8 .ro, rf 7 7 .ro, rf 6 6 .ro, rf 5 5 .ro, rf 3 2 .ro, rf 1 0 .ro]⟩,
  ⟨"TW_EVT", 0x9000c, 0x0, 1, 0x0, 2, [rf 12 12 .w1c, rf 11 11 .w1c, rf 10 10 .w1c, rf 9 9 .w1c, rf 8 8 .w1c, rf 7 7 .w1c, rf 6 6 .w1c, rf 5 5 .w1c, rf 4 4 .w1c, rf 3 3 .w1c, rf 2 2 .w1c, rf 1 1 .w1c, rf 0 0 .w1c]⟩,
  ⟨"TW_HEALTH_A", 0x90010, 0x0, 1, 0x0, 1, [rf 31 26 .ro, rf 25 18 .ro, rf 8 8 .ro, rf 7 7 .ro, rf 6 0 .ro]⟩,
  ⟨"TW_HEALTH_B", 0x90014, 0x0, 1, 0x0, 1, [rf 31 26 .ro, rf 25 18 .ro, rf 8 8 .ro, rf 7 7 .ro, rf 6 0 .ro]⟩,
  ⟨"TW_LASTMIS", 0x90018, 0x0, 1, 0x0, 1, [rf 20 20 .ro, rf 19 19 .ro, rf 18 11 .ro, rf 10 6 .ro, rf 5 0 .ro]⟩,
  ⟨"TW_LASTMIS_N_LO", 0x9001c, 0x0, 1, 0x0, 1, [rf 31 0 .ro]⟩,
  ⟨"TW_LASTMIS_N_HI", 0x90020, 0x0, 1, 0x0, 1, [rf 31 0 .ro]⟩,
  ⟨"TW_VRESYNC_LO", 0x90024, 0x0, 1, 0x0, 1, [rf 31 0 .ro]⟩,
  ⟨"TW_VRESYNC_HI", 0x90028, 0x0, 1, 0x0, 1, [rf 31 0 .ro]⟩,
  ⟨"TW_XF_LO", 0x9002c, 0x0, 1, 0x0, 1, [rf 31 0 .ro]⟩,
  ⟨"TW_XF_HI", 0x90030, 0x0, 1, 0x0, 1, [rf 31 0 .ro]⟩,
  ⟨"TW_MISWIN", 0x90034, 0x0, 1, 0x0, 1, [rf 3 0 .ro]⟩] ++ [
  ⟨"TW_MISMATCH", 0x90038, 0x0, 1, 0x0, 1, [rf 31 0 .rc]⟩,
  ⟨"TW_STATEDIFF", 0x9003c, 0x0, 1, 0x0, 1, [rf 31 0 .rc]⟩,
  ⟨"TW_FAILOVER", 0x90040, 0x0, 1, 0x0, 1, [rf 31 0 .rc]⟩,
  ⟨"TW_REMOVALS", 0x90044, 0x0, 1, 0x0, 1, [rf 31 0 .rc]⟩,
  ⟨"TW_RESYNC", 0x90048, 0x0, 1, 0x0, 1, [rf 31 0 .rc]⟩,
  ⟨"TW_RESYNC_FAIL", 0x9004c, 0x0, 1, 0x0, 1, [rf 31 0 .rc]⟩,
  ⟨"TW_CE_A", 0x90050, 0x0, 1, 0x0, 1, [rf 31 0 .rc]⟩,
  ⟨"TW_CE_B", 0x90054, 0x0, 1, 0x0, 1, [rf 31 0 .rc]⟩]

/-- The registers of window HIF. -/
def regsHIF : List RegSpec := [
  ⟨"HIF_STAT", 0x4, 0x0, 1, 0x0, 2, [rf 9 9 .ro, rf 8 8 .ro, rf 6 4 .ro, rf 1 0 .ro]⟩,
  ⟨"HIF_SVC_CTL", 0x20, 0x0, 1, 0x0, 2, [rf 0 0 .wo]⟩,
  ⟨"HIF_ST_CTL", 0x30, 0x0, 1, 0x2, 1, [rf 1 1 .rw, rf 0 0 .wo]⟩,
  ⟨"HIF_ST_STAT", 0x34, 0x0, 1, 0x0, 2, [rf 15 8 .ro, rf 3 3 .ro, rf 2 2 .ro, rf 1 0 .ro]⟩,
  ⟨"HIF_EVT", 0x3c, 0x0, 1, 0x0, 2, [rf 8 8 .w1c, rf 7 7 .w1c, rf 6 6 .w1c, rf 5 5 .w1c, rf 4 4 .w1c, rf 3 3 .w1c, rf 2 2 .w1c, rf 1 1 .w1c, rf 0 0 .w1c]⟩,
  ⟨"HIF_ID", 0x0, 0x0, 1, 0x10240100, 2, [rf 31 0 .ro]⟩,
  ⟨"HIF_SVC_CODE_LO", 0x10, 0x0, 1, 0x0, 0, [rf 31 0 .wo]⟩,
  ⟨"HIF_SVC_CODE_HI", 0x14, 0x0, 1, 0x0, 0, [rf 31 0 .wo]⟩,
  ⟨"HIF_UNLOCK_LO", 0x18, 0x0, 1, 0x0, 2, [rf 31 0 .wo]⟩,
  ⟨"HIF_UNLOCK_HI", 0x1c, 0x0, 1, 0x0, 2, [rf 31 0 .wo]⟩,
  ⟨"HIF_SVC_TIME", 0x24, 0x0, 1, 0x258, 1, [rg 15 0 .rw 60 3600]⟩,
  ⟨"HIF_SVC_LEFT", 0x28, 0x0, 1, 0x0, 2, [rf 15 0 .ro]⟩,
  ⟨"HIF_WDOG", 0x38, 0x0, 1, 0xc8, 1, [rg 15 0 .rw 50 5000]⟩,
  ⟨"HIF_FW_VER", 0x40, 0x0, 1, 0x0, 2, [rf 31 0 .ro]⟩]

/-- The registers of window MB. -/
def regsMB : List RegSpec := [
  ⟨"MB_STAT", 0x10004, 0x10, 8, 0x0, 2, [rf 31 16 .ro, rf 2 2 .ro, rf 1 0 .ro]⟩,
  ⟨"MB_DB", 0x10000, 0x10, 8, 0x0, 2, [rf 31 0 .wo]⟩,
  ⟨"MB_CFG", 0x10008, 0x10, 8, 0x1, 2, [rf 0 0 .rw, rf 1 1 .rw]⟩,
  ⟨"MB_CMDS", 0x1000c, 0x10, 8, 0x0, 2, [rf 31 0 .rc]⟩]

/-- The registers of window EVQ. -/
def regsEVQ : List RegSpec := [
  ⟨"EVQ_CFG", 0x20008, 0x40, 16, 0xc, 2, [rf 31 16 .rw, rg 12 10 .rw 0 4, rg 7 1 .rw 6 20, rf 0 0 .rw]⟩,
  ⟨"EVQ_BASE_LO", 0x20000, 0x40, 16, 0x0, 2, [rf 31 12 .rw]⟩,
  ⟨"EVQ_BASE_HI", 0x20004, 0x40, 16, 0x0, 2, [rf 31 0 .rw]⟩,
  ⟨"EVQ_PI", 0x2000c, 0x40, 16, 0x0, 2, [rf 31 0 .ro]⟩,
  ⟨"EVQ_CI", 0x20010, 0x40, 16, 0x0, 2, [rf 31 0 .rw]⟩,
  ⟨"EVQ_WB_LO", 0x20014, 0x40, 16, 0x0, 2, [rf 31 3 .rw]⟩,
  ⟨"EVQ_WB_HI", 0x20018, 0x40, 16, 0x0, 2, [rf 31 0 .rw]⟩,
  ⟨"EVQ_MOD", 0x2001c, 0x40, 16, 0x1, 2, [rg 7 0 .rw 1 255, rf 17 8 .rw]⟩,
  ⟨"EVQ_DROP", 0x20020, 0x40, 16, 0x0, 2, [rf 31 0 .rc]⟩,
  ⟨"EVQ_PENDING", 0x20800, 0x0, 1, 0x0, 2, [rf 8 0 .ro]⟩,
  ⟨"EVQ_PEND_DROP", 0x20804, 0x0, 1, 0x0, 2, [rf 31 0 .rc]⟩,
  ⟨"EVQ_UNROUTED", 0x20808, 0x0, 1, 0x0, 2, [rf 31 0 .rc]⟩]

/-- The registers of window TRC. -/
def regsTRC : List RegSpec := [
  ⟨"TRC_CFG", 0x30008, 0x40, 8, 0x20, 2, [rf 21 19 .rw, rg 6 1 .rw 16 39, rf 0 0 .rw]⟩,
  ⟨"TRC_BASE_LO", 0x30000, 0x40, 8, 0x0, 2, [rf 31 12 .rw]⟩,
  ⟨"TRC_BASE_HI", 0x30004, 0x40, 8, 0x0, 2, [rf 31 0 .rw]⟩,
  ⟨"TRC_PI_LO", 0x30010, 0x40, 8, 0x0, 2, [rf 31 0 .ro]⟩,
  ⟨"TRC_PI_HI", 0x30014, 0x40, 8, 0x0, 2, [rf 31 0 .ro]⟩,
  ⟨"TRC_CI_LO", 0x30018, 0x40, 8, 0x0, 2, [rf 31 0 .rw]⟩,
  ⟨"TRC_CI_HI", 0x3001c, 0x40, 8, 0x0, 2, [rf 31 0 .rw]⟩,
  ⟨"TRC_WB_LO", 0x30020, 0x40, 8, 0x0, 2, [rf 31 0 .rw]⟩,
  ⟨"TRC_WB_HI", 0x30024, 0x40, 8, 0x0, 2, [rf 31 0 .rw]⟩,
  ⟨"TRC_DROP", 0x30028, 0x40, 8, 0x0, 2, [rf 31 0 .rc]⟩]

/-- The registers of window BM. -/
def regsBM : List RegSpec := [
  ⟨"BM_CFG", 0x110000, 0x0, 1, 0x100010, 1, [rg 31 16 .rw 1 65535, rf 7 0 .rw]⟩,
  ⟨"BM_STAT", 0x110004, 0x0, 1, 0x0, 2, [rf 29 24 .ro, rf 23 16 .ro, rf 15 8 .ro, rf 0 0 .ro]⟩,
  ⟨"BM_EVT", 0x110008, 0x0, 1, 0x0, 2, [rf 6 6 .w1c, rf 5 5 .w1c, rf 4 4 .w1c, rf 3 3 .w1c, rf 2 2 .w1c, rf 1 1 .w1c, rf 0 0 .w1c]⟩,
  ⟨"BM_ERR_INFO", 0x11000c, 0x0, 1, 0x0, 2, [rf 31 31 .w1c, rf 30 28 .ro, rf 27 24 .ro, rf 23 22 .ro, rf 21 20 .ro, rf 19 16 .ro, rf 15 15 .ro, rf 14 12 .ro, rf 3 0 .ro]⟩,
  ⟨"BM_QOS_0", 0x110020, 0x0, 1, 0x248c, 1, [rf 15 12 .rw, rf 11 8 .rw, rf 7 4 .rw, rf 3 0 .rw]⟩,
  ⟨"BM_QOS_1", 0x110024, 0x0, 1, 0x248e, 1, [rf 15 12 .rw, rf 11 8 .rw, rf 7 4 .rw, rf 3 0 .rw]⟩,
  ⟨"BM_QOS_2", 0x110028, 0x0, 1, 0x264d, 1, [rf 15 12 .rw, rf 11 8 .rw, rf 7 4 .rw, rf 3 0 .rw]⟩,
  ⟨"BM_QOS_3", 0x11002c, 0x0, 1, 0x2488, 1, [rf 15 12 .rw, rf 11 8 .rw, rf 7 4 .rw, rf 3 0 .rw]⟩,
  ⟨"BM_QOS_4", 0x110030, 0x0, 1, 0x248a, 1, [rf 15 12 .rw, rf 11 8 .rw, rf 7 4 .rw, rf 3 0 .rw]⟩,
  ⟨"BM_QOS_5", 0x110034, 0x0, 1, 0x1111, 1, [rf 15 12 .rw, rf 11 8 .rw, rf 7 4 .rw, rf 3 0 .rw]⟩,
  ⟨"BM_SLICE", 0x110044, 0x0, 1, 0x0, 1, [rf 13 6 .rw, rf 5 0 .rw]⟩,
  ⟨"BM_SLICE_EFF", 0x110048, 0x0, 1, 0x0, 2, [rf 13 6 .ro, rf 5 0 .ro]⟩,
  ⟨"BM_ERR_ADDR_LO", 0x110010, 0x0, 1, 0x0, 2, [rf 31 0 .ro]⟩,
  ⟨"BM_ERR_ADDR_HI", 0x110014, 0x0, 1, 0x0, 2, [rf 31 0 .ro]⟩] ++ [
  ⟨"BM_ERR_N_LO", 0x110018, 0x0, 1, 0x0, 2, [rf 31 0 .ro]⟩,
  ⟨"BM_ERR_N_HI", 0x11001c, 0x0, 1, 0x0, 2, [rf 31 0 .ro]⟩,
  ⟨"BM_PARK", 0x110040, 0x0, 1, 0xff, 1, [rf 7 0 .rw]⟩,
  ⟨"BM_LIMIT_0", 0x110050, 0x0, 1, 0x1010, 2, [rf 15 0 .ro]⟩,
  ⟨"BM_LIMIT_1", 0x110054, 0x0, 1, 0x2010, 2, [rf 15 0 .ro]⟩,
  ⟨"BM_LIMIT_2", 0x110058, 0x0, 1, 0x40, 2, [rf 15 0 .ro]⟩,
  ⟨"BM_LIMIT_3", 0x11005c, 0x0, 1, 0x2010, 2, [rf 15 0 .ro]⟩,
  ⟨"BM_LIMIT_4", 0x110060, 0x0, 1, 0x808, 2, [rf 15 0 .ro]⟩,
  ⟨"BM_LIMIT_5", 0x110064, 0x0, 1, 0x101, 2, [rf 15 0 .ro]⟩,
  ⟨"BM_PRIV_CNT", 0x110070, 0x0, 1, 0x0, 2, [rf 31 0 .rc]⟩,
  ⟨"BM_DEC_CNT", 0x110074, 0x0, 1, 0x0, 2, [rf 31 0 .rc]⟩,
  ⟨"BM_SLV_CNT", 0x110078, 0x0, 1, 0x0, 2, [rf 31 0 .rc]⟩,
  ⟨"BM_TOUT_CNT", 0x11007c, 0x0, 1, 0x0, 2, [rf 31 0 .rc]⟩,
  ⟨"BM_RST_CNT", 0x110080, 0x0, 1, 0x0, 2, [rf 31 0 .rc]⟩]

/-- The registers of window FC. -/
def regsFC : List RegSpec := [
  ⟨"FC_STAT", 0x120000, 0x0, 1, 0x0, 2, [rf 29 24 .ro, rf 23 16 .ro, rf 15 15 .ro, rf 13 12 .ro, rf 11 11 .ro, rf 10 10 .ro, rf 9 9 .ro, rf 8 8 .ro, rf 3 0 .w1c]⟩,
  ⟨"FC_CFG", 0x120004, 0x0, 1, 0x6, 1, [rf 2 2 .rw, rf 1 1 .rw, rf 0 0 .rw]⟩,
  ⟨"FC_SAFE_CTL", 0x120008, 0x0, 1, 0x0, 1, [rf 2 2 .wo, rf 1 1 .wo, rf 0 0 .wo]⟩,
  ⟨"FC_CLR", 0x12000c, 0x0, 1, 0x0, 2, [rf 4 4 .wo, rf 3 3 .wo, rf 2 2 .wo, rf 1 1 .wo, rf 0 0 .wo]⟩,
  ⟨"FC_EVT", 0x120010, 0x0, 1, 0x0, 2, [rf 5 5 .w1c, rf 4 4 .w1c, rf 3 3 .w1c, rf 2 2 .w1c, rf 1 1 .w1c, rf 0 0 .w1c]⟩,
  ⟨"FC_FIRST_CODE", 0x120018, 0x0, 1, 0x0, 1, [rf 20 20 .ro, rf 19 19 .ro, rf 18 16 .ro, rf 15 0 .ro]⟩,
  ⟨"FC_FIRST_SRC", 0x120014, 0x0, 1, 0x0, 1, [rf 27 0 .ro]⟩,
  ⟨"FC_FIRST_INFO", 0x12001c, 0x0, 1, 0x0, 1, [rf 31 0 .ro]⟩,
  ⟨"FC_FIRST_N_LO", 0x120020, 0x0, 1, 0x0, 1, [rf 31 0 .ro]⟩,
  ⟨"FC_FIRST_N_HI", 0x120024, 0x0, 1, 0x0, 1, [rf 31 0 .ro]⟩,
  ⟨"FC_SAFE_SRC", 0x120028, 0x0, 1, 0x0, 1, [rf 27 0 .ro]⟩,
  ⟨"FC_SAFE_CODE", 0x12002c, 0x0, 1, 0x0, 1, [rf 15 0 .ro]⟩,
  ⟨"FC_SAFE_N_LO", 0x120030, 0x0, 1, 0x0, 1, [rf 31 0 .ro]⟩,
  ⟨"FC_SAFE_N_HI", 0x120034, 0x0, 1, 0x0, 1, [rf 31 0 .ro]⟩] ++ [
  ⟨"FC_NOPRESS_LO", 0x120038, 0x0, 1, 0x0, 1, [rf 31 0 .ro]⟩,
  ⟨"FC_NOPRESS_HI", 0x12003c, 0x0, 1, 0x0, 1, [rf 31 0 .ro]⟩,
  ⟨"FC_EICT_LO", 0x120040, 0x0, 1, 0x0, 1, [rf 31 0 .ro]⟩,
  ⟨"FC_EICT_HI", 0x120044, 0x0, 1, 0x0, 1, [rf 31 0 .ro]⟩,
  ⟨"FC_EICNA_LO", 0x120048, 0x0, 1, 0x0, 1, [rf 31 0 .ro]⟩,
  ⟨"FC_EICNA_HI", 0x12004c, 0x0, 1, 0x0, 1, [rf 31 0 .ro]⟩,
  ⟨"FC_CNT_S", 0x120050, 0x4, 4, 0x0, 1, [rf 31 0 .rc]⟩,
  ⟨"FC_HIST_LOST", 0x120060, 0x0, 1, 0x0, 1, [rf 31 0 .rc]⟩,
  ⟨"FC_SUPPR", 0x120064, 0x0, 1, 0x0, 1, [rf 31 0 .rc]⟩,
  ⟨"FC_MASK", 0x120100, 0x4, 22, 0x0, 1, [rf 31 0 .rw]⟩,
  ⟨"FC_HIST_0", 0x120400, 0x20, 32, 0x0, 1, [rf 31 0 .ro]⟩,
  ⟨"FC_HIST_1", 0x120404, 0x20, 32, 0x0, 1, [rf 31 0 .ro]⟩,
  ⟨"FC_HIST_2", 0x120408, 0x20, 32, 0x0, 1, [rf 31 0 .ro]⟩,
  ⟨"FC_HIST_3", 0x12040c, 0x20, 32, 0x0, 1, [rf 31 0 .ro]⟩] ++ [
  ⟨"FC_HIST_4", 0x120410, 0x20, 32, 0x0, 1, [rf 31 0 .ro]⟩,
  ⟨"FC_HIST_5", 0x120414, 0x20, 32, 0x0, 1, [rf 31 0 .ro]⟩,
  ⟨"FC_HIST_6", 0x120418, 0x20, 32, 0x0, 1, [rf 31 0 .ro]⟩,
  ⟨"FC_HIST_7", 0x12041c, 0x20, 32, 0x0, 1, [rf 31 0 .ro]⟩]

/-- The registers of window PM. -/
def regsPM : List RegSpec := [
  ⟨"PM_STAT", 0x130000, 0x0, 1, 0x280, 1, [rf 16 16 .ro, rf 15 15 .ro, rf 14 14 .ro, rf 13 13 .ro, rf 12 12 .ro, rf 11 10 .ro, rf 9 8 .ro, rf 7 6 .ro, rf 5 3 .ro, rf 2 0 .ro]⟩,
  ⟨"PM_EVT", 0x130004, 0x0, 1, 0x0, 2, [rf 7 7 .w1c, rf 6 6 .w1c, rf 5 5 .w1c, rf 4 4 .w1c, rf 3 3 .w1c, rf 2 2 .w1c, rf 1 1 .w1c, rf 0 0 .w1c]⟩,
  ⟨"PM_WAKE_CFG", 0x130008, 0x0, 1, 0xb, 1, [rg 9 8 .rw 0 2, rf 4 4 .rw, rf 3 3 .rw, rf 2 2 .rw, rf 1 1 .rw, rf 0 0 .rw]⟩,
  ⟨"PM_WAKE_STAT", 0x13000c, 0x0, 1, 0x0, 1, [rf 14 12 .ro, rf 10 8 .ro, rf 4 0 .ro]⟩,
  ⟨"PM_TMO", 0x13001c, 0x0, 1, 0xa1432, 1, [rg 23 16 .rw 1 255, rg 15 8 .rw 1 255, rg 7 0 .rw 1 255]⟩,
  ⟨"PM_OPV_0", 0x130010, 0x0, 1, 0x320, 1, [rf 9 0 .rw]⟩,
  ⟨"PM_OPV_1", 0x130014, 0x0, 1, 0x2d0, 1, [rf 9 0 .rw]⟩,
  ⟨"PM_OPV_2", 0x130018, 0x0, 1, 0x28a, 1, [rf 9 0 .rw]⟩,
  ⟨"PM_AVS_VOUT", 0x130020, 0x0, 1, 0x0, 1, [rf 9 0 .ro]⟩,
  ⟨"PM_WAKE_AT_LO", 0x130024, 0x0, 1, 0x0, 1, [rf 31 0 .rw]⟩,
  ⟨"PM_WAKE_AT_HI", 0x130028, 0x0, 1, 0x0, 1, [rf 31 0 .rw]⟩,
  ⟨"PM_RES_P_LO", 0x130030, 0x8, 4, 0x0, 1, [rf 31 0 .ro]⟩,
  ⟨"PM_RES_P_HI", 0x130034, 0x8, 4, 0x0, 1, [rf 31 0 .ro]⟩,
  ⟨"PM_RES_OP_LO", 0x130050, 0x8, 3, 0x0, 1, [rf 31 0 .ro]⟩] ++ [
  ⟨"PM_RES_OP_HI", 0x130054, 0x8, 3, 0x0, 1, [rf 31 0 .ro]⟩,
  ⟨"PM_RES_FLAGS", 0x130068, 0x0, 1, 0x0, 1, [rf 0 0 .ro]⟩,
  ⟨"PM_REFUSE", 0x130070, 0x4, 7, 0x0, 1, [rf 31 0 .rc]⟩,
  ⟨"PM_WAKES", 0x13008c, 0x0, 1, 0x0, 1, [rf 31 0 .rc]⟩,
  ⟨"PM_WAKE_FAILS", 0x130090, 0x0, 1, 0x0, 1, [rf 31 0 .rc]⟩]

/-- The registers of window TH. -/
def regsTH : List RegSpec := [
  ⟨"TH_CFG", 0x140000, 0x0, 1, 0x12040, 1, [rf 16 16 .rw, rg 15 8 .rw 8 255, rg 7 0 .rw 16 255]⟩,
  ⟨"TH_STAT", 0x140004, 0x0, 1, 0x1, 1, [rf 15 14 .ro, rf 13 8 .ro, rf 7 7 .ro, rf 6 6 .ro, rf 5 5 .ro, rf 4 4 .ro, rf 3 3 .ro, rf 2 2 .ro, rf 1 1 .ro, rf 0 0 .ro]⟩,
  ⟨"TH_EVT", 0x140008, 0x0, 1, 0x0, 2, [rf 8 8 .w1c, rf 7 7 .w1c, rf 6 6 .w1c, rf 5 5 .w1c, rf 4 4 .w1c, rf 3 3 .w1c, rf 2 2 .w1c, rf 1 1 .w1c, rf 0 0 .w1c]⟩,
  ⟨"TH_BOARD", 0x14000c, 0x0, 1, 0x1680, 2, [rf 16 16 .rw, rf 15 0 .rw]⟩,
  ⟨"TH_FIT_CTL", 0x140010, 0x0, 1, 0x0, 1, [rf 1 1 .wo, rf 0 0 .wo]⟩,
  ⟨"TH_TMAX", 0x140014, 0x0, 1, 0x1680, 1, [rf 15 0 .ro]⟩,
  ⟨"TH_RATE", 0x140018, 0x0, 1, 0x0, 1, [rf 15 0 .ro]⟩,
  ⟨"TH_RWARN", 0x14001c, 0x0, 1, 0x140, 1, [rf 15 0 .rw]⟩,
  ⟨"TH_RTHROT", 0x140020, 0x0, 1, 0x280, 1, [rf 15 0 .rw]⟩,
  ⟨"TH_RTRIP", 0x140024, 0x0, 1, 0x500, 1, [rf 15 0 .rw]⟩,
  ⟨"TH_RHYST", 0x140028, 0x0, 1, 0x50, 1, [rf 15 0 .rw]⟩,
  ⟨"TH_FLOOR", 0x14002c, 0x0, 1, 0x1e00, 1, [rf 15 0 .rw]⟩,
  ⟨"TH_ATHROT", 0x140030, 0x0, 1, 0x3400, 1, [rf 15 0 .rw]⟩,
  ⟨"TH_ATRIP", 0x140034, 0x0, 1, 0x3800, 1, [rf 15 0 .rw]⟩] ++ [
  ⟨"TH_AHYST", 0x140038, 0x0, 1, 0x100, 1, [rf 15 0 .rw]⟩,
  ⟨"TH_RSINK", 0x14003c, 0x0, 1, 0x40, 1, [rf 15 0 .rw]⟩,
  ⟨"TH_FIT_OFS", 0x140040, 0x0, 1, 0x0, 1, [rf 15 0 .rw]⟩,
  ⟨"TH_REFJ", 0x140044, 0x0, 1, 0x0, 1, [rf 15 0 .ro]⟩,
  ⟨"TH_NODE", 0x140100, 0x4, 48, 0x1680, 1, [rf 15 0 .ro]⟩,
  ⟨"TH_DOM", 0x140200, 0x4, 16, 0x0, 1, [rf 31 16 .ro, rf 15 0 .ro]⟩]

/-- The registers of window PC. -/
def regsPC : List RegSpec := [
  ⟨"PC_CTL", 0x150000, 0x0, 1, 0x0, 3, [rf 2 2 .wo, rf 1 1 .rw, rf 0 0 .wo]⟩,
  ⟨"PC_BPSEL", 0x150100, 0x20, 8, 0x0, 3, [rf 21 16 .rw, rf 15 12 .rw, rf 11 8 .rw, rg 7 4 .rw 0 7, rg 3 0 .rw 0 13]⟩,
  ⟨"PC_EVSEL", 0x150200, 0x20, 16, 0xff0000, 3, [rf 23 16 .rw, rf 15 0 .rw]⟩,
  ⟨"PC_EXT", 0x150008, 0x0, 1, 0x0, 3, [rf 23 0 .ro]⟩,
  ⟨"PC_SNAP_EXT", 0x15000c, 0x0, 1, 0x0, 3, [rf 23 0 .ro]⟩,
  ⟨"PC_SNAP_N_LO", 0x150010, 0x0, 1, 0x0, 3, [rf 31 0 .ro]⟩,
  ⟨"PC_SNAP_N_HI", 0x150014, 0x0, 1, 0x0, 3, [rf 31 0 .ro]⟩,
  ⟨"PC_BPWB", 0x150104, 0x20, 8, 0x0, 3, [rf 31 0 .rw]⟩,
  ⟨"PC_BPWL", 0x150108, 0x20, 8, 0xffffffff, 3, [rf 31 0 .rw]⟩,
  ⟨"PC_BPCNT_LO", 0x150110, 0x20, 8, 0x0, 3, [rf 31 0 .ro]⟩,
  ⟨"PC_BPCNT_HI", 0x150114, 0x20, 8, 0x0, 3, [rf 31 0 .ro]⟩,
  ⟨"PC_BPSNP_LO", 0x150118, 0x20, 8, 0x0, 3, [rf 31 0 .ro]⟩,
  ⟨"PC_BPSNP_HI", 0x15011c, 0x20, 8, 0x0, 3, [rf 31 0 .ro]⟩,
  ⟨"PC_EVCNT_LO", 0x150210, 0x20, 16, 0x0, 3, [rf 31 0 .ro]⟩] ++ [
  ⟨"PC_EVCNT_HI", 0x150214, 0x20, 16, 0x0, 3, [rf 31 0 .ro]⟩,
  ⟨"PC_EVSNP_LO", 0x150218, 0x20, 16, 0x0, 3, [rf 31 0 .ro]⟩,
  ⟨"PC_EVSNP_HI", 0x15021c, 0x20, 16, 0x0, 3, [rf 31 0 .ro]⟩]

/-- The registers of the window that holds a BAR0 offset (Table 11.2). -/
def windowRegs (off : Nat) : List RegSpec :=
  match off / 0x10000 with
  | 0 => regsHIF
  | 1 => regsMB
  | 2 => regsEVQ
  | 3 => regsTRC
  | 5 => regsTB
  | 6 => regsVL
  | 7 => regsLEA
  | 8 => regsLEB
  | 9 => regsTW
  | 10 => regsFS
  | 11 => regsGL
  | 12 => regsDE
  | 13 => regsRPA
  | 14 => regsRPB
  | 15 => regsCAL
  | 16 => regsNV
  | 17 => regsBM
  | 18 => regsFC
  | 19 => regsPM
  | 20 => regsTH
  | 21 => regsPC
  | _ => []

/-- A register's own description holds an offset. -/
def RegSpec.holds (r : RegSpec) (off : Nat) : Bool :=
  if r.count == 1 then off == r.base
  else r.base ≤ off && (off - r.base) % r.stride == 0 && (off - r.base) / r.stride < r.count

/-- The register at a BAR0 offset; none at a reserved offset (R7). -/
def regAt (off : Nat) : Option RegSpec := (windowRegs off).find? (fun r => r.holds off)

/-- What a register reads as after reset (the Reset columns of the spec's tables); 0 at a reserved offset (R7). -/
def regReset (off : Nat) : BitVec 32 :=
  match regAt off with
  | some r => BitVec.ofNat 32 r.reset
  | none => 0

def F.TB_CFG_REF_REVERT : Fld := ⟨0x50000, 8, 1⟩
def F.TB_CFG_REF_PREF : Fld := ⟨0x50000, 7, 1⟩
def F.TB_CFG_PPS_XCHK : Fld := ⟨0x50000, 6, 1⟩
def F.TB_CFG_SRC : Fld := ⟨0x50000, 4, 2⟩
def F.TB_CFG_HO_HOLD : Fld := ⟨0x50000, 3, 1⟩
def F.TB_CFG_BW : Fld := ⟨0x50000, 0, 3⟩
def R.TB_CFG : Nat := 0x50000
def F.TB_STAT_TS_TAI : Fld := ⟨0x50004, 9, 1⟩
def F.TB_STAT_PPS_POL : Fld := ⟨0x50004, 8, 1⟩
def F.TB_STAT_PPS_QUAL : Fld := ⟨0x50004, 7, 1⟩
def F.TB_STAT_STEP_OK : Fld := ⟨0x50004, 6, 1⟩
def F.TB_STAT_HO_EXCEED : Fld := ⟨0x50004, 5, 1⟩
def F.TB_STAT_REF : Fld := ⟨0x50004, 4, 1⟩
def F.TB_STAT_PORT : Fld := ⟨0x50004, 3, 1⟩
def F.TB_STAT_STATE : Fld := ⟨0x50004, 0, 3⟩
def R.TB_STAT : Nat := 0x50004
def F.TB_EVT_WAKE_NOPTP : Fld := ⟨0x50008, 10, 1⟩
def F.TB_EVT_STEP_REFUSED : Fld := ⟨0x50008, 9, 1⟩
def F.TB_EVT_STEP_DONE : Fld := ⟨0x50008, 8, 1⟩
def F.TB_EVT_PPS_DISAGREE : Fld := ⟨0x50008, 7, 1⟩
def F.TB_EVT_PPS_POL_CHG : Fld := ⟨0x50008, 6, 1⟩
def F.TB_EVT_HO_EXCEED : Fld := ⟨0x50008, 5, 1⟩
def F.TB_EVT_REF_LOST_B : Fld := ⟨0x50008, 4, 1⟩
def F.TB_EVT_REF_LOST_A : Fld := ⟨0x50008, 3, 1⟩
def F.TB_EVT_REF_SW : Fld := ⟨0x50008, 2, 1⟩
def F.TB_EVT_PORT_SW : Fld := ⟨0x50008, 1, 1⟩
def F.TB_EVT_STATE_CHG : Fld := ⟨0x50008, 0, 1⟩
def R.TB_EVT : Nat := 0x50008
def F.TB_REF_STAT_SWITCHING : Fld := ⟨0x5000c, 2, 1⟩
def F.TB_REF_STAT_B_OK : Fld := ⟨0x5000c, 1, 1⟩
def F.TB_REF_STAT_A_OK : Fld := ⟨0x5000c, 0, 1⟩
def R.TB_REF_STAT : Nat := 0x5000c
def F.TB_PTP_CFG_PORT_EN_B : Fld := ⟨0x50010, 17, 1⟩
def F.TB_PTP_CFG_PORT_EN_A : Fld := ⟨0x50010, 16, 1⟩
def F.TB_PTP_CFG_LOG_REQ : Fld := ⟨0x50010, 12, 4⟩
def F.TB_PTP_CFG_MCAST_DA : Fld := ⟨0x50010, 11, 1⟩
def F.TB_PTP_CFG_DELAY_MECH : Fld := ⟨0x50010, 10, 1⟩
def F.TB_PTP_CFG_TRANSPORT : Fld := ⟨0x50010, 8, 2⟩
def F.TB_PTP_CFG_DOMAIN : Fld := ⟨0x50010, 0, 8⟩
def R.TB_PTP_CFG : Nat := 0x50010
def F.TB_PPS_CFG_OUT_WIDTH : Fld := ⟨0x50014, 4, 10⟩
def F.TB_PPS_CFG_OUT_EN : Fld := ⟨0x50014, 3, 1⟩
def F.TB_PPS_CFG_POL_FORCE : Fld := ⟨0x50014, 2, 1⟩
def F.TB_PPS_CFG_POL_AUTO : Fld := ⟨0x50014, 1, 1⟩
def F.TB_PPS_CFG_IN_EN : Fld := ⟨0x50014, 0, 1⟩
def R.TB_PPS_CFG : Nat := 0x50014
def F.TB_UNC : Fld := ⟨0x50018, 0, 32⟩
def R.TB_UNC : Nat := 0x50018
def F.TB_SNAP_CTL : Fld := ⟨0x5001c, 0, 1⟩
def R.TB_SNAP_CTL : Nat := 0x5001c
def F.TB_SNAP_SEC_LO : Fld := ⟨0x50020, 0, 32⟩
def R.TB_SNAP_SEC_LO : Nat := 0x50020
def F.TB_SNAP_SEC_HI : Fld := ⟨0x50024, 0, 16⟩
def R.TB_SNAP_SEC_HI : Nat := 0x50024
def F.TB_SNAP_NS : Fld := ⟨0x50028, 0, 30⟩
def R.TB_SNAP_NS : Nat := 0x50028
def F.TB_SNAP_FRAC : Fld := ⟨0x5002c, 0, 32⟩
def R.TB_SNAP_FRAC : Nat := 0x5002c
def F.TB_SAMPLE_LO : Fld := ⟨0x50030, 0, 32⟩
def R.TB_SAMPLE_LO : Nat := 0x50030
def F.TB_SAMPLE_HI : Fld := ⟨0x50034, 0, 32⟩
def R.TB_SAMPLE_HI : Nat := 0x50034
def F.TB_OFFSET : Fld := ⟨0x50038, 0, 32⟩
def R.TB_OFFSET : Nat := 0x50038
def F.TB_SHADOW_OFFSET : Fld := ⟨0x5003c, 0, 32⟩
def R.TB_SHADOW_OFFSET : Nat := 0x5003c
def F.TB_FREQ_ADJ : Fld := ⟨0x50040, 0, 32⟩
def R.TB_FREQ_ADJ : Nat := 0x50040
def F.TB_PPS_DIFF : Fld := ⟨0x50044, 0, 32⟩
def R.TB_PPS_DIFF : Nat := 0x50044
def F.TB_UTC_OFFSET : Fld := ⟨0x50048, 0, 16⟩
def R.TB_UTC_OFFSET : Nat := 0x50048
def F.TB_HO_LIMIT : Fld := ⟨0x5004c, 0, 32⟩
def R.TB_HO_LIMIT : Nat := 0x5004c
def F.TB_HO_AGING : Fld := ⟨0x50050, 0, 32⟩
def R.TB_HO_AGING : Nat := 0x50050
def F.TB_UNC_FLOOR : Fld := ⟨0x50054, 0, 32⟩
def R.TB_UNC_FLOOR : Nat := 0x50054
def F.TB_SLEW_MAX : Fld := ⟨0x50058, 0, 8⟩
def R.TB_SLEW_MAX : Nat := 0x50058
def F.TB_TOD_SEC_LO : Fld := ⟨0x5005c, 0, 32⟩
def R.TB_TOD_SEC_LO : Nat := 0x5005c
def F.TB_TOD_SEC_HI : Fld := ⟨0x50060, 0, 16⟩
def R.TB_TOD_SEC_HI : Nat := 0x50060
def F.TB_STEP_CTL : Fld := ⟨0x50064, 0, 1⟩
def R.TB_STEP_CTL : Nat := 0x50064
def F.TB_AON_INC_LO : Fld := ⟨0x50068, 0, 32⟩
def R.TB_AON_INC_LO : Nat := 0x50068
def F.TB_AON_INC_HI : Fld := ⟨0x5006c, 0, 32⟩
def R.TB_AON_INC_HI : Nat := 0x5006c
def F.TB_AON_PPM : Fld := ⟨0x50070, 0, 32⟩
def R.TB_AON_PPM : Nat := 0x50070
def F.TB_WAKE_WAIT : Fld := ⟨0x50074, 0, 32⟩
def R.TB_WAKE_WAIT : Nat := 0x50074
def F.TB_HO_FERR : Fld := ⟨0x50078, 0, 32⟩
def R.TB_HO_FERR : Nat := 0x50078
def F.VL_CFG_STRICT_ID : Fld := ⟨0x60000, 24, 1⟩
def F.VL_CFG_DJUMP_LIM : Fld := ⟨0x60000, 16, 8⟩
def F.VL_CFG_TOFF_LIM : Fld := ⟨0x60000, 8, 8⟩
def F.VL_CFG_DLY_INT : Fld := ⟨0x60000, 4, 4⟩
def F.VL_CFG_AUTO_TRAIN : Fld := ⟨0x60000, 0, 1⟩
def R.VL_CFG : Nat := 0x60000
def F.VL_VAT_HELD_LO : Fld := ⟨0x60008, 0, 32⟩
def R.VL_VAT_HELD_LO : Nat := 0x60008
def F.VL_VAT_HELD_HI : Fld := ⟨0x6000c, 0, 32⟩
def R.VL_VAT_HELD_HI : Nat := 0x6000c
def F.VL_LANE_UP0 : Fld := ⟨0x60010, 0, 32⟩
def R.VL_LANE_UP0 : Nat := 0x60010
def F.VL_LANE_UP1 : Fld := ⟨0x60014, 0, 32⟩
def R.VL_LANE_UP1 : Nat := 0x60014
def F.VL_LANE_UP2 : Fld := ⟨0x60018, 0, 32⟩
def R.VL_LANE_UP2 : Nat := 0x60018
def F.VL_LANE_UP3 : Fld := ⟨0x6001c, 0, 32⟩
def R.VL_LANE_UP3 : Nat := 0x6001c
def F.VL_LCFG_RETRAIN (i : Nat) : Fld := ⟨0x61000 + 0x40 * i, 4, 1⟩
def F.VL_LCFG_WAKE_EN (i : Nat) : Fld := ⟨0x61000 + 0x40 * i, 3, 1⟩
def F.VL_LCFG_SLEW (i : Nat) : Fld := ⟨0x61000 + 0x40 * i, 1, 2⟩
def F.VL_LCFG_EN (i : Nat) : Fld := ⟨0x61000 + 0x40 * i, 0, 1⟩
def R.VL_LCFG (i : Nat) : Nat := 0x61000 + 0x40 * i
def F.VL_LSTAT_TLOCK (i : Nat) : Fld := ⟨0x61004 + 0x40 * i, 14, 1⟩
def F.VL_LSTAT_SHORT (i : Nat) : Fld := ⟨0x61004 + 0x40 * i, 13, 1⟩
def F.VL_LSTAT_OPEN_N (i : Nat) : Fld := ⟨0x61004 + 0x40 * i, 12, 1⟩
def F.VL_LSTAT_OPEN_P (i : Nat) : Fld := ⟨0x61004 + 0x40 * i, 11, 1⟩
def F.VL_LSTAT_SPLIT (i : Nat) : Fld := ⟨0x61004 + 0x40 * i, 10, 1⟩
def F.VL_LSTAT_EIC_PORT (i : Nat) : Fld := ⟨0x61004 + 0x40 * i, 9, 1⟩
def F.VL_LSTAT_RX_INV (i : Nat) : Fld := ⟨0x61004 + 0x40 * i, 8, 1⟩
def F.VL_LSTAT_CAUSE (i : Nat) : Fld := ⟨0x61004 + 0x40 * i, 4, 4⟩
def F.VL_LSTAT_STATE (i : Nat) : Fld := ⟨0x61004 + 0x40 * i, 0, 4⟩
def R.VL_LSTAT (i : Nat) : Nat := 0x61004 + 0x40 * i
def F.VL_LDLY_DN (i : Nat) : Fld := ⟨0x61008 + 0x40 * i, 0, 16⟩
def R.VL_LDLY_DN (i : Nat) : Nat := 0x61008 + 0x40 * i
def F.VL_LDLY_UP (i : Nat) : Fld := ⟨0x6100c + 0x40 * i, 0, 16⟩
def R.VL_LDLY_UP (i : Nat) : Nat := 0x6100c + 0x40 * i
def F.VL_LTOFF (i : Nat) : Fld := ⟨0x61010 + 0x40 * i, 0, 32⟩
def R.VL_LTOFF (i : Nat) : Nat := 0x61010 + 0x40 * i
def F.VL_LASYM (i : Nat) : Fld := ⟨0x61014 + 0x40 * i, 0, 16⟩
def R.VL_LASYM (i : Nat) : Nat := 0x61014 + 0x40 * i
def F.VL_EIC_ID_LO (i : Nat) : Fld := ⟨0x61018 + 0x40 * i, 0, 32⟩
def R.VL_EIC_ID_LO (i : Nat) : Nat := 0x61018 + 0x40 * i
def F.VL_EIC_ID_HI (i : Nat) : Fld := ⟨0x6101c + 0x40 * i, 0, 8⟩
def R.VL_EIC_ID_HI (i : Nat) : Nat := 0x6101c + 0x40 * i
def F.VL_CRC_ERR (i : Nat) : Fld := ⟨0x61020 + 0x40 * i, 0, 32⟩
def R.VL_CRC_ERR (i : Nat) : Nat := 0x61020 + 0x40 * i
def F.VL_BLK_ERR (i : Nat) : Fld := ⟨0x61024 + 0x40 * i, 0, 32⟩
def R.VL_BLK_ERR (i : Nat) : Nat := 0x61024 + 0x40 * i
def F.VL_SEQ_ERR (i : Nat) : Fld := ⟨0x61028 + 0x40 * i, 0, 32⟩
def R.VL_SEQ_ERR (i : Nat) : Nat := 0x61028 + 0x40 * i
def F.VL_LOCK_LOSS (i : Nat) : Fld := ⟨0x6102c + 0x40 * i, 0, 32⟩
def R.VL_LOCK_LOSS (i : Nat) : Nat := 0x6102c + 0x40 * i
def F.VL_RETRAIN (i : Nat) : Fld := ⟨0x61030 + 0x40 * i, 0, 32⟩
def R.VL_RETRAIN (i : Nat) : Nat := 0x61030 + 0x40 * i
def F.VL_EIC_CERR (i : Nat) : Fld := ⟨0x61034 + 0x40 * i, 0, 16⟩
def R.VL_EIC_CERR (i : Nat) : Nat := 0x61034 + 0x40 * i
def F.LEA_AFSUM_NLOOP (i : Nat) : Fld := ⟨0x70800 + 0x4 * i, 8, 9⟩
def F.LEA_AFSUM_ANY (i : Nat) : Fld := ⟨0x70800 + 0x4 * i, 0, 8⟩
def R.LEA_AFSUM (i : Nat) : Nat := 0x70800 + 0x4 * i
def F.LEB_AFSUM_NLOOP (i : Nat) : Fld := ⟨0x80800 + 0x4 * i, 8, 9⟩
def F.LEB_AFSUM_ANY (i : Nat) : Fld := ⟨0x80800 + 0x4 * i, 0, 8⟩
def R.LEB_AFSUM (i : Nat) : Nat := 0x80800 + 0x4 * i
def F.LEA_LFSUM_NLOOP (i : Nat) : Fld := ⟨0x70900 + 0x4 * i, 8, 9⟩
def F.LEA_LFSUM_ANY (i : Nat) : Fld := ⟨0x70900 + 0x4 * i, 0, 8⟩
def R.LEA_LFSUM (i : Nat) : Nat := 0x70900 + 0x4 * i
def F.LEB_LFSUM_NLOOP (i : Nat) : Fld := ⟨0x80900 + 0x4 * i, 8, 9⟩
def F.LEB_LFSUM_ANY (i : Nat) : Fld := ⟨0x80900 + 0x4 * i, 0, 8⟩
def R.LEB_LFSUM (i : Nat) : Nat := 0x80900 + 0x4 * i
def F.GL_CTL_PAUSE : Fld := ⟨0xb0000, 0, 1⟩
def R.GL_CTL : Nat := 0xb0000
def F.GL_STAT_ENTRY : Fld := ⟨0xb0004, 16, 12⟩
def F.GL_STAT_EPOCH : Fld := ⟨0xb0004, 8, 8⟩
def F.GL_STAT_HARD : Fld := ⟨0xb0004, 5, 1⟩
def F.GL_STAT_INH : Fld := ⟨0xb0004, 4, 1⟩
def F.GL_STAT_BANK : Fld := ⟨0xb0004, 3, 1⟩
def F.GL_STAT_PLAN : Fld := ⟨0xb0004, 2, 1⟩
def F.GL_STAT_STAGED : Fld := ⟨0xb0004, 1, 1⟩
def F.GL_STAT_ACT_PEND : Fld := ⟨0xb0004, 0, 1⟩
def R.GL_STAT : Nat := 0xb0004
def F.GL_INH_NO_PLAN : Fld := ⟨0xb0008, 7, 1⟩
def F.GL_INH_EIC_NOT_APPLYING : Fld := ⟨0xb0008, 6, 1⟩
def F.GL_INH_NO_PRESS : Fld := ⟨0xb0008, 5, 1⟩
def F.GL_INH_EIC_TIME : Fld := ⟨0xb0008, 4, 1⟩
def F.GL_INH_VAT_HELD : Fld := ⟨0xb0008, 3, 1⟩
def F.GL_INH_SAFE : Fld := ⟨0xb0008, 2, 1⟩
def F.GL_INH_PAUSE : Fld := ⟨0xb0008, 1, 1⟩
def F.GL_INH_NOT_P0 : Fld := ⟨0xb0008, 0, 1⟩
def R.GL_INH : Nat := 0xb0008
def F.GL_EVT_INH_OFF : Fld := ⟨0xb000c, 7, 1⟩
def F.GL_EVT_INH_ON : Fld := ⟨0xb000c, 6, 1⟩
def F.GL_EVT_RETIRED : Fld := ⟨0xb000c, 5, 1⟩
def F.GL_EVT_ACTIVATED : Fld := ⟨0xb000c, 4, 1⟩
def F.GL_EVT_PMISS : Fld := ⟨0xb000c, 3, 1⟩
def F.GL_EVT_REVOKE : Fld := ⟨0xb000c, 2, 1⟩
def F.GL_EVT_BADFORM : Fld := ⟨0xb000c, 1, 1⟩
def F.GL_EVT_FALLBACK : Fld := ⟨0xb000c, 0, 1⟩
def R.GL_EVT : Nat := 0xb000c
def F.GL_ANCHOR_LO : Fld := ⟨0xb0010, 0, 32⟩
def R.GL_ANCHOR_LO : Nat := 0xb0010
def F.GL_ANCHOR_HI : Fld := ⟨0xb0014, 0, 32⟩
def R.GL_ANCHOR_HI : Nat := 0xb0014
def F.GL_CYCLEN : Fld := ⟨0xb0018, 0, 20⟩
def R.GL_CYCLEN : Nat := 0xb0018
def F.GL_NENT : Fld := ⟨0xb001c, 0, 13⟩
def R.GL_NENT : Nat := 0xb001c
def F.GL_SLOT_LO : Fld := ⟨0xb0020, 0, 32⟩
def R.GL_SLOT_LO : Nat := 0xb0020
def F.GL_SLOT_HI : Fld := ⟨0xb0024, 0, 32⟩
def R.GL_SLOT_HI : Nat := 0xb0024
def F.GL_NEXTB_LO : Fld := ⟨0xb0028, 0, 32⟩
def R.GL_NEXTB_LO : Nat := 0xb0028
def F.GL_NEXTB_HI : Fld := ⟨0xb002c, 0, 32⟩
def R.GL_NEXTB_HI : Nat := 0xb002c
def F.GL_FORM_CUR : Fld := ⟨0xb0030, 0, 12⟩
def F.GL_FORM_CUR_NOCHG : Fld := ⟨0xb0030, 12, 1⟩
def F.GL_FORM_NEXT : Fld := ⟨0xb0030, 16, 12⟩
def F.GL_FORM_NEXT_NOCHG : Fld := ⟨0xb0030, 28, 1⟩
def R.GL_FORM : Nat := 0xb0030
def F.GL_ACT_LO : Fld := ⟨0xb0034, 0, 32⟩
def R.GL_ACT_LO : Nat := 0xb0034
def F.GL_ACT_HI : Fld := ⟨0xb0038, 0, 32⟩
def R.GL_ACT_HI : Nat := 0xb0038
def F.GL_PCHK_TH : Fld := ⟨0xb003c, 0, 16⟩
def R.GL_PCHK_TH : Nat := 0xb003c
def F.GL_LASTCHG : Fld := ⟨0xb0040, 0, 14⟩
def R.GL_LASTCHG : Nat := 0xb0040
def F.GL_PRESSES : Fld := ⟨0xb0044, 0, 32⟩
def R.GL_PRESSES : Nat := 0xb0044
def F.GL_NOCHG : Fld := ⟨0xb0048, 0, 32⟩
def R.GL_NOCHG : Nat := 0xb0048
def F.GL_FALLBACK : Fld := ⟨0xb004c, 0, 32⟩
def R.GL_FALLBACK : Nat := 0xb004c
def F.GL_REVOKE : Fld := ⟨0xb0050, 0, 32⟩
def R.GL_REVOKE : Nat := 0xb0050
def F.GL_PMISS : Fld := ⟨0xb0054, 0, 32⟩
def R.GL_PMISS : Nat := 0xb0054
def F.GL_PMISS_CELLS : Fld := ⟨0xb0058, 0, 32⟩
def R.GL_PMISS_CELLS : Nat := 0xb0058
def F.FS_STAT_USED : Fld := ⟨0xa0000, 0, 13⟩
def F.FS_STAT_BAD : Fld := ⟨0xa0000, 16, 13⟩
def R.FS_STAT : Nat := 0xa0000
def F.FS_CE_CNT : Fld := ⟨0xa0004, 0, 32⟩
def R.FS_CE_CNT : Nat := 0xa0004
def F.FS_UE_CNT : Fld := ⟨0xa0008, 0, 32⟩
def R.FS_UE_CNT : Nat := 0xa0008
def F.FS_SCRUB_PASS : Fld := ⟨0xa000c, 0, 32⟩
def R.FS_SCRUB_PASS : Nat := 0xa000c
def F.DE_CFG_CHOOSE_EN : Fld := ⟨0xc0000, 16, 1⟩
def F.DE_CFG_STALE_FRAC : Fld := ⟨0xc0000, 8, 8⟩
def F.DE_CFG_ACCEPT_EN : Fld := ⟨0xc0000, 0, 1⟩
def R.DE_CFG : Nat := 0xc0000
def F.DE_STAT_NSTALE : Fld := ⟨0xc0004, 16, 11⟩
def F.DE_STAT_MAP : Fld := ⟨0xc0004, 3, 1⟩
def F.DE_STAT_RUNNING : Fld := ⟨0xc0004, 2, 1⟩
def F.DE_STAT_STALE_OVER : Fld := ⟨0xc0004, 1, 1⟩
def F.DE_STAT_PORTS_DOWN : Fld := ⟨0xc0004, 0, 1⟩
def R.DE_STAT : Nat := 0xc0004
def F.DE_EVT_QDROP : Fld := ⟨0xc0008, 5, 1⟩
def F.DE_EVT_BEAD_SAT : Fld := ⟨0xc0008, 4, 1⟩
def F.DE_EVT_UE : Fld := ⟨0xc0008, 3, 1⟩
def F.DE_EVT_PORTS_DOWN : Fld := ⟨0xc0008, 2, 1⟩
def F.DE_EVT_STALE_OVER : Fld := ⟨0xc0008, 1, 1⟩
def F.DE_EVT_RUN_INVALID : Fld := ⟨0xc0008, 0, 1⟩
def R.DE_EVT : Nat := 0xc0008
def F.DE_LASTRUN_RESULT : Fld := ⟨0xc000c, 16, 3⟩
def F.DE_LASTRUN_CSET : Fld := ⟨0xc000c, 12, 4⟩
def F.DE_LASTRUN_FORM : Fld := ⟨0xc000c, 0, 12⟩
def R.DE_LASTRUN : Nat := 0xc000c
def F.DE_SCORE_LO : Fld := ⟨0xc0010, 0, 32⟩
def R.DE_SCORE_LO : Nat := 0xc0010
def F.DE_SCORE_HI : Fld := ⟨0xc0014, 0, 16⟩
def R.DE_SCORE_HI : Nat := 0xc0014
def F.DE_STALE_US : Fld := ⟨0xc0018, 0, 16⟩
def R.DE_STALE_US : Nat := 0xc0018
def F.DE_ANN_DA_LO : Fld := ⟨0xc001c, 0, 32⟩
def R.DE_ANN_DA_LO : Nat := 0xc001c
def F.DE_ANN_DA_HI : Fld := ⟨0xc0020, 0, 16⟩
def R.DE_ANN_DA_HI : Nat := 0xc0020
def F.DE_REPORTS : Fld := ⟨0xc0024, 0, 32⟩
def R.DE_REPORTS : Nat := 0xc0024
def F.DE_DUP : Fld := ⟨0xc0028, 0, 32⟩
def R.DE_DUP : Nat := 0xc0028
def F.DE_RATE : Fld := ⟨0xc002c, 0, 32⟩
def R.DE_RATE : Nat := 0xc002c
def F.DE_BADREP : Fld := ⟨0xc0030, 0, 32⟩
def R.DE_BADREP : Nat := 0xc0030
def F.DE_BADENT : Fld := ⟨0xc0034, 0, 32⟩
def R.DE_BADENT : Nat := 0xc0034
def F.DE_RED : Fld := ⟨0xc0038, 0, 32⟩
def R.DE_RED : Nat := 0xc0038
def F.DE_QDROP : Fld := ⟨0xc003c, 0, 32⟩
def R.DE_QDROP : Nat := 0xc003c
def F.DE_BEAD_SAT : Fld := ⟨0xc0040, 0, 32⟩
def R.DE_BEAD_SAT : Nat := 0xc0040
def F.DE_RUNS : Fld := ⟨0xc0044, 0, 32⟩
def R.DE_RUNS : Nat := 0xc0044
def F.DE_IDLE : Fld := ⟨0xc0048, 0, 32⟩
def R.DE_IDLE : Nat := 0xc0048
def F.DE_INVALID : Fld := ⟨0xc004c, 0, 32⟩
def R.DE_INVALID : Nat := 0xc004c
def F.DE_CE : Fld := ⟨0xc0050, 0, 32⟩
def R.DE_CE : Nat := 0xc0050
def F.DE_UE : Fld := ⟨0xc0054, 0, 32⟩
def R.DE_UE : Nat := 0xc0054
def F.RPA_CFG_NAERN_TX : Fld := ⟨0xd0000, 4, 1⟩
def F.RPA_CFG_NAERN_RX : Fld := ⟨0xd0000, 3, 1⟩
def F.RPA_CFG_AN_EN : Fld := ⟨0xd0000, 2, 1⟩
def F.RPA_CFG_RATE : Fld := ⟨0xd0000, 1, 1⟩
def F.RPA_CFG_EN : Fld := ⟨0xd0000, 0, 1⟩
def R.RPA_CFG : Nat := 0xd0000
def F.RPB_CFG_NAERN_TX : Fld := ⟨0xe0000, 4, 1⟩
def F.RPB_CFG_NAERN_RX : Fld := ⟨0xe0000, 3, 1⟩
def F.RPB_CFG_AN_EN : Fld := ⟨0xe0000, 2, 1⟩
def F.RPB_CFG_RATE : Fld := ⟨0xe0000, 1, 1⟩
def F.RPB_CFG_EN : Fld := ⟨0xe0000, 0, 1⟩
def R.RPB_CFG : Nat := 0xe0000
def F.RPA_STAT_RATE_ACT : Fld := ⟨0xd0004, 3, 1⟩
def F.RPA_STAT_FEC_LOCK : Fld := ⟨0xd0004, 2, 1⟩
def F.RPA_STAT_ALIGNED : Fld := ⟨0xd0004, 1, 1⟩
def F.RPA_STAT_LINK : Fld := ⟨0xd0004, 0, 1⟩
def R.RPA_STAT : Nat := 0xd0004
def F.RPB_STAT_RATE_ACT : Fld := ⟨0xe0004, 3, 1⟩
def F.RPB_STAT_FEC_LOCK : Fld := ⟨0xe0004, 2, 1⟩
def F.RPB_STAT_ALIGNED : Fld := ⟨0xe0004, 1, 1⟩
def F.RPB_STAT_LINK : Fld := ⟨0xe0004, 0, 1⟩
def R.RPB_STAT : Nat := 0xe0004
def F.RPA_MAC_LO : Fld := ⟨0xd0008, 0, 32⟩
def R.RPA_MAC_LO : Nat := 0xd0008
def F.RPB_MAC_LO : Fld := ⟨0xe0008, 0, 32⟩
def R.RPB_MAC_LO : Nat := 0xe0008
def F.RPA_MAC_HI : Fld := ⟨0xd000c, 0, 16⟩
def R.RPA_MAC_HI : Nat := 0xd000c
def F.RPB_MAC_HI : Fld := ⟨0xe000c, 0, 16⟩
def R.RPB_MAC_HI : Nat := 0xe000c
def F.RPA_RX_NAERN : Fld := ⟨0xd0010, 0, 32⟩
def R.RPA_RX_NAERN : Nat := 0xd0010
def F.RPB_RX_NAERN : Fld := ⟨0xe0010, 0, 32⟩
def R.RPB_RX_NAERN : Nat := 0xe0010
def F.RPA_RX_BAD : Fld := ⟨0xd0014, 0, 32⟩
def R.RPA_RX_BAD : Nat := 0xd0014
def F.RPB_RX_BAD : Fld := ⟨0xe0014, 0, 32⟩
def R.RPB_RX_BAD : Nat := 0xe0014
def F.RPA_RX_OTHER : Fld := ⟨0xd0018, 0, 32⟩
def R.RPA_RX_OTHER : Nat := 0xd0018
def F.RPB_RX_OTHER : Fld := ⟨0xe0018, 0, 32⟩
def R.RPB_RX_OTHER : Nat := 0xe0018
def F.RPA_TX_ANN : Fld := ⟨0xd001c, 0, 32⟩
def R.RPA_TX_ANN : Nat := 0xd001c
def F.RPB_TX_ANN : Fld := ⟨0xe001c, 0, 32⟩
def R.RPB_TX_ANN : Nat := 0xe001c
def F.RPA_TX_REVOKE : Fld := ⟨0xd0020, 0, 32⟩
def R.RPA_TX_REVOKE : Nat := 0xd0020
def F.RPB_TX_REVOKE : Fld := ⟨0xe0020, 0, 32⟩
def R.RPB_TX_REVOKE : Nat := 0xe0020
def F.RPA_FEC_CORR : Fld := ⟨0xd0024, 0, 32⟩
def R.RPA_FEC_CORR : Nat := 0xd0024
def F.RPB_FEC_CORR : Fld := ⟨0xe0024, 0, 32⟩
def R.RPB_FEC_CORR : Nat := 0xe0024
def F.RPA_FEC_UNCORR : Fld := ⟨0xd0028, 0, 32⟩
def R.RPA_FEC_UNCORR : Nat := 0xd0028
def F.RPB_FEC_UNCORR : Fld := ⟨0xe0028, 0, 32⟩
def R.RPB_FEC_UNCORR : Nat := 0xe0028
def F.RPA_LINK_DOWN : Fld := ⟨0xd002c, 0, 32⟩
def R.RPA_LINK_DOWN : Nat := 0xd002c
def F.RPB_LINK_DOWN : Fld := ⟨0xe002c, 0, 32⟩
def R.RPB_LINK_DOWN : Nat := 0xe002c
def F.CAL_STAT_CAPTURE : Fld := ⟨0xf0000, 28, 1⟩
def F.CAL_STAT_NINJ : Fld := ⟨0xf0000, 24, 4⟩
def F.CAL_STAT_NSTINT : Fld := ⟨0xf0000, 20, 4⟩
def F.CAL_STAT_LASTCODE : Fld := ⟨0xf0000, 17, 3⟩
def F.CAL_STAT_TARGET : Fld := ⟨0xf0000, 9, 8⟩
def F.CAL_STAT_KIND : Fld := ⟨0xf0000, 6, 3⟩
def F.CAL_STAT_NRUN : Fld := ⟨0xf0000, 1, 5⟩
def F.CAL_STAT_BUSY : Fld := ⟨0xf0000, 0, 1⟩
def R.CAL_STAT : Nat := 0xf0000
def F.CAL_EVT_CAP_DROP : Fld := ⟨0xf0004, 6, 1⟩
def F.CAL_EVT_CAP_DONE : Fld := ⟨0xf0004, 5, 1⟩
def F.CAL_EVT_INJ_END : Fld := ⟨0xf0004, 4, 1⟩
def F.CAL_EVT_TURN_EXIT : Fld := ⟨0xf0004, 3, 1⟩
def F.CAL_EVT_TURN_ENTER : Fld := ⟨0xf0004, 2, 1⟩
def F.CAL_EVT_FAIL : Fld := ⟨0xf0004, 1, 1⟩
def F.CAL_EVT_DONE : Fld := ⟨0xf0004, 0, 1⟩
def R.CAL_EVT : Nat := 0xf0004
def F.CAL_LRX0_THM (i : Nat) : Fld := ⟨0xf1000 + 0x10 * i, 8, 6⟩
def F.CAL_LRX0_RXDLY (i : Nat) : Fld := ⟨0xf1000 + 0x10 * i, 0, 6⟩
def R.CAL_LRX0 (i : Nat) : Nat := 0xf1000 + 0x10 * i
def F.CAL_LRX1_TH4 (i : Nat) : Fld := ⟨0xf1004 + 0x10 * i, 24, 6⟩
def F.CAL_LRX1_TH3 (i : Nat) : Fld := ⟨0xf1004 + 0x10 * i, 16, 6⟩
def F.CAL_LRX1_TH2 (i : Nat) : Fld := ⟨0xf1004 + 0x10 * i, 8, 6⟩
def F.CAL_LRX1_TH1 (i : Nat) : Fld := ⟨0xf1004 + 0x10 * i, 0, 6⟩
def R.CAL_LRX1 (i : Nat) : Nat := 0xf1004 + 0x10 * i
def F.CAL_RPA_TXLAT : Fld := ⟨0xf0010, 0, 16⟩
def R.CAL_RPA_TXLAT : Nat := 0xf0010
def F.CAL_RPA_RXLAT : Fld := ⟨0xf0014, 0, 16⟩
def R.CAL_RPA_RXLAT : Nat := 0xf0014
def F.CAL_RPB_TXLAT : Fld := ⟨0xf0018, 0, 16⟩
def R.CAL_RPB_TXLAT : Nat := 0xf0018
def F.CAL_RPB_RXLAT : Fld := ⟨0xf001c, 0, 16⟩
def R.CAL_RPB_RXLAT : Nat := 0xf001c
def F.CAL_RUNS : Fld := ⟨0xf0020, 0, 32⟩
def R.CAL_RUNS : Nat := 0xf0020
def F.CAL_FAILS : Fld := ⟨0xf0024, 0, 32⟩
def R.CAL_FAILS : Nat := 0xf0024
def F.CAL_TURNS : Fld := ⟨0xf0028, 0, 32⟩
def R.CAL_TURNS : Nat := 0xf0028
def F.CAL_CAP_DROP : Fld := ⟨0xf002c, 0, 32⟩
def R.CAL_CAP_DROP : Nat := 0xf002c
def F.CAL_LTXLAT (i : Nat) : Fld := ⟨0xf1008 + 0x10 * i, 0, 16⟩
def R.CAL_LTXLAT (i : Nat) : Nat := 0xf1008 + 0x10 * i
def F.CAL_LRXLAT (i : Nat) : Fld := ⟨0xf100c + 0x10 * i, 0, 16⟩
def R.CAL_LRXLAT (i : Nat) : Nat := 0xf100c + 0x10 * i
def F.NV_STAT_QDEPTH : Fld := ⟨0x100000, 8, 8⟩
def F.NV_STAT_FW_SEL : Fld := ⟨0x100000, 3, 1⟩
def F.NV_STAT_AON_PENDING : Fld := ⟨0x100000, 2, 1⟩
def F.NV_STAT_RECOVERED : Fld := ⟨0x100000, 1, 1⟩
def F.NV_STAT_BUSY : Fld := ⟨0x100000, 0, 1⟩
def R.NV_STAT : Nat := 0x100000
def F.NV_EVT_WEAR : Fld := ⟨0x100004, 5, 1⟩
def F.NV_EVT_TRIP_ABORT : Fld := ⟨0x100004, 4, 1⟩
def F.NV_EVT_REPAIR : Fld := ⟨0x100004, 3, 1⟩
def F.NV_EVT_LOST : Fld := ⟨0x100004, 2, 1⟩
def F.NV_EVT_TORN : Fld := ⟨0x100004, 1, 1⟩
def F.NV_EVT_DIFFER : Fld := ⟨0x100004, 0, 1⟩
def R.NV_EVT : Nat := 0x100004
def F.NV_WRITES : Fld := ⟨0x100008, 0, 32⟩
def R.NV_WRITES : Nat := 0x100008
def F.NV_CRC_FAIL : Fld := ⟨0x10000c, 0, 32⟩
def R.NV_CRC_FAIL : Nat := 0x10000c
def F.NV_REPAIRS : Fld := ⟨0x100010, 0, 32⟩
def R.NV_REPAIRS : Nat := 0x100010
def F.NV_JSEQ : Fld := ⟨0x100014, 0, 32⟩
def R.NV_JSEQ : Nat := 0x100014
def F.NV_WEAR_MAX : Fld := ⟨0x100018, 0, 32⟩
def R.NV_WEAR_MAX : Nat := 0x100018
def F.NV_REFRESH_DAYS : Fld := ⟨0x10001c, 0, 16⟩
def R.NV_REFRESH_DAYS : Nat := 0x10001c
def F.TW_CFG_AUTO_RST : Fld := ⟨0x90000, 16, 1⟩
def F.TW_CFG_MIS_WIN : Fld := ⟨0x90000, 8, 8⟩
def F.TW_CFG_MIS_LIM : Fld := ⟨0x90000, 4, 4⟩
def F.TW_CFG_PREF : Fld := ⟨0x90000, 0, 1⟩
def R.TW_CFG : Nat := 0x90000
def F.TW_CTL_SWAP : Fld := ⟨0x90004, 4, 1⟩
def F.TW_CTL_REMOVE_B : Fld := ⟨0x90004, 3, 1⟩
def F.TW_CTL_REMOVE_A : Fld := ⟨0x90004, 2, 1⟩
def F.TW_CTL_RESTORE_B : Fld := ⟨0x90004, 1, 1⟩
def F.TW_CTL_RESTORE_A : Fld := ⟨0x90004, 0, 1⟩
def R.TW_CTL : Nat := 0x90004
def F.TW_STAT_TRY : Fld := ⟨0x90008, 18, 2⟩
def F.TW_STAT_AUTO_B : Fld := ⟨0x90008, 17, 1⟩
def F.TW_STAT_AUTO_A : Fld := ⟨0x90008, 16, 1⟩
def F.TW_STAT_CAUSE_B : Fld := ⟨0x90008, 12, 4⟩
def F.TW_STAT_CAUSE_A : Fld := ⟨0x90008, 8, 4⟩
def F.TW_STAT_ARB_FLT : Fld := ⟨0x90008, 7, 1⟩
def F.TW_STAT_XF : Fld := ⟨0x90008, 6, 1⟩
def F.TW_STAT_SUSPECT : Fld := ⟨0x90008, 5, 1⟩
def F.TW_STAT_ROLE_B : Fld := ⟨0x90008, 2, 2⟩
def F.TW_STAT_ROLE_A : Fld := ⟨0x90008, 0, 2⟩
def R.TW_STAT : Nat := 0x90008
def F.TW_EVT_WAKE_DIFF : Fld := ⟨0x9000c, 12, 1⟩
def F.TW_EVT_ARB_FLT : Fld := ⟨0x9000c, 11, 1⟩
def F.TW_EVT_REFUSED : Fld := ⟨0x9000c, 10, 1⟩
def F.TW_EVT_STARVED : Fld := ⟨0x9000c, 9, 1⟩
def F.TW_EVT_SWAP : Fld := ⟨0x9000c, 8, 1⟩
def F.TW_EVT_RESTORE_FAIL : Fld := ⟨0x9000c, 7, 1⟩
def F.TW_EVT_RESYNC_FAIL : Fld := ⟨0x9000c, 6, 1⟩
def F.TW_EVT_RESYNC_DONE : Fld := ⟨0x9000c, 5, 1⟩
def F.TW_EVT_REMOVED : Fld := ⟨0x9000c, 4, 1⟩
def F.TW_EVT_FAILOVER : Fld := ⟨0x9000c, 3, 1⟩
def F.TW_EVT_SUSPECT : Fld := ⟨0x9000c, 2, 1⟩
def F.TW_EVT_STATE_DIFF : Fld := ⟨0x9000c, 1, 1⟩
def F.TW_EVT_MISMATCH : Fld := ⟨0x9000c, 0, 1⟩
def R.TW_EVT : Nat := 0x9000c
def F.TW_HEALTH_A_FVAT : Fld := ⟨0x90010, 26, 6⟩
def F.TW_HEALTH_A_PASSES : Fld := ⟨0x90010, 18, 8⟩
def F.TW_HEALTH_A_STARVED : Fld := ⟨0x90010, 8, 1⟩
def F.TW_HEALTH_A_FAULT : Fld := ⟨0x90010, 7, 1⟩
def F.TW_HEALTH_A_CHECKS : Fld := ⟨0x90010, 0, 7⟩
def R.TW_HEALTH_A : Nat := 0x90010
def F.TW_HEALTH_B_FVAT : Fld := ⟨0x90014, 26, 6⟩
def F.TW_HEALTH_B_PASSES : Fld := ⟨0x90014, 18, 8⟩
def F.TW_HEALTH_B_STARVED : Fld := ⟨0x90014, 8, 1⟩
def F.TW_HEALTH_B_FAULT : Fld := ⟨0x90014, 7, 1⟩
def F.TW_HEALTH_B_CHECKS : Fld := ⟨0x90014, 0, 7⟩
def R.TW_HEALTH_B : Nat := 0x90014
def F.TW_LASTMIS_KIND : Fld := ⟨0x90018, 20, 1⟩
def F.TW_LASTMIS_SOF : Fld := ⟨0x90018, 19, 1⟩
def F.TW_LASTMIS_BYTE : Fld := ⟨0x90018, 11, 8⟩
def F.TW_LASTMIS_SEG : Fld := ⟨0x90018, 6, 5⟩
def F.TW_LASTMIS_VAT : Fld := ⟨0x90018, 0, 6⟩
def R.TW_LASTMIS : Nat := 0x90018
def F.TW_LASTMIS_N_LO : Fld := ⟨0x9001c, 0, 32⟩
def R.TW_LASTMIS_N_LO : Nat := 0x9001c
def F.TW_LASTMIS_N_HI : Fld := ⟨0x90020, 0, 32⟩
def R.TW_LASTMIS_N_HI : Nat := 0x90020
def F.TW_VRESYNC_LO : Fld := ⟨0x90024, 0, 32⟩
def R.TW_VRESYNC_LO : Nat := 0x90024
def F.TW_VRESYNC_HI : Fld := ⟨0x90028, 0, 32⟩
def R.TW_VRESYNC_HI : Nat := 0x90028
def F.TW_XF_LO : Fld := ⟨0x9002c, 0, 32⟩
def R.TW_XF_LO : Nat := 0x9002c
def F.TW_XF_HI : Fld := ⟨0x90030, 0, 32⟩
def R.TW_XF_HI : Nat := 0x90030
def F.TW_MISWIN : Fld := ⟨0x90034, 0, 4⟩
def R.TW_MISWIN : Nat := 0x90034
def F.TW_MISMATCH : Fld := ⟨0x90038, 0, 32⟩
def R.TW_MISMATCH : Nat := 0x90038
def F.TW_STATEDIFF : Fld := ⟨0x9003c, 0, 32⟩
def R.TW_STATEDIFF : Nat := 0x9003c
def F.TW_FAILOVER : Fld := ⟨0x90040, 0, 32⟩
def R.TW_FAILOVER : Nat := 0x90040
def F.TW_REMOVALS : Fld := ⟨0x90044, 0, 32⟩
def R.TW_REMOVALS : Nat := 0x90044
def F.TW_RESYNC : Fld := ⟨0x90048, 0, 32⟩
def R.TW_RESYNC : Nat := 0x90048
def F.TW_RESYNC_FAIL : Fld := ⟨0x9004c, 0, 32⟩
def R.TW_RESYNC_FAIL : Nat := 0x9004c
def F.TW_CE_A : Fld := ⟨0x90050, 0, 32⟩
def R.TW_CE_A : Nat := 0x90050
def F.TW_CE_B : Fld := ⟨0x90054, 0, 32⟩
def R.TW_CE_B : Nat := 0x90054
def F.HIF_STAT_LOCKOUT : Fld := ⟨0x4, 9, 1⟩
def F.HIF_STAT_SVC_OPEN : Fld := ⟨0x4, 8, 1⟩
def F.HIF_STAT_LINK_SPD : Fld := ⟨0x4, 4, 3⟩
def F.HIF_STAT_LINK_W : Fld := ⟨0x4, 0, 2⟩
def R.HIF_STAT : Nat := 0x4
def F.HIF_SVC_CTL_LOCK : Fld := ⟨0x20, 0, 1⟩
def R.HIF_SVC_CTL : Nat := 0x20
def F.HIF_ST_CTL_WDOG_RST : Fld := ⟨0x30, 1, 1⟩
def F.HIF_ST_CTL_RESTART : Fld := ⟨0x30, 0, 1⟩
def R.HIF_ST_CTL : Nat := 0x30
def F.HIF_ST_STAT_RESTARTS : Fld := ⟨0x34, 8, 8⟩
def F.HIF_ST_STAT_IMAGE : Fld := ⟨0x34, 3, 1⟩
def F.HIF_ST_STAT_WARM : Fld := ⟨0x34, 2, 1⟩
def F.HIF_ST_STAT_STATE : Fld := ⟨0x34, 0, 2⟩
def R.HIF_ST_STAT : Nat := 0x34
def F.HIF_EVT_HIRESET : Fld := ⟨0x3c, 8, 1⟩
def F.HIF_EVT_BOOT_FAIL : Fld := ⟨0x3c, 7, 1⟩
def F.HIF_EVT_WDOG : Fld := ⟨0x3c, 6, 1⟩
def F.HIF_EVT_ST_RESTART : Fld := ⟨0x3c, 5, 1⟩
def F.HIF_EVT_SVC_REFUSED : Fld := ⟨0x3c, 4, 1⟩
def F.HIF_EVT_LOCKOUT : Fld := ⟨0x3c, 3, 1⟩
def F.HIF_EVT_BADCODE : Fld := ⟨0x3c, 2, 1⟩
def F.HIF_EVT_LOCKED : Fld := ⟨0x3c, 1, 1⟩
def F.HIF_EVT_UNLOCKED : Fld := ⟨0x3c, 0, 1⟩
def R.HIF_EVT : Nat := 0x3c
def F.HIF_ID : Fld := ⟨0x0, 0, 32⟩
def R.HIF_ID : Nat := 0x0
def F.HIF_SVC_CODE_LO : Fld := ⟨0x10, 0, 32⟩
def R.HIF_SVC_CODE_LO : Nat := 0x10
def F.HIF_SVC_CODE_HI : Fld := ⟨0x14, 0, 32⟩
def R.HIF_SVC_CODE_HI : Nat := 0x14
def F.HIF_UNLOCK_LO : Fld := ⟨0x18, 0, 32⟩
def R.HIF_UNLOCK_LO : Nat := 0x18
def F.HIF_UNLOCK_HI : Fld := ⟨0x1c, 0, 32⟩
def R.HIF_UNLOCK_HI : Nat := 0x1c
def F.HIF_SVC_TIME : Fld := ⟨0x24, 0, 16⟩
def R.HIF_SVC_TIME : Nat := 0x24
def F.HIF_SVC_LEFT : Fld := ⟨0x28, 0, 16⟩
def R.HIF_SVC_LEFT : Nat := 0x28
def F.HIF_WDOG : Fld := ⟨0x38, 0, 16⟩
def R.HIF_WDOG : Nat := 0x38
def F.HIF_FW_VER : Fld := ⟨0x40, 0, 32⟩
def R.HIF_FW_VER : Nat := 0x40
def F.MB_STAT_TAG (i : Nat) : Fld := ⟨0x10004 + 0x10 * i, 16, 16⟩
def F.MB_STAT_REFUSED (i : Nat) : Fld := ⟨0x10004 + 0x10 * i, 2, 1⟩
def F.MB_STAT_STATE (i : Nat) : Fld := ⟨0x10004 + 0x10 * i, 0, 2⟩
def R.MB_STAT (i : Nat) : Nat := 0x10004 + 0x10 * i
def F.MB_DB (i : Nat) : Fld := ⟨0x10000 + 0x10 * i, 0, 32⟩
def R.MB_DB (i : Nat) : Nat := 0x10000 + 0x10 * i
def F.MB_CFG_MSI_EN (i : Nat) : Fld := ⟨0x10008 + 0x10 * i, 0, 1⟩
def F.MB_CFG_EVT_EN (i : Nat) : Fld := ⟨0x10008 + 0x10 * i, 1, 1⟩
def R.MB_CFG (i : Nat) : Nat := 0x10008 + 0x10 * i
def F.MB_CMDS (i : Nat) : Fld := ⟨0x1000c + 0x10 * i, 0, 32⟩
def R.MB_CMDS (i : Nat) : Nat := 0x1000c + 0x10 * i
def F.EVQ_CFG_TYPEMASK (i : Nat) : Fld := ⟨0x20008 + 0x40 * i, 16, 16⟩
def F.EVQ_CFG_MINSEV (i : Nat) : Fld := ⟨0x20008 + 0x40 * i, 10, 3⟩
def F.EVQ_CFG_SIZE (i : Nat) : Fld := ⟨0x20008 + 0x40 * i, 1, 7⟩
def F.EVQ_CFG_EN (i : Nat) : Fld := ⟨0x20008 + 0x40 * i, 0, 1⟩
def R.EVQ_CFG (i : Nat) : Nat := 0x20008 + 0x40 * i
def F.EVQ_BASE_LO (i : Nat) : Fld := ⟨0x20000 + 0x40 * i, 12, 20⟩
def R.EVQ_BASE_LO (i : Nat) : Nat := 0x20000 + 0x40 * i
def F.EVQ_BASE_HI (i : Nat) : Fld := ⟨0x20004 + 0x40 * i, 0, 32⟩
def R.EVQ_BASE_HI (i : Nat) : Nat := 0x20004 + 0x40 * i
def F.EVQ_PI (i : Nat) : Fld := ⟨0x2000c + 0x40 * i, 0, 32⟩
def R.EVQ_PI (i : Nat) : Nat := 0x2000c + 0x40 * i
def F.EVQ_CI (i : Nat) : Fld := ⟨0x20010 + 0x40 * i, 0, 32⟩
def R.EVQ_CI (i : Nat) : Nat := 0x20010 + 0x40 * i
def F.EVQ_WB_LO (i : Nat) : Fld := ⟨0x20014 + 0x40 * i, 3, 29⟩
def R.EVQ_WB_LO (i : Nat) : Nat := 0x20014 + 0x40 * i
def F.EVQ_WB_HI (i : Nat) : Fld := ⟨0x20018 + 0x40 * i, 0, 32⟩
def R.EVQ_WB_HI (i : Nat) : Nat := 0x20018 + 0x40 * i
def F.EVQ_MOD_COAL (i : Nat) : Fld := ⟨0x2001c + 0x40 * i, 0, 8⟩
def F.EVQ_MOD_TIME (i : Nat) : Fld := ⟨0x2001c + 0x40 * i, 8, 10⟩
def R.EVQ_MOD (i : Nat) : Nat := 0x2001c + 0x40 * i
def F.EVQ_DROP (i : Nat) : Fld := ⟨0x20020 + 0x40 * i, 0, 32⟩
def R.EVQ_DROP (i : Nat) : Nat := 0x20020 + 0x40 * i
def F.EVQ_PENDING : Fld := ⟨0x20800, 0, 9⟩
def R.EVQ_PENDING : Nat := 0x20800
def F.EVQ_PEND_DROP : Fld := ⟨0x20804, 0, 32⟩
def R.EVQ_PEND_DROP : Nat := 0x20804
def F.EVQ_UNROUTED : Fld := ⟨0x20808, 0, 32⟩
def R.EVQ_UNROUTED : Nat := 0x20808
def F.TRC_CFG_TYPEMASK (i : Nat) : Fld := ⟨0x30008 + 0x40 * i, 19, 3⟩
def F.TRC_CFG_SIZE (i : Nat) : Fld := ⟨0x30008 + 0x40 * i, 1, 6⟩
def F.TRC_CFG_EN (i : Nat) : Fld := ⟨0x30008 + 0x40 * i, 0, 1⟩
def R.TRC_CFG (i : Nat) : Nat := 0x30008 + 0x40 * i
def F.TRC_BASE_LO (i : Nat) : Fld := ⟨0x30000 + 0x40 * i, 12, 20⟩
def R.TRC_BASE_LO (i : Nat) : Nat := 0x30000 + 0x40 * i
def F.TRC_BASE_HI (i : Nat) : Fld := ⟨0x30004 + 0x40 * i, 0, 32⟩
def R.TRC_BASE_HI (i : Nat) : Nat := 0x30004 + 0x40 * i
def F.TRC_PI_LO (i : Nat) : Fld := ⟨0x30010 + 0x40 * i, 0, 32⟩
def R.TRC_PI_LO (i : Nat) : Nat := 0x30010 + 0x40 * i
def F.TRC_PI_HI (i : Nat) : Fld := ⟨0x30014 + 0x40 * i, 0, 32⟩
def R.TRC_PI_HI (i : Nat) : Nat := 0x30014 + 0x40 * i
def F.TRC_CI_LO (i : Nat) : Fld := ⟨0x30018 + 0x40 * i, 0, 32⟩
def R.TRC_CI_LO (i : Nat) : Nat := 0x30018 + 0x40 * i
def F.TRC_CI_HI (i : Nat) : Fld := ⟨0x3001c + 0x40 * i, 0, 32⟩
def R.TRC_CI_HI (i : Nat) : Nat := 0x3001c + 0x40 * i
def F.TRC_WB_LO (i : Nat) : Fld := ⟨0x30020 + 0x40 * i, 0, 32⟩
def R.TRC_WB_LO (i : Nat) : Nat := 0x30020 + 0x40 * i
def F.TRC_WB_HI (i : Nat) : Fld := ⟨0x30024 + 0x40 * i, 0, 32⟩
def R.TRC_WB_HI (i : Nat) : Nat := 0x30024 + 0x40 * i
def F.TRC_DROP (i : Nat) : Fld := ⟨0x30028 + 0x40 * i, 0, 32⟩
def R.TRC_DROP (i : Nat) : Nat := 0x30028 + 0x40 * i
def F.BM_CFG_TMO : Fld := ⟨0x110000, 16, 16⟩
def F.BM_CFG_AGE : Fld := ⟨0x110000, 0, 8⟩
def R.BM_CFG : Nat := 0x110000
def F.BM_STAT_DRAIN : Fld := ⟨0x110004, 24, 6⟩
def F.BM_STAT_TBUSY : Fld := ⟨0x110004, 16, 8⟩
def F.BM_STAT_TSTALL : Fld := ⟨0x110004, 8, 8⟩
def F.BM_STAT_PAUSE : Fld := ⟨0x110004, 0, 1⟩
def R.BM_STAT : Nat := 0x110004
def F.BM_EVT_ERR_LOST : Fld := ⟨0x110008, 6, 1⟩
def F.BM_EVT_SLICE_CHG : Fld := ⟨0x110008, 5, 1⟩
def F.BM_EVT_RST_MID : Fld := ⟨0x110008, 4, 1⟩
def F.BM_EVT_TOUT : Fld := ⟨0x110008, 3, 1⟩
def F.BM_EVT_SLVERR : Fld := ⟨0x110008, 2, 1⟩
def F.BM_EVT_DECERR : Fld := ⟨0x110008, 1, 1⟩
def F.BM_EVT_PRIV : Fld := ⟨0x110008, 0, 1⟩
def R.BM_EVT : Nat := 0x110008
def F.BM_ERR_INFO_VALID : Fld := ⟨0x11000c, 31, 1⟩
def F.BM_ERR_INFO_TGT : Fld := ⟨0x11000c, 28, 3⟩
def F.BM_ERR_INFO_MID : Fld := ⟨0x11000c, 24, 4⟩
def F.BM_ERR_INFO_PL : Fld := ⟨0x11000c, 22, 2⟩
def F.BM_ERR_INFO_CLASS : Fld := ⟨0x11000c, 20, 2⟩
def F.BM_ERR_INFO_QOS : Fld := ⟨0x11000c, 16, 4⟩
def F.BM_ERR_INFO_WRITE : Fld := ⟨0x11000c, 15, 1⟩
def F.BM_ERR_INFO_CODE : Fld := ⟨0x11000c, 12, 3⟩
def F.BM_ERR_INFO_BEATS : Fld := ⟨0x11000c, 0, 4⟩
def R.BM_ERR_INFO : Nat := 0x11000c
def F.BM_QOS_0_BULK : Fld := ⟨0x110020, 12, 4⟩
def F.BM_QOS_0_TRACE : Fld := ⟨0x110020, 8, 4⟩
def F.BM_QOS_0_PLAN : Fld := ⟨0x110020, 4, 4⟩
def F.BM_QOS_0_CONTROL : Fld := ⟨0x110020, 0, 4⟩
def R.BM_QOS_0 : Nat := 0x110020
def F.BM_QOS_1_BULK : Fld := ⟨0x110024, 12, 4⟩
def F.BM_QOS_1_TRACE : Fld := ⟨0x110024, 8, 4⟩
def F.BM_QOS_1_PLAN : Fld := ⟨0x110024, 4, 4⟩
def F.BM_QOS_1_CONTROL : Fld := ⟨0x110024, 0, 4⟩
def R.BM_QOS_1 : Nat := 0x110024
def F.BM_QOS_2_BULK : Fld := ⟨0x110028, 12, 4⟩
def F.BM_QOS_2_TRACE : Fld := ⟨0x110028, 8, 4⟩
def F.BM_QOS_2_PLAN : Fld := ⟨0x110028, 4, 4⟩
def F.BM_QOS_2_CONTROL : Fld := ⟨0x110028, 0, 4⟩
def R.BM_QOS_2 : Nat := 0x110028
def F.BM_QOS_3_BULK : Fld := ⟨0x11002c, 12, 4⟩
def F.BM_QOS_3_TRACE : Fld := ⟨0x11002c, 8, 4⟩
def F.BM_QOS_3_PLAN : Fld := ⟨0x11002c, 4, 4⟩
def F.BM_QOS_3_CONTROL : Fld := ⟨0x11002c, 0, 4⟩
def R.BM_QOS_3 : Nat := 0x11002c
def F.BM_QOS_4_BULK : Fld := ⟨0x110030, 12, 4⟩
def F.BM_QOS_4_TRACE : Fld := ⟨0x110030, 8, 4⟩
def F.BM_QOS_4_PLAN : Fld := ⟨0x110030, 4, 4⟩
def F.BM_QOS_4_CONTROL : Fld := ⟨0x110030, 0, 4⟩
def R.BM_QOS_4 : Nat := 0x110030
def F.BM_QOS_5_BULK : Fld := ⟨0x110034, 12, 4⟩
def F.BM_QOS_5_TRACE : Fld := ⟨0x110034, 8, 4⟩
def F.BM_QOS_5_PLAN : Fld := ⟨0x110034, 4, 4⟩
def F.BM_QOS_5_CONTROL : Fld := ⟨0x110034, 0, 4⟩
def R.BM_QOS_5 : Nat := 0x110034
def F.BM_SLICE_TPORT : Fld := ⟨0x110044, 6, 8⟩
def F.BM_SLICE_MPORT : Fld := ⟨0x110044, 0, 6⟩
def R.BM_SLICE : Nat := 0x110044
def F.BM_SLICE_EFF_TPORT : Fld := ⟨0x110048, 6, 8⟩
def F.BM_SLICE_EFF_MPORT : Fld := ⟨0x110048, 0, 6⟩
def R.BM_SLICE_EFF : Nat := 0x110048
def F.BM_ERR_ADDR_LO : Fld := ⟨0x110010, 0, 32⟩
def R.BM_ERR_ADDR_LO : Nat := 0x110010
def F.BM_ERR_ADDR_HI : Fld := ⟨0x110014, 0, 32⟩
def R.BM_ERR_ADDR_HI : Nat := 0x110014
def F.BM_ERR_N_LO : Fld := ⟨0x110018, 0, 32⟩
def R.BM_ERR_N_LO : Nat := 0x110018
def F.BM_ERR_N_HI : Fld := ⟨0x11001c, 0, 32⟩
def R.BM_ERR_N_HI : Nat := 0x11001c
def F.BM_PARK : Fld := ⟨0x110040, 0, 8⟩
def R.BM_PARK : Nat := 0x110040
def F.BM_LIMIT_0 : Fld := ⟨0x110050, 0, 16⟩
def R.BM_LIMIT_0 : Nat := 0x110050
def F.BM_LIMIT_1 : Fld := ⟨0x110054, 0, 16⟩
def R.BM_LIMIT_1 : Nat := 0x110054
def F.BM_LIMIT_2 : Fld := ⟨0x110058, 0, 16⟩
def R.BM_LIMIT_2 : Nat := 0x110058
def F.BM_LIMIT_3 : Fld := ⟨0x11005c, 0, 16⟩
def R.BM_LIMIT_3 : Nat := 0x11005c
def F.BM_LIMIT_4 : Fld := ⟨0x110060, 0, 16⟩
def R.BM_LIMIT_4 : Nat := 0x110060
def F.BM_LIMIT_5 : Fld := ⟨0x110064, 0, 16⟩
def R.BM_LIMIT_5 : Nat := 0x110064
def F.BM_PRIV_CNT : Fld := ⟨0x110070, 0, 32⟩
def R.BM_PRIV_CNT : Nat := 0x110070
def F.BM_DEC_CNT : Fld := ⟨0x110074, 0, 32⟩
def R.BM_DEC_CNT : Nat := 0x110074
def F.BM_SLV_CNT : Fld := ⟨0x110078, 0, 32⟩
def R.BM_SLV_CNT : Nat := 0x110078
def F.BM_TOUT_CNT : Fld := ⟨0x11007c, 0, 32⟩
def R.BM_TOUT_CNT : Nat := 0x11007c
def F.BM_RST_CNT : Fld := ⟨0x110080, 0, 32⟩
def R.BM_RST_CNT : Nat := 0x110080
def F.FC_STAT_HCOUNT : Fld := ⟨0x120000, 24, 6⟩
def F.FC_STAT_GROUPID : Fld := ⟨0x120000, 16, 8⟩
def F.FC_STAT_PROT : Fld := ⟨0x120000, 15, 1⟩
def F.FC_STAT_SAFE : Fld := ⟨0x120000, 12, 2⟩
def F.FC_STAT_DIRECT : Fld := ⟨0x120000, 11, 1⟩
def F.FC_STAT_EXIT_OK : Fld := ⟨0x120000, 10, 1⟩
def F.FC_STAT_RESET_ONLY : Fld := ⟨0x120000, 9, 1⟩
def F.FC_STAT_FIRST_VALID : Fld := ⟨0x120000, 8, 1⟩
def F.FC_STAT_SEVSEEN : Fld := ⟨0x120000, 0, 4⟩
def R.FC_STAT : Nat := 0x120000
def F.FC_CFG_RATE : Fld := ⟨0x120004, 2, 1⟩
def F.FC_CFG_AUTOCLR_EICT : Fld := ⟨0x120004, 1, 1⟩
def F.FC_CFG_S2_SAFE : Fld := ⟨0x120004, 0, 1⟩
def R.FC_CFG : Nat := 0x120004
def F.FC_SAFE_CTL_KIND : Fld := ⟨0x120008, 2, 1⟩
def F.FC_SAFE_CTL_EXIT : Fld := ⟨0x120008, 1, 1⟩
def F.FC_SAFE_CTL_FORCE : Fld := ⟨0x120008, 0, 1⟩
def R.FC_SAFE_CTL : Nat := 0x120008
def F.FC_CLR_CLR_EICT : Fld := ⟨0x12000c, 4, 1⟩
def F.FC_CLR_CLR_NOPRESS : Fld := ⟨0x12000c, 3, 1⟩
def F.FC_CLR_HCLR : Fld := ⟨0x12000c, 2, 1⟩
def F.FC_CLR_HSNAP : Fld := ⟨0x12000c, 1, 1⟩
def F.FC_CLR_CLR_FIRST : Fld := ⟨0x12000c, 0, 1⟩
def R.FC_CLR : Nat := 0x12000c
def F.FC_EVT_EXIT_REFUSED : Fld := ⟨0x120010, 5, 1⟩
def F.FC_EVT_DARK_TMO : Fld := ⟨0x120010, 4, 1⟩
def F.FC_EVT_DARK_DONE : Fld := ⟨0x120010, 3, 1⟩
def F.FC_EVT_SAFE_OUT : Fld := ⟨0x120010, 2, 1⟩
def F.FC_EVT_SAFE_IN : Fld := ⟨0x120010, 1, 1⟩
def F.FC_EVT_HIST_LOST : Fld := ⟨0x120010, 0, 1⟩
def R.FC_EVT : Nat := 0x120010
def F.FC_FIRST_CODE_HW : Fld := ⟨0x120018, 20, 1⟩
def F.FC_FIRST_CODE_GROUP : Fld := ⟨0x120018, 19, 1⟩
def F.FC_FIRST_CODE_SEV : Fld := ⟨0x120018, 16, 3⟩
def F.FC_FIRST_CODE_CODE : Fld := ⟨0x120018, 0, 16⟩
def R.FC_FIRST_CODE : Nat := 0x120018
def F.FC_FIRST_SRC : Fld := ⟨0x120014, 0, 28⟩
def R.FC_FIRST_SRC : Nat := 0x120014
def F.FC_FIRST_INFO : Fld := ⟨0x12001c, 0, 32⟩
def R.FC_FIRST_INFO : Nat := 0x12001c
def F.FC_FIRST_N_LO : Fld := ⟨0x120020, 0, 32⟩
def R.FC_FIRST_N_LO : Nat := 0x120020
def F.FC_FIRST_N_HI : Fld := ⟨0x120024, 0, 32⟩
def R.FC_FIRST_N_HI : Nat := 0x120024
def F.FC_SAFE_SRC : Fld := ⟨0x120028, 0, 28⟩
def R.FC_SAFE_SRC : Nat := 0x120028
def F.FC_SAFE_CODE : Fld := ⟨0x12002c, 0, 16⟩
def R.FC_SAFE_CODE : Nat := 0x12002c
def F.FC_SAFE_N_LO : Fld := ⟨0x120030, 0, 32⟩
def R.FC_SAFE_N_LO : Nat := 0x120030
def F.FC_SAFE_N_HI : Fld := ⟨0x120034, 0, 32⟩
def R.FC_SAFE_N_HI : Nat := 0x120034
def F.FC_NOPRESS_LO : Fld := ⟨0x120038, 0, 32⟩
def R.FC_NOPRESS_LO : Nat := 0x120038
def F.FC_NOPRESS_HI : Fld := ⟨0x12003c, 0, 32⟩
def R.FC_NOPRESS_HI : Nat := 0x12003c
def F.FC_EICT_LO : Fld := ⟨0x120040, 0, 32⟩
def R.FC_EICT_LO : Nat := 0x120040
def F.FC_EICT_HI : Fld := ⟨0x120044, 0, 32⟩
def R.FC_EICT_HI : Nat := 0x120044
def F.FC_EICNA_LO : Fld := ⟨0x120048, 0, 32⟩
def R.FC_EICNA_LO : Nat := 0x120048
def F.FC_EICNA_HI : Fld := ⟨0x12004c, 0, 32⟩
def R.FC_EICNA_HI : Nat := 0x12004c
def F.FC_CNT_S (i : Nat) : Fld := ⟨0x120050 + 0x4 * i, 0, 32⟩
def R.FC_CNT_S (i : Nat) : Nat := 0x120050 + 0x4 * i
def F.FC_HIST_LOST : Fld := ⟨0x120060, 0, 32⟩
def R.FC_HIST_LOST : Nat := 0x120060
def F.FC_SUPPR : Fld := ⟨0x120064, 0, 32⟩
def R.FC_SUPPR : Nat := 0x120064
def F.FC_MASK (i : Nat) : Fld := ⟨0x120100 + 0x4 * i, 0, 32⟩
def R.FC_MASK (i : Nat) : Nat := 0x120100 + 0x4 * i
def F.FC_HIST_0 (i : Nat) : Fld := ⟨0x120400 + 0x20 * i, 0, 32⟩
def R.FC_HIST_0 (i : Nat) : Nat := 0x120400 + 0x20 * i
def F.FC_HIST_1 (i : Nat) : Fld := ⟨0x120404 + 0x20 * i, 0, 32⟩
def R.FC_HIST_1 (i : Nat) : Nat := 0x120404 + 0x20 * i
def F.FC_HIST_2 (i : Nat) : Fld := ⟨0x120408 + 0x20 * i, 0, 32⟩
def R.FC_HIST_2 (i : Nat) : Nat := 0x120408 + 0x20 * i
def F.FC_HIST_3 (i : Nat) : Fld := ⟨0x12040c + 0x20 * i, 0, 32⟩
def R.FC_HIST_3 (i : Nat) : Nat := 0x12040c + 0x20 * i
def F.FC_HIST_4 (i : Nat) : Fld := ⟨0x120410 + 0x20 * i, 0, 32⟩
def R.FC_HIST_4 (i : Nat) : Nat := 0x120410 + 0x20 * i
def F.FC_HIST_5 (i : Nat) : Fld := ⟨0x120414 + 0x20 * i, 0, 32⟩
def R.FC_HIST_5 (i : Nat) : Nat := 0x120414 + 0x20 * i
def F.FC_HIST_6 (i : Nat) : Fld := ⟨0x120418 + 0x20 * i, 0, 32⟩
def R.FC_HIST_6 (i : Nat) : Nat := 0x120418 + 0x20 * i
def F.FC_HIST_7 (i : Nat) : Fld := ⟨0x12041c + 0x20 * i, 0, 32⟩
def R.FC_HIST_7 (i : Nat) : Nat := 0x12041c + 0x20 * i
def F.PM_STAT_WAKEFLT : Fld := ⟨0x130000, 16, 1⟩
def F.PM_STAT_SEQ : Fld := ⟨0x130000, 15, 1⟩
def F.PM_STAT_F_TH : Fld := ⟨0x130000, 14, 1⟩
def F.PM_STAT_F_REF : Fld := ⟨0x130000, 13, 1⟩
def F.PM_STAT_F_HO : Fld := ⟨0x130000, 12, 1⟩
def F.PM_STAT_OPMAX : Fld := ⟨0x130000, 10, 2⟩
def F.PM_STAT_VOP : Fld := ⟨0x130000, 8, 2⟩
def F.PM_STAT_OP : Fld := ⟨0x130000, 6, 2⟩
def F.PM_STAT_REQ : Fld := ⟨0x130000, 3, 3⟩
def F.PM_STAT_STATE : Fld := ⟨0x130000, 0, 3⟩
def R.PM_STAT : Nat := 0x130000
def F.PM_EVT_AVS_ALERT : Fld := ⟨0x130004, 7, 1⟩
def F.PM_EVT_AVS_FAIL : Fld := ⟨0x130004, 6, 1⟩
def F.PM_EVT_WAKE_FAULT : Fld := ⟨0x130004, 5, 1⟩
def F.PM_EVT_WAKE_RETRY : Fld := ⟨0x130004, 4, 1⟩
def F.PM_EVT_WAKE : Fld := ⟨0x130004, 3, 1⟩
def F.PM_EVT_REFUSED : Fld := ⟨0x130004, 2, 1⟩
def F.PM_EVT_OP_CHG : Fld := ⟨0x130004, 1, 1⟩
def F.PM_EVT_STATE_CHG : Fld := ⟨0x130004, 0, 1⟩
def R.PM_EVT : Nat := 0x130004
def F.PM_WAKE_CFG_TARGET : Fld := ⟨0x130008, 8, 2⟩
def F.PM_WAKE_CFG_TIMER : Fld := ⟨0x130008, 4, 1⟩
def F.PM_WAKE_CFG_PCIE : Fld := ⟨0x130008, 3, 1⟩
def F.PM_WAKE_CFG_RP : Fld := ⟨0x130008, 2, 1⟩
def F.PM_WAKE_CFG_LANE : Fld := ⟨0x130008, 1, 1⟩
def F.PM_WAKE_CFG_PIN : Fld := ⟨0x130008, 0, 1⟩
def R.PM_WAKE_CFG : Nat := 0x130008
def F.PM_WAKE_STAT_REFUSER : Fld := ⟨0x13000c, 12, 3⟩
def F.PM_WAKE_STAT_RESULT : Fld := ⟨0x13000c, 8, 3⟩
def F.PM_WAKE_STAT_SRCMASK : Fld := ⟨0x13000c, 0, 5⟩
def R.PM_WAKE_STAT : Nat := 0x13000c
def F.PM_TMO_AVS : Fld := ⟨0x13001c, 16, 8⟩
def F.PM_TMO_PLL : Fld := ⟨0x13001c, 8, 8⟩
def F.PM_TMO_REG : Fld := ⟨0x13001c, 0, 8⟩
def R.PM_TMO : Nat := 0x13001c
def F.PM_OPV_0 : Fld := ⟨0x130010, 0, 10⟩
def R.PM_OPV_0 : Nat := 0x130010
def F.PM_OPV_1 : Fld := ⟨0x130014, 0, 10⟩
def R.PM_OPV_1 : Nat := 0x130014
def F.PM_OPV_2 : Fld := ⟨0x130018, 0, 10⟩
def R.PM_OPV_2 : Nat := 0x130018
def F.PM_AVS_VOUT : Fld := ⟨0x130020, 0, 10⟩
def R.PM_AVS_VOUT : Nat := 0x130020
def F.PM_WAKE_AT_LO : Fld := ⟨0x130024, 0, 32⟩
def R.PM_WAKE_AT_LO : Nat := 0x130024
def F.PM_WAKE_AT_HI : Fld := ⟨0x130028, 0, 32⟩
def R.PM_WAKE_AT_HI : Nat := 0x130028
def F.PM_RES_P_LO (i : Nat) : Fld := ⟨0x130030 + 0x8 * i, 0, 32⟩
def R.PM_RES_P_LO (i : Nat) : Nat := 0x130030 + 0x8 * i
def F.PM_RES_P_HI (i : Nat) : Fld := ⟨0x130034 + 0x8 * i, 0, 32⟩
def R.PM_RES_P_HI (i : Nat) : Nat := 0x130034 + 0x8 * i
def F.PM_RES_OP_LO (i : Nat) : Fld := ⟨0x130050 + 0x8 * i, 0, 32⟩
def R.PM_RES_OP_LO (i : Nat) : Nat := 0x130050 + 0x8 * i
def F.PM_RES_OP_HI (i : Nat) : Fld := ⟨0x130054 + 0x8 * i, 0, 32⟩
def R.PM_RES_OP_HI (i : Nat) : Nat := 0x130054 + 0x8 * i
def F.PM_RES_FLAGS : Fld := ⟨0x130068, 0, 1⟩
def R.PM_RES_FLAGS : Nat := 0x130068
def F.PM_REFUSE (i : Nat) : Fld := ⟨0x130070 + 0x4 * i, 0, 32⟩
def R.PM_REFUSE (i : Nat) : Nat := 0x130070 + 0x4 * i
def F.PM_WAKES : Fld := ⟨0x13008c, 0, 32⟩
def R.PM_WAKES : Nat := 0x13008c
def F.PM_WAKE_FAILS : Fld := ⟨0x130090, 0, 32⟩
def R.PM_WAKE_FAILS : Nat := 0x130090
def F.TH_CFG_RATE_EN : Fld := ⟨0x140000, 16, 1⟩
def F.TH_CFG_STEP : Fld := ⟨0x140000, 8, 8⟩
def F.TH_CFG_WIN : Fld := ⟨0x140000, 0, 8⟩
def R.TH_CFG : Nat := 0x140000
def F.TH_STAT_FIT : Fld := ⟨0x140004, 14, 2⟩
def F.TH_STAT_HOTNODE : Fld := ⟨0x140004, 8, 6⟩
def F.TH_STAT_SENSE_SUB : Fld := ⟨0x140004, 7, 1⟩
def F.TH_STAT_BOARD_VALID : Fld := ⟨0x140004, 6, 1⟩
def F.TH_STAT_TRIP : Fld := ⟨0x140004, 5, 1⟩
def F.TH_STAT_THROT_ABS : Fld := ⟨0x140004, 4, 1⟩
def F.TH_STAT_THROT : Fld := ⟨0x140004, 3, 1⟩
def F.TH_STAT_WARN : Fld := ⟨0x140004, 2, 1⟩
def F.TH_STAT_RATE_ARMED : Fld := ⟨0x140004, 1, 1⟩
def F.TH_STAT_NCONV : Fld := ⟨0x140004, 0, 1⟩
def R.TH_STAT : Nat := 0x140004
def F.TH_EVT_FIT_DONE : Fld := ⟨0x140008, 8, 1⟩
def F.TH_EVT_SENSE_FAIL : Fld := ⟨0x140008, 7, 1⟩
def F.TH_EVT_ARMED : Fld := ⟨0x140008, 6, 1⟩
def F.TH_EVT_CONVERGED : Fld := ⟨0x140008, 5, 1⟩
def F.TH_EVT_TRIP : Fld := ⟨0x140008, 4, 1⟩
def F.TH_EVT_THROT_OFF : Fld := ⟨0x140008, 3, 1⟩
def F.TH_EVT_THROT_ON : Fld := ⟨0x140008, 2, 1⟩
def F.TH_EVT_WARN_OFF : Fld := ⟨0x140008, 1, 1⟩
def F.TH_EVT_WARN_ON : Fld := ⟨0x140008, 0, 1⟩
def R.TH_EVT : Nat := 0x140008
def F.TH_BOARD_VALID : Fld := ⟨0x14000c, 16, 1⟩
def F.TH_BOARD_TEMP : Fld := ⟨0x14000c, 0, 16⟩
def R.TH_BOARD : Nat := 0x14000c
def F.TH_FIT_CTL_STORE : Fld := ⟨0x140010, 1, 1⟩
def F.TH_FIT_CTL_RUN : Fld := ⟨0x140010, 0, 1⟩
def R.TH_FIT_CTL : Nat := 0x140010
def F.TH_TMAX : Fld := ⟨0x140014, 0, 16⟩
def R.TH_TMAX : Nat := 0x140014
def F.TH_RATE : Fld := ⟨0x140018, 0, 16⟩
def R.TH_RATE : Nat := 0x140018
def F.TH_RWARN : Fld := ⟨0x14001c, 0, 16⟩
def R.TH_RWARN : Nat := 0x14001c
def F.TH_RTHROT : Fld := ⟨0x140020, 0, 16⟩
def R.TH_RTHROT : Nat := 0x140020
def F.TH_RTRIP : Fld := ⟨0x140024, 0, 16⟩
def R.TH_RTRIP : Nat := 0x140024
def F.TH_RHYST : Fld := ⟨0x140028, 0, 16⟩
def R.TH_RHYST : Nat := 0x140028
def F.TH_FLOOR : Fld := ⟨0x14002c, 0, 16⟩
def R.TH_FLOOR : Nat := 0x14002c
def F.TH_ATHROT : Fld := ⟨0x140030, 0, 16⟩
def R.TH_ATHROT : Nat := 0x140030
def F.TH_ATRIP : Fld := ⟨0x140034, 0, 16⟩
def R.TH_ATRIP : Nat := 0x140034
def F.TH_AHYST : Fld := ⟨0x140038, 0, 16⟩
def R.TH_AHYST : Nat := 0x140038
def F.TH_RSINK : Fld := ⟨0x14003c, 0, 16⟩
def R.TH_RSINK : Nat := 0x14003c
def F.TH_FIT_OFS : Fld := ⟨0x140040, 0, 16⟩
def R.TH_FIT_OFS : Nat := 0x140040
def F.TH_REFJ : Fld := ⟨0x140044, 0, 16⟩
def R.TH_REFJ : Nat := 0x140044
def F.TH_NODE (i : Nat) : Fld := ⟨0x140100 + 0x4 * i, 0, 16⟩
def R.TH_NODE (i : Nat) : Nat := 0x140100 + 0x4 * i
def F.TH_DOM_POWER (i : Nat) : Fld := ⟨0x140200 + 0x4 * i, 16, 16⟩
def F.TH_DOM_CURRENT (i : Nat) : Fld := ⟨0x140200 + 0x4 * i, 0, 16⟩
def R.TH_DOM (i : Nat) : Nat := 0x140200 + 0x4 * i
def F.PC_CTL_CLR_ALL : Fld := ⟨0x150000, 2, 1⟩
def F.PC_CTL_FREEZE : Fld := ⟨0x150000, 1, 1⟩
def F.PC_CTL_SNAP : Fld := ⟨0x150000, 0, 1⟩
def R.PC_CTL : Nat := 0x150000
def F.PC_BPSEL_MMASK (i : Nat) : Fld := ⟨0x150100 + 0x20 * i, 16, 6⟩
def F.PC_BPSEL_CLMASK (i : Nat) : Fld := ⟨0x150100 + 0x20 * i, 12, 4⟩
def F.PC_BPSEL_PLMASK (i : Nat) : Fld := ⟨0x150100 + 0x20 * i, 8, 4⟩
def F.PC_BPSEL_EVENT (i : Nat) : Fld := ⟨0x150100 + 0x20 * i, 4, 4⟩
def F.PC_BPSEL_PORT (i : Nat) : Fld := ⟨0x150100 + 0x20 * i, 0, 4⟩
def R.PC_BPSEL (i : Nat) : Nat := 0x150100 + 0x20 * i
def F.PC_EVSEL_VAT (i : Nat) : Fld := ⟨0x150200 + 0x20 * i, 16, 8⟩
def F.PC_EVSEL_EVENT (i : Nat) : Fld := ⟨0x150200 + 0x20 * i, 0, 16⟩
def R.PC_EVSEL (i : Nat) : Nat := 0x150200 + 0x20 * i
def F.PC_EXT : Fld := ⟨0x150008, 0, 24⟩
def R.PC_EXT : Nat := 0x150008
def F.PC_SNAP_EXT : Fld := ⟨0x15000c, 0, 24⟩
def R.PC_SNAP_EXT : Nat := 0x15000c
def F.PC_SNAP_N_LO : Fld := ⟨0x150010, 0, 32⟩
def R.PC_SNAP_N_LO : Nat := 0x150010
def F.PC_SNAP_N_HI : Fld := ⟨0x150014, 0, 32⟩
def R.PC_SNAP_N_HI : Nat := 0x150014
def F.PC_BPWB (i : Nat) : Fld := ⟨0x150104 + 0x20 * i, 0, 32⟩
def R.PC_BPWB (i : Nat) : Nat := 0x150104 + 0x20 * i
def F.PC_BPWL (i : Nat) : Fld := ⟨0x150108 + 0x20 * i, 0, 32⟩
def R.PC_BPWL (i : Nat) : Nat := 0x150108 + 0x20 * i
def F.PC_BPCNT_LO (i : Nat) : Fld := ⟨0x150110 + 0x20 * i, 0, 32⟩
def R.PC_BPCNT_LO (i : Nat) : Nat := 0x150110 + 0x20 * i
def F.PC_BPCNT_HI (i : Nat) : Fld := ⟨0x150114 + 0x20 * i, 0, 32⟩
def R.PC_BPCNT_HI (i : Nat) : Nat := 0x150114 + 0x20 * i
def F.PC_BPSNP_LO (i : Nat) : Fld := ⟨0x150118 + 0x20 * i, 0, 32⟩
def R.PC_BPSNP_LO (i : Nat) : Nat := 0x150118 + 0x20 * i
def F.PC_BPSNP_HI (i : Nat) : Fld := ⟨0x15011c + 0x20 * i, 0, 32⟩
def R.PC_BPSNP_HI (i : Nat) : Nat := 0x15011c + 0x20 * i
def F.PC_EVCNT_LO (i : Nat) : Fld := ⟨0x150210 + 0x20 * i, 0, 32⟩
def R.PC_EVCNT_LO (i : Nat) : Nat := 0x150210 + 0x20 * i
def F.PC_EVCNT_HI (i : Nat) : Fld := ⟨0x150214 + 0x20 * i, 0, 32⟩
def R.PC_EVCNT_HI (i : Nat) : Nat := 0x150214 + 0x20 * i
def F.PC_EVSNP_LO (i : Nat) : Fld := ⟨0x150218 + 0x20 * i, 0, 32⟩
def R.PC_EVSNP_LO (i : Nat) : Nat := 0x150218 + 0x20 * i
def F.PC_EVSNP_HI (i : Nat) : Fld := ⟨0x15021c + 0x20 * i, 0, 32⟩
def R.PC_EVSNP_HI (i : Nat) : Nat := 0x15021c + 0x20 * i

end Sys2Proof.Machine
end

