-- ==== Sys2Proof/Machine/State.lean ====
section
/-!
DEFINITION. The state of the WX1024 as plain data: the BAR0 registers (one home each, keyed by offset), the addressed
memories, one record per block for what no register shows, the messages the latest command sent, and the queue of
commands. Every field cites the rule that names it; the reset values are those of INVENTORY.md.
-/
namespace Sys2Proof.Machine

/-- No command of this model ends in a fault (NOTES.md, Stops); the constructor keeps the type inhabited. It would be
safe: a stop proves nothing about the hardware. -/
inductive Fault where
  | illFormed (what : String)   -- raised by no meaning
  deriving DecidableEq, Repr

/-- A command without a meaning, by its mnemonic: raised by an arm of exec only, and safe. -/
inductive Refusal where
  | notModelled (mnemonic : String)
  deriving DecidableEq, Repr

/-- MODE of a loop (Table 5.4). -/
inductive Mode where
  | unused | run | frozen | restart | turn | darksafe
  deriving DecidableEq, Repr, Inhabited

/-- The 32-byte loop state (Table 5.3, R106). -/
structure LoopSt where
  ib : BitVec 40 := 0
  ix : BitVec 40 := 0
  th : BitVec 16 := 0
  sp : BitVec 16 := 0
  uhold : BitVec 16 := 0
  uapp : BitVec 16 := 0
  pv : BitVec 16 := 0
  elast : BitVec 16 := 0
  dacc : BitVec 32 := 0
  st : Bool := false
  dstate : Bool := false
  sgrad : BitVec 2 := 0
  dvoid : Bool := false
  lsat : BitVec 2 := 0
  spv : Bool := false
  mode : Mode := .unused
  aflags : Byte := 0
  lflags : Byte := 0
  deriving DecidableEq, Repr, Inhabited

/-- A loop descriptor (Table 5.1, R104). -/
structure Desc where
  kind : BitVec 2 := 0
  wcode : BitVec 4 := 0
  attdir : Bool := false
  kpSh : BitVec 3 := 0
  kiSh : BitVec 3 := 0
  kthSh : BitVec 3 := 0
  tph : BitVec 6 := 0
  tapb : BitVec 9 := 0
  tapx : BitVec 9 := 0
  drv : BitVec 9 := 0
  kp : BitVec 16 := 0
  ki : BitVec 16 := 0
  kth : BitVec 16 := 0
  ffBar : BitVec 16 := 0
  ffCross : BitVec 16 := 0
  umin : BitVec 16 := 0
  umax : BitVec 16 := 0
  ilim : BitVec 16 := 0
  offl : BitVec 16 := 0
  tstep : BitVec 16 := 0
  thlim : BitVec 16 := 0
  damp : BitVec 16 := 0
  dband : BitVec 16 := 0
  darkTh : BitVec 16 := 0
  slew : BitVec 16 := 0
  idx : BitVec 14 := 0
  deriving DecidableEq, Repr, Inhabited

/-- A vat entry of the topology section (Table 8.3). -/
structure VatEntry where
  vat : Nat := 0
  port : Bool := false
  ntap : Nat := 0
  ndrv : Nat := 0
  nloop : Nat := 0
  eicid : BitVec 40 := 0
  deriving DecidableEq, Repr, Inhabited

/-- A gate-list entry (Table 6.2, R135). -/
structure GateEntry where
  dur : Nat := 0
  rind : Nat := 0
  demand : Bool := false
  cset : Nat := 0
  form : Nat := 0
  deriving DecidableEq, Repr, Inhabited

/-- An instruction of a sample program (Table 8.4). -/
structure PInst where
  opc : Nat := 0
  phase : Nat := 0
  slot : Nat := 0
  arg : Nat := 0
  deriving DecidableEq, Repr, Inhabited

/-- A vat's sample program (Table 8.4): phase openings in ns, phase 0 at 0. -/
structure Prog where
  phases : List Nat := []
  ins : List PInst := []
  deriving DecidableEq, Repr, Inhabited

/-- Rates and bursts of one service of a subscriber (Table 7.6). -/
structure Svc where
  cir : Word := 0
  pir : Word := 0
  cbs : Word := 0
  pbs : Word := 0
  deriving DecidableEq, Repr, Inhabited

/-- A subscriber's configuration (Table 7.6). -/
structure SubCfg where
  en : Bool := false
  sw : Byte := 0
  svc : List Svc := []
  deriving DecidableEq, Repr, Inhabited

/-- The demand configuration of a plan (Table 8.7, R194). -/
structure DemCfg where
  cwg : Byte := 0
  cwy : Byte := 0
  vw : List Byte := []
  ageSh : Nat := 0
  cap : List Word := []
  drate : List Nat := []
  subs : Tbl SubCfg := []
  deriving DecidableEq, Repr, Inhabited

/-- A plan as the loader accepted it (08 R186 to R194), but for its forms, which lie in FS. -/
structure Plan where
  opmin : Nat := 0
  planid : BitVec 64 := 0
  topo : Word := 0
  nin : Nat := 0
  nout : Nat := 0
  vats : List VatEntry := []
  nbrs : List (Nat × Nat) := []
  descs : Tbl Desc := []
  progs : Tbl Prog := []
  level : List (BitVec 16) := []
  gate : List GateEntry := []
  cyclen : Nat := 0
  dark : Bool := false
  darkStep : Nat := 0
  pchkTh : Nat := 0
  cal : Tbl Word := []
  dem : DemCfg := {}
  deriving DecidableEq, Repr, Inhabited

/-- A form as GL holds it: number, cell bits, resolved port targets, PERM bytes (R152). -/
structure FormImg where
  fnum : Nat := 0
  cells : List Byte := []
  tgts : List (BitVec 16) := []
  perm : List Byte := []
  deriving DecidableEq, Repr, Inhabited

/-- A decided slot (R140): its index k, B(k) as the sample m, the entry and flags announced, and what it presses. -/
structure Slot where
  k : Nat := 0
  m : Nat := 0
  entry : Nat := 0
  dur : Nat := 0
  rind : Nat := 0
  demand : Bool := false
  chosen : Bool := false
  fallback : Bool := false
  idle : Bool := false
  first : Bool := false
  nochg : Bool := false
  committed : Bool := false
  cancelled : Bool := false
  announced : Bool := false
  epoch : Byte := 0
  img : FormImg := {}
  changed : List (Nat × Bool) := []
  deriving DecidableEq, Repr, Inhabited

/-- A PTP message event waiting on a port: sequence number and times in 1/16 ns (R38). -/
structure SyncPend where
  seq : BitVec 16 := 0
  rx : Int := 0
  deriving DecidableEq, Repr, Inhabited

/-- What a PTP port knows (R39); reqAt: the sample of its latest own request (Table 2.1). -/
structure PtpPort where
  master : Option Announce := none
  lost : Bool := true
  pend : Option SyncPend := none
  reqSeq : BitVec 16 := 0
  reqOut : Bool := false
  reqAt : Option Nat := none
  delay : Int := 0
  offset : Option Int := none
  deriving DecidableEq, Repr, Inhabited

/-- A schedule comparator (R36): loaded, the sample index it waits for, and whether it takes the frame strobe. -/
structure Cmp where
  on : Bool := false
  idx : Nat := 0
  frame : Bool := false
  deriving DecidableEq, Repr, Inhabited

/-- TB's state beyond its registers (02): the time value, the addend with the samples at which it changed (newest first), its
mean over the last of LOCKED and the sample at which LOCKED began (R34, R43), the direction of the change of addend under way
and the mean before it (R34), the counts of Table 2.2 and R44, the sample of the latest TB_UNC, holdover (u0, seconds), a
change of SRC from free that waits for an offset and the SRC it still acts on (R49), a reference switch (R46: its sample), the
loss of both references (R47: at which sample, an input usable again, the clearing count), the ports, PPS qualification
(R48), the sample at which the latest second of holdover ended (R44), a host step awaited, the eight schedule comparators by number (R36), and P3 (R51: inc_e, time_e in 2^-32 ns, unc_e and
the slow ticks counted so far). -/
structure Tb where
  sec : BitVec 48 := 0
  ns : BitVec 30 := 0
  frac : Word := 0
  addend : BitVec 40 := 0x0200000000
  hist : List (Nat × BitVec 40) := [(0, 0x0200000000)]
  lockMean : BitVec 40 := 0x0200000000
  lockFrom : Nat := 0
  chgUp : Option Bool := none
  chgBase : BitVec 40 := 0x0200000000
  lockCnt : Nat := 0
  okCnt : Nat := 0
  supervised : Bool := false
  uncAt : Nat := 0
  u0 : Nat := 0
  hoSecs : Nat := 0
  hoAt : Nat := 0
  fromFree : Bool := false
  srcPend : Option Nat := none
  switchAt : Option Nat := none
  refBoth : Bool := false
  refLost : Nat := 0
  refOkSeen : Bool := false
  refClr : Nat := 0
  pa : PtpPort := {}
  pb : PtpPort := {}
  ppsCnt : Nat := 0
  ppsCand : Bool := false
  ppsPolKnown : Bool := false
  todArm : Bool := false
  cmp : Tbl Cmp := []
  incE : BitVec 64 := 0
  timeE : Nat := 0
  uncE : Word := 0
  ticks : Nat := 0
  ppsOut : Bool := false
  deriving DecidableEq, Repr, Inhabited

/-- One delay exchange (R74), in 1/256 ns. -/
structure Exch where
  dn : Int := 0
  up : Int := 0
  off : Int := 0
  deriving DecidableEq, Repr, Inhabited

/-- A vat-link lane beyond its registers (03). dreqAt: the sample of the latest DREQ in ACTIVE (R74); runLost: block lock was
lost during a LANE run (R215). -/
structure Lane where
  nonceTx : BitVec 16 := 0
  nonceRx : BitVec 16 := 0
  trnGood : Nat := 0
  exch : List Exch := []
  nDelay : Nat := 0
  dreq : Option (Byte × BitVec 64) := none
  locked : Bool := false
  doubt : Option SofS := none
  seqRej : Nat := 0
  fails : List Nat := []
  toffBad : Nat := 0
  slew : BitVec 2 := 0b10
  calHold : Bool := false
  dreqAt : Option Nat := none
  runLost : Bool := false
  deriving DecidableEq, Repr, Inhabited

/-- A HOLD, RELEASE or MODE block that VL sends, with the index of its EFF (R75, R76). -/
inductive LinkBlk where
  | hold (reason eff : Nat)
  | release (eff : Nat)
  | mode (interval eff : Nat)
  deriving DecidableEq, Repr, Inhabited

/-- A vat's link state (03). blkAt: the latest drive frame that carries four HOLD, RELEASE or MODE blocks; blks: the blocks whose
four copies wait for the end of that frame, oldest first (R59). -/
structure Vat where
  eicId : Option (BitVec 40) := none
  holds : BitVec 4 := 0
  holdEff : Option Nat := none
  relEff : Option Nat := none
  acc : Nat := 0
  heldRun : Nat := 0
  eflt : Bool := false
  efltPend : Bool := false
  lostFrame : Option Nat := none
  toffGood : Nat := 0
  sofN : Nat := 0
  sof : Option SofS := none
  prevOk : Bool := false
  status : Option Status := none
  never : Bool := true
  aseq : BitVec 16 := 0
  copies : List Bool := []
  segs : List Nat := []
  checkPa : Option Nat := none
  relDone : Bool := false
  blkAt : Option Nat := none
  blks : List LinkBlk := []
  deriving DecidableEq, Repr, Inhabited

structure Vl where
  lanes : Tbl Lane := []
  vats : Tbl Vat := []
  taps : Tbl (BitVec 16) := []
  gate : Bool := false
  deriving DecidableEq, Repr, Inhabited

/-- Condition of a loop after its front end (R99). -/
inductive Cond where
  | normal | stale | dark
  deriving DecidableEq, Repr, Inhabited

/-- What the front end hands to the update (R99). -/
structure Front where
  cond : Cond := .stale
  e : Int := 0
  r : Int := 0
  lvl : Int := 0
  cb : Int := 0
  cx : Int := 0
  deriving DecidableEq, Repr, Inhabited

/-- The word a loop put out in a frame, its stale bit, and whether it was the dithered output (R95, R108). -/
structure DWord where
  word : BitVec 16 := 0
  stale : Bool := false
  deriving DecidableEq, Repr, Inhabited

/-- One engine's private state (R106, R124). dith: of each loop its latest frames with whether their word was dithered and its chip (R95);
ph, pos: per vat the phases opened after phase 0 and the instructions issued in the frame (08 R195); dead: units without a clock
(10 Table 10.2). -/
structure EngSt where
  loops : Tbl LoopSt := []
  recs : Tbl (List (Nat × BitVec 16)) := []
  pvsat : Tbl (BitVec 2) := []
  front : Tbl Front := []
  words : Tbl DWord := []
  dith : Tbl (List (Nat × Bool × Nat)) := []
  useq : Tbl (Option (BitVec 16)) := []
  segs : Tbl (List Byte) := []
  aNote : List Nat := []
  lNote : List Nat := []
  ph : Tbl Nat := []
  pos : Tbl Nat := []
  dead : List Nat := []
  deriving DecidableEq, Repr, Inhabited

/-- Operations that reach loops at a frame opening (R125, R126). -/
inductive TuneKind where
  | write | preset | reseed | clear
  deriving DecidableEq, Repr, Inhabited

/-- A pending loop.tune or loop.read clear in the tuning shadow (R10, R125). -/
structure Tune where
  kind : TuneKind := .write
  mb : Nat := 0
  vat : Nat := 0
  loops : List Nat := []
  fmask : Word := 0
  img : Desc := {}
  val : BitVec 40 := 0
  st : Bool := false
  first : Nat := 0
  last : Nat := 0
  deriving DecidableEq, Repr, Inhabited

/-- A plan that is not retired yet, kept where a staged plan has taken its bank (01 R26). -/
structure KeptPlan where
  bank : Bool := false
  plan : Plan := {}
  descs : Tbl Desc := []
  cal : Tbl Word := []
  deriving DecidableEq, Repr, Inhabited

/-- What both engines hold identically (R88, R104), and the frame in progress. -/
structure Le where
  a : EngSt := {}
  b : EngSt := {}
  descs0 : Tbl Desc := []
  descs1 : Tbl Desc := []
  cal0 : Tbl Word := []
  cal1 : Tbl Word := []
  calPend : List (Nat × Word) := []
  tune : List Tune := []
  frame : Nat := 0
  isOpen : Bool := false
  inUse : Bool := false
  bank : Bool := false
  epoch : Byte := 0
  darkN : Nat := 0
  darkDone : Option Nat := none
  darkRel : List Nat := []
  closed : Tbl LoopSt := []
  closedDescs : Tbl Desc := []
  closedN : Nat := 0
  kept : Option KeptPlan := none
  deriving DecidableEq, Repr, Inhabited

/-- A form-store slot (R132). -/
structure FsSlot where
  bytes : List Byte := []
  bad : Bool := false
  deriving DecidableEq, Repr, Inhabited

/-- The form store: its slots, the form map of each bank, and the slots of a plan not yet retired whose bank a staged plan has
taken (01 R26). -/
structure Fs where
  slots : Tbl FsSlot := []
  map0 : Tbl (Option Nat) := []
  map1 : Tbl (Option Nat) := []
  kept : List Nat := []
  deriving DecidableEq, Repr, Inhabited

/-- A chooser result waiting for its decision (R176): slot, form, valid, idle, form's slot BAD (R134). -/
structure Choice where
  k : Nat := 0
  form : Nat := 0
  valid : Bool := false
  idle : Bool := false
  deriving DecidableEq, Repr, Inhabited

/-- GL beyond its registers (06). voidRun: the slot whose run an activation's cancel has made void (R151); annEp: the epoch of the
latest slot announced (07 Table 7.4). -/
structure Gl where
  dec : List Slot := []
  cur : FormImg := {}
  last : FormImg := {}
  lastK : Nat := 0
  walking : Bool := false
  entry : Nat := 0
  nextB : Nat := 0
  owed : Nat := 0
  decK : Nat := 0
  decEntry : Nat := 0
  decM : Nat := 0
  decBank : Bool := false
  choice : Option Choice := none
  voidRun : Option Nat := none
  annEp : Option Byte := none
  retireAt : Option Nat := none
  pchk : Option (Nat × Nat × Nat × Nat) := none
  deriving DecidableEq, Repr, Inhabited

/-- A rod's report window (R164). -/
structure Rod where
  have_ : Bool := false
  last : BitVec 16 := 0
  lastacc : Nat := 0
  stale : Bool := true
  deriving DecidableEq, Repr, Inhabited

/-- A meter (Table 7.6): full says that both buckets stand at their bursts (R179). -/
structure Meter where
  full : Bool := true
  tc : BitVec 40 := 0
  tp : BitVec 40 := 0
  tlast : Word := 0
  green : BitVec 64 := 0
  yellow : BitVec 64 := 0
  red : BitVec 64 := 0
  deriving DecidableEq, Repr, Inhabited

/-- A queued report entry (R169). -/
structure QEnt where
  rod : Nat := 0
  dst : Nat := 0
  svc : Nat := 0
  sub : Nat := 0
  oct : Word := 0
  n : Nat := 0
  deriving DecidableEq, Repr, Inhabited

/-- A bead-bank operation held during a run (R175). -/
inductive BankOp where
  | add (i o inc : Nat)
  | drain (k i o dr : Nat)
  | refund (k : Nat)
  | age (i : Nat) (o : Option Nat)
  deriving DecidableEq, Repr, Inhabited

/-- A chooser run in progress with the abacus as it stood at its first clock (R175). -/
structure Run where
  k : Nat := 0
  bank : Bool := false
  cset : Nat := 0
  dflt : Nat := 0
  code : Nat := 0
  beads : Tbl Word := []
  age : Tbl Byte := []
  stale : List Nat := []
  released : Bool := false
  deriving DecidableEq, Repr, Inhabited

/-- DE beyond its registers (07). -/
structure De where
  beads : Tbl Word := []
  age : Tbl Byte := []
  rods : Tbl Rod := []
  meters : Tbl Meter := []
  queue : Tbl (List QEnt) := []
  qNoted : List Nat := []
  dem : DemCfg := {}
  nin : Nat := 0
  nout : Nat := 0
  run : Option Run := none
  held : List BankOp := []
  drained : List (Nat × Nat × Nat × Nat) := []
  badMap : List (Bool × Nat) := []
  t0 : Nat := 0
  deriving DecidableEq, Repr, Inhabited

/-- A calibration run in progress (R213). target: lane 0 to 127, 128 RPA, 129 RPB, 130 the sense channels, 256 + vat for
TAP. active: its taps are stale (R218); ended: it is over and the stale window ends at the next opening (R219); acc: of each
tap channel the codes summed and counted for the measurement under way, and the measurements done (R214, R218). -/
structure CalRun where
  mb : Nat := 0
  ended : Bool := false
  kind : Nat := 0
  target : Nat := 0
  store : Bool := false
  asym : Option (BitVec 16) := none
  ref : Bool := false
  first : Nat := 0
  count : Nat := 0
  nsamp : Nat := 0
  x : BitVec 16 := 0
  active : Bool := false
  acc : Tbl (Nat × Nat × List Int) := []
  deriving DecidableEq, Repr, Inhabited

/-- A stint (R220 to R224). fr, frAt: the frames of its staircase so far, and the latest of them. -/
structure Stint where
  mb : Nat := 0
  vat : Nat := 0
  cells : List Nat := []
  sweep : Bool := false
  tstate : Bool := false
  probe : Nat := 0
  plevel : BitVec 16 := 0
  idle : List Nat := []
  maxdur : Nat := 0
  start : BitVec 16 := 0
  stop : BitVec 16 := 0
  step : BitVec 16 := 0
  dwell : Nat := 0
  ring : Nat := 0
  entered : Option Nat := none
  exitM : Option Nat := none
  probeOff : Bool := false
  stopReq : Bool := false
  fr : Nat := 0
  frAt : Nat := 0
  stepsOut : Nat := 0
  sumB : Int := 0
  sumX : Int := 0
  cnt : Nat := 0
  staleCnt : Nat := 0
  deriving DecidableEq, Repr, Inhabited

/-- An injection (R225). -/
structure Inj where
  vat : Nat := 0
  ty : Nat := 0
  openMode : Bool := false
  w : BitVec 4 := 0
  amp : BitVec 16 := 0
  per : Nat := 0
  ns : Nat := 0
  s0 : Nat := 0
  loops : List Nat := []
  aux : List Nat := []
  stopped : Bool := false
  deriving DecidableEq, Repr, Inhabited

/-- A capture (R227, R228): its number, running minimum, maximum, sum and count of each item. -/
structure Cap where
  id : Nat := 0
  mb : Nat := 0
  vat : Nat := 0
  ring : Nat := 0
  items : List (Nat × Nat) := []
  ns : Nat := 0
  start : Nat := 0
  done : Nat := 0
  dropped : Nat := 0
  stats : List (Int × Int × Int × Nat) := []
  deriving DecidableEq, Repr, Inhabited

/-- CAL beyond its registers (09): runs, stints, injections by number, captures with the number of the latest, and zero code
and gain of the sense channels (R217). -/
structure Cal where
  runs : List CalRun := []
  stints : List Stint := []
  inj : Tbl (Option Inj) := []
  caps : List Cap := []
  capNo : Nat := 0
  isense : Tbl (BitVec 16 × BitVec 16) := []
  deriving DecidableEq, Repr, Inhabited

/-- A record write or erase that waits (R232, R236): the mailbox it answers, whether that is a cal.run with STORE and the
response it then gives, with the run's kind and target; refresh: the rewrite of a record with the content it has when the write
begins (R234). -/
structure NvReq where
  mb : Option Nat := none
  ty : Nat := 0
  key : Nat := 0
  payload : List Byte := []
  erase : Bool := false
  cal : Bool := false
  resp : List Byte := []
  refresh : Bool := false
  run : Nat × Nat := (0, 0)
  deriving DecidableEq, Repr, Inhabited

/-- Progress of the write in progress: its slot, generation and stamp, the copy and page under way, and whether the
operation in progress erases. -/
structure NvCur where
  req : NvReq := {}
  slot : Nat := 0
  gen : Nat := 0
  stamp : Nat := 0
  tvalid : Bool := false
  copyB : Bool := false
  page : Nat := 0
  erasing : Bool := true
  deriving DecidableEq, Repr, Inhabited

/-- The NV die (R229 to R236): page contents (a byte past a page's list is erased), erase counts, the journal's write
position, the queue, the shut-down record in AON, operations abandoned at a trip, the fused rollback counter once raised, and the
daily scans since the last refresh pass (R234). -/
structure Nv where
  pages : Tbl (List Byte) := []
  wear : Tbl Nat := []
  jpos : Nat := 0
  queue : List NvReq := []
  cur : Option NvCur := none
  aon : Option (List Byte) := none
  aborted : Nat := 0
  tripped : Bool := false
  fuseRb : Option Word := none
  days : Nat := 0
  deriving DecidableEq, Repr, Inhabited

/-- A resynchronisation (R250): its first frame, the attempt, the openings of frames that run since (0: not begun), copy
complete, trial frames. -/
structure Resync where
  s : Nat := 0
  try_ : Nat := 1
  k : Nat := 0
  copied : Bool := false
  trial : Bool := false
  deriving DecidableEq, Repr, Inhabited

/-- Release state of one vat's drive frame (R17, R239): the copies that wait for their partner (engine, part, bytes), the
parts each engine has handed over, SOF_D sent, ended by ABORT, ended by TERM. -/
structure Rel where
  wait : List (Eng × Nat × List Byte) := []
  nA : Nat := 0
  nB : Nat := 0
  opened : Bool := false
  aborted : Bool := false
  closed : Bool := false
  deriving DecidableEq, Repr, Inhabited

/-- A swap or removal that takes effect at the next frame opening (R254). -/
inductive TwReq where
  | swap
  | remove (e : Eng)
  deriving DecidableEq, Repr

/-- TW beyond its registers (10): the samples counted in the mismatch window, the frame's release state and the previous
frame's, first differences of the frame's vats and those of its trial frames (TW_LASTMIS words), vats whose trial frame differed, resynchronisations,
the restore in progress and its mailbox, accepted swaps and removals, priority passes, units that set STARVED, and the registers
as of the last frame close (R260) with its sample. -/
structure Tw where
  mis : List Nat := []
  rel : Tbl Rel := []
  lastRel : Tbl Rel := []
  diffs : List (Nat × Nat) := []
  trialDiffs : List (Nat × Nat) := []
  trialBad : List Nat := []
  vres : Tbl (Option Resync) := []
  wres : Option Resync := none
  restoring : Option Eng := none
  restoreMb : Option Nat := none
  reqs : List TwReq := []
  prio : List (Eng × Nat) := []
  starved : List (Eng × Nat) := []
  shadow : Tbl Word := []
  shadowN : Nat := 0
  deriving DecidableEq, Repr, Inhabited

/-- A mailbox (R266 to R268): the copied request, whether another command of R269 was in progress at its doorbell, and the
response once the command is complete; from_: the mailbox that accepted it, bell: the number of its doorbell (R269). -/
structure Mbx where
  from_ : Nat := 0
  bell : Nat := 0
  cmd : Nat := 0
  len : Nat := 0
  req : List Byte := []
  taken : Bool := false
  ready : Option (Nat × Nat × Nat × List Byte) := none
  conflict : Bool := false
  deriving DecidableEq, Repr, Inhabited

/-- Capabilities of the PCIe function (Table 11.1). -/
inductive PcieCap where
  | pcie | powerManagement | msix | aer | serialNumber | dataLinkFeature | gen4 | gen5 | laneMargining
  deriving DecidableEq, Repr

/-- The PCIe function (R261): its identity, capabilities and limits (maxSpeed 5 is 32.0 GT/s), and whether its power state is D3hot
or D0. -/
structure PcieFn where
  vendor : BitVec 16 := 0x1E9C
  device : BitVec 16 := 0x1024
  revision : Byte := 0x01
  classCode : BitVec 24 := 0x118000
  caps : List PcieCap := [.pcie, .powerManagement, .msix, .aer, .serialNumber, .dataLinkFeature, .gen4, .gen5, .laneMargining]
  barBytes : Nat := 0x1000000
  maxWidth : Nat := 8
  maxPayload : Nat := 512
  maxRead : Nat := 4096
  nonPosted : Nat := 256
  vectors : Nat := 64
  tableOff : Nat := 0x1000
  pbaOff : Nat := 0x1800
  maxSpeed : BitVec 3 := 5
  tags10 : Bool := true
  bar64 : Bool := true
  prefetchable : Bool := false
  intx : Bool := false
  msi : Bool := false
  d3hot : Bool := false
  deriving DecidableEq, Repr

/-- HIF beyond its registers (R261, R264): the PCIe function, doorbells accepted, the service code, the low word offered, mismatches in a row, reads the host's PCIe
saw aborted (R288), the serial number, and the unlock period in seconds with the samples of it that have passed. -/
structure Hif where
  fn : PcieFn := {}
  bells : Nat := 0
  code : BitVec 64 := 0
  codeLoaded : Bool := false
  offerLo : Word := 0
  misses : Nat := 0
  aerAbort : Nat := 0
  serial : BitVec 64 := 0
  svcFor : Nat := 0
  svcRun : Nat := 0
  deriving DecidableEq, Repr, Inhabited

/-- An event record before its ring gives it SEQ, PHASE and LOSTCNT (Table 11.9). -/
structure Ev where
  ty : Nat := 0
  sev : Nat := 0
  first : Bool := false
  group : Nat := 0
  hw : Bool := true
  sample : Nat := 0
  ns : BitVec 30 := 0
  sec : BitVec 48 := 0
  src : BitVec 28 := 0
  code : Word := 0
  data : List Byte := []
  deriving DecidableEq, Repr, Inhabited

/-- An event ring: records routed and not yet written, LOSTCNT, sequence number, unsignalled records. -/
structure Ring where
  todo : List Ev := []
  lost : Nat := 0
  seq : Nat := 0
  unsig : Nat := 0
  deriving DecidableEq, Repr, Inhabited

structure Evq where
  inbox : List Ev := []
  rings : Tbl Ring := []
  pend : List Ev := []
  pendDrop : Nat := 0
  deriving DecidableEq, Repr, Inhabited

/-- A trace record (R277): the ring its request names, or none for every ring of its type; cap: the number of its capture. -/
structure Trec where
  ring : Option Nat := none
  cap : Option Nat := none
  ty : Nat := 0
  lebEng : Bool := false
  blk : Nat := 0
  vat : Nat := 0xFF
  payload : List Byte := []
  deriving DecidableEq, Repr, Inhabited

/-- A trace ring (R276): LOSTCNT, sequence number, past half full, a drop since TRC_DROP was read, the consumer index
in effect. -/
structure TRing where
  ci : Nat := 0
  lost : Nat := 0
  seq : Nat := 0
  half : Bool := false
  dropNoted : Bool := false
  deriving DecidableEq, Repr, Inhabited

structure Trc where
  inbox : List Trec := []
  rings : Tbl TRing := []
  deriving DecidableEq, Repr, Inhabited

/-- The stewards (R279 to R283, R363): an image runs, which has reached READY or not; the core is being raised before the
boot gate opens. -/
structure St where
  booted : Bool := false
  raising : Bool := false
  deriving DecidableEq, Repr, Inhabited

/-- A request at the bus matrix (R290): its transaction, QOS, clocks waited, the bus-port counters whose filters it passed when it
was raised and when it was granted (15 R348); fresh: no grant at its target has come since it was raised; code, known: of a T6
access the code T6 gives it, and of a read the bytes it returns as far as the matrix knows them at the grant, by offset (R287, R293);
late: it timed out and its target still holds it (R289); drain: its master was reset (R296). -/
structure BmW where
  q : BmReq := { mid := 0, pl := 0, cls := 0, tgt := 0, write := false, beats := 1, addr := 0, data := [] }
  qos : Nat := 0
  wait : Nat := 0
  raisedFor : List Nat := []
  grantedFor : List Nat := []
  fresh : Bool := true
  code : Nat := 0
  known : Tbl Byte := []
  late : Bool := false
  drain : Bool := false
  deriving DecidableEq, Repr, Inhabited

/-- BM (12): requests that wait in issue order, transactions granted and not answered, per target the round-robin pointer
and the master its grant is parked with, the slice mask that a pause will switch to, the bytes of T0, T3, T4 and T7 that
transactions have written, by target and address (R293), and per target the clocks since its last grant for which WAIT has been
counted (15 R347). -/
structure Bm where
  wait : List BmW := []
  out : List BmW := []
  rr : Tbl Nat := []
  parked : Tbl Nat := []
  sliceTo : Option Nat := none
  mem : Tbl (Option Byte) := []
  passed : Tbl Nat := []
  deriving DecidableEq, Repr, Inhabited

/-- A record of the collector (R301, R303). -/
structure Rec where
  line : Line := { code := 0, sev := 0, src := 0, info := 0, hw := true }
  group : Nat := 0
  sample : Nat := 0
  deriving DecidableEq, Repr, Inhabited

/-- A line raised and not yet collected; one of the always-on domain carries its sample index (R300). -/
structure Raised where
  line : Line := { code := 0, sev := 0, src := 0, info := 0, hw := true }
  at_ : Option (BitVec 64) := none
  deriving DecidableEq, Repr, Inhabited

/-- FC beyond its registers (13). rate: source, code, sample of the last event sent, occurrences withheld since (R305). -/
structure Fc where
  lines : List Raised := []
  hist : List Rec := []
  rate : List (BitVec 28 × BitVec 16 × Nat × Nat) := []
  latch : Bool := false
  latchLogged : Bool := false
  eictClr : List Nat := []
  overrun : Bool := false
  actSince : Bool := false
  deriving DecidableEq, Repr, Inhabited

/-- Steps of the entry to P3 or P4 (R325, R329); woken: the core is up and the engines still stand (R327); boot: after the rise
of RESET_N the supply and the clocks come up (16 Table 16.7). -/
inductive P3Step where
  | none | waiting | held | idle | linkDown | halted | off | woken | boot
  deriving DecidableEq, Repr, Inhabited

/-- Steps of a wake (R327, R328). -/
inductive WakeStep where
  | none | supply | clocks | measuring | retryWait
  deriving DecidableEq, Repr, Inhabited

/-- PM beyond its registers (14): the requested point, the slots decided before a request for P3 or P4 (R325), the point change in progress (target; voltage awaited; divider
ready), the point whose voltage was written last, the voltage write that is retried, what a refusal restores (point), the state requested once the point is reached,
the mailbox of pm.set with the REFUSER it reports, the pending MODE (EFF, INTERVAL 16), the entry to P3 or P4 and the apply
instant of its HOLD, the wake and its attempts, and the state that follows it. -/
structure Pm where
  opReq : Nat := 2
  waitK : Nat := 0
  opTgt : Option Nat := none
  avsTgt : Option Nat := none
  avsLast : Nat := 2
  avsRetry : Bool := false
  divider : Bool := false
  undoOp : Nat := 2
  reqPend : Option Nat := none
  mb : Option (Nat × Nat) := none
  park : Option (Nat × Bool) := none
  p3 : P3Step := .none
  p4 : Bool := false
  holdEff : Nat := 0
  wake : WakeStep := .none
  attempt : Nat := 0
  target : Bool := false
  deriving DecidableEq, Repr, Inhabited

/-- TH beyond its registers (14): node temperatures in 2^-16 degrees (an unlisted node stands at 45), samples in a row a
channel read bad, substituted channels, TH_TMAX of past evaluations, newest first, the five counts of R337, the fit with
whether the point or the state has changed during it (R335), the board temperature last given with VALID, and whether the trip
latched is TRIP_RATE (R339). -/
structure Th where
  node : Tbl Int := []
  full : Tbl Nat := []
  sub : List Nat := []
  hist : List Int := []
  wIn : Nat := 0
  wOut : Nat := 0
  tIn : Nat := 0
  tOut : Nat := 0
  rIn : Nat := 0
  fitOn : Bool := false
  fitStore : Bool := false
  fitChg : Bool := false
  board : BitVec 16 := 0x1680
  tripRate : Bool := false
  deriving DecidableEq, Repr, Inhabited

/-- PC beyond its registers (15): selections still in force whose registers have been rewritten (R346), and the sums of
the frame's events (R350). -/
structure Pc where
  pend : List (Nat × Word) := []
  acc : Tbl Nat := []
  deriving DecidableEq, Repr, Inhabited

/-- Pin levels (Table 16.3). Nothing drives DBG_TRST_N at first, and its pull-down holds it low (16 R369). -/
structure Pins where
  resetN : Bool := true
  perstN : Bool := true
  coreEn : Bool := true
  corePg : Bool := true
  faultN : Bool := true
  offN : Bool := true
  wakeN : Bool := true
  trstN : Bool := false
  deriving DecidableEq, Repr, Inhabited

/-- What the block sends outside in a command (the model's view of its pins and of host memory). -/
inductive Tx where
  | readData (off : Nat) (v : Word)
  | hostWrite (addr : BitVec 64) (bytes : List Byte)
  | hostRead (addr : BitVec 64) (len : Nat)
  | msix (vec : Nat)
  | frame (p : Port) (bytes : List Byte)
  | ptpRequest (p : Port) (udp peer altDa : Bool) (sa : BitVec 48) (domain : Byte) (seq : BitVec 16)
  | tos (lane : Nat) (ttx : BitVec 40) (frac : Byte) (ddn : BitVec 16) (nseq : BitVec 16) (valid : Bool)
  | dreq (lane : Nat) (nonce : Byte)
  | trn (lane : Nat) (tstate : Byte) (nonceTx nonceEcho : BitVec 16) (vat : Nat)
  | hold (lane : Nat) (reason : Nat) (eff : BitVec 40)
  | release (lane : Nat) (eff : BitVec 40)
  | mode (lane : Nat) (interval : Nat) (eff : BitVec 40)
  | drive (vat : Nat) (laneB : Bool) (seg : Nat) (bytes : List Byte)
  | term (vat : Nat) (laneB : Bool)
  | abort (vat : Nat) (laneB : Bool)
  | electricalIdle (lane : Nat)
  | avsWrite (mv : Nat)
  | avsRead
  | pin (name : String) (level : Bool)
  | pcieAbort
  | busAnswer (mid : Nat) (code : Nat) (data : List Byte)
  deriving DecidableEq, Repr

end Sys2Proof.Machine

namespace Sys2Proof.Machine

/-- Everything of the WX1024 but its mailbox memory and the queue: what most commands work on. -/
@[ext]
structure Dev where
  regs : Tbl Word := []
  hold : Tbl Word := []
  tb : Tb := {}
  vl : Vl := {}
  le : Le := {}
  plan0 : Option Plan := none
  plan1 : Option Plan := none
  fs : Fs := {}
  gl : Gl := {}
  de : De := {}
  cal : Cal := {}
  nv : Nv := {}
  tw : Tw := {}
  mbx : Tbl Mbx := []
  hif : Hif := {}
  evq : Evq := {}
  trc : Trc := {}
  st : St := {}
  bm : Bm := {}
  fc : Fc := {}
  pm : Pm := {}
  th : Th := {}
  pc : Pc := {}
  pins : Pins := {}
  freeCtr : Nat := 0
  tx : List Tx := []
  deriving DecidableEq, Repr

/-- The whole state: the block, the mailbox areas (0x200000 on, R266) byte by byte, and the commands that wait. -/
@[ext]
structure State where
  dev : Dev := {}
  mem : List Host.Cell := []
  pending : List Instr := []
  deriving DecidableEq, Repr

/-- The machine right after reset: every register at its table's reset value (the sparse map lists nothing), no plan, no
lane trained, every vat held (VL_VAT_HELD), LEA active and LEB standby (TW_STAT), P0 at OP2 (PM_STAT), the thermal nodes
at 45 degrees (R334), and an empty queue. Values the spec does not give are those of log 4 to 6. -/
def State.reset : State := {}

end Sys2Proof.Machine
end

