-- ==== Sys2Proof/Machine/Flags.lean ====
section
/-!
DEFINITION. The sticky flags of a loop (04 R100, Table 4.6; 05 R127, Table 5.9) and their summary over a vat (R101).
-/
namespace Sys2Proof.Machine

/-- Set sticky flag b of AFLAGS (Table 4.6) when c. -/
def LoopSt.aFlag (b : Nat) (c : Bool) (s : LoopSt) : LoopSt :=
  if c then { s with aflags := s.aflags ||| BitVec.ofNat 8 (2 ^ b) } else s

/-- Set sticky flag b of LFLAGS (Table 5.9) when c. -/
def LoopSt.lFlag (b : Nat) (c : Bool) (s : LoopSt) : LoopSt :=
  if c then { s with lflags := s.lflags ||| BitVec.ofNat 8 (2 ^ b) } else s

/-- OR of a flag byte over loops and the number with any bit set (R101). -/
def flagSum (l : List Byte) : Nat × Nat :=
  (l.foldl (fun a b => a ||| b.toNat) 0, (l.filter (· != 0)).length)

end Sys2Proof.Machine
end

