-- ==== Sys2Proof/Machine/Bits.lean ====
section
/-!
DEFINITION. Sparse tables, bytes and words, CRC-32C, saturating counts: the helpers that every block uses.
-/
namespace Sys2Proof

/-- What a table lists under a key. -/
def Tbl.look {α : Type} : Tbl α → Nat → Option α
  | [], _ => none
  | (j, v) :: r, k => if j = k then some v else Tbl.look r k

/-- List v under k, at its place in the rising order of keys. -/
def Tbl.insert {α : Type} : Tbl α → Nat → α → Tbl α
  | [], k, v => [(k, v)]
  | (j, w) :: r, k, v =>
    if k < j then (k, v) :: (j, w) :: r
    else if k = j then (k, v) :: r
    else (j, w) :: Tbl.insert r k v

/-- List nothing under k. -/
def Tbl.erase {α : Type} (t : Tbl α) (k : Nat) : Tbl α := t.filter (fun e => e.1 != k)

/-- Store v under k, where d is what an unlisted k reads as: the table stays in its canonical form. -/
def Tbl.put {α : Type} [DecidableEq α] (d : α) (t : Tbl α) (k : Nat) (v : α) : Tbl α :=
  if v = d then t.erase k else t.insert k v

/-- Read a table whose unlisted keys read as the type's default. -/
def Tbl.get {α : Type} [Inhabited α] (t : Tbl α) (k : Nat) : α := (t.look k).getD default

def Tbl.set {α : Type} [Inhabited α] [DecidableEq α] (t : Tbl α) (k : Nat) (v : α) : Tbl α := t.put default k v

def Tbl.mod {α : Type} [Inhabited α] [DecidableEq α] (t : Tbl α) (k : Nat) (f : α → α) : Tbl α := t.set k (f (t.get k))

/-- Every entry of a table through f; what becomes the default leaves the table. -/
def Tbl.mapAll {α : Type} [Inhabited α] [DecidableEq α] (f : Nat → α → α) (t : Tbl α) : Tbl α :=
  t.filterMap (fun kv => if f kv.1 kv.2 = default then none else some (kv.1, f kv.1 kv.2))

/-- The canonical form: keys strictly rising, no entry equal to what its key reads as unlisted. -/
def Tbl.wfFrom {α : Type} [DecidableEq α] (d : Nat → α) : Nat → Tbl α → Bool
  | _, [] => true
  | lo, (k, v) :: r => decide (lo ≤ k) && decide (v ≠ d k) && Tbl.wfFrom d (k + 1) r

def Tbl.wf {α : Type} [Inhabited α] [DecidableEq α] (t : Tbl α) : Bool := Tbl.wfFrom (fun _ => default) 0 t

/-- The mailbox memory's read of one byte: an unlisted address reads 0 (log 6). -/
def Memory.read (m : List Host.Cell) (a : Nat) : Byte := (Tbl.look m a).getD 0

def Memory.write (m : List Host.Cell) (a : Nat) (b : Byte) : List Host.Cell := Tbl.put 0 m a b

/-- Store bytes at a, a + 1, and so on. -/
def Memory.writeBytes : List Host.Cell → Nat → List Byte → List Host.Cell
  | m, _, [] => m
  | m, a, b :: r => Memory.writeBytes (Memory.write m a b) (a + 1) r

/-- n bytes from a on. -/
def Memory.readBytes (m : List Host.Cell) (a : Nat) : Nat → List Byte
  | 0 => []
  | n + 1 => Memory.read m a :: Memory.readBytes m (a + 1) n

/-- Set n bytes from a on to 0. -/
def Memory.clear (m : List Host.Cell) (a n : Nat) : List Host.Cell :=
  m.filter (fun c => decide (c.1 < a) || decide (a + n ≤ c.1))

/-- The memory's canonical form: addresses strictly rising, no byte listed that is 0. -/
def Memory.wf (m : List Host.Cell) : Bool := Tbl.wfFrom (fun _ => 0) 0 m

namespace Machine

/-- The value of bytes in little-endian order (R5). -/
def leNat : List Byte → Nat
  | [] => 0
  | b :: r => b.toNat + 256 * leNat r

/-- n bytes of v in little-endian order. -/
def toLe : Nat → Nat → List Byte
  | 0, _ => []
  | n + 1, v => BitVec.ofNat 8 v :: toLe n (v / 256)

/-- The value of bytes most significant first (R5). -/
def beNat (l : List Byte) : Nat := leNat l.reverse

/-- n bytes of v most significant first. -/
def toBe (n v : Nat) : List Byte := (toLe n v).reverse

/-- The byte at offset o; 0 past the end. -/
def byteAt (l : List Byte) (o : Nat) : Nat := match l.drop o with
  | b :: _ => b.toNat
  | [] => 0

/-- The little-endian field of n bytes at offset o. -/
def leAt (l : List Byte) (o n : Nat) : Nat := leNat ((l.drop o).take n)

/-- The big-endian field of n bytes at offset o. -/
def beAt (l : List Byte) (o n : Nat) : Nat := beNat ((l.drop o).take n)

/-- Bits hi to lo of v. -/
def bits (v hi lo : Nat) : Nat := v / 2 ^ lo % 2 ^ (hi + 1 - lo)

def bit (v b : Nat) : Bool := v / 2 ^ b % 2 == 1

/-- The signed value of the low w bits of v. -/
def sgn (w v : Nat) : Int :=
  let u := v % 2 ^ w
  if 2 * u < 2 ^ w then (u : Int) else (u : Int) - (2 ^ w : Nat)

/-- The low w bits of a signed value. -/
def uns (w : Nat) (v : Int) : Nat := (v % ((2 ^ w : Nat) : Int)).toNat

def setBit (v b : Nat) : Nat := if bit v b then v else v + 2 ^ b
def clrBit (v b : Nat) : Nat := if bit v b then v - 2 ^ b else v

/-- Bit v of 64 vats, from a list. -/
def maskOf (l : List Nat) : Nat := l.foldl setBit 0

/-- The set bits of v below n. -/
def bitsOf (n v : Nat) : List Nat := (List.range n).filter (bit v)

/-- One step of CRC-32C (R60: polynomial 0x1EDC6F41, reflected). -/
def crcBit (c : Nat) : Nat := if c % 2 = 1 then (c / 2) ^^^ 0x82F63B78 else c / 2

def crcByte (c : Nat) (b : Byte) : Nat :=
  crcBit (crcBit (crcBit (crcBit (crcBit (crcBit (crcBit (crcBit (c ^^^ b.toNat))))))))

/-- CRC-32C of bytes (R60): initial value and final exclusive-or all ones. -/
def crc32c (l : List Byte) : Nat := (l.foldl crcByte 0xFFFFFFFF) ^^^ 0xFFFFFFFF

/-- Put x into a sorted list, before the first element it may precede. -/
def insertBy {α : Type} (le : α → α → Bool) (x : α) : List α → List α
  | [] => [x]
  | y :: r => if le x y then x :: y :: r else y :: insertBy le x r

/-- Sort, keeping the order of equals. -/
def sortBy {α : Type} (le : α → α → Bool) : List α → List α
  | [] => []
  | x :: r => insertBy le x (sortBy le r)

def zeros (n : Nat) : List Byte := List.replicate n 0

/-- Add with saturation at 2^w - 1. -/
def satAdd (w a b : Nat) : Nat := min (a + b) (2 ^ w - 1)

/-- The text with its tail cut or padded with zeros to n bytes. -/
def fit (n : Nat) (l : List Byte) : List Byte := (l ++ zeros n).take n

end Machine
end Sys2Proof
end

