-- ==== Sys2Proof/Machine/LoopArith.lean ====
section
/-!
DEFINITION. The loop arithmetic of 04_loop_arithmetic.md on raw codes (R85 to R99): exact integers, narrowed only by the
functions the chapter names. A function that can saturate answers the value and whether it did.
-/
namespace Sys2Proof.Machine

/-- R85. -/
def mulc (x c : Int) (sh : Nat) : Int := x * c * 2 ^ (1 + sh)

/-- Convergent rounding that drops k bits (R86). -/
def rne (x : Int) (k : Nat) : Int :=
  let q := x / 2 ^ k
  let r := x % 2 ^ k
  if 2 ^ k < 2 * r ∨ (2 * r = 2 ^ k ∧ q % 2 = 1) then q + 1 else q

/-- The nearest integer to a / b, ties to even, for b > 0. -/
def divRne (a b : Int) : Int :=
  let q := a / b
  let r := a % b
  if b < 2 * r ∨ (2 * r = b ∧ q % 2 = 1) then q + 1 else q

def sat16 (v : Int) : Int × Bool :=
  if 32767 < v then (32767, true) else if v < -32768 then (-32768, true) else (v, false)

def nq15 (a : Int) : Int × Bool := sat16 (rne a 16)

def add40 (a b : Int) : Int × Bool :=
  let v := a + b
  if 2 ^ 39 - 1 < v then (2 ^ 39 - 1, true) else if v < -(2 ^ 39) then (-(2 ^ 39), true) else (v, false)

/-- a16 of R103. -/
def a16 (x : Int) : Int := x * 65536

/-- R88: the corrected code and TAP_SAT. -/
def tapFix (x ofs gain : Nat) : Nat × Bool :=
  let v := rne (((x : Int) - ofs) * gain) 15
  if v < 0 then (0, x == 0xFFFF) else if 65535 < v then (0xFFFF, true) else (v.toNat, x == 0xFFFF)

/-- R89. -/
def tapQ15 (c : Nat) : Int := (sat16 (rne c 1)).1

/-- The index of the highest set bit. -/
def msb (s : Nat) : Nat := Nat.log2 s

/-- The seed ROM (R91). -/
def seedRom (i : Nat) : Nat := (2 ^ 26 + 513 + 2 * i) / (2 * (513 + 2 * i))

/-- R91: the ratio and RATIO_SAT. -/
def ratio (m s : Nat) : Int × Bool :=
  let sh := 16 - msb s
  let sn := s * 2 ^ sh
  let y0 := seedRom (sn / 256 % 256)
  let t : Int := 2 ^ 33 - (sn * y0 : Nat)
  let y1 := rne (y0 * t) 32
  sat16 (rne (m * y1 * 2 ^ sh) 17)

/-- Parity of a 4-bit number. -/
def parity4 (v : Nat) : Nat := (v % 2 + v / 2 % 2 + v / 4 % 2 + v / 8 % 2) % 2

/-- W(w, j) of R93. -/
def walsh (w j : Nat) : Int := 1 - 2 * (parity4 (w &&& j) : Int)

/-- R94: the dithered word and DITH_SAT. -/
def dith (u damp : Int) (w j : Nat) : Int × Bool := if w = 0 then (u, false) else sat16 (u + walsh w j * damp)

/-- The chip of the apply instant of the word computed in F(n) (R93). -/
def chipApp (p2 : Bool) (n : Nat) : Nat := if p2 then (n + 1) / 16 % 16 else (n + 1) % 16

/-- The chip whose response sample n shows: in P2, that of the update 16 samples before (R95). -/
def chipDem (p2 : Bool) (n : Nat) : Nat := if p2 then (n / 16 + 15) % 16 else (n + 15) % 16

end Sys2Proof.Machine
end

