-- ==== Sys2Proof/Machine/LoopLaw.lean ====
section
/-!
DEFINITION. The element loop law of 05_loop_law.md, one loop at a time: seeding, coefficient swap, ramp, offload, press
value, restart, front end and update (R102 to R125), the DARK ramp (13 R311), and what injections and sweeps do to a
word (09 R223, R226).
-/
namespace Sys2Proof.Machine

/-- The integrator of state st (R102: true is cross). -/
def LoopSt.i (s : LoopSt) (st : Bool) : Int := if st then s.ix.toInt else s.ib.toInt

def LoopSt.setI (s : LoopSt) (st : Bool) (v : Int) : LoopSt :=
  if st then { s with ix := BitVec.ofInt 40 v } else { s with ib := BitVec.ofInt 40 v }

/-- SGRAD as a sign (Table 5.3). -/
def LoopSt.grad (s : LoopSt) : Int := if s.sgrad = 1 then 1 else if s.sgrad = 3 then -1 else 0

def Desc.isCell (d : Desc) : Bool := d.kind == 1
def Desc.isPort (d : Desc) : Bool := d.kind == 2
def Desc.used (d : Desc) : Bool := d.isCell || d.isPort

/-- FF of a state. -/
def Desc.ff (d : Desc) (st : Bool) : Int := if st then d.ffCross.toInt else d.ffBar.toInt

/-- The thermal stage's contribution. -/
def Desc.thTerm (d : Desc) (th : Int) : Int := mulc th d.kth.toInt d.kthSh.toNat

/-- R103, with ACC_SAT. -/
def ffa (d : Desc) (th : Int) (st : Bool) : Int × Bool := add40 (a16 (d.ff st)) (d.thTerm th)

/-- What out (R107) answers: the word, the saturation report (0 none, 1 low, 2 high), and the flags it sets. -/
structure OutR where
  u : Int
  rep : BitVec 2
  acc : Bool
  nq : Bool
  us : Bool
  deriving DecidableEq, Repr, Inhabited

/-- out of R107. -/
def outp (d : Desc) (th : Int) (st : Bool) (i p : Int) : OutR :=
  let f := ffa d th st
  let a1 := add40 f.1 i
  let a := add40 a1.1 (-p)
  let v := rne a.1 16
  let w := nq15 a.1
  let acc := f.2 || a1.2 || a.2
  if d.umax.toInt < v then ⟨d.umax.toInt, 2, acc, w.2, true⟩
  else if v < d.umin.toInt then ⟨d.umin.toInt, 1, acc, w.2, true⟩
  else ⟨w.1, 0, acc, w.2, false⟩

/-- The flags an output sets. -/
def LoopSt.outFlags (o : OutR) (s : LoopSt) : LoopSt := ((s.aFlag 3 o.acc).aFlag 2 o.nq).lFlag 0 o.us

/-- iclamp of R107, with I_SAT. -/
def iclamp (d : Desc) (i : Int) : Int × Bool :=
  let l := a16 d.ilim.toNat
  if l < i then (l, true) else if i < -l then (-l, true) else (i, false)

/-- Seeding (R123): st is the state of its cell bit in the form in force, held whether its vat is, s the loop's state before
it, of which a port loop's SP and DSTATE, which R123 does not name, stay; SP is 0 for cells (Table 5.3). -/
def seedLoop (d : Desc) (st held : Bool) (s : LoopSt) : LoopSt :=
  let st := d.isCell && st
  let o := outp d 0 st 0 0
  let w := BitVec.ofInt 16 o.u
  { uhold := w, uapp := w, pv := w, st := st, dvoid := true, sp := if d.isCell then 0 else s.sp, dstate := s.dstate,
    mode := if d.used then (if held then .restart else .run) else .unused, lflags := 0x80 }

/-- A demodulation period becomes void (R95 to R97); DVOIDED notes the event while WCODE is not 0 (Table 4.6; log 37). -/
def LoopSt.void (d : Desc) (s : LoopSt) : LoopSt := ({ s with dvoid := true }).aFlag 6 (d.wcode != 0 && !s.dvoid)

/-- R97. -/
def LoopSt.voidGrad (d : Desc) (s : LoopSt) : LoopSt := ({ s with sgrad := 0 }).void d

/-- A change from d to d' is a swap (R119). -/
def isSwap (d d' : Desc) (st : Bool) : Bool :=
  d.kp != d'.kp || d.kpSh != d'.kpSh || d.kth != d'.kth || d.kthSh != d'.kthSh || d.thlim != d'.thlim ||
    d.ilim != d'.ilim || d.umin != d'.umin || d.umax != d'.umax || d.ff st != d'.ff st

/-- TH held to a descriptor's THLIM, and whether it was beyond. -/
def holdTh (d : Desc) (th : Int) : Int × Bool :=
  if (d.thlim.toNat : Int) < th then (d.thlim.toNat, true)
  else if th < -(d.thlim.toNat : Int) then (-(d.thlim.toNat : Int), true) else (th, false)

/-- The rebase of R120 under d'. -/
def rebase (d' : Desc) (s : LoopSt) : LoopSt :=
  let t := holdTh d' s.th.toInt
  let s := ({ s with th := BitVec.ofInt 16 t.1 }).lFlag 2 t.2
  let u := s.uhold.toInt
  let hi := decide (d'.umax.toInt < u)
  let lo := !hi && decide (u < d'.umin.toInt)
  let tgt := if hi then d'.umax.toInt else if lo then d'.umin.toInt else u
  let carry : BitVec 2 := if hi then 2 else if lo then 1 else 0
  let s := s.lFlag 6 (hi || lo)
  let i := a16 tgt - (ffa d' s.th.toInt s.st).1 + mulc s.elast.toInt d'.kp.toInt d'.kpSh.toNat
  let c := iclamp d' i
  let s := ((s.setI s.st c.1).lFlag 6 c.2).lFlag 1 c.2
  let s := if d'.isCell then
      let x := iclamp d' (s.i (!s.st))
      ((s.setI (!s.st) x.1).lFlag 6 x.2).lFlag 1 x.2
    else s
  ({ s with lsat := if s.lsat = 0 then carry else s.lsat }).lFlag 5 true

/-- All changes pending for a loop at one opening (R119): rebase when one is a swap; a new WCODE voids the gradient. -/
def changeDesc (d d' : Desc) (s : LoopSt) : LoopSt :=
  let s := if isSwap d d' s.st then rebase d' s else s
  if d.wcode != d'.wcode then s.voidGrad d else s

/-- The set-point ramp toward tgt (R112). -/
def rampLoop (d : Desc) (tgt : Int) (s : LoopSt) : LoopSt :=
  let dl := tgt - s.sp.toInt
  let sl : Int := d.slew.toNat
  let st := if sl < dl then sl else if dl < -sl then -sl else dl
  ({ s with sp := BitVec.ofInt 16 (s.sp.toInt + st) }).lFlag 4 (st != dl)

/-- F(n) is a thermal frame of the loop (R110). -/
def thermalFrame (p2 : Bool) (n tph : Nat) : Bool :=
  if p2 then n % 16 == 0 && n / 16 % 4 == tph % 4 else n % 64 == tph

/-- offload of R110, its conditions but the frame's aside; answers whether a step was made. -/
def offload (d : Desc) (s : LoopSt) : LoopSt × Bool :=
  let i := s.i s.st
  if (i.natAbs : Int) < a16 d.offl.toNat then (s, false)
  else
    let step : Int := if 0 < i then d.tstep.toNat else -(d.tstep.toNat : Int)
    let hi := (d.thlim.toNat : Int) - s.th.toInt
    let lo := -(d.thlim.toNat : Int) - s.th.toInt
    let c1 := decide (hi < step)
    let step := if c1 then hi else step
    let c2 := decide (step < lo)
    let step := if c2 then lo else step
    let s := s.lFlag 2 (c1 || c2)
    if step = 0 then (s, false)
    else
      let a := add40 (s.i s.st) (-(d.thTerm step))
      (((({ s with th := BitVec.ofInt 16 (s.th.toInt + step) }).setI s.st a.1).aFlag 3 a.2).lFlag 3 true, true)

/-- R110: the loop's own conditions for an offload. -/
def offloadOk (d : Desc) (s : LoopSt) : Bool :=
  d.offl != 0 && (s.mode == .run || s.mode == .turn) && !(d.isCell && s.sgrad == 0)

/-- The press value of R114 in state st: PV latched, with its saturation report. Under a new plan's descriptor (R117) TH
and I[st] are first held to its limits; the flags set here, at F(m - 2), and the loop state holds the held values from F(m) on
(enterState; DESIGN CHOICE, log 101). -/
def formPv (d : Desc) (st newPlan : Bool) (s : LoopSt) : LoopSt × BitVec 2 :=
  let t := if newPlan then holdTh d s.th.toInt else (s.th.toInt, false)
  let c := if newPlan then iclamp d (s.i st) else (s.i st, false)
  let o := outp d t.1 st c.1 0
  (((((({ s with pv := BitVec.ofInt 16 o.u }).outFlags o).lFlag 2 t.2).lFlag 6 c.2).lFlag 1 c.2), o.rep)

/-- F(m): the state of the press (R107), the gradient void (R97); under a new plan the held TH and I (R117). -/
def enterState (d : Desc) (st newPlan : Bool) (s : LoopSt) : LoopSt :=
  let s := ({ s with st := st }).voidGrad d
  if newPlan then
    ({ s with th := BitVec.ofInt 16 (holdTh d s.th.toInt).1 }).setI st (iclamp d (s.i st)).1
  else s

/-- A step in an opening with the saturations it makes (15 Table 15.2): the flags NQ_SAT, ACC_SAT, U_SAT and I_SAT that it sets
are counted whether they stood before or not. -/
def satEvents (f : LoopSt → LoopSt) (s : LoopSt) : LoopSt × Nat :=
  let z := f { s with aflags := 0, lflags := 0 }
  let k := ([bit z.aflags.toNat 2, bit z.aflags.toNat 3, bit z.lflags.toNat 0, bit z.lflags.toNat 1].filter id).length
  ({ z with aflags := z.aflags ||| s.aflags, lflags := z.lflags ||| s.lflags }, k)

/-- The restart of R124 from the output U. -/
def restartFrom (d : Desc) (u : Int) (s : LoopSt) : LoopSt :=
  let c := iclamp d (a16 u - (ffa d s.th.toInt s.st).1)
  let s := { s with uhold := BitVec.ofInt 16 u, elast := 0, lsat := 0, mode := .run }
  (((s.setI s.st c.1).lFlag 6 c.2).lFlag 1 c.2).voidGrad d

/-- The seeded output of a loop (R124). -/
def seededOut (d : Desc) (s : LoopSt) : OutR := outp d s.th.toInt s.st (s.i s.st) 0

/-- The restart of R124: from UAPP, or from the seeded output with the flags it sets. -/
def restartOf (d : Desc) (useApp : Bool) (s : LoopSt) : LoopSt :=
  if useApp then restartFrom d s.uapp.toInt s else restartFrom d (seededOut d s).u (s.outFlags (seededOut d s))

/-- preset of R125 for a cell's idle state. -/
def presetLoop (d : Desc) (st : Bool) (v : Int) (s : LoopSt) : LoopSt :=
  if d.isCell && s.st != st then
    let c := iclamp d v
    (s.setI st c.1).lFlag 1 c.2
  else s

/-- demod_step of R96. -/
def demodStep (d : Desc) (j : Nat) (r : Int) (ok : Bool) (s : LoopSt) : LoopSt :=
  let s := if j = 0 then { s with dacc := 0, dvoid := false, dstate := s.st } else s
  let ok := ok && d.wcode != 0 && s.dstate == s.st
  let s := if ok then { s with dacc := s.dacc + BitVec.ofInt 32 (walsh d.wcode.toNat j * r) }
    else s.void d
  if j = 15 ∧ s.dvoid = false then
    let b : Int := d.dband.toNat
    { s with sgrad := if b < s.dacc.toInt then 1 else if s.dacc.toInt < -b then 3 else 0 }
  else s

/-- A tap code with its calibration word (Table 4.2), or none when stale. -/
structure TapIn where
  code : Option (BitVec 16) := none
  cal : Word := 0x80000000
  deriving DecidableEq, Repr, Inhabited

/-- The corrected code of a tap. -/
def TapIn.fix (t : TapIn) (x : BitVec 16) : Nat × Bool :=
  tapFix x.toNat (t.cal.toNat % 65536) (t.cal.toNat / 65536)

/-- cell_front of R99; okRest is what R95 asks beside fresh, undarkened taps and the loop's own code and state. -/
def cellFront (d : Desc) (tb tx : TapIn) (j : Nat) (okRest : Bool) (s : LoopSt) : LoopSt × Front :=
  match tb.code, tx.code with
  | some xb, some xx =>
    let cb := tb.fix xb
    let cx := tx.fix xx
    let s := s.aFlag 0 (cb.2 || cx.2)
    let sum := cb.1 + cx.1
    if sum < d.darkTh.toNat then
      (demodStep d j 0 false (s.aFlag 5 true), { cond := .dark, cb := cb.1, cx := cx.1 })
    else
      let r := ratio (if s.st then cb.1 else cx.1) sum
      let s := demodStep d j r.1 okRest (s.aFlag 1 r.2)
      (s, { cond := .normal, e := s.grad * r.1, r := r.1, cb := cb.1, cx := cx.1 })
  | _, _ => (demodStep d j 0 false (s.aFlag 7 true), { cond := .stale })

/-- The port front end (R99). -/
def portFront (d : Desc) (t : TapIn) (s : LoopSt) : LoopSt × Front :=
  match t.code with
  | none => (s.aFlag 7 true, { cond := .stale })
  | some x =>
    let c := t.fix x
    let s := s.aFlag 0 c.2
    if c.1 < d.darkTh.toNat then (s.aFlag 5 true, { cond := .dark, cb := c.1 })
    else (s, { cond := .normal, e := s.sp.toInt - tapQ15 c.1, lvl := tapQ15 c.1, cb := c.1 })

/-- The step of the DARK ramp (R311). -/
def darkStep (d : Desc) (step : Nat) (s : LoopSt) : LoopSt :=
  let lim := if d.attdir then d.umax.toInt else d.umin.toInt
  let dl := lim - s.pv.toInt
  let k : Int := step
  let dl := if k < dl then k else if dl < -k then -k else dl
  { s with pv := BitVec.ofInt 16 (s.pv.toInt + dl) }

/-- What a frame is to a loop: an injected value (R226) and whether its mode is OPEN; a sweep's word (R223). -/
structure UpdIn where
  isM1 : Bool := false
  isM : Bool := false
  jApp : Nat := 0
  pvRep : BitVec 2 := 0
  inj : Option (Bool × Int) := none
  sweep : Option Int := none
  deriving DecidableEq, Repr, Inhabited

/-- What an update puts out: the new state, the word, whether it was the dithered output, and the saturation events. -/
structure UpdOut where
  st : LoopSt := {}
  word : DWord := {}
  dithered : Bool := false
  nsat : Nat := 0
  deriving DecidableEq, Repr, Inhabited

def b2n (b : Bool) : Nat := if b then 1 else 0

/-- The normal update of R107: integration under R109, output, dither. -/
def updNormal (d : Desc) (f : Front) (j : Nat) (s : LoopSt) : UpdOut :=
  let first := d.isPort && !s.spv
  let e := if first then 0 else f.e
  let s := if first then { s with sp := BitVec.ofInt 16 f.lvl, spv := true } else s
  let di := -(mulc e d.ki.toInt d.kiSh.toNat)
  let skip := (s.lsat == 2 && decide (0 < di)) || (s.lsat == 1 && decide (di < 0))
  let a := add40 (s.i s.st) di
  let c := iclamp d a.1
  let s := if skip then s else ((s.setI s.st c.1).aFlag 3 a.2).lFlag 1 c.2
  let o := outp d s.th.toInt s.st (s.i s.st) (mulc e d.kp.toInt d.kpSh.toNat)
  let s := { s.outFlags o with uhold := BitVec.ofInt 16 o.u, elast := BitVec.ofInt 16 e, lsat := o.rep }
  let w := dith o.u d.damp.toInt d.wcode.toNat j
  { st := s.aFlag 4 w.2, word := { word := BitVec.ofInt 16 w.1 }, dithered := d.wcode != 0,
    nsat := b2n (!skip && a.2) + b2n (!skip && c.2) + b2n o.acc + b2n o.nq + b2n o.us }

/-- The remainder of loop_update after the front end (R107, Table 5.5), with R223 and R226. -/
def loopUpdate (d : Desc) (f : Front) (x : UpdIn) (s : LoopSt) : UpdOut :=
  let cond := if s.mode = .restart then .stale else f.cond
  if s.mode = .unused then { st := s }
  else if s.mode = .darksafe then { st := s, word := { word := s.pv } }
  else if x.isM then
    let w := dith s.pv.toInt d.damp.toInt d.wcode.toNat x.jApp
    { st := ({ s with mode := .frozen, uhold := s.pv, lsat := x.pvRep, elast := 0 }).aFlag 4 w.2,
      word := { word := BitVec.ofInt 16 w.1 }, dithered := d.wcode != 0 }
  else
    let o := match x.sweep, cond, x.inj with
      | some w, _, _ => { st := s, word := { word := BitVec.ofInt 16 w } }
      | none, .normal, some (true, v) =>
        let w := sat16 (s.uhold.toInt + v)
        { st := (s.void d).aFlag 4 w.2, word := { word := BitVec.ofInt 16 w.1 } }
      | none, .normal, some (false, v) =>
        let u := updNormal d f x.jApp s
        let w := sat16 (u.word.word.toInt + v)
        { u with st := u.st.aFlag 4 w.2, word := { word := BitVec.ofInt 16 w.1 } }
      | none, .normal, none => updNormal d f x.jApp s
      | none, c, _ => { st := s, word := { word := s.uhold, stale := c == .stale } }
    if x.isM1 then { o with word := { word := s.pv }, dithered := false } else o

end Sys2Proof.Machine
end

