-- ==== Sys2Proof/Machine/Operands.lean ====
section
/-!
DEFINITION. The byte layouts that operands and stored data have: loop descriptors (05 Table 5.1), loop states (Table 5.3),
gate-list entries (06 Table 6.2), forms (Table 6.1), and the fields of a mailbox request (11 R266, Table 11.7).
-/
namespace Sys2Proof.Machine

/-- The descriptor whose 48 bytes start at offset o (Table 5.1). -/
def parseDesc (l : List Byte) (o : Nat) : Desc :=
  let w (k : Nat) : BitVec 16 := BitVec.ofNat 16 (leAt l (o + k) 2)
  let b0 := byteAt l o
  let b1 := byteAt l (o + 1)
  { kind := BitVec.ofNat 2 (bits b0 1 0), wcode := BitVec.ofNat 4 (bits b0 5 2), attdir := bit b0 6,
    kpSh := BitVec.ofNat 3 (bits b1 2 0), kiSh := BitVec.ofNat 3 (bits b1 5 3),
    kthSh := BitVec.ofNat 3 (bits (byteAt l (o + 2)) 2 0), tph := BitVec.ofNat 6 (bits (byteAt l (o + 3)) 5 0),
    tapb := BitVec.ofNat 9 (leAt l (o + 4) 2), tapx := BitVec.ofNat 9 (leAt l (o + 6) 2),
    drv := BitVec.ofNat 9 (leAt l (o + 8) 2), kp := w 10, ki := w 12, kth := w 14, ffBar := w 16, ffCross := w 18,
    umin := w 20, umax := w 22, ilim := w 24, offl := w 26, tstep := w 28, thlim := w 30, damp := w 32, dband := w 34,
    darkTh := w 36, slew := w 38, idx := BitVec.ofNat 14 (leAt l (o + 40) 2) }

/-- The 48 bytes of a descriptor. -/
def descBytes (d : Desc) : List Byte :=
  let w (x : BitVec 16) : List Byte := toLe 2 x.toNat
  [BitVec.ofNat 8 (d.kind.toNat + 4 * d.wcode.toNat + (if d.attdir then 64 else 0)),
   BitVec.ofNat 8 (d.kpSh.toNat + 8 * d.kiSh.toNat), BitVec.ofNat 8 d.kthSh.toNat, BitVec.ofNat 8 d.tph.toNat] ++
  toLe 2 d.tapb.toNat ++ toLe 2 d.tapx.toNat ++ toLe 2 d.drv.toNat ++ w d.kp ++ w d.ki ++ w d.kth ++ w d.ffBar ++
  w d.ffCross ++ w d.umin ++ w d.umax ++ w d.ilim ++ w d.offl ++ w d.tstep ++ w d.thlim ++ w d.damp ++ w d.dband ++
  w d.darkTh ++ w d.slew ++ toLe 2 d.idx.toNat ++ zeros 6

/-- The code of a mode (Table 5.4). -/
def Mode.code : Mode → Nat
  | .unused => 0
  | .run => 1
  | .frozen => 2
  | .restart => 3
  | .turn => 4
  | .darksafe => 5

/-- The 32 bytes of a loop state (Table 5.3). -/
def stateBytes (s : LoopSt) : List Byte :=
  let w (x : BitVec 16) : List Byte := toLe 2 x.toNat
  let b (c : Bool) (k : Nat) : Nat := if c then 2 ^ k else 0
  toLe 5 s.ib.toNat ++ toLe 5 s.ix.toNat ++ w s.th ++ w s.sp ++ w s.uhold ++ w s.uapp ++ w s.pv ++ w s.elast ++
  toLe 4 s.dacc.toNat ++
  [BitVec.ofNat 8 (b s.st 0 + b s.dstate 1 + 4 * s.sgrad.toNat + b s.dvoid 4 + 32 * s.lsat.toNat + b s.spv 7),
   BitVec.ofNat 8 s.mode.code, s.aflags, s.lflags, 0, 0]

/-- A gate-list entry at byte o (Table 6.2). -/
def parseGate (l : List Byte) (o : Nat) : GateEntry :=
  let v := leAt l o 8
  { dur := bits v 19 0, rind := bits v 26 20, demand := bit v 27, cset := bits v 31 28, form := bits v 43 32 }

/-! ### Forms (Table 6.1) -/

def formChoose (f : List Byte) : Bool := bit (byteAt f 2) 0
def formCmask (f : List Byte) : Nat := leAt f 4 2
/-- The 1,536 bytes of cell bits. -/
def formCells (f : List Byte) : List Byte := (f.drop 64).take 1536
/-- Cell bit c of a CELL field. -/
def cellBit (cells : List Byte) (c : Nat) : Bool := bit (byteAt cells (c / 8)) (c % 8)
def formLvl (f : List Byte) (p : Nat) : Nat := byteAt f (1600 + p)
/-- The 2,048 bytes of PERM. -/
def formPerm (f : List Byte) : List Byte := (f.drop 3648).take 2048
/-- PERM entry of an input: the output it reaches, if any. -/
def permOut (perm : List Byte) (i : Nat) : Option Nat :=
  let e := leAt perm (2 * i) 2
  if bit e 15 then some (e % 1024) else none

/-- PERM as a list over the inputs. -/
def permList : List Byte → List (Option Nat)
  | a :: b :: r =>
    let e := a.toNat + 256 * b.toNat
    (if bit e 15 then some (e % 1024) else none) :: permList r
  | _ => []

/-- PERM entries as an announcement carries them, most significant byte first (Table 7.4). -/
def permWire : List Byte → List Byte
  | a :: b :: r => b :: a :: permWire r
  | _ => []

/-- The cells whose bits differ between two CELL fields, from cell 8 * q on, with their new bits (R20). -/
def diffCells : List Byte → List Byte → Nat → List (Nat × Bool)
  | a, b :: r, q =>
    let x := a.head?.getD 0
    (if x = b then [] else
      ((List.range 8).filter (fun i => bit x.toNat i != bit b.toNat i)).map (fun i => (8 * q + i, bit b.toNat i))) ++
    diffCells a.tail r (q + 1)
  | _, [], _ => []

/-! ### Requests (R266) -/

/-- The field of n bytes at payload offset o. -/
def Mbx.fld (m : Mbx) (o n : Nat) : Nat := leAt m.req (8 + o) n

/-- The payload. -/
def Mbx.payload (m : Mbx) : List Byte := (m.req.drop 8).take m.len

end Sys2Proof.Machine
end

