-- ==== Sys2Proof/Config.lean ====
section
/-!
DEFINITION. What an implementation fixes and the free values: constants without a body, of which nothing can be proved
but that they are functions. Each is named in notes/assumptions (log 3 and log 7 to 12).
-/
namespace Sys2Proof.Config

/-- A fresh free value: applied to State.freeCtr, which every use advances (log 3). -/
opaque freeValue : Nat → BitVec 64

/-- The servo's filtered offset in 1/16 ns after a Sync, from the last one, the measured offset and BW (R39 gives the
bandwidth of the proportional-integral filter and not its gains; log 7). -/
opaque servoOffset : BitVec 32 → BitVec 32 → BitVec 3 → BitVec 32

/-- The addend the servo asks for before the limits of R34, from the present addend, the offset and BW (log 7). -/
opaque servoAddend : BitVec 40 → BitVec 32 → BitVec 3 → BitVec 40

/-- The servo's frequency-error estimate at entry to HOLDOVER, 2^-8 ppb, from the addend (R43; log 7). -/
opaque servoFreqErr : BitVec 40 → BitVec 32

/-- Whether one transmitter's data set is better than another's (clause 9.3 of IEEE 1588-2019, R38; log 8). The
arguments are the Announce fields: priority1, clockQuality, priority2, grandmasterIdentity, stepsRemoved. -/
opaque bmcaBetter : List Nat → List Nat → Bool

/-- dt / C of thermal node i, scaled by 2^32, in s per J.K^-1 (revision constants of R332, in ROM; log 9). -/
opaque thInvC : Nat → Int
/-- G between thermal nodes i and j, scaled by 2^16 (R332; log 9). -/
opaque thG : Nat → Nat → Int
/-- W from channel d to node i, scaled by 2^16 (R332; log 9). -/
opaque thW : Nat → Nat → Int
/-- Whether channel d is supplied from VDD_CORE, and the voltage of its rail in mV where it is not: the spec names the rails
and those of channels 10, 13, 14 and 15 only (R332; log 9). -/
opaque thOnCore : Nat → Bool
opaque thRail : Nat → Nat
/-- A channel's current in 10 mA from its raw code, zero code and gain: the spec states no scale (R217; log 9). -/
opaque senseCurrent : BitVec 16 → BitVec 16 → BitVec 16 → BitVec 16

/-- A quotient of the thermal model brought to its resolution: the spec gives no rounding (R332; log 9). -/
opaque thRound : Int → Nat → Int

/-- SHA-384 (R279: FIPS primitives outside the manual; log 10). -/
opaque sha384 : List Byte → List Byte
/-- ECDSA P-384 verification: key, message, signature (R279; log 10). -/
opaque ecdsaP384 : List Byte → List Byte → List Byte → Bool
/-- The fused SHA-384 digest of the signing key (R279; log 10). -/
opaque fuseKeyDigest : List Byte
/-- The fused rollback counter at manufacture (R279; log 10). -/
opaque fuseRollback : BitVec 32

/-- Where the IDENT payload holds the service code, the two report-port addresses and the serial number
(Table 9.9 names them and gives no offsets; log 11). -/
opaque identServiceCode : List Byte → BitVec 64
opaque identMac : Bool → List Byte → BitVec 48
opaque identSerial : List Byte → BitVec 64
/-- The fields of the CAL_TS payload: kind of value and lane or port, in 1/256 ns (log 11). -/
opaque calTsField : Nat → Nat → List Byte → BitVec 16
/-- The CAL_TS payload that holds the present latency and asymmetry values (log 11). -/
opaque calTsBytes : List (BitVec 16) → List Byte
/-- Zero code and gain of a current-sense channel in the CAL_ISENSE payload, and that payload (log 11). -/
opaque calIsenseField : Nat → List Byte → BitVec 16 × BitVec 16
opaque calIsenseBytes : List (BitVec 16 × BitVec 16) → List Byte
/-- TH_FIT_OFS and TH_RSINK in the TH_FIT payload, and the payload from them and the two readings (log 11). -/
opaque thFitField : Bool → List Byte → BitVec 16
opaque thFitBytes : BitVec 16 → BitVec 16 → Int → Int → List Byte

/-- An offset of steward SRAM (T7) lies in a mailbox buffer: the spec gives them no place (12 Table 12.3; log 76). -/
opaque mailboxBuffer : BitVec 64 → Bool

/-- The silicon revision code (R210). -/
def revision : Nat := 0x0100
/-- The highest cost table this revision knows (R210). -/
def costTable : Nat := 1

end Sys2Proof.Config
end

