-- ==== Sys2Proof/Machine/Ops.lean ====
section
/-!
DEFINITION. The operations every family shares: register and field access, what a command sends, counters (15 R344, R350),
event bits and event records (13 R307), error lines (13 R298), trace records, holds (03 R76), the abacus operations a
chooser run holds back (07 R175), announcements' framing (07 R163) and the press inhibits with the cancellation of slots
(06 R141, R142).
-/
namespace Sys2Proof.Machine

/-- The messages of the latest command are its own. -/
def State.fresh (s : State) : State := { s with dev := { s.dev with tx := [] } }

/-- A command that works on the whole state. While RESET_N is low the block is held in reset and takes none (16 R361). -/
def State.onAll (s : State) (f : State → State) : Host.Outcome State Fault Refusal :=
  .next (if s.dev.pins.resetN then f s.fresh else s.fresh)

/-- What a command does to the block, unless the block is held in reset. -/
def Dev.live (f : Dev → Dev) (s : Dev) : Dev := if s.pins.resetN then f s else s

/-- A command that works on the block alone: mailbox memory and queue stay. -/
def State.onDev (s : State) (f : Dev → Dev) : Host.Outcome State Fault Refusal :=
  .next { s with dev := Dev.live f s.fresh.dev }

/-- A register's word: what the sparse map lists, else its reset value. -/
def Dev.reg (s : Dev) (off : Nat) : Word := (s.regs.look off).getD (regReset off)

def Dev.setReg (s : Dev) (off : Nat) (v : Word) : Dev := { s with regs := s.regs.put (regReset off) off v }

/-- The word with the field at bit lo, of width w, replaced. -/
def setField (old lo w v : Nat) : Nat := old - old / 2 ^ lo % 2 ^ w * 2 ^ lo + v % 2 ^ w * 2 ^ lo

/-- Hardware's read of a field. -/
def Dev.rd (s : Dev) (f : Fld) : Nat := (s.reg f.reg).toNat / 2 ^ f.lo % 2 ^ f.w

/-- Hardware's update of a field. -/
def Dev.wr (s : Dev) (f : Fld) (v : Nat) : Dev :=
  s.setReg f.reg (BitVec.ofNat 32 (setField (s.reg f.reg).toNat f.lo f.w v))

def Dev.on (s : Dev) (f : Fld) : Bool := s.rd f == 1
def Dev.wrB (s : Dev) (f : Fld) (b : Bool) : Dev := s.wr f (if b then 1 else 0)

/-- A 64-bit register from its low word's offset (R8). -/
def Dev.rd2 (s : Dev) (lo : Nat) : Nat := (s.reg lo).toNat + 2 ^ 32 * (s.reg (lo + 4)).toNat

def Dev.wr2 (s : Dev) (lo v : Nat) : Dev := (s.setReg lo (BitVec.ofNat 32 v)).setReg (lo + 4) (BitVec.ofNat 32 (v / 2 ^ 32))

def Dev.send (s : Dev) (t : Tx) : Dev := { s with tx := s.tx ++ [t] }

/-- The sample index n of the latest sample strobe (TB_SAMPLE, R37). -/
def Dev.now (s : Dev) : Nat := s.rd2 R.TB_SAMPLE_LO

/-- The next free value (log 3). -/
def Dev.free (s : Dev) : BitVec 64 := Config.freeValue s.freeCtr
def Dev.useFree (s : Dev) : Dev := { s with freeCtr := s.freeCtr + 1 }

/-- Add n to a fixed counter, which holds at its maximum (R344). -/
def Dev.count (s : Dev) (f : Fld) (n : Nat := 1) : Dev := s.wr f (satAdd 32 (s.rd f) n)

/-- Apply f for every element. -/
def Dev.each {α : Type} (l : List α) (f : Dev → α → Dev) (s : Dev) : Dev := l.foldl f s

def Dev.when (c : Bool) (f : Dev → Dev) (s : Dev) : Dev := if c then f s else s

/-- SOURCE word of Table 11.9: block, vat or group, unit code, unit index or lane. -/
def srcWord (blk : Nat) (vat : Nat := 0xFF) (unit : Nat := 0) (idx : Nat := 0xFF) : BitVec 28 :=
  BitVec.ofNat 28 (blk + 256 * vat + 65536 * unit + 1048576 * idx)

/-- The block code of a BAR0 offset (Table 11.2). -/
def blockOf (off : Nat) : Nat := off / 0x10000

/-! ### Performance counters (15) -/

/-- A field of a counter's selection in force: a change takes effect at the next frame opening (R346). -/
def Dev.pcRd (s : Dev) (f : Fld) : Nat :=
  match s.pc.pend.find? (fun x => x.1 == f.reg) with
  | some x => x.2.toNat / 2 ^ f.lo % 2 ^ f.w
  | none => s.rd f

/-- Counter EVj takes event e of vat v (R349). -/
def Dev.evSel (s : Dev) (j e : Nat) (v : Option Nat) : Bool :=
  s.pcRd (F.PC_EVSEL_EVENT j) == e &&
    (s.pcRd (F.PC_EVSEL_VAT j) == 0xFF || some (s.pcRd (F.PC_EVSEL_VAT j)) == v) && !s.on F.PC_CTL_FREEZE

/-- Add n to 64-bit counter with its low word at off; it holds at 2^64 - 1 (R346). -/
def Dev.add64 (s : Dev) (off n : Nat) : Dev := s.wr2 off (satAdd 64 (s.rd2 off) n)

/-- An event of Table 15.2 marked clock: counted at once (R350). -/
def Dev.pcClock (s : Dev) (e : Nat) (n : Nat := 1) (v : Option Nat := none) : Dev :=
  Dev.each (List.range 16) (fun s j => if s.evSel j e v then s.add64 (R.PC_EVCNT_LO j) n else s) s

/-- An event marked frame: summed until the frame closes (R350). -/
def Dev.pcFrame (s : Dev) (e n : Nat) (v : Option Nat) : Dev :=
  Dev.each (List.range 16)
    (fun s j => if s.evSel j e v then { s with pc := { s.pc with acc := s.pc.acc.mod j (· + n) } } else s) s

/-- The register has an RC field (00 R6). -/
def RegSpec.isRc (r : RegSpec) : Bool := r.fields.any (fun f => f.acc == .rc)

/-- A fixed counter of R344. -/
def isFixed (off : Nat) : Bool := ((regAt off).map RegSpec.isRc).getD false

/-- Every counter and every selection at zero (R353). -/
def Dev.noCounts (s : Dev) : Dev :=
  { s with regs := s.regs.filter (fun r => !isFixed r.1 && !(decide (0x150000 ≤ r.1) && decide (r.1 < 0x160000))), pc := {} }

/-! ### Error lines (13 R298, R308) -/

/-- Put a bit of a vat into a 64-bit register. -/
def Dev.setVatBit (s : Dev) (lo v : Nat) : Dev := s.wr2 lo (setBit (s.rd2 lo) v)

/-- The sample index that the always-on domain carries while the core is off (02 R51), from the slow ticks last counted. -/
def Dev.carried (s : Dev) : Nat := (s.tb.timeE + s.tb.ticks * s.tb.incE.toNat) / 2 ^ 32 / 1000

/-- The slow ticks of P3 have reached a count. -/
def Dev.tickTo (ticks : Nat) (s : Dev) : Dev := { s with tb := { s.tb with ticks := max s.tb.ticks ticks } }

/-- The core has no clock: in P3, and from RESET_N to the end of the clocks step (14 R325, 16 Table 16.7). -/
def Dev.unclocked (s : Dev) : Bool := s.pm.p3 == .off || s.pm.p3 == .boot

/-- Raise an error line: the collector samples it at its next clock (R300). With the core off it is latched with the
AON-carried sample index. -/
def Dev.raise (s : Dev) (code sev : Nat) (src : BitVec 28) (info : Nat := 0) (hw : Bool := true) : Dev :=
  let l : Line := ⟨BitVec.ofNat 16 code, BitVec.ofNat 2 sev, src, BitVec.ofNat 32 info, hw⟩
  let at_ := if s.unclocked then some (BitVec.ofNat 64 s.carried) else none
  { s with fc := { s.fc with lines := s.fc.lines ++ [⟨l, at_⟩] } }

/-! ### Events (13 R307, 11 R271) -/

/-- Hand an event record to EVQ, with the sample index and TB time of now. -/
def Dev.emit (s : Dev) (e : Ev) : Dev :=
  { s with evq := { s.evq with inbox := s.evq.inbox ++ [{ e with sample := s.now, ns := s.tb.ns, sec := s.tb.sec }] } }

/-- Set a W1C event bit: on the change from 0 to 1 one BLOCK record goes out, a HOST record for HIF_EVT (R307). -/
def Dev.event (s : Dev) (f : Fld) : Dev :=
  if s.on f then s
  else
    let s := s.wr f 1
    let w := toLe 4 (s.reg f.reg).toNat
    if f.reg = R.HIF_EVT then
      s.emit { ty := 7, code := BitVec.ofNat 32 f.lo, src := srcWord 0, data := zeros 4 ++ w }
    else
      s.emit { ty := 1, code := BitVec.ofNat 32 f.reg, src := srcWord (blockOf f.reg),
               data := [BitVec.ofNat 8 f.lo, 0, 0, 0] ++ w }

/-- A steward message (Table 11.10, TYPE 3). -/
def Dev.stewardMsg (s : Dev) (code : Nat) : Dev :=
  s.emit { ty := 3, code := BitVec.ofNat 32 code, src := srcWord 4,
           data := [BitVec.ofNat 8 (s.rd F.HIF_ST_STAT_IMAGE), 0, 0, 0] ++ toLe 4 (s.reg R.HIF_FW_VER).toNat }

/-- Hand a trace record to TRC (R277). -/
def Dev.trace (s : Dev) (t : Trec) : Dev := { s with trc := { s.trc with inbox := s.trc.inbox ++ [t] } }

/-- Signal an MSI-X vector: a masked one sets its PBA bit (R278). -/
def Dev.msix (s : Dev) (v : Nat) : Dev :=
  if bit (s.reg (0x1000 + 16 * v + 12)).toNat 0 then
    let o := 0x1800 + 4 * (v / 32)
    s.setReg o (BitVec.ofNat 32 (setBit (s.reg o).toNat (v % 32)))
  else s.send (.msix v)

/-! ### Report-port frames (07 R163) -/

/-- Offset of a port's window from RPA's. -/
def portBase : Port → Nat
  | .rpa => 0
  | .rpb => 0x10000

/-- A field of RPA, taken in the port's own window. -/
def rpFld (p : Port) (f : Fld) : Fld := { f with reg := f.reg + portBase p }

/-- The frame of a Naern PDU on a port (R163), padded to 60 bytes at least; the FCS is left to the MAC (log 15). -/
def Dev.naern (s : Dev) (p : Port) (pdu : List Byte) : Tx :=
  let da := toBe 2 (s.rd F.DE_ANN_DA_HI) ++ toBe 4 (s.rd F.DE_ANN_DA_LO)
  let sa := toBe 2 (s.rd (rpFld p F.RPA_MAC_HI)) ++ toBe 4 (s.rd (rpFld p F.RPA_MAC_LO))
  let fr := da ++ sa ++ [0x88, 0xB5] ++ pdu
  .frame p (if fr.length < 60 then fit 60 fr else fr)

/-- Send one Naern PDU on every port that is up with NAERN_TX, counted in cnt. -/
def Dev.rpSend (s : Dev) (cnt : Fld) (pdu : List Byte) : Dev :=
  Dev.each [Port.rpa, Port.rpb] (fun s p =>
    if s.on (rpFld p F.RPA_STAT_LINK) && s.on (rpFld p F.RPA_CFG_NAERN_TX) then (s.send (s.naern p pdu)).count (rpFld p cnt)
    else s) s

/-- REVOKE (Table 7.5). -/
def revokePdu (k keep reason epoch : Nat) : List Byte :=
  [0x13, 0] ++ toBe 2 24 ++ toBe 8 k ++ toBe 8 keep ++ [BitVec.ofNat 8 reason, BitVec.ofNat 8 epoch, 0, 0]

/-! ### Plans in force and staged (06 R132, R151) -/

def Dev.planBank (s : Dev) (b : Bool) : Option Plan := if b then s.plan1 else s.plan0

/-- The plan in force. -/
def Dev.plan (s : Dev) : Option Plan := if s.on F.GL_STAT_PLAN then s.planBank (s.on F.GL_STAT_BANK) else none

/-- The bank a staged plan takes: that of the next epoch (R132). -/
def Dev.stagedBank (s : Dev) : Bool := s.rd F.GL_STAT_EPOCH % 2 == 0

def Dev.setPlan (s : Dev) (b : Bool) (p : Option Plan) : Dev := if b then { s with plan1 := p } else { s with plan0 := p }

/-- The vats of the plan in force. -/
def Dev.planVats (s : Dev) : List Nat := match s.plan with
  | some p => p.vats.map (·.vat)
  | none => []

/-- The form map of a bank: the slot of a form number. -/
def Fs.map (f : Fs) (b : Bool) (n : Nat) : Option Nat := if b then f.map1.get n else f.map0.get n

/-! ### Vat link summaries (03) -/

def Dev.laneActive (s : Dev) (l : Nat) : Bool := s.rd (F.VL_LSTAT_STATE l) == 6

def Dev.vatActive (s : Dev) (v : Nat) : Bool := s.laneActive (2 * v) || s.laneActive (2 * v + 1)

/-- VL_VAT_HELD as one mask. -/
def Dev.held (s : Dev) (v : Nat) : Bool := bit (s.rd2 R.VL_VAT_HELD_LO) v

def Dev.setHeld (s : Dev) (v : Nat) (b : Bool) : Dev :=
  s.wr2 R.VL_VAT_HELD_LO (if b then setBit (s.rd2 R.VL_VAT_HELD_LO) v else clrBit (s.rd2 R.VL_VAT_HELD_LO) v)

def Dev.vat (s : Dev) (v : Nat) : Vat := s.vl.vats.get v
def Dev.modVat (s : Dev) (v : Nat) (f : Vat → Vat) : Dev := { s with vl := { s.vl with vats := s.vl.vats.mod v f } }
def Dev.lane (s : Dev) (l : Nat) : Lane := s.vl.lanes.get l
def Dev.modLane (s : Dev) (l : Nat) (f : Lane → Lane) : Dev := { s with vl := { s.vl with lanes := s.vl.lanes.mod l f } }

/-- N40 of an instant in ns (R33). -/
def n40 (ns : Nat) : Nat := ns % 2 ^ 40

/-- A drive frame between its SOF_D and its TERM or ABORT. -/
def Rel.onWire (r : Rel) : Bool := r.opened && !r.aborted && !r.closed

/-- The drive frame of a vat that is on the wire, by its sample index: the one being handed over, or the one before it. -/
def Dev.wireFrame (s : Dev) (v : Nat) : Option Nat :=
  if s.le.isOpen && (s.tw.rel.get v).onWire then some s.le.frame
  else if (s.tw.lastRel.get v).onWire then some s.le.closedN
  else none

/-- The drive frame of a vat that is on the wire has carried four blocks and takes no more (R59). -/
def Dev.blkFull (s : Dev) (v n : Nat) : Bool := s.wireFrame v == some n && (s.vat v).blkAt == some n

/-- The first apply instant that four blocks sent now to every vat of a list can still reach, ending 100 ns before it (R76).
Once the frame of sample n + 1 has opened it is t(n + 2), unless that frame has carried four of a vat's blocks, so that these
wait for its TERM; there, and before the frame has opened, no command tells whether 132.5 ns are left before the instant: a
free value decides (log 16). -/
def Dev.nextEff (s : Dev) (vs : List Nat) : Nat :=
  if s.now < s.le.frame then s.le.frame + 1 + (if vs.any (s.blkFull · s.le.frame) then s.free.toNat % 2 else 0)
  else s.now + 1 + s.free.toNat % 2

/-- EFF as a block carries it: N40 of an apply instant (R33). -/
def effN40 (e : Nat) : BitVec 40 := BitVec.ofNat 40 (n40 (1000 * e))

/-- The block as it stands on a lane. -/
def LinkBlk.tx : LinkBlk → Nat → Tx
  | .hold r e, l => .hold l r (effN40 e)
  | .release e, l => .release l (effN40 e)
  | .mode i e, l => .mode l i (effN40 e)

/-- A block goes out four times on every ACTIVE lane of a vat (R76). -/
def Dev.fourCopies (v : Nat) (s : Dev) (b : LinkBlk) : Dev :=
  { s with tx := s.tx ++ ([2 * v, 2 * v + 1].filter s.laneActive).flatMap (fun l => List.replicate 4 (b.tx l)) }

/-- The blocks that wait for a vat go out as far as R59 lets them: all of them between drive frames, one inside a frame that has
carried none, none inside one that has carried four. -/
def Dev.blkFlush (s : Dev) (v : Nat) : Dev :=
  match s.wireFrame v, (s.vat v).blks with
  | _, [] => s
  | none, bs => (Dev.each bs (Dev.fourCopies v) s).modVat v (fun x => { x with blks := [] })
  | some n, b :: r =>
    if (s.vat v).blkAt = some n then s
    else (s.fourCopies v b).modVat v (fun x => { x with blks := r, blkAt := some n })

/-- VL sends a block to a vat with an ACTIVE lane, behind the blocks that wait for it (R59, R76). -/
def Dev.sendFour (s : Dev) (v : Nat) (b : LinkBlk) : Dev :=
  if s.vatActive v then (s.modVat v (fun x => { x with blks := x.blks ++ [b] })).blkFlush v else s

/-! ### The abacus (07 R170, R172, R175) -/

def beadKey (i o : Nat) : Nat := 1024 * i + o

def Dev.bead (s : Dev) (i o : Nat) : Nat := (s.de.beads.get (beadKey i o)).toNat

def Dev.setBead (s : Dev) (i o v : Nat) : Dev :=
  { s with de := { s.de with beads := s.de.beads.set (beadKey i o) (BitVec.ofNat 32 v) } }

/-! ### The inhibits and what a hard one cancels (06 R141, R142) -/

/-- GL_INH as the conditions of Table 6.4 stand. -/
def Dev.inhNow (s : Dev) : Nat :=
  maskOf ((if s.rd F.PM_STAT_STATE ≠ 0 ∨ 2 ≤ s.rd F.PM_STAT_REQ then [0] else []) ++ (if s.on F.GL_CTL_PAUSE then [1] else []) ++
    (if s.fc.latch then [2] else []) ++ (if s.planVats.any s.held then [3] else []) ++
    (if s.rd2 R.FC_EICT_LO ≠ 0 then [4] else []) ++ (if s.rd2 R.FC_NOPRESS_LO ≠ 0 then [5] else []) ++
    (if s.rd2 R.FC_EICNA_LO ≠ 0 then [6] else []) ++ (if s.on F.GL_STAT_PLAN then [] else [7]))

/-- GL_INH as one field. -/
def glInh : Fld := ⟨R.GL_INH, 0, 8⟩

/-- A hard inhibit of Table 6.4 is among the bits. -/
def hardBits (i : Nat) : Bool := i / 4 != 0

/-- Apply one bank operation (R168, R170, R172, R171). -/
def Dev.bankApply (s : Dev) : BankOp → Dev
  | .add i o inc =>
    let t := s.bead i o + inc
    let s := s.setBead i o (min t 0xFFFFFFFF)
    if 0xFFFFFFFF < t then
      let first := !s.on F.DE_EVT_BEAD_SAT
      let s := (s.count F.DE_BEAD_SAT).event F.DE_EVT_BEAD_SAT
      Dev.when first (·.raise 0x0C07 0 (srcWord 12) i) s
    else s
  | .drain k i o dr =>
    let before := s.bead i o
    let d := min before dr
    let s := s.setBead i o (before - d)
    if d = 0 then s
    else ({ s with de := { s.de with drained := s.de.drained ++ [(k, i, o, d)] } }).pcClock 0x0C07 d
  | .refund k =>
    let mine := s.de.drained.filter (fun d => d.1 == k)
    Dev.each mine (fun s d => s.setBead d.2.1 d.2.2.1 (satAdd 32 (s.bead d.2.1 d.2.2.1) d.2.2.2))
      { s with de := { s.de with drained := s.de.drained.filter (fun d => d.1 != k) } }
  | .age i o =>
    let on := (o.map (fun o => decide (0 < s.bead i o))).getD false
    let nz := s.de.beads.any (fun kv => kv.1 / 1024 == i)
    let v := if on then 0 else if nz then min ((s.de.age.get i).toNat + 1) 255 else 0
    { s with de := { s.de with age := s.de.age.set i (BitVec.ofNat 8 v) } }

/-- A bank operation: held while a run reads the snapshot, else applied (R175). -/
def Dev.bankOp (s : Dev) (op : BankOp) : Dev :=
  match s.de.run with
  | some r => if r.released then s.bankApply op else { s with de := { s.de with held := s.de.held ++ [op] } }
  | none => s.bankApply op

/-- DE adds the drained amounts of slot k back to their beads (R172); during a run, in its turn behind the drains held (R175). -/
def Dev.refund (s : Dev) (k : Nat) : Dev := s.bankOp (.refund k)

/-- PRESS trace record (Table 11.11). -/
def Dev.pressTrace (s : Dev) (x : Slot) (revoked : Bool) (missing : Nat) : Dev :=
  let fl := (if x.nochg then 1 else 0) + (if revoked then 2 else 0) + (if missing > 0 then 4 else 0)
  let pl := toLe 8 x.k ++ toLe 8 x.m ++ toLe 2 x.img.fnum ++ toLe 2 fl ++ toLe 2 x.changed.length ++ toLe 2 missing
  s.trace { ty := 4, blk := 11, payload := pl }

/-- The latest committed slot and its image (R142, R162): what an uncancelled press of GL's list holds, else what the
list has already passed on. -/
def Gl.lastCom (g : Gl) : Nat × FormImg :=
  match (g.dec.filter (fun x => x.committed && !x.cancelled)).getLast? with
  | some x => (x.k, x.img)
  | none => (g.lastK, g.last)

/-- The images of the list's slots: a press has its own, a slot that presses nothing keeps that of the press before it. -/
def reImg : FormImg → List Slot → List Slot
  | _, [] => []
  | p, x :: r => if x.nochg then { x with img := p } :: reImg p r else x :: reImg x.img r

/-- The decision that holds for slot k: the latest, for after a safe state a slot is decided anew (R140). -/
def Gl.slotOf (g : Gl) (k : Nat) : Option Slot := (g.dec.filter (fun x => x.k == k)).getLast?

/-- GL_FORM shows what is decided for the next boundary; while nothing is, it keeps what it last showed (DESIGN CHOICE, log 105). -/
def Dev.formNext (s : Dev) : Dev :=
  match s.gl.slotOf (s.rd2 R.GL_SLOT_LO + 1) with
  | some x => (s.wr F.GL_FORM_NEXT x.img.fnum).wrB F.GL_FORM_NEXT_NOCHG x.nochg
  | none => s

/-- A stint whose entry press is cancelled has not entered; one whose exit press is cancelled stays turned (R224). -/
def Stint.pressCancelled (m : Nat) (t : Stint) : Stint :=
  if t.entered = some m then { t with entered := none }
  else if t.exitM = some m then { t with exitM := none, probeOff := true }
  else t

/-- Cancel one slot for a reason (R142, R162): revoked, counted, refunded; its image is that of the last committed. -/
def Dev.cancelSlot (reason : Nat) (s : Dev) (x : Slot) : Dev :=
  let y := { x with cancelled := true, committed := false, nochg := true, changed := [] }
  let dec := reImg s.gl.last (s.gl.dec.map (fun (z : Slot) => if z.k = x.k then y else z))
  let com := ({ s.gl with dec := dec }).lastCom
  let s := { s with gl := { s.gl with dec := dec } }
  let s := { s with cal := { s.cal with stints := s.cal.stints.map (Stint.pressCancelled x.m) } }
  let s := (s.count F.GL_REVOKE).event F.GL_EVT_REVOKE
  let s := Dev.when x.announced (·.rpSend F.RPA_TX_REVOKE (revokePdu x.k com.1 reason (s.rd F.GL_STAT_EPOCH))) s
  ((s.refund x.k).formNext).pressTrace { y with img := com.2 } true 0

/-- A hard inhibit comes into force: every slot decided and not committed is cancelled (R142). -/
def Dev.cancelAll (reason : Nat) (s : Dev) : Dev :=
  Dev.each (s.gl.dec.filter (fun x => !x.committed && !x.cancelled)) (Dev.cancelSlot reason) s

/-- GL_INH follows its conditions: INH_ON on a new one, INH_OFF at the last one's clearing, and a new hard inhibit
cancels (R141, R142, R156). -/
def Dev.glSync (s : Dev) : Dev :=
  let old := s.rd glInh
  let new := s.inhNow
  let s := ((s.wr glInh new).wrB F.GL_STAT_INH (new != 0)).wrB F.GL_STAT_HARD (hardBits new)
  if new = old then s
  else
    let fresh := (List.range 8).filter (fun b => bit new b && !bit old b)
    let s := Dev.when (!fresh.isEmpty) (·.event F.GL_EVT_INH_ON) s
    let s := Dev.when (new == 0) (·.event F.GL_EVT_INH_OFF) s
    match fresh.filter (fun b => decide (2 ≤ b)) with
    | b :: _ => s.cancelAll b
    | [] => s

/-- A line of R308: the vat's bit sets in the condition register at lo, and GL takes the inhibit. -/
def Dev.raiseCond (s : Dev) (lo code v info : Nat) : Dev :=
  ((s.raise code 2 (srcWord 6 v) info).setVatBit lo v).glSync

/-! ### Holds (03 R76, R77) -/

/-- HOLD goes out on every ACTIVE lane of a vat. -/
def Dev.holdBlocks (s : Dev) (v reason eff : Nat) : Dev := s.sendFour v (.hold reason eff)

/-- HOLD of reason 2 or 3 (R76): from the instant it is first sent the vat reads as held; its loops go to RESTART at the
opening of the frame whose drive applies at EFF (R77). -/
def Dev.holdVat (reason eff : Nat) (s : Dev) (v : Nat) : Dev :=
  let s := s.modVat v (fun x => { x with holds := x.holds ||| BitVec.ofNat 4 (2 ^ reason), relEff := none,
                                         holdEff := if s.held v && x.relEff.isNone then x.holdEff else some eff })
  (s.holdBlocks v reason eff).setHeld v true

/-- EFF of a HOLD of reason 2 or 3 of some vats: after the boundary of every committed press (R76). -/
def Dev.holdEffOf (s : Dev) (vs : List Nat) : Nat :=
  (s.gl.dec.filter (fun x => x.committed && !x.nochg && decide (s.now < x.m))).foldl (fun e x => max e (x.m + 1))
    (s.nextEff vs)

/-- EFF of a HOLD of every vat. -/
def Dev.holdEff (s : Dev) : Nat := s.holdEffOf (List.range 64)

/-- Withdraw a reason; R77 then decides the RELEASE. -/
def Dev.unhold (reason : Nat) (s : Dev) (v : Nat) : Dev :=
  s.modVat v (fun x => { x with holds := x.holds &&& ~~~ (BitVec.ofNat 4 (2 ^ reason)) })

/-! ### Completing a command (11 R268) -/

/-- The command of mailbox mb is complete with STATUS, DETAIL, DETAIL2 and a payload; the response is written when
MAILBOX_COMPLETION comes. From 8 on stand commands whose response is discarded: 8 one that a restart has answered or that
ran on over a host-interface reset, from 16 on those accepted before such a reset and not yet begun (R262). -/
def Dev.finish (s : Dev) (mb status detail detail2 : Nat) (pl : List Byte) : Dev :=
  if 8 ≤ mb then { s with mbx := s.mbx.set mb {} }
  else { s with mbx := s.mbx.mod mb (fun m => { m with ready := some (status, detail, detail2, pl), taken := true }) }

/-- An accepted request not yet begun, with a command and, where it has several, an operation in payload byte 0. -/
def Mbx.waits (m : Mbx) (cmd : Nat) (op : Option Nat) : Bool :=
  m.cmd == cmd && !m.taken && m.ready.isNone && op.all (fun o => o == m.fld 0 1)

/-- The state a command acts on (R269), by number: 0 plans and forms, 1 loops, 2 calibration, 3 power, 4 twin engines, 5 records,
6 demand, 7 counters, 8 holds, 9 firmware. Commands that only report act on none. -/
def ecsState (cmd : Nat) : List Nat :=
  match cmd with
  | 0x0101 => [0]
  | 0x0102 => [0, 3]
  | 0x0201 => [0]
  | 0x0401 => [2, 5]
  | 0x0501 => [2, 3]
  | 0x0701 => [5]
  | 0x0801 => []
  | 0x0901 => [6]
  | 0x0A01 => [7]
  | 0x0B01 => []
  | 0x0B02 => [9]
  | 0x0B03 => [8]
  | c => [c / 256 - 2]

/-- Requests accepted and not yet begun, with their places: those of BUSY mailboxes, and those a host-interface reset left. -/
def Dev.waiting (s : Dev) : List (Nat × Mbx) :=
  s.mbx.filter (fun x => !x.2.taken && x.2.ready.isNone && (decide (16 ≤ x.1) || s.rd (F.MB_STAT_STATE x.1) == 1))

/-- Of two commands on the same state the older doorbell comes first (R269): no older one waits. -/
def Dev.inTurn (s : Dev) (m : Mbx) : Bool :=
  s.waiting.all (fun x => !(decide (x.2.bell < m.bell) && (ecsState x.2.cmd).any (ecsState m.cmd).contains))

/-- The request of mailbox mb that a command begins: what it had accepted before a host-interface reset comes first (R262). -/
def Dev.request (s : Dev) (mb cmd : Nat) (op : Option Nat) : Option (Nat × Mbx) :=
  (s.waiting.reverse).find? (fun x => (if x.1 < 8 then x.1 else x.2.from_) == mb && x.2.waits cmd op && s.inTurn x.2)

/-- An ECS command acts once, on the request it begins. -/
def Dev.ecs (mb cmd : Nat) (op : Option Nat) (f : Nat → Mbx → Dev → Dev) (s : Dev) : Dev :=
  match s.request mb cmd op with
  | some x => f x.1 x.2 s
  | none => s

/-- The command is under way. -/
def Dev.take (s : Dev) (mb : Nat) : Dev := { s with mbx := s.mbx.mod mb (fun m => { m with taken := true }) }

/-- Complete OK. -/
def Dev.ok (s : Dev) (mb : Nat) (pl : List Byte) : Dev := s.finish mb 0 0 0xFFFFFFFF pl

/-- Complete REFUSED with a code of Table 11.6, 8.12 or 9.2. -/
def Dev.refuse (s : Dev) (mb detail : Nat) (detail2 : Nat := 0xFFFFFFFF) : Dev := s.finish mb 2 detail detail2 []

/-- Complete RANGE at a payload offset. -/
def Dev.range (s : Dev) (mb off : Nat) : Dev := s.finish mb 6 0 off []

/-- Commands of the mailboxes that p picks no longer answer one. -/
def Dev.orphan (p : Nat → Bool) (s : Dev) : Dev :=
  let g (k : Nat) : Nat := if p k then 8 else k
  { s with
    le := { s.le with tune := s.le.tune.map (fun (t : Tune) => { t with mb := g t.mb }) },
    cal := { s.cal with
      runs := s.cal.runs.map (fun (r : CalRun) => { r with mb := g r.mb }),
      stints := s.cal.stints.map (fun (t : Stint) => { t with mb := g t.mb }),
      caps := s.cal.caps.map (fun (c : Cap) => { c with mb := g c.mb }) },
    nv := { s.nv with
      queue := s.nv.queue.map (fun (r : NvReq) => { r with mb := r.mb.map g }),
      cur := s.nv.cur.map (fun (c : NvCur) => { c with req := { c.req with mb := c.req.mb.map g } }) },
    pm := { s.pm with mb := s.pm.mb.map (fun (x : Nat × Nat) => (g x.1, x.2)) },
    tw := { s.tw with restoreMb := s.tw.restoreMb.map g } }

/-! ### A master's reset (12 R285, R296) -/

/-- The master of an ID (Table 12.2); IDs from 0xA on are not issued. -/
def masterOf (mid : Nat) : Option Nat :=
  if mid < 4 then some 0 else if mid = 4 then some 1 else if mid < 7 then some 2 else if mid = 7 then some 3
  else if mid = 8 then some 4 else if mid = 9 then some 5 else none

def BmW.m (w : BmW) : Nat := (masterOf w.q.mid.toNat).getD 6

/-- Bytes a burst takes: 16 a beat, a word at T6. -/
def bmLen (q : BmReq) : Nat := if q.tgt = 6 then 4 else 16 * q.beats.toNat

/-- The targets whose windows the matrix alone fills: T1 and T2 answer by R10, T5 lies outside, and T6 acts at the grant. -/
def bmHolds (t : Nat) : Bool := t == 0 || t == 3 || t == 4 || t == 7

/-- The key of a byte of a target. -/
def bmKey (t a : Nat) : Nat := 2 ^ 64 * t + a

/-- The bytes of a write's range become those of a list, none where it has none; no byte of another range changes. -/
def Dev.bmFill (s : Dev) (q : BmReq) (data : List Byte) : Dev :=
  if q.write && bmHolds q.tgt.toNat then
    { s with bm := { s.bm with mem := (List.range (bmLen q)).foldl (fun t i =>
        t.set (bmKey q.tgt.toNat (q.addr.toNat + i)) data[i]?) s.bm.mem } }
  else s

/-- A target's window is changed otherwise than by transactions: what the matrix knows of it is no longer so. -/
def Dev.bmWipe (t : Nat) (s : Dev) : Dev :=
  { s with bm := { s.bm with mem := s.bm.mem.filter (fun kb => kb.1 / 2 ^ 64 != t) } }

/-- A write that fails, or whose beats go out with strobes off, leaves unknown what it was to write, and what reads behind it were
to return from it. -/
def Dev.bmUnknown (s : Dev) (w : BmW) : Dev :=
  let s := s.bmFill w.q []
  { s with bm := { s.bm with out := s.bm.out.map (fun (x : BmW) =>
      if w.q.write ∧ x.q.tgt = w.q.tgt then { x with known := x.known.filter (fun kb =>
        !(decide (w.q.addr.toNat ≤ x.q.addr.toNat + kb.1) && decide (x.q.addr.toNat + kb.1 < w.q.addr.toNat + bmLen w.q))) } else x) } }

/-- A master is reset: what waits is withdrawn, what was issued drains, its writes with the strobes off (R296). -/
def Dev.masterReset (m : Nat) (s : Dev) : Dev :=
  let s := { s with bm := { s.bm with
    wait := s.bm.wait.filter (fun w => w.m != m),
    out := s.bm.out.map (fun (w : BmW) => if w.m = m ∧ !w.late then { w with drain := true } else w) } }
  let l := s.bm.out.filter (fun w => w.m == m && w.drain)
  let s := Dev.each l Dev.bmUnknown s
  if l.isEmpty then s else s.wr F.BM_STAT_DRAIN (setBit (s.rd F.BM_STAT_DRAIN) m)

end Sys2Proof.Machine
end

