-- ==== Sys2Proof/Machine/Program.lean ====
section
/-!
DEFINITION. Sample programs under cost table 1 (08 R195 to R199, Table 8.8, Table 8.9).
-/
namespace Sys2Proof.Machine

/-- Cost of an operation in issue slots (Table 8.8). -/
def opCost (i : PInst) : Nat :=
  match i.opc with
  | 0x00 => i.arg
  | 0x01 => 8
  | 0x02 => 6
  | 0x03 => 4
  | 0x04 => 20
  | 0x05 => 8
  | 0x06 => 12
  | 0x07 => 16
  | 0x08 => 6
  | 0x09 => 6
  | 0x0A => 12
  | _ => 0

/-- The low clock rate of an operating point, cycles per 10^7 ns (Table 8.9). -/
def fLo (op : Nat) : Nat := match op with
  | 0 => 12436754
  | 1 => 9949403
  | _ => 6218377

/-- Opening of phase p in ns after the opening of F(n); 1,000 past the last (R199). -/
def Prog.ph (g : Prog) (p : Nat) : Nat := if p < g.phases.length then g.phases.getD p 0 else 1000

/-- Issue slots of phase p at an operating point (R199). -/
def Prog.slots (g : Prog) (op p : Nat) : Nat :=
  fLo op * (g.ph (p + 1) - g.ph p) / 10000000 - 6 - (if p = 0 then 24 else 0) -
    (if p + 1 = g.phases.length then 61 else 0)

/-- All issue slots of a frame. -/
def Prog.allSlots (g : Prog) (op : Nat) : Nat := ((List.range g.phases.length).map (g.slots op)).foldl (· + ·) 0

end Sys2Proof.Machine
end

