-- ==== Sys2Proof/Machine/Engine.lean ====
section
/-!
DEFINITION. The loop engines: which of them run, the work of a frame's opening for every loop (05 R107 to R125), and the
operations a sample program issues in its phases (08 Table 8.8): front ends, updates, press head, press and regular
segments, and the closing of a vat's program with its flag summaries, records, capture and sweep sums (04 R101, 09 R223,
R227).
-/
namespace Sys2Proof.Machine

def loopKey (v l : Nat) : Nat := 256 * v + l
def chKey (v c : Nat) : Nat := 512 * v + c
/-- Key of a handed-over part: 0 the SOF_D content, 1 + j body segment j, 31 the TERM block. -/
def segKey (v k : Nat) : Nat := 32 * v + k
def segNo : Seg → Nat
  | .sof => 0
  | .body j => 1 + j.toNat
  | .term => 31

def Dev.eng (s : Dev) : Eng → EngSt
  | .lea => s.le.a
  | .leb => s.le.b

def Dev.modEng (s : Dev) (e : Eng) (f : EngSt → EngSt) : Dev :=
  match e with
  | .lea => { s with le := { s.le with a := f s.le.a } }
  | .leb => { s with le := { s.le with b := f s.le.b } }

/-- The other engine. -/
def other (e : Eng) : Eng := if e = .lea then .leb else .lea

/-- Block code of an engine (Table 11.2). -/
def engBlock (e : Eng) : Nat := if e = .lea then 7 else 8

/-- Role of an engine (Table 10.1). -/
def Dev.role (s : Dev) (e : Eng) : Nat := if e = .lea then s.rd F.TW_STAT_ROLE_A else s.rd F.TW_STAT_ROLE_B

/-- The active engine (R238). -/
def Dev.active (s : Dev) : Eng := if s.role .leb = 1 then .leb else .lea

/-- The engine runs vat v's program (Table 10.1, R250): a joining unit from its trial frames on. -/
def Dev.runs (s : Dev) (e : Eng) (v : Nat) : Bool :=
  match s.role e with
  | 1 => true
  | 2 => (match s.tw.vres.get v with
    | some r => r.trial
    | none => true)
  | 3 => (match s.tw.wres with
    | some r => r.trial
    | none => false)
  | _ => false

/-- Descriptors and calibration of a bank (R206). -/
def Dev.descsOf (s : Dev) (b : Bool) : Tbl Desc := if b then s.le.descs1 else s.le.descs0
def Dev.calOf (s : Dev) (b : Bool) : Tbl Word := if b then s.le.cal1 else s.le.cal0
def Dev.setDescs (s : Dev) (b : Bool) (t : Tbl Desc) : Dev :=
  if b then { s with le := { s.le with descs1 := t } } else { s with le := { s.le with descs0 := t } }
def Dev.setCal (s : Dev) (b : Bool) (t : Tbl Word) : Dev :=
  if b then { s with le := { s.le with cal1 := t } } else { s with le := { s.le with cal0 := t } }

/-- A plan not yet retired that the frame still uses, where a staged plan has taken its bank (01 R26). -/
def Dev.keptNow (s : Dev) : Option KeptPlan := s.le.kept.filter (fun k => k.bank == s.le.bank)

/-- Descriptors and calibration of the bank selected at the frame's opening (R203). -/
def Dev.descs (s : Dev) : Tbl Desc := match s.keptNow with
  | some k => k.descs
  | none => s.descsOf s.le.bank

def Dev.setDescsNow (s : Dev) (t : Tbl Desc) : Dev := match s.keptNow with
  | some k => { s with le := { s.le with kept := some { k with descs := t } } }
  | none => s.setDescs s.le.bank t

def Dev.calNow (s : Dev) : Tbl Word := match s.keptNow with
  | some k => k.cal
  | none => s.calOf s.le.bank

def Dev.setCalNow (s : Dev) (t : Tbl Word) : Dev := match s.keptNow with
  | some k => { s with le := { s.le with kept := some { k with cal := t } } }
  | none => s.setCal s.le.bank t

/-- The plan whose bank the frame uses. -/
def Dev.framePlan (s : Dev) : Option Plan :=
  if s.le.inUse then ((s.keptNow.map (·.plan)).or (s.planBank s.le.bank)) else none

/-- Used loops of vat v in a descriptor table, as (loop, descriptor). -/
def loopsOf (t : Tbl Desc) (v : Nat) : List (Nat × Desc) :=
  (t.filter (fun kd => kd.1 / 256 == v && kd.2.used)).map (fun kd => (kd.1 % 256, kd.2))

/-- P2 Park (R78, R107). -/
def Dev.inP2 (s : Dev) : Bool := s.rd F.PM_STAT_STATE == 2

/-- The engines stand: from the frame after that of the HOLD of R325, until they are released after wake (R52, R327). -/
def Dev.stands (s : Dev) (n : Nat) : Bool :=
  match s.pm.p3 with
  | .none => false
  | .waiting => false
  | .held => decide (s.pm.holdEff < n)
  | _ => true

/-- Frames run in P0 and P1, in P2 those with n mod 16 = 0, and none in P4 or while the engines stand (R107). -/
def Dev.frameRuns (s : Dev) (n : Nat) : Bool :=
  !s.stands n && s.rd F.PM_STAT_STATE != 4 && (!s.inP2 || n % 16 == 0)

/-! ### Presses as the engines see them -/

/-- The committed presses in GL's list (R143, R144). -/
def Dev.presses (s : Dev) : List Slot := s.gl.dec.filter (fun x => x.committed && !x.cancelled)

/-- The new state of cell idx in the press at sample m, when that press changes it. -/
def Dev.pressOf (s : Dev) (m idx : Nat) : Option Bool :=
  ((s.presses.filter (fun x => x.m == m)).flatMap (·.changed)).findSome? (fun c => if c.1 = idx then some c.2 else none)

def Dev.pressCell (s : Dev) (m : Nat) (d : Desc) : Option Bool := if d.isCell then s.pressOf m d.idx.toNat else none

/-- B(k) at sample m is the first boundary of an accepted activation (R117, R151). -/
def Dev.newPlanAt (s : Dev) (m : Nat) : Bool := s.on F.GL_STAT_ACT_PEND && s.rd2 R.GL_ACT_LO == m

/-- The changed cells of vat v in the press at m, as (loop, descriptor, new state), in ascending drive channel. -/
def Dev.vatPress (s : Dev) (m v : Nat) : List (Nat × Desc × Bool) :=
  let l := (loopsOf s.descs v).filterMap (fun ld => (s.pressCell m ld.2).map (fun st => (ld.1, ld.2, st)))
  sortBy (fun a b => decide (a.2.1.drv.toNat ≤ b.2.1.drv.toNat)) l

/-- The stint has its named cells turned in F(n): from the F(m) of its entry up to that of its exit (R222, R224). -/
def Stint.turned (t : Stint) (n : Nat) : Bool :=
  (t.entered.map (fun m => decide (m ≤ n))).getD false && (t.exitM.map (fun m => decide (n < m))).getD true

/-- The last step of a staircase. -/
def Stint.span (t : Stint) : Nat := ((t.stop.toInt - t.start.toInt) / t.step.toInt).toNat

/-- The step that frame fr of a staircase belongs to: each holds for DWELL frames (R223). -/
def Stint.stepNo (t : Stint) : Nat := (t.fr - 1) / t.dwell

/-- The staircase word of a sweep in the frame in progress (R223). -/
def Stint.word (t : Stint) : Option Int :=
  if t.sweep ∧ 0 < t.fr then some (t.start.toInt + min t.stepNo t.span * t.step.toInt) else none

/-- F(n) is a frame of a sweep's staircase: one from F(m + 2) on whose vat the safe state does not hold (R223, R224). -/
def Stint.advance (n : Nat) (hold : Bool) (t : Stint) : Stint :=
  if t.sweep && t.turned n && (t.entered.map (fun m => decide (m + 2 ≤ n))).getD false && !hold then
    { t with fr := t.fr + 1, frAt := n }
  else t

/-- The stint that has cell loop l of vat v turned in F(n), if any. -/
def Dev.stintOf (s : Dev) (v l n : Nat) : Option Stint :=
  s.cal.stints.find? (fun t => t.vat == v && t.cells.contains l && t.turned n)

/-- The staircase word of the sweep that has cell loop l of vat v turned in F(n). -/
def Dev.sweepWord (s : Dev) (v l n : Nat) : Option Int := (s.stintOf v l n).bind Stint.word

/-! ### Injection (R225, R226) -/

/-- Bit i of the PRBS7 sequence of x^7 + x^6 + 1 from 0x7F (log 26). -/
def prbs7 : Nat → Nat → Bool
  | 0, r => bit r 6
  | i + 1, r => prbs7 i (r * 2 % 128 + b2n (bit r 6 != bit r 5))

/-- v(i) of an injection for the word of F(n) (Table 9.4), while it is in force. -/
def Inj.val (j : Inj) (n : Nat) : Option Int :=
  if j.s0 ≤ n + 1 ∧ n + 1 - j.s0 < j.ns then
    let i := n + 1 - j.s0
    let a := j.amp.toInt
    some (match j.ty with
      | 0 => a
      | 1 => if i / j.per % 2 = 0 then a else -a
      | 2 => if prbs7 (i % 127) 0x7F then a else -a
      | 3 => a * walsh j.w.toNat ((n + 1) % 16)
      | _ => a)
  else none

/-- The injection in force on loop l of vat v. -/
def Dev.injOf (s : Dev) (v l n : Nat) : Option (Inj × Int) :=
  (s.cal.inj.filterMap (·.2)).findSome? (fun j =>
    if j.vat = v ∧ j.loops.contains l then (j.val n).map (fun x => (j, x)) else none)

/-- The word of an auxiliary channel (R221): a stint's probe, an injection, else 0. -/
def Dev.auxWord (s : Dev) (v c n : Nat) : BitVec 16 :=
  match s.cal.stints.find? (fun t => t.vat == v && t.probe == c && !t.probeOff &&
      (match t.entered with
       | some m => decide (m ≤ n)
       | none => false) &&
      (match t.exitM with
       | some m => decide (n + 2 < m)
       | none => true)) with
  | some t => t.plevel
  | none =>
    match (s.cal.inj.filterMap (·.2)).findSome? (fun j => if j.vat = v ∧ j.aux.contains c then j.val n else none) with
    | some x => BitVec.ofInt 16 (sat16 x).1
    | none => 0

/-! ### The opening of a frame for the loops -/

/-- What the opening of F(n) is to one loop. -/
structure OpenIn where
  n : Nat := 0
  p2 : Bool := false
  pressM2 : Option (Bool × Desc × Bool) := none
  pressM1 : Bool := false
  pressM : Option (Bool × Bool) := none
  tgt : Int := 0
  held : Bool := false
  turn : Bool := false
  open_ : Bool := false
  deriving DecidableEq, Repr, Inhabited

/-- Opening work of loop_update after tuning (R107): the frozen mode's end, the state at m, ramp, offload, press value.
Answers also the report of PV and whether a thermal step was made. -/
def openLoop (d : Desc) (x : OpenIn) (s : LoopSt) : LoopSt × Option (BitVec 2) × Bool :=
  if s.mode = .unused then (s, none, false)
  else
    let s := if s.mode = .frozen then
        { s with mode := if x.held then .restart else if x.turn then .turn else .run } else s
    let s := match x.pressM with
      | some (st, np) => enterState d st np s
      | none => s
    let s := if d.isPort && s.mode == .run && s.spv then rampLoop d x.tgt s else s
    let o := if thermalFrame x.p2 x.n d.tph.toNat && offloadOk d s && !x.pressM1 && x.pressM.isNone && !x.open_
      then offload d s else (s, false)
    match x.pressM2 with
    | some (st, d', np) =>
      let p := formPv d' st np o.1
      (p.1, some p.2, o.2)
    | none => (o.1, none, o.2)

/-- The target of a port loop for the word of F(n) (R112, R113), a SETPOINT injection's AMP while in force. -/
def Dev.target (s : Dev) (v l n : Nat) (d : Desc) : Int :=
  match s.injOf v l n with
  | some (j, x) => if j.ty = 4 then x else (s.gl.cur.tgts.getD d.idx.toNat 0).toInt
  | none => (s.gl.cur.tgts.getD d.idx.toNat 0).toInt

/-- The OpenIn of loop l of vat v at the opening of F(n); nd is the staged bank's descriptors (R117). -/
def Dev.openIn (s : Dev) (nd : Tbl Desc) (v l n : Nat) (d : Desc) : OpenIn :=
  let d' := nd.get (loopKey v l)
  let np := s.newPlanAt (n + 2) && d'.isCell && d'.idx == d.idx
  { n := n, p2 := s.inP2,
    pressM2 := (s.pressCell (n + 2) d).map (fun st => (st, if np then d' else d, np)),
    pressM1 := (s.pressCell (n + 1) d).isSome,
    pressM := (s.pressCell n d).map (fun st => (st, s.newPlanAt n)),
    tgt := s.target v l n d, held := s.held v,
    turn := (s.stintOf v l n).isSome,
    open_ := (match s.injOf v l n with
      | some (j, _) => j.openMode
      | none => false) ||
      (s.sweepWord v l n).isSome }

/-- The unit of vat v runs its program: its engine does (Table 10.1) and it has its clock. -/
def Dev.unitRuns (s : Dev) (e : Eng) (v : Nat) : Bool := s.runs e v && !(s.eng e).dead.contains v

/-- Saturations of an engine in a vat (Table 15.2); a unit that does not run counts none. -/
def Dev.satCount (s : Dev) (e : Eng) (v k : Nat) : Dev := if k = 0 ∨ !s.unitRuns e v then s else s.pcFrame (256 * engBlock e + 6) k (some v)

/-- The opening of F(n) for one loop of engine e. -/
def Dev.openOne (e : Eng) (nd : Tbl Desc) (n : Nat) (s : Dev) (v : Nat) (ld : Nat × Desc) : Dev :=
  let k := loopKey v ld.1
  let o := openLoop ld.2 (s.openIn nd v ld.1 n ld.2) ((s.eng e).loops.get k)
  let z := satEvents (fun x => (openLoop ld.2 (s.openIn nd v ld.1 n ld.2) x).1) ((s.eng e).loops.get k)
  let s := s.satCount e v z.2
  let r := (z.1, o.2)
  let s := s.modEng e (fun g => { g with
    loops := g.loops.set k r.1,
    pvsat := match r.2.1 with
      | some p => g.pvsat.set k p
      | none => g.pvsat })
  if r.2.2 then s.pcFrame (256 * engBlock e + 4) 1 (some v) else s

/-- The opening of F(n) for every loop of every vat, in each unit that runs. -/
def Dev.openLoops (n : Nat) (s : Dev) : Dev :=
  let nd := s.descsOf s.stagedBank
  Dev.each [Eng.lea, .leb] (fun s e =>
    Dev.each ((s.framePlan.map (·.vats)).getD []) (fun s ve =>
      if s.unitRuns e ve.vat then
        Dev.each (loopsOf s.descs ve.vat) (fun s ld => s.openOne e nd n ve.vat ld)
          (s.pcFrame (256 * engBlock e + 1) 1 (some ve.vat))
      else s) s) s

/-- The loops of a vat go to RESTART (R77, R310); a FROZEN one at its next opening (R107). -/
def Dev.restartVat (s : Dev) (v : Nat) : Dev :=
  let f (g : EngSt) : EngSt := { g with loops := g.loops.mapAll (fun k x =>
    if k / 256 = v ∧ x.mode ≠ .unused ∧ x.mode ≠ .frozen then { x with mode := .restart } else x) }
  { s with le := { s.le with a := f s.le.a, b := f s.le.b } }

/-! ### Operations of a sample program -/

/-- Sense segment that holds tap channel c (R64). -/
def tapSeg (c : Nat) : Nat := if c < 56 then 0 else 1 + (c - 56) / 64

/-- A TAP run makes channel c of vat v stale (R218). -/
def Dev.tapRun (s : Dev) (v c : Nat) : Bool :=
  s.cal.runs.any (fun r => r.kind == 4 && r.active && r.target == 256 + v && decide (r.first ≤ c) && decide (c < r.first + r.count))

/-- Channel c of vat v as the engines read it in F(n) (R16, R88, R203). -/
def Dev.tapIn (s : Dev) (v c n : Nat) : TapIn :=
  let x := s.vat v
  let fresh := match x.sof with
    | some b => x.sofN == n && b.epoch == s.le.epoch && x.segs.contains (tapSeg c) && !s.tapRun v c
    | none => false
  { code := if fresh then some (s.vl.taps.get (chKey v c)) else none,
    cal := s.calNow.get (chKey v c) }

/-- The front operation of one loop (GFC, GFP); a changed cell uses no tap code of sample m (R23), and a sweep does not
change SGRAD (R223). The word applied at t(n - 1) is that of F(n - 2), in P2 that of the latest update, with its chip (R95). -/
def Dev.front1 (e : Eng) (n v : Nat) (s : Dev) (ld : Nat × Desc) : Dev :=
  let k := loopKey v ld.1
  let d := ld.2
  let g := s.eng e
  let st := g.loops.get k
  let cut (t : TapIn) : TapIn := if st.mode = .restart then { t with code := none } else t
  let w := (g.dith.get k).find? (fun x => decide (x.1 + 2 ≤ n))
  let h := w.any (fun x => x.2.1 && (s.inP2 || x.1 + 2 == n))
  let j := if s.inP2 then (w.map (·.2.2)).getD (chipDem true n) else chipDem false n
  let isM := (s.pressCell n d).isSome
  let ok := !isM && (s.vat v).prevOk && h
  let r := if d.isCell && isM then (demodStep d j 0 false st, {})
    else if d.isCell then
      cellFront d (cut (s.tapIn v d.tapb.toNat n)) (cut (s.tapIn v d.tapx.toNat n)) j ok st
    else portFront d (cut (s.tapIn v d.tapb.toNat n)) st
  let z := if st.mode = .turn ∧ (s.sweepWord v ld.1 n).isSome then { r.1 with sgrad := st.sgrad } else r.1
  if st.mode = .unused then s
  else s.modEng e (fun g => { g with loops := g.loops.set k z, front := g.front.set k r.2 })

/-- GUPD for one loop. A row of Table 5.5 that is neither normal nor held counts no update (15 R349, log 99). -/
def Dev.upd1 (e : Eng) (n v : Nat) (s : Dev) (ld : Nat × Desc) : Dev :=
  let k := loopKey v ld.1
  let d := ld.2
  let g := s.eng e
  let st := g.loops.get k
  let m2 := (s.pressCell (n + 2) d).isSome
  let m1 := (s.pressCell (n + 1) d).isSome
  let m0 := (s.pressCell n d).isSome
  let stint := s.stintOf v ld.1 n
  let inj := if m2 || m1 || m0 || stint.isSome then none
    else match s.injOf v ld.1 n with
      | some (j, x) => if j.ty = 4 then none else some (j.openMode, x)
      | none => none
  let sweep := if st.mode = .turn then s.sweepWord v ld.1 n else none
  let x : UpdIn := { isM1 := m1, isM := m0, jApp := chipApp s.inP2 n, pvRep := g.pvsat.get k, inj := inj, sweep := sweep }
  let f := g.front.get k
  let o := loopUpdate d f x st
  let und := if m1 || st.mode == .darksafe then o.st.pv else (sweep.map (BitVec.ofInt 16)).getD o.st.uhold
  let s := s.modEng e (fun g => { g with
    loops := g.loops.set k o.st, words := g.words.set (chKey v d.drv.toNat) o.word,
    dith := g.dith.set k (((n, o.dithered, x.jApp) :: g.dith.get k).take 3),
    recs := g.recs.set k (((n, und) :: g.recs.get k).take 4) })
  let s := if st.mode = .darksafe ∨ st.mode = .unused ∨ m0 ∨ sweep.isSome ∨ inj.any (·.1) then s
    else if f.cond = .normal ∧ st.mode ≠ .restart then s.pcFrame (256 * engBlock e + 2) 1 (some v)
    else if m1 then s
    else s.pcFrame (256 * engBlock e + 3) 1 (some v)
  s.satCount e v o.nsat

/-- The loops of gang g. -/
def gangLoops (t : Tbl Desc) (v g : Nat) : List (Nat × Desc) := (loopsOf t v).filter (fun ld => ld.1 / 16 == g)

/-- The epoch that drive frame n carries: that in force at t(n + 1) (R145). -/
def Dev.frameEpoch (s : Dev) (n : Nat) : Nat :=
  if s.on F.GL_STAT_ACT_PEND && decide (s.rd2 R.GL_ACT_LO ≤ n + 1) then (s.rd F.GL_STAT_EPOCH + 1) % 256
  else s.rd F.GL_STAT_EPOCH

/-- A segment's bytes with its CRC over the prefix (SEQ, EPOCH, j) (R66). -/
def Dev.closeSeg (s : Dev) (n j : Nat) (body : List Byte) : List Byte :=
  body ++ toBe 4 (crc32c (toBe 2 (n % 65536) ++ [BitVec.ofNat 8 (s.frameEpoch n), BitVec.ofNat 8 j] ++ body))

/-- SOF_D content of engine e for vat v (Table 3.7); XF as TW sets it for the frame. -/
def Dev.sofD (s : Dev) (e : Eng) (n v ndrv : Nat) : List Byte :=
  let pb := !(s.vatPress (n + 2) v).isEmpty
  let prs := !(s.vatPress (n + 1) v).isEmpty
  let xf := bit (s.rd2 R.TW_XF_LO) v
  let fl := (if pb then 128 else 0) + (if prs then 64 else 0) + (if e = .leb then 32 else 0) + (if xf then 16 else 0)
  toBe 2 (n % 65536) ++ [BitVec.ofNat 8 (s.frameEpoch n)] ++ toBe 5 (n40 (1000 * (n + 1))) ++ [BitVec.ofNat 8 fl] ++
    toBe 2 ndrv

def Dev.putSeg (s : Dev) (e : Eng) (v k : Nat) (l : List Byte) : Dev :=
  s.modEng e (fun g => { g with segs := g.segs.set (segKey v k) l })

/-- The 64 bytes of MASK (Table 3.8): byte q, bit 7 - r for channel 8q + r. -/
def maskBytes (chs : List Nat) : List Byte :=
  (List.range 64).map (fun q => BitVec.ofNat 8 ((List.range 8).foldl (fun a r => a + (if chs.contains (8 * q + r) then 2 ^ (7 - r) else 0)) 0))

/-- PHEAD (Table 3.8). -/
def Dev.phead (e : Eng) (n v : Nat) (s : Dev) : Dev :=
  let cs := s.vatPress (n + 2) v
  if cs.isEmpty then s
  else
    let body := toBe 5 (n40 (1000 * (n + 2))) ++ toBe 2 cs.length ++ [0] ++ maskBytes (cs.map (·.2.1.drv.toNat))
    s.putSeg e v 1 (s.closeSeg n 0 body)

/-- PSEG q (R67): up to 64 press values in ascending channel order. -/
def Dev.pseg (e : Eng) (n v q : Nat) (s : Dev) : Dev :=
  let cs := ((s.vatPress (n + 2) v).drop (64 * q)).take 64
  if cs.isEmpty then s
  else
    let body := cs.flatMap (fun c => toBe 2 ((s.eng e).loops.get (loopKey v c.1)).pv.toNat)
    s.putSeg e v (2 + q) (s.closeSeg n (1 + q) body)

/-- Body index of the first regular segment (R66). -/
def Dev.firstReg (s : Dev) (n v : Nat) : Nat :=
  let p := (s.vatPress (n + 2) v).length
  if p = 0 then 0 else 1 + (p + 63) / 64

/-- The word and stale bit of channel c of vat v. -/
def Dev.chWord (s : Dev) (e : Eng) (n v c : Nat) : DWord :=
  if (loopsOf s.descs v).any (fun ld => ld.2.drv.toNat == c) then (s.eng e).words.get (chKey v c)
  else { word := s.auxWord v c n }

/-- DSEG q (R67): words, stale bytes, CRC; the last one also closes the frame with its TERM. -/
def Dev.dseg (e : Eng) (n v q ndrv : Nat) (s : Dev) : Dev :=
  let w := min 64 (ndrv - 64 * q)
  let ws := (List.range w).map (fun i => s.chWord e n v (64 * q + i))
  let stale := (List.range ((w + 7) / 8)).map (fun b => BitVec.ofNat 8
    ((List.range 8).foldl (fun a r => a + (if (ws.getD (8 * b + r) {}).stale then 2 ^ (7 - r) else 0)) 0))
  let j := s.firstReg n v + q
  let s := s.putSeg e v (1 + j) (s.closeSeg n j (ws.flatMap (fun x => toBe 2 x.word.toNat) ++ stale))
  if 64 * (q + 1) < ndrv then s
  else
    let len := (((s.eng e).segs.filter (fun kv => kv.1 / 32 == v && kv.1 % 32 != 0)).map (fun kv => kv.2.length)).foldl (· + ·) 0
    s.putSeg e v 31 [BitVec.ofNat 8 (0xE0 + len % 16)]

/-- The flag summaries of a vat at a frame's close, and their notes by the active engine (R101, R127). -/
def Dev.flagSums (e : Eng) (v : Nat) (s : Dev) : Dev :=
  let ls := (loopsOf s.descs v).map (fun ld => (s.eng e).loops.get (loopKey v ld.1))
  let a := flagSum (ls.map (·.aflags))
  let l := flagSum (ls.map (·.lflags))
  let base := if e = .lea then 0 else R.LEB_AFSUM 0 - R.LEA_AFSUM 0
  let wa := BitVec.ofNat 32 (a.1 + 256 * a.2)
  let wl := BitVec.ofNat 32 (l.1 + 256 * l.2)
  let s := (s.setReg (R.LEA_AFSUM v + base) wa).setReg (R.LEA_LFSUM v + base) wl
  let act := e == s.active
  let g := s.eng e
  let na := a.1 % 32 != 0
  let nl := (l.1 &&& 0x47) != 0
  let s := Dev.when (act && na && !g.aNote.contains v) (·.raise (256 * engBlock e + 1) 0 (srcWord (engBlock e) v) wa.toNat) s
  let s := Dev.when (act && nl && !g.lNote.contains v) (·.raise (256 * engBlock e + 2) 0 (srcWord (engBlock e) v) wl.toNat) s
  let upd (on : Bool) (x : List Nat) : List Nat := if on then (if x.contains v then x else v :: x) else x.filter (· != v)
  s.modEng e (fun g => { g with aNote := upd na g.aNote, lNote := upd nl g.lNote })

/-- A captured item (R227): its 16 bits and whether it is fresh. ELAST and UHOLD, which a loop keeps over a stale sample, count as
fresh (DEDUCED, log 103). -/
def Dev.capItem (s : Dev) (e : Eng) (n v : Nat) (it : Nat × Nat) : Nat × Bool × Int :=
  let u (x : BitVec 16) (ok : Bool) : Nat × Bool × Int := (x.toNat, ok, x.toInt)
  let st := (s.eng e).loops.get (loopKey v it.2)
  let t := s.tapIn v it.2 n
  match it.1 with
  | 1 => (match t.code with
    | some x => (x.toNat, true, x.toNat)
    | none => (0, false, 0))
  | 2 => (match t.code with
    | some x => ((t.fix x).1, true, (t.fix x).1)
    | none => (0, false, 0))
  | 3 => u (s.chWord e n v it.2).word (!(s.chWord e n v it.2).stale)
  | 4 => u st.elast true
  | 5 => u st.uhold true
  | _ =>
    let f := (s.eng e).front.get (loopKey v it.2)
    (uns 16 f.r, f.cond == .normal, f.r)

/-- The payload of a capture or step record (Table 9.5). -/
def capPayload (n : Nat) (items : List Nat) (valid epoch flags : Nat) : List Byte :=
  toLe 8 n ++ fit 32 (items.flatMap (toLe 2)) ++ toLe 2 valid ++ [BitVec.ofNat 8 epoch, BitVec.ofNat 8 flags, 0, 0, 0, 0]

/-- FLAGS[2:0] of a capture record for vat v in F(n). -/
def Dev.capFlags (s : Dev) (n v : Nat) : Nat :=
  (if (s.vatPress n v).isEmpty then 0 else 1) +
  (match (s.vat v).sof with
   | some b => if b.held then 2 else 0
   | none => 0) +
  (if (s.cal.inj.filterMap (·.2)).any (fun j => j.vat == v && (j.val n).isSome) then 4 else 0)

/-- EPOCH of sense frame n of vat v. -/
def Dev.senseEpoch (s : Dev) (v : Nat) : Nat := match (s.vat v).sof with
  | some b => b.epoch.toNat
  | none => 0

/-- One capture takes sample n of its vat (R227). -/
def Dev.capture1 (e : Eng) (n v : Nat) (s : Dev) (c : Cap) : Cap × List Trec :=
  if c.vat = v ∧ c.start ≤ n ∧ n < c.start + c.ns then
    let xs := c.items.map (s.capItem e n v)
    let valid := maskOf ((List.range xs.length).filter (fun q => (xs.getD q (0, false, 0)).2.1))
    let pl := capPayload n (xs.map (·.1)) valid (s.senseEpoch v) (s.capFlags n v)
    let st := (List.range xs.length).map (fun q =>
      let x := xs.getD q (0, false, 0)
      let a := c.stats.getD q (0, 0, 0, 0)
      if x.2.1 then
        (if a.2.2.2 = 0 then (x.2.2, x.2.2, x.2.2, 1)
         else (min a.1 x.2.2, max a.2.1 x.2.2, a.2.2.1 + x.2.2, a.2.2.2 + 1))
      else a)
    ({ c with stats := st, done := c.done + 1 },
     [{ ring := some c.ring, cap := some c.id, ty := 1, lebEng := e == .leb, blk := engBlock e, vat := v, payload := pl }])
  else (c, [])

/-- Every capture takes its sample. -/
def Dev.captures (e : Eng) (n v : Nat) (s : Dev) : Dev :=
  let r := s.cal.caps.map (s.capture1 e n v)
  Dev.each (r.flatMap (·.2)) (fun s t => s.trace t) { s with cal := { s.cal with caps := r.map (·.1) } }

/-- A sweep sums the corrected codes of its cells, and its step's last frame emits the record (R223). -/
def Dev.sweep1 (e : Eng) (n v : Nat) (s : Dev) (t : Stint) : Dev :=
  let q := (t.fr - 1) % t.dwell
  let i := t.stepNo
  if t.span < i then s
  else
    let fs := t.cells.map (fun l => (s.eng e).front.get (loopKey v l))
    let good := fs.filter (fun f => f.cond != .stale)
    let add (l : List Int) : Int := l.foldl (· + ·) 0
    let z := if q = 0 then { t with sumB := 0, sumX := 0, cnt := 0, staleCnt := 0 } else t
    let z := if q < 4 then z else
      { z with sumB := z.sumB + add (good.map (·.cb)), sumX := z.sumX + add (good.map (·.cx)),
               cnt := z.cnt + good.length, staleCnt := z.staleCnt + (fs.length - good.length) }
    let last := q + 1 == t.dwell
    let mean (x : Int) : Nat := if z.cnt = 0 then 0 else min 65535 (divRne (16 * x) z.cnt).toNat
    let pl := capPayload n [uns 16 (t.start.toInt + i * t.step.toInt), mean z.sumB, mean z.sumX, min 65535 z.staleCnt]
      (if z.cnt = 0 then 9 else 15) (s.senseEpoch v) (8 + s.capFlags n v)
    let z := if last then { z with stepsOut := z.stepsOut + 1 } else z
    let s := { s with cal := { s.cal with stints := s.cal.stints.map (fun (y : Stint) => if y = t then z else y) } }
    if last then s.trace { ring := some t.ring, ty := 2, lebEng := e == .leb, blk := engBlock e, vat := v, payload := pl } else s

/-- Every sweep of vat v whose cells hold a staircase word in F(n). -/
def Dev.sweeps (e : Eng) (n v : Nat) (s : Dev) : Dev :=
  Dev.each (s.cal.stints.filter (fun t => t.vat == v && t.sweep && decide (0 < t.fr) && t.frAt == n && t.turned (n + 1))) (Dev.sweep1 e n v) s

/-- The press check of a vat in F(m + 1) (R146), by the active engine: missing cells, the lowest IDX first. -/
def Dev.pressCheck (e : Eng) (n v : Nat) (s : Dev) : Dev :=
  let cs := (s.vatPress (n - 1) v).filter (fun c => (s.stintOf v c.1 n).isNone)
  let miss := cs.filter (fun c =>
    let f := (s.eng e).front.get (loopKey v c.1)
    f.cond == .normal && decide (sgn 16 (s.rd F.GL_PCHK_TH) < f.r))
  if n = 0 ∨ miss.isEmpty then s
  else
    let lo := miss.foldl (fun a c => min a c.2.1.idx.toNat) 0xFFFF
    let p := match s.gl.pchk with
      | some (m, k, low, lv) => if m = n - 1 then (if lo < low then (m, k + miss.length, lo, v) else (m, k + miss.length, low, lv))
        else (n - 1, miss.length, lo, v)
      | none => (n - 1, miss.length, lo, v)
    { s with gl := { s.gl with pchk := some p } }

/-- VCLOSE (Table 8.8): the active engine's taps of the loop data go to capture, sweep and press check. The summaries are
updated at the frame's close (04 R101). -/
def Dev.vclose (e : Eng) (n v : Nat) (s : Dev) : Dev :=
  if e = s.active then ((s.captures e n v).sweeps e n v).pressCheck e n v else s

/-- CRC of the loop state audited in frame n (R244). -/
def Dev.auditCrc (s : Dev) (e : Eng) (v n : Nat) : Nat := crc32c (stateBytes ((s.eng e).loops.get (loopKey v (n % 256))))

/-- One instruction of vat ve's program in engine e. VOPEN, GPRE and GOFFL did their work at the opening. -/
def Dev.issue (e : Eng) (n : Nat) (ve : VatEntry) (s : Dev) (i : PInst) : Dev :=
  let v := ve.vat
  match i.opc with
  | 0x04 => Dev.each (gangLoops s.descs v i.arg) (fun s ld => s.front1 e n v ld) s
  | 0x05 => Dev.each (gangLoops s.descs v i.arg) (fun s ld => s.front1 e n v ld) s
  | 0x06 => Dev.each (gangLoops s.descs v i.arg) (fun s ld => s.upd1 e n v ld) s
  | 0x07 => s.phead e n v
  | 0x08 => s.pseg e n v i.arg
  | 0x09 => s.dseg e n v i.arg ve.ndrv
  | 0x0A => s.vclose e n v
  | _ => s

/-- Issue slots that F(n) leaves idle in a vat's program (Table 15.2): press work outside a press frame is idle (R195). -/
def Dev.idleSlots (s : Dev) (g : Prog) (n v : Nat) : Nat :=
  let press := !(s.vatPress (n + 2) v).isEmpty
  let used := (g.ins.filter (fun i => i.opc != 0 && (press || (i.opc != 7 && i.opc != 8)))).map opCost
  g.allSlots (s.rd F.PM_STAT_OP) - used.foldl (· + ·) 0

/-- The program of vat v in the frame. -/
def Dev.prog (s : Dev) (v : Nat) : Prog := ((s.framePlan.map (·.progs.get v)).getD {})

/-- Instructions up to the k-th that stand in phases opened (R195). -/
def Dev.openTo (s : Dev) (e : Eng) (v k : Nat) : Nat :=
  min k (((s.prog v).ins.takeWhile (fun i => decide (i.phase ≤ (s.eng e).ph.get v))).length)

/-- Engine e issues vat ve's program up to its k-th instruction, as far as its phases are open: in slot order, each instruction
once. -/
def Dev.issueTo (k : Nat) (ve : VatEntry) (s : Dev) (e : Eng) : Dev :=
  if !s.unitRuns e ve.vat then s
  else
    let p := (s.eng e).pos.get ve.vat
    let q := s.openTo e ve.vat k
    let s := Dev.each (((s.prog ve.vat).ins.drop p).take (q - p)) (fun s i => s.issue e s.le.frame ve i) s
    s.modEng e (fun g => { g with pos := g.pos.set ve.vat (max p q) })

/-- The two engines run one program in the same slots: what one has issued, the other has. -/
def Dev.issueBoth (k : Nat) (s : Dev) (ve : VatEntry) : Dev := Dev.each [Eng.lea, .leb] (Dev.issueTo k ve) s

/-- A front operation, which waits for tap codes. -/
def PInst.isFront (i : PInst) : Bool := i.opc == 4 || i.opc == 5

/-- Work from an opening on that needs no tap code (R14): up to the first front operation from instruction p on. -/
def Prog.noTaps (g : Prog) (p : Nat) : Nat := p + ((g.ins.drop p).takeWhile (fun i => !i.isFront)).length

/-- The instruction hands over body segment j or, with none, the TERM block (Table 8.8): in a press frame the head and the press
segments come before the regular ones. -/
def PInst.hands (firstReg ndrv : Nat) (j : Option Nat) (i : PInst) : Bool := match j with
  | some j => if j < firstReg then (i.opc == 7 && j == 0) || (i.opc == 8 && i.arg + 1 == j) else i.opc == 9 && i.arg + firstReg == j
  | none => i.opc == 9 && decide (ndrv ≤ 64 * (i.arg + 1))

/-- Both engines have issued what hands over part k of vat ve's frame: 0 SOF_D, 31 TERM, else body segment k - 1. -/
def Dev.issueFor (ve : VatEntry) (k : Nat) (s : Dev) : Dev :=
  if k = 0 then s
  else
    let fr := s.firstReg s.le.frame ve.vat
    let i := ((s.prog ve.vat).ins.takeWhile (fun i => !i.hands fr ve.ndrv (if k = 31 then none else some (k - 1)))).length
    s.issueBoth (i + 1) ve

/-- The phase strobe of phase p of vat ve in one engine: the phase before issues its last operation, and p opens. -/
def Dev.phaseIn (p : Nat) (ve : VatEntry) (s : Dev) (e : Eng) : Dev :=
  let s := Dev.issueTo (s.prog ve.vat).ins.length ve s e
  let s := s.modEng e (fun g => { g with ph := g.ph.set ve.vat p })
  Dev.issueTo ((s.prog ve.vat).noTaps ((s.eng e).pos.get ve.vat)) ve s e

/-- The engine has opened every phase of vat v's program, so its VCLOSE ends with the frame (R209). -/
def Dev.allPhases (s : Dev) (v : Nat) (e : Eng) : Bool :=
  s.unitRuns e v && decide ((s.prog v).phases.length ≤ (s.eng e).ph.get v + 1)

/-- A vat's programs run to their end, with the slots they leave idle. -/
def Dev.finishVat (s : Dev) (ve : VatEntry) : Dev :=
  Dev.each [Eng.lea, .leb] (fun s e =>
    let s := Dev.issueTo (s.prog ve.vat).ins.length ve s e
    if s.allPhases ve.vat e then
      s.pcFrame (256 * engBlock e + 5) (s.idleSlots (s.prog ve.vat) s.le.frame ve.vat) (some ve.vat)
    else s) s

/-- The part handed over after c parts of a frame with a number of body segments: SOF_D, the body, TERM. -/
def nextPart (bodies c : Nat) : Nat := if c = 0 then 0 else if c ≤ bodies then c else 31

/-- Body segments of vat ve's frame. -/
def Dev.bodies (s : Dev) (ve : VatEntry) : Nat := s.firstReg s.le.frame ve.vat + (ve.ndrv + 63) / 64

end Sys2Proof.Machine
end

