-- ==== Sys2Proof/Machine/Vl.lean ====
section
/-!
DEFINITION. The vat links of 03_vat_links.md: lane training (R61 to R63), acceptance of sense frames (R65, R16), delay
exchanges (R74), release (R77) and the lane and vat faults of Table 3.14 (R82).
-/
namespace Sys2Proof.Machine

/-! ### Agreement (09 R214) and what a LANE run sets (R215) -/

/-- The agreed value of three measurements, or none. -/
def agreed (tol : Nat) (m : Meas) : Option Int :=
  if (m.m1 - m.m2).natAbs ≤ tol then some (rne (m.m1 + m.m2) 1)
  else if (m.m2 - m.m3).natAbs ≤ tol then some (rne (m.m2 + m.m3) 1)
  else if (m.m1 - m.m3).natAbs ≤ tol then some (rne (m.m1 + m.m3) 1)
  else none

/-- The agreed values; the code AGREE with the first disagreement; none while a quantity is not measured. -/
def agreeAll : List Nat → List Meas → Option (Option (List Int))
  | [], _ => some (some [])
  | _ :: _, [] => none
  | t :: ts, m :: ms =>
    match agreed t m with
    | none => some none
    | some v => (agreeAll ts ms).map (fun r => r.map (v :: ·))

/-- Tolerances of a LANE run: five thresholds, then the sampling delay (Table 9.1). -/
def laneTols : List Nat := [2, 2, 2, 2, 2, 1]

/-- Thresholds from -31 to 31 and a delay from 0 to 63 (R215). -/
def laneOk (vs : List Int) : Bool :=
  (List.range 5).all (fun i => decide ((vs.getD i 0).natAbs ≤ 31)) && decide (0 ≤ vs.getD 5 0) && decide (vs.getD 5 0 ≤ 63)

/-- The receiver takes the values of a LANE run. -/
def Dev.setRx (s : Dev) (l : Nat) (vs : List Int) : Dev :=
  let u (i : Nat) : Nat := uns 6 (vs.getD i 0)
  let s := (s.wr (F.CAL_LRX0_RXDLY l) (u 5)).wr (F.CAL_LRX0_THM l) (u 0)
  (((s.wr (F.CAL_LRX1_TH1 l) (u 1)).wr (F.CAL_LRX1_TH2 l) (u 2)).wr (F.CAL_LRX1_TH3 l) (u 3)).wr (F.CAL_LRX1_TH4 l) (u 4)

/-! ### Lane states (Table 3.3) -/

/-- SOURCE of a lane: VL.v.LK.A or .B. -/
def laneSrc (l : Nat) : BitVec 28 := srcWord 6 (l / 2) 2 (l % 2)

/-- A lane goes to a state; VL_LANE_UP shows which lanes are ACTIVE. -/
def Dev.setLane (s : Dev) (l st : Nat) : Dev :=
  let s := s.wr (F.VL_LSTAT_STATE l) st
  let o := R.VL_LANE_UP0 + 4 * (l / 32)
  let w := (s.reg o).toNat
  s.setReg o (BitVec.ofNat 32 (if st = 6 then setBit w (l % 32) else clrBit w (l % 32)))

/-- The vat is regarded as held at once; its loops go to RESTART at the next opening (log 38). -/
def Dev.regardHeld (s : Dev) (v : Nat) : Dev :=
  (s.modVat v (fun x => { x with relEff := none, holdEff := some 0 })).setHeld v true

/-- The run of consecutive accepted sense frames of a vat breaks (R77). -/
def Dev.accZero (s : Dev) (v : Nat) : Dev := s.modVat v (fun x => { x with acc := 0 })

/-- No lane of the vat is ACTIVE any more: VAT_LOST (Table 3.14). -/
def Dev.vatLost (s : Dev) (v : Nat) : Dev := (((s.raise 0x0612 2 (srcWord 6 v)).regardHeld v).accZero v).glSync

/-- A lane leaves service for a state; when it was the vat's last ACTIVE lane, the vat is lost. What a training collects
starts over. -/
def Dev.laneLeave (s : Dev) (l st : Nat) : Dev :=
  let was := s.vatActive (l / 2)
  let s := (s.setLane l st).modLane l (fun x => { x with
    trnGood := 0, exch := [], nDelay := 0, dreq := none,
    locked := false, doubt := none, seqRej := 0, fails := [], toffBad := 0, dreqAt := none, runLost := false })
  let s := Dev.when (st == 1) (·.count (F.VL_RETRAIN l)) s
  Dev.when (was && !s.vatActive (l / 2)) (·.vatLost (l / 2)) s

/-- A lane fault of Table 3.14: CAUSE, its S1 line, and the state it sends the lane to. -/
def Dev.laneFault (s : Dev) (l cause st : Nat) : Dev :=
  ((s.wr (F.VL_LSTAT_CAUSE l) cause).raise (0x0600 + cause) 1 (laneSrc l) cause).laneLeave l st

/-- A TSDLY run keeps the lane in OFF (09 R216). -/
def Dev.laneInCal (s : Dev) (l : Nat) : Bool := s.cal.runs.any (fun r => r.kind == 2 && r.target == l && !r.ended)

/-- The lane may train: enabled, the boot gate open (R362), and no TSDLY run on it. -/
def Dev.mayTrain (s : Dev) (l : Nat) : Bool := s.vl.gate && s.on (F.VL_LCFG_EN l) && !s.laneInCal l

/-- The lane goes to DETECT. -/
def Dev.toDetect (s : Dev) (l : Nat) : Dev := if s.mayTrain l then s.laneLeave l 1 else s

/-- What a write of VL_LCFG does once its fields are in (R83, Table 3.3, Table 3.14): old EN, new word. -/
def Dev.lcfgWritten (s : Dev) (l : Nat) (wasEn retrain : Bool) : Dev :=
  let en := s.on (F.VL_LCFG_EN l)
  if wasEn && !en then (s.wr (F.VL_LSTAT_CAUSE l) 12).laneLeave l 0
  else if en && retrain then s.toDetect l
  else if !wasEn && en && s.on F.VL_CFG_AUTO_TRAIN then s.toDetect l
  else s

/-- Every enabled lane in OFF trains: AUTO_TRAIN set, or the boot gate opened (R362, R363). -/
def Dev.trainAll (s : Dev) : Dev :=
  Dev.each (List.range 128) (fun s l => if s.rd (F.VL_LSTAT_STATE l) = 0 && s.on F.VL_CFG_AUTO_TRAIN then s.toDetect l else s) s

/-- Send TRN with the lane's present step, nonces and vat (Table 3.4). -/
def Dev.sendTrn (s : Dev) (l : Nat) : Dev :=
  let x := s.lane l
  s.send (.trn l (BitVec.ofNat 8 (s.rd (F.VL_LSTAT_STATE l))) x.nonceTx x.nonceRx (l / 2))

/-! ### Training -/

def Dev.setLegs (s : Dev) (l : Nat) (openP openN short : Bool) : Dev :=
  ((s.wrB (F.VL_LSTAT_OPEN_P l) openP).wrB (F.VL_LSTAT_OPEN_N l) openN).wrB (F.VL_LSTAT_SHORT l) short

/-- DETECT ends (R56, R57, Table 3.3): a new nonce at the entry to LOCK. -/
def Dev.detectDone (l : Nat) (openP openN short : Bool) (s : Dev) : Dev :=
  if s.rd (F.VL_LSTAT_STATE l) ≠ 1 then s
  else
    let s := s.setLegs l openP openN short
    if openP || openN then s.laneFault l 1 8
    else if short then s.laneFault l 2 8
    else
      let nonce := s.free.setWidth 16
      let slew := BitVec.ofNat 2 (s.rd (F.VL_LCFG_SLEW l))
      let s := s.useFree.modLane l (fun x => { x with nonceTx := nonce, trnGood := 0, locked := false, slew := slew })
      (s.setLane l 2).sendTrn l

/-- An open or a short found in service (R57, R366). -/
def Dev.openShort (l : Nat) (openP openN short : Bool) (s : Dev) : Dev :=
  let st := s.rd (F.VL_LSTAT_STATE l)
  let s := s.setLegs l openP openN short
  if st = 0 ∨ st = 7 ∨ st = 8 then s
  else if openP || openN then s.laneFault l 1 8
  else if short then s.laneFault l 2 8
  else s

/-- Block lock (R61); inside LOCK the training's LANE run ends with it (R215): results that do not agree keep the values. -/
def Dev.blockLock (l : Nat) (ms : List Meas) (s : Dev) : Dev :=
  let st := s.rd (F.VL_LSTAT_STATE l)
  if st < 2 ∨ 6 < st then s
  else
    let s := s.modLane l (fun x => { x with locked := true, runLost := false })
    if st ≠ 2 then s
    else
      match agreeAll laneTols ms with
      | some (some vs) => if laneOk vs then s.setRx l vs else s
      | _ => s.raise 0x0F01 0 (srcWord 15) l

/-- Loss of block lock (R61): in ACTIVE it is LOCK_LOST (Table 3.14). A lane under a LANE run has until 64 blocks after the
run's end to regain it; LOCK_LOST then comes again (R215). -/
def Dev.lockLost (l : Nat) (s : Dev) : Dev :=
  let st := s.rd (F.VL_LSTAT_STATE l)
  if st = 6 then
    if (s.lane l).calHold then
      Dev.when (!(s.lane l).runLost) (·.count (F.VL_LOCK_LOSS l)) (s.modLane l (fun x => { x with locked := false, runLost := true }))
    else (Dev.when (!(s.lane l).runLost) (·.count (F.VL_LOCK_LOSS l)) s).laneFault l 8 1
  else s.modLane l (fun x => { x with locked := false, trnGood := 0 })

/-- A step's timeout (R61, Table 3.14). -/
def Dev.trainTimeout (l : Nat) (s : Dev) : Dev :=
  match s.rd (F.VL_LSTAT_STATE l) with
  | 2 => s.laneFault l 3 8
  | 3 => s.laneFault l 4 8
  | 4 => s.laneFault l 6 8
  | 5 => s.laneFault l 7 8
  | _ => s

/-- A failed segment or control block of the lane (Table 3.14 BER). -/
def Dev.crcFail (s : Dev) (l : Nat) : Dev :=
  let s := (s.count (F.VL_CRC_ERR l)).modLane l (fun x =>
    { x with fails := (x.fails.filter (fun n => decide (s.now < n + 1024))) ++ [s.now] })
  if s.laneActive l && decide (64 < (s.lane l).fails.length) then s.laneFault l 9 1 else s

/-- A block with an invalid sync header (R58): discarded and counted, and a sense frame open on the lane is void there. -/
def Dev.blkBad (s : Dev) (l : Nat) : Dev :=
  let s := (s.count (F.VL_BLK_ERR l)).modLane l (fun x => { x with trnGood := 0 })
  s.modVat (l / 2) (fun x => { x with copies := x.copies.filter (· != (l % 2 == 1)) })

/-- The lane's receiver takes blocks. -/
def Dev.receives (s : Dev) (l : Nat) : Bool := decide (2 ≤ s.rd (F.VL_LSTAT_STATE l)) && decide (s.rd (F.VL_LSTAT_STATE l) ≤ 6)

/-- The identity that binds vat v (R63): the plan topology's under STRICT_ID, else the first one reported. -/
def Dev.boundId (s : Dev) (v : Nat) : Option (BitVec 40) :=
  match (if s.on F.VL_CFG_STRICT_ID then s.plan.bind (fun p => p.vats.find? (fun e => e.vat == v && e.eicid != 0)) else none) with
  | some e => some e.eicid
  | none => (s.vat v).eicId

/-- The lane leaves IDENT (R63): port, wiring, identity. -/
def Dev.identDone (l : Nat) (t : Trn) (s : Dev) : Dev :=
  let v := l / 2
  let o := 2 * v + (1 - l % 2)
  let split := t.nonceEcho == (s.lane o).nonceTx && t.nonceEcho != (s.lane l).nonceTx
  let swapped := t.endp != (l % 2 == 1)
  let s := ((s.wrB (F.VL_LSTAT_EIC_PORT l) t.endp).wr (F.VL_EIC_ID_LO l) t.id.toNat).wr (F.VL_EIC_ID_HI l) (t.id.toNat / 2 ^ 32)
  let s := if split then (s.wrB (F.VL_LSTAT_SPLIT l) true).wrB (F.VL_LSTAT_SPLIT o) true else s.wrB (F.VL_LSTAT_SPLIT l) false
  let s := Dev.when (swapped || split) (fun s => s.raise 0x0611 0 (laneSrc l) (s.reg (R.VL_LSTAT l)).toNat) s
  if (s.boundId v).getD t.id = t.id then
    ((s.modVat v (fun x => { x with eicId := x.eicId.or (some t.id) })).setLane l 4).sendTrn l
  else s.laneFault l 5 8

/-- A TRN block (R58, R61 to R63). -/
def Dev.trnIn (l : Nat) (t : Trn) (s : Dev) : Dev :=
  let st := s.rd (F.VL_LSTAT_STATE l)
  if st < 2 ∨ 6 < st then s
  else if !t.hdrOk then s.blkBad l
  else if !(s.lane l).locked then s
  else if !t.crcOk && !(st == 2 && t.crcInv) then (s.modLane l (fun x => { x with trnGood := 0 })).crcFail l
  else
    let s := if t.crcOk then s else
      (s.wrB (F.VL_LSTAT_RX_INV l) (!s.on (F.VL_LSTAT_RX_INV l))).raise 0x0610 0 (laneSrc l)
    let s := s.modLane l (fun x => { x with nonceRx := t.nonceTx, trnGood := min 8 (x.trnGood + 1) })
    match st with
    | 2 => if 8 ≤ (s.lane l).trnGood then (s.setLane l 3).sendTrn l else s.sendTrn l
    | 3 =>
      let o := 2 * (l / 2) + (1 - l % 2)
      let echo := t.nonceEcho == (s.lane l).nonceTx || (t.nonceEcho == (s.lane o).nonceTx && t.nonceEcho != 0)
      if t.fromEic && t.id != 0 && echo && decide (3 ≤ t.tstate.toNat) then s.identDone l t else s.sendTrn l
    | 5 =>
      let s := s.wrB (F.VL_LSTAT_TLOCK l) t.tlock
      if t.tlock then s.setLane l 6 else s
    | _ => s.wrB (F.VL_LSTAT_TLOCK l) t.tlock

/-! ### Sense frames (R65, R16) -/

/-- The vat's entry in the plan whose bank the frame uses. -/
def Dev.vatEntry (s : Dev) (v : Nat) : Option VatEntry :=
  match s.framePlan, s.plan with
  | some p, _ => p.vats.find? (·.vat == v)
  | none, some p => p.vats.find? (·.vat == v)
  | none, none => none

/-- An epoch live in the loop path (R27): the one in force, the frame's, and the old one until it is retired. -/
def Dev.liveEpoch (s : Dev) (e : Byte) : Bool :=
  let g := s.rd F.GL_STAT_EPOCH
  e.toNat == g || e == s.le.epoch || (s.gl.retireAt.isSome && (e.toNat + 1) % 256 == g)

/-- STAMP lies within 2 ns of t(n) (R65), modulo 2^40 ns. -/
def stampOk (stamp n : Nat) : Bool :=
  let d := (stamp + 2 + 2 ^ 40 - n40 (1000 * n)) % 2 ^ 40
  decide (d ≤ 4)

/-- A copy is rejected (R65); 16 in a row send the lane to DETECT (Table 3.14 SEQ). -/
def Dev.sofReject (s : Dev) (l : Nat) : Dev :=
  let s := (s.count (F.VL_SEQ_ERR l)).modLane l (fun x => { x with seqRej := x.seqRej + 1, doubt := none })
  if 16 ≤ (s.lane l).seqRej then s.laneFault l 10 1 else s

/-- NO_PRESS on a vat (R25, R308). -/
def Dev.noPress (s : Dev) (v k : Nat) : Dev := s.raiseCond R.FC_NOPRESS_LO 0x0614 v (k % 2 ^ 32)

/-- The press check of R25 and R72 on the first accepted SOF_S of sense frame m + 1. -/
def Dev.paCheck (s : Dev) (v : Nat) (pa : Bool) : Dev :=
  match (s.vat v).checkPa with
  | some k =>
    let s := s.modVat v (fun x => { x with checkPa := none })
    if pa then s else s.noPress v k
  | none => s

/-- HELD in 16 consecutive sense frames with no HOLD in force and frames delivered: EIC_NOT_APPLYING (Table 3.14). -/
def Dev.heldRun (s : Dev) (v n : Nat) (held : Bool) : Dev :=
  let x := s.vat v
  let prev := if s.inP2 then n - 16 else n - 1
  if held && !s.held v && x.holds == 0 && x.lostFrame != some prev then
    let s := s.modVat v (fun x => { x with heldRun := x.heldRun + 1 })
    if x.heldRun + 1 < 16 then s
    else ((s.modVat v (fun x => { x with heldRun := 0 })).regardHeld v).raiseCond R.FC_EICNA_LO 0x0615 v 0
  else s.modVat v (fun x => { x with heldRun := 0 })

/-- FC_EICNA clears with the first accepted sense frame after the RELEASE took effect that reports HELD = 0 (R308). -/
def Dev.eicnaClear (s : Dev) (v : Nat) (held : Bool) : Dev :=
  if (s.vat v).relDone then
    let s := s.modVat v (fun x => { x with relDone := false })
    if held then s else (s.wr2 R.FC_EICNA_LO (clrBit (s.rd2 R.FC_EICNA_LO) v)).glSync
  else s

/-- The first accepted copy of the vat's sense frame n. -/
def Dev.sofFirst (s : Dev) (v n : Nat) (b : SofS) : Dev :=
  let rise := b.eflt && !(s.vat v).eflt
  let s := s.modVat v (fun x => { x with sof := some b, sofN := n, acc := min 0xFFFF (x.acc + 1), eflt := b.eflt,
                                         efltPend := rise, copies := [], segs := [], status := none })
  ((s.paCheck v b.pa).heldRun v n b.held).eicnaClear v b.held

/-- A copy is accepted: its segments may be used (R65). -/
def Dev.sofAccept (s : Dev) (l n : Nat) (b : SofS) : Dev :=
  let v := l / 2
  let s := s.modLane l (fun x => { x with seqRej := 0, doubt := none })
  let s := s.pcFrame 0x0601 1 (some v)
  let x := s.vat v
  let s := if x.sofN = n ∧ x.sof.isSome then s else s.sofFirst v n b
  s.modVat v (fun x => { x with copies := x.copies ++ [l % 2 == 1] })

/-- A SOF_S block on an ACTIVE lane (R58, R65, R364). The EPOCH of a held vat reads as that of the plan in force; when EPOCH
alone fails, the copy waits for its status word, which holds NEVER. -/
def Dev.sofS (l : Nat) (b : SofS) (s : Dev) : Dev :=
  let v := l / 2
  let s := if (s.lane l).doubt.isSome then s.sofReject l else s
  if !s.laneActive l then s
  else if !b.hdrOk then s.blkBad l
  else if (s.lane l).calHold then s
  else if !b.crcOk then
    match s.vatEntry v with
    | some _ =>
      let s := s.crcFail l
      if s.laneActive l then s.sofReject l else s
    | none => s.crcFail l
  else
    let s := s.wrB (F.VL_LSTAT_TLOCK l) b.tlock
    match s.vatEntry v with
    | none => s
    | some e =>
      let n := s.now
      if b.seq.toNat == n % 65536 && stampOk b.stamp.toNat n && b.ntap.toNat == e.ntap then
        if s.held v then s.sofAccept l n { b with epoch := s.le.epoch }
        else if s.liveEpoch b.epoch then s.sofAccept l n b
        else s.modLane l (fun x => { x with doubt := some b })
      else s.sofReject l

/-- ASEQ of an accepted sense frame: UAPP of every loop whose frame it names (R124). -/
def aseqApp (v : Nat) (aseq : BitVec 16) (g : EngSt) : EngSt :=
  (g.recs.filter (fun kr => kr.1 / 256 == v)).foldl (fun g kr =>
    match kr.2.find? (fun nu => nu.1 % 65536 == aseq.toNat) with
    | some nu => { g with loops := g.loops.mod kr.1 (fun x => { x with uapp := nu.2 }), useq := g.useq.set kr.1 (some aseq) }
    | none => g) g

/-- The status word of the vat's sense frame (Table 3.6, R65); with NEVER its EPOCH reads as that of the plan in force (R364).
VL_EIC_CERR of both lanes of the vat takes the counts of the one word used (DESIGN CHOICE, log 100). -/
def Dev.statusIn (s : Dev) (l : Nat) (w : Status) : Dev :=
  let v := l / 2
  let cerr := BitVec.ofNat 32 (w.cerr0.toNat + 256 * w.cerr1.toNat)
  let sof := if w.never then (s.vat v).sof.map (fun b => { b with epoch := s.le.epoch }) else (s.vat v).sof
  let s := s.modVat v (fun x => { x with status := some w, never := w.never, aseq := w.aseq, sof := sof })
  let s := (s.setReg (R.VL_EIC_CERR (2 * v)) cerr).setReg (R.VL_EIC_CERR (2 * v + 1)) cerr
  let s := if w.never then s else { s with le := { s.le with a := aseqApp v w.aseq s.le.a, b := aseqApp v w.aseq s.le.b } }
  if (s.vat v).efltPend then
    (s.modVat v (fun x => { x with efltPend := false })).raise 0x0616 1 (srcWord 6 v) w.efc.toNat
  else s

/-- First tap channel of sense segment j (R64). -/
def segFirst (j : Nat) : Nat := if j = 0 then 0 else 56 + 64 * (j - 1)

/-- A sense segment (R16): the first copy that passes its CRC is used. -/
def Dev.senseSeg (l j : Nat) (d : SenseSeg) (s : Dev) : Dev :=
  let v := l / 2
  if !s.laneActive l then s
  else if !d.hdrOk then (if (s.lane l).doubt.isSome then s.sofReject l else s).blkBad l
  else if (s.lane l).calHold then s
  else if !d.crcOk then
    let s := s.pcFrame 0x0602 1 (some v)
    let s := if j = 0 ∧ (s.lane l).doubt.isSome then s.sofReject l else s
    s.crcFail l
  else
    let s := match (s.lane l).doubt with
      | some b => if j = 0 ∧ d.status.never then s.sofAccept l s.now { b with epoch := s.le.epoch } else s.sofReject l
      | none => s
    let x := s.vat v
    if x.sofN ≠ s.now ∨ x.sof.isNone ∨ !x.copies.contains (l % 2 == 1) ∨ x.segs.contains j then s
    else
      let s := s.modVat v (fun x => { x with segs := x.segs ++ [j] })
      let taps := (List.range d.codes.length).foldl
        (fun t i => Tbl.set t (chKey v (segFirst j + i)) (d.codes.getD i 0)) s.vl.taps
      let s := { s with vl := { s.vl with taps := taps } }
      if j = 0 then s.statusIn l d.status else s

/-! ### Delay exchanges (R74) -/

/-- A doubled value as its nearest half, ties to even, over a count: the mean of exchanges held doubled. -/
def mean2 (l : List Int) : Int :=
  let d : Int := 2 * (max 1 l.length : Nat)
  let t := l.foldl (· + ·) 0
  let q := t / d
  let r := t % d
  if d < 2 * r ∨ (2 * r = d ∧ q % 2 = 1) then q + 1 else q

/-- The time-offset rules of EIC_TIME (Table 3.14, R308). -/
def Dev.toffJudge (s : Dev) (l v : Nat) (toff : Int) : Dev :=
  if (256 * s.rd F.VL_CFG_TOFF_LIM : Int) < toff.natAbs then
    let b := (s.lane l).toffBad + 1
    let s := (s.modLane l (fun x => { x with toffBad := b })).modVat v (fun x => { x with toffGood := 0 })
    if b = 2 then
      ({ s with fc := { s.fc with eictClr := s.fc.eictClr.filter (· != v) } }).raiseCond R.FC_EICT_LO 0x0613 v (uns 32 toff)
    else s
  else
    let s := (s.modLane l (fun x => { x with toffBad := 0 })).modVat v (fun x => { x with toffGood := min 16 (x.toffGood + 1) })
    if (s.vat v).toffGood = 16 ∧ bit (s.rd2 R.FC_EICT_LO) v then
      if s.on F.FC_CFG_AUTOCLR_EICT then (s.wr2 R.FC_EICT_LO (clrBit (s.rd2 R.FC_EICT_LO) v)).glSync
      else if s.fc.eictClr.contains v then s
      else { s with fc := { s.fc with eictClr := v :: s.fc.eictClr } }
    else s

/-- A delay exchange closes (R74): the means over the latest 16, the time-offset rules, and the checks of DELAY and ACTIVE. The
exchange belongs to the transmitter that sent the DREQ: on a SPLIT vat that of the other end. T1 and T4 are taken at the pins:
the latencies of the transmitter and of the receiver correct them (09 R216). -/
def Dev.drspIn (r : Nat) (d : Drsp) (s : Dev) : Dev :=
  let v := r / 2
  let l := if s.on (F.VL_LSTAT_SPLIT r) then 2 * v + (1 - r % 2) else r
  let st := s.rd (F.VL_LSTAT_STATE l)
  if !s.receives r then s
  else if !d.hdrOk then s.blkBad r
  else if !d.crcOk then s.crcFail r
  else
    match (s.lane l).dreq with
    | some (q, t1) =>
      if q ≠ d.nonce ∨ (st ≠ 4 ∧ st ≠ 6) then s
      else
        let t1 : Int := t1.toInt + s.rd (F.CAL_LTXLAT l)
        let t4 : Int := d.t4.toInt - s.rd (F.CAL_LRXLAT r)
        let rt : Int := t4 - t1 - d.turn.toNat
        let asym := sgn 16 (s.rd (F.VL_LASYM l))
        let dn2 := rt + 2 * asym
        let up2 := rt - 2 * asym
        let off2 := sgn 33 (uns 33 (2 * (d.t2.toNat : Int) - 2 * t1 - dn2))
        let s := s.modLane l (fun x => { x with
          dreq := none, nDelay := min 16 (x.nDelay + 1),
          exch := ((⟨dn2, up2, off2⟩ : Exch) :: x.exch).take 16 })
        let s := s.pcClock 0x0607 1 (some v)
        let ex := (s.lane l).exch
        let dn := mean2 (ex.map (·.dn))
        let up := mean2 (ex.map (·.up))
        let off := mean2 (ex.map (·.off))
        let oldDn : Int := sgn 16 (s.rd (F.VL_LDLY_DN l))
        let oldUp : Int := sgn 16 (s.rd (F.VL_LDLY_UP l))
        let s := ((s.wr (F.VL_LDLY_DN l) (uns 16 dn)).wr (F.VL_LDLY_UP l) (uns 16 up)).wr (F.VL_LTOFF l) (uns 32 off)
        let s := s.toffJudge l v off
        let long := decide (10240 < dn) || decide (10240 < up)
        let lim : Int := 256 * s.rd F.VL_CFG_DJUMP_LIM
        if st = 4 then
          if (s.lane l).nDelay < 16 then s
          else if long then s.laneFault l 6 8
          else (s.setLane l 5).sendTrn l
        else if long then s.laneFault l 6 8
        else if lim < (dn - oldDn).natAbs ∨ lim < (up - oldUp).natAbs then s.laneFault l 11 1
        else s
    | none => s

/-- A delay exchange is due: DREQ goes out with its nonce (R74), in ACTIVE one every 2^(DLY_INT + 6) samples, so that no drive
frame carries two (R59). -/
def Dev.dreqDue (l : Nat) (nonce : Byte) (t1 : BitVec 64) (s : Dev) : Dev :=
  let st := s.rd (F.VL_LSTAT_STATE l)
  let early := (s.lane l).dreqAt.any (fun a => decide (a ≤ s.now) && decide (s.now < a + 2 ^ (s.rd F.VL_CFG_DLY_INT + 6)))
  if st = 4 then (s.modLane l (fun x => { x with dreq := some (nonce, t1) })).send (.dreq l nonce)
  else if st = 6 ∧ !early then
    (s.modLane l (fun x => { x with dreq := some (nonce, t1), dreqAt := some s.now })).send (.dreq l nonce)
  else s

/-! ### Release (R77) -/

/-- The next frame that runs after F(n) (R107). -/
def Dev.nextFrame (s : Dev) (n : Nat) : Nat := if s.inP2 then (n / 16 + 1) * 16 else n + 1

/-- RELEASE for a held vat: no HOLD reason, a lane ACTIVE, 16 consecutive accepted sense frames. -/
def Dev.releaseSend (v : Nat) (s : Dev) : Dev :=
  let x := s.vat v
  if s.held v && x.holds == 0 && s.vatActive v && decide (16 ≤ x.acc) && x.relEff.isNone then
    let eff := s.nextFrame (max s.le.frame s.now) + 1
    (s.modVat v (fun x => { x with relEff := some eff })).sendFour v (.release eff)
  else s

/-! ### The commands -/

def execSofS (lane : BitVec 7) (b : SofS) (s : State) : Host.Outcome State Fault Refusal := s.onDev (·.sofS lane.toNat b)
def execSenseSegment (lane : BitVec 7) (j : BitVec 4) (d : SenseSeg) (s : State) : Host.Outcome State Fault Refusal :=
  s.onDev (·.senseSeg lane.toNat j.toNat d)
def execReleaseSend (v : BitVec 6) (s : State) : Host.Outcome State Fault Refusal := s.onDev (·.releaseSend v.toNat)
def execDrsp (lane : BitVec 7) (d : Drsp) (s : State) : Host.Outcome State Fault Refusal := s.onDev (·.drspIn lane.toNat d)
def execDelayExchangeDue (lane : BitVec 7) (nonce : Byte) (t1 : BitVec 64) (s : State) : Host.Outcome State Fault Refusal :=
  s.onDev (·.dreqDue lane.toNat nonce t1)
def execTrn (lane : BitVec 7) (t : Trn) (s : State) : Host.Outcome State Fault Refusal := s.onDev (·.trnIn lane.toNat t)
def execDetectDone (lane : BitVec 7) (openP openN short : Bool) (s : State) : Host.Outcome State Fault Refusal :=
  s.onDev (·.detectDone lane.toNat openP openN short)
def execBlockLock (lane : BitVec 7) (ms : List Meas) (s : State) : Host.Outcome State Fault Refusal :=
  s.onDev (·.blockLock lane.toNat ms)
def execLockLost (lane : BitVec 7) (s : State) : Host.Outcome State Fault Refusal := s.onDev (·.lockLost lane.toNat)
def execOpenShortDetect (lane : BitVec 7) (openP openN short : Bool) (s : State) : Host.Outcome State Fault Refusal :=
  s.onDev (·.openShort lane.toNat openP openN short)
def execTrainingTimeout (lane : BitVec 7) (s : State) : Host.Outcome State Fault Refusal := s.onDev (·.trainTimeout lane.toNat)
/-- DETECT after 10 ms in FAULT (Table 3.3). -/
def execFaultRetry (lane : BitVec 7) (s : State) : Host.Outcome State Fault Refusal :=
  s.onDev (fun d => if d.rd (F.VL_LSTAT_STATE lane.toNat) = 8 then d.toDetect lane.toNat else d)

end Sys2Proof.Machine
end

