-- ==== Sys2Proof/Machine/Gl.lean ====
section
/-!
DEFINITION. The press sequencer GL and the form store FS (06): the position in the gate list (R137 to R139), decisions
(R140), announcements (07 R161), drains and ages (07 R170, R171), stints at decisions (09 R222, R224), boundaries, and the
retirement of a plan (R151).
-/
namespace Sys2Proof.Machine

/-! ### The form store -/

/-- FS_STAT as the maps and slots stand. -/
def Dev.fsStat (s : Dev) : Dev :=
  let used := ((s.fs.map0 ++ s.fs.map1).filterMap (·.2) ++ s.fs.kept).eraseDups
  (s.wr F.FS_STAT_USED used.length).wr F.FS_STAT_BAD ((s.fs.slots.filter (·.2.bad)).length)

/-- Mark a slot BAD (R134): S1 once, source FS. -/
def Dev.markBad (s : Dev) (slot : Nat) : Dev :=
  if (s.fs.slots.get slot).bad then s
  else
    let s := { s with fs := { s.fs with slots := s.fs.slots.mod slot (fun x => { x with bad := true }) } }
    (s.fsStat).raise 0x0A01 1 (srcWord 10) slot

/-- The slot of form number f in bank b is BAD, or the map does not name one. -/
def Dev.formBad (s : Dev) (b : Bool) (f : Nat) : Bool :=
  match s.fs.map b f with
  | some slot => (s.fs.slots.get slot).bad
  | none => true

/-- The image GL keeps of form f of bank b (R129, R152). -/
def Dev.formImg (s : Dev) (b : Bool) (p : Plan) (f : Nat) : FormImg :=
  let bytes := match s.fs.map b f with
    | some slot => (s.fs.slots.get slot).bytes
    | none => []
  { fnum := f, cells := formCells bytes,
    tgts := ((bytes.drop 1600).take 2048).map (fun c => p.level.getD c.toNat 0), perm := formPerm bytes }

/-! ### The gate list (R137, R139) -/

/-- The slot that begins at a boundary: its index, bank, gate-list entry and boundary sample. -/
structure Pos where
  k : Nat := 0
  bank : Bool := false
  entry : Nat := 0
  b : Nat := 0
  deriving DecidableEq, Repr, Inhabited

/-- A boundary at the sample of a pending activation opens entry 0 of the staged plan (R28, R151). -/
def Dev.resolve (s : Dev) (p : Pos) : Pos :=
  if s.on F.GL_STAT_ACT_PEND && p.bank == s.on F.GL_STAT_BANK && s.rd2 R.GL_ACT_LO == p.b then
    { p with bank := s.stagedBank, entry := 0 }
  else p

/-- The gate-list entry of a slot. -/
def Dev.gate (s : Dev) (p : Pos) : GateEntry := ((s.planBank p.bank).map (fun q => q.gate.getD p.entry {})).getD {}

/-- The slot after p. -/
def Dev.succ (s : Dev) (p : Pos) : Pos :=
  let n := ((s.planBank p.bank).map (·.gate.length)).getD 1
  s.resolve { k := p.k + 1, bank := p.bank, entry := if p.entry + 1 < n then p.entry + 1 else 0, b := p.b + (s.gate p).dur }

/-- The next boundary GL walks. -/
def Dev.nextPos (s : Dev) : Pos :=
  s.resolve { k := s.rd2 R.GL_SLOT_LO + 1, bank := s.on F.GL_STAT_BANK, entry := s.gl.entry, b := s.gl.nextB }

/-- The next n boundaries from p on. -/
def Dev.ahead (s : Dev) : Nat → Pos → List Pos
  | 0, _ => []
  | n + 1, p => p :: s.ahead n (s.succ p)

/-- The slot whose decision falls in the next samples: the boundary B(k - 2) that p admits, two slots on. -/
def Dev.decideAt (s : Dev) (p : Nat → Bool) : Option Pos :=
  (s.ahead 6 s.nextPos).findSome? (fun q => if p q.b then some (s.succ (s.succ q)) else none)

/-- Boundaries of a gate list from entry e at sample b up to n: how many, and the entry and sample of the next. -/
def walkOn (durs : List Nat) (n : Nat) : Nat → Nat × Nat × Nat → Nat × Nat × Nat
  | 0, x => x
  | f + 1, x =>
    if n < x.2.2 then x
    else walkOn durs n f (x.1 + 1, (if x.2.1 + 1 < durs.length then x.2.1 + 1 else 0), x.2.2 + durs.getD x.2.1 1)

/-- The same for any interval: whole cycles first. -/
def walkTo (p : Plan) (e b n : Nat) : Nat × Nat × Nat :=
  if n < b then (0, e, b)
  else
    let c := (n - b) / p.cyclen
    walkOn (p.gate.map (·.dur)) n p.gate.length (c * p.gate.length, e, b + c * p.cyclen)

/-! ### Schedule comparators (02 R36) -/

/-- Load or unload a comparator: 0 the slot strobe, 1 the strobe that fixes a form, 2 the chooser start, 3 the cycle start. Each
takes the sample strobe. -/
def Dev.setCmp (s : Dev) (i : Nat) (x : Cmp) : Dev := { s with tb := { s.tb with cmp := s.tb.cmp.set i x } }

/-- A comparator fires together with the strobe of its sample index. -/
def Dev.fires (s : Dev) (i : Nat) : Bool :=
  let c := s.tb.cmp.get i
  c.on && !c.frame && c.idx == s.now

/-- The press of the next boundary is committed, and comes whether GL walks on or not (R143). -/
def Dev.pressDue (s : Dev) : Bool := s.gl.dec.any (fun x => x.committed && !x.cancelled && x.m == s.gl.nextB)

/-- The sample at which the next cycle starts. -/
def Dev.cycleAt (s : Dev) : Nat :=
  let q := s.nextPos
  if q.entry = 0 then q.b
  else q.b + ((((s.planBank q.bank).map (·.gate)).getD []).drop q.entry).foldl (fun a x => a + x.dur) 0

/-- The activation waits for the cycle start of this sample, whose comparator fires (02 R36, 01 R26). -/
def Dev.actFires (s : Dev) : Bool := s.on F.GL_STAT_ACT_PEND && s.fires 3 && s.rd2 R.GL_ACT_LO == s.now

/-- GL loads the comparators as its position stands; that of the cycle start stays in the sample in which an activation waits
for it. -/
def Dev.cmpLoad (s : Dev) : Dev :=
  let k := s.rd2 R.GL_SLOT_LO
  let j := s.gl.decK - 2
  let w := s.gl.walking
  let s := s.setCmp 0 (if w || s.pressDue then { on := true, idx := s.gl.nextB } else {})
  let s := if !w then s.setCmp 1 {}
    else if k < j then s.setCmp 1 { on := true, idx := ((s.ahead 3 s.nextPos).getD (j - k - 1) {}).b } else s
  let s := if w then s else s.setCmp 2 {}
  if s.actFires then s
  else if w then s.setCmp 3 { on := true, idx := s.cycleAt }
  else if s.on F.GL_STAT_ACT_PEND then s.setCmp 3 { on := true, idx := s.rd2 R.GL_ACT_LO } else s.setCmp 3 {}

/-- GL stands still (R139). -/
def Dev.standStill (s : Dev) : Dev := ({ s with gl := { s.gl with walking := false } }).cmpLoad

/-! ### Announcements (07 R161, R177) -/

/-- One part of an ANNOUNCE (Table 7.4). -/
def annPdu (x : Slot) (nin part parts achk : Nat) (wire : List Byte) : List Byte :=
  let lo := 512 * part
  let n := min 512 (nin - lo)
  let fl := (if x.nochg then 128 else 0) + (if x.demand then 64 else 0) + (if x.chosen then 32 else 0) +
    (if x.fallback then 16 else 0) + (if x.idle then 8 else 0) + (if x.first then 4 else 0)
  [0x12, BitVec.ofNat 8 fl] ++ toBe 2 (40 + 2 * n) ++ toBe 8 x.k ++ toBe 6 (x.m / 1000000) ++
  toBe 4 (x.m % 1000000 * 1000) ++ toBe 3 x.dur ++ [BitVec.ofNat 8 x.rind, x.epoch, BitVec.ofNat 8 (16 * part + parts)] ++
  toBe 2 x.img.fnum ++ toBe 2 lo ++ toBe 2 n ++ toBe 2 nin ++ toBe 4 achk ++ (wire.drop (2 * lo)).take (2 * n)

/-- Slots are announced: not in P3, which lasts until PM_STAT.STATE leaves it (14 R316), nor in P4 (R177). -/
def Dev.announces (s : Dev) : Bool := decide (s.rd F.PM_STAT_STATE < 3)

/-- Announce a slot on every report port that is up, part 0 first. -/
def Dev.announce (s : Dev) (x : Slot) (nin : Nat) : Dev :=
  if !x.announced then s
  else
  let wire := fit (2 * nin) (permWire x.img.perm)
  let achk := crc32c wire
  let parts := if nin ≤ 512 then 1 else 2
  Dev.each (List.range parts) (fun s p => s.rpSend F.RPA_TX_ANN (annPdu x nin p parts achk wire)) s

/-! ### Drain and age (07 R170, R171) -/

/-- DARK is in force. -/
def Dev.dark (s : Dev) : Bool := decide (2 ≤ s.rd F.FC_STAT_SAFE)

/-- The drain and the age update of a decided slot under plan p, rod by rod, ages on the values before the drain. -/
def Dev.drainSlot (s : Dev) (p : Plan) (x : Slot) : Dev :=
  if s.dark then s
  else
    let span := 1000 * x.dur - 10 * x.rind
    Dev.each ((permList x.img.perm ++ List.replicate 1024 none).take p.nin).zipIdx (fun s oi =>
      let s := if (s.de.rods.get oi.2).stale then s else s.bankOp (.age oi.2 oi.1)
      match oi.1 with
      | some o => s.bankOp (.drain x.k oi.2 o (p.dem.drate.getD oi.2 0 * span / 256000))
      | none => s) s

/-! ### Stints at a decision (09 R222 to R224) -/

/-- A sweep has emitted its last step. -/
def Stint.done (t : Stint) : Bool :=
  t.sweep && decide (t.span + 1 ≤ t.stepsOut)

/-- The press of a stint's named cells in slot k at m: those whose slot bit differs from TSTATE, with the state they take. -/
def Dev.stintCells (s : Dev) (t : Stint) (cells : List Byte) (enter : Bool) : List (Nat × Bool) :=
  t.cells.filterMap (fun l =>
    let c := (s.descs.get (loopKey t.vat l)).idx.toNat
    if cellBit cells c != t.tstate then some (c, if enter then t.tstate else !t.tstate) else none)

/-- What a decision does to one stint: whether it enters or exits, and the cells it presses. One whose probe is off has had
its exit condition and joins the first press it may; a slot after that of the exit finds its cells in MODE RUN (R224). -/
def Dev.stintAt (s : Dev) (x : Slot) (inh : Bool) (ch : List (Nat × Bool)) (t : Stint) : List (Nat × Bool) × Stint :=
  let named := t.cells.map (fun l => (s.descs.get (loopKey t.vat l)).idx.toNat)
  let rest := ch.filter (fun c => !named.contains c.1)
  let inIdle := t.idle.contains x.img.fnum
  match t.entered with
  | none =>
    if !inh && !x.nochg && inIdle && decide (18 ≤ x.dur) && !t.stopReq then
      (rest ++ s.stintCells t x.img.cells true, { t with entered := some x.m })
    else (ch, t)
  | some m =>
    let due := !inIdle || decide (m + t.maxdur ≤ s.now) || t.done || t.stopReq || x.first || t.probeOff
    if t.exitM.isSome then (ch, t)
    else if !due then (rest, t)
    else if inh then (rest, { t with probeOff := true })
    else (rest ++ s.stintCells t x.img.cells false, { t with exitM := some x.m })

/-- All stints, in order of acceptance. -/
def Dev.stintsAt (s : Dev) (x : Slot) (inh : Bool) : Slot × List Stint :=
  let r := s.cal.stints.foldl (fun (a : List (Nat × Bool) × List Stint) t =>
    let y := s.stintAt x inh a.1 t
    (y.1, a.2 ++ [y.2])) (x.changed, [])
  ({ x with changed := r.1 }, r.2)

/-! ### The decision (R140) -/

/-- prev: the image of the latest slot decided and not cancelled, else of the last committed one. -/
def Dev.prevImg (s : Dev) : FormImg := match s.gl.dec.getLast? with
  | some x => x.img
  | none => s.gl.last

/-- The chooser's valid return for slot k, while it counts (R151, R176). -/
def Dev.chosenFor (s : Dev) (k : Nat) : Option Choice :=
  s.gl.choice.filter (fun c => c.k == k && c.valid && s.gl.voidRun != some k)

/-- The form of a slot by R140: its number, CHOSEN, FALLBACK, IDLE, whether a BAD slot was met, and NOCHG_BAD. -/
def Dev.pickForm (s : Dev) (q : Pos) (x : GateEntry) : Option Nat × Bool × Bool × Bool × Bool :=
  let c := if x.demand then s.chosenFor q.k else none
  let f0 := (c.map (·.form)).getD x.form
  let bad0 := c.isSome && s.formBad q.bank f0
  let f := if bad0 then x.form else f0
  let chosen := c.isSome && !bad0
  let idle := chosen && (c.map (·.idle)).getD false
  let bad := s.formBad q.bank f
  (if bad then none else some f, chosen && !bad, x.demand && !chosen, idle && !bad, bad0 || bad)

/-- The slot that R140 decides at q, before stints, and the form number that was BAD; late: its decision instant has passed. FIRST
marks the first slot announced under an epoch (07 Table 7.4). -/
def Dev.decided (s : Dev) (late : Bool) (q : Pos) (p : Plan) : Slot × Bool × Option Nat :=
  let x := s.gate q
  let newPlan := q.bank != s.on F.GL_STAT_BANK
  let ep := if newPlan then (s.rd F.GL_STAT_EPOCH + 1) % 256 else s.rd F.GL_STAT_EPOCH
  let prev := s.prevImg
  let y : Slot := { k := q.k, m := q.b, entry := q.entry, dur := x.dur, rind := x.rind, demand := x.demand,
                    first := s.gl.annEp != some (BitVec.ofNat 8 ep), epoch := BitVec.ofNat 8 ep, announced := s.announces }
  if late ∨ s.rd glInh ≠ 0 then ({ y with nochg := true, img := prev }, false, none)
  else
    let r := s.pickForm q x
    match r.1 with
    | none => ({ y with nochg := true, img := prev, fallback := r.2.2.1 }, true, some x.form)
    | some f =>
      let img := s.formImg q.bank p f
      ({ y with img := img, chosen := r.2.1, fallback := r.2.2.1, idle := r.2.2.2.1,
                changed := diffCells prev.cells img.cells 0 }, r.2.2.2.2, none)

/-- What is counted and reported of a decision. -/
def Dev.decisionNotes (s : Dev) (x : Slot) (metBad : Bool) (badForm : Option Nat) : Dev :=
  let s := s.pcClock 0x0B01
  let s := Dev.when x.fallback (fun s => ((s.count F.GL_FALLBACK).event F.GL_EVT_FALLBACK).pcClock 0x0B05) s
  let s := Dev.when metBad (·.event F.GL_EVT_BADFORM) s
  let s := match badForm with
    | some f => s.raise 0x0B02 1 (srcWord 11) f
    | none => s
  Dev.when x.nochg (fun s => (s.count F.GL_NOCHG).pcClock 0x0B04) s

/-- Slot k is decided, drained and announced, and the next one is due after it. A slot decided late whose F(m - 2) has opened is
committed at once. -/
def Dev.decidePos (late : Bool) (q : Pos) (p : Plan) (s : Dev) : Dev :=
  let d := s.decided late q p
  let st := s.stintsAt d.1 (late || s.rd glInh != 0)
  let x := { st.1 with committed := late && decide (q.b ≤ s.le.frame + 2) }
  let nx := s.succ q
  let s := s.decisionNotes x d.2.1 d.2.2
  let s := { s with gl := { s.gl with dec := s.gl.dec ++ [x], decK := nx.k, decEntry := nx.entry, decM := nx.b,
                                      decBank := nx.bank, choice := none, annEp := if x.announced then some x.epoch else s.gl.annEp,
                                      voidRun := if s.gl.voidRun = some q.k then none else s.gl.voidRun },
                    cal := { s.cal with stints := st.2 } }
  ((s.drainSlot p x).announce x p.nin).formNext

/-- The slot due for decision. -/
def Dev.decPos (s : Dev) : Pos := s.resolve { k := s.gl.decK, bank := s.gl.decBank, entry := s.gl.decEntry, b := s.gl.decM }

/-- B(k - 2), with its comparator: slot k is decided (R140). -/
def Dev.decideSlot (s : Dev) : Dev :=
  if !s.gl.walking || !s.fires 1 then s
  else
    let q := s.decPos
    match s.planBank q.bank with
    | none => s
    | some p => ((s.setCmp 1 {}).decidePos false q p).cmpLoad

/-- A slot whose decision instant precedes GL's resumption: no change (R140). -/
def Dev.decideLate (s : Dev) : Dev :=
  let q := s.decPos
  match s.planBank q.bank with
  | none => s
  | some p => s.decidePos true q p

/-- The position at sample n of a plan anchored at a (R137): the entry that opens at the next boundary, and that boundary's
sample; before a, counting the cycles back. -/
def posAt (p : Plan) (a n : Nat) : Nat × Nat :=
  let o := ((n : Int) - a) % p.cyclen
  let w := walkOn (p.gate.map (·.dur)) o.toNat p.gate.length (0, 0, 0)
  (w.2.1, ((n : Int) - o + w.2.2).toNat)

/-- GL takes up its position at sample n, from the anchor (R138); the slot index counts the boundaries since the last it walked
(R139). The slots whose decision instants have passed are decided no change at once; decisions go on with the first whose instant
has not. -/
def Dev.resume (n : Nat) (s : Dev) : Dev :=
  match s.plan with
  | some p =>
    if s.gl.walking then s
    else
      let passed := s.gl.owed + (walkTo p s.gl.entry s.gl.nextB n).1
      let w := posAt p (s.rd2 R.GL_ANCHOR_LO) n
      let cur := if w.1 = 0 then p.gate.length - 1 else w.1 - 1
      let s := ((s.wr2 R.GL_SLOT_LO (s.rd2 R.GL_SLOT_LO + passed)).wr F.GL_STAT_ENTRY cur).wr2 R.GL_NEXTB_LO w.2
      let s := Dev.when (passed != 0) (·.wrB F.GL_FORM_CUR_NOCHG true) s
      let s := { s with gl := { s.gl with walking := true, entry := w.1, nextB := w.2, owed := 0 } }
      let q := s.nextPos
      let atB := w.2 - (p.gate.getD cur {}).dur == n
      let s := { s with gl := { s.gl with decK := q.k, decEntry := q.entry, decM := q.b, decBank := q.bank, choice := none } }
      let s := Dev.when (!atB) Dev.decideLate s.decideLate
      Dev.when atB (·.setCmp 1 { on := true, idx := n }) s.cmpLoad
  | none => s

/-- B(k), with its comparator (R139): the slot index advances, the entry and rind begin, the drains of a pressed slot are
discarded (R172). A slot that was cancelled shows as nochg, with the number of the form that stays (log 68). -/
def Dev.boundary (s : Dev) : Dev :=
  match s.plan with
  | some p =>
    if !(s.gl.walking || s.pressDue) || !s.fires 0 then s
    else
      let k := s.rd2 R.GL_SLOT_LO + 1
      let e := s.gl.entry
      let nb := s.gl.nextB + (p.gate.getD e {}).dur
      let s := ((s.wr2 R.GL_SLOT_LO k).wr F.GL_STAT_ENTRY e).wr2 R.GL_NEXTB_LO nb
      let s := { s with gl := { s.gl with entry := if e + 1 < p.gate.length then e + 1 else 0, nextB := nb } }
      let s := match s.gl.slotOf k with
        | some x =>
          let s := (s.wr F.GL_FORM_CUR x.img.fnum).wrB F.GL_FORM_CUR_NOCHG x.nochg
          let s := { s with de := { s.de with drained := s.de.drained.filter (fun d => d.1 != k) } }
          if x.committed && !x.nochg then (s.count F.GL_PRESSES).wr F.GL_LASTCHG x.changed.length else s
        | none => s.wrB F.GL_FORM_CUR_NOCHG true
      (s.formNext).cmpLoad
  | none => s

/-- A read of form-store words by GL or the scrub (R134): SECDED's corrections and failures are counted, and a failure of it or
of the form's CHECK marks the slot. -/
def Dev.formRead (slot : Nat) (r : Ecc) (s : Dev) : Dev :=
  match r with
  | .ok => s
  | .corrected => s.count F.FS_CE_CNT
  | .uncorrectable => (s.count F.FS_UE_CNT).markBad slot
  | .checkFails => s.markBad slot

/-- From B(k - 2) - 2,000 ns GL reads and checks the slot's fixed or default form (R134, Table 6.5). -/
def Dev.defaultRead (r : Ecc) (s : Dev) : Dev :=
  match s.decideAt (fun b => decide (s.now ≤ b) && decide (b ≤ s.now + 2)) with
  | some q =>
    match s.fs.map q.bank (s.gate q).form with
    | some slot => s.formRead slot r
    | none => s
  | none => s

/-- The engines run on descriptors of the other bank than the plan in force (01 R26). -/
def Dev.inOldBank (s : Dev) : Bool := s.le.inUse && s.le.bank == s.stagedBank

/-- The old plan is retired (R151 step 3), two samples after N_act and once no engine runs on it (01 R26): its bank's map is
cleared, or, where a plan has been staged there since, what was kept of the old one. -/
def Dev.retirePlan (s : Dev) : Dev :=
  match s.gl.retireAt with
  | none => s
  | some r =>
    if decide (s.now < r) || s.inOldBank then s
    else
    let b := s.stagedBank
    let s := { s with gl := { s.gl with retireAt := none }, le := { s.le with kept := none }, fs := { s.fs with kept := [] } }
    let s := if s.on F.GL_STAT_STAGED then s
      else
        let s := if b then { s with fs := { s.fs with map1 := [] } } else { s with fs := { s.fs with map0 := [] } }
        let s := ((s.setPlan b none).setDescs b []).setCal b []
        { s with de := { s.de with badMap := s.de.badMap.filter (fun x => x.1 != b) } }
    (s.fsStat).event F.GL_EVT_RETIRED

/-- A scrub read of a form-store word (R134): no form is loaded, so no CHECK is made. -/
def Dev.fsScrub (slot : Nat) (r : Ecc) (pass : Bool) (s : Dev) : Dev :=
  let s := if r = .checkFails then s else s.formRead slot r
  if pass then s.wr F.FS_SCRUB_PASS (s.rd F.FS_SCRUB_PASS + 1) else s

/-! ### The commands -/

def execBKMinus2 (s : State) : Host.Outcome State Fault Refusal := s.onDev Dev.decideSlot
def execDefaultRead (r : Ecc) (s : State) : Host.Outcome State Fault Refusal := s.onDev (Dev.defaultRead r)
def execSlotBoundary (s : State) : Host.Outcome State Fault Refusal := s.onDev Dev.boundary
def execPlanRetire (s : State) : Host.Outcome State Fault Refusal := s.onDev Dev.retirePlan
def execFsScrub (slot : BitVec 12) (r : Ecc) (passDone : Bool) (s : State) : Host.Outcome State Fault Refusal :=
  s.onDev (Dev.fsScrub slot.toNat r passDone)

end Sys2Proof.Machine
end

