-- ==== Sys2Proof/Machine/De.lean ====
section
/-!
DEFINITION. The demand engine and the report ports (07): reports (R157 to R165), metering (R167 to R169), the chooser (R173 to
R176), faults (R183), demand.tenant (R182), first use and plan changes (R179, R181).
-/
namespace Sys2Proof.Machine

/-! ### Stale rods -/

/-- Rods in use. -/
def Dev.rodsInUse (s : Dev) : Nat := if s.on F.GL_STAT_PLAN then s.de.nin else 0

/-- DE_STAT.NSTALE and STALE_OVER as the rods stand (Table 7.13). -/
def Dev.staleSync (s : Dev) : Dev :=
  let n := s.rodsInUse
  let stale := n - (s.de.rods.filter (fun kr => decide (kr.1 < n) && !kr.2.stale)).length
  let beyond := decide (s.rd F.DE_CFG_STALE_FRAC * n < 256 * stale)
  let was := s.on F.DE_STAT_STALE_OVER
  let s := (s.wr F.DE_STAT_NSTALE stale).wrB F.DE_STAT_STALE_OVER beyond
  if beyond && !was then (s.event F.DE_EVT_STALE_OVER).raise 0x0C02 1 (srcWord 12) stale else s

/-- A rod's window ends (R164). -/
def Dev.rodStale (i : Nat) (s : Dev) : Dev :=
  let r := s.de.rods.get i
  if r.have_ && decide (i < s.rodsInUse) && decide (r.lastacc + s.rd F.DE_STALE_US < s.now) then
    ({ s with de := { s.de with rods := s.de.rods.set i { r with stale := true, have_ := false } } }).staleSync
  else s

/-! ### Metering (R167 to R169) -/

/-- Configuration of service v of a subscriber in force. -/
def Dev.svcCfg (s : Dev) (sub v : Nat) : Svc := (s.de.dem.subs.get sub).svc.getD v {}

/-- A meter with its counts written out: both at the bursts since first use while full (R179). -/
def Meter.open_ (t0 : Nat) (c : Svc) (m : Meter) : Meter :=
  if m.full then { m with full := false, tc := BitVec.ofNat 40 (256 * c.cbs.toNat), tp := BitVec.ofNat 40 (256 * c.pbs.toNat),
                          tlast := BitVec.ofNat 32 t0 }
  else m

/-- The colours of R167. -/
inductive Colour where
  | green | yellow | red
  deriving DecidableEq, Repr, Inhabited

/-- meter() of R167 on a meter whose counts are written out. -/
def meterStep (c : Svc) (oct n : Nat) (m : Meter) : Meter × Colour :=
  let dt := min ((n + 2 ^ 32 - m.tlast.toNat) % 2 ^ 32) (2 ^ 24)
  let tc := min (m.tc.toNat + c.cir.toNat * dt) (256 * c.cbs.toNat)
  let tp := min (m.tp.toNat + c.pir.toNat * dt) (256 * c.pbs.toNat)
  let b := 256 * oct
  let put (x y : Nat) : Meter := { m with tc := BitVec.ofNat 40 x, tp := BitVec.ofNat 40 y, tlast := BitVec.ofNat 32 n }
  let add (x : BitVec 64) : BitVec 64 := BitVec.ofNat 64 (satAdd 64 x.toNat oct)
  if tp < b then ({ put tc tp with red := add m.red }, .red)
  else if tc < b then ({ put tc (tp - b) with yellow := add m.yellow }, .yellow)
  else ({ put (tc - b) (tp - b) with green := add m.green }, .green)

/-- inc of R168. -/
def beadInc (d : DemCfg) (sw : Byte) (svc oct : Nat) (green : Bool) : Nat :=
  let units := (oct + 63) / 64
  let cw := if green then d.cwg else d.cwy
  min (units * sw.toNat * (d.vw.getD svc 0).toNat * cw.toNat / 4096) 0xFFFFFFFF

/-- A meter block takes its next entry (R167 to R169). -/
def Dev.meterEntry (g : Nat) (s : Dev) : Dev :=
  match s.de.queue.get g with
  | [] => s
  | e :: rest =>
    let s := { s with de := { s.de with
      queue := s.de.queue.set g rest, qNoted := if rest.isEmpty then s.de.qNoted.filter (· != g) else s.de.qNoted } }
    let key := 8 * e.sub + e.svc
    let c := s.svcCfg e.sub e.svc
    let r := meterStep c e.oct.toNat e.n ((s.de.meters.get key).open_ s.de.t0 c)
    let s := { s with de := { s.de with meters := s.de.meters.set key r.1 } }
    let s := s.pcClock 0x0C02
    match r.2 with
    | .red => (s.count F.DE_RED).pcClock 0x0C05
    | col =>
      let s := s.pcClock (if col = .green then 0x0C03 else 0x0C04)
      let inc := beadInc s.de.dem (s.de.dem.subs.get e.sub).sw e.svc e.oct.toNat (col == .green)
      if inc = 0 then s else s.bankOp (.add e.rod e.dst inc)

/-! ### Reports (R157 to R165) -/

/-- One entry of an accepted report (R165, R169). -/
def Dev.account (s : Dev) (i : Nat) (x : List Byte) : Dev :=
  let dst := bits (beAt x 0 2) 9 0
  let svc := bits (beAt x 0 2) 12 10
  let sub := bits (beAt x 2 2) 11 0
  if s.de.nout ≤ dst ∨ !(s.de.dem.subs.get sub).en then s.count F.DE_BADENT
  else
    let g := sub % 16
    let q := s.de.queue.get g
    if 512 ≤ q.length then
      let first := !s.de.qNoted.contains g
      let s := (s.count F.DE_QDROP).event F.DE_EVT_QDROP
      if first then
        ({ s with de := { s.de with qNoted := g :: s.de.qNoted } }).raise 0x0C06 0 (srcWord 12 g 4)
      else s
    else
      let e : QEnt := { rod := i, dst := dst, svc := svc, sub := sub, oct := BitVec.ofNat 32 (beAt x 4 4), n := s.now }
      { s with de := { s.de with queue := s.de.queue.set g (q ++ [e]) } }

/-- The entries of a REPORT PDU. -/
def reportEntries (pdu : List Byte) (n : Nat) : List (List Byte) := (List.range n).map (fun q => (pdu.drop (16 + 8 * q)).take 8)

/-- R159 and Table 7.2 on a received PDU: it is a REPORT with every reserved bit 0. -/
def reportOk (pdu : List Byte) : Bool :=
  let n := byteAt pdu 8
  byteAt pdu 0 == 0x11 && byteAt pdu 1 % 128 == 0 && beAt pdu 2 2 == 16 + 8 * n && decide (16 + 8 * n ≤ pdu.length) &&
  decide (1 ≤ n) && decide (n ≤ 64) && decide (beAt pdu 4 2 < 1024) && byteAt pdu 9 == 0 && byteAt pdu 15 == 0 &&
  (reportEntries pdu n).all (fun x => decide (beAt x 0 2 < 8192) && decide (beAt x 2 2 < 4096))

/-- A port's RP_MAC. -/
def Dev.rpMac (s : Dev) (p : Port) : Nat := s.rd (rpFld p F.RPA_MAC_LO) + 2 ^ 32 * s.rd (rpFld p F.RPA_MAC_HI)

/-- The destination addresses DE takes (R163). -/
def Dev.daOk (s : Dev) (p : Port) (da : Nat) : Bool :=
  da == s.rd F.DE_ANN_DA_LO + 2 ^ 32 * s.rd F.DE_ANN_DA_HI || (da == s.rpMac p && s.rpMac p != 0)

/-- A REPORT that passed R159 (R164). -/
def Dev.reportIn (s : Dev) (pdu : List Byte) : Dev :=
  let i := beAt pdu 4 2
  let seq := beAt pdu 6 2
  let rst := bit (byteAt pdu 1) 7
  let r := s.de.rods.get i
  let n := s.now
  if !s.on F.DE_CFG_ACCEPT_EN ∨ s.rodsInUse ≤ i then s.count F.DE_BADREP
  else
    let d := (seq + 65536 - r.last.toNat) % 65536
    if r.have_ && (d == 0 || (decide (32768 ≤ d) && !rst)) then s.count F.DE_DUP
    else if r.have_ && decide (n < r.lastacc + 20) then s.count F.DE_RATE
    else
      let r := { r with have_ := true, last := BitVec.ofNat 16 seq, lastacc := n, stale := false }
      let s := { s with de := { s.de with rods := s.de.rods.set i r } }
      let s := ((s.count F.DE_REPORTS).pcClock 0x0C01).staleSync
      Dev.each (reportEntries pdu (byteAt pdu 8)) (fun s x => s.account i x) s

/-- A Naern PDU that a report port has received (R157, R159, R163). -/
def Dev.naernIn (p : Port) (da : Nat) (pdu : List Byte) (s : Dev) : Dev :=
  if !s.on (rpFld p F.RPA_CFG_NAERN_RX) then s.count (rpFld p F.RPA_RX_OTHER)
  else if !reportOk pdu then s.count (rpFld p F.RPA_RX_BAD)
  else
    let s := s.count (rpFld p F.RPA_RX_NAERN)
    if s.daOk p da then s.reportIn pdu else s.count (rpFld p F.RPA_RX_BAD)

/-- A UDP/IPv4 datagram to a PTP port (Table 2.1). -/
def ptpUdp (l : List Byte) : Bool :=
  let dst := beAt l (4 * (byteAt l 0 % 16) + 2) 2
  byteAt l 0 / 16 == 4 && byteAt l 9 == 17 && (dst == 319 || dst == 320)

/-- A frame at a report port (R157): its FEC codewords count; the port takes 64 to 1,522 bytes whose FCS is correct; Naern goes
on, PTP goes to the time base, and the rest is counted. -/
def Dev.frameRx (p : Port) (f : RxFrame) (etype : Nat) (pdu : List Byte) (s : Dev) : Dev :=
  if !s.on (rpFld p F.RPA_STAT_LINK) then s
  else
    let s := (s.count (rpFld p F.RPA_FEC_CORR) f.fecCorr).count (rpFld p F.RPA_FEC_UNCORR) f.fecUncorr
    if f.len < 64 ∨ 1522 < f.len ∨ !f.fcsOk then s.count (rpFld p F.RPA_RX_BAD)
    else if etype = 0x88B5 then s.naernIn p f.da.toNat pdu
    else if etype = 0x88F7 ∨ (etype = 0x0800 ∧ ptpUdp pdu) then s
    else s.count (rpFld p F.RPA_RX_OTHER)

/-! ### Ports up and down (R158) -/

def portBlock : Port → Nat
  | .rpa => 13
  | .rpb => 14

def otherPort : Port → Port
  | .rpa => .rpb
  | .rpb => .rpa

/-- A report port goes down: ALIGNED and FEC_LOCK read 0 with LINK (DESIGN CHOICE, log 106). -/
def Dev.portDown (p : Port) (s : Dev) : Dev :=
  if !s.on (rpFld p F.RPA_STAT_LINK) then s
  else
    let s := ((s.wrB (rpFld p F.RPA_STAT_LINK) false).wrB (rpFld p F.RPA_STAT_ALIGNED) false).wrB (rpFld p F.RPA_STAT_FEC_LOCK) false
    let s := s.count (rpFld p F.RPA_LINK_DOWN)
    let s := s.raise (256 * portBlock p + 1) 1 (srcWord (portBlock p)) (s.reg (R.RPA_STAT + portBase p)).toNat
    if s.on (rpFld (otherPort p) F.RPA_STAT_LINK) then s
    else ((s.wrB F.DE_STAT_PORTS_DOWN true).event F.DE_EVT_PORTS_DOWN).raise 0x0C01 2 (srcWord 12)

/-- A TSDLY run holds the port down (09 R216). -/
def Dev.portInCal (s : Dev) (p : Port) : Bool :=
  s.cal.runs.any (fun r => r.kind == 2 && r.target == (if p = .rpa then 128 else 129))

/-- The links may run: not in P4, nor from the electrical idle of P3's entry until its wake (14 R325, R327). -/
def Dev.coreUp (s : Dev) : Bool :=
  s.rd F.PM_STAT_STATE != 4 && (match s.pm.p3 with
    | .none => true
    | .waiting => true
    | .held => true
    | .woken => true
    | _ => false)

/-- A report port comes up: enabled, out of reset (16 R362), at its configured rate (R157). -/
def Dev.portUp (p : Port) (s : Dev) : Dev :=
  if s.on (rpFld p F.RPA_CFG_EN) && s.vl.gate && s.coreUp && !s.portInCal p then
    let s := ((s.wrB (rpFld p F.RPA_STAT_LINK) true).wrB (rpFld p F.RPA_STAT_ALIGNED) true).wrB (rpFld p F.RPA_STAT_FEC_LOCK) true
    let s := s.wr (rpFld p F.RPA_STAT_RATE_ACT) (s.rd (rpFld p F.RPA_CFG_RATE))
    s.wrB F.DE_STAT_PORTS_DOWN false
  else s

/-! ### The chooser (R173 to R176) -/

/-- Score of a form whose PERM is given (R174). -/
def scoreForm (r : Run) (p : Plan) (perm : List (Option Nat)) : Nat :=
  (perm.take p.nin).zipIdx.foldl (fun a oi =>
    match oi.1 with
    | some o =>
      if r.stale.contains oi.2 then a
      else
        let b := (r.beads.get (beadKey oi.2 o)).toNat
        if b = 0 then a
        else
          let cap := (p.dem.cap.getD oi.2 0).toNat
          a + (if cap = 0 ∨ b < cap then b else cap) + (r.age.get oi.2).toNat * 2 ^ p.dem.ageSh
    | none => a) 0

/-- Eligible form numbers of a map, ascending (R174): VALID, CHOOSE, in the candidate set, no uncorrectable word. -/
def Dev.eligible (s : Dev) (b : Bool) (cset : Nat) : List (Nat × List Byte) :=
  let m := if b then s.fs.map1 else s.fs.map0
  m.filterMap (fun fs => match fs.2 with
    | some slot =>
      let by_ := (s.fs.slots.get slot).bytes
      if formChoose by_ && bit (formCmask by_) cset && !s.de.badMap.contains (b, fs.1) then some (fs.1, by_) else none
    | none => none)

/-- The best score and form of a run (R174). -/
def Dev.bestForm (s : Dev) (r : Run) (p : Plan) : Nat × Nat :=
  (s.eligible r.bank r.cset).foldl (fun a f =>
    let sc := scoreForm r p (permList (formPerm f.2))
    if a.1 < sc then (sc, f.1) else a) (0, r.dflt)

/-- Start of a run before its decision instant, in samples (R19). -/
def Dev.chooserLead (s : Dev) : Nat := if s.rd F.PM_STAT_OP = 0 then 4 else 5

/-- A run's start is fixed at B(k - 2) - 5,000 ns (14 R321): DE loads the comparator for it. -/
def Dev.chooserFix (s : Dev) : Dev :=
  if s.rd F.PM_STAT_STATE ≠ 0 ∨ 2 ≤ s.rd F.PM_STAT_OP ∨ s.rd glInh ≠ 0 ∨ !s.gl.walking then s
  else
    match s.decideAt (fun b => b == s.now + 5) with
    | none => s
    | some q => if (s.gate q).demand then s.setCmp 2 { on := true, idx := s.now + 5 - s.chooserLead } else s

/-- Chooser start, with its comparator (R19, R174 to R176): the run's code at its start, and its snapshot. -/
def Dev.chooserStart (s : Dev) : Dev :=
  if !s.fires 2 then s
  else
    let s := s.setCmp 2 {}
    if s.rd F.PM_STAT_STATE ≠ 0 ∨ s.rd glInh ≠ 0 ∨ !s.gl.walking ∨ s.de.run.isSome then s
    else
      match s.decideAt (fun b => b == s.now + s.chooserLead) with
      | none => s
      | some q =>
        let x := s.gate q
        match s.planBank q.bank with
        | none => s
        | some p =>
          if !x.demand then s
          else
            let stale := (List.range p.nin).filter (fun i => (s.de.rods.get i).stale)
            let code := if !s.on F.DE_CFG_CHOOSE_EN then 5 else if s.on F.DE_STAT_PORTS_DOWN then 3
              else if s.rd F.DE_CFG_STALE_FRAC * p.nin < 256 * stale.length then 2 else 0
            let r : Run := { k := q.k, bank := q.bank, cset := x.cset, dflt := x.form, code := code, beads := s.de.beads,
                             age := s.de.age, stale := stale }
            let s := { s with de := { s.de with run := some r } }
            ((((s.count F.DE_RUNS).pcClock 0x0C06).wrB F.DE_STAT_RUNNING true).wrB F.DE_STAT_MAP q.bank)

/-- Clock 4,096: the held bank operations apply in arrival order (R175). -/
def Dev.release (s : Dev) : Dev :=
  match s.de.run with
  | some r =>
    let ops := s.de.held
    Dev.each ops (fun s o => s.bankApply o)
      { s with de := { s.de with run := some { r with released := true }, held := [] } }
  | none => s

/-- Clock 4,192: the result goes to GL (R176), which reads the chosen form (06 R134). A run without a valid form shows the default form and
score 0 (DESIGN CHOICE, log 106). -/
def Dev.chooserResult (sram : Bool) (ecc : Ecc) (s : Dev) : Dev :=
  let s := s.release
  match s.de.run with
  | none => s
  | some r =>
    let s := { s with de := { s.de with run := none } }
    match s.planBank r.bank with
    | none => s.wrB F.DE_STAT_RUNNING false
    | some p =>
      let code := if r.code ≠ 0 then r.code else if sram then 4 else 0
      let best := if code = 0 then s.bestForm r p else (0, r.dflt)
      let code := if code = 0 ∧ best.1 = 0 then 1 else code
      let valid := decide (code ≤ 1)
      let s := s.wrB F.DE_STAT_RUNNING false
      let s := ((s.wr F.DE_LASTRUN_RESULT code).wr F.DE_LASTRUN_CSET r.cset).wr F.DE_LASTRUN_FORM best.2
      let s := s.wr2 R.DE_SCORE_LO best.1
      let s := Dev.when (code == 1) (·.count F.DE_IDLE) s
      let s := Dev.when (!valid) (fun s => (s.count F.DE_INVALID).event F.DE_EVT_RUN_INVALID) s
      let pl := toLe 8 r.k ++ toLe 2 best.2 ++ [BitVec.ofNat 8 code, BitVec.ofNat 8 r.cset] ++ toLe 6 best.1 ++
        toLe 2 r.stale.length
      let s := s.trace { ty := 3, blk := 12, payload := pl }
      let s := match (if code = 0 then s.fs.map r.bank best.2 else none) with
        | some slot => s.formRead slot ecc
        | none => s
      { s with gl := { s.gl with choice := some { k := r.k, form := best.2, valid := valid, idle := code == 1 } } }

/-! ### SRAM faults (R183, Table 7.13) -/

/-- SOURCE of a bead bank (R4): group i / 64, bank i mod 64. -/
def bankSrc (i : Nat) : BitVec 28 := srcWord 12 (i / 64) 3 (i % 64)

def Dev.deUe (w : DeWord) (s : Dev) : Dev :=
  let s := (s.count F.DE_UE).event F.DE_EVT_UE
  match w with
  | .bead i o => (s.setBead i.toNat o.toNat 0).raise 0x0C03 1 (bankSrc i.toNat) o.toNat
  | .mirror b f i =>
    ({ s with de := { s.de with badMap := (b, f.toNat) :: s.de.badMap } }).raise 0x0C04 1 (bankSrc i.toNat) f.toNat
  | .elig b f => ({ s with de := { s.de with badMap := (b, f.toNat) :: s.de.badMap } }).raise 0x0C04 1 (srcWord 12) f.toNat
  | .meter sub v =>
    let m := 8 * sub.toNat + v.toNat
    ({ s with de := { s.de with meters := s.de.meters.set m (({} : Meter).open_ s.now (s.svcCfg sub.toNat v.toNat)) } }).raise
      0x0C05 1 (srcWord 12 (sub.toNat % 16) 4) sub.toNat

def Dev.deScrub (w : DeWord) (r : Ecc) (s : Dev) : Dev :=
  match r with
  | .ok | .checkFails => s
  | .corrected => s.count F.DE_CE
  | .uncorrectable => s.deUe w

/-! ### First use and plan changes (R179, R181) -/

/-- First-use state. -/
def Dev.deFirstUse (s : Dev) : Dev :=
  { s with de := { s.de with beads := [], age := [], rods := [], meters := [], queue := [], qNoted := [], held := [], drained := [],
                             run := none, t0 := s.now } }

/-- Counts of a meter cut to a service's bursts. -/
def Meter.cut (c : Svc) (m : Meter) : Meter :=
  { m with tc := BitVec.ofNat 40 (min m.tc.toNat (256 * c.cbs.toNat)), tp := BitVec.ofNat 40 (min m.tp.toNat (256 * c.pbs.toNat)) }

/-- One meter of a subscriber that a new table lists (R181): its counts as they stood, cut to the new bursts. One that no table has
listed yet stays as at first use. -/
def Meter.clamp (t0 : Nat) (old : Option Svc) (new : Svc) (m : Meter) : Meter :=
  let m := (old.map (fun c => m.open_ t0 c)).getD m
  if m.full then m else m.cut new

/-- The meters under a new table (R181); those of a subscriber that leaves keep their counts. -/
def Dev.meterClamp (old new : DemCfg) (s : Dev) : Dev :=
  let on (f : Nat → Meter → Meter) (s : Dev) (sub : Nat) : Dev := Dev.each (List.range 8) (fun s v =>
    { s with de := { s.de with meters := s.de.meters.mod (8 * sub + v) (f v) } }) s
  let s := Dev.each old.subs (fun s kc =>
    if (new.subs.look kc.1).isSome then s else on (fun v => Meter.open_ s.de.t0 (kc.2.svc.getD v {})) s kc.1) s
  Dev.each new.subs (fun s kc =>
    on (fun v => Meter.clamp s.de.t0 ((old.subs.look kc.1).map (·.svc.getD v {})) (kc.2.svc.getD v {})) s kc.1) s

/-- N_act of a plan (R181). -/
def Dev.deActivate (p : Plan) (s : Dev) : Dev :=
  let old := s.de.dem
  let s := { s with de := { s.de with
    beads := s.de.beads.filter (fun kb => decide (kb.1 / 1024 < p.nin) && decide (kb.1 % 1024 < p.nout)),
    age := s.de.age.filter (fun ka => decide (ka.1 < p.nin)),
    rods := s.de.rods.filter (fun kr => decide (kr.1 < p.nin)),
    dem := p.dem, nin := p.nin, nout := p.nout } }
  s.meterClamp old p.dem

/-! ### demand.tenant (R182, Table 11.7) -/

/-- One service's four fields of the request. -/
def tenantSvc (m : Mbx) (v : Nat) : Svc :=
  let f (o : Nat) : Word := BitVec.ofNat 32 (m.fld (8 + 16 * v + o) 4)
  { cir := f 0, pir := f 4, cbs := f 8, pbs := f 12 }

/-- The first field that R167 or the layout refuses, as a payload offset. -/
def tenantBad (m : Mbx) : Option Nat :=
  if 4096 ≤ m.fld 2 2 then some 2
  else if 4 ≤ m.fld 4 1 then some 4
  else if m.fld 0 1 = 0 ∧ bit (m.fld 4 1) 0 ∧ 1 < m.fld 6 1 then some 6
  else if m.fld 0 1 ≠ 0 then none
  else (bitsOf 8 (m.fld 5 1)).findSome? (fun v =>
    let c := tenantSvc m v
    if c.pir.toNat < c.cir.toNat then some (12 + 16 * v) else if c.cbs = 0 then some (16 + 16 * v)
    else if c.pbs = 0 then some (20 + 16 * v) else none)

/-- demand.tenant with its common checks. -/
def Dev.tenant (mb : Nat) (m : Mbx) (f : Nat → Dev → Dev) (s : Dev) : Dev :=
  match tenantBad m with
  | some o => s.range mb o
  | none => if s.on F.GL_STAT_PLAN then f (m.fld 2 2) s else s.refuse mb 0x0C02

/-- demand.tenant set (07 R182). A subscriber without a record has SW, CIR, PIR, CBS and PBS 0, and a set of EN alone leaves them so,
with no check (DESIGN CHOICE, log 102). -/
def Dev.tenantSet (mb : Nat) (m : Mbx) (sub : Nat) (s : Dev) : Dev :=
  let old := s.de.dem.subs.get sub
  let fl := m.fld 4 1
  let mask := m.fld 5 1
  let svc := (List.range 8).map (fun v => if bit mask v then tenantSvc m v else old.svc.getD v {})
  let new : SubCfg := { en := if bit fl 0 then m.fld 6 1 == 1 else old.en,
                        sw := if bit fl 1 then BitVec.ofNat 8 (m.fld 7 1) else old.sw, svc := svc }
  let s := Dev.each (bitsOf 8 mask) (fun s v =>
    let x := (s.de.meters.get (8 * sub + v)).open_ s.de.t0 (old.svc.getD v {})
    { s with de := { s.de with meters := s.de.meters.set (8 * sub + v) (x.cut (tenantSvc m v)) } }) s
  ({ s with de := { s.de with dem := { s.de.dem with subs := s.de.dem.subs.set sub new } } }).ok mb []

def Dev.tenantRead (mb : Nat) (sub : Nat) (s : Dev) : Dev :=
  let c := s.de.dem.subs.get sub
  s.ok mb ([if c.en then 1 else 0, c.sw] ++ zeros 6 ++ toLe 8 s.now ++ (List.range 8).flatMap (fun v =>
    let k := c.svc.getD v {}
    let m := (s.de.meters.get (8 * sub + v)).open_ s.de.t0 k
    toLe 4 k.cir.toNat ++ toLe 4 k.pir.toNat ++ toLe 4 k.cbs.toNat ++ toLe 4 k.pbs.toNat ++ toLe 8 m.tc.toNat ++
    toLe 8 m.tp.toNat ++ toLe 8 m.green.toNat ++ toLe 8 m.yellow.toNat ++ toLe 8 m.red.toNat ++ zeros 8))

def Dev.tenantClear (mb : Nat) (m : Mbx) (sub : Nat) (s : Dev) : Dev :=
  (Dev.each (bitsOf 8 (m.fld 5 1)) (fun s v =>
    { s with de := { s.de with meters := s.de.meters.mod (8 * sub + v) (fun x => { x with green := 0, yellow := 0, red := 0 }) } }) s).ok mb []

/-! ### The commands -/

def execChooserStart (s : State) : Host.Outcome State Fault Refusal := s.onDev Dev.chooserStart
def execUpdatesReleased (s : State) : Host.Outcome State Fault Refusal := s.onDev Dev.release
def execChooserResult (sram : Bool) (r : Ecc) (s : State) : Host.Outcome State Fault Refusal :=
  s.onDev (Dev.chooserResult sram r)
def execReport (p : Port) (f : RxFrame) (pdu : List Byte) (s : State) : Host.Outcome State Fault Refusal :=
  s.onDev (Dev.frameRx p f 0x88B5 pdu)
def execRpFrameRx (p : Port) (f : RxFrame) (etype : BitVec 16) (pdu : List Byte) (s : State) :
    Host.Outcome State Fault Refusal := s.onDev (Dev.frameRx p f etype.toNat pdu)
def execMeterEntry (g : BitVec 4) (s : State) : Host.Outcome State Fault Refusal := s.onDev (Dev.meterEntry g.toNat)
def execRodStale (rod : BitVec 10) (s : State) : Host.Outcome State Fault Refusal := s.onDev (Dev.rodStale rod.toNat)
def execPortDown (p : Port) (s : State) : Host.Outcome State Fault Refusal := s.onDev (Dev.portDown p)
def execPortUp (p : Port) (s : State) : Host.Outcome State Fault Refusal := s.onDev (Dev.portUp p)
def execDeScrub (w : DeWord) (r : Ecc) (s : State) : Host.Outcome State Fault Refusal := s.onDev (Dev.deScrub w r)
def execDemandTenantSet (mb : BitVec 3) (s : State) : Host.Outcome State Fault Refusal :=
  s.onDev (Dev.ecs mb.toNat 0x0901 (some 0) (fun k m => Dev.tenant k m (Dev.tenantSet k m)))
def execDemandTenantRead (mb : BitVec 3) (s : State) : Host.Outcome State Fault Refusal :=
  s.onDev (Dev.ecs mb.toNat 0x0901 (some 1) (fun k m => Dev.tenant k m (Dev.tenantRead k)))
def execDemandTenantClear (mb : BitVec 3) (s : State) : Host.Outcome State Fault Refusal :=
  s.onDev (Dev.ecs mb.toNat 0x0901 (some 2) (fun k m => Dev.tenant k m (Dev.tenantClear k m)))

end Sys2Proof.Machine
end

