-- ==== Sys2Proof/Machine/Nv.lean ====
section
/-!
DEFINITION. The record store on the NV die (09 R229 to R236): pages, copies and their resolution, the journal, the write
procedure page by page, recovery, trips, and the nv.record command.
-/
namespace Sys2Proof.Machine

/-! ### Pages -/

/-- The first n bytes of a page or span; what nothing has programmed reads erased (log 5). -/
def nvFit (n : Nat) (l : List Byte) : List Byte := (l ++ List.replicate n 0xFF).take n

def Dev.nvPage (s : Dev) (p : Nat) : List Byte := s.nv.pages.get p

def Dev.setPage (s : Dev) (p : Nat) (l : List Byte) : Dev :=
  ({ s with nv := { s.nv with pages := s.nv.pages.set p l } }).bmWipe 4

/-- A page is erased: its count, the highest count, and the wear note (Table 9.12). -/
def Dev.erasePage (s : Dev) (p : Nat) : Dev :=
  let w := s.nv.wear.get p + 1
  let s := ({ s with nv := { s.nv with pages := s.nv.pages.set p [], wear := s.nv.wear.set p w } }).bmWipe 4
  let s := s.wr F.NV_WEAR_MAX (max (s.rd F.NV_WEAR_MAX) w)
  Dev.when (decide (90000 < w)) (·.event F.NV_EVT_WEAR) s

/-- What an abandoned erase or program leaves in a page is not stated: 4,096 free bytes (log 3). -/
def Dev.tearPage (s : Dev) (p : Nat) : Dev :=
  let l := (List.range 512).flatMap (fun i => toLe 8 (Config.freeValue (s.freeCtr + i)).toNat)
  { s.setPage p l with freeCtr := s.freeCtr + 512 }

/-! ### Slots (Tables 9.6, 9.7) -/

/-- The slot number this model gives IDENT, past both record areas. -/
def identSlot : Nat := 7616

/-- TYPE of a slot. -/
def slotType (o : Nat) : Nat :=
  if o = identSlot then 0x0001 else if o < 4 then 0x0010 + o else if o < 132 then 0x0014 else if o < 196 then 0x0020
  else if o < 260 then 0x0100 + (o - 196) else 0x0030

/-- Pages of a slot. -/
def slotPages (o : Nat) : Nat := if o = 1472 then 6144 else 1

/-- The page of a copy's first page (R229). -/
def slotPage (o : Nat) (copyB : Bool) : Nat :=
  if o = identSlot then (if copyB then 1028 else 1024) else (if copyB then 8768 else 1152) + o

/-- Every slot, in the order of LIST. -/
def nvSlots : List Nat := identSlot :: (List.range 260 ++ [1472])

/-! ### Copies (R230) -/

/-- What an intact copy holds: every byte of Table 9.8 but COPY and the checks that follow from the rest. -/
structure Copy where
  flags : Byte := 0
  key : Nat := 0
  gen : Nat := 0
  stamp : Nat := 0
  pad : List Byte := zeros 24
  payload : List Byte := []
  deriving DecidableEq, Repr, Inhabited

/-- The bytes of a copy (Table 9.8). -/
def copyBytes (ty : Nat) (b : Bool) (c : Copy) : List Byte :=
  let h := [0x57, 0x58, 0x52, 0x43] ++ toLe 2 ty ++ [if b then 1 else 0, c.flags] ++ toLe 8 c.key ++
    toLe 4 c.gen ++ toLe 8 c.stamp ++ toLe 4 c.payload.length ++ toLe 4 (crc32c c.payload) ++ c.pad
  h ++ toLe 4 (crc32c h) ++ c.payload

/-- n bytes from a page on. -/
def Dev.nvSpan (s : Dev) (p n : Nat) : List Byte :=
  ((List.range ((n + 4095) / 4096)).flatMap (fun i => nvFit 4096 (s.nvPage (p + i)))).take n

/-- A slot's copy, when it is intact. -/
def Dev.nvCopy (s : Dev) (o : Nat) (b : Bool) : Option Copy :=
  let p := slotPage o b
  let h := nvFit 64 (s.nvPage p)
  let len := leAt h 28 4
  if leAt h 0 4 = 0x43525857 ∧ leAt h 60 4 = crc32c (h.take 60) ∧ byteAt h 6 = (if b then 1 else 0) ∧ leAt h 4 2 = slotType o ∧
      len + 64 ≤ 4096 * slotPages o then
    let pl := (s.nvSpan p (64 + len)).drop 64
    if crc32c pl = leAt h 32 4 then
      some { flags := BitVec.ofNat 8 (byteAt h 7), key := leAt h 8 8, gen := leAt h 16 4, stamp := leAt h 20 8,
             pad := (h.drop 36).take 24, payload := pl }
    else none
  else none

/-- A copy's first page is erased: with both so, the slot holds no record (log 30). -/
def Dev.nvBlank (s : Dev) (o : Nat) (b : Bool) : Bool := (s.nvPage (slotPage o b)).all (· == 0xFF)

/-- The winner of two copies (R233); byte-identical is read beside COPY and HCRC, which always differ (log 30). -/
def pickCopy (a b : Option Copy) : Option Copy :=
  match a, b with
  | none, b => b
  | a, none => a
  | some x, some y =>
    if x = y then some x
    else if x.gen ≠ y.gen then (if x.gen < y.gen then some y else some x)
    else if x.stamp < y.stamp then some y else some x

def Dev.nvWin (s : Dev) (o : Nat) : Option Copy := pickCopy (s.nvCopy o false) (s.nvCopy o true)

/-! ### The journal (R232) -/

/-- Append an entry: STATE, TYPE, slot, KEY, GEN. The page ahead is erased as the position enters a page. -/
def Dev.journalPut (s : Dev) (st ty slot key gen : Nat) : Dev :=
  let q := s.rd F.NV_JSEQ + 1
  let e := toLe 4 q ++ [BitVec.ofNat 8 st, 0] ++ toLe 2 ty ++ toLe 2 slot ++ zeros 2 ++ toLe 8 key ++ toLe 4 gen ++ zeros 4
  let e := e ++ toLe 4 (crc32c e)
  let p := 1032 + s.nv.jpos / 128
  let old := nvFit (32 * (s.nv.jpos % 128)) (s.nvPage p)
  let s := Dev.when (s.nv.jpos % 128 == 0) (·.erasePage (1032 + (s.nv.jpos / 128 + 1) % 64)) s
  let s := (s.setPage p (old ++ e)).wr F.NV_JSEQ q
  { s with nv := { s.nv with jpos := (s.nv.jpos + 1) % 8192 } }

/-- An entry is appended, but after a trip, when no new operation begins (R235). -/
def Dev.journal (s : Dev) (st ty slot key gen : Nat) : Dev :=
  if s.nv.tripped then s else s.journalPut st ty slot key gen

/-- The entries of a journal page: number, state, slot (R232; IDENT by its type). -/
def jEntries (l : List Byte) : List (Nat × Nat × Nat) :=
  (List.range 128).filterMap (fun i =>
    let e := ((nvFit 4096 l).drop (32 * i)).take 32
    if leAt e 28 4 = crc32c (e.take 28) then some (leAt e 0 4, byteAt e 4, if leAt e 6 2 = 1 then identSlot else leAt e 8 2) else none)

/-- Every entry of the journal. -/
def Dev.jAll (s : Dev) : List (Nat × Nat × Nat) :=
  (s.nv.pages.filter (fun p => decide (1032 ≤ p.1) && decide (p.1 < 1096))).flatMap (fun p => jEntries p.2)

/-- Slots whose latest entry is not COMMIT. -/
def Dev.nvOpenSlots (s : Dev) : List Nat :=
  let l := s.jAll
  (l.filter (fun e => e.2.1 != 3 && l.all (fun x => x.2.2 != e.2.2 || decide (x.1 ≤ e.1)))).map (·.2.2)

/-! ### Resolution (R233, R234) -/

/-- Write a whole copy at once (a repair). -/
def Dev.putCopy (s : Dev) (o : Nat) (b : Bool) (c : Copy) : Dev :=
  let l := copyBytes (slotType o) b c
  Dev.each (List.range ((l.length + 4095) / 4096))
    (fun s i => (s.erasePage (slotPage o b + i)).setPage (slotPage o b + i) ((l.drop (4096 * i)).take 4096)) s

/-- A losing copy is rewritten from the winner, and COMMIT journalled; after a trip no new operation begins (R235). -/
def Dev.repair (s : Dev) (o : Nat) (b : Bool) (c : Copy) : Dev :=
  if s.nv.tripped then s
  else
  let s := ((s.putCopy o b c).count F.NV_REPAIRS).event F.NV_EVT_REPAIR
  s.journal 3 (slotType o) (if o = identSlot then 0 else o) c.key c.gen

/-- An NV line, which the stewards raise (R298). -/
def Dev.nvLine (s : Dev) (code sev info : Nat) : Dev := s.raise code sev (srcWord 16) info false

/-- Resolve a slot's two copies, with the notes of R233, and repair the loser. A slot whose copies are both erased holds
no record and is no loss, but for IDENT. -/
def Dev.resolve2 (s : Dev) (o : Nat) : Dev :=
  let a := s.nvCopy o false
  let b := s.nvCopy o true
  let ty := slotType o
  match a, b with
  | none, none =>
    if s.nvBlank o false && s.nvBlank o true && o != identSlot then s
    else
      let s := (s.count F.NV_CRC_FAIL 2).event F.NV_EVT_LOST
      if o = identSlot then s.nvLine 0x1001 2 0 else s.nvLine 0x1002 1 ty
  | some x, none => ((((s.count F.NV_CRC_FAIL).event F.NV_EVT_TORN).nvLine 0x1003 0 ty)).repair o true x
  | none, some y => ((((s.count F.NV_CRC_FAIL).event F.NV_EVT_TORN).nvLine 0x1003 0 ty)).repair o false y
  | some x, some y =>
    if x = y then s
    else
      let s := (s.event F.NV_EVT_DIFFER).nvLine 0x1004 0 ty
      if pickCopy a b = a then s.repair o true x else s.repair o false y

/-- The slot under the write in progress. -/
def Dev.nvBusySlot (s : Dev) (o : Nat) : Bool := match s.nv.cur with
  | some c => c.slot == o
  | none => false

/-- Both copies are checked on a read, and repaired, but for the slot being written. -/
def Dev.nvCheck (s : Dev) (o : Nat) : Dev := if s.nvBusySlot o then s else s.resolve2 o

/-- Every record is read (R234). -/
def Dev.nvScanAll (s : Dev) : Dev := Dev.each nvSlots (fun s o => s.nvCheck o) s

/-! ### Writes (R231, R232) -/

def Dev.nvDepth (s : Dev) : Dev :=
  (s.wr F.NV_STAT_QDEPTH (min 255 s.nv.queue.length)).wrB F.NV_STAT_BUSY s.nv.cur.isSome

/-- Queue a write. -/
def Dev.nvQueue (s : Dev) (r : NvReq) : Dev := ({ s with nv := { s.nv with queue := s.nv.queue ++ [r] } }).nvDepth

/-- The slot of a record: that of its type; of CAL_TAP the slot of its key, else a free one, else the one whose winner is
oldest (R231), which is then evicted. -/
def Dev.nvSlotFor (s : Dev) (ty key : Nat) : Nat × Bool :=
  if ty = 0x0001 then (identSlot, false)
  else if ty = 0x0014 then
    let w := (List.range 128).map (fun i => (4 + i, s.nvWin (4 + i)))
    match w.find? (fun x => (x.2.map (·.key)) == some key) with
    | some x => (x.1, false)
    | none =>
      match w.find? (fun x => x.2.isNone) with
      | some x => (x.1, false)
      | none => ((w.foldl (fun (a : Nat × Nat) x => match x.2 with
          | some c => if c.stamp < a.2 then (x.1, c.stamp) else a
          | none => a) (4, 2 ^ 64)).1, true)
  else if ty = 0x0020 then (132 + key % 64, false)
  else if ty = 0x0030 then (1472, false)
  else if 0x0100 ≤ ty then (196 + (ty - 0x0100), false)
  else (ty - 0x0010, false)

/-- The sequence number of the next SHUTDOWN record: one past the highest kept. -/
def Dev.nextShut (s : Dev) : Nat :=
  (List.range 64).foldl (fun a i => match s.nvWin (132 + i) with
    | some c => max a (c.key + 1)
    | none => a) 0

/-- A record write or erase ends. -/
def Dev.nvEnd (s : Dev) (q : NvReq) (good : Bool) (gen : Nat) : Dev :=
  let s := ({ s with nv := { s.nv with cur := none } }).nvDepth
  match q.mb with
  | some mb =>
    if q.cal then
      if good then s.ok mb q.resp
      else
        let s := ((s.wr F.CAL_STAT_LASTCODE 7).wr F.CAL_STAT_KIND q.run.1).wr F.CAL_STAT_TARGET q.run.2
        ((s.count F.CAL_FAILS).event F.CAL_EVT_FAIL).finish mb 0 7 0xFFFFFFFF q.resp
    else if !good then s.refuse mb 0
    else if q.erase then s.ok mb [] else s.ok mb (toLe 4 gen)
  | none => s

/-- The stewards take the next queued write (R232): OPEN is journalled, and the first page is erased. -/
def Dev.nvStart (s : Dev) : Dev :=
  match s.nv.cur, s.nv.queue with
  | none, q :: rest =>
    if s.nv.tripped || !s.on F.NV_STAT_RECOVERED || s.rd F.HIF_ST_STAT_STATE != 2 then s
    else
      let s := { s with nv := { s.nv with queue := rest } }
      let key := q.key
      let sl := s.nvSlotFor q.ty key
      let held := (s.nvWin sl.1).filter (fun c => c.key == key)
      let q := if q.refresh then { q with payload := (held.map (·.payload)).getD [] } else q
      let gens := [s.nvCopy sl.1 false, s.nvCopy sl.1 true].filterMap (Option.map (·.gen))
      let g := 1 + gens.foldl max 0
      if (q.erase || q.refresh) && held.isNone then s.nvEnd q false 0
      else if q.erase then
        (({ s with nv := { s.nv with cur := some { req := q, slot := sl.1, copyB := true } } }).nvDepth)
      else if g = 0xFFFFFFFF then s.nvEnd q false 0
      else
        let s := Dev.when sl.2 (·.nvLine 0x1005 0 sl.1) s
        let st := s.rd F.TB_STAT_STATE
        let c : NvCur := { req := q, slot := sl.1, gen := g, stamp := s.now, tvalid := st == 2 || st == 3 || st == 4 }
        (({ s with nv := { s.nv with cur := some c } }).journal 1 q.ty (if sl.1 = identSlot then 0 else sl.1) key g).nvDepth
  | _, _ => s

/-- The bytes of the copy under way. -/
def NvCur.bytes (c : NvCur) : List Byte :=
  copyBytes (slotType c.slot) c.copyB { flags := if c.tvalid then 1 else 0, key := c.req.key, gen := c.gen, stamp := c.stamp, payload := c.req.payload }

/-- Pages the copy takes. -/
def NvCur.pages (c : NvCur) : Nat := (64 + c.req.payload.length + 4095) / 4096

/-- An erase or program of the write in progress ends; verify says that the copy read back matches. -/
def Dev.nvPageDone (verify : Bool) (s : Dev) : Dev :=
  match s.nv.cur with
  | none => s
  | some c =>
    let p := slotPage c.slot c.copyB + c.page
    let goOn (s : Dev) (c : NvCur) : Dev := { s with nv := { s.nv with cur := some c } }
    let jslot := if c.slot = identSlot then 0 else c.slot
    if c.req.erase then
      let s := s.erasePage p
      if c.copyB then goOn s { c with copyB := false } else s.nvEnd c.req true 0
    else if c.erasing then goOn (s.erasePage p) { c with erasing := false }
    else
      let s := s.setPage p ((c.bytes.drop (4096 * c.page)).take 4096)
      if s.nv.tripped then ({ s with nv := { s.nv with cur := none } }).nvDepth
      else if c.page + 1 < c.pages then goOn s { c with page := c.page + 1, erasing := true }
      else if !verify then s.nvEnd c.req false 0
      else if c.copyB then
        ((s.journal 3 c.req.ty jslot c.req.key c.gen).count F.NV_WRITES).nvEnd c.req true c.gen
      else goOn (s.journal 2 c.req.ty jslot c.req.key c.gen) { c with copyB := true, page := 0, erasing := true }

/-! ### Trip and steward restart (R235, R236) -/

/-- The operation in progress is abandoned; what its page then holds is free. -/
def Dev.nvAbandon (s : Dev) : Dev :=
  match s.nv.cur with
  | some c => ((({ s with nv := { s.nv with cur := none } }).tearPage (slotPage c.slot c.copyB + c.page))).nvDepth
  | none => s

/-- A thermal trip, left microseconds before the program in progress would end: an erase is abandoned, and a program that would not
end within 2 ms; queued writes are discarded (R235). -/
def Dev.nvTrip (left : Nat) (s : Dev) : Dev :=
  let er := match s.nv.cur with
    | some c => c.erasing || c.req.erase || decide (2000 < left)
    | none => false
  let n := s.nv.queue.length + (if er then 1 else 0)
  let s := if er then s.nvAbandon else s
  let s := { s with nv := { s.nv with tripped := true, aborted := s.nv.aborted + n, queue := [] } }
  Dev.when (decide (0 < n)) (·.event F.NV_EVT_TRIP_ABORT) s.nvDepth

/-- The recovery of R233: every slot is resolved, a slot whose latest journal entry is not COMMIT gets its COMMIT, and RECOVERED is
set; NV_JSEQ and NV_WEAR_MAX follow the die. -/
def Dev.nvRecover (s : Dev) : Dev :=
  let s := if s.rd F.NV_JSEQ = 0 then s.wr F.NV_JSEQ (s.jAll.foldl (fun a e => max a e.1) 0) else s
  let s := s.wr F.NV_WEAR_MAX (s.nv.wear.foldl (fun a x => max a x.2) 0)
  let s := s.nvScanAll
  let s := Dev.each s.nvOpenSlots (fun s o => match s.nvWin o with
    | some c => s.journal 3 (slotType o) (if o = identSlot then 0 else o) c.key c.gen
    | none => s) s
  Dev.when (!s.nv.tripped) (·.wrB F.NV_STAT_RECOVERED true) s

/-- The stewards write a record of both copies to the end, with its journal entries (14 R329, R232). -/
def Dev.nvWriteNow (s : Dev) (ty key : Nat) (payload : List Byte) : Dev :=
  let o := (s.nvSlotFor ty key).1
  let g := 1 + ([s.nvCopy o false, s.nvCopy o true].filterMap (Option.map (·.gen))).foldl max 0
  let st := s.rd F.TB_STAT_STATE
  let c : Copy := { flags := if st == 2 || st == 3 || st == 4 then 1 else 0, key := key, gen := g, stamp := s.now, payload := payload }
  let s := ((s.journal 1 ty o key g).putCopy o false c).journal 2 ty o key g
  ((s.putCopy o true c).journal 3 ty o key g).count F.NV_WRITES

/-- A pending shut-down record goes into the next SHUTDOWN slot, and PENDING clears (R235). -/
def Dev.shutCommit (s : Dev) : Dev :=
  match s.nv.aon with
  | some l =>
    if s.nv.tripped then s
    else
      let s := s.nvWriteNow 0x0020 s.nextShut l
      ({ s with nv := { s.nv with aon := none } }).wrB F.NV_STAT_AON_PENDING false
  | none => s

/-- Every 24 hours every record is read; every NV_REFRESH_DAYS days those older than that interval are rewritten, with the content they
have when the write begins (R234). -/
def Dev.nvScan (s : Dev) : Dev :=
  let s := s.nvScanAll
  let every := s.rd F.NV_REFRESH_DAYS
  if s.nv.days + 1 < every then { s with nv := { s.nv with days := s.nv.days + 1 } }
  else
    Dev.each nvSlots (fun s o => match s.nvWin o with
      | some c =>
        if c.stamp + every * 86400000000 < s.now then s.nvQueue { ty := slotType o, key := c.key, refresh := true } else s
      | none => s) { s with nv := { s.nv with days := 0 } }

/-! ### nv.record (R236, Table 11.7) -/

def Mbx.nvTy (m : Mbx) : Nat := m.fld 2 2
def Mbx.nvKey (m : Mbx) : Nat := m.fld 4 8

def Dev.nvList (mb : Nat) (m : Mbx) (s : Dev) : Dev :=
  let s := s.nvScanAll
  let all := nvSlots.filterMap (fun o => (s.nvWin o).map (fun c => (slotType o, c)))
  let pick := (all.drop (m.fld 12 4)).take 145
  s.ok mb (toLe 2 pick.length ++ toLe 2 all.length ++ zeros 4 ++ pick.flatMap (fun x =>
    toLe 2 x.1 ++ zeros 2 ++ toLe 8 x.2.key ++ toLe 4 x.2.gen ++ toLe 8 x.2.stamp ++ toLe 4 x.2.payload.length))

/-- A type of Table 9.9. -/
def nvTypeOk (t : Nat) : Bool :=
  t == 1 || (decide (0x10 ≤ t) && decide (t ≤ 0x14)) || t == 0x20 || t == 0x30 || (decide (0x100 ≤ t) && decide (t ≤ 0x13F))

/-- READ. A record that is not kept is refused with no code (log 31). -/
def Dev.nvRead (mb : Nat) (m : Mbx) (s : Dev) : Dev :=
  if !nvTypeOk m.nvTy then s.range mb 2
  else if 4032 < m.fld 16 4 then s.range mb 16
  else
    let o := (s.nvSlotFor m.nvTy m.nvKey).1
    let s := s.nvCheck o
    match (s.nvWin o).filter (fun c => c.key == m.nvKey) with
    | some c =>
      if c.payload.length < m.fld 12 4 then s.range mb 12
      else s.ok mb (toLe 4 c.payload.length ++ zeros 4 ++ (c.payload.drop (m.fld 12 4)).take (m.fld 16 4))
    | none => s.refuse mb 0

/-- WRITE of PLAN or USER: the data come from host memory, or the read fails (BUS). -/
def Dev.nvWrite (mb : Nat) (m : Mbx) (data : Option (List Byte)) (s : Dev) : Dev :=
  let t := m.nvTy
  let len := m.fld 16 4
  let user := decide (0x100 ≤ t) && decide (t ≤ 0x13F)
  if !nvTypeOk t then s.range mb 2
  else if (t = 0x30 ∧ m.nvKey ≠ 0) then s.range mb 4
  else if (t = 0x30 ∧ 0x017FFFC0 < len) ∨ (user ∧ 4032 < len) then s.range mb 16
  else if m.fld 20 8 % 64 ≠ 0 then s.range mb 20
  else if !(t == 0x30 || user) then s.refuse mb 0
  else
    match data with
    | some l => ((s.take mb).send (.hostRead (BitVec.ofNat 64 (m.fld 20 8)) len)).nvQueue
        { mb := some mb, ty := t, key := m.nvKey, payload := fit len l }
    | none => s.refuse mb 0x0C03

/-- ERASE of a USER record: one that is not kept when its turn comes is refused (log 31). -/
def Dev.nvErase (mb : Nat) (m : Mbx) (s : Dev) : Dev :=
  let t := m.nvTy
  if !nvTypeOk t then s.range mb 2
  else if t < 0x100 then s.refuse mb 0
  else (s.take mb).nvQueue { mb := some mb, ty := t, key := m.nvKey, erase := true }

/-! ### The commands -/

def execNvRecordList (mb : BitVec 3) (s : State) : Host.Outcome State Fault Refusal :=
  s.onDev (Dev.ecs mb.toNat 0x0701 (some 0) Dev.nvList)
def execNvRecordRead (mb : BitVec 3) (s : State) : Host.Outcome State Fault Refusal :=
  s.onDev (Dev.ecs mb.toNat 0x0701 (some 1) Dev.nvRead)
def execNvRecordWrite (mb : BitVec 3) (data : Option (List Byte)) (s : State) : Host.Outcome State Fault Refusal :=
  s.onDev (Dev.ecs mb.toNat 0x0701 (some 2) (fun k m => Dev.nvWrite k m data))
def execNvRecordErase (mb : BitVec 3) (s : State) : Host.Outcome State Fault Refusal :=
  s.onDev (Dev.ecs mb.toNat 0x0701 (some 3) Dev.nvErase)
def execNvWriteStart (s : State) : Host.Outcome State Fault Refusal := s.onDev Dev.nvStart
def execNvPageOpDone (verify : Bool) (s : State) : Host.Outcome State Fault Refusal := s.onDev (Dev.nvPageDone verify)
/-- The 24-hour scan, while the stewards run (R234). -/
def execNvRecordScan (s : State) : Host.Outcome State Fault Refusal :=
  s.onDev (fun d => if d.rd F.HIF_ST_STAT_STATE = 2 ∧ d.on F.NV_STAT_RECOVERED then d.nvScan else d)

end Sys2Proof.Machine
end

