-- ==== Sys2Proof/Machine/Cal.lean ====
section
/-!
DEFINITION. Calibration runs (09 R213 to R219), stints (R220 to R224), injections (R225, R226) and captures (R227, R228):
their requests, ends, results and registers.
-/
namespace Sys2Proof.Machine

/-- An injection whose last frame has been computed. -/
def Inj.over (j : Inj) (frame : Nat) : Bool := decide (j.s0 + j.ns ≤ frame + 1)

/-- CAL_STAT as runs, stints, injections and captures stand. -/
def Dev.calStat (s : Dev) : Dev :=
  let n := (s.cal.runs.filter (!·.ended)).length
  let j := ((s.cal.inj.filterMap (·.2)).filter (!·.stopped)).length
  ((((s.wr F.CAL_STAT_NRUN n).wrB F.CAL_STAT_BUSY (n != 0)).wr F.CAL_STAT_NSTINT (min 15 s.cal.stints.length)).wr
    F.CAL_STAT_NINJ j).wrB F.CAL_STAT_CAPTURE (!s.cal.caps.isEmpty)

/-! ### Runs -/

/-- Remove a run, or leave its stale window to the next opening (R218, R219). -/
def Dev.dropRun (s : Dev) (r : CalRun) : Dev :=
  let off (x : CalRun) : CalRun := if x.target = r.target ∧ x.kind = r.kind then { x with ended := true } else x
  let runs := if r.kind = 4 then s.cal.runs.map off
    else s.cal.runs.filter (fun x => !(x.target == r.target && x.kind == r.kind && !x.ended))
  { s with cal := { s.cal with runs := runs } }

/-- What a run's end undoes: the lane's sense copies serve again (R215), a lane retrains (R216). -/
def Dev.runRelease (s : Dev) (r : CalRun) : Dev :=
  if r.kind = 1 then s.modLane r.target (fun x => { x with calHold := false })
  else if r.kind = 2 ∧ r.target < 128 then s.toDetect r.target
  else s

/-- CAL_STAT.TARGET of a run. -/
def CalRun.shown (r : CalRun) : Nat := if r.kind = 3 then 0 else if r.kind = 4 then r.target - 256 else r.target

/-- A run ends with a result code (R219): registers, events, counters. -/
def Dev.runOver (s : Dev) (r : CalRun) (code : Nat) : Dev :=
  let s := ((s.dropRun r).runRelease r).calStat
  let s := ((s.wr F.CAL_STAT_LASTCODE code).wr F.CAL_STAT_KIND r.kind).wr F.CAL_STAT_TARGET r.shown
  let s := (s.count F.CAL_RUNS).event F.CAL_EVT_DONE
  Dev.when (code != 0) (fun s => (s.count F.CAL_FAILS).event F.CAL_EVT_FAIL) s

/-- A run fails: nothing takes effect; one that ends ABORTED resets the calibration sequencer's bus master (12 R296). -/
def Dev.runFail (code : Nat) (s : Dev) (r : CalRun) : Dev :=
  let s := (s.runOver r code).refuse r.mb code
  if code = 3 then s.masterReset 4 else s

/-- Every run that p picks ends ABORTED. -/
def Dev.abortRuns (p : CalRun → Bool) (s : Dev) : Dev :=
  Dev.each (s.cal.runs.filter (fun r => p r && !r.ended)) (Dev.runFail 3) s

/-- Another run acts on the target (R213). -/
def Dev.runOn (s : Dev) (key : Nat) : Bool := s.cal.runs.any (fun r => r.target == key && !r.ended)

def otherLane (l : Nat) : Nat := 2 * (l / 2) + (1 - l % 2)

def Mbx.calTarget (m : Mbx) : Nat := m.fld 2 2

/-- Request fields every kind has: reserved flag bits and STEP (Table 11.7). -/
def calBad (m : Mbx) : Option Nat :=
  if 3 < m.fld 1 1 then some 1 else if 1 < m.fld 4 1 then some 4 else none

/-- The common part of cal.run: a bad field, a missing precondition, a target taken, or the run starts. -/
def Dev.calStart (mb : Nat) (m : Mbx) (bad : Option Nat) (ready : Bool) (key kind : Nat) (f : Dev → Dev) (s : Dev) : Dev :=
  match (calBad m).or bad with
  | some o => s.range mb o
  | none =>
    if !ready then s.refuse mb 2
    else if s.runOn key then s.refuse mb 5
    else
      let r : CalRun := { mb := mb, kind := kind, target := key, store := bit (m.fld 1 1) 0,
                          asym := if bit (m.fld 1 1) 1 then some (BitVec.ofNat 16 (m.fld 18 2)) else none,
                          ref := m.fld 4 1 == 1, first := m.fld 6 2, count := m.fld 8 2, nsamp := m.fld 12 4,
                          x := BitVec.ofNat 16 (m.fld 16 2) }
      let s := s.take mb
      (f { s with cal := { s.cal with runs := s.cal.runs ++ [r] } }).calStat

/-- A precondition of Table 9.1 holds for a run's target. -/
def Dev.calReady (s : Dev) (kind key : Nat) : Bool :=
  match kind with
  | 1 => s.laneActive (otherLane key) || s.rd (F.VL_LSTAT_STATE key) == 2
  | 2 => if key < 128 then s.laneActive (otherLane key)
    else s.on (rpFld (if key = 128 then .rpb else .rpa) F.RPA_STAT_LINK)
  | 4 => (s.boundId (key - 256)).isSome
  | _ => true

/-- LANE (R215). -/
def Dev.calLane (mb : Nat) (m : Mbx) (s : Dev) : Dev :=
  let l := m.calTarget
  s.calStart mb m (if 127 < l then some 2 else none) (s.calReady 1 l) l 1
    (fun s => if s.laneActive l then s.modLane l (fun x => { x with calHold := true, doubt := none }) else s)

/-- TSDLY (R216). -/
def Dev.calTsdly (mb : Nat) (m : Mbx) (s : Dev) : Dev :=
  let t := m.calTarget
  s.calStart mb m (if 129 < t then some 2 else none) (s.calReady 2 t) t 2 (fun s =>
    if t < 128 then (s.wr (F.VL_LSTAT_CAUSE t) 12).laneLeave t 0
    else if t = 128 then ({ s with tb := { s.tb with pa := { s.tb.pa with pend := none } } }).portDown .rpa
    else ({ s with tb := { s.tb with pb := { s.tb.pb with pend := none } } }).portDown .rpb)

/-- ISENSE (R217). -/
def Dev.calIsense (mb : Nat) (m : Mbx) (s : Dev) : Dev := s.calStart mb m none true 130 3 id

/-- A power of two from 16 to 65,536. -/
def nsampOk (n : Nat) : Bool := (List.range 13).any (fun i => n == 2 ^ (i + 4))

/-- TAP (R218). -/
def Dev.calTap (mb : Nat) (m : Mbx) (s : Dev) : Dev :=
  let v := m.calTarget
  let bad := if 63 < v then some 2 else if m.fld 8 2 = 0 ∨ 512 < m.fld 6 2 + m.fld 8 2 then some 8
    else if !nsampOk (m.fld 12 4) then some 12 else none
  s.calStart mb m bad (s.calReady 4 (256 + v)) (256 + v) 4 id

/-! ### The end of a run (R214) -/

/-- A tap channel is measured: two measurements agree, or three are done. -/
def tapDone (ms : List Int) : Bool :=
  decide (3 ≤ ms.length) || (decide (2 ≤ ms.length) && decide ((ms.getD 0 0 - ms.getD 1 0).natAbs ≤ 64))

/-- A raw code in a tap channel's measurement (R218): the codes summed and counted, the measurements done in 1/16 code. -/
def tapTake (nsamp code : Nat) (a : Nat × Nat × List Int) : Nat × Nat × List Int :=
  if tapDone a.2.2 then a
  else if a.2.1 + 1 < nsamp then (a.1 + code, a.2.1 + 1, a.2.2)
  else (0, 0, a.2.2 ++ [rne (16 * ((a.1 + code : Nat) : Int)) nsamp.log2])

/-- The agreed values of a run (R214), AGREE, or none while it measures: of a TAP run those of the codes it has taken; of an ISENSE
run the means of 64 conversions each, whose sums the operands are (R217); else those of the operands. -/
def CalRun.agreed (r : CalRun) (ms : List Meas) : Option (Option (List Int)) :=
  match r.kind with
  | 1 => agreeAll laneTols ms
  | 2 => agreeAll [64, 64] ms
  | 3 => agreeAll (List.replicate 32 2) (ms.map (fun m => ⟨rne m.m1 6, rne m.m2 6, rne m.m3 6⟩))
  | _ =>
    let l := ((List.range r.count).map (fun i => (r.acc.get i).2.2)).filter tapDone
    match agreeAll (List.replicate l.length 64) (l.map (fun x => ⟨x.getD 0 0, x.getD 1 0, x.getD 2 0⟩)) with
    | some none => some none
    | a => if l.length = r.count then a else none

/-- The present latencies and asymmetries, in the order CAL_TS takes them (log 11). -/
def Dev.tsValues (s : Dev) : List (BitVec 16) :=
  ([s.rd F.CAL_RPA_TXLAT, s.rd F.CAL_RPA_RXLAT, s.rd F.CAL_RPB_TXLAT, s.rd F.CAL_RPB_RXLAT] ++
    (List.range 128).flatMap (fun l => [s.rd (F.CAL_LTXLAT l), s.rd (F.CAL_LRXLAT l), s.rd (F.VL_LASYM l)])).map (BitVec.ofNat 16)

/-- The tap word of a vat as the bank in use will hold it at the next opening. -/
def Dev.tapWord (s : Dev) (v c : Nat) : Word :=
  match s.le.calPend.reverse.find? (fun kw => kw.1 == chKey v c) with
  | some kw => kw.2
  | none => s.calNow.get (chKey v c)

/-- NTAP of a vat's EIC: as planned, else as its last sense frame reported. -/
def Dev.ntapOf (s : Dev) (v : Nat) : Nat :=
  match s.vatEntry v with
  | some e => e.ntap
  | none => (((s.vat v).sof).map (·.ntap.toNat)).getD 512

/-- The result of one tap channel (R218): its new word, or none out of range. -/
def tapResult (r : CalRun) (old : Word) (a : Int) : Option Word :=
  let ofs := old.toNat % 65536
  if r.ref then
    let d := a - 16 * ofs
    if d ≤ 0 then none
    else
      let g := divRne (r.x.toNat * 2 ^ 19) d
      if 65535 < g then none else some (BitVec.ofNat 32 (65536 * g.toNat + ofs))
  else
    let o := rne a 4
    if o < 0 ∨ 65535 < o then none else some (BitVec.ofNat 32 (old.toNat / 65536 * 65536 + o.toNat))

/-- The results of a run put into effect, with the response and the record STORE writes; none is RANGE. -/
def Dev.runResult (s : Dev) (r : CalRun) (vs : List Int) : Option (Dev × List Byte × Nat × Nat × (Dev → List Byte)) :=
  let v (i : Nat) : Int := vs.getD i 0
  let u16 (i : Nat) : Bool := decide (0 ≤ v i) && decide (v i ≤ 65535)
  match r.kind with
  | 1 =>
    let l := r.target
    if laneOk vs then
      let s := s.setRx l vs
      some (s, toLe 4 (s.reg (R.CAL_LRX0 l)).toNat ++ toLe 4 (s.reg (R.CAL_LRX1 l)).toNat, 0x0010, 0, fun s =>
        (List.range 128).flatMap (fun l => toLe 4 (s.reg (R.CAL_LRX0 l)).toNat ++ toLe 4 (s.reg (R.CAL_LRX1 l)).toNat))
    else none
  | 2 =>
    if u16 0 && u16 1 then
      let tx := (v 0).toNat
      let rx := (v 1).toNat
      let s := if r.target = 128 then (s.wr F.CAL_RPA_TXLAT tx).wr F.CAL_RPA_RXLAT rx
        else if r.target = 129 then (s.wr F.CAL_RPB_TXLAT tx).wr F.CAL_RPB_RXLAT rx
        else (s.wr (F.CAL_LTXLAT r.target) tx).wr (F.CAL_LRXLAT r.target) rx
      let s := match r.asym with
        | some a => if r.target < 128 then s.wr (F.VL_LASYM r.target) a.toNat else s
        | none => s
      some (s, toLe 2 tx ++ toLe 2 rx, 0x0011, 0, fun s => Config.calTsBytes s.tsValues)
    else none
  | 3 =>
    if (List.range 32).all u16 then
      let t := (List.range 16).map (fun c => (BitVec.ofNat 16 (v (2 * c)).toNat, BitVec.ofNat 16 (v (2 * c + 1)).toNat))
      let tb : Tbl (BitVec 16 × BitVec 16) := (List.range 16).foldl (fun a c => Tbl.set a c (t.getD c (0, 0))) []
      let s := { s with cal := { s.cal with isense := tb }, th := { s.th with sub := [], full := [] } }
      some (s.wrB F.TH_STAT_SENSE_SUB false, t.flatMap (fun x => toLe 2 x.1.toNat ++ toLe 2 x.2.toNat), 0x0012, 0,
        fun _ => Config.calIsenseBytes t)
    else none
  | _ =>
    let vt := r.target - 256
    let ws := (List.range r.count).map (fun i => tapResult r (s.tapWord vt (r.first + i)) (v i))
    if ws.all Option.isSome then
      let kw := (List.range r.count).map (fun i => (chKey vt (r.first + i), (ws.getD i none).getD 0))
      let s := { s with le := { s.le with calPend := s.le.calPend ++ kw } }
      let ntap := s.ntapOf vt
      let id := ((s.boundId vt).getD 0).toNat
      some (s, kw.flatMap (fun x => toLe 4 x.2.toNat), 0x0014, id + 2 ^ 40 * ntap,
        fun s => (List.range ntap).flatMap (fun c => toLe 4 (s.tapWord vt c).toNat))
    else none

/-- A run ends (R219): lost says that its precondition was lost on the way; storeOk that its record write could be
queued. -/
def Dev.runEnd (target : Nat) (lost : Bool) (ms : List Meas) (storeOk : Bool) (s : Dev) : Dev :=
  match s.cal.runs.find? (fun r => r.target == target && !r.ended) with
  | none => s
  | some r =>
    if lost || !s.calReady r.kind r.target then s.runFail 3 r
    else
      match r.agreed ms with
      | none => s
      | some none => s.runFail 1 r
      | some (some vs) =>
        match s.runResult r vs with
        | none => s.runFail 4 r
        | some x =>
          let s := x.1
          if !r.store then (s.runOver r 0).ok r.mb x.2.1
          else if !storeOk then (s.runOver r 7).finish r.mb 0 7 0xFFFFFFFF x.2.1
          else (s.runOver r 0).nvQueue { mb := some r.mb, ty := x.2.2.1, key := x.2.2.2.1, payload := x.2.2.2.2 s, cal := true, resp := x.2.1,
                                                  run := (r.kind, r.shown) }

/-! ### Stints (R220 to R224) -/

/-- Sample indices of entry and exit and steps emitted, as the response gives them. -/
def Stint.resp (t : Stint) : List Byte := toLe 8 (t.entered.getD 0) ++ toLe 8 (t.exitM.getD 0) ++ toLe 4 t.stepsOut

/-- The last step's number plus one. -/
def Stint.steps (t : Stint) : Nat := t.span + 1

/-- A stint is over: PARTIAL for a sweep that did not reach its last step (R224). -/
def Dev.stintOver (s : Dev) (t : Stint) : Dev :=
  let s := ({ s with cal := { s.cal with stints := s.cal.stints.filter (· != t) } }).calStat
  if t.sweep && decide (t.stepsOut < t.steps) then s.finish t.mb 0 6 0xFFFFFFFF t.resp else s.ok t.mb t.resp

/-- Every stint ends ABORTED (14 R324). -/
def Dev.abortStints (s : Dev) : Dev :=
  let ts := s.cal.stints
  (Dev.each ts (fun s t => s.refuse t.mb 3) { s with cal := { s.cal with stints := [] } }).calStat

/-- The channel is used by a loop of the plan (R221). -/
def Dev.chUsed (s : Dev) (v c : Nat) : Bool := (loopsOf s.descs v).any (fun ld => ld.2.drv.toNat == c)

def Dev.ndrvOf (s : Dev) (v : Nat) : Nat := match s.vatEntry v with
  | some e => e.ndrv
  | none => 0

/-- The loop is a used cell loop of the vat. -/
def Dev.cellLoop (s : Dev) (v l : Nat) : Bool :=
  (s.vatEntry v).isSome && (s.descs.get (loopKey v l)).isCell

/-- Injections that still act. -/
def Dev.liveInj (s : Dev) : List Inj := (s.cal.inj.filterMap (·.2)).filter (fun j => !j.over s.le.frame)

/-- Bits of a map of n bytes. -/
def mapBits (l : List Byte) : List Nat :=
  l.zipIdx.flatMap (fun bi => ((List.range 8).filter (fun i => bit bi.1.toNat i)).map (fun i => 8 * bi.2 + i))

/-- The first field of char.sweep that is out of range (Table 9.3). -/
def sweepBad (m : Mbx) : Option Nat :=
  let probe := m.fld 2 2
  let sw := bit (m.fld 1 1) 0
  if 63 < m.fld 0 1 then some 0 else if 3 < m.fld 1 1 then some 1
  else if 511 < probe ∧ probe ≠ 0x3FF then some 2
  else if sw ∧ sgn 16 (m.fld 8 2) ≤ sgn 16 (m.fld 6 2) then some 8
  else if sw ∧ sgn 16 (m.fld 10 2) ≤ 0 then some 10
  else if sw ∧ (m.fld 12 2 < 8 ∨ 4096 < m.fld 12 2) then some 12
  else if 7 < m.fld 14 1 then some 14
  else if m.fld 16 4 < 18 then some 16
  else none

/-- char.sweep (R220). -/
def Dev.sweepStart (mb : Nat) (m : Mbx) (s : Dev) : Dev :=
  match sweepBad m with
  | some o => s.range mb o
  | none =>
    let v := m.fld 0 1
    let cells := mapBits ((m.req.drop 28).take 32)
    let probe := m.fld 2 2
    if (!cells.all (s.cellLoop v) ∧ s.on F.GL_STAT_PLAN) ∨ (probe ≠ 0x3FF ∧ (s.chUsed v probe ∨ s.ndrvOf v ≤ probe) ∧ s.on F.GL_STAT_PLAN) then
      s.refuse mb 4
    else if cells.any (fun l => s.cal.stints.any (fun t => t.vat == v && t.cells.contains l) ||
        s.liveInj.any (fun j => j.vat == v && j.loops.contains l)) then s.refuse mb 5
    else if !s.on F.GL_STAT_PLAN then s.refuse mb 0x0C02
    else
      let w (o : Nat) : BitVec 16 := BitVec.ofNat 16 (m.fld o 2)
      let t : Stint := { mb := mb, vat := v, cells := cells, sweep := bit (m.fld 1 1) 0, tstate := bit (m.fld 1 1) 1, probe := probe,
                         plevel := w 4, idle := mapBits ((m.req.drop 60).take 512), maxdur := m.fld 16 4, start := w 6,
                         stop := w 8, step := w 10, dwell := m.fld 12 2, ring := m.fld 14 1 }
      (({ s.take mb with cal := { s.cal with stints := s.cal.stints ++ [t] } })).calStat

/-- char.stop (R224): a stint that has not entered ends at once (log 32). -/
def Dev.charStop (mb : Nat) (m : Mbx) (s : Dev) : Dev :=
  let v := m.fld 0 1
  let mine := s.cal.stints.filter (fun t => t.vat == v)
  if 63 < v then s.range mb 0
  else if mine.isEmpty then s.refuse mb 2
  else
    let s := { s with cal := { s.cal with stints := s.cal.stints.map (fun (t : Stint) =>
      if t.vat = v then { t with stopReq := true } else t) } }
    let s := Dev.each (s.cal.stints.filter (fun t => t.vat == v && t.entered.isNone)) (fun s t => s.stintOver t) s
    s.ok mb []

/-! ### Injections (R225, R226) -/

/-- The elements of a request: AUX and number. -/
def injElems (m : Mbx) : List (Bool × Nat) :=
  (List.range (m.fld 20 1)).map (fun q => (bit (m.fld (24 + 2 * q) 2) 9, m.fld (24 + 2 * q) 2 % 512))

/-- The first field of inject.start that is out of range. -/
def Dev.injBad (s : Dev) (m : Mbx) : Option Nat :=
  let ty := m.fld 1 1
  if 63 < m.fld 0 1 then some 0 else if 4 < ty then some 1 else if 1 < m.fld 2 1 then some 2
  else if 15 < m.fld 3 1 then some 3 else if ty = 1 ∧ m.fld 6 2 = 0 then some 6 else if m.fld 8 4 = 0 then some 8
  else if m.fld 12 8 < s.now + 16 then some 12 else if m.fld 20 1 = 0 ∨ 64 < m.fld 20 1 then some 20
  else ((List.range (m.fld 20 1)).find? (fun q =>
    decide (1024 ≤ m.fld (24 + 2 * q) 2) || (!bit (m.fld (24 + 2 * q) 2) 9 && decide (256 ≤ m.fld (24 + 2 * q) 2 % 512)))).map
      (fun q => 24 + 2 * q)

/-- A free injection number. -/
def Dev.injFree (s : Dev) : Option Nat :=
  (List.range 8).find? (fun i => match s.cal.inj.get i with
    | some j => j.over s.le.frame
    | none => true)

/-- inject.start. Two injections never act on one loop or channel (log 33). -/
def Dev.injStart (mb : Nat) (m : Mbx) (s : Dev) : Dev :=
  match s.injBad m with
  | some o => s.range mb o
  | none =>
    let v := m.fld 0 1
    let ty := m.fld 1 1
    let el := injElems m
    let loops := (el.filter (!·.1)).map (·.2)
    let aux := (el.filter (·.1)).map (·.2)
    let d (l : Nat) : Desc := s.descs.get (loopKey v l)
    let okLoop (l : Nat) : Bool := if ty = 4 then (d l).isPort else (d l).used
    let okAux (c : Nat) : Bool := ty != 4 && !s.chUsed v c && decide (c < s.ndrvOf v)
    let plan := s.on F.GL_STAT_PLAN
    if plan ∧ !((s.vatEntry v).isSome && loops.all okLoop && aux.all okAux) then s.refuse mb 4
    else if loops.any (fun l => s.cal.stints.any (fun t => t.vat == v && t.cells.contains l)) ∨
        aux.any (fun c => s.cal.stints.any (fun t => t.vat == v && t.probe == c)) ∨
        s.liveInj.any (fun j => j.vat == v && (loops.any j.loops.contains || aux.any j.aux.contains)) ∨ s.injFree.isNone then
      s.refuse mb 5
    else if !plan then s.refuse mb 0x0C02
    else
      let j : Inj := { vat := v, ty := ty, openMode := m.fld 2 1 == 1, w := BitVec.ofNat 4 (m.fld 3 1),
                       amp := BitVec.ofNat 16 (m.fld 4 2), per := m.fld 6 2, ns := m.fld 8 4, s0 := m.fld 12 8, loops := loops, aux := aux }
      let id := s.injFree.getD 0
      (({ s with cal := { s.cal with inj := s.cal.inj.set id (some j) } }).calStat).ok mb [BitVec.ofNat 8 id]

/-- An injection ends before its time: from the next opening on it puts out nothing (R10). -/
def Dev.injCut (s : Dev) (id : Nat) : Dev :=
  match s.cal.inj.get id with
  | some j =>
    if j.stopped then s
    else
      let n := min j.ns (s.le.frame + 2 - j.s0)
      let s := { s with cal := { s.cal with inj := s.cal.inj.set id (some { j with ns := n, stopped := true }) } }
      (s.calStat).event F.CAL_EVT_INJ_END
  | none => s

/-- Every injection ends ABORTED (R226), which resets the calibration sequencer's bus master (12 R296). -/
def Dev.abortInj (s : Dev) : Dev :=
  let live := s.cal.inj.any (fun x => x.2.any (!·.stopped))
  Dev.when live (Dev.masterReset 4) (Dev.each (List.range 8) (fun s i => s.injCut i) s)

/-- inject.stop. An injection that has put out nothing reports 0 (log 32). -/
def Dev.injStop (mb : Nat) (m : Mbx) (s : Dev) : Dev :=
  let id := m.fld 0 1
  if 7 < id then s.range mb 0
  else
    match (s.cal.inj.get id).filter (fun j => !j.stopped) with
    | some j =>
      let n := min j.ns (s.le.frame + 2 - j.s0)
      (s.injCut id).ok mb (toLe 8 (if n = 0 then 0 else j.s0 + n - 1))
    | none => s.refuse mb 2

/-- NS samples have passed. -/
def Dev.injEnd (id : Nat) (s : Dev) : Dev :=
  match s.cal.inj.get id with
  | some j =>
    if j.over s.le.frame then
      let s := ({ s with cal := { s.cal with inj := s.cal.inj.set id none } }).calStat
      Dev.when (!j.stopped) (·.event F.CAL_EVT_INJ_END) s
    else s
  | none => s

/-! ### Captures (R227, R228) -/

def capItems (m : Mbx) : List (Nat × Nat) := (List.range (m.fld 2 1)).map (fun q => (m.fld (16 + 4 * q) 1, m.fld (18 + 4 * q) 2))

/-- The first field of capture.start that is out of range. -/
def Dev.capBad (s : Dev) (m : Mbx) : Option Nat :=
  if 63 < m.fld 0 1 then some 0 else if 7 < m.fld 1 1 then some 1 else if m.fld 2 1 = 0 ∨ 16 < m.fld 2 1 then some 2
  else if 1 < m.fld 3 1 then some 3 else if m.fld 4 4 = 0 ∨ 2 ^ 24 < m.fld 4 4 then some 4
  else if m.fld 3 1 = 0 ∧ m.fld 8 8 ≤ s.le.frame then some 8 else if m.fld 3 1 = 1 ∧ 7 < m.fld 8 8 then some 8
  else ((List.range (m.fld 2 1)).find? (fun q =>
    let k := m.fld (16 + 4 * q) 1
    let x := m.fld (18 + 4 * q) 2
    k == 0 || decide (6 < k) || decide ((if k ≤ 3 then 512 else 256) ≤ x))).map (fun q => 16 + 4 * q)

/-- An item exists in the vat. -/
def Dev.capHas (s : Dev) (v : Nat) (it : Nat × Nat) : Bool :=
  if it.1 ≤ 2 then decide (it.2 < s.ntapOf v) else if it.1 = 3 then decide (it.2 < s.ndrvOf v)
  else (s.descs.get (loopKey v it.2)).used

/-- capture.start. -/
def Dev.capStart (mb : Nat) (m : Mbx) (s : Dev) : Dev :=
  match s.capBad m with
  | some o => s.range mb o
  | none =>
    let v := m.fld 0 1
    let j := if m.fld 3 1 = 1 then (s.cal.inj.get (m.fld 8 8)).filter (fun j => !j.stopped) else none
    let items := capItems m
    if m.fld 3 1 = 1 ∧ j.isNone then s.refuse mb 2
    else if s.on F.GL_STAT_PLAN ∧ !((s.vatEntry v).isSome && items.all (s.capHas v)) then s.refuse mb 4
    else if !s.on F.GL_STAT_PLAN then s.refuse mb 0x0C02
    else
      let c : Cap := { id := s.cal.capNo + 1, mb := mb, vat := v, ring := m.fld 1 1, items := items, ns := m.fld 4 4,
                       start := match j with
                         | some j => j.s0
                         | none => m.fld 8 8 }
      (({ s.take mb with cal := { s.cal with caps := s.cal.caps ++ [c], capNo := c.id } })).calStat

/-- The result of a capture (Table 11.7). Of an item with no fresh sample the spec states no result: it is free. -/
def Dev.capResp (s : Dev) (c : Cap) : Dev × List Byte :=
  let r := (List.range c.items.length).foldl (fun (a : Dev × List Byte) q =>
    let x := c.stats.getD q (0, 0, 0, 0)
    if x.2.2.2 = 0 then (a.1.useFree, a.2 ++ toLe 8 a.1.free.toNat)
    else (a.1, a.2 ++ toLe 2 (uns 16 x.1) ++ toLe 2 (uns 16 x.2.1) ++ toLe 4 (uns 32 (divRne (16 * x.2.2.1) x.2.2.2)))) (s, [])
  (r.1, toLe 8 c.start ++ toLe 4 (c.done - c.dropped) ++ toLe 4 c.dropped ++ r.2)

/-- A record of a capture waits for its ring. -/
def Dev.capWaiting (s : Dev) (c : Cap) : Bool := s.trc.inbox.any (fun t => t.cap == some c.id)

/-- Captures whose NS samples have passed end (R228), their records handed to the rings. -/
def Dev.capEnd (s : Dev) : Dev :=
  let fin := s.cal.caps.filter (fun c => (decide (c.ns ≤ c.done) || decide (c.start + c.ns ≤ s.le.frame)) && !s.capWaiting c)
  let s := { s with cal := { s.cal with caps := s.cal.caps.filter (fun c => !fin.contains c) } }
  (Dev.each fin (fun s c =>
    let r := s.capResp c
    (r.1.ok c.mb r.2).event F.CAL_EVT_CAP_DONE) s).calStat

/-- Captures that p picks end ABORTED. -/
def Dev.abortCaps (p : Cap → Bool) (s : Dev) : Dev :=
  let cs := s.cal.caps.filter p
  (Dev.each cs (fun s c => s.refuse c.mb 3) { s with cal := { s.cal with caps := s.cal.caps.filter (fun c => !p c) } }).calStat

/-! ### The commands -/

def execCalRunLane (mb : BitVec 3) (s : State) : Host.Outcome State Fault Refusal :=
  s.onDev (Dev.ecs mb.toNat 0x0401 (some 1) Dev.calLane)
def execCalRunTsdly (mb : BitVec 3) (s : State) : Host.Outcome State Fault Refusal :=
  s.onDev (Dev.ecs mb.toNat 0x0401 (some 2) Dev.calTsdly)
def execCalRunIsense (mb : BitVec 3) (s : State) : Host.Outcome State Fault Refusal :=
  s.onDev (Dev.ecs mb.toNat 0x0401 (some 3) Dev.calIsense)
def execCalRunTap (mb : BitVec 3) (s : State) : Host.Outcome State Fault Refusal :=
  s.onDev (Dev.ecs mb.toNat 0x0401 (some 4) Dev.calTap)
def execCalRunEnd (target : Nat) (lost : Bool) (ms : List Meas) (storeOk : Bool) (s : State) : Host.Outcome State Fault Refusal :=
  s.onDev (Dev.runEnd target lost ms storeOk)
def execCharSweep (mb : BitVec 3) (s : State) : Host.Outcome State Fault Refusal :=
  s.onDev (Dev.ecs mb.toNat 0x0402 none Dev.sweepStart)
def execCharStop (mb : BitVec 3) (s : State) : Host.Outcome State Fault Refusal :=
  s.onDev (Dev.ecs mb.toNat 0x0403 none Dev.charStop)
def execInjectStart (mb : BitVec 3) (s : State) : Host.Outcome State Fault Refusal :=
  s.onDev (Dev.ecs mb.toNat 0x0404 none Dev.injStart)
def execInjectStop (mb : BitVec 3) (s : State) : Host.Outcome State Fault Refusal :=
  s.onDev (Dev.ecs mb.toNat 0x0405 none Dev.injStop)
def execInjectionEnd (id : BitVec 3) (s : State) : Host.Outcome State Fault Refusal := s.onDev (Dev.injEnd id.toNat)
def execCaptureStart (mb : BitVec 3) (s : State) : Host.Outcome State Fault Refusal :=
  s.onDev (Dev.ecs mb.toNat 0x0406 none Dev.capStart)
def execCaptureEnd (s : State) : Host.Outcome State Fault Refusal := s.onDev Dev.capEnd

end Sys2Proof.Machine
end

