-- ==== Sys2Proof/Machine/Image.lean ====
section
/-!
DEFINITION. The plan image and the loader's checks (08 R186 to R205, R209 to R211; 05 Table 5.2; 06 R130, Table 6.3): an
image and the state that a check reads give a plan with its forms, or the first failed check as Table 8.11 reports it.
-/
namespace Sys2Proof.Machine

/-- A load result (Table 8.11). detail none: a check over several fields, of which Table 8.11 names no one value. -/
structure LoadErr where
  code : Nat := 0
  sect : Nat := 0
  vat : Nat := 0xFF
  phase : Nat := 0xFF
  index : Nat := 0xFFFF
  detail : Option Nat := some 0
  offset : Nat := 0xFFFFFFFF
  deriving DecidableEq, Repr, Inhabited

/-- Its 16 bytes, where d stands for an unnamed value. -/
def LoadErr.bytes (e : LoadErr) (d : Nat) : List Byte :=
  toLe 2 e.code ++ toLe 2 e.sect ++ toLe 1 e.vat ++ toLe 1 e.phase ++ toLe 2 e.index ++ toLe 4 (e.detail.getD d) ++ toLe 4 e.offset

abbrev Chk := Option LoadErr

def chk (bad : Bool) (e : LoadErr) : Chk := if bad then some e else none

/-- The first of several checks that fails. -/
def firstBad (l : List Chk) : Chk := l.findSome? id

/-- 0x0107: the first byte of [a, b) that is not 0; base is where the text stands in the image. -/
def zeroIn (l : List Byte) (a b base : Nat) (e : LoadErr := {}) : Chk :=
  ((List.range (b - a)).find? (fun i => byteAt l (a + i) != 0)).map (fun i =>
    { e with code := 0x0107, detail := some (byteAt l (a + i)), offset := base + a + i })

/-! ### Header, directory, compatibility (R186, R187, R210) -/

/-- Table 8.1, against the length supplied. -/
def hdrCheck (im : List Byte) (len : Nat) : Chk :=
  let l := leAt im 20 4
  firstBad [chk (leAt im 0 4 != 0x4C505857) { code := 0x0101, detail := some (leAt im 0 4), offset := 0 },
    chk (crc32c (im.take 60) != leAt im 60 4) { code := 0x0102, detail := some (leAt im 60 4), offset := 60 },
    chk (l % 64 != 0 || decide (0x02000000 < l) || l != len) { code := 0x0103, detail := some l, offset := 20 },
    zeroIn im 26 28 0, zeroIn im 56 60 0]

/-- A directory entry and where it stands. -/
structure DirEnt where
  ty : Nat := 0
  sver : Nat := 0
  ofs : Nat := 0
  slen : Nat := 0
  crc : Nat := 0
  pos : Nat := 0
  deriving DecidableEq, Repr, Inhabited

def dirOf (im : List Byte) : List DirEnt :=
  (List.range (byteAt im 24)).map (fun i =>
    let e := 64 + 16 * i
    { ty := leAt im e 2, sver := leAt im (e + 2) 2, ofs := leAt im (e + 4) 4, slen := leAt im (e + 8) 4,
      crc := leAt im (e + 12) 4, pos := e })

/-- Bytes that no part covers are 0: sections ascending, from p on. -/
def gapsZero (im : List Byte) (len : Nat) : Nat → List DirEnt → Chk
  | p, [] => zeroIn im p len 0
  | p, x :: r => firstBad [zeroIn im p x.ofs 0, gapsZero im len (max p (x.ofs + x.slen)) r]

/-- Two sections that follow one another overlap. -/
def overlapIn : List DirEnt → Chk
  | x :: y :: r =>
    if y.ofs < x.ofs + x.slen then some { code := 0x0104, detail := some y.ofs, offset := y.pos + 4 } else overlapIn (y :: r)
  | _ => none

/-- The directory (R186, R187): 0x0104 of every entry comes before any 0x0105, and the zeros between sections last (DESIGN CHOICE, log
79). -/
def dirCheck (im : List Byte) (len : Nat) : Chk :=
  let n := byteAt im 24
  let ds := dirOf im
  let by_ := sortBy (fun (a b : DirEnt) => decide (a.ofs ≤ b.ofs)) ds
  let reserved (t : Nat) := t == 0 || (decide (8 ≤ t) && decide (t < 0x8000))
  firstBad [chk (decide (n < 7) || decide (32 < n) || decide (len < 64 + 16 * n)) { code := 0x0104, detail := some n, offset := 24 },
    ds.findSome? (fun d => chk (d.ofs % 64 != 0 || decide (d.ofs < 64 + 16 * n) || decide (len < d.ofs + d.slen))
      { code := 0x0104, detail := some d.ofs, offset := d.pos + 4 }),
    overlapIn by_,
    ds.findSome? (fun d => chk (reserved d.ty || (decide (d.ty < 8) && ds.any (fun x => x.ty == d.ty && decide (x.pos < d.pos))))
      { code := 0x0105, detail := some d.ty, offset := d.pos }),
    ((List.range 7).find? (fun t => !ds.any (fun x => x.ty == t + 1))).map (fun t => { code := 0x0105, detail := some (t + 1) }),
    gapsZero im len (64 + 16 * n) by_]

def compatCheck (im : List Byte) : Chk :=
  firstBad [chk (leAt im 4 2 != 1) { code := 0x0201, detail := some (leAt im 4 2), offset := 4 },
    chk (leAt im 12 4 != 0) { code := 0x0202, detail := some (leAt im 12 4), offset := 12 },
    chk (decide (Config.revision < leAt im 8 2)) { code := 0x0203, detail := some (leAt im 8 2), offset := 8 },
    chk (leAt im 10 2 == 0 || decide (Config.costTable < leAt im 10 2)) { code := 0x0204, detail := some (leAt im 10 2), offset := 10 },
    (dirOf im).findSome? (fun d => chk (decide (d.ty < 8) && d.sver != 1)
      { code := 0x0205, sect := d.ty, detail := some d.sver, offset := d.pos + 2 }),
    chk (decide (2 < byteAt im 25)) { code := 0x0206, detail := some (byteAt im 25), offset := 25 }]

def crcCheck (im : List Byte) : Chk :=
  (dirOf im).findSome? (fun d => chk (crc32c ((im.drop d.ofs).take d.slen) != d.crc)
    { code := 0x0106, sect := d.ty, detail := some d.crc, offset := d.pos + 12 })

/-- A section: its offset and its bytes. -/
def sectOf (im : List Byte) (t : Nat) : Nat × List Byte :=
  match (dirOf im).find? (fun d => d.ty == t) with
  | some d => (d.ofs, (im.drop d.ofs).take d.slen)
  | none => (0, [])

/-- 0x0108: the section's length against its counts; OFFSET is the section's first byte (DESIGN CHOICE, log 79). -/
def lenCheck (t : List Byte) (n sect base : Nat) : Chk :=
  chk (t.length != n) { code := 0x0108, sect := sect, detail := some t.length, offset := base }

/-! ### Topology (R188) -/

def parseVat (t : List Byte) (o : Nat) : VatEntry :=
  { vat := byteAt t o, port := byteAt t (o + 1) == 2, ntap := leAt t (o + 2) 2, ndrv := leAt t (o + 4) 2,
    nloop := leAt t (o + 6) 2, eicid := BitVec.ofNat 40 (leAt t (o + 8) 5) }

def topoVats (t : List Byte) : List VatEntry := (List.range (byteAt t 4)).map (fun v => parseVat t (16 + 16 * v))

def topoPairs (t : List Byte) : List (Nat × Nat) :=
  let p := 16 + 16 * byteAt t 4
  (List.range (leAt t 8 4)).map (fun i => (leAt t (p + 4 * i) 2, leAt t (p + 4 * i + 2) 2))

/-- The topology CRC. -/
def topoCrc (t : List Byte) : Nat :=
  crc32c (t.take 4 ++ (t.drop 8).take 4 ++ (t.drop (16 + 16 * byteAt t 4)).take (4 * leAt t 8 4))

def rangeBad (lo hi v : Nat) : Bool := decide (v < lo) || decide (hi < v)

def topoCheck (b : Nat) (t : List Byte) (topo : Nat) : Chk :=
  let nv := byteAt t 4
  let nn := leAt t 8 4
  let bad (o v : Nat) : Chk := some { code := 0x0301, sect := 1, detail := some v, offset := b + o }
  firstBad [chk (decide (t.length < 16)) { code := 0x0108, sect := 1, detail := some t.length, offset := b },
    if rangeBad 1 1024 (leAt t 0 2) then bad 0 (leAt t 0 2) else if rangeBad 1 1024 (leAt t 2 2) then bad 2 (leAt t 2 2)
      else if rangeBad 1 64 nv then bad 4 nv else if 262144 < nn then bad 8 nn else none,
    zeroIn t 5 8 b { sect := 1 }, zeroIn t 12 16 b { sect := 1 }, lenCheck t (16 + 16 * nv + 4 * nn) 1 b,
    (List.range nv).findSome? (fun i =>
      let o := 16 + 16 * i
      let v := parseVat t o
      let e (q x : Nat) : LoadErr := { code := 0x0302, sect := 1, vat := v.vat, detail := some x, offset := b + o + q }
      firstBad [chk (decide (63 < v.vat) || (decide (0 < i) && decide (v.vat ≤ byteAt t (o - 16)))) (e 0 v.vat),
        chk (rangeBad 1 2 (byteAt t (o + 1))) (e 1 (byteAt t (o + 1))), chk (rangeBad 1 512 v.ntap) (e 2 v.ntap),
        chk (rangeBad 1 512 v.ndrv) (e 4 v.ndrv), chk (rangeBad 1 256 v.nloop) (e 6 v.nloop),
        zeroIn t (o + 13) (o + 16) b { sect := 1, vat := v.vat }]),
    chk (topoCrc t != topo) { code := 0x0303, sect := 1, detail := some topo, offset := 28 }]

/-- 0x0304, against the descriptor section as it stands in the image (R204). -/
def pairCheck (b : Nat) (t d : List Byte) : Chk :=
  let used := (List.range (d.length / 48)).filterMap (fun i =>
    if byteAt d (48 * i) % 4 = 1 then some (leAt d (48 * i + 40) 2 % 16384) else none)
  let p := 16 + 16 * byteAt t 4
  (List.range (leAt t 8 4)).findSome? (fun i =>
    let c := leAt t (p + 4 * i) 2
    let x := leAt t (p + 4 * i + 2) 2
    chk (!used.contains c || !used.contains x || c == x)
      { code := 0x0304, sect := 1, index := i, detail := some (if used.contains c then x else c),
        offset := b + p + 4 * i + (if used.contains c then 2 else 0) })

/-- 0x0305, under STRICT_ID, against the identity that an ACTIVE lane of the vat reported. -/
def Dev.idCheck (s : Dev) (b : Nat) (vs : List VatEntry) : Chk :=
  if !s.on F.VL_CFG_STRICT_ID then none
  else
    (List.range vs.length).findSome? (fun i =>
      let v := vs.getD i {}
      let bad := [2 * v.vat, 2 * v.vat + 1].any (fun l => s.laneActive l &&
        s.rd (F.VL_EIC_ID_LO l) + 2 ^ 32 * s.rd (F.VL_EIC_ID_HI l) != v.eicid.toNat)
      chk (v.eicid != 0 && bad) { code := 0x0305, sect := 1, vat := v.vat,
                                  detail := some (v.eicid.toNat % 2 ^ 32), offset := b + 16 + 16 * i + 8 })

/-! ### Descriptors (R104, R105, R189) -/

/-- The first byte, of those that a table of (place, reserved bits) names from byte o on, with a reserved bit set. -/
def reservedByte (l : List Byte) (o : Nat) (t : List (Nat × Nat)) : Option Nat :=
  (t.find? (fun km => byteAt l (o + km.1) &&& km.2 != 0)).map (·.1)

/-- Bits that Table 5.1 marks 0 for every kind: byte and mask. -/
def descMask : List (Nat × Nat) :=
  [(0, 0x80), (1, 0xC0), (2, 0xF8), (3, 0xC0), (5, 0xFE), (7, 0xFE), (9, 0xFE), (41, 0xC0)] ++
    (List.range 6).map (fun k => (42 + k, 0xFF))

/-- Bits [63:44] of a gate-list entry (Table 6.2). -/
def gateMask : List (Nat × Nat) := [(5, 0xF0), (6, 0xFF), (7, 0xFF)]

/-- 0x040B: fields that are 0 for the loop's kind. -/
def zeroRule (d : Desc) : Bool :=
  match d.kind.toNat with
  | 0 => d != ({} : Desc)
  | 1 => d.attdir || d.slew != 0
  | 2 => d.tapx != 0 || d.ffCross != 0
  | _ => false

/-- Table 5.2 in table order, then 0x040A and 0x040B: the first code that applies to a descriptor of a vat, given whether it
shares DRV, IDX or a neighbourhood's code, and whether its place is wrong for its kind; 0 for none. -/
def descCode (ntap ndrv : Nat) (d : Desc) (drv idx code place : Bool) : Nat :=
  let cell := d.kind == 1
  let i (x : BitVec 16) : Int := x.toInt
  let out (x : BitVec 16) : Bool := decide (i x < i d.umin) || decide (i d.umax < i x)
  let bads : List (Bool × Nat) := [
    (d.kind == 3, 0x0401),
    (decide (ntap ≤ d.tapb.toNat) || decide (ntap ≤ d.tapx.toNat) || (cell && d.tapb == d.tapx) || decide (ndrv ≤ d.drv.toNat) || drv, 0x0402),
    (decide ((if cell then 12288 else 2048) ≤ d.idx.toNat) || idx, 0x0403),
    ((!cell && d.wcode != 0) || (cell && d.wcode == 0 && d.ki != 0) || code, 0x0404),
    ((cell && (decide (i d.kp < 0) || decide (i d.ki < 0))) || (d.offl != 0 && decide (i d.kth ≤ 0)), 0x0405),
    (decide (i d.umax ≤ i d.umin) || out d.ffBar || (cell && out d.ffCross) || decide (0x7FFF < d.ilim.toNat) ||
      decide (0x7FFF < d.thlim.toNat), 0x0406),
    (d.offl != 0 && (decide (d.ilim.toNat ≤ d.offl.toNat) || d.tstep == 0 || decide (d.thlim.toNat < d.tstep.toNat) ||
      decide (a16 d.offl.toNat < mulc d.tstep.toNat (i d.kth) d.kthSh.toNat)), 0x0407),
    (decide (0x1000 < d.damp.toNat) || d.darkTh == 0 || (!cell && d.slew == 0), 0x0408),
    (decide (2 ^ 39 ≤ a16 (max (i d.ffBar).natAbs (i d.ffCross).natAbs) + (mulc d.thlim.toNat (i d.kth) d.kthSh.toNat).natAbs +
      a16 d.ilim.toNat + (mulc 32767 (i d.kp) d.kpSh.toNat).natAbs), 0x0409),
    (place, 0x040A)]
  let z := if zeroRule d then 0x040B else 0
  if d.kind == 0 then z else match bads.find? (·.1) with
    | some x => x.2
    | none => z

/-- The first offending byte of a descriptor that a check refuses, and the offending value where one field offends (Table
8.11): of the fields that the check finds wrong, the one that stands first. Of a sum over several fields (Offload's product,
Headroom) no one value offends. (DESIGN CHOICE, log 79.) -/
def descAt (ntap : Nat) (d : Desc) (c : Nat) : Nat × Option Nat :=
  let cell := d.kind == 1
  let neg (x : BitVec 16) : Bool := decide (x.toInt < 0)
  let out (x : BitVec 16) : Bool := decide (x.toInt < d.umin.toInt) || decide (d.umax.toInt < x.toInt)
  let first (l : List (Bool × Nat × Nat)) (e : Nat × Option Nat) : Nat × Option Nat :=
    match l.find? (·.1) with
    | some x => (x.2.1, some x.2.2)
    | none => e
  match c with
  | 0x0401 => (0, some d.kind.toNat)
  | 0x0402 => first [(decide (ntap ≤ d.tapb.toNat), 4, d.tapb.toNat),
      (decide (ntap ≤ d.tapx.toNat) || (cell && d.tapb == d.tapx), 6, d.tapx.toNat)] (8, some d.drv.toNat)
  | 0x0403 => (40, some d.idx.toNat)
  | 0x0404 => (0, some d.wcode.toNat)
  | 0x0405 => first [(cell && neg d.kp, 10, d.kp.toNat), (cell && neg d.ki, 12, d.ki.toNat)] (14, some d.kth.toNat)
  | 0x0406 => first [(out d.ffBar, 16, d.ffBar.toNat), (cell && out d.ffCross, 18, d.ffCross.toNat),
      (decide (d.umax.toInt ≤ d.umin.toInt), 20, d.umin.toNat), (decide (0x7FFF < d.ilim.toNat), 24, d.ilim.toNat)]
      (30, some d.thlim.toNat)
  | 0x0407 => first [(decide (d.ilim.toNat ≤ d.offl.toNat), 26, d.offl.toNat),
      (d.tstep == 0 || decide (d.thlim.toNat < d.tstep.toNat), 28, d.tstep.toNat)] (2, none)
  | 0x0408 => first [(decide (0x1000 < d.damp.toNat), 32, d.damp.toNat), (d.darkTh == 0, 36, d.darkTh.toNat)]
      (38, some d.slew.toNat)
  | 0x0409 => (1, none)
  | 0x040A => (0, some d.kind.toNat)
  | 0x040B => match d.kind.toNat with
    | 0 => ((List.range 48).find? (fun k => byteAt (descBytes d) k != 0)).elim (0, none)
        (fun k => (k, some (byteAt (descBytes d) k)))
    | 1 => first [(d.attdir, 0, 1)] (38, some d.slew.toNat)
    | _ => first [(d.tapx != 0, 6, d.tapx.toNat)] (18, some d.ffCross.toNat)
  | _ => (0, none)

/-- Cells c and x of some neighbourhood (R98): one is the other's listed neighbour, or both are a third cell's. -/
def hoodMates (nbrs : List (Nat × Nat)) (c : Nat) : List Nat :=
  let hoods := c :: (nbrs.filter (fun p => p.2 == c)).map (·.1)
  (hoods.flatMap (fun h => h :: (nbrs.filter (fun p => p.1 == h)).map (·.2))).filter (· != c)

/-- A cell's code is shared with one of the given cells in a neighbourhood (R98). -/
def codeShared (nbrs : List (Nat × Nat)) (prior : List (Nat × Desc)) (d : Desc) : Bool :=
  let mates := hoodMates nbrs d.idx.toNat
  d.kind == 1 && d.wcode != 0 && prior.any (fun p => p.2.kind == 1 && p.2.wcode == d.wcode && mates.contains p.2.idx.toNat)

/-- Descriptors in image order, with those that came before: a check between two loops fails at the later (R205). -/
def descsCheck (b : Nat) (t : List Byte) (vs : List VatEntry) (nbrs : List (Nat × Nat)) : Chk :=
  (firstBad [lenCheck t (12288 * vs.length) 2 b]).orElse fun _ =>
  ((List.range vs.length).flatMap (fun i => (List.range 256).map (fun l => (i, l)))).foldl
    (fun (a : Chk × List (Nat × Desc)) il =>
      match a.1 with
      | some _ => a
      | none =>
        let v := vs.getD il.1 {}
        let o := 12288 * il.1 + 48 * il.2
        let d := parseDesc t o
        let drv := a.2.any (fun p => p.1 == v.vat && p.2.drv == d.drv)
        let idx := a.2.any (fun p => p.2.kind == d.kind && p.2.idx == d.idx)
        let place := (d.kind == 2) != v.port || decide (v.nloop ≤ il.2)
        let e (c k : Nat) (x : Option Nat) : LoadErr :=
          { code := c, sect := 2, vat := v.vat, index := il.2, detail := x, offset := b + o + k }
        match reservedByte t o descMask, descCode v.ntap v.ndrv d drv idx (codeShared nbrs a.2 d) place with
        | some k, _ => (some (e 0x0107 k (some (byteAt t (o + k)))), a.2)
        | none, c + 1 => (some (e (c + 1) (descAt v.ntap d (c + 1)).1 (descAt v.ntap d (c + 1)).2), a.2)
        | none, 0 => (none, if d.kind == 1 || d.kind == 2 then a.2 ++ [(v.vat, d)] else a.2)) (none, []) |>.1

/-- The descriptors of a section, by vat and loop. -/
def sectDescs (t : List Byte) (vs : List VatEntry) : Tbl Desc :=
  (List.range vs.length).flatMap (fun i => (List.range 256).filterMap (fun l =>
    let d := parseDesc t (12288 * i + 48 * l)
    if d = {} then none else some (256 * (vs.getD i {}).vat + l, d)))

/-! ### Programs (R190, R195 to R201) -/

def parseInst (t : List Byte) (o : Nat) : PInst :=
  { opc := byteAt t o, phase := byteAt t (o + 1), slot := leAt t (o + 2) 2, arg := leAt t (o + 4) 2 }

def parseProg (t : List Byte) (o : Nat) : Prog :=
  { phases := (List.range (byteAt t (o + 1))).map (fun p => if p = 0 then 0 else leAt t (o + 2 + 2 * p) 2),
    ins := (List.range (leAt t (o + 2) 2)).map (fun i => parseInst t (o + 32 + 8 * i)) }

/-- ARG is in the range of its class (Table 8.8). -/
def argOk (i : PInst) : Bool :=
  match i.opc with
  | 0x00 => !rangeBad 1 1152 i.arg
  | 0x01 => i.arg == 0
  | 0x07 => i.arg == 0
  | 0x0A => i.arg == 0
  | 0x08 => decide (i.arg ≤ 7)
  | 0x09 => decide (i.arg ≤ 7)
  | _ => decide (i.arg ≤ 15)

/-- Entry cycles of a phase (R198). -/
def entryCyc (p : Nat) : Nat := if p = 0 then 24 else 0

/-- What R198 to R201 need of a vat: its entry, its used loops with the number of cell drive channels, its program. -/
structure ProgIn where
  v : VatEntry
  loops : List (Nat × Desc)
  g : Prog
  opmin : Nat

def ProgIn.cells (x : ProgIn) : Nat := (x.loops.filter (fun ld => ld.2.kind == 1)).length

/-- Positions in the list of the operations of a class and argument. -/
def ProgIn.at (x : ProgIn) (opc arg : Nat) : List Nat :=
  (List.range x.g.ins.length).filter (fun i => let y := x.g.ins.getD i {}; y.opc == opc && y.arg == arg)

def ProgIn.gang (x : ProgIn) (g : Nat) : List (Nat × Desc) := x.loops.filter (fun ld => ld.1 / 16 == g)

/-- How many operations of a class and argument R197 asks for. -/
def ProgIn.want (x : ProgIn) (opc arg : Nat) : Nat :=
  let gangKind (k : BitVec 2) := if (x.gang arg).any (fun ld => ld.2.kind == k) then 1 else 0
  match opc with
  | 0x01 => 1
  | 0x0A => 1
  | 0x02 => max (gangKind 1) (gangKind 2)
  | 0x03 => max (gangKind 1) (gangKind 2)
  | 0x06 => max (gangKind 1) (gangKind 2)
  | 0x04 => gangKind 1
  | 0x05 => gangKind 2
  | 0x07 => if 0 < x.cells then 1 else 0
  | 0x08 => if 64 * arg < x.cells then 1 else 0
  | 0x09 => if 64 * arg < x.v.ndrv then 1 else 0
  | _ => 0

/-- The classes and arguments that R197 counts. -/
def progClasses : List (Nat × Nat) :=
  [(1, 0), (7, 0), (10, 0)] ++ (List.range 16).flatMap (fun g => [(2, g), (3, g), (4, g), (5, g), (6, g)]) ++
  (List.range 8).flatMap (fun q => [(8, q), (9, q)])

/-- Pairs of operations of which the first stands before the second (R197), by class and argument. -/
def ProgIn.before (x : ProgIn) : List ((Nat × Nat) × (Nat × Nat)) :=
  let gs := (List.range 16).filter (fun g => !(x.gang g).isEmpty)
  let front (g : Nat) := if (x.gang g).any (fun ld => ld.2.kind == 1) then 4 else 5
  let nps := (x.cells + 63) / 64
  let nds := (x.v.ndrv + 63) / 64
  gs.flatMap (fun g => [((2, g), (3, g)), ((3, g), (front g, g)), ((front g, g), (6, g))]) ++
  (if 0 < x.cells then gs.map (fun g => ((2, g), (7, 0))) ++ [((7, 0), (8, 0))] else []) ++
  (List.range (nps - 1)).map (fun q => ((8, q), (8, q + 1))) ++
  (List.range (nds - 1)).map (fun q => ((9, q), (9, q + 1))) ++
  (if 0 < nps then [((8, nps - 1), (9, 0))] else []) ++
  (List.range nds).flatMap (fun q => (gs.filter (fun g => (x.gang g).any (fun ld => ld.2.drv.toNat / 64 == q))).map
    (fun g => ((6, g), (9, q))))

/-- A class stands in the list once. VOPEN and VCLOSE have a place to be in only then; one missing or repeated is 0x0505. -/
def ProgIn.once (x : ProgIn) (opc : Nat) : Bool := (x.at opc 0).length == 1

/-- VOPEN is the first operation, at slot 0 of phase 0. -/
def ProgIn.opens (x : ProgIn) (j : Nat) (y : PInst) : Bool :=
  !x.once 1 || ((j == 0) == (y.opc == 1) && (j != 0 || (y.slot == 0 && y.phase == 0)))

/-- VCLOSE is the last operation, in the last phase. -/
def ProgIn.closes (x : ProgIn) (j : Nat) (y : PInst) : Bool :=
  !x.once 10 || ((j + 1 == x.g.ins.length) == (y.opc == 10) && (y.opc != 10 || y.phase + 1 == x.g.phases.length))

/-- Operation j stands in order after its forerunner in the list, without overlap; VOPEN is first and VCLOSE last (R197). -/
def ProgIn.inOrder (x : ProgIn) (j : Nat) : Bool :=
  let y := x.g.ins.getD j {}
  let z := x.g.ins.getD (j - 1) {}
  (j == 0 || decide (z.phase < y.phase) || (z.phase == y.phase && decide (z.slot + opCost z ≤ y.slot))) &&
  x.opens j y && x.closes j y

/-- Of an operation out of order, the place in it of the first field that is wrong, and its value: OPC where VOPEN or VCLOSE
stands elsewhere, PHASE out of order or not that of VOPEN or VCLOSE, else SLOT (Table 8.11, log 79). -/
def ProgIn.orderAt (x : ProgIn) (j : Nat) : Nat × Nat :=
  let y := x.g.ins.getD j {}
  let z := x.g.ins.getD (j - 1) {}
  if (x.once 1 && (j == 0) != (y.opc == 1)) || (x.once 10 && (j + 1 == x.g.ins.length) != (y.opc == 10)) then (0, y.opc)
  else if (x.once 1 && j == 0 && y.phase != 0) || (j != 0 && decide (y.phase < z.phase)) ||
      (x.once 10 && y.opc == 10 && y.phase + 1 != x.g.phases.length)
  then (1, y.phase)
  else (2, y.slot)

/-- The first loop of gang g that is of another kind than a loop of it before. -/
def ProgIn.mixed (x : ProgIn) (g : Nat) : Option Nat :=
  let l := x.gang g
  (l.find? (fun ld => ld.2.kind != (l.head?.map (·.2.kind)).getD 0)).map (·.1)

/-- Slots needed in a phase: the end of its last operation. -/
def Prog.used (g : Prog) (p : Nat) : Nat := (g.ins.filter (·.phase == p)).foldl (fun a i => max a (i.slot + opCost i)) 0

/-- Checked-by instant of sense segment j in 1/8 ns (R200): 226.875 + 8.125 b_j. -/
def checkedBy (ntap j : Nat) : Nat :=
  let endOf := 8 + 2 * min ntap (56 + 64 * j) + 4 * (j + 1)
  1815 + 65 * (2 + (endOf - 1) / 16)

/-- 0x0507: the excess in 1/8 ns of a front operation that begins too early by R198. -/
def ProgIn.early (x : ProgIn) (i : PInst) : Nat :=
  let taps := (x.gang i.arg).flatMap (fun ld => if ld.2.kind == 1 then [ld.2.tapb.toNat, ld.2.tapx.toNat] else [ld.2.tapb.toNat])
  let need := (taps.map (fun t => checkedBy x.v.ntap (tapSeg t))).foldl max 0
  let have_ := 8 * (x.g.ph i.phase * 12500750 + (2 + entryCyc i.phase + i.slot) * 10000000)
  (need * 12500750 - have_ + 12500749) / 12500750

/-- End bound of an operation by R198, in units of 1 / (128 f_lo) ns with f_lo in cycles per 10^7 ns. -/
def ProgIn.endBound (x : ProgIn) (i : PInst) : Nat :=
  128 * (fLo x.opmin * x.g.ph i.phase + 10000000 * (6 + entryCyc i.phase + i.slot + opCost i))

/-- Body segments of the worst-case drive frame in body order: the class and argument that makes each, and its bytes. -/
def ProgIn.body (x : ProgIn) : List ((Nat × Nat) × Nat) :=
  let p := x.cells
  let d := x.v.ndrv
  (if 0 < p then [((7, 0), 76)] else []) ++
  (List.range ((p + 63) / 64)).map (fun q => ((8, q), 2 * min 64 (p - 64 * q) + 4)) ++
  (List.range ((d + 63) / 64)).map (fun q => let w := min 64 (d - 64 * q); ((9, q), 2 * w + (w + 7) / 8 + 4))

/-- The wire check of R201: the frame's close in the units of endBound. -/
def ProgIn.wire (x : ProgIn) : Nat :=
  let f := fLo x.opmin
  let x0 := max (20 * 128 * f) (30 * 10000000 * 128) + 1040 * f
  let y := x.body.foldl (fun a sg =>
    let rel := match x.at sg.1.1 sg.1.2 with
      | i :: _ => x.endBound (x.g.ins.getD i {})
      | [] => 0
    max a rel + 65 * f * sg.2) x0
  y + 7 * 1040 * f

/-- Blocks of that frame (R68). -/
def ProgIn.blocks (x : ProgIn) : Nat := 2 + (x.body.foldl (fun a sg => a + sg.2) 0) / 16

/-- Table 8.12's program checks of one vat, whose program header stands at byte o of the section: 0x0503 of the header first, then
code by code in the table's order; a code about no one instruction has the header's first byte as its OFFSET; an excess of time is
rounded up to 1/8 ns. (DESIGN CHOICE, log 79.) -/
def progCheck (b o : Nat) (t : List Byte) (x : ProgIn) : Chk :=
  let nph := byteAt t (o + 1)
  let nins := leAt t (o + 2) 2
  let e (code : Nat) : LoadErr := { code := code, sect := 3, vat := x.v.vat, offset := b + o }
  let at_ (code j : Nat) : LoadErr := { e code with index := j, offset := b + o + 32 + 8 * j, phase := (x.g.ins.getD j {}).phase }
  let excess := fun (v lim f : Nat) => (8 * (v - lim) + 128 * f - 1) / (128 * f)
  firstBad [
    chk (byteAt t o != x.v.vat) { e 0x0503 with detail := some (byteAt t o) },
    chk (rangeBad 1 8 nph) { e 0x0503 with detail := some nph, offset := b + o + 1 },
    chk (rangeBad 1 128 nins) { e 0x0503 with detail := some nins, offset := b + o + 2 },
    (List.range nph).findSome? (fun p => 
      let q := min (p + 1) (nph - 1)
      chk (decide (x.g.ph (p + 1) < x.g.ph p + 20)) { e 0x0503 with phase := p, detail := some (x.g.ph q), offset := b + o + 2 + 2 * q }),
    zeroIn t (o + 2 + 2 * nph) (o + 32) b { sect := 3, vat := x.v.vat },
    (List.range nins).findSome? (fun j => zeroIn t (o + 32 + 8 * j + 6) (o + 32 + 8 * j + 8) b { sect := 3, vat := x.v.vat, index := j }),
    (List.range nins).findSome? (fun j =>
      let i := x.g.ins.getD j {}
      firstBad [chk (decide (10 < i.opc)) { at_ 0x0501 j with detail := some i.opc },
        chk (decide (nph ≤ i.phase)) { at_ 0x0501 j with detail := some i.phase, offset := b + o + 32 + 8 * j + 1 },
        chk (!argOk i) { at_ 0x0501 j with detail := some i.arg, offset := b + o + 32 + 8 * j + 4 }]),
    (List.range nins).findSome? (fun j =>
      let w := x.orderAt j
      chk (!x.inOrder j) { at_ 0x0502 j with detail := some w.2, offset := b + o + 32 + 8 * j + w.1 }),
    (List.range nph).findSome? (fun p => chk (decide (x.g.slots x.opmin p < x.g.used p))
      { e 0x0504 with phase := p, detail := some (65536 * x.g.used p + x.g.slots x.opmin p) }),
    progClasses.findSome? (fun c =>
      let r := (x.at c.1 c.2)[x.want c.1 c.2]?
      chk ((x.at c.1 c.2).length != x.want c.1 c.2) { (r.elim (e 0x0505) (at_ 0x0505)) with detail := some c.1 }),
    x.before.findSome? (fun c => match x.at c.1.1 c.1.2, x.at c.2.1 c.2.2 with
      | i :: _, j :: _ => chk (decide (j ≤ i)) { at_ 0x0506 j with detail := some c.2.1 }
      | _, _ => none),
    (List.range nins).findSome? (fun j =>
      let i := x.g.ins.getD j {}
      chk ((i.opc == 4 || i.opc == 5) && decide (0 < x.early i)) { at_ 0x0507 j with detail := some (x.early i) }),
    chk (decide (1020 * 128 * fLo x.opmin < x.wire))
      { e 0x0508 with detail := some (excess x.wire (1020 * 128 * fLo x.opmin) (fLo x.opmin)) },
    chk (decide (116 < x.blocks)) { e 0x0509 with detail := some x.blocks },
    (List.range 16).findSome? (fun g => (x.mixed g).map (fun l => { e 0x050A with index := l, detail := some g }))]

/-- The programs, vat by vat: their positions come from the lengths before them. -/
def progsCheck (b : Nat) (t : List Byte) (descs : Tbl Desc) (opmin : Nat) : Nat → List VatEntry → Chk × Tbl Prog
  | o, [] => (lenCheck t o 3 b, [])
  | o, v :: r =>
    let n := 32 + 8 * leAt t (o + 2) 2
    let x : ProgIn := { v := v, loops := loopsOf descs v.vat, g := parseProg t o, opmin := opmin }
    if t.length < o + 32 ∨ t.length < o + n then (some { code := 0x0108, sect := 3, detail := some t.length, offset := b }, [])
    else
      match progCheck b o t x with
      | some e => (some e, [])
      | none =>
        let y := progsCheck b t descs opmin (o + n) r
        (y.1, (v.vat, x.g) :: y.2)

/-! ### Forms (R130, R191) -/

/-- The outputs of the VALID entries of PERM. -/
def permOuts (f : List Byte) : List Nat := (permList (formPerm f)).filterMap id

/-- R130 in its order, codes 0x0603 to 0x0608; 0 for none. -/
def formCode (topo : Nat) (descs : Tbl Desc) (f : List Byte) : Nat :=
  let cells := descs.filterMap (fun kd => if kd.2.kind == 1 then some kd.2.idx.toNat else none)
  let ports := descs.filterMap (fun kd => if kd.2.kind == 2 then some kd.2.idx.toNat else none)
  let outs := permOuts f
  let resv := leAt f 0 2 != 1 || decide (2 ≤ byteAt f 2) || byteAt f 3 != 0 || (zeroIn f 28 64 0).isSome ||
    (List.range 1024).any (fun i => leAt f (3648 + 2 * i) 2 / 1024 % 32 != 0) || (zeroIn f 5696 6140 0).isSome
  if resv || f.length != 6144 then 0x0603
  else if crc32c (f.take 6140) ≠ leAt f 6140 4 then 0x0604
  else if outs.eraseDups.length ≠ outs.length then 0x0605
  else if leAt f 6 2 ≠ outs.length then 0x0606
  else if leAt f 8 4 ≠ topo then 0x0607
  else if (List.range 12288).any (fun c => cellBit (formCells f) c && !cells.contains c) ||
      (List.range 2048).any (fun p => formLvl f p != 0 && !ports.contains p) then 0x0608
  else 0

/-- The place in a form of the first offending byte under a code of R130, and the offending value (log 79). -/
def formAt (descs : Tbl Desc) (f : List Byte) (c : Nat) : Nat × Option Nat :=
  let uses (k : BitVec 2) (x : Nat) : Bool := descs.any (fun kd => kd.2.kind == k && kd.2.idx.toNat == x)
  match c with
  | 0x0603 =>
    let resv := [(2, 0xFE), (3, 0xFF)] ++ (List.range 36).map (fun k => (28 + k, 0xFF)) ++
      (List.range 1024).map (fun i => (3649 + 2 * i, 0x7C)) ++ (List.range 444).map (fun k => (5696 + k, 0xFF))
    if leAt f 0 2 != 1 then (0, some (leAt f 0 2))
    else match reservedByte f 0 resv with
      | some k => (k, some (byteAt f k))
      | none => (0, none)
  | 0x0604 => (6140, some (leAt f 6140 4))
  | 0x0605 =>
    let p := permList (formPerm f)
    match (List.range 1024).find? (fun i => (p.getD i none).isSome && (p.take i).contains (p.getD i none)) with
    | some i => (3648 + 2 * i, p.getD i none)
    | none => (3648, none)
  | 0x0606 => (6, some (leAt f 6 2))
  | 0x0607 => (8, some (leAt f 8 4))
  | _ =>
    match (List.range 12288).find? (fun x => cellBit (formCells f) x && !uses 1 x) with
    | some x => (64 + x / 8, some x)
    | none => match (List.range 2048).find? (fun x => formLvl f x != 0 && !uses 2 x) with
      | some x => (1600 + x, some (formLvl f x))
      | none => (1600, none)

/-- A LEVEL table of 256 entries from byte o on; the first entry above 0x7FFF. -/
def levelsAt (t : List Byte) (o : Nat) : List (BitVec 16) := (List.range 256).map (fun q => BitVec.ofNat 16 (leAt t (o + 2 * q) 2))
def levelBad (t : List Byte) (o : Nat) : Option Nat := (List.range 256).find? (fun q => decide (0x7FFF < leAt t (o + 2 * q) 2))

/-- Forms of a section, by number. -/
def sectForms (t : List Byte) : List (Nat × List Byte) :=
  (List.range (leAt t 0 2)).map (fun i => (leAt t (576 + 6208 * i) 2, (t.drop (576 + 6208 * i + 64)).take 6144))

def formsCheck (b : Nat) (t : List Byte) (topo : Nat) (descs : Tbl Desc) : Chk :=
  let n := leAt t 0 2
  firstBad [chk (rangeBad 1 4096 n) { code := 0x0601, sect := 4, detail := some n, offset := b },
    zeroIn t 2 4 b { sect := 4 }, zeroIn t 516 576 b { sect := 4 }, lenCheck t (576 + 6208 * n) 4 b,
    (List.range n).findSome? (fun i =>
      let o := 576 + 6208 * i
      let f := leAt t o 2
      firstBad [chk (decide (4095 < f) || (decide (0 < i) && decide (f ≤ leAt t (o - 6208) 2)))
          { code := 0x0601, sect := 4, index := f, detail := some f, offset := b + o },
        zeroIn t (o + 2) (o + 64) b { sect := 4, index := f }]),
    (levelBad t 4).map (fun q => { code := 0x0602, sect := 4, detail := some (leAt t (4 + 2 * q) 2), offset := b + 4 + 2 * q }),
    (List.range n).findSome? (fun i =>
      let o := 576 + 6208 * i
      let f := (t.drop (o + 64)).take 6144
      let c := formCode topo descs f
      chk (c != 0) { code := c, sect := 4, index := leAt t o 2, detail := (formAt descs f c).2,
                     offset := b + o + 64 + (formAt descs f c).1 })]

/-! ### The gate list (R136, Table 6.3, R192) -/

/-- Sum of the durations. -/
def gateSum (g : List GateEntry) : Nat := g.foldl (fun a e => a + e.dur) 0

/-- B(k - 2) of entry i, in a frame where cycles count on from n entries. -/
def decStart (g : List GateEntry) (i : Nat) : Int :=
  let n := g.length
  let st : Int := gateSum (g.take i)
  st - (g.getD ((i + n - 1) % n) {}).dur - (g.getD ((i + 2 * n - 2) % n) {}).dur

/-- A cell changes at both boundaries of a slot. -/
def doubleChange (a b c : List Byte) : Bool :=
  (List.range 1536).any (fun q => ((byteAt a q ^^^ byteAt b q) &&& (byteAt b q ^^^ byteAt c q)) != 0)

/-- Table 6.3 in its order over a gate list and the plan's forms: the code and the entry. -/
def gateCode (g : List GateEntry) (forms : List (Nat × List Byte)) : Option (Nat × Nat) :=
  let n := g.length
  let form (f : Nat) : Option (List Byte) := (forms.find? (·.1 == f)).map (·.2)
  let cellsOf (e : GateEntry) : List Byte := formCells ((form e.form).getD [])
  let each (p : Nat → GateEntry → Bool) (code : Nat) : Option (Nat × Nat) :=
    ((List.range n).find? (fun i => p i (g.getD i {}))).map (fun i => (code, i))
  let dem := (List.range n).filter (fun i => (g.getD i {}).demand)
  let next := dem.drop 1 ++ dem.take 1
  [(if n = 0 ∨ 4096 < n then some (0x0701, 0xFFFF) else none),
   each (fun _ e => rangeBad 2 1000000 e.dur || (e.demand && decide (e.dur < 8))) 0x0702,
   (if 1000000 < gateSum g then some (0x0703, 0xFFFF) else none),
   each (fun _ e => rangeBad 30 90 e.rind) 0x0704,
   each (fun _ e => (form e.form).isNone || (!e.demand && e.cset != 0)) 0x0705,
   each (fun _ e => e.demand && !forms.any (fun f => formChoose f.2 && bit (formCmask f.2) e.cset)) 0x0706,
   ((dem.zip next).find? (fun ab => decide (decStart g ab.2 - decStart g ab.1 + (if ab.2 ≤ ab.1 then gateSum g else 0) < (5 : Int)))).map
     (fun ab => (0x0707, ab.2)),
   each (fun i e => e.dur == 2 && (
      let p := g.getD ((i + n - 1) % n) {}
      let q := g.getD ((i + 1) % n) {}
      p.demand || q.demand || doubleChange (cellsOf p) (cellsOf e) (cellsOf q))) 0x0708].findSome? id

/-- The first offending byte under a code of Table 6.3, counted from the entry (or, of the list as a whole, from the section's
first byte), and the offending value: the field that the check finds wrong; of Short slot, the duration (log 79). -/
def gateAt (g : List GateEntry) (c i : Nat) : Nat × Option Nat :=
  let e := g.getD i {}
  match c with
  | 0x0701 => (0, some g.length)
  | 0x0703 => (4, some (gateSum g))
  | 0x0704 => (2, some e.rind)
  | 0x0705 => if !e.demand && e.cset != 0 then (3, some e.cset) else (4, some e.form)
  | 0x0706 => (3, some e.cset)
  | 0x0707 =>
    let dem := (List.range g.length).filter (fun j => (g.getD j {}).demand)
    let p := ((dem.filter (fun j => decide (j < i))).getLast?).getD (dem.getLast?.getD 0)
    (0, some (decStart g i - decStart g p + (if i ≤ p then gateSum g else 0)).toNat)
  | _ => (0, some e.dur)

def gateCheck (b : Nat) (t : List Byte) (forms : List (Nat × List Byte)) : Chk :=
  let n := leAt t 0 2
  let g := (List.range n).map (fun i => parseGate t (16 + 8 * i))
  firstBad [chk (decide (t.length < 16)) { code := 0x0108, sect := 5, detail := some t.length, offset := b },
    zeroIn t 2 4 b { sect := 5 }, zeroIn t 8 16 b { sect := 5 }, lenCheck t (16 + 8 * n) 5 b,
    (List.range n).findSome? (fun i => (reservedByte t (16 + 8 * i) gateMask).map (fun k =>
      { code := 0x0107, sect := 5, index := i, detail := some (byteAt t (16 + 8 * i + k)), offset := b + 16 + 8 * i + k })),
    (gateCode g forms).map (fun c =>
      { code := c.1, sect := 5, index := c.2, detail := (gateAt g c.1 c.2).2,
        offset := b + (if c.2 = 0xFFFF then 0 else 16 + 8 * c.2) + (gateAt g c.1 c.2).1 }),
    chk (leAt t 4 4 != gateSum g) { code := 0x0709, sect := 5, detail := some (leAt t 4 4), offset := b + 4 }]

/-! ### Tuning and demand (R193, R194) -/

def tuneCheck (b : Nat) (t : List Byte) (vs : List VatEntry) : Chk :=
  let safe := byteAt t 0
  let step := leAt t 2 2
  firstBad [chk (decide (t.length < 16)) { code := 0x0108, sect := 6, detail := some t.length, offset := b },
    zeroIn t 6 16 b { sect := 6 }, lenCheck t (16 + 4 * (vs.foldl (fun a v => a + v.ntap) 0)) 6 b,
    chk (decide (1 < safe)) { code := 0x0801, sect := 6, detail := some safe, offset := b },
    chk (decide (1 < byteAt t 1)) { code := 0x0801, sect := 6, detail := some (byteAt t 1), offset := b + 1 },
    chk ((safe == 1) != (step != 0)) { code := 0x0801, sect := 6, detail := some step, offset := b + 2 },
    chk (decide (0x7FFF < leAt t 4 2)) { code := 0x0802, sect := 6, detail := some (leAt t 4 2), offset := b + 4 }]

/-- The slot of the vat's CAL_TAP record and its words: those of its EIC identity and tap count (R193). -/
def Dev.tapSlot (s : Dev) (v : VatEntry) : Option (Nat × List Byte) :=
  let id := if v.eicid ≠ 0 then some v.eicid else (s.vat v.vat).eicId
  match id with
  | some i =>
    let key := i.toNat + 2 ^ 40 * v.ntap
    (List.range 128).findSome? (fun q => match s.nvWin (4 + q) with
      | some c => if c.key = key ∧ c.payload.length = 4 * v.ntap then some (4 + q, c.payload) else none
      | none => none)
  | none => none

def Dev.tapRecord (s : Dev) (v : VatEntry) : Option (List Byte) := (s.tapSlot v).map (·.2)

/-- The record store checks every CAL_TAP record that a load of the image reads (09 R234). -/
def Dev.tapReads (im : List Byte) (s : Dev) : Dev :=
  Dev.each (if bit (byteAt (sectOf im 6).2 1) 0 then topoVats (sectOf im 1).2 else []) (fun s v => match s.tapSlot v with
    | some x => s.nvCheck x.1
    | none => s) s

/-- Calibration words of every vat: from the record under CALREC, else from the section. -/
def Dev.calWords (s : Dev) (t : List Byte) : Nat → List VatEntry → Tbl Word
  | _, [] => []
  | o, v :: r =>
    let src := match (if bit (byteAt t 1) 0 then s.tapRecord v else none) with
      | some l => l
      | none => (t.drop o).take (4 * v.ntap)
    (List.range v.ntap).filterMap (fun c =>
      let w := BitVec.ofNat 32 (leAt src (4 * c) 4)
      if w = 0 then none else some (chKey v.vat c, w)) ++ s.calWords t (o + 4 * v.ntap) r

def parseSvc (t : List Byte) (o : Nat) : Svc :=
  let w (k : Nat) : Word := BitVec.ofNat 32 (leAt t (o + k) 4)
  { cir := w 0, pir := w 4, cbs := w 8, pbs := w 12 }

/-- A meter configuration that R167 refuses. -/
def Svc.bad (c : Svc) : Bool := decide (c.pir.toNat < c.cir.toNat) || c.cbs == 0 || c.pbs == 0

/-- The field of a refused meter that offends, with its place in the record's service: PIR below CIR, CBS 0, PBS 0. -/
def Svc.badAt (c : Svc) : Nat × Nat := if c.pir.toNat < c.cir.toNat then (4, c.pir.toNat) else if c.cbs == 0 then (8, 0) else (12, 0)

def sectSubs (t : List Byte) (nin : Nat) : List (Nat × SubCfg) :=
  (List.range (leAt t 0 2)).map (fun q =>
    let o := 16 + 8 * nin + 136 * q
    (leAt t o 2, { en := bit (byteAt t (o + 2)) 0, sw := BitVec.ofNat 8 (byteAt t (o + 3)),
                   svc := (List.range 8).map (fun v => parseSvc t (o + 8 + 16 * v)) }))

/-- The demand section (R194), subscriber by subscriber: its meters, its number, then its reserved bits (DESIGN CHOICE, log 79). -/
def demCheck (b : Nat) (t : List Byte) (nin : Nat) : Chk :=
  let n := leAt t 0 2
  firstBad [chk (decide (t.length < 16)) { code := 0x0108, sect := 7, detail := some t.length, offset := b },
    zeroIn t 13 16 b { sect := 7 },
    chk (t.length != 16 + 8 * nin + 136 * n) { code := 0x0108, sect := 7, detail := some t.length, offset := b },
    (List.range nin).findSome? (fun i => zeroIn t (16 + 8 * i + 7) (16 + 8 * i + 8) b { sect := 7 }),
    (List.range n).findSome? (fun q =>
      let o := 16 + 8 * nin + 136 * q
      let sub := leAt t o 2
      let before := (List.range q).any (fun r => leAt t (16 + 8 * nin + 136 * r) 2 == sub)
      firstBad [(List.range 8).findSome? (fun v =>
          let c := parseSvc t (o + 8 + 16 * v)
          chk c.bad { code := 0x0901, sect := 7, index := sub, detail := some c.badAt.2, offset := b + o + 8 + 16 * v + c.badAt.1 }),
        chk (decide (4095 < sub) || before) { code := 0x0902, sect := 7, index := sub, detail := some sub, offset := b + o },
        chk (decide (2 ≤ byteAt t (o + 2))) { code := 0x0107, sect := 7, index := sub, detail := some (byteAt t (o + 2)), offset := b + o + 2 },
        zeroIn t (o + 4) (o + 8) b { sect := 7, index := sub }]),
    chk (decide (15 < byteAt t 12)) { code := 0x0903, sect := 7, detail := some (byteAt t 12), offset := b + 12 }]

def demOf (t : List Byte) (nin : Nat) : DemCfg :=
  { cwg := BitVec.ofNat 8 (byteAt t 2), cwy := BitVec.ofNat 8 (byteAt t 3), vw := (t.drop 4).take 8, ageSh := byteAt t 12,
    cap := (List.range nin).map (fun i => BitVec.ofNat 32 (leAt t (16 + 8 * i) 4)),
    drate := (List.range nin).map (fun i => leAt t (16 + 8 * i + 4) 3),
    subs := sortBy (fun a b => decide (a.1 ≤ b.1)) (sectSubs t nin) }

/-! ### The whole check (R204) -/

/-- Slots of a bank's map. -/
def Fs.slotsOf (f : Fs) (b : Bool) : List Nat := (if b then f.map1 else f.map0).filterMap (·.2)

/-- Place forms (R133) beside the bank in force: for each, its slot and whether it is shared; none when a form finds no
slot. Of several free slots the lowest is taken (log 12). -/
def placeForms (f : Fs) (force : Option Bool) (taken : List Nat) : List (Nat × List Byte) → Option (List (Nat × Nat × Bool))
  | [] => some []
  | (num, by_) :: r =>
    let share := match force with
      | some b => (f.slotsOf b).find? (fun q => (f.slots.get q).bytes == by_)
      | none => none
    match share with
    | some q => (placeForms f force taken r).map (fun l => (num, q, true) :: l)
    | none =>
      match (List.range 4096).find? (fun q => !taken.contains q) with
      | some q => (placeForms f force (q :: taken) r).map (fun l => (num, q, false) :: l)
      | none => none

/-- The slots that belong to either bank, or to a plan not yet retired (01 R26). -/
def Fs.taken (f : Fs) : List Nat := f.slotsOf false ++ f.slotsOf true ++ f.kept

/-- The first of a list of forms that finds no slot. -/
def unplaced (f : Fs) (force : Option Bool) (l : List (Nat × List Byte)) : Nat :=
  ((List.range l.length).find? (fun i => (placeForms f force f.taken (l.take (i + 1))).isNone)).getD 0

/-- The bank in force. -/
def Dev.forceBank (s : Dev) : Option Bool := if s.on F.GL_STAT_PLAN then some (s.on F.GL_STAT_BANK) else none

/-- What the loader makes of an image: the first failed check of R204, or the plan, its forms and their slots. The staged
bank's map is empty by then (R207). -/
def Dev.loadImage (s : Dev) (im : List Byte) (len : Nat) : LoadErr ⊕ (Plan × List (Nat × List Byte) × List (Nat × Nat × Bool)) :=
  match firstBad [hdrCheck im len, dirCheck im len, compatCheck im, crcCheck im] with
  | some e => .inl e
  | none =>
    let t1 := sectOf im 1
    let t2 := sectOf im 2
    match firstBad [topoCheck t1.1 t1.2 (leAt im 28 4), pairCheck t1.1 t1.2 t2.2, s.idCheck t1.1 (topoVats t1.2)] with
    | some e => .inl e
    | none =>
      let vs := topoVats t1.2
      let nbrs := topoPairs t1.2
      match descsCheck t2.1 t2.2 vs nbrs with
      | some e => .inl e
      | none =>
        let descs := sectDescs t2.2 vs
        let t3 := sectOf im 3
        let op := byteAt im 25
        let pr := progsCheck t3.1 t3.2 descs op 0 vs
        match pr.1 with
        | some e => .inl e
        | none =>
          let t4 := sectOf im 4
          let topo := topoCrc t1.2
          match formsCheck t4.1 t4.2 topo descs with
          | some e => .inl e
          | none =>
            let forms := sectForms t4.2
            match placeForms s.fs s.forceBank s.fs.taken forms with
            | none =>
              let q := unplaced s.fs s.forceBank forms
              .inl { code := 0x0609, sect := 4, index := (forms.getD q (0, [])).1, detail := some (forms.getD q (0, [])).1,
                     offset := t4.1 + 576 + 6208 * q }
            | some pl =>
              let t5 := sectOf im 5
              let t6 := sectOf im 6
              let t7 := sectOf im 7
              let nin := leAt t1.2 0 2
              match firstBad [gateCheck t5.1 t5.2 forms, tuneCheck t6.1 t6.2 vs, demCheck t7.1 t7.2 nin] with
              | some e => .inl e
              | none =>
                let g := (List.range (leAt t5.2 0 2)).map (fun i => parseGate t5.2 (16 + 8 * i))
                .inr ({ opmin := op, planid := BitVec.ofNat 64 (leAt im 32 8), topo := BitVec.ofNat 32 topo, nin := nin,
                        nout := leAt t1.2 2 2, vats := vs, nbrs := nbrs, descs := descs, progs := pr.2, level := levelsAt t4.2 4,
                        gate := g, cyclen := gateSum g, dark := byteAt t6.2 0 == 1, darkStep := leAt t6.2 2 2,
                        pchkTh := leAt t6.2 4 2, cal := s.calWords t6.2 16 vs, dem := demOf t7.2 nin }, forms, pl)

/-- The highest one-phase use at OPMIN (R205): vat, slots used, slots available; the first of equals. -/
def Plan.topUse (p : Plan) : Nat × Nat × Nat :=
  p.progs.foldl (fun a vg => (List.range vg.2.phases.length).foldl (fun a ph =>
    if a.2.1 < vg.2.used ph then (vg.1, vg.2.used ph, vg.2.slots p.opmin ph) else a) a) (0, 0, 0)

end Sys2Proof.Machine
end

