-- ==== Sys2Proof/Machine/Bm.lean ====
section
/-!
DEFINITION. The bus matrix (12): requests and their checks (R285 to R287, R293), arbitration (R290), responses and errors
(R288, R289), register slices (R294, R295), and drains after a master reset (R296); what bus-port counters count (15 R348).
-/
namespace Sys2Proof.Machine

/-- The master sets only attributes of its own row (R285): PL and class. -/
def bmOwn (q : BmReq) (m : Nat) : Bool :=
  match m with
  | 0 => q.pl == 0
  | 1 => (q.pl == 1 || q.pl == 2) && q.cls == 0
  | 2 => q.pl == 0 && (if q.mid = 5 then q.cls == 0 else q.cls == 2)
  | 3 => q.pl == 0 && (q.cls == 1 || q.cls == 3)
  | 4 => q.pl == 0 && q.cls == 0
  | _ => q.pl == 3 && q.cls == 3

/-- Reach of master m at target t (Table 12.3): reads, writes. -/
def reachOf (m t : Nat) : Bool × Bool :=
  match m, t with
  | 0, _ => (true, true)
  | 1, 6 => (true, true)
  | 1, 7 => (false, true)
  | 2, 5 => (false, true)
  | 3, 0 => (true, true)
  | 3, 4 => (true, true)
  | 3, 1 => (false, true)
  | 3, 2 => (false, true)
  | 3, 3 => (false, true)
  | 3, 6 => (false, true)
  | 3, 5 => (true, false)
  | 4, 1 => (false, true)
  | 4, 2 => (false, true)
  | 4, 6 => (true, true)
  | 5, 5 => (false, false)
  | 5, 6 => (true, true)
  | 5, _ => (true, false)
  | _, _ => (false, false)

/-- Bytes of a target's window. -/
def windowOf (t : Nat) : Nat :=
  match t with
  | 0 => 2 ^ 25
  | 1 => 2 ^ 24
  | 2 => 2 ^ 24
  | 3 => 2 ^ 26
  | 4 => 2 ^ 26
  | 5 => 2 ^ 64
  | 6 => 2 ^ 24
  | _ => 2 ^ 21

/-- Transactions a target accepts outstanding (Table 12.3). -/
def acceptsOf (t : Nat) : Nat :=
  match t with
  | 4 => 4
  | 5 => 128
  | 6 => 8
  | _ => 16

/-- The burst keeps R286. -/
def bmShaped (q : BmReq) : Bool :=
  let a := q.addr.toNat
  decide (1 ≤ q.beats.toNat) && decide (q.beats.toNat ≤ 16) && decide (a % 4096 + bmLen q ≤ 4096) &&
    decide (a + bmLen q ≤ windowOf q.tgt.toNat) && (q.tgt != 6 || (q.beats == 1 && a % 4 == 0))

/-- The offset in the register map: T6 holds two apertures that map the same registers (11 R263). -/
def t6Off (q : BmReq) : Nat := q.addr.toNat % 0x800000

/-- The debug port writes in the PC window only (Table 12.3). -/
def pcWindow (off : Nat) : Bool := decide (0x150000 ≤ off) && decide (off < 0x160000)

/-- The matrix lets the request through (R287); the debug master writes T6 in the PC window only. Where the mailbox buffers lie in
T7 the spec does not say: what the host's master writes there are the copies of mailbox requests, of at most 4 KiB each. -/
def bmReaches (q : BmReq) (m : Nat) : Bool :=
  let r := reachOf m q.tgt.toNat
  (if q.write then r.2 else r.1) && !(m == 1 && q.tgt == 7 && !Config.mailboxBuffer q.addr) &&
    !(m == 5 && q.tgt == 6 && q.write && !pcWindow (t6Off q))

/-! ### Error responses (R288) -/

/-- The BM_ERR_INFO word of a transaction with a code. -/
def BmW.errInfo (w : BmW) (code beats : Nat) : Nat :=
  2 ^ 31 + 2 ^ 28 * w.q.tgt.toNat + 2 ^ 24 * w.q.mid.toNat + 2 ^ 22 * w.q.pl.toNat + 2 ^ 20 * w.q.cls.toNat + 2 ^ 16 * w.qos +
    (if w.q.write then 2 ^ 15 else 0) + 2 ^ 12 * code + beats

/-- An error code from 1 to 4: its event, count, line and capture. -/
def Dev.bmError (s : Dev) (w : BmW) (code : Nat) : Dev :=
  let info := w.errInfo code ((w.q.beats.toNat + 15) % 16)
  let s := match code with
    | 1 => (s.count F.BM_PRIV_CNT).event F.BM_EVT_PRIV
    | 2 => (s.count F.BM_DEC_CNT).event F.BM_EVT_DECERR
    | 3 => (s.count F.BM_SLV_CNT).event F.BM_EVT_SLVERR
    | _ => (s.count F.BM_TOUT_CNT).event F.BM_EVT_TOUT
  let s := s.raise (0x1100 + code) (if code < 3 then 0 else 1) (srcWord 17) info
  if s.on F.BM_ERR_INFO_VALID then s.event F.BM_EVT_ERR_LOST
  else ((s.setReg R.BM_ERR_INFO (BitVec.ofNat 32 info)).wr2 R.BM_ERR_ADDR_LO w.q.addr.toNat).wr2 R.BM_ERR_N_LO s.now

/-! ### Bus-port counters (15 R348) -/

/-- Bus-port counter j takes a transaction: its port and filters. -/
def Dev.bpFilter (s : Dev) (j : Nat) (w : BmW) : Bool :=
  let port := s.pcRd (F.PC_BPSEL_PORT j)
  let page := min (w.q.addr.toNat / 4096) 0xFFFFFFFF
  (if port < 8 then w.q.tgt.toNat == port else w.m + 8 == port) &&
    bit (s.pcRd (F.PC_BPSEL_PLMASK j)) w.q.pl.toNat && bit (s.pcRd (F.PC_BPSEL_MMASK j)) w.m &&
    bit (s.pcRd (F.PC_BPSEL_CLMASK j)) w.q.cls.toNat &&
    decide (s.pcRd (F.PC_BPWB j) ≤ page) && decide (page ≤ s.pcRd (F.PC_BPWL j))

/-- The counters whose filters pass a transaction. -/
def Dev.bpPasses (s : Dev) (w : BmW) : List Nat := (List.range 8).filter (fun j => s.bpFilter j w)

/-- n events e of Table 15.1 for the counters of a list that select e. -/
def Dev.bpCount (s : Dev) (js : List Nat) (e n : Nat) : Dev :=
  Dev.each js (fun s j =>
    if s.pcRd (F.PC_BPSEL_EVENT j) = e ∧ !s.on F.PC_CTL_FREEZE then s.add64 (R.PC_BPCNT_LO j) n else s) s

/-- The beats of a transaction pass in consecutive clocks. -/
def Dev.bpBeats (s : Dev) (w : BmW) : Dev :=
  let n := w.q.beats.toNat
  ((s.bpCount w.grantedFor 2 n).bpCount w.grantedFor (if w.q.write then 4 else 3) n).bpCount w.grantedFor 7 n

/-- A transaction is granted, its filters tested: a write's beats follow at once, a read's with its response. -/
def Dev.bpGrant (s : Dev) (w : BmW) : Dev :=
  let s := s.bpCount w.grantedFor 1 1
  if w.q.write then s.bpBeats w else s

/-! ### Requests (R285 to R287, R293) -/

/-- The QOS of a class at a master (BM_QOS_m). -/
def Dev.qosOf (s : Dev) (m cls : Nat) : Nat := (s.reg (R.BM_QOS_0 + 4 * m)).toNat / 16 ^ cls % 16

/-- BM_STAT as transactions stand: TBUSY and TSTALL; a stalled target answers again once it holds none that timed out. -/
def Dev.bmStat (s : Dev) : Dev :=
  let busy := maskOf ((s.bm.out.map (·.q.tgt.toNat)).eraseDups)
  let stall := maskOf (((s.bm.out.filter (·.late)).map (·.q.tgt.toNat)).eraseDups)
  let keep := maskOf ((bitsOf 8 (s.rd F.BM_STAT_TSTALL)).filter (bit busy))
  (s.wr F.BM_STAT_TBUSY busy).wr F.BM_STAT_TSTALL (stall ||| keep)

/-- What a read returns with OKAY: the bytes the matrix knows, the others as the target gives them. -/
def BmW.readData (w : BmW) (data : List Byte) : List Byte :=
  w.known.foldl (fun l kb => l.set kb.1 kb.2) (fit (bmLen w.q) data)

/-- What a read returns by its code (Table 12.4): with SLVERR the target gives 0 from the failing beat on, at T6 the one beat, and
with another error all is 0. -/
def BmW.answerData (w : BmW) (code : Nat) (data : List Byte) : List Byte :=
  if code = 0 then w.readData data
  else if code = 3 ∧ w.q.tgt ≠ 6 then fit (bmLen w.q) data
  else zeros (bmLen w.q)

/-- The answer a master sees; the debug tool receives the code of every error (Table 12.5). -/
def Dev.bmAnswer (s : Dev) (w : BmW) (code : Nat) (data : List Byte) : Dev :=
  if w.q.write then (if w.m = 5 ∧ code ≠ 0 then s.send (.busAnswer w.q.mid.toNat code []) else s)
  else s.send (.busAnswer w.q.mid.toNat code (w.answerData code data))

/-- The stewards' command in progress, the oldest one, fails with the code in DETAIL2 (Table 12.5; log 74). -/
def Dev.m0Fails (s : Dev) (code : Nat) : Dev :=
  let l := s.mbx.filter (fun x => decide (x.1 < 8) && x.2.ready.isNone && s.rd (F.MB_STAT_STATE x.1) == 1)
  match l.foldl (fun (a : Option (Nat × Mbx)) x => match a with
      | some y => if x.2.bell < y.2.bell then some x else a
      | none => some x) none with
  | some x => (s.orphan (fun k => k == x.1)).finish x.1 2 0 code []
  | none => s

/-- The calibration run in progress, the oldest one, ends ABORTED (Table 12.5). -/
def Dev.m4Fails (s : Dev) : Dev := match s.cal.runs.find? (fun r => !r.ended) with
  | some r => s.runFail 3 r
  | none => s

def Dev.modRing (r : Nat) (f : Ring → Ring) (s : Dev) : Dev := { s with evq := { s.evq with rings := s.evq.rings.mod r f } }
def Dev.modTRing (r : Nat) (f : TRing → TRing) (s : Dev) : Dev := { s with trc := { s.trc with rings := s.trc.rings.mod r f } }

/-- A RING record of this instant (11 Table 11.10). -/
def Dev.ringEv (s : Dev) (code ring dropped : Nat) : Ev :=
  { ty := 6, code := BitVec.ofNat 32 code, src := srcWord (if code = 0 then 3 else 2), sample := s.now, ns := s.tb.ns,
    sec := s.tb.sec, data := [BitVec.ofNat 8 ring, 0, 0, 0] ++ toLe 8 dropped }

/-- n records of event ring r are lost and counted (11 R273). -/
def Dev.evDrop (r n : Nat) (s : Dev) : Dev :=
  (s.count (F.EVQ_DROP r) n).modRing r (fun x => { x with lost := x.lost + n })

/-- n records of trace ring r are lost and counted: the first since TRC_DROP_r was read is reported (11 R276). -/
def Dev.trDrops (r n : Nat) (s : Dev) : Dev :=
  let first := !(s.trc.rings.get r).dropNoted
  let s := ((s.count (F.TRC_DROP r) n).modTRing r (fun x => { x with lost := x.lost + n, dropNoted := true })).pcClock 0x0302 n
  if first then
    ({ s with evq := { s.evq with inbox := s.evq.inbox ++ [s.ringEv 0 r (s.rd (F.TRC_DROP r))] } }).msix (16 + r)
  else s

/-- A trace record of a capture is dropped: that of number i, or those that write to ring r (09 R228). -/
def Dev.capDrop (p : Cap → Bool) (s : Dev) : Dev :=
  let s := { s with cal := { s.cal with caps := s.cal.caps.map (fun (c : Cap) =>
    if p c then { c with dropped := c.dropped + 1 } else c) } }
  (s.count F.CAL_CAP_DROP).event F.CAL_EVT_CAP_DROP

/-- A write of EVQ or TRC that fails loses its records, 64 bytes each, on the ring whose buffer it reaches (Table 12.5). -/
def Dev.m2Fails (w : BmW) (s : Dev) : Dev :=
  let a := w.q.addr.toNat
  let n := (bmLen w.q + 63) / 64
  if w.q.mid = 5 then
    match (List.range 16).find? (fun r => s.on (F.EVQ_CFG_EN r) && decide (s.rd2 (R.EVQ_BASE_LO r) ≤ a) &&
        decide (a < s.rd2 (R.EVQ_BASE_LO r) + 64 * 2 ^ s.rd (F.EVQ_CFG_SIZE r))) with
    | some r => s.evDrop r n
    | none => s
  else
    match (List.range 8).find? (fun r => s.on (F.TRC_CFG_EN r) && decide (s.rd2 (R.TRC_BASE_LO r) ≤ a) &&
        decide (a < s.rd2 (R.TRC_BASE_LO r) + 2 ^ s.rd (F.TRC_CFG_SIZE r))) with
    | some r => Dev.when (w.q.data.head? == some 1) (Dev.capDrop (fun c => c.ring == r)) (s.trDrops r n)
    | none => s

/-- The place of the request whose plan.load is in progress. -/
def Dev.loadingMb (s : Dev) : Option Nat :=
  (s.mbx.find? (fun x => x.2.cmd == 0x0101 && x.2.taken && x.2.ready.isNone &&
    (decide (8 ≤ x.1) || s.rd (F.MB_STAT_STATE x.1) == 1))).map (·.1)

/-- A load that fails: DETAIL is its code; a value that no table names is free (08 R204, Table 8.11). -/
def Dev.loadFail (mb : Nat) (e : LoadErr) (s : Dev) : Dev :=
  (Dev.when e.detail.isNone (·.useFree) s).finish mb 2 e.code 0xFFFFFFFF (e.bytes s.free.toNat)

/-- The nv.record write in progress, the oldest one, that reads its record through M3. -/
def Dev.recordMb (s : Dev) : Option Nat :=
  (s.mbx.find? (fun x => x.2.cmd == 0x0701 && x.2.fld 0 1 == 2 && x.2.ready.isNone && decide (x.1 < 8) &&
    s.rd (F.MB_STAT_STATE x.1) == 1)).map (·.1)

/-- The load fails with 0x0A02, or a record write with BUS (Table 12.5): a load's transactions have class plan, a record's bulk. What
the record write has queued is dropped. -/
def Dev.m3Fails (w : BmW) (s : Dev) : Dev :=
  if w.q.cls = 1 then
    match s.loadingMb with
    | some mb => s.loadFail mb { code := 0x0A02 }
    | none => s
  else
    match s.recordMb with
    | some mb =>
      let s := { s with nv := { s.nv with queue := s.nv.queue.filter (fun (r : NvReq) => r.mb != some mb) } }
      (s.nvDepth.orphan (fun k => k == mb)).refuse mb 0x0C03
    | none => s

/-- What the master of a transaction does on an error response (Table 12.5). -/
def Dev.masterFails (s : Dev) (w : BmW) (code : Nat) : Dev :=
  match w.m with
  | 0 => s.m0Fails code
  | 1 => if !w.q.write ∧ 3 ≤ code then { s.send .pcieAbort with hif := { s.hif with aerAbort := s.hif.aerAbort + 1 } } else s
  | 2 => s.m2Fails w
  | 3 => s.m3Fails w
  | 4 => s.m4Fails
  | _ => s

/-- An error response: R288 and its count (15 R348), the answer, and what its master does; a master that was reset takes neither
(R296). -/
def Dev.bmHandle (s : Dev) (w : BmW) (code : Nat) (data : List Byte := []) : Dev :=
  let s := (s.bmError w code).bpCount w.grantedFor 6 1
  if w.drain then s else (s.bmAnswer w code data).masterFails w code

/-- T6 is stalled: each later request gets TOUT at once (R289). -/
def Dev.t6Stalled (s : Dev) : Bool := bit (s.rd F.BM_STAT_TSTALL) 6

/-- A request (R293), a write's data beats ready (R291; log 75). The highest code that applies refuses it at once; else it waits. A draining master's is not taken,
nor one of the debug port while DBG_TRST_N holds it in reset (16 R361). -/
def Dev.bmRequest (q : BmReq) (s : Dev) : Dev :=
  match masterOf q.mid.toNat with
  | none => s
  | some m =>
    if !bmOwn q m || bit (s.rd F.BM_STAT_DRAIN) m || (m == 5 && !s.pins.trstN) then s
    else
      let w : BmW := { q := q, qos := s.qosOf m q.cls.toNat }
      let w := { w with raisedFor := s.bpPasses w, grantedFor := s.bpPasses w }
      if bit (s.rd F.BM_STAT_TSTALL) q.tgt.toNat then s.bmHandle w 4
      else if !bmShaped q then s.bmHandle w 2
      else if !bmReaches q m then s.bmHandle w 1
      else { s with bm := { s.bm with wait := s.bm.wait ++ [w] } }

/-! ### Arbitration (R290 to R295) -/

/-- Slices that an operating point lets be bypassed (Table 12.6). -/
def sliceAllowed (op : Nat) : Nat := match op with
  | 0 => 0
  | 1 => 0x3FFF - 2 ^ 6 - 2 ^ 9
  | _ => 0x3FFF

/-- The effective slice mask at a point. -/
def Dev.sliceFor (s : Dev) (op : Nat) : Nat := (s.reg R.BM_SLICE).toNat % 2 ^ 14 &&& sliceAllowed op

def Dev.sliceEff (s : Dev) : Nat := (s.reg R.BM_SLICE_EFF).toNat

/-- A change of the effective state stops grants on its ports (R295). -/
def Dev.slicePause (s : Dev) (slices : Nat) : Dev :=
  if slices = s.sliceEff then ({ s with bm := { s.bm with sliceTo := none } }).wrB F.BM_STAT_PAUSE false
  else ({ s with bm := { s.bm with sliceTo := some slices } }).wrB F.BM_STAT_PAUSE true

/-- Ports whose slice is about to change: masters 0 to 5, targets 6 on. -/
def Dev.pausedPorts (s : Dev) : Nat := match s.bm.sliceTo with
  | some slices => slices ^^^ s.sliceEff
  | none => 0

/-- Slices switch (R295). -/
def Dev.slicesSwitch (s : Dev) : Dev :=
  match s.bm.sliceTo with
  | some slices =>
    let s := (s.setReg R.BM_SLICE_EFF (BitVec.ofNat 32 slices)).wrB F.BM_STAT_PAUSE false
    ({ s with bm := { s.bm with sliceTo := none } }).event F.BM_EVT_SLICE_CHG
  | none => s

/-- Limits of Table 12.2 on a master's outstanding transactions. -/
def Dev.masterRoom (s : Dev) (w : BmW) : Bool :=
  let lim := (s.reg (R.BM_LIMIT_0 + 4 * w.m)).toNat
  let n := (s.bm.out.filter (fun x => x.m == w.m && x.q.write == w.q.write && !x.late)).length
  decide (n < (if w.q.write then lim % 256 else lim / 256))

def Dev.targetRoom (s : Dev) (w : BmW) : Bool :=
  decide ((s.bm.out.filter (fun x => x.q.tgt == w.q.tgt && (w.q.tgt != 5 || x.q.write == w.q.write))).length <
    acceptsOf w.q.tgt.toNat)

/-- Two bursts share a byte of a target. -/
def bmOverlap (a b : BmReq) : Bool :=
  a.tgt == b.tgt && decide (a.addr.toNat < b.addr.toNat + bmLen b) && decide (b.addr.toNat < a.addr.toNat + bmLen a)

/-- Requests before w in issue order that w may not pass (R293): its master's of the same kind at the target, and a write
it reads from. -/
def blocks (x w : BmW) : Bool :=
  x.m == w.m && x.q.tgt == w.q.tgt && (x.q.write == w.q.write || (x.q.write && bmOverlap x.q w.q))

/-- The requests for target t that take part in arbitration, with their places. -/
def Dev.contenders (s : Dev) (t : Nat) : List (Nat × BmW) :=
  let l := s.bm.wait
  ((List.range l.length).filterMap (fun i => (l[i]?).map (fun w => (i, w)))).filter (fun iw =>
    iw.2.q.tgt.toNat == t && s.masterRoom iw.2 && s.targetRoom iw.2 && !bit s.pausedPorts iw.2.m &&
    !((l.take iw.1).any (fun x => blocks x iw.2)))

/-- The effective QoS (R290). -/
def Dev.effQos (s : Dev) (w : BmW) : Nat :=
  let a := s.rd F.BM_CFG_AGE
  if a = 0 then w.qos else min 15 (w.qos + w.wait / (16 * a))

/-- The place in round-robin order from pointer p; the stewards' cores in order of their IDs. -/
def rrKey (p : Nat) (w : BmW) : Nat := 16 * ((w.m + 6 - p) % 6) + w.q.mid.toNat

/-- The winner among contenders. -/
def Dev.winner (s : Dev) (t : Nat) (l : List (Nat × BmW)) : Option (Nat × BmW) :=
  let p := s.bm.rr.get t
  l.foldl (fun (a : Option (Nat × BmW)) x => match a with
    | none => some x
    | some y =>
      let qx := s.effQos x.2
      let qy := s.effQos y.2
      if qy < qx ∨ (qx = qy ∧ rrKey p x.2 < rrKey p y.2) then some x else a) none

/-- The clocks that one request has waited of some that passed at its target: of one raised since then no command tells how
many, and a free value decides (log 97). -/
def Dev.waited (s : Dev) (clocks i : Nat) (w : BmW) : Nat :=
  if w.fresh then (Config.freeValue (s.freeCtr + i)).toNat % (clocks + 1) else clocks

/-- Clocks pass for the requests that wait at a target: WAIT is counted and they age. -/
def Dev.bmAge (s : Dev) (t clocks : Nat) : Dev :=
  let l := s.bm.wait.zipIdx
  let aged := l.map (fun wi => if wi.1.q.tgt.toNat = t then
    { wi.1 with wait := wi.1.wait + s.waited clocks wi.2 wi.1, fresh := false } else wi.1)
  let d := Dev.each (l.filter (fun wi => wi.1.q.tgt.toNat == t)) (fun d wi => d.bpCount wi.1.raisedFor 5 (s.waited clocks wi.2 wi.1)) s
  { d with bm := { s.bm with wait := aged }, freeCtr := s.freeCtr + l.length }

/-- The bytes of a read that transactions granted before it have written: it returns those (R293). -/
def Dev.bmKnown (s : Dev) (r : BmReq) : Tbl Byte :=
  if r.write then []
  else (List.range (bmLen r)).filterMap (fun i => (s.bm.mem.get (bmKey r.tgt.toNat (r.addr.toNat + i))).map (fun b => (i, b)))

/-- A grant at target t to master m: the pointer moves past it (R290), and the target's grant is parked with it (R292). -/
def Dev.bmPass (t m : Nat) (s : Dev) : Dev :=
  { s with bm := { s.bm with rr := s.bm.rr.set t ((m + 1) % 6),
                             parked := if bit (s.reg R.BM_PARK).toNat t then s.bm.parked.set t m else s.bm.parked } }

/-- The clocks so far since the last grant at target t, of which no command has told: WAIT is counted for them as the counters stand,
and they are not counted again at the grant (15 R347; a free value, log 97). -/
def Dev.bmSettleAt (s : Dev) (t : Nat) : Dev :=
  if s.bm.wait.any (fun w => w.q.tgt.toNat == t) then
    let n := s.free.toNat
    let s := s.useFree.bmAge t n
    { s with bm := { s.bm with passed := s.bm.passed.set t (s.bm.passed.get t + n) } }
  else s

/-- Before the counters change otherwise than by counting, or are read, WAIT is counted up to now. -/
def Dev.bmSettle (s : Dev) : Dev := Dev.each (List.range 8) Dev.bmSettleAt s

/-- The same before an access of the PC window. -/
def Dev.settleFor (off : Nat) (s : Dev) : Dev := Dev.when (pcWindow off) Dev.bmSettle s

/-- After `clocks` core clocks target t's port grants: the winner goes out, with what the matrix knows of its data. -/
def Dev.bmWin (t clocks : Nat) (s : Dev) : Dev × Option BmW :=
  let s := s.bmAge t (clocks - s.bm.passed.get t)
  let s := { s with bm := { s.bm with passed := s.bm.passed.set t 0 } }
  if bit s.pausedPorts (6 + t) then (s, none)
  else
    match s.winner t (s.contenders t) with
    | none => (s, none)
    | some (i, w) =>
      let w := { w with grantedFor := s.bpPasses w, known := s.bmKnown w.q }
      let s := { s with bm := { s.bm with wait := s.bm.wait.eraseIdx i, out := s.bm.out ++ [w] } }
      (((s.bmPass t w.m).bmFill w.q w.q.data).bmStat, some w)

/-! ### Responses (R288, R289) -/

/-- The oldest transaction of an ID's master at a target that p picks, with its place: a master's transactions at one target
complete in issue order, so it answers only when it is of that ID (R293). -/
def Dev.bmFind (s : Dev) (t mid : Nat) (write : Bool) (p : BmW → Bool) : Option (Nat × BmW) :=
  let l := s.bm.out
  (((List.range l.length).filterMap (fun i => (l[i]?).map (fun w => (i, w)))).find? (fun iw =>
    iw.2.q.tgt.toNat == t && some iw.2.m == masterOf mid && iw.2.q.write == write && p iw.2)).filter (fun iw => iw.2.q.mid.toNat == mid)

def Dev.bmDrop (s : Dev) (i : Nat) : Dev := ({ s with bm := { s.bm with out := s.bm.out.eraseIdx i } }).bmStat

/-- A drain's last transaction ends with RST_MID; those that timed out have had their answer (R289). -/
def Dev.lastDrain (s : Dev) (m : Nat) : Bool :=
  decide ((s.bm.out.filter (fun w => w.m == m && w.drain && !w.late)).length ≤ 1)

/-- A target answers its oldest transaction of a master, with the higher of its code and that which a T6 register gives: late answers
and those of a drain are discarded; a drain's last stays until RST_MID. A read's beats pass with the answer. -/
def Dev.bmResponse (t mid : Nat) (write : Bool) (code : Nat) (data : List Byte) (s : Dev) : Dev :=
  match s.bmFind t mid write (fun _ => true) with
  | none => s
  | some (i, w) =>
    let c := max code w.code
    if 3 < code then s
    else if w.late then s.bmDrop i
    else if w.drain ∧ s.lastDrain w.m then
      { s with bm := { s.bm with out := s.bm.out.modify i (fun x => { x with code := c }) } }
    else
      let s := Dev.when (!w.q.write) (·.bpBeats w) (s.bmDrop i)
      if c ≠ 0 then (s.bmUnknown w).bmHandle w c data else if w.drain then s else s.bmAnswer w 0 data

/-- No response has begun in time (R289): TOUT, the tracker is released, the target is stalled. -/
def Dev.bmTout (t mid : Nat) (write : Bool) (s : Dev) : Dev :=
  match s.bmFind t mid write (fun w => !w.late) with
  | none => s
  | some (i, w) =>
    let s := ({ s with bm := { s.bm with out := s.bm.out.modify i (fun w => { w with late := true }) } }).bmStat
    (s.bmUnknown w).bmHandle w 4

/-! ### Drains (R296) -/

/-- Every transaction of master m's drain has timed out. -/
def Dev.drainsLate (s : Dev) (m : Nat) : Bool := (s.bm.out.filter (fun w => w.m == m && w.drain)).all (·.late)

/-- The last response of a drain arrives: master m, target t, the beats driven with strobes off. -/
def Dev.rstMid (m t beats : Nat) (s : Dev) : Dev :=
  match s.bm.out.find? (fun w => w.m == m && w.drain && w.q.tgt.toNat == t && (!w.late || s.drainsLate m)) with
  | none => s
  | some w =>
    if !s.lastDrain m then s
    else
      let left := (s.bm.out.erase w).map (fun (x : BmW) => if x.m = m then { x with drain := false } else x)
      let s := { s with bm := { s.bm with out := if w.late then left ++ [{ w with drain := false }] else left } }
      let s := Dev.when (!w.q.write && !w.late) (·.bpBeats w) s
      let s := Dev.when (w.code != 0 && !w.late) (fun s => (s.bmError w w.code).bpCount w.grantedFor 6 1) s
      let s := (s.bmStat).wr F.BM_STAT_DRAIN (clrBit (s.rd F.BM_STAT_DRAIN) m)
      ((s.count F.BM_RST_CNT).event F.BM_EVT_RST_MID).raise 0x1105 0 (srcWord 17) (w.errInfo 0 beats)

/-! ### The commands -/

def execBmRequest (q : BmReq) (s : State) : Host.Outcome State Fault Refusal := s.onDev (Dev.bmRequest q)
def execBmResponse (t : BitVec 3) (mid : BitVec 4) (write : Bool) (code : BitVec 3) (data : List Byte) (s : State) :
    Host.Outcome State Fault Refusal :=
  s.onDev (Dev.bmResponse t.toNat mid.toNat write code.toNat data)
def execTout (t : BitVec 3) (mid : BitVec 4) (write : Bool) (s : State) : Host.Outcome State Fault Refusal :=
  s.onDev (Dev.bmTout t.toNat mid.toNat write)
def execMasterReset (m : BitVec 3) (s : State) : Host.Outcome State Fault Refusal := s.onDev (Dev.masterReset m.toNat)
def execRstMid (m t : BitVec 3) (beats : BitVec 4) (s : State) : Host.Outcome State Fault Refusal :=
  s.onDev (Dev.rstMid m.toNat t.toNat beats.toNat)

end Sys2Proof.Machine
end

