-- ==== Sys2Proof/Machine/Safe.lean ====
section
/-!
DEFINITION. The fault collector (13 R298 to R306) and the safe state: entry, the DARK ramp's end, exit (R309 to R314), and
the commands of FC_CLR.
-/
namespace Sys2Proof.Machine

/-! ### Records -/

/-- SNUM of a SOURCE word (R301). -/
def snum (src : BitVec 28) : Nat :=
  let w := src.toNat
  w % 256 * 2 ^ 20 + w / 256 % 256 * 2 ^ 12 + w / 65536 % 16 * 2 ^ 8 + w / 1048576 % 256

/-- The order of a same-cycle group (R301): severity, SNUM, code. -/
def lineLe (a b : Raised) : Bool :=
  let x := a.line
  let y := b.line
  if x.sev ≠ y.sev then decide (y.sev.toNat < x.sev.toNat)
  else if snum x.src ≠ snum y.src then decide (snum x.src < snum y.src)
  else decide (x.code.toNat ≤ y.code.toNat)

/-- Lines that enter HOLD and set RESET_ONLY (R309, R313). -/
def holdOnly (code : Nat) : Bool := code == 0x0903 || code == 0x0904 || code == 0x1201

/-- A line that asks for the safe state (R309): its INFO says HOLD of a forced entry. -/
def Dev.asksSafe (s : Dev) (l : Line) : Bool :=
  l.sev == 3 || l.code == 0x1202 || (l.sev == 2 && s.on F.FC_CFG_S2_SAFE)

/-- The kind a cause asks for is HOLD (R309). -/
def Dev.asksHold (s : Dev) (l : Line) : Bool :=
  holdOnly l.code.toNat || (l.code == 0x1202 && l.info == 1) || match s.plan with
    | some p => !p.dark
    | none => true

/-! ### Entering (R309, R310) -/

/-- The HOLD of a safe state (R310, R144): committed presses it overtakes are cancelled, every vat is held at once. -/
def Dev.safeHold (s : Dev) : Dev :=
  let eff := s.nextEff (List.range 64)
  let s := s.useFree
  let s := Dev.each (s.gl.dec.filter (fun x => x.committed && !x.cancelled && !x.nochg && decide (eff ≤ x.m))) (Dev.cancelSlot 2) s
  Dev.each (List.range 64) (fun s v =>
    let s := s.modVat v (fun x => { x with holds := x.holds ||| 2 })
    (s.holdBlocks v 1 eff).regardHeld v) s

/-- The HOLD that ends a DARK ramp is sent (R311): it applies at eff. -/
def Dev.darkHold (eff : Nat) (s : Dev) : Dev :=
  let s := Dev.each (List.range 64) (fun s v =>
    (s.modVat v (fun x => { x with holds := x.holds ||| 2, relEff := none })).holdBlocks v 1 eff) s
  { s with le := { s.le with darkDone := some eff } }

/-- At that EFF every vat is held, and its loops wait in RESTART (R310). -/
def Dev.darkHeld (s : Dev) : Dev :=
  let s := { s with le := { s.le with darkDone := none, darkRel := List.range 64 } }
  (Dev.each (List.range 64) (fun s v => s.regardHeld v) (s.wr F.FC_STAT_SAFE 3)).glSync

/-- The latch sets for a cause, or a HOLD ends a DARK ramp (R309, R310). -/
def Dev.safeEnter (hold logged : Bool) (l : Line) (s : Dev) : Dev :=
  if !s.fc.latch then
    let s := { s with fc := { s.fc with latch := true, latchLogged := logged, actSince := false } }
    let s := (s.wr F.FC_STAT_SAFE (if hold then 1 else 2)).wr F.FC_SAFE_SRC l.src.toNat
    let s := ((s.wr F.FC_SAFE_CODE l.code.toNat).wr2 R.FC_SAFE_N_LO s.now).event F.FC_EVT_SAFE_IN
    let s := (s.abortInj).abortRuns (fun _ => true)
    let s := if hold then s.safeHold else
      { s with le := { s.le with darkN := 0, darkDone := none } }
    (s.glSync).standStill
  else
    let s := { s with fc := { s.fc with latchLogged := s.fc.latchLogged || logged } }
    (if hold && s.rd F.FC_STAT_SAFE == 2 then
      ({ s.wr F.FC_STAT_SAFE 1 with le := { s.le with darkDone := none } }).safeHold
    else s).glSync

/-! ### Collection (R300 to R306) -/

/-- A record enters the history (R303). -/
def Dev.histPut (s : Dev) (r : Rec) : Dev :=
  let h := s.fc.hist
  let lost (s : Dev) : Dev := (s.count F.FC_HIST_LOST).event F.FC_EVT_HIST_LOST
  if h.length < 32 then { s with fc := { s.fc with hist := h ++ [r] } }
  else
    let low := h.foldl (fun a x => min a x.line.sev.toNat) 3
    if r.line.sev.toNat < low then lost s
    else
      match h.find? (fun x => x.line.sev.toNat == low) with
      | some x => lost { s with fc := { s.fc with hist := h.erase x ++ [r] } }
      | none => s

/-- The FAULT event of a record (R304), unless masked (R306) or withheld (R305, a millisecond counted in samples). -/
def Dev.faultEvent (s : Dev) (r : Rec) (first : Bool) (action : Nat) : Dev :=
  let l := r.line
  let b := l.code.toNat / 256
  let k := l.code.toNat % 256
  if b < 22 ∧ k < 32 ∧ bit (s.rd (F.FC_MASK b)) k then s
  else
    let old := s.fc.rate.find? (fun x => x.1 == l.src && x.2.1 == l.code)
    let rest := s.fc.rate.filter (fun x => !(x.1 == l.src && x.2.1 == l.code))
    let held := match old with
      | some x => s.on F.FC_CFG_RATE && l.sev != 3 && !first && decide (s.now < x.2.2.1 + 1000)
      | none => false
    match held, old with
    | true, some x => ({ s with fc := { s.fc with rate := (l.src, l.code, x.2.2.1, x.2.2.2 + 1) :: rest } }).count F.FC_SUPPR
    | _, o =>
      let reps := match o with
        | some x => min 65535 x.2.2.2
        | none => 0
      let s := { s with fc := { s.fc with rate := (l.src, l.code, s.now, 0) :: rest } }
      let ev : Ev := { ty := 0, sev := l.sev.toNat + 1, first := first, group := r.group, hw := l.hw, src := l.src,
                       code := l.code.setWidth 32, sample := r.sample, ns := s.tb.ns, sec := s.tb.sec,
                       data := toLe 4 l.info.toNat ++ [BitVec.ofNat 8 action, 0] ++ toLe 2 reps }
      { s with evq := { s.evq with inbox := s.evq.inbox ++ [ev] } }

/-- What lines leave with the safe state that they enter, collected or not: RESET_ONLY (R312, R313), and that a PLAN_OVERRUN was among them
(R314). -/
def Dev.latchMarks (ls : List Line) (s : Dev) : Dev :=
  let s := Dev.when (ls.any (fun l => holdOnly l.code.toNat)) (·.wrB F.FC_STAT_RESET_ONLY true) s
  if ls.any (fun l => l.code == 0x0704) then { s with fc := { s.fc with overrun := true } } else s

/-- One record (R302, R303, R304). -/
def Dev.record (s : Dev) (r : Rec) (action : Nat) : Dev :=
  let l := r.line
  let first := !s.on F.FC_STAT_FIRST_VALID
  let s := if first then
      let s := ((s.wrB F.FC_STAT_FIRST_VALID true).wr F.FC_FIRST_CODE_CODE l.code.toNat).wr F.FC_FIRST_CODE_SEV (l.sev.toNat + 1)
      let s := ((s.wrB F.FC_FIRST_CODE_GROUP (r.group != 0)).wrB F.FC_FIRST_CODE_HW l.hw).wr F.FC_FIRST_SRC l.src.toNat
      (s.wr F.FC_FIRST_INFO l.info.toNat).wr2 R.FC_FIRST_N_LO r.sample
    else s
  let s := (s.histPut r).count (F.FC_CNT_S l.sev.toNat)
  let s := s.wr F.FC_STAT_HCOUNT s.fc.hist.length
  let s := s.wr F.FC_STAT_SEVSEEN (setBit (s.rd F.FC_STAT_SEVSEEN) l.sev.toNat)
  (s.latchMarks [l]).faultEvent r first action

/-- Lines from outside this model's detectors set the condition bits of R308 too. -/
def Dev.condLine (s : Dev) (l : Line) : Dev :=
  let v := l.src.toNat / 256 % 256
  match l.code.toNat with
  | 0x0613 => s.setVatBit R.FC_EICT_LO v
  | 0x0614 => s.setVatBit R.FC_NOPRESS_LO v
  | 0x0615 => s.setVatBit R.FC_EICNA_LO v
  | _ => s

/-- The collector's own failure, which it records nowhere but in FC_STAT (R310, R312; log 77). -/
def isProt (x : Raised) : Bool := x.line.code == 0x1201

/-- The lines of one collector clock, in their order, are recorded as a group (R300 to R303); hold: a cause among all that clock's
lines, PROT included, asks for HOLD. -/
def Dev.recordAll (hold : Bool) (ls : List Raised) (s : Dev) : Dev :=
  let grp := decide (1 < ls.length)
  let gid := if grp then s.rd F.FC_STAT_GROUPID % 255 + 1 else 0
  let s := Dev.when grp (·.wr F.FC_STAT_GROUPID gid) s
  let safe := s.rd F.FC_STAT_SAFE
  let act := if safe = 0 then (if hold then 1 else 2) else if safe = 2 ∧ hold then 1 else 3
  Dev.each ls (fun s x =>
    s.record { line := x.line, group := gid, sample := (x.at_.map BitVec.toNat).getD s.now } (if s.asksSafe x.line then act else 0)) s

/-- The collector samples the lines raised (R300): it ranks them as a group, records them, and the latch sets. Without a clock
lines are latched with the sample index that the always-on domain carries. -/
def Dev.collect (extra : List Line) (ticks : Nat) (s : Dev) : Dev :=
  if s.unclocked then
    let s := s.tickTo ticks
    { s with fc := { s.fc with lines := s.fc.lines ++ extra.map (fun l => ({ line := l, at_ := some (BitVec.ofNat 64 s.carried) } : Raised)) } }
  else
    let ls := sortBy lineLe (s.fc.lines ++ extra.map (fun l => ({ line := l } : Raised)))
    let s := Dev.each extra (fun s l => s.condLine l) { s with fc := { s.fc with lines := [] } }
    let s := Dev.when (ls.any isProt) (fun s => (s.wrB F.FC_STAT_PROT true).wrB F.FC_STAT_RESET_ONLY true) s
    let causes := ls.filter (fun x => s.asksSafe x.line)
    let hold := causes.any (fun x => s.asksHold x.line)
    let s' := s.recordAll hold (ls.filter (fun x => !isProt x))
    match causes with
    | c :: _ => s'.safeEnter hold (causes.any (fun x => !isProt x)) c.line
    | [] => s'.glSync

/-- 16 core clocks after the latch set: the collector has recorded no cause (R310). The S3 lines that it has not collected
have set the latch, or ended a DARK ramp, all the same. -/
def Dev.direct (s : Dev) : Dev :=
  if s.unclocked then s
  else
    let s := match sortBy lineLe (s.fc.lines.filter (fun x => x.line.sev == 3)) with
      | c :: l =>
        (s.safeEnter ((c :: l).any (fun x => s.asksHold x.line)) false c.line).latchMarks ((c :: l).map (·.line))
      | [] => s
    if s.fc.latch && !s.fc.latchLogged then s.wrB F.FC_STAT_DIRECT true else s

/-- The DARK ramp has not completed in its bound (R311). -/
def Dev.darkTmo (s : Dev) : Dev :=
  match s.plan with
  | some p =>
    if s.rd F.FC_STAT_SAFE = 2 ∧ s.le.darkDone.isNone ∧ (65535 + p.darkStep - 1) / p.darkStep + 16 ≤ s.le.darkN then
      ((s.event F.FC_EVT_DARK_TMO).darkHold (s.nextEff (List.range 64))).useFree
    else s
  | none => s

/-! ### Host control (R309, R314, R315) -/

/-- FORCE: HOST_SAFE is recorded, and the latch sets. -/
def Dev.force (hold : Bool) (s : Dev) : Dev := (s.raise 0x1202 2 (srcWord 18) (if hold then 1 else 0)).collect [] 0

/-- An exit would be accepted (R314, Table 13.4). -/
def Dev.exitOk (s : Dev) : Bool :=
  (s.rd F.FC_STAT_SAFE == 1 || s.rd F.FC_STAT_SAFE == 3) && !s.on F.FC_STAT_RESET_ONLY && !s.on F.PM_STAT_WAKEFLT &&
  !s.on F.TH_STAT_TRIP &&
  !(s.fc.overrun && !s.fc.actSince) &&
  (!s.on F.FC_CFG_S2_SAFE || ((s.on F.TB_REF_STAT_A_OK || s.on F.TB_REF_STAT_B_OK) && !s.on F.TB_STAT_HO_EXCEED &&
    s.planVats.all s.vatActive && s.rd2 R.FC_EICT_LO == 0 && s.rd2 R.FC_NOPRESS_LO == 0 && !s.on F.DE_STAT_PORTS_DOWN))

/-- EXIT: the safe state is left, or refused. -/
def Dev.safeExit (s : Dev) : Dev :=
  if !s.exitOk then s.event F.FC_EVT_EXIT_REFUSED
  else
    let s := (s.wr F.FC_STAT_SAFE 0).wrB F.FC_STAT_DIRECT false
    let s := { s with fc := { s.fc with latch := false, latchLogged := false, overrun := false },
                      le := { s.le with darkDone := none } }
    let s := Dev.each (List.range 64) (fun s v => s.unhold 1 v) s
    let s := (s.glSync).event F.FC_EVT_SAFE_OUT
    if s.coreUp && s.pm.p3 != .woken then s.resume s.now else s

def Dev.clrFirst (s : Dev) : Dev :=
  (((((s.wrB F.FC_STAT_FIRST_VALID false).setReg R.FC_FIRST_CODE 0).setReg R.FC_FIRST_SRC 0).setReg R.FC_FIRST_INFO 0).wr2 R.FC_FIRST_N_LO 0)

/-- The eight words of a history entry (Table 13.3). -/
def Rec.words (r : Rec) : List Nat :=
  let l := r.line
  [l.src.toNat, l.code.toNat + 65536 * (l.sev.toNat + 1) + (if r.group = 0 then 0 else 2 ^ 19) + (if l.hw then 2 ^ 20 else 0) +
    2 ^ 21 * r.group, r.sample % 2 ^ 32, r.sample / 2 ^ 32, l.info.toNat, 0, 0, 0]

/-- HSNAP: the queue is copied into the snapshot window. -/
def Dev.hsnap (s : Dev) : Dev :=
  Dev.each (List.range 32) (fun s i =>
    let ws := match s.fc.hist[i]? with
      | some r => r.words
      | none => []
    Dev.each (List.range 8) (fun s w => s.setReg (R.FC_HIST_0 i + 4 * w) (BitVec.ofNat 32 (ws.getD w 0))) s) s

def Dev.hclr (s : Dev) : Dev := ({ s with fc := { s.fc with hist := [] } }).wr F.FC_STAT_HCOUNT 0

def Dev.clrNopress (s : Dev) : Dev := (s.wr2 R.FC_NOPRESS_LO 0).glSync

/-- The clearable EIC_TIME bits clear (R308). -/
def Dev.clrEict (s : Dev) : Dev :=
  let s := s.wr2 R.FC_EICT_LO (s.fc.eictClr.foldl clrBit (s.rd2 R.FC_EICT_LO))
  ({ s with fc := { s.fc with eictClr := [] } }).glSync

/-! ### The commands -/

def execErrorLine (extra : List Line) (ticks : BitVec 64) (s : State) : Host.Outcome State Fault Refusal :=
  s.onDev (Dev.collect extra ticks.toNat)
def execDirect (s : State) : Host.Outcome State Fault Refusal := s.onDev Dev.direct
def execDarkTmo (s : State) : Host.Outcome State Fault Refusal := s.onDev Dev.darkTmo

end Sys2Proof.Machine
end

