-- ==== Sys2Proof/Machine/Twin.lean ====
section
/-!
DEFINITION. The twin arbiter (10): comparison and release of drive frames (R17, R239, R240, R246), health words (R241), the
decision at a frame's close (R242 to R245), self-test and scrub (R247, R248), resynchronisation (R250, R251), removal,
restore and swap (R252 to R254), the wake check (R255), the arbiter fault (R257) and twin.status (R259).
-/
namespace Sys2Proof.Machine

/-! ### Roles and health words -/

def engNo (e : Eng) : Nat := if e = .lea then 0 else 1

def roleFld (e : Eng) : Fld := if e = .lea then F.TW_STAT_ROLE_A else F.TW_STAT_ROLE_B
def causeFld (e : Eng) : Fld := if e = .lea then F.TW_STAT_CAUSE_A else F.TW_STAT_CAUSE_B
def autoFld (e : Eng) : Fld := if e = .lea then F.TW_STAT_AUTO_A else F.TW_STAT_AUTO_B

/-- A field of TW_HEALTH_A, taken in the engine's own word. -/
def healthFld (e : Eng) (f : Fld) : Fld := if e = .lea then f else { f with reg := f.reg + (R.TW_HEALTH_B - R.TW_HEALTH_A) }

/-- FAULT of an engine's health word. -/
def Dev.faulty (s : Dev) (e : Eng) : Bool := s.on (healthFld e F.TW_HEALTH_A_FAULT)

/-- A check of Table 10.2 fails in vat v: its bit sets, and FVAT keeps the first vat since the last restore. -/
def Dev.flag (e : Eng) (b v : Nat) (s : Dev) : Dev :=
  let c := healthFld e F.TW_HEALTH_A_CHECKS
  let s := if s.faulty e then s else (s.wr (healthFld e F.TW_HEALTH_A_FVAT) v).wrB (healthFld e F.TW_HEALTH_A_FAULT) true
  s.wr c (setBit (s.rd c) b)

/-- SOURCE of an engine. -/
def engSrc (e : Eng) : BitVec 28 := srcWord (engBlock e)

/-- The engine that is not active. -/
def Dev.partner (s : Dev) : Eng := other s.active

/-! ### The mismatch window (R243) -/

/-- TW_MISWIN and SUSPECT as the window stands. -/
def Dev.misSync (s : Dev) : Dev :=
  (s.wr F.TW_MISWIN (min 15 s.tw.mis.length)).wrB F.TW_STAT_SUSPECT (!s.tw.mis.isEmpty)

/-- Counts older than MIS_WIN × 100 ms leave the window. -/
def Dev.misAge (s : Dev) : Dev :=
  let w := 100000 * s.rd F.TW_CFG_MIS_WIN
  ({ s with tw := { s.tw with mis := s.tw.mis.filter (fun n => decide (s.now < n + w)) } }).misSync

def Dev.misClear (s : Dev) : Dev := ({ s with tw := { s.tw with mis := [] } }).misSync

/-- One count toward the window; SUSPECT's event when it sets. -/
def Dev.misCount (s : Dev) : Dev :=
  let was := s.on F.TW_STAT_SUSPECT
  let s := ({ s with tw := { s.tw with mis := s.tw.mis ++ [s.now] } }).misSync
  Dev.when (!was) (·.event F.TW_EVT_SUSPECT) s

/-! ### Resynchronisations -/

/-- TW_VRESYNC as the table of single vats stands. -/
def Dev.vresSync (s : Dev) : Dev := s.wr2 R.TW_VRESYNC_LO (maskOf ((s.tw.vres.filter (·.2.isSome)).map (·.1)))

/-- Start one of vat v: at the first opening at least 1 µs on (R250), which is the second one from the last opened. -/
def Dev.resyncVat (s : Dev) (v : Nat) : Dev :=
  ({ s with tw := { s.tw with vres := s.tw.vres.set v (some { s := s.le.frame + 2 }) } }).vresSync

/-- Every resynchronisation ends (R252). -/
def Dev.resyncEnd (s : Dev) : Dev :=
  (({ s with tw := { s.tw with vres := [], wres := none } }).vresSync).wr F.TW_STAT_TRY 0

/-- A vat of the standby is in resynchronisation. -/
def Dev.vatResync (s : Dev) : Bool := s.tw.vres.any (·.2.isSome)

/-! ### Removal, fail-over (R252, R254) -/

/-- The restore that twin.status waits for is over: role, cause, and s + 16 when the engine is STANDBY. -/
def Dev.restoreEnd (s : Dev) (e : Eng) (n : Nat) : Dev :=
  let s' := { s with tw := { s.tw with restoreMb := none } }
  match s.tw.restoreMb with
  | some mb => s'.ok mb ([BitVec.ofNat 8 (s.role e), BitVec.ofNat 8 (s.rd (causeFld e))] ++ zeros 6 ++ toLe 8 n)
  | none => s'

/-- Remove an engine with a cause of Table 10.6; the window clears where it is the standby (R243). -/
def Dev.removeEng (s : Dev) (e : Eng) (cause : Nat) : Dev :=
  let rs := s.role e == 3
  let s := Dev.when (s.role e != 1) (·.misClear) s
  let s := ((s.wr (roleFld e) 0).wr (causeFld e) cause).resyncEnd
  let s := (s.count F.TW_REMOVALS).event F.TW_EVT_REMOVED
  let s := s.raise (256 * engBlock e + 5) 1 (engSrc e) cause
  Dev.when rs (·.restoreEnd e 0) s

/-- The standby becomes active and the active engine is removed. -/
def Dev.failover (s : Dev) (cause : Nat) : Dev :=
  let a := s.active
  let s := ((s.wr (roleFld (other a)) 1).count F.TW_FAILOVER).event F.TW_EVT_FAILOVER
  s.removeEng a cause

/-- The first reason of Table 10.11 against a swap, or against the removal of the active engine. -/
def Dev.swapWhy (s : Dev) : Option Nat :=
  if s.role s.partner ≠ 2 then some 5
  else if s.vatResync then some 6
  else if s.on F.TW_STAT_SUSPECT then some 7
  else if s.faulty .lea || s.faulty .leb then some 8
  else none

/-- An engine in service: active or STANDBY (Table 10.1). -/
def Dev.serves (s : Dev) (e : Eng) : Bool := s.role e == 1 || s.role e == 2

/-- The first reason against a removal. -/
def Dev.removeWhy (s : Dev) (e : Eng) : Option Nat :=
  if s.role e = 0 then some 3
  else if s.serves e && !s.serves (other e) then some 4
  else if e = s.active then s.swapWhy
  else none

/-- The first reason against a restore. -/
def Dev.restoreWhy (s : Dev) (e : Eng) : Option Nat :=
  if s.role e ≠ 0 then some 1 else if s.tw.restoring = some e then some 2 else none

/-- An accepted request takes effect at a frame opening; one that no longer may is refused. -/
def Dev.applyReq (s : Dev) (r : TwReq) : Dev :=
  match r with
  | .swap =>
    match s.swapWhy with
    | some _ => s.event F.TW_EVT_REFUSED
    | none =>
      let a := s.active
      ((s.wr (roleFld a) 2).wr (roleFld (other a)) 1).event F.TW_EVT_SWAP
  | .remove e =>
    match s.removeWhy e with
    | some _ => s.event F.TW_EVT_REFUSED
    | none => if e = s.active then s.failover 4 else s.removeEng e 4

/-- Every accepted request, in order (R254). -/
def Dev.applyReqs (s : Dev) : Dev := Dev.each s.tw.reqs (·.applyReq) { s with tw := { s.tw with reqs := [] } }

/-- The restore begins (R253): fault bits and STARVED clear, the units have their clocks, the test runs. -/
def Dev.restoreBegin (s : Dev) (e : Eng) (mb : Option Nat) : Dev :=
  let s := ((s.wr (healthFld e F.TW_HEALTH_A_CHECKS) 0).wrB (healthFld e F.TW_HEALTH_A_FAULT) false).wrB
    (healthFld e F.TW_HEALTH_A_STARVED) false
  let s := s.modEng e (fun g => { g with dead := [] })
  { s with tw := { s.tw with restoring := some e, restoreMb := mb, starved := s.tw.starved.filter (fun x => x.1 != e) } }

/-- The sample index of the first frame to open. -/
def Dev.nextOpen (s : Dev) : Nat := s.nextFrame s.le.frame

/-- A request of TW_CTL: refused with a reason judged on the roles as the requests before it will leave them, or done. -/
def Dev.twRestore (s : Dev) (e : Eng) (mb : Option Nat) : Dev × Option Nat :=
  match s.applyReqs.restoreWhy e with
  | some r => (s.event F.TW_EVT_REFUSED, some r)
  | none => (s.restoreBegin e mb, none)

def Dev.twRemove (s : Dev) (e : Eng) : Dev × Option Nat :=
  match s.applyReqs.removeWhy e with
  | some r => (s.event F.TW_EVT_REFUSED, some r)
  | none => ({ s with tw := { s.tw with reqs := s.tw.reqs ++ [.remove e] } }, none)

def Dev.twSwap (s : Dev) : Dev × Option Nat :=
  match s.applyReqs.swapWhy with
  | some r => (s.event F.TW_EVT_REFUSED, some r)
  | none => ({ s with tw := { s.tw with reqs := s.tw.reqs ++ [.swap] } }, none)

/-- A write of TW_CTL, bit by bit. -/
def Dev.twCtl (v : Nat) (s : Dev) : Dev :=
  let s := if bit v 0 then (s.twRestore .lea none).1 else s
  let s := if bit v 1 then (s.twRestore .leb none).1 else s
  let s := if bit v 2 then (s.twRemove .lea).1 else s
  let s := if bit v 3 then (s.twRemove .leb).1 else s
  if bit v 4 then s.twSwap.1 else s

/-- The state copied and replayed (R250): what the engines keep of vat v, or of every vat. -/
def copyEng (src dst : EngSt) (v : Option Nat) : EngSt :=
  match v with
  | none => { src with aNote := dst.aNote, lNote := dst.lNote, dead := dst.dead }
  | some v =>
    { dst with
      loops := dst.loops.filter (fun kv => kv.1 / 256 < v) ++ src.loops.filter (fun kv => kv.1 / 256 == v) ++
        dst.loops.filter (fun kv => v < kv.1 / 256),
      recs := dst.recs.filter (fun kv => kv.1 / 256 < v) ++ src.recs.filter (fun kv => kv.1 / 256 == v) ++
        dst.recs.filter (fun kv => v < kv.1 / 256),
      pvsat := dst.pvsat.filter (fun kv => kv.1 / 256 < v) ++ src.pvsat.filter (fun kv => kv.1 / 256 == v) ++
        dst.pvsat.filter (fun kv => v < kv.1 / 256),
      dith := dst.dith.filter (fun kv => kv.1 / 256 < v) ++ src.dith.filter (fun kv => kv.1 / 256 == v) ++
        dst.dith.filter (fun kv => v < kv.1 / 256),
      useq := dst.useq.filter (fun kv => kv.1 / 256 < v) ++ src.useq.filter (fun kv => kv.1 / 256 == v) ++
        dst.useq.filter (fun kv => v < kv.1 / 256) }

/-- The joining unit holds the active unit's state. -/
def Dev.copyUnit (s : Dev) (v : Option Nat) : Dev :=
  let src := s.eng s.active
  s.modEng s.partner (fun dst => copyEng src dst v)

/-- The copy of every resynchronisation that has begun is complete (R250). -/
def Dev.copyDone (s : Dev) : Dev :=
  let on (r : Resync) : Bool := decide (0 < r.k) && !r.copied
  let s := Dev.each (s.tw.vres.filterMap (fun vr => (vr.2.filter on).map (fun _ => vr.1))) (fun s v => s.copyUnit (some v)) s
  let s := if (s.tw.wres.filter on).isSome then s.copyUnit none else s
  let f (r : Resync) : Resync := if on r then { r with copied := true } else r
  { s with tw := { s.tw with vres := s.tw.vres.map (fun vr => (vr.1, vr.2.map f)), wres := s.tw.wres.map f } }

/-- One opening of a frame that runs, at n, for one resynchronisation; k stays before the trial until the copy is in. -/
def Resync.open_ (n : Nat) (r : Resync) : Resync :=
  if n < r.s then r
  else
    let k := if r.k = 8 ∧ r.copied = false then 8 else r.k + 1
    { r with s := if r.k = 0 then n else r.s, k := k, trial := decide (9 ≤ k) }

/-- A unit or an engine comes into service. -/
def Dev.inService (s : Dev) : Dev := (s.count F.TW_RESYNC).event F.TW_EVT_RESYNC_DONE

/-- What the opening of F(n) is to the resynchronisations: F(s), the last replay before the trial, the service. -/
def Dev.resyncOpen (n : Nat) (s : Dev) : Dev :=
  let s := Dev.each (s.tw.vres.filterMap (fun vr => vr.2.map (fun r => (vr.1, r)))) (fun s vr =>
    let r := vr.2.open_ n
    let s := if r.k = 9 ∧ vr.2.k = 8 then s.copyUnit (some vr.1) else s
    if 17 ≤ r.k then ({ s with tw := { s.tw with vres := s.tw.vres.set vr.1 none } }).inService
    else { s with tw := { s.tw with vres := s.tw.vres.set vr.1 (some r) } }) s
  let s := match s.tw.wres with
    | none => s
    | some r0 =>
      let r := r0.open_ n
      let s := if r.k = 9 ∧ r0.k = 8 then s.copyUnit none else s
      if 17 ≤ r.k then
        let e := s.partner
        let s := ({ s with tw := { s.tw with wres := none } }).wr (roleFld e) 2
        ((s.wr F.TW_STAT_TRY 0).inService).restoreEnd e n
      else { s with tw := { s.tw with wres := some r } }
  s.vresSync

/-- Every resynchronisation is abandoned and begins again at the first opening from n on (R250). -/
def Dev.resyncAgain (n : Nat) (s : Dev) : Dev :=
  let f (r : Resync) : Resync := { s := n, try_ := r.try_ }
  { s with tw := { s.tw with vres := s.tw.vres.map (fun vr => (vr.1, vr.2.map f)), wres := s.tw.wres.map f } }

/-! ### Cross-feed (R246) -/

/-- TW_XF at a frame opening: the vats of the frame without a standby copy. -/
def Dev.xfSync (s : Dev) : Dev :=
  let vs := ((s.framePlan.map (·.vats)).getD []).map (·.vat)
  let x := if s.role s.partner = 2 then vs.filter (fun v => (s.tw.vres.get v).isSome) else vs
  (s.wr2 R.TW_XF_LO (maskOf x)).wrB F.TW_STAT_XF (!x.isEmpty)

def Dev.crossFed (s : Dev) (v : Nat) : Bool := bit (s.rd2 R.TW_XF_LO) v

/-! ### Handover, comparison and release (R17, R239, R240) -/

def Rel.handed (r : Rel) (e : Eng) : Nat := if e = .lea then r.nA else r.nB

/-- The engine has handed over the whole frame. -/
def Rel.whole (r : Rel) (e : Eng) : Bool := decide (32 ≤ r.handed e)

def Rel.took (r : Rel) (e : Eng) (k : Nat) : Rel :=
  let c := if k = 31 then 32 else r.handed e + 1
  if e = .lea then { r with nA := c } else { r with nB := c }

def Dev.rel (s : Dev) (v : Nat) : Rel := s.tw.rel.get v
def Dev.modRel (s : Dev) (v : Nat) (f : Rel → Rel) : Dev := { s with tw := { s.tw with rel := s.tw.rel.mod v f } }

/-- The bytes of a part with flipped bits. -/
def flipBytes (fl : List Flip) (l : List Byte) : List Byte :=
  fl.foldl (fun l x => l.modify x.pos (· ^^^ x.bits)) l

/-- The bytes of part k of vat v's frame in engine e. -/
def Dev.part (s : Dev) (e : Eng) (n : Nat) (ve : VatEntry) (k : Nat) : List Byte :=
  if k = 0 then s.sofD e n ve.vat ve.ndrv else (s.eng e).segs.get (segKey ve.vat k)

/-- SRC and XF masked (R239). -/
def maskSof (k : Nat) (l : List Byte) : List Byte := if k = 0 then l.modify 8 (· &&& 0xCF) else l

/-- The first byte in which two copies differ. -/
def firstDiff : List Byte → List Byte → Nat → Option Nat
  | [], [], _ => none
  | a :: x, b :: y, i => if a = b then firstDiff x y (i + 1) else some i
  | _, _, i => some i

/-- Send on the vat's lanes that are ACTIVE: f takes whether it is lane B. -/
def Dev.onLanes (s : Dev) (v : Nat) (f : Bool → Tx) : Dev :=
  let s := if s.laneActive (2 * v) then s.send (f false) else s
  if s.laneActive (2 * v + 1) then s.send (f true) else s

/-- Release part k: bytes a on lane A, b on lane B. -/
def Dev.releasePart (s : Dev) (v k : Nat) (a b : List Byte) : Dev :=
  let s := s.onLanes v (fun lb => if k = 31 then .term v lb else .drive v lb k (if lb then b else a))
  let s := s.modRel v (fun r => { r with opened := true, closed := k == 31 })
  if k = 31 then (s.pcFrame 0x0605 1 (some v)).blkFlush v else s

/-- An open frame ends with ABORT. -/
def Dev.abortFrame (s : Dev) (v : Nat) : Dev :=
  let r := s.rel v
  let s := if r.opened && !r.closed then (s.onLanes v (fun lb => .abort v lb)).pcFrame 0x0606 1 (some v) else s
  ((s.modRel v (fun r => { r with aborted := true, wait := [] })).modVat v
    (fun x => { x with lostFrame := some s.le.frame })).blkFlush v

/-- TW_LASTMIS of a mismatch in part k at byte i (R239); a difference in TERM has no segment: its SEG and BYTE are free. -/
def misWord (v k i free : Nat) : Nat :=
  if k = 0 then v + 2048 * min 255 (i + 1) + 2 ^ 19
  else if k = 31 then v + 64 * (free % 2 ^ 13)
  else v + 64 * (k - 1) + 2048 * min 255 i

/-- A difference of the frame is noted; the first of each vat counts. -/
def Dev.noteDiff (s : Dev) (v w : Nat) : Dev :=
  if s.tw.diffs.any (·.1 == v) then s else { s with tw := { s.tw with diffs := s.tw.diffs ++ [(v, w)] } }

/-- A mismatch of a vat in service (R17), of the copies a of LEA and b of LEB: this part and every later one is withheld,
and the MISMATCH trace record goes out (Table 11.11). -/
def Dev.withhold (s : Dev) (v k i : Nat) (a b : List Byte) : Dev :=
  let w := misWord v k i s.free.toNat
  let s := if k = 31 then s.useFree else s
  let s := s.trace { ty := 5, blk := 9, vat := v,
                     payload := toLe 8 s.le.frame ++ toLe 4 w ++ zeros 4 ++ fit 16 (a.drop i) ++ fit 16 (b.drop i) }
  let s := ((s.abortFrame v).count F.TW_MISMATCH).event F.TW_EVT_MISMATCH
  s.noteDiff v w

/-- A trial frame differs (R250, R251): its first difference is recorded too (R239). -/
def Dev.trialFails (s : Dev) (v w : Nat) : Dev :=
  let s := if s.tw.trialDiffs.any (·.1 == v) then s else { s with tw := { s.tw with trialDiffs := s.tw.trialDiffs ++ [(v, w)] } }
  { s with tw := { s.tw with trialBad := v :: s.tw.trialBad.filter (· != v) } }

/-- The same for part k, whose copies differ at byte i. -/
def Dev.trialPart (s : Dev) (v k i : Nat) : Dev :=
  let s' := s.trialFails v (misWord v k i s.free.toNat)
  if k = 31 then s'.useFree else s'

/-- Compare two copies of part k, a of LEA and b of LEB; xf: the vat is cross-fed, so nothing is released here. -/
def Dev.comparePart (s : Dev) (v k : Nat) (xf : Bool) (a b : List Byte) : Dev :=
  let s := s.pcFrame 0x0901 1 (some v)
  match firstDiff (maskSof k a) (maskSof k b) 0 with
  | none => if xf then s else s.releasePart v k a b
  | some i => if xf then s.trialPart v k i else s.withhold v k i a b

/-- Engine e hands over its next part of vat v's frame (R240): the operation that does so has issued, and those before it. -/
def Dev.handover (e : Eng) (v : Nat) (g : Seg) (flips : List Flip) (s : Dev) : Dev :=
  match (s.framePlan.map (·.vats)).getD [] |>.find? (·.vat == v) with
  | none => s
  | some ve =>
    let s := if s.le.isOpen then s.issueFor ve (segNo g) else s
    let r := s.rel v
    let k := segNo g
    let xf := s.crossFed v
    if !s.le.isOpen || !s.unitRuns e v || s.on F.TW_STAT_ARB_FLT || r.aborted || r.whole e ||
        k != nextPart (s.bodies ve) (r.handed e) || (s.part e s.le.frame ve k).isEmpty then s
    else
      let l := flipBytes flips (s.part e s.le.frame ve k)
      let s := s.modRel v (·.took e k)
      let s := if xf && e == s.active then s.releasePart v k l l else s
      if xf && !s.runs s.partner v then s
      else
        match r.wait.find? (fun w => w.1 == other e && w.2.1 == k) with
        | some w =>
          let s := s.modRel v (fun r => { r with wait := r.wait.filter (fun x => x.2.1 != k) })
          if e = .lea then s.comparePart v k xf l w.2.2 else s.comparePart v k xf w.2.2 l
        | none => s.modRel v (fun r => { r with wait := r.wait ++ [(e, k, l)] })

/-- A copy is 16 core clocks late (R240): a mismatch, and NOSEG in the late engine. -/
def Dev.noseg (late : Eng) (v : Nat) (g : Seg) (s : Dev) : Dev :=
  let r := s.rel v
  let k := segNo g
  match r.wait.find? (fun w => w.1 == other late && w.2.1 == k) with
  | none => s
  | some w =>
    if r.aborted || !s.le.isOpen || !s.runs late v then s
    else
      let s := s.flag late 5 v
      let s := s.modRel v (fun r => { r with wait := r.wait.filter (fun x => x.2.1 != k) })
      if s.crossFed v then s.trialPart v k 0
      else if late = .lea then s.withhold v k 0 [] w.2.2 else s.withhold v k 0 w.2.2 []

/-! ### Timing checks (R209) -/

/-- A check of R209 fails in the engines of a list, for vat v: one engine's health decides, both are a plan overrun. -/
def Dev.overrun (s : Dev) (v info : Nat) (es : List Eng) : Dev :=
  match es with
  | [] => s
  | [e] => s.flag e 4 v
  | _ => s.raise 0x0704 3 (srcWord 7 v) info

/-- The engines in service for vat v: the active one, and the standby where it has a copy. -/
def Dev.inServiceOf (s : Dev) (v : Nat) : List Eng := if s.crossFed v then [s.active] else [.lea, .leb]

/-- At the close of F(n): VCLOSE must have ended in every engine in service (R209). -/
def Dev.closeCheck (s : Dev) (p : Plan) (ve : VatEntry) : Dev :=
  let k := (p.progs.get ve.vat).phases.length
  let late := (s.inServiceOf ve.vat).filter (fun e => !s.allPhases ve.vat e)
  if late.isEmpty then s else (s.overrun ve.vat (256 * (k - 1) + 1) late).abortFrame ve.vat

/-- At t(n + 1) − 60 ns VL checks that the frame of vat v has left the pins (R209): of the frame that closed last. A frame
that TW withheld (R242, R257) is not checked. -/
def Dev.deadline (v : Nat) (s : Dev) : Dev :=
  match s.tw.lastRel.look v with
  | none => s
  | some r =>
    let s := { s with tw := { s.tw with lastRel := s.tw.lastRel.filter (·.1 != v) } }
    if r.closed || r.aborted || s.on F.TW_STAT_ARB_FLT then s
    else
      let bad := (s.inServiceOf v).filter (fun e => !r.whole e)
      let s := if r.opened then (s.onLanes v (fun lb => .abort v lb)).pcFrame 0x0606 1 (some v) else s
      let s := if bad.isEmpty then s else s.pcFrame 0x0902 1 (some v)
      ((s.modVat v (fun x => { x with lostFrame := some (s.le.closedN) })).blkFlush v).overrun v 2 bad

/-! ### The close of a frame (R242 to R245, R251) -/

/-- The state audit of F(n) (R244), in service and in trial. -/
def Dev.audit (s : Dev) (n v : Nat) : Dev :=
  let d := s.runs .lea v && s.runs .leb v && s.auditCrc .lea v n != s.auditCrc .leb v n
  if !d then s
  else if s.crossFed v then s.trialFails v (v + 2048 * (n % 256) + 2 ^ 20)
  else ((s.count F.TW_STATEDIFF).event F.TW_EVT_STATE_DIFF).noteDiff v (v + 2048 * (n % 256) + 2 ^ 20)

/-- A resynchronisation attempt fails (R251): a second one begins at the next opening, or the engine is out. -/
def Dev.tryFails (s : Dev) (v : Option Nat) (r : Resync) : Dev :=
  let s := (s.count F.TW_RESYNC_FAIL).event F.TW_EVT_RESYNC_FAIL
  let b := s.partner
  if r.try_ = 1 then
    let again : Resync := { s := s.le.frame + 1, try_ := 2 }
    match v with
    | some v => { s with tw := { s.tw with vres := s.tw.vres.set v (some again) } }
    | none => ({ s with tw := { s.tw with wres := some again } }).wr F.TW_STAT_TRY 2
  else
    let s := s.raise (256 * engBlock b + 6) 1 (engSrc b) 0
    match v with
    | some _ => s.removeEng b 3
    | none => (((s.wr (roleFld b) 0).wr (causeFld b) 3).resyncEnd).restoreEnd b 0

/-- Trial frames that differed fail their attempts. -/
def Dev.trialClose (s : Dev) : Dev :=
  let bad := s.tw.trialBad
  let s := { s with tw := { s.tw with trialBad := [] } }
  let s := Dev.each (s.tw.vres.filterMap (fun vr => if bad.contains vr.1 then vr.2.map (fun r => (vr.1, r)) else none))
    (fun s vr => if (s.tw.vres.get vr.1).isSome then s.tryFails (some vr.1) vr.2 else s) s
  match s.tw.wres with
  | some r => if bad.isEmpty then s else s.tryFails none r
  | none => s

/-- The decision of R242 with the frame's differences. -/
def Dev.decideRoles (s : Dev) : Dev :=
  let a := s.active
  let b := s.partner
  let fa := s.faulty a
  let fb := s.faulty b && s.role b != 0
  let ready := s.role b == 2 && !s.vatResync
  if fa && (fb || !ready) then s.raise 0x0903 3 (srcWord 9) (engNo a)
  else
    let s := if fb then s.removeEng b 1 else s
    if fa then s.failover 1
    else
      let ds := s.tw.diffs
      if ds.isEmpty then s
      else
        let s := s.misCount
        let s := Dev.each ds (fun s d =>
          let on := s.role b == 2
          let s := if on then s.resyncVat d.1 else s
          { s with tw := { s.tw with prio := (if on then [(a, d.1), (b, d.1)] else [(a, d.1)]) ++ s.tw.prio.filter (fun x => x.2 != d.1) } }) s
        if s.rd F.TW_CFG_MIS_LIM ≤ s.tw.mis.length ∧ s.role b ≠ 0 then s.removeEng b 2
        else if s.role b = 0 then s
        else Dev.each ds (fun s d => s.raise 0x0901 0 (srcWord 9 d.1) d.2) s

/-- The lowest-numbered vat's difference (R239). -/
def lowDiff (l : List (Nat × Nat)) : Option Nat :=
  (l.foldl (fun (a : Option (Nat × Nat)) d => match a with
    | some x => if d.1 < x.1 then some d else a
    | none => some d) none).map (·.2)

/-- The registers as of this close (R260). -/
def Dev.twShadow (s : Dev) : Dev :=
  let t := (List.range 22).foldl (fun (t : Tbl Word) i =>
    let o := R.TW_CFG + 4 * i
    t.put (regReset o) o (s.reg o)) []
  { s with tw := { s.tw with shadow := t, shadowN := s.le.frame } }

/-- TW's work at the close of F(n). -/
def Dev.twClose (s : Dev) : Dev :=
  let n := s.le.frame
  let s := match s.framePlan with
    | some p =>
      let s := Dev.each p.vats (fun s ve => s.closeCheck p ve) s
      let s := Dev.each p.vats (fun s ve => s.audit n ve.vat) s
      Dev.each p.vats (fun s ve =>
        let s := if (s.rel ve.vat).aborted || (s.on F.TW_STAT_ARB_FLT && !(s.rel ve.vat).closed) then s.pcFrame 0x0902 1 (some ve.vat) else s
        if s.crossFed ve.vat then s.pcFrame 0x0903 1 (some ve.vat) else s) s
    | none => s
  let s := match lowDiff (s.tw.diffs ++ s.tw.trialDiffs) with
    | some w => (s.setReg R.TW_LASTMIS (BitVec.ofNat 32 w)).wr2 R.TW_LASTMIS_N_LO n
    | none => s
  let s := ((s.misAge).decideRoles).trialClose
  let vs := ((s.framePlan.map (·.vats)).getD []).map (·.vat)
  let last := vs.foldl (fun (t : Tbl Rel) v => t.filter (·.1 < v) ++ [(v, s.rel v)] ++ t.filter (fun x => v < x.1)) []
  ({ s with tw := { s.tw with diffs := [], trialDiffs := [], lastRel := last } }).twShadow

/-- TW's work at the opening of F(n): requests, resynchronisations, cross-feed, and a new frame's release state. -/
def Dev.twOpen (n : Nat) (s : Dev) : Dev :=
  let s := ((s.applyReqs).resyncOpen n).xfSync
  { s with tw := { s.tw with rel := [] } }

/-! ### Self-test, scrub, clock loss (R247, R248) -/

/-- The engine runs the self-test: the standby, or the active one while none is STANDBY. -/
def Dev.selfTests (s : Dev) (e : Eng) : Bool :=
  s.role e == 2 || (s.role e == 1 && s.role (other e) != 2) || s.tw.prio.any (·.1 == e)

/-- STARVED as the units that starve. -/
def Dev.starvedSync (s : Dev) (e : Eng) : Dev :=
  s.wrB (healthFld e F.TW_HEALTH_A_STARVED) (s.tw.starved.any (·.1 == e))

/-- A pass of a unit completes. STARVED reads 0 again once each starving unit has completed one (log 35). -/
def Dev.passDone (e : Eng) (v : Nat) (stest rom cfg : Bool) (s : Dev) : Dev :=
  if !s.selfTests e then s
  else
    let f := healthFld e F.TW_HEALTH_A_PASSES
    let s := (s.wr f (s.rd f + 1)).pcClock 0x0904
    let s := Dev.when stest (Dev.flag e 1 v) s
    let s := Dev.when rom (Dev.flag e 2 v) s
    let s := Dev.when cfg (Dev.flag e 3 v) s
    ({ s with tw := { s.tw with prio := s.tw.prio.filter (· != (e, v)), starved := s.tw.starved.filter (· != (e, v)) } }).starvedSync e

/-- A unit has completed no pass in the last second. -/
def Dev.starve (e : Eng) (v : Nat) (s : Dev) : Dev :=
  if !s.selfTests e then s
  else
    let was := s.on (healthFld e F.TW_HEALTH_A_STARVED)
    let s := { s with tw := { s.tw with starved := (e, v) :: s.tw.starved.filter (· != (e, v)) } }
    let s := (s.starvedSync e).event F.TW_EVT_STARVED
    Dev.when (!was) (·.raise (256 * engBlock e + 7) 0 (engSrc e) 0) s

/-- The engine scrub reads a word (R247). -/
def Dev.leScrub (e : Eng) (v : Nat) (r : Ecc) (s : Dev) : Dev :=
  match r with
  | .ok | .checkFails => s
  | .corrected => s.count (if e = .lea then F.TW_CE_A else F.TW_CE_B)
  | .uncorrectable => s.flag e 0 v

/-- The test of a restore ends (R253). -/
def Dev.restoreDone (e : Eng) (checks v : Nat) (s : Dev) : Dev :=
  if s.tw.restoring ≠ some e then s
  else
    let s := { s with tw := { s.tw with restoring := none } }
    let f := healthFld e F.TW_HEALTH_A_PASSES
    let s := (s.wr f (s.rd f + 64)).pcClock 0x0904 64
    let s := Dev.each (bitsOf 7 checks) (fun s b => s.flag e b v) s
    if s.faulty e then
      let s := (s.wr (causeFld e) 5).event F.TW_EVT_RESTORE_FAIL
      (s.raise (256 * engBlock e + 6) 1 (engSrc e) 1).restoreEnd e 0
    else
      let s := (s.wr (roleFld e) 3).misClear
      ({ s with tw := { s.tw with wres := some { s := s.le.frame + 2 } } }).wr F.TW_STAT_TRY 1

/-- 10 s after a MISCOUNT removal (R253). -/
def Dev.autoRestore (e : Eng) (s : Dev) : Dev :=
  if s.on F.TW_CFG_AUTO_RST && s.rd (causeFld e) == 2 && !s.on (autoFld e) && (s.restoreWhy e).isNone then
    (s.wrB (autoFld e) true).restoreBegin e none
  else s

/-- A frame of the sample before that is still open on its lanes ends with ABORT. -/
def Dev.abortLast (s : Dev) (v : Nat) (r : Rel) : Dev :=
  if !r.opened || r.closed || r.aborted then s
  else
    let s := (s.onLanes v (fun lb => .abort v lb)).pcFrame 0x0606 1 (some v)
    (({ s with tw := { s.tw with lastRel := s.tw.lastRel.mod v (fun r => { r with aborted := true }) } }).modVat v
      (fun x => { x with lostFrame := some s.le.closedN })).blkFlush v

/-- A TW self-check fails (R257): every frame still open ends with ABORT; one whose TERM has left is complete. -/
def Dev.arbFault (kind : Nat) (s : Dev) : Dev :=
  if s.on F.TW_STAT_ARB_FLT then s
  else
    let s := (s.wrB F.TW_STAT_ARB_FLT true).event F.TW_EVT_ARB_FLT
    let s := Dev.each s.tw.lastRel (fun s vr => s.abortLast vr.1 vr.2) s
    let s := Dev.each s.tw.rel (fun s vr => if vr.2.closed || vr.2.aborted then s else s.abortFrame vr.1) s
    s.raise 0x0904 3 (srcWord 9) kind

/-! ### The wake check (R255) -/

/-- CRC over a unit's retained loop state. -/
def Dev.unitCrc (s : Dev) (e : Eng) (v : Nat) : Nat :=
  crc32c ((List.range 256).flatMap (fun l => stateBytes ((s.eng e).loops.get (loopKey v l))))

/-- Before the engines are released after wake. -/
def Dev.wakeCheck (s : Dev) : Dev :=
  if s.role s.partner ≠ 2 ∨ s.faulty .lea ∨ s.faulty .leb then s
  else
    let bad := (List.range 64).filter (fun v => (s.tw.vres.get v).isNone && s.unitCrc .lea v != s.unitCrc .leb v)
    Dev.each bad (fun s v =>
      let s := ({ s with tw := { s.tw with vres := s.tw.vres.set v (some { s := s.le.frame + 1 }) } }).vresSync
      (s.event F.TW_EVT_WAKE_DIFF).raise 0x0902 0 (srcWord 9 v)) s

/-! ### twin.status (R259, Table 11.7) -/

/-- A TW register as of the last frame close (R260), TW_CFG and TW_EVT too, where 00 R6 would give the present value; the reset value before
any frame has closed (DESIGN CHOICE, log 64). -/
def Dev.twRead (s : Dev) (o : Nat) : Word := (s.tw.shadow.look o).getD (regReset o)

def Mbx.twEng (m : Mbx) : Eng := if m.fld 1 1 = 0 then .lea else .leb

def Dev.twStatus (mb : Nat) (_ : Mbx) (s : Dev) : Dev :=
  let r (o : Nat) : List Byte := toLe 4 (s.twRead o).toNat
  s.ok mb (r R.TW_STAT ++ r R.TW_HEALTH_A ++ r R.TW_HEALTH_B ++ r R.TW_LASTMIS ++ r R.TW_LASTMIS_N_LO ++ r R.TW_LASTMIS_N_HI ++
    r R.TW_VRESYNC_LO ++ r R.TW_VRESYNC_HI ++ r R.TW_XF_LO ++ r R.TW_XF_HI ++ r R.TW_MISWIN ++ zeros 4 ++
    (List.range 8).flatMap (fun c => r (R.TW_MISMATCH + 4 * c)) ++ zeros 4 ++ toLe 8 s.tw.shadowN)

/-- An answer of REMOVE or SWAP. -/
def Dev.twAnswer (mb : Nat) (r : Dev × Option Nat) : Dev :=
  match r.2 with
  | some w => r.1.refuse mb 0x0C04 (0x0900 + w)
  | none => r.1.ok mb (toLe 8 r.1.nextOpen)

def Dev.twStRestore (mb : Nat) (m : Mbx) (s : Dev) : Dev :=
  if 1 < m.fld 1 1 then s.range mb 1
  else
    let r := s.twRestore m.twEng (some mb)
    match r.2 with
    | some w => r.1.refuse mb 0x0C04 (0x0900 + w)
    | none => r.1.take mb

def Dev.twStRemove (mb : Nat) (m : Mbx) (s : Dev) : Dev :=
  if 1 < m.fld 1 1 then s.range mb 1 else Dev.twAnswer mb (s.twRemove m.twEng)

def Dev.twStSwap (mb : Nat) (_ : Mbx) (s : Dev) : Dev := Dev.twAnswer mb s.twSwap

/-! ### The commands -/

def execSegmentHandover (e : Eng) (v : BitVec 6) (g : Seg) (flips : List Flip) (s : State) : Host.Outcome State Fault Refusal :=
  s.onDev (Dev.handover e v.toNat g flips)
def execNoseg (late : Eng) (v : BitVec 6) (g : Seg) (s : State) : Host.Outcome State Fault Refusal :=
  s.onDev (Dev.noseg late v.toNat g)
def execDriveFrameDeadline (v : BitVec 6) (s : State) : Host.Outcome State Fault Refusal := s.onDev (Dev.deadline v.toNat)
def execResyncCopyDone (s : State) : Host.Outcome State Fault Refusal := s.onDev Dev.copyDone
def execMiswinAgeOut (s : State) : Host.Outcome State Fault Refusal := s.onDev Dev.misAge
def execSelftestPassDone (e : Eng) (v : BitVec 6) (stest rom cfg : Bool) (s : State) : Host.Outcome State Fault Refusal :=
  s.onDev (Dev.passDone e v.toNat stest rom cfg)
def execStarved (e : Eng) (v : BitVec 6) (s : State) : Host.Outcome State Fault Refusal := s.onDev (Dev.starve e v.toNat)
def execEngineScrub (e : Eng) (v : BitVec 6) (r : Ecc) (s : State) : Host.Outcome State Fault Refusal :=
  s.onDev (Dev.leScrub e v.toNat r)
def execRestoreTestDone (e : Eng) (checks : BitVec 7) (v : BitVec 6) (s : State) : Host.Outcome State Fault Refusal :=
  s.onDev (Dev.restoreDone e checks.toNat v.toNat)
def execAutoRestore (e : Eng) (s : State) : Host.Outcome State Fault Refusal := s.onDev (Dev.autoRestore e)
def execArbFlt (kind : BitVec 2) (s : State) : Host.Outcome State Fault Refusal := s.onDev (Dev.arbFault kind.toNat)
/-- An engine's clock or strobe is lost (Table 10.2): its unit issues nothing until a restore. -/
def execEngineClockLost (e : Eng) (v : BitVec 6) (s : State) : Host.Outcome State Fault Refusal :=
  s.onDev (fun s => (Dev.flag e 6 v.toNat s).modEng e (fun g => { g with dead := v.toNat :: g.dead.filter (· != v.toNat) }))
/-- One hour after an automatic restore (R253). -/
def execAutoRestoreWindowEnd (e : Eng) (s : State) : Host.Outcome State Fault Refusal := s.onDev (·.wrB (autoFld e) false)
def execTwinStatusRead (mb : BitVec 3) (s : State) : Host.Outcome State Fault Refusal :=
  s.onDev (Dev.ecs mb.toNat 0x0601 (some 0) Dev.twStatus)
def execTwinStatusRestore (mb : BitVec 3) (s : State) : Host.Outcome State Fault Refusal :=
  s.onDev (Dev.ecs mb.toNat 0x0601 (some 1) Dev.twStRestore)
def execTwinStatusRemove (mb : BitVec 3) (s : State) : Host.Outcome State Fault Refusal :=
  s.onDev (Dev.ecs mb.toNat 0x0601 (some 2) Dev.twStRemove)
def execTwinStatusSwap (mb : BitVec 3) (s : State) : Host.Outcome State Fault Refusal :=
  s.onDev (Dev.ecs mb.toNat 0x0601 (some 3) Dev.twStSwap)

end Sys2Proof.Machine
end

