-- ==== Sys2Proof/Machine/RcRead.lean ====
section
/-!
DEFINITION. Reading registers (00 R6 to R8, 11 R263, R264): the bits a read shows, the holding registers of 64-bit pairs,
RC registers, which give their count at the grant (15 R344), and the rest of TW as of the last frame close (10 R260).
-/
namespace Sys2Proof.Machine

/-- The bits of a register that a read shows: not the reserved ones, not those of WO fields (R6, R7). -/
def RegSpec.shown (r : RegSpec) : Nat :=
  r.fields.foldl (fun a f => if f.acc = .wo then a else a + (2 ^ (f.hi + 1) - 2 ^ f.lo)) 0

/-- The low words of the 64-bit registers (R8): base, count, stride. -/
def pairsLo : List (Nat × Nat × Nat) :=
  [(0x10, 1, 0), (0x18, 1, 0), (0x20000, 16, 0x40), (0x20014, 16, 0x40), (0x30000, 8, 0x40), (0x30010, 8, 0x40),
   (0x30018, 8, 0x40), (0x30020, 8, 0x40), (0x50020, 1, 0), (0x50030, 1, 0), (0x5005C, 1, 0), (0x50068, 1, 0),
   (0x60008, 1, 0), (0x61018, 128, 0x40), (0x9001C, 1, 0), (0x90024, 1, 0), (0x9002C, 1, 0)] ++
  [(0xB0010, 1, 0), (0xB0020, 1, 0), (0xB0028, 1, 0), (0xB0034, 1, 0), (0xC0010, 1, 0), (0xC001C, 1, 0), (0xD0008, 1, 0),
   (0xE0008, 1, 0), (0x110010, 1, 0), (0x110018, 1, 0), (0x120020, 1, 0), (0x120030, 1, 0), (0x120038, 1, 0),
   (0x120040, 1, 0), (0x120048, 1, 0), (0x130024, 1, 0), (0x130030, 4, 8), (0x130050, 3, 8), (0x150010, 1, 0)] ++
  [(0x120408, 32, 0x20)] ++
  [(0x150110, 8, 0x20), (0x150118, 8, 0x20), (0x150210, 16, 0x20), (0x150218, 16, 0x20)]

/-- The offset is that of a 64-bit register's low word. -/
def isLow (off : Nat) : Bool :=
  pairsLo.any (fun (x : Nat × Nat × Nat) =>
    if x.2.1 = 1 then off == x.1
    else decide (x.1 ≤ off) && (off - x.1) % x.2.2 == 0 && decide ((off - x.1) / x.2.2 < x.2.1))

/-- Whole seconds left of the unlock period; a second that has begun counts (R264). -/
def Dev.svcLeft (s : Dev) : Nat :=
  if s.on F.HIF_STAT_SVC_OPEN then s.hif.svcFor - s.hif.svcRun / 1000000 else 0

/-- A register's word now; 0 at a reserved offset (R7). -/
def Dev.readNow (s : Dev) (off : Nat) : Word :=
  match regAt off with
  | none => 0
  | some r =>
    let w := if off = R.HIF_SVC_LEFT then BitVec.ofNat 32 s.svcLeft
      else if off = R.FC_STAT then (s.wrB F.FC_STAT_EXIT_OK s.exitOk).reg off
      else if off / 0x10000 = 9 ∧ !r.isRc then s.twRead off
      else s.reg off
    w &&& BitVec.ofNat 32 r.shown

/-- The read of an RC register: its value at the grant, then 0 (R6, 15 R344). A read of TRC_DROP_r re-arms the ring's RING event (11
R276). -/
def Dev.rcTake (s : Dev) (off : Nat) : Word × Dev :=
  let v := s.readNow off
  let s := s.setReg off 0
  if off / 0x10000 = 3 then
    (v, { s with trc := { s.trc with rings := s.trc.rings.mod ((off - 0x30000) / 0x40) (fun x => { x with dropNoted := false }) } })
  else (v, s)

/-- A read of a register through the bus (R6, R8): low words fill their holding register, high words return it. -/
def Dev.readReg (s : Dev) (off : Nat) : Word × Dev :=
  match regAt off with
  | none => (0, s)
  | some r =>
    if r.isRc then s.rcTake off
    else if isLow off then (s.readNow off, { s with hold := s.hold.put 0 off (s.readNow (off + 4)) })
    else if isLow (off - 4) && decide (4 ≤ off) then ((s.hold.look (off - 4)).getD 0, s)
    else (s.readNow off, s)

end Sys2Proof.Machine
end

