-- ==== Sys2Proof/Machine/Access.lean ====
section
/-!
DEFINITION. Who may write a register (11 R263, 12 R287): the privilege an aperture or master carries, the locked service
aperture, and the PRIV error of a write that falls short.
-/
namespace Sys2Proof.Machine

/-- The privilege number of an access (12 Table 12.2): the host carries PL2 or PL1, the stewards PL0, the debug port PL3. -/
def viaPl : Via → Nat
  | .steward => 0
  | .service => 1
  | .operator => 2
  | .debug => 3

/-- The transaction of a register access: one word at T6. -/
def viaReq (via : Via) (off : Nat) (write : Bool) : BmReq :=
  { mid := match via with
      | .steward => 0
      | .debug => 9
      | _ => 4,
    pl := BitVec.ofNat 2 (viaPl via), cls := if via = .debug then 3 else 0, tgt := 6, write := write, beats := 1,
    addr := BitVec.ofNat 64 off, data := [] }

/-- The same as the matrix takes it. -/
def Dev.viaW (s : Dev) (via : Via) (off : Nat) (write : Bool) : BmW :=
  let q := viaReq via off write
  let w : BmW := { q := q, qos := s.qosOf ((masterOf q.mid.toNat).getD 0) q.cls.toNat }
  { w with grantedFor := s.bpPasses w }

/-- The access is granted at T6 (12 R287, R290) and answered: the bus-port counters that take it count it (15 R348). -/
def Dev.t6 (via : Via) (off : Nat) (write : Bool) (s : Dev) : Dev :=
  let w := s.viaW via off write
  (Dev.when (!write) (·.bpBeats w) (s.bpGrant w)).bmPass 6 w.m

/-- PRIV at T6 (12 R287, R288). -/
def Dev.privError (via : Via) (off : Nat) (write : Bool) (s : Dev) : Dev := s.bmHandle (s.viaW via off write) 1

/-- The access would win the arbitration at T6 against the requests that wait there (12 R290): neither its master's port nor T6's
pauses (R295), its master and T6 have room for it, and no request of its master that it may not pass waits (R293). -/
def Dev.t6Wins (s : Dev) (via : Via) (off : Nat) (write : Bool) : Bool :=
  let w := s.viaW via off write
  let n := s.bm.wait.length
  !bit s.pausedPorts w.m && !bit s.pausedPorts 12 && s.masterRoom w && s.targetRoom w && !s.bm.wait.any (fun x => blocks x w) &&
    ((s.winner 6 (s.contenders 6 ++ [(n, w)])).map (·.1) == some n)

/-- No access of the aperture or master is taken: its master drains (12 R296), or DBG_TRST_N holds the debug port in reset (16
R361). -/
def Dev.viaOut (s : Dev) (via : Via) : Bool :=
  bit (s.rd F.BM_STAT_DRAIN) ((masterOf (viaReq via 0 true).mid.toNat).getD 0) || (via == .debug && !s.pins.trstN)

/-- The access reaches no register: none of its master's is taken, T6 is stalled (12 R289), or it is not granted. -/
def Dev.viaShut (s : Dev) (via : Via) (off : Nat) (write : Bool) : Bool :=
  s.viaOut via || s.t6Stalled || !s.t6Wins via off write

/-- TOUT at a stalled T6 (12 R289). -/
def Dev.stallError (via : Via) (off : Nat) (write : Bool) (s : Dev) : Dev := s.bmHandle (s.viaW via off write) 4

/-- A write through the locked service aperture is ignored and noted (R263), but for HIF_UNLOCK_*. -/
def Dev.svcShut (s : Dev) (via : Via) (off : Nat) : Bool :=
  via == .service && !s.on F.HIF_STAT_SVC_OPEN && off != R.HIF_UNLOCK_LO && off != R.HIF_UNLOCK_HI

/-- A write through the locked service aperture is noted. -/
def Dev.svcRefused (off : Nat) (s : Dev) : Dev := (s.event F.HIF_EVT_SVC_REFUSED).raise 0x0001 0 (srcWord 0) off

/-- An access at T6 whose effect is f. What falls in the clock of a write of PC_CTL, its own grant, is counted after its snapshot and its
clear (15 R347, R351). -/
def Dev.t6Do (via : Via) (off : Nat) (f : Dev → Dev) (s : Dev) : Dev :=
  let s := s.settleFor off
  if off = R.PC_CTL then (f s).t6 via off true else f (s.t6 via off true)

/-- A write of a word with the privilege it needs: f when it is let through. A stalled T6 gives TOUT. The matrix does not forward what
the debug port may not reach; the register itself refuses the others (12 R287). An access that would not be granted waits outside, and
is commanded again (DESIGN CHOICE, log 94). -/
def Dev.writeAs (via : Via) (off need : Nat) (f : Dev → Dev) (s : Dev) : Dev :=
  if s.viaOut via then s
  else if s.svcShut via off then s.svcRefused off
  else if s.t6Stalled then s.stallError via off true
  else if via = .debug ∧ !pcWindow off then s.privError via off true
  else if !s.t6Wins via off true then s
  else if need < viaPl via then (s.t6 via off true).privError via off true
  else s.t6Do via off f

/-- The same for a register of the map, which names its privilege. -/
def Dev.writeReg (via : Via) (off : Nat) (f : Dev → Dev) (s : Dev) : Dev :=
  s.writeAs via off (((regAt off).map (·.wpl)).getD 3) f

/-! ### Storing fields (R6, R7) -/

/-- A write's value of a field. -/
def FieldSpec.take (f : FieldSpec) (v : Nat) : Nat := v / 2 ^ f.lo % 2 ^ (f.hi + 1 - f.lo)

/-- The encoding is not reserved. -/
def FieldSpec.admits (f : FieldSpec) (v : Nat) : Bool := decide (f.min ≤ f.take v) && decide (f.take v ≤ f.max)

/-- One field of a word after a write of v: RW stores what is not reserved, W1C clears where v has 1, the others ignore it. -/
def FieldSpec.written (v : Nat) (old : Nat) (f : FieldSpec) : Nat :=
  let w := f.hi + 1 - f.lo
  match f.acc with
  | .rw => if f.admits v then setField old f.lo w (f.take v) else old
  | .w1c =>
    let cur := old / 2 ^ f.lo % 2 ^ w
    setField old f.lo w (cur - (cur &&& f.take v))
  | _ => old

/-- The word of a register after a write of v. -/
def RegSpec.written (r : RegSpec) (old v : Nat) : Nat := r.fields.foldl (fun a f => f.written v a) old

/-- A write of v names a reserved encoding of an RW field. -/
def RegSpec.reserved (r : RegSpec) (v : Nat) : Bool := r.fields.any (fun f => f.acc == .rw && !f.admits v)

/-- A reserved encoding was written (R7): an S0 note of the block, code 0xbb00. -/
def Dev.reservedNote (off : Nat) (s : Dev) : Dev := s.raise (256 * blockOf off) 0 (srcWord (blockOf off)) off

/-- Store a word by its access codes. -/
def Dev.store (off v : Nat) (s : Dev) : Dev :=
  match regAt off with
  | some r =>
    let s' := s.setReg off (BitVec.ofNat 32 (r.written (s.reg off).toNat v))
    Dev.when (r.reserved v) (Dev.reservedNote off) s'
  | none => s

end Sys2Proof.Machine
end

