-- ==== Sys2Proof/Machine/Pm.lean ====
section
/-!
DEFINITION. The power manager (14 R316 to R330, R340, R342): pm.set and its refusers, the change of operating point, Park,
the entry to P3 and P4, and the steps of a wake up to its measurement. Frame openings (R317, R323) call Dev.pmFrame.
-/
namespace Sys2Proof.Machine

def Dev.setPm (f : Pm → Pm) (s : Dev) : Dev := { s with pm := f s.pm }

/-- Voltage of an operating point, mV. -/
def Dev.opv (s : Dev) (o : Nat) : Nat :=
  match o with
  | 0 => s.rd F.PM_OPV_0
  | 1 => s.rd F.PM_OPV_1
  | _ => s.rd F.PM_OPV_2

/-- A POWER record (R342). -/
def Dev.powerEv (s : Dev) (code refuser : Nat) : Dev :=
  s.emit { ty := 4, code := BitVec.ofNat 32 code, src := srcWord 19,
           data := [s.rd F.PM_STAT_STATE, s.rd F.PM_STAT_OP, refuser, s.rd F.PM_WAKE_STAT_SRCMASK].map (BitVec.ofNat 8) }

/-- A power pin changes its level. -/
def Dev.drive (s : Dev) (name : String) (level : Bool) (f : Pins → Pins) : Dev :=
  { s.send (.pin name level) with pins := f s.pins }

/-- CORE_EN; the regulator holds CORE_PG low without it (16 R360). -/
def Dev.coreEn (s : Dev) (b : Bool) : Dev := s.drive "CORE_EN" b (fun p => { p with coreEn := b, corePg := p.corePg && b })

/-- A force toward P1 holds (R317). -/
def Dev.forced (s : Dev) : Bool := s.on F.PM_STAT_F_TH || s.on F.PM_STAT_F_HO || s.on F.PM_STAT_F_REF

/-- The effective state that REQ and the forces ask for (R317). -/
def Dev.pmGoal (s : Dev) : Nat :=
  let q := s.rd F.PM_STAT_REQ
  if 2 ≤ q then q else if s.forced then 1 else q

/-- OPMIN of the plan in force, OP2 with no plan (R338); of a plan whose activation is accepted too, so that the core never runs
slower than the plan that comes into force (08 R202; log 78). -/
def Dev.opMin (s : Dev) : Nat :=
  let m := (s.plan.map (·.opmin)).getD 2
  if s.on F.GL_STAT_ACT_PEND then min m (((s.planBank s.stagedBank).map (·.opmin)).getD 2) else m

/-- The point asked for: OP2 in and for Park (R323), else the requested one under the thermal ceiling (R338), never slower than
OPMIN (08 R202). -/
def Dev.opWant (s : Dev) : Nat :=
  min (if s.rd F.PM_STAT_STATE = 2 ∨ s.rd F.PM_STAT_REQ = 2 then 2 else max s.pm.opReq (s.rd F.PM_STAT_OPMAX)) s.opMin

/-- A change of point or state during a fit of TH (R335). -/
def Dev.fitTouch (s : Dev) : Dev := if s.th.fitOn then { s with th := { s.th with fitChg := true } } else s

/-- The core runs at another point: its event and record (R342). -/
def Dev.opSet (o : Nat) (s : Dev) : Dev :=
  if s.rd F.PM_STAT_OP = o then s
  else (((s.wr F.PM_STAT_OP o).event F.PM_EVT_OP_CHG).powerEv 2 0).fitTouch

/-- The divider switches to another point (R320), which event 0x1302 counts (15 Table 15.2). -/
def Dev.opTo (o : Nat) (s : Dev) : Dev := (Dev.when (s.rd F.PM_STAT_OP != o) (·.pcClock 0x1302) s).opSet o

/-! ### pm.set (R318, Table 14.2) -/

/-- The response bytes: state and point at completion, refuser, sample index (11 Table 11.7). -/
def Dev.pmResp (s : Dev) (refuser : Nat) : List Byte :=
  [BitVec.ofNat 8 (s.rd F.PM_STAT_STATE), BitVec.ofNat 8 (s.rd F.PM_STAT_OP), BitVec.ofNat 8 refuser] ++ zeros 5 ++ toLe 8 s.now

/-- A refusal or a deferral is counted and reported. -/
def Dev.pmNote (s : Dev) (r : Nat) : Dev := ((s.count (F.PM_REFUSE (r - 1))).event F.PM_EVT_REFUSED).powerEv 3 r

/-- REFUSED with DETAIL 0x0C04, DETAIL2 0x0000_13rr. -/
def Dev.pmRefuse (mb r : Nat) (s : Dev) : Dev :=
  let s := s.pmNote r
  s.finish mb 2 0x0C04 (0x1300 + r) (s.pmResp r)

/-- A transition is in progress (PM_STAT.SEQ). -/
def Dev.pmBusy (s : Dev) : Bool :=
  s.pm.opTgt.isSome || s.pm.reqPend.isSome || s.pm.park.isSome || s.pm.mb.isSome || s.pm.p3 != .none || s.pm.wake != .none ||
  ((s.rd F.PM_STAT_REQ == 2) != (s.rd F.PM_STAT_STATE == 2) && decide (s.rd F.PM_STAT_STATE < 3))

/-- The boot gate opens once the raise of the core has ended (16 R363): the enabled lanes train, ports and PTP may begin. -/
def Dev.openGate (s : Dev) : Dev :=
  if s.st.raising && s.pm.opTgt.isNone then
    ({ s with vl := { s.vl with gate := true }, st := { s.st with raising := false } }).trainAll
  else s

/-- pm.set completes once the effective state and the point are reached; SEQ follows, and at boot the gate. -/
def Dev.pmCheck (s : Dev) : Dev :=
  let s := s.openGate
  let s := match s.pm.mb with
    | some (mb, r) =>
      if s.pm.reqPend.isNone ∧ s.rd F.PM_STAT_REQ < 3 ∧ s.rd F.PM_STAT_STATE = s.pmGoal ∧ s.rd F.PM_STAT_OP = s.opWant then
        (s.ok mb (s.pmResp r)).setPm (fun p => { p with mb := none })
      else s
    | none => s
  s.wrB F.PM_STAT_SEQ s.pmBusy

/-! ### The operating point (R320 to R322) -/

/-- The voltage of point t is written over AVSBus. -/
def Dev.avsStart (t : Nat) (s : Dev) : Dev :=
  (s.setPm (fun p => { p with opTgt := some t, avsTgt := some t, avsLast := t, avsRetry := false, divider := false })).send
    (.avsWrite (s.opv t))

/-- No change of point goes on: the entry to P3 has got past its hold, or the core is off. -/
def Dev.pointStands (s : Dev) : Bool := s.pm.p3 != .none && s.pm.p3 != .waiting && s.pm.p3 != .woken

/-- The change of point begins or goes on (R320). Faster: voltage, slices, divider. Slower: divider, slices, voltage. Until its
slices are due those of the point in force follow BM_SLICE (12 R295). -/
def Dev.pmPoint (s : Dev) : Dev :=
  let want := s.opWant
  let op := s.rd F.PM_STAT_OP
  if s.pointStands then s
  else if want < op then
    if want < s.rd F.PM_STAT_VOP ∨ want < s.pm.avsLast ∨ s.pm.avsTgt = some want then
      (if s.pm.avsTgt = some want then s else s.avsStart want).slicePause (s.sliceFor op)
    else
      (s.setPm (fun p => { p with opTgt := some want, avsTgt := none, avsRetry := false, divider := true })).slicePause (s.sliceFor want)
  else if op < want then
    (s.setPm (fun p => { p with opTgt := some want, avsTgt := none, avsRetry := false, divider := true })).slicePause (s.sliceFor op)
  else
    let s := s.slicePause (s.sliceFor op)
    let s := s.setPm (fun p => { p with divider := false })
    if s.bm.sliceTo.isSome then s.setPm (fun p => { p with opTgt := some op })
    else if s.pm.avsTgt = some op ∨ s.pm.avsRetry then s
    else if s.rd F.PM_STAT_VOP < op ∨ s.pm.avsTgt.isSome then s.avsStart op
    else s.setPm (fun p => { p with opTgt := none, avsTgt := none })

/-- The same, with what it completes. -/
def Dev.pmStep (s : Dev) : Dev := s.pmPoint.pmCheck

/-- A Vout read (R322). -/
def Dev.avsPoll (mv : Nat) (s : Dev) : Dev :=
  let s := s.wr F.PM_AVS_VOUT mv
  match s.pm.avsTgt with
  | some t =>
    if mv ≤ s.opv t + 10 ∧ s.opv t ≤ mv + 10 then
      ((s.wr F.PM_STAT_VOP t).setPm (fun p => { p with avsTgt := none })).pmStep
    else s
  | none => s

/-- A voltage is not confirmed in time (R322), so that a later raise writes it again; that of a wake or of the bring-up may still be (R328, 16 Table 16.7). -/
def Dev.avsFailed (s : Dev) : Dev :=
  match s.pm.avsTgt with
  | none => s
  | some t =>
    let s := (s.raise 0x1301 1 (srcWord 19) (s.opv t)).event F.PM_EVT_AVS_FAIL
    if s.unclocked then s
    else if t < s.rd F.PM_STAT_OP then
      let s := s.slicePause (s.sliceFor (s.rd F.PM_STAT_OP))
      let mb := s.pm.mb
      let s := s.setPm (fun p => { p with opTgt := none, avsTgt := none, avsLast := s.rd F.PM_STAT_OP, reqPend := none, mb := none,
                                          opReq := if mb.isSome then p.undoOp else p.opReq })
      match mb with
      | some (m, _) => (s.pmRefuse m 6).pmCheck
      | none => s.pmCheck
    else (s.setPm (fun p => { p with opTgt := none, avsTgt := none, avsRetry := true })).pmCheck

/-- The write of a slower point's voltage is retried (R322). -/
def Dev.avsAgain (s : Dev) : Dev := if s.pm.avsRetry then (s.avsStart (s.rd F.PM_STAT_OP)).pmCheck else s

/-- The regulator alerts. -/
def Dev.avsAlerted (status : Nat) (s : Dev) : Dev := (s.raise 0x1302 1 (srcWord 19) status).event F.PM_EVT_AVS_ALERT

/-- A chooser run is in progress, or has its start fixed: DE has loaded the comparator for it (R321). -/
def Dev.chooserBlocks (s : Dev) : Bool := s.de.run.isSome || (s.tb.cmp.get 2).on

/-- The divider switches at an eligible frame opening (R320, R321). -/
def Dev.dividerSwitch (s : Dev) : Dev :=
  match s.pm.opTgt with
  | some t =>
    if s.pm.divider && s.bm.sliceTo.isNone && decide (s.rd F.PM_STAT_VOP ≤ t) && !s.chooserBlocks then
      let s := s.opTo t
      let s := match s.pm.reqPend with
        | some r => ((s.wr F.PM_STAT_REQ r).setPm (fun p => { p with reqPend := none })).glSync
        | none => s
      (s.setPm (fun p => { p with divider := false })).pmStep
    else s
  | none => s

/-- Slices switch once no beat is in flight through them (12 R295), and the change of point goes on. -/
def Dev.sliceDone (s : Dev) : Dev := if s.bm.sliceTo.isSome then s.slicesSwitch.pmStep else s

/-! ### States at frame openings (R317, R323) -/

/-- The effective state changes. -/
def Dev.toState (st : Nat) (s : Dev) : Dev :=
  if s.rd F.PM_STAT_STATE = st then s
  else ((((s.wr F.PM_STAT_STATE st).event F.PM_EVT_STATE_CHG).powerEv 1 0).fitTouch).glSync

/-- Every cell loop's DVOID is set (R323). -/
def Dev.voidAll (s : Dev) : Dev :=
  let cells := s.descs.filter (fun kd => kd.2.isCell)
  let f (g : EngSt) : EngSt := { g with loops := cells.foldl (fun t kd => t.mod kd.1 (LoopSt.void kd.2)) g.loops }
  { s with le := { s.le with a := f s.le.a, b := f s.le.b } }

/-- VL sends MODE as F(n) opens (R78): EFF is the first t(i) with i mod 16 = 0 that four blocks sent from then on can reach (R76). -/
def Dev.sendMode (s : Dev) (n : Nat) (interval16 : Bool) : Dev :=
  let eff := (n + 1 + 15) / 16 * 16
  let s := s.setPm (fun p => { p with park := some (eff, interval16) })
  Dev.each (List.range 64) (fun s v => s.sendFour v (.mode (if interval16 then 16 else 1) eff)) s

/-- No slot that GL decided is still to be pressed. -/
def Dev.pressesOver (s : Dev) : Bool := s.gl.dec.all (fun x => x.cancelled || x.nochg || decide (x.m + 2 ≤ s.le.frame))

/-- The boundary of every slot decided before a request for P3 or P4 has passed, and its press check has been decided (R325). -/
def Dev.slotsOver (s : Dev) : Bool := s.gl.dec.all (fun x => decide (s.pm.waitK < x.k) || decide (x.m + 2 ≤ s.le.frame))

/-- What the opening of F(n) does to the effective state: P0 and P1 follow R317, Park its MODE (R323), and after a wake the
target once every vat of the plan is released (R327). -/
def Dev.pmFrame (n : Nat) (s : Dev) : Dev :=
  let st := s.rd F.PM_STAT_STATE
  let q := s.rd F.PM_STAT_REQ
  if st = 3 then
    if s.pm.p3 != .none then s
    else if s.pm.target then
      if s.planVats.any s.held then s
      else
        let q := s.rd F.PM_WAKE_CFG_TARGET
        let s := (s.wr F.PM_STAT_REQ q).setPm (fun p => { p with target := false })
        ((s.toState (if q = 2 then 1 else s.pmGoal)).glSync).pmStep
    else if 3 ≤ q then s
    else (s.toState (if q = 2 then 1 else s.pmGoal)).pmStep
  else if st = 4 ∨ 3 ≤ q then s
  else if st = 2 ∧ q ≠ 2 then
    match s.pm.park with
    | none => (s.sendMode n false).pmCheck
    | some (e, _) =>
      if e ≤ n then (((s.setPm (fun p => { p with park := none })).voidAll).toState s.pmGoal).pmStep else s
  else if q = 2 ∧ st ≠ 2 then
    match s.pm.park with
    | none => if s.rd F.PM_STAT_OP = 2 ∧ s.pressesOver then (s.sendMode n true).pmCheck else s
    | some (e, _) =>
      if e ≤ n then (((s.setPm (fun p => { p with park := none })).voidAll).toState 2).pmStep else s
  else (s.toState s.pmGoal).pmCheck

/-! ### Accepting pm.set -/

/-- P0, P1 or P2 is requested. A state that goes with a faster point is requested once that point is reached, so that a
refusal leaves everything as it was (R318). -/
def Dev.pmAccept (want mb op : Nat) (s : Dev) : Dev :=
  let defer := want == 0 && s.forced
  let r := if defer then (if s.on F.PM_STAT_F_TH then 3 else 4) else 0
  let s := s.setPm (fun p => { p with undoOp := p.opReq, mb := some (mb, r), opReq := if want = 2 then 2 else op, target := false })
  let s := (Dev.when defer (·.pmNote r) s).take mb
  let up := want < 2 && s.rd F.PM_STAT_STATE < 2 && max s.pm.opReq (s.rd F.PM_STAT_OPMAX) < s.rd F.PM_STAT_OP
  let s := if up then s.setPm (fun p => { p with reqPend := some want }) else (s.wr F.PM_STAT_REQ want).glSync
  s.pmStep

/-- P3 or P4 is requested (R324, R325): runs, stints, injections and captures end, and the press path waits to empty; the point named is that of the wake. -/
def Dev.pmRetain (want mb op : Nat) (s : Dev) : Dev :=
  let k := s.gl.dec.foldl (fun a x => max a x.k) 0
  let s := s.setPm (fun p => { p with p3 := .waiting, p4 := want == 4, mb := some (mb, 0), opReq := op, waitK := k })
  let s := ((s.take mb).wr F.PM_STAT_REQ want).glSync
  ((((s.abortRuns (fun _ => true)).abortStints).abortInj).abortCaps (fun _ => true)).pmCheck

/-- pm.set for state `want` (R318). -/
def Dev.pmSet (want mb : Nat) (m : Mbx) (s : Dev) : Dev :=
  let o := m.fld 1 1
  if s.on F.PM_STAT_SEQ || 4 < want || (2 < o && o != 0xFF) || (want == 2 && o != 2 && o != 0xFF) then s.pmRefuse mb 1
  else if (s.opMin < o && o != 0xFF) || (want == 2 && s.opMin != 2) then s.pmRefuse mb 2
  else if o < s.rd F.PM_STAT_OPMAX then s.pmRefuse mb 3
  else if 3 ≤ want && s.on F.GL_STAT_ACT_PEND then s.pmRefuse mb 5
  else if want < 3 then s.pmAccept want mb (if o = 0xFF then s.pm.opReq else o)
  else s.pmRetain want mb (if o = 0xFF then s.pm.opReq else o)

/-! ### Entry to P3 and P4 (R325, R329, Table 14.3) -/

/-- Every press is checked: HOLD reason 2 goes out, and pm.set completes. -/
def Dev.p3Hold (s : Dev) : Dev :=
  if s.pm.p3 != .waiting || !s.slotsOver then s
  else
    let eff := s.holdEff
    let s := (Dev.each (List.range 64) (Dev.holdVat 2 eff) s.useFree).glSync
    let mb := s.pm.mb
    let s := s.setPm (fun p => { p with p3 := .held, holdEff := eff, mb := none })
    match mb with
    | some (m, r) => (s.ok m (s.pmResp r)).pmCheck
    | none => s.pmCheck

/-- Every lane in electrical idle and the report ports disabled, with none of the faults of Table 3.14 or 7.13 (R324), though
DE_STAT.PORTS_DOWN sets once both are down (07 R158) and its event bit stays clear (DESIGN CHOICE, log 106); no sense frame is accepted
any more. -/
def Dev.p3Idle (s : Dev) : Dev :=
  if s.pm.p3 != .held || s.now ≤ s.pm.holdEff then s
  else
    let s := Dev.each (List.range 128) (fun s l =>
      ((s.setLane l 7).modLane l (fun x => { x with trnGood := 0, exch := [], nDelay := 0, dreq := none, locked := false,
                                                    doubt := none, seqRej := 0, fails := [], toffBad := 0, dreqAt := none,
                                                    runLost := false })).send (.electricalIdle l)) s
    let s := Dev.each (List.range 64) (fun s v => s.accZero v) s
    let s := Dev.when ([Port.rpa, Port.rpb].any (fun p => s.on (rpFld p F.RPA_STAT_LINK))) (·.wrB F.DE_STAT_PORTS_DOWN true) s
    let s := Dev.each [Port.rpa, Port.rpb] (fun s p =>
      let s := Dev.when (s.on (rpFld p F.RPA_STAT_LINK)) (·.count (rpFld p F.RPA_LINK_DOWN)) s
      ((s.wrB (rpFld p F.RPA_STAT_LINK) false).wrB (rpFld p F.RPA_STAT_ALIGNED) false).wrB (rpFld p F.RPA_STAT_FEC_LOCK) false) s
    s.standStill.setPm (fun p => { p with p3 := .idle })

/-- The 96-byte payload of a shut-down record (R340); HIST entries that no evaluation gave are free
values; while the core is off the sample index is the one the always-on domain carries. -/
def Dev.shutRecord (s : Dev) (cause refuser : Nat) : Dev × List Byte :=
  let n := if s.unclocked then s.carried else s.now
  let missing := 8 - s.th.hist.length
  let old := (List.range missing).flatMap (fun i => toLe 2 (Config.freeValue (s.freeCtr + i)).toNat)
  let hist := old ++ ((s.th.hist.take 8).reverse).flatMap (fun t => toLe 2 (uns 16 t))
  let s := { s with freeCtr := s.freeCtr + missing }
  (s, toLe 2 cause ++ toLe 1 (s.rd F.PM_STAT_STATE) ++ toLe 1 (s.rd F.PM_STAT_OP) ++ toLe 8 n ++ toLe 4 (s.rd F.TB_UNC) ++
    toLe 1 (s.rd F.TB_STAT_STATE) ++ toLe 1 refuser ++ toLe 2 (s.rd F.TH_STAT_HOTNODE) ++ toLe 2 (s.rd F.TH_TMAX) ++
    toLe 2 (s.rd F.TH_RATE) ++ hist ++ (List.range 16).flatMap (fun c => toLe 2 (s.rd (F.TH_DOM_CURRENT c))) ++
    toLe 2 (s.rd F.PM_AVS_VOUT) ++ toLe 2 (s.rd F.TH_BOARD_TEMP) ++ toLe 4 (s.reg R.FC_FIRST_CODE).toNat ++
    toLe 4 s.nv.aborted ++ zeros 12)

/-- The shut-down record is written to AON retention RAM with PENDING set (09 R235). -/
def Dev.shutAon (s : Dev) (cause refuser : Nat) : Dev :=
  let r := s.shutRecord cause refuser
  ({ r.1 with nv := { r.1.nv with aon := some r.2 } }).wrB F.NV_STAT_AON_PENDING true

/-- The rails are removed: PM_OFF_N and CORE_EN low, state P4, which no wake or entry to P3 leaves (R329, R339). A program or erase of the die is cut short, PPS_OUT is low
(02 R50), the pending buffer is lost (11 R275), the stewards are off with what they held of commands, and counters and selections are
zero (15 R353). -/
def Dev.powerOff (s : Dev) : Dev :=
  let s := (s.coreEn false).drive "PM_OFF_N" false (fun p => { p with offN := false })
  let s := (Dev.when s.tb.ppsOut (·.send (.pin "PPS_OUT" false)) s).nvAbandon
  let s := (s.toState 4).wr F.PM_STAT_REQ 4
  let s := s.setPm (fun p => { p with p3 := .off, wake := .none, mb := none })
  let s := { s with tb := { s.tb with ppsOut := false }, evq := { s.evq with pend := [], pendDrop := 0 }, mbx := [], bm := { s.bm with mem := [] } }
  ((s.wr F.EVQ_PENDING 0).wr F.HIF_ST_STAT_STATE 0).noCounts

/-! ### Wake (R326 to R328) -/

/-- W: CORE_EN high, and the voltage of OP2 is written. -/
def Dev.wakeBegin (attempt : Nat) (s : Dev) : Dev :=
  ((s.coreEn true).send (.avsWrite (s.opv 2))).setPm (fun p => { p with wake := .supply, attempt := attempt, avsTgt := some 2, avsLast := 2 })

/-- The sources of Table 14.4 at a slow tick: pin, report ports and PCIe as seen; lanes with a wake pattern by VL_LCFG.WAKE_EN (03 R79);
the timer by the time the always-on domain carries. -/
def Dev.wakeSeen (s : Dev) (mask lanes : Nat) : Nat :=
  (mask &&& 0b01101) + (if (List.range 128).any (fun l => bit lanes l && s.on (F.VL_LCFG_WAKE_EN l)) then 2 else 0) +
    (if s.rd2 R.PM_WAKE_AT_LO ≤ s.carried then 16 else 0)

/-- Sources seen in P3 at a slow tick: those PM_WAKE_CFG enables start a wake. -/
def Dev.wakeSource (mask lanes ticks : Nat) (s : Dev) : Dev :=
  let t := s.tickTo ticks
  let m := t.wakeSeen mask lanes &&& (s.reg R.PM_WAKE_CFG).toNat % 32
  if s.pm.p3 != .off || s.rd F.PM_STAT_STATE == 4 then s
  else if s.pm.wake != .none || m = 0 then t
  else
    let s := t.wr F.PM_WAKE_STAT_SRCMASK m
    let s := if m = 8 then s else s.drive "PCIE_WAKE_N" false (fun p => { p with wakeN := false })
    s.wakeBegin 1

/-- CORE_PG is high and the voltage confirmed (R322), in a wake or in the bring-up (16 Table 16.7). -/
def Dev.supplyReady (s : Dev) : Dev :=
  if s.pm.wake = .supply ∧ s.pm.avsTgt.isNone then
    { (s.wr F.PM_STAT_VOP 2).setPm (fun p => { p with wake := .clocks }) with pins := { s.pins with corePg := true } }
  else s

/-- The clocks are ready: the core runs at OP2, with the slices of that point (12 R295). A wake goes on to measure the slow clock; after a reset the core is up. -/
def Dev.clocksReady (s : Dev) : Dev :=
  if s.pm.wake = .clocks then
    let s := ((s.opSet 2).slicePause (s.sliceFor 2)).slicesSwitch
    s.setPm (fun p => { p with p3 := if p.p3 = .boot then .none else p.p3, wake := if p.p3 = .boot then .none else .measuring,
                               opTgt := none, avsTgt := none, avsRetry := false, divider := false })
  else s

/-- A step of a wake passes its timeout (R328): a retry, then a wake fault. -/
def Dev.wakeTimeout (ticks : Nat) (s : Dev) : Dev :=
  if s.pm.p3 = .off ∧ (s.pm.wake = .supply ∨ s.pm.wake = .clocks) then
    let s := (s.tickTo ticks).setPm (fun p => { p with avsTgt := none })
    let r := if s.pm.wake = .supply then 6 else 7
    let s := ((s.wr F.PM_WAKE_STAT_REFUSER r).count F.PM_WAKE_FAILS).count (F.PM_REFUSE (r - 1))
    let s := s.coreEn false
    if s.pm.attempt < 2 then
      (((s.raise 0x1303 1 (srcWord 19) r).event F.PM_EVT_WAKE_RETRY).powerEv 5 r).setPm (fun p => { p with wake := .retryWait })
    else
      let s := (s.wrB F.PM_STAT_WAKEFLT true).wr F.PM_WAKE_STAT_RESULT 3
      let s := (s.drive "PM_FAULT_N" false (fun p => { p with faultN := false })).shutAon 4 r
      (((s.raise 0x1304 3 (srcWord 19) r).event F.PM_EVT_WAKE_FAULT).powerEv 6 r).setPm (fun p => { p with wake := .none })
  else s

/-- 10 ms later the wake runs again from W. -/
def Dev.wakeAgain (s : Dev) : Dev := if s.pm.wake = .retryWait then s.wakeBegin 2 else s

/-- The host has cleared PM_EVT.WAKE_FAULT (R328). -/
def Dev.wakeFaultCleared (s : Dev) : Dev :=
  (s.wrB F.PM_STAT_WAKEFLT false).drive "PM_FAULT_N" true (fun p => { p with faultN := true })

/-! ### The commands -/

def execPmSetP0 (mb : BitVec 3) (s : State) : Host.Outcome State Fault Refusal :=
  s.onDev (Dev.ecs mb.toNat 0x0501 (some 0) (Dev.pmSet 0))
def execPmSetP1 (mb : BitVec 3) (s : State) : Host.Outcome State Fault Refusal :=
  s.onDev (Dev.ecs mb.toNat 0x0501 (some 1) (Dev.pmSet 1))
def execPmSetP2 (mb : BitVec 3) (s : State) : Host.Outcome State Fault Refusal :=
  s.onDev (Dev.ecs mb.toNat 0x0501 (some 2) (Dev.pmSet 2))
def execPmSetP3 (mb : BitVec 3) (s : State) : Host.Outcome State Fault Refusal :=
  s.onDev (Dev.ecs mb.toNat 0x0501 (some 3) (Dev.pmSet 3))
def execPmSetP4 (mb : BitVec 3) (s : State) : Host.Outcome State Fault Refusal :=
  s.onDev (Dev.ecs mb.toNat 0x0501 (some 4) (Dev.pmSet 4))
def execAvsPoll (mv : BitVec 10) (s : State) : Host.Outcome State Fault Refusal := s.onDev (Dev.avsPoll mv.toNat)
def execAvsFail (s : State) : Host.Outcome State Fault Refusal := s.onDev Dev.avsFailed
def execAvsRetry (s : State) : Host.Outcome State Fault Refusal := s.onDev Dev.avsAgain
def execAvsAlert (status : Word) (s : State) : Host.Outcome State Fault Refusal := s.onDev (Dev.avsAlerted status.toNat)
def execDividerSwitch (s : State) : Host.Outcome State Fault Refusal := s.onDev Dev.dividerSwitch
def execSliceSwitch (s : State) : Host.Outcome State Fault Refusal := s.onDev Dev.sliceDone
def execP3HoldSend (s : State) : Host.Outcome State Fault Refusal := s.onDev Dev.p3Hold
def execP3ElectricalIdle (s : State) : Host.Outcome State Fault Refusal := s.onDev Dev.p3Idle
def execWakeSource (mask : BitVec 5) (lanes : BitVec 128) (ticks : BitVec 64) (s : State) : Host.Outcome State Fault Refusal :=
  s.onDev (Dev.wakeSource mask.toNat lanes.toNat ticks.toNat)
def execSupplyReady (s : State) : Host.Outcome State Fault Refusal := s.onDev Dev.supplyReady
def execClocksReady (s : State) : Host.Outcome State Fault Refusal := s.onDev Dev.clocksReady
def execWakeStepTimeout (ticks : BitVec 64) (s : State) : Host.Outcome State Fault Refusal := s.onDev (Dev.wakeTimeout ticks.toNat)
def execWakeRetry (s : State) : Host.Outcome State Fault Refusal := s.onDev Dev.wakeAgain

end Sys2Proof.Machine
end

