-- ==== Sys2Proof/Machine/Mailbox.lean ====
section
/-!
DEFINITION. Mailboxes (11 R265 to R269): areas, the doorbell and its checks, the status word, and completion.
-/
namespace Sys2Proof.Machine

/-! ### Areas (R265) -/

def reqArea (i : Nat) : Nat := 0x200000 + 0x2000 * i
def respArea (i : Nat) : Nat := 0x201000 + 0x2000 * i

def State.mapDev (f : Dev → Dev) (s : State) : State := { s with dev := f s.dev }

/-! ### Checks of a request (R267) -/

/-- The privilege a mailbox carries: 2, or 1 from mailbox 4 on. -/
def mbPl (mb : Nat) : Nat := if mb < 4 then 2 else 1

/-- A command of Table 11.4. -/
def ecsKnown (c : Nat) : Bool :=
  [0x0101, 0x0102, 0x0201, 0x0301, 0x0302, 0x0401, 0x0402, 0x0403, 0x0404, 0x0405, 0x0406].contains c ||
  [0x0501, 0x0601, 0x0701, 0x0801, 0x0901, 0x0A01, 0x0B01, 0x0B02, 0x0B03].contains c

/-- The command, or the operation its payload names, needs PL1 (Table 11.4; 14 R318, 10 R259, 09 R236). -/
def ecsNeedsPl1 (m : Mbx) : Bool :=
  match m.cmd with
  | 0x0301 => true
  | 0x0401 => true
  | 0x0402 => true
  | 0x0403 => true
  | 0x0404 => true
  | 0x0405 => true
  | 0x0501 => m.fld 0 1 == 3 || m.fld 0 1 == 4
  | 0x0601 => decide (1 ≤ m.fld 0 1) && decide (m.fld 0 1 ≤ 3)
  | 0x0701 => (m.fld 0 1 == 2 || m.fld 0 1 == 3) && m.fld 2 2 == 0x30
  | 0x0B02 => true
  | _ => false

/-- LEN is one the command defines (Table 11.7). -/
def ecsLenOk (m : Mbx) : Bool :=
  match m.cmd with
  | 0x0101 => m.len == 16
  | 0x0102 => m.len == 16
  | 0x0201 => (match m.fld 0 1 with
    | 0 => m.len == 16
    | 1 => m.len == 4
    | 2 => m.len == 520
    | _ => m.len == 16 || m.len == 4 || m.len == 520)
  | 0x0301 => m.len == 88
  | 0x0302 => m.len == 6
  | 0x0401 => m.len == 20
  | 0x0402 => m.len == 564
  | 0x0403 => m.len == 1
  | 0x0404 => m.len == 152
  | 0x0405 => m.len == 1
  | 0x0406 => m.len == 80
  | 0x0501 => m.len == 2
  | 0x0601 => m.len == 2
  | 0x0701 => m.len == 28
  | 0x0801 => m.len == 0
  | 0x0901 => m.len == 136
  | 0x0A01 => m.len == 16
  | 0x0B01 => m.len == 0
  | 0x0B02 => m.len == 20
  | 0x0B03 => m.len == 16
  | _ => false

/-- Payload bytes that Table 11.7 does not list, as (first, count). Fields that an operation does not use stay listed. -/
def ecsUnlisted (cmd : Nat) : List (Nat × Nat) :=
  match cmd with
  | 0x0101 => [(1, 3)]
  | 0x0102 => [(1, 7)]
  | 0x0201 => [(1, 1), (4, 4)]
  | 0x0301 => [(3, 1)]
  | 0x0401 => [(5, 1), (10, 2)]
  | 0x0402 => [(15, 1)]
  | 0x0404 => [(21, 3)]
  | 0x0406 => (List.range 16).map (fun q => (17 + 4 * q, 1))
  | 0x0701 => [(1, 1)]
  | 0x0901 => [(1, 1)]
  | 0x0B02 => [(1, 7)]
  | 0x0B03 => [(1, 7)]
  | _ => []

/-- The highest OP (or SRC, KIND, RAISE) that byte 0 may hold, and the lowest. -/
def ecsOps (cmd : Nat) : Nat × Nat :=
  match cmd with
  | 0x0101 => (0, 1)
  | 0x0102 => (0, 1)
  | 0x0201 => (0, 2)
  | 0x0301 => (0, 2)
  | 0x0401 => (1, 4)
  | 0x0601 => (0, 3)
  | 0x0701 => (0, 3)
  | 0x0901 => (0, 2)
  | 0x0A01 => (0, 2)
  | 0x0B02 => (0, 1)
  | 0x0B03 => (0, 1)
  | _ => (0, 255)

/-- An address that the command reads from host memory, at a payload offset: aligned to 64 bytes (R270). -/
def ecsAddr (m : Mbx) : Option Nat :=
  match m.cmd with
  | 0x0101 => if m.fld 0 1 = 0 then some 8 else none
  | 0x0201 => if m.fld 0 1 = 0 then some 8 else none
  | 0x0B02 => some 8
  | _ => none

/-- The lowest payload offset that is out of range in what every command shares; the others each command checks. -/
def ecsRange (m : Mbx) : Option Nat :=
  let op := m.fld 0 1
  let bad := (if op < (ecsOps m.cmd).1 ∨ (ecsOps m.cmd).2 < op then [0] else []) ++
    ((ecsUnlisted m.cmd).filter (fun x => decide (x.1 < m.len) && m.fld x.1 x.2 != 0)).map (·.1) ++
    (if m.cmd = 0x0201 ∧ op < 2 ∧ 4096 ≤ m.fld 2 2 then [2] else []) ++
    (match ecsAddr m with
      | some o => if m.fld o 8 % 64 ≠ 0 then [o] else []
      | none => [])
  bad.foldl (fun a o => match a with
    | some x => some (min x o)
    | none => some o) none

/-- The first of R267's checks that fails: STATUS and DETAIL2. -/
def ecsCheck (mb : Nat) (m : Mbx) : Option (Nat × Nat) :=
  if !ecsKnown m.cmd then some (4, 0xFFFFFFFF)
  else if ecsNeedsPl1 m ∧ mbPl mb = 2 then some (3, 0xFFFFFFFF)
  else if !ecsLenOk m then some (5, 0xFFFFFFFF)
  else (ecsRange m).map (fun o => (6, o))

/-! ### Doorbell -/

/-- plan.load, plan.activate and form.write exclude one another (R269). -/
def exclusive (cmd : Nat) : Bool := cmd == 0x0101 || cmd == 0x0102 || cmd == 0x0201

/-- One of them is in progress. -/
def Dev.exclusiveOn (s : Dev) : Bool :=
  s.mbx.any (fun x => exclusive x.2.cmd && x.2.ready.isNone && !x.2.conflict && (decide (8 ≤ x.1) || s.rd (F.MB_STAT_STATE x.1) == 1))

/-- What follows an accepted doorbell: NOST, a failed check, a state that pm.set does not know, or the request waits. -/
def Dev.mbAccept (mb : Nat) (req : List Byte) (s : Dev) : Dev :=
  let cmd := leAt req 0 2
  let s := s.bmWipe 7
  let m : Mbx := { from_ := mb, bell := s.hif.bells, cmd := cmd, len := leAt req 4 2, req := req, conflict := exclusive cmd && s.exclusiveOn }
  let s := ((s.wr (F.MB_STAT_TAG mb) (leAt req 2 2)).wr (F.MB_STAT_STATE mb) 1).wrB (F.MB_STAT_REFUSED mb) false
  let s := { s with mbx := s.mbx.set mb m, hif := { s.hif with bells := s.hif.bells + 1 } }
  if s.rd F.HIF_ST_STAT_STATE ≠ 2 then s.finish mb 8 0 0xFFFFFFFF []
  else
    match ecsCheck mb m with
    | some (st, d2) => s.finish mb st 0 d2 []
    | none => if cmd = 0x0501 ∧ 4 < m.fld 0 1 then s.pmRefuse mb 1 else s

/-! ### Completion (R268) -/

/-- A MAILBOX record (Table 11.10). -/
def Dev.mbEvent (mb status detail : Nat) (s : Dev) : Dev :=
  s.emit { ty := 2, code := BitVec.ofNat 32 mb, src := srcWord 1,
           data := toLe 2 (s.rd (F.MB_STAT_TAG mb)) ++ [BitVec.ofNat 8 status, 0] ++ toLe 4 detail }

/-- The mailbox is DONE: counted, its MSI-X vector fires, its record is sent. -/
def Dev.mbDone (mb status detail : Nat) (s : Dev) : Dev :=
  let s := ({ s with mbx := s.mbx.set mb {} }).wr (F.MB_STAT_STATE mb) 2
  let s := s.count (F.MB_CMDS mb)
  let s := Dev.when (s.on (F.MB_CFG_MSI_EN mb)) (·.msix (24 + mb)) s
  Dev.when (s.on (F.MB_CFG_EVT_EN mb)) (Dev.mbEvent mb status detail) s

/-- The 16 bytes of a response header (Table 11.3). -/
def respHeader (status tag len detail detail2 : Nat) : List Byte :=
  [BitVec.ofNat 8 status, 0] ++ toLe 2 tag ++ toLe 2 len ++ zeros 2 ++ toLe 4 detail ++ toLe 4 detail2

/-- A response is written whole, and the mailbox is DONE. -/
def State.respond (mb status detail detail2 : Nat) (pl : List Byte) (s : State) : State :=
  let h := respHeader status (s.dev.rd (F.MB_STAT_TAG mb)) pl.length detail detail2
  { s with mem := Memory.writeBytes s.mem (respArea mb) (h ++ pl), dev := s.dev.mbDone mb status detail }

/-- The stewards, or HIF at once, finish the command of a BUSY mailbox whose response is known. -/
def State.complete (mb : Nat) (s : State) : State :=
  if s.dev.rd (F.MB_STAT_STATE mb) = 1 then
    match (s.dev.mbx.get mb).ready with
    | some (st, d, d2, pl) => s.respond mb st d d2 pl
    | none => s
  else s

/-- A doorbell of mailbox mb rings (R267). NOST completes at once. -/
def State.ring (mb : Nat) (s : State) : State :=
  if s.dev.rd (F.MB_STAT_STATE mb) = 1 then s.mapDev (·.wrB (F.MB_STAT_REFUSED mb) true)
  else
    let req := Memory.readBytes s.mem (reqArea mb) 4096
    let off := s.dev.rd F.HIF_ST_STAT_STATE != 2
    let s := { s with mem := Memory.clear s.mem (respArea mb) 4096, dev := s.dev.mbAccept mb req }
    if off then s.complete mb else s

/-- A doorbell written through an aperture: mailboxes 4 to 7 need PL1 (R265). -/
def State.doorbell (via : Via) (mb : Nat) (s : State) : State :=
  let off := R.MB_DB mb
  let need := mbPl mb
  if s.dev.viaShut via off true ∨ s.dev.svcShut via off ∨ need < viaPl via then s.mapDev (Dev.writeAs via off need id)
  else (s.mapDev (Dev.t6 via off true)).ring mb

/-! ### The status word (R268) -/

/-- A read of mailbox mb's status word: the word read, and what the read leaves. -/
def State.statusRead (via : Via) (mb : Nat) (s : State) : Word × State :=
  let tag := s.dev.rd (F.MB_STAT_TAG mb) * 65536
  let a := respArea mb
  if via = .operator ∧ 4 ≤ mb then (0, s)
  else
    match s.dev.rd (F.MB_STAT_STATE mb) with
    | 1 => (BitVec.ofNat 32 (tag + 1), s)
    | 2 =>
      let r := satAdd 16 (leNat (Memory.readBytes s.mem (a + 6) 2)) 1
      let rep : Byte := if 1 < r then 1 else 0
      let mem := Memory.writeBytes (Memory.writeBytes s.mem (a + 1) [rep]) (a + 6) (toLe 2 r)
      (BitVec.ofNat 32 (leNat (Memory.readBytes mem a 4)), { s with mem := mem })
    | _ => (BitVec.ofNat 32 (tag + 9), s)

/-- A region that needs a better privilege than its reader has: the areas of mailboxes 4 to 7 answer the debug port PRIV (11 R265, 12
R287); through the operator aperture they read 0. -/
def readRefused (via : Via) (off : Nat) : Bool := via == .debug && decide (0x208000 ≤ off) && decide (off < 0x210000)

/-- A read of one word at T6 with the word sent to the reader, when it is granted; a stalled T6 gives TOUT. -/
def State.readBy (via : Via) (off : Nat) (f : State → Word × State) (s : State) : State :=
  if s.dev.viaOut via then s
  else if s.dev.t6Stalled then s.mapDev (Dev.stallError via off false)
  else if !s.dev.t6Wins via off false then s
  else if readRefused via off then s.mapDev (fun d => (d.t6 via off false).privError via off false)
  else
    let r := f (s.mapDev (fun d => (d.settleFor off).t6 via off false))
    r.2.mapDev (·.send (.readData off r.1))

/-- The same, as the read of a word. -/
def State.statusWord (via : Via) (mb : Nat) (s : State) : State := s.readBy via (respArea mb) (State.statusRead via mb)

/-! ### The commands -/

def execDoorbell (via : Via) (mb : BitVec 3) (s : State) : Host.Outcome State Fault Refusal :=
  s.onAll (State.doorbell via mb.toNat)

def execStatusWordRead (via : Via) (mb : BitVec 3) (s : State) : Host.Outcome State Fault Refusal :=
  s.onAll (State.statusWord via mb.toNat)

def execMailboxCompletion (mb : BitVec 3) (s : State) : Host.Outcome State Fault Refusal := s.onAll (State.complete mb.toNat)

end Sys2Proof.Machine
end

