-- ==== Sys2Proof/Machine/Th.lean ====
section
/-!
DEFINITION. The thermal model (14 R332 to R335), its conditions (R336, R337) and their actions (R338, R339). Node
temperatures are held in 2^-16 degrees and reported in 1/128 degree.
-/
namespace Sys2Proof.Machine

/-- A quotient: exact where it is whole, else brought to the resolution in a way the spec does not state (log 9). -/
def thQuot (x : Int) (d : Nat) : Int := if d ≠ 0 ∧ x % d = 0 then x / d else Config.thRound x d

/-- A temperature in its s32; the spec states nothing past it. -/
def thS32 (t : Int) : Int := if -(2 ^ 31) ≤ t ∧ t < 2 ^ 31 then t else sgn 32 (uns 32 (Config.thRound t 0))

/-- Temperature of a node. -/
def Dev.node (s : Dev) (i : Nat) : Int := (s.th.node.look i).getD (45 * 65536)

def Dev.setNode (s : Dev) (i : Nat) (t : Int) : Dev := { s with th := { s.th with node := s.th.node.put (45 * 65536) i (thS32 t) } }

/-- The reported value of a node. -/
def Dev.nodeOut (s : Dev) (i : Nat) : Int := thQuot (s.node i) 512

/-- Substitute power of a channel in 10 mW (Table 14.15). -/
def thSubst (c : Nat) : Nat := [1640, 1640, 2400, 960, 700, 700, 650, 480, 300, 200, 110, 400, 160, 140, 480, 40].getD c 0

/-- A THERMAL record (R342). -/
def Dev.thermalEv (s : Dev) (code : Nat) : Dev :=
  s.emit { ty := 5, code := BitVec.ofNat 32 code, src := srcWord 20,
           data := toLe 2 (s.rd F.TH_STAT_HOTNODE) ++ toLe 2 (s.rd F.TH_TMAX) ++ toLe 2 (s.rd F.TH_RATE) ++
             toLe 1 (s.reg R.TH_STAT).toNat }

/-! ### The model (R332, R333) -/

/-- The core is off: channels other than 10 count as 0, and a step is 1 ms (R332). -/
def Dev.coreOff (s : Dev) : Bool := s.pm.p3 == .off

/-- A channel's voltage in mV: AON, VDD_IO, VDDH_LNK and the NV die stand at their rails' nominal voltages (16 Table 16.5); of the
others, those on VDD_CORE at the last AVSBus read (R332), the rest at a rail the spec does not name (log 9). -/
def Dev.thVolt (s : Dev) (c : Nat) : Nat :=
  match c with
  | 10 => 750
  | 13 => 1800
  | 14 => 1200
  | 15 => 1800
  | _ => if Config.thOnCore c then s.rd F.PM_AVS_VOUT else Config.thRail c

/-- The power of a channel in 10 mW from its current in 10 mA (R332); past the register the spec states nothing. -/
def Dev.thPow (s : Dev) (c : Nat) : Nat :=
  let p := thQuot (s.thVolt c * s.rd (F.TH_DOM_CURRENT c) : Nat) 1000
  if 0 ≤ p ∧ p < 65536 then p.toNat else uns 16 (Config.thRound p 0)

/-- One channel's sample: 16 in a row at full scale or below the zero code raise SENSE_FAIL, and its domain is substituted from then on
(R333). Current from raw code, zero code and gain; a channel that an ISENSE run has switched away keeps its last one (09 R217). -/
def Dev.senseIn (ch : List Sense) (s : Dev) (c : Nat) : Dev :=
  let x := ch.getD c ⟨0, false, false⟩
  let cal := s.cal.isense.get c
  if s.coreOff && c != 10 then s.wr (F.TH_DOM_CURRENT c) 0 |>.wr (F.TH_DOM_POWER c) 0
  else
    let s :=
      if x.away && s.runOn 130 then s
      else
        let n := if x.full || decide (x.code.toNat < cal.1.toNat) then min 16 (s.th.full.get c + 1) else 0
        let s := { s with th := { s.th with full := s.th.full.set c n } }
        let s := if n = 16 ∧ !s.th.sub.contains c then
            ((({ s with th := { s.th with sub := s.th.sub ++ [c] } }).wrB F.TH_STAT_SENSE_SUB true).event F.TH_EVT_SENSE_FAIL).raise
              0x1405 1 (srcWord 20) c
          else s
        s.wr (F.TH_DOM_CURRENT c) (Config.senseCurrent x.code cal.1 cal.2).toNat
    s.wr (F.TH_DOM_POWER c) (if s.th.sub.contains c then (if s.coreOff then 375 else thSubst c) else s.thPow c)

/-- G between two nodes, 2^-16 W/K: between 46 and 47 it is 1 / TH_RSINK. -/
def Dev.thCond (s : Dev) (i j : Nat) : Int :=
  if (i = 46 ∧ j = 47) ∨ (i = 47 ∧ j = 46) then thQuot (2 ^ 24) (s.rd F.TH_RSINK) else Config.thG i j

/-- One node's step of R332, node by node in the order the rule gives. -/
def Dev.nodeStep (s : Dev) (i : Nat) : Dev :=
  let q := (List.range 16).foldl (fun a d => a + Config.thW i d * (s.rd (F.TH_DOM_POWER d) : Int)) 0
  let f := (List.range 48).foldl (fun a j => a + s.thCond i j * (s.node i - s.node j)) 0
  let dt : Int := if s.coreOff then 10 else 1
  s.setNode i (s.node i + thQuot (dt * Config.thInvC i * (q * 65536 - 100 * f)) (100 * 2 ^ 48))

/-- Node 47: TH_BOARD + TH_FIT_OFS. -/
def Dev.boundaryNode (s : Dev) : Dev := s.setNode 47 (512 * (s.th.board.toInt + sgn 16 (s.rd F.TH_FIT_OFS)))

/-- TH_NODE, TH_TMAX and HOTNODE follow the nodes. -/
def Dev.thReport (s : Dev) : Dev :=
  let s := Dev.each (List.range 48) (fun s i => s.wr (F.TH_NODE i) (uns 16 (s.nodeOut i))) s
  let hot := (List.range 41).foldl (fun a i => if s.node a < s.node i then i else a) 0
  (s.wr F.TH_STAT_HOTNODE hot).wr F.TH_TMAX (uns 16 (s.nodeOut hot))

/-- A step of the model. -/
def Dev.thStep (ch : List Sense) (ticks : Nat) (s : Dev) : Dev :=
  if s.rd F.PM_STAT_STATE = 4 then s
  else
    let s := Dev.when s.coreOff (Dev.tickTo ticks) s
    let s := Dev.each (List.range 16) (Dev.senseIn ch) s
    (Dev.each (List.range 47) Dev.nodeStep s).boundaryNode.thReport

/-! ### Conditions (R336, R337) -/

/-- THROT_STEP (R338): one point slower, at the plan's OPMIN F_TH; after THROT, one point faster. -/
def Dev.throtStep (s : Dev) : Dev :=
  let m := s.rd F.PM_STAT_OPMAX
  if s.on F.TH_STAT_THROT then
    if m < s.opMin then (s.wr F.PM_STAT_OPMAX (m + 1)).pmStep else (s.wrB F.PM_STAT_F_TH true).pmCheck
  else if 0 < m then (s.wr F.PM_STAT_OPMAX (m - 1)).pmStep
  else s

def Dev.setTh (f : Th → Th) (s : Dev) : Dev := { s with th := f s.th }

/-- TRIP enters (R339), left microseconds before the NV die's program in progress would end (09 R235): the line, and but in P3 the
shut-down record and the NV controller's part; in P3 power goes off. -/
def Dev.tripIn (byRate : Bool) (left : Nat) (s : Dev) : Dev :=
  let s := ((s.wrB F.TH_STAT_TRIP true).event F.TH_EVT_TRIP).setTh (fun t => { t with tripRate := byRate })
  let hot := 65536 * s.rd F.TH_STAT_HOTNODE
  let s := if byRate then s.raise 0x1403 3 (srcWord 20) (hot + s.rd F.TH_RATE)
    else s.raise 0x1404 3 (srcWord 20) (hot + s.rd F.TH_TMAX)
  let s := s.thermalEv 5
  if s.coreOff then s.powerOff else (s.nvTrip left).shutAon (if byRate then 1 else 2) 0

/-- THROT enters. -/
def Dev.throtIn (byRate : Bool) (s : Dev) : Dev :=
  let s := ((s.wrB F.TH_STAT_THROT true).wrB F.TH_STAT_THROT_ABS (!byRate)).event F.TH_EVT_THROT_ON
  let v := if byRate then s.rd F.TH_RATE else s.rd F.TH_TMAX
  ((s.raise 0x1402 1 (srcWord 20) (65536 * s.rd F.TH_STAT_HOTNODE + v)).thermalEv 3).throtStep

/-- THROT leaves: F_TH clears first. -/
def Dev.throtOut (s : Dev) : Dev :=
  let s := ((s.wrB F.TH_STAT_THROT false).wrB F.TH_STAT_THROT_ABS false).event F.TH_EVT_THROT_OFF
  ((s.wrB F.PM_STAT_F_TH false).thermalEv 4).pmCheck

def Dev.warnIn (s : Dev) : Dev :=
  let s := (s.wrB F.TH_STAT_WARN true).event F.TH_EVT_WARN_ON
  (s.raise 0x1401 0 (srcWord 20) (65536 * s.rd F.TH_STAT_HOTNODE + s.rd F.TH_RATE)).thermalEv 1

def Dev.warnOut (s : Dev) : Dev := ((s.wrB F.TH_STAT_WARN false).event F.TH_EVT_WARN_OFF).thermalEv 2

/-- A count of consecutive evaluations. -/
def run8 (test : Bool) (n : Nat) : Nat := if test then n + 1 else 0

/-- TH_RATE of this evaluation (R336); with fewer than WIN evaluations behind it, or outside s16, the spec states none. -/
def Dev.thRate (s : Dev) : Dev :=
  let w := s.rd F.TH_CFG_WIN
  let now := sgn 16 (s.rd F.TH_TMAX)
  let s' := s.useFree.wr F.TH_RATE s.free.toNat
  let s' := match s.th.hist[w - 1]? with
    | some t =>
      let r := divRne ((now - t) * 125) w
      if -32768 ≤ r ∧ r < 32768 then s.wr F.TH_RATE (uns 16 r) else s'
    | none => s'
  s'.setTh (fun t => { t with hist := (now :: t.hist).take 255 })

/-- The evaluation of R336 and R337. A rate test counts as false while rate tests are off, that of a leave test too. -/
def Dev.thEval (left ticks : Nat) (s : Dev) : Dev :=
  if s.rd F.PM_STAT_STATE = 4 then s
  else
    let s := (Dev.when s.coreOff (Dev.tickTo ticks) s).thRate
    let g (f : Fld) : Int := sgn 16 (s.rd f)
    let rate := g F.TH_RATE
    let tmax := g F.TH_TMAX
    let on := s.on F.TH_STAT_RATE_ARMED && s.on F.TH_CFG_RATE_EN && decide (g F.TH_FLOOR ≤ tmax)
    let rh : Int := s.rd F.TH_RHYST
    let ah : Int := s.rd F.TH_AHYST
    let wUp := on && decide (g F.TH_RWARN ≤ rate)
    let wDn := on && decide (rate < g F.TH_RWARN - rh)
    let tRate := on && decide (g F.TH_RTHROT ≤ rate)
    let tUp := tRate || decide (g F.TH_ATHROT ≤ tmax)
    let tDn := on && decide (rate < g F.TH_RTHROT - rh) && decide (tmax < g F.TH_ATHROT - ah)
    let xRate := on && decide (g F.TH_RTRIP ≤ rate)
    let xUp := xRate || decide (g F.TH_ATRIP ≤ tmax)
    let s := if s.on F.TH_STAT_WARN then
        let n := run8 wDn s.th.wOut
        if n < 8 then s.setTh (fun t => { t with wOut := n }) else (s.setTh (fun t => { t with wOut := 0, wIn := 0 })).warnOut
      else
        let n := run8 wUp s.th.wIn
        if n < 8 then s.setTh (fun t => { t with wIn := n }) else (s.setTh (fun t => { t with wOut := 0, wIn := 0 })).warnIn
    let s := if s.on F.TH_STAT_THROT then
        let n := run8 tDn s.th.tOut
        if n < 8 then s.setTh (fun t => { t with tOut := n }) else (s.setTh (fun t => { t with tOut := 0, tIn := 0 })).throtOut
      else
        let n := run8 tUp s.th.tIn
        if n < 8 then s.setTh (fun t => { t with tIn := n }) else (s.setTh (fun t => { t with tOut := 0, tIn := 0 })).throtIn tRate
    if s.on F.TH_STAT_TRIP then s
    else
      let n := run8 xUp s.th.rIn
      if n < 8 then s.setTh (fun t => { t with rIn := n }) else (s.setTh (fun t => { t with rIn := 0 })).tripIn xRate left

/-- The code of the trip latched: TRIP_RATE or TRIP_ABS. -/
def Dev.tripCode (s : Dev) : Nat := if s.th.tripRate then 0x1403 else 0x1404

/-- Trip + 2.0 ms: PM asks for HOLD, for the cause of the trip (R339, 13 R309). -/
def Dev.tripHold (s : Dev) : Dev :=
  if s.on F.TH_STAT_TRIP && s.rd F.PM_STAT_STATE != 4 then
    s.safeEnter true false ⟨BitVec.ofNat 16 s.tripCode, 3, srcWord 20, 0, true⟩
  else s

/-- Trip + 2.5 ms: the rails go. -/
def Dev.tripOff (s : Dev) : Dev := if s.on F.TH_STAT_TRIP && s.rd F.PM_STAT_STATE != 4 then s.powerOff else s

/-! ### Starts, the board temperature and the fit (R334, R335) -/

/-- Every node starts at TH_BOARD; both intervals start over. -/
def Dev.thStart (s : Dev) : Dev :=
  let t : Int := 512 * s.th.board.toInt
  let s := Dev.each (List.range 48) (fun s i => s.setNode i t) s
  ((s.wrB F.TH_STAT_NCONV true).wrB F.TH_STAT_RATE_ARMED false).thReport

/-- TH_BOARD has been written with a word. -/
def Dev.thBoardWritten (v : Nat) (s : Dev) : Dev :=
  if bit v 16 then
    let s := (s.setTh (fun t => { t with board := BitVec.ofNat 16 v })).wrB F.TH_STAT_BOARD_VALID true
    if s.on F.TH_STAT_NCONV then s.thStart else s.boundaryNode.thReport
  else s

/-- 2 s after the last start. -/
def Dev.thConverged (s : Dev) : Dev :=
  if s.on F.TH_STAT_NCONV then ((s.wrB F.TH_STAT_NCONV false).event F.TH_EVT_CONVERGED).thermalEv 6 else s

/-- 256 ms after that. -/
def Dev.thArmed (s : Dev) : Dev :=
  if s.on F.TH_STAT_NCONV || s.on F.TH_STAT_RATE_ARMED then s
  else ((s.wrB F.TH_STAT_RATE_ARMED true).event F.TH_EVT_ARMED).thermalEv 7

/-- TH_FIT_CTL has been written with a word: RUN starts a fit, or is refused. -/
def Dev.thFitRun (v : Nat) (s : Dev) : Dev :=
  if bit v 0 && !s.th.fitOn && decide (s.rd F.PM_STAT_STATE < 2) && !s.on F.TH_STAT_NCONV then
    s.setTh (fun t => { t with fitOn := true, fitStore := bit v 1, fitChg := false })
  else s

/-- The second reading of a fit; readings in 1/128 degree. -/
def Dev.fitDone (r1 r2 : Int) (s : Dev) : Dev :=
  if !s.th.fitOn then s
  else
    let changed := s.th.fitChg
    let store := s.th.fitStore
    let s := (s.setTh (fun t => { t with fitOn := false, fitStore := false, fitChg := false })).wr F.TH_REFJ (uns 16 r2)
    let s := if changed ∨ 32 < (r1 - r2).natAbs then s.wr F.TH_STAT_FIT 2
      else
        let o := divRne (512 * r2 - s.node 21) 512 + sgn 16 (s.rd F.TH_FIT_OFS)
        let s := if -32768 ≤ o ∧ o < 32768 then s.wr F.TH_FIT_OFS (uns 16 o) else s.useFree.wr F.TH_FIT_OFS s.free.toNat
        let s := s.wr F.TH_STAT_FIT 1
        if store then
          s.nvQueue { ty := 0x0013, payload := Config.thFitBytes (BitVec.ofNat 16 (s.rd F.TH_FIT_OFS))
                        (BitVec.ofNat 16 (s.rd F.TH_RSINK)) r1 r2 }
        else s
    (s.event F.TH_EVT_FIT_DONE).thermalEv 8

/-! ### The commands -/

def execThModelStep (ch : List Sense) (ticks : BitVec 64) (s : State) : Host.Outcome State Fault Refusal :=
  s.onDev (Dev.thStep ch ticks.toNat)
def execThEvaluate (left : BitVec 32) (ticks : BitVec 64) (s : State) : Host.Outcome State Fault Refusal :=
  s.onDev (Dev.thEval left.toNat ticks.toNat)
def execThrotStep (s : State) : Host.Outcome State Fault Refusal := s.onDev Dev.throtStep
def execTripHold (s : State) : Host.Outcome State Fault Refusal := s.onDev Dev.tripHold
def execTripOff (s : State) : Host.Outcome State Fault Refusal := s.onDev Dev.tripOff
def execConverged (s : State) : Host.Outcome State Fault Refusal := s.onDev Dev.thConverged
def execRateArmed (s : State) : Host.Outcome State Fault Refusal := s.onDev Dev.thArmed
def execFitDone (r1 r2 : Int) (s : State) : Host.Outcome State Fault Refusal := s.onDev (Dev.fitDone r1 r2)

end Sys2Proof.Machine
end

