-- ==== Sys2Proof/Machine/Boot.lean ====
section
/-!
DEFINITION. The stewards: verification and choice of the firmware image (11 R279, R280), the steps of a cold boot (16 R363),
READY, restarts, watchdog and lock-up (11 R283, 13 R299), and the commands fw.write, sys.info and sys.hold (11 R269, R281,
R282).
-/
namespace Sys2Proof.Machine

/-! ### Firmware images (R279) -/

/-- The rollback counter in the fuses. -/
def Dev.fusedRollback (s : Dev) : Nat := (s.nv.fuseRb.getD Config.fuseRollback).toNat

/-- The header of the image in region A or B. -/
def Dev.fwHeader (s : Dev) (b : Bool) : List Byte := s.nvSpan (if b then 512 else 0) 512

/-- ROLLBACK of an image. -/
def Dev.fwRollback (s : Dev) (b : Bool) : Nat := leAt (s.fwHeader b) 8 4

/-- The image verifies: key, signature over bytes 0 to 63, digest of a body that fits its region, ROLLBACK. -/
def Dev.fwOk (s : Dev) (b : Bool) : Bool :=
  let h := s.fwHeader b
  let len := leAt h 12 4
  let key := (h.drop 64).take 97
  decide (len ≤ 0x200000 - 512) && Config.sha384 key == Config.fuseKeyDigest &&
    Config.ecdsaP384 key (h.take 64) ((h.drop 192).take 96) &&
    Config.sha384 ((s.nvSpan (if b then 512 else 0) (512 + len)).drop 512) == (h.drop 16).take 48 &&
    decide (s.fusedRollback ≤ s.fwRollback b)

/-- The verifying image of higher VERSION; ties go to A (R280). -/
def Dev.fwPick (s : Dev) : Option Bool :=
  let ver (b : Bool) : Nat := leAt (s.fwHeader b) 4 4
  match s.fwOk false, s.fwOk true with
  | false, false => none
  | true, false => some false
  | false, true => some true
  | true, true => some (decide (ver false < ver true))

/-! ### HIF_ST_STAT -/

/-- STATE changes: MSI-X vector 32 fires (R278). -/
def Dev.stTo (st : Nat) (s : Dev) : Dev :=
  if s.rd F.HIF_ST_STAT_STATE = st then s else (s.wr F.HIF_ST_STAT_STATE st).msix 32

/-- The stewards halt (14 R325); a write that still runs is abandoned. On the way to P4 they first write the record HOST_OFF. What
their SRAM held of commands is lost (14 R324). After a thermal trip a program runs to its end and nothing is written to the die (09
R235), and the rails go at the trip's own instant (R339). -/
def Dev.p3Halt (s : Dev) : Dev :=
  if s.pm.p3 != .linkDown then s
  else
    let off := s.pm.p4 && !s.nv.tripped
    let s := Dev.when (!s.nv.tripped) Dev.nvAbandon s
    let s := ({ s with nv := { s.nv with queue := [] }, mbx := [] }).nvDepth
    let s := if off then
        let r := s.shutRecord 3 0
        r.1.nvWriteNow 0x0020 r.1.nextShut r.2
      else s
    let s := s.stTo 0
    if off then s.powerOff else s.setPm (fun p => { p with p3 := .halted })

/-! ### Cold boot (16 R363) -/

/-- A record that is missing: its registers keep their reset values, and the LOST line is raised, which the recovery raises
for a slot that is not blank. -/
def Dev.bootLost (o : Nat) (s : Dev) : Dev :=
  if s.nvBlank o false && s.nvBlank o true then (s.event F.NV_EVT_LOST).nvLine 0x1002 1 (slotType o) else s

/-- What a boot does with a record. -/
def Dev.bootLoad (o : Nat) (f : List Byte → Dev → Dev) (s : Dev) : Dev :=
  match s.nvWin o with
  | some c => f c.payload s
  | none => if o = identSlot then s else s.bootLost o

/-- IDENT: service code, report-port addresses, serial number. -/
def Dev.bootIdent (l : List Byte) (s : Dev) : Dev :=
  let s := { s with hif := { s.hif with code := Config.identServiceCode l, codeLoaded := true, serial := Config.identSerial l } }
  Dev.each [Port.rpa, .rpb] (fun s p =>
    let a := (Config.identMac (p == .rpb) l).toNat
    (s.wr (rpFld p F.RPA_MAC_LO) a).wr (rpFld p F.RPA_MAC_HI) (a / 2 ^ 32)) s

/-- CAL_ISENSE: zero code and gain of the 16 channels. -/
def Dev.bootIsense (l : List Byte) (s : Dev) : Dev :=
  let t : Tbl (BitVec 16 × BitVec 16) := (List.range 16).foldl (fun t c => Tbl.set t c (Config.calIsenseField c l)) []
  { s with cal := { s.cal with isense := t } }

/-- TH_FIT: TH_FIT_OFS and TH_RSINK. -/
def Dev.bootFit (l : List Byte) (s : Dev) : Dev :=
  (s.wr F.TH_FIT_OFS (Config.thFitField false l).toNat).wr F.TH_RSINK (Config.thFitField true l).toNat

/-- CAL_TS: lane and port latencies, and VL_LASYM. -/
def Dev.bootTs (l : List Byte) (s : Dev) : Dev :=
  let v (kind i : Nat) : Nat := (Config.calTsField kind i l).toNat
  let s := Dev.each (List.range 128) (fun s i =>
    ((s.wr (F.CAL_LTXLAT i) (v 0 i)).wr (F.CAL_LRXLAT i) (v 1 i)).wr (F.VL_LASYM i) (v 2 i)) s
  (((s.wr F.CAL_RPA_TXLAT (v 3 0)).wr F.CAL_RPA_RXLAT (v 4 0)).wr F.CAL_RPB_TXLAT (v 3 1)).wr F.CAL_RPB_RXLAT (v 4 1)

/-- CAL_LANE: CAL_LRX0 and CAL_LRX1 of each lane. -/
def Dev.bootLanes (l : List Byte) (s : Dev) : Dev :=
  Dev.each (List.range 128) (fun s i =>
    (s.setReg (R.CAL_LRX0 i) (BitVec.ofNat 32 (leAt l (8 * i) 4 &&& 0x3F3F))).setReg (R.CAL_LRX1 i)
      (BitVec.ofNat 32 (leAt l (8 * i + 4) 4 &&& 0x3F3F3F3F))) s

/-- Steps 2 to 5: records into registers, then the core is raised; the gate opens when that has ended. -/
def Dev.bootCold (s : Dev) : Dev :=
  let s := (s.bootLoad identSlot Dev.bootIdent).bootLoad 2 Dev.bootIsense
  let s := ((s.bootLoad 3 Dev.bootFit).bootLoad 1 Dev.bootTs).bootLoad 0 Dev.bootLanes
  let s := { s with st := { s.st with raising := true } }
  (s.setPm (fun p => { p with opReq := 0 })).pmStep

/-- A steward start (R280): from OFF, or after a restart. With the boot gate closed it is a cold boot. -/
def Dev.stewardStart (s : Dev) : Dev :=
  let st := s.rd F.HIF_ST_STAT_STATE
  if !s.coreUp || !(st == 0 || (st == 1 && !s.st.booted)) then s
  else
    match s.fwPick with
    | none => ((s.stTo 3).event F.HIF_EVT_BOOT_FAIL).stewardMsg 5
    | some b =>
      let warm := s.vl.gate || st == 1
      let switched := warm && s.on F.HIF_ST_STAT_IMAGE != b
      let s := if st = 0 then s.wrB F.HIF_ST_STAT_WARM warm else s
      let s := (s.wrB F.HIF_ST_STAT_IMAGE b).wrB F.NV_STAT_FW_SEL b
      let s := (s.setReg R.HIF_FW_VER (BitVec.ofNat 32 (leAt (s.fwHeader b) 4 4))).stTo 1
      let s := Dev.when switched (·.stewardMsg 6) (({ s with st := { s.st with booted := true } }).bmWipe 7)
      let s := (s.nvRecover).shutCommit
      if s.vl.gate || s.st.raising then s else s.bootCold

/-- READY (R280, R283): doorbells are served. -/
def Dev.stewardReady (s : Dev) : Dev :=
  if s.rd F.HIF_ST_STAT_STATE == 1 && s.st.booted && s.vl.gate then
    (s.stTo 2).stewardMsg (if s.on F.HIF_ST_STAT_WARM then 2 else 1)
  else s

/-! ### Restart (R283) -/

/-- What the stewards were doing is abandoned: calibration runs, captures and the sweeps they led, record writes, a load; a
steward line not yet collected is lost. Injections, tuning and power transitions run on in hardware. -/
def Dev.abandon (s : Dev) : Dev :=
  let busy := s.nv.cur.isSome || s.recordMb.isSome || s.mbx.any (fun x => x.2.cmd == 0x0101 && x.2.taken)
  let s := ((s.orphan (fun _ => true)).abortRuns (fun _ => true)).abortCaps (fun _ => true)
  let s := s.nvAbandon
  let s := ({ s with nv := { s.nv with queue := [] },
                     cal := { s.cal with stints := s.cal.stints.map (fun (t : Stint) => { t with stopReq := true }) },
                     fc := { s.fc with lines := s.fc.lines.filter (fun x => x.line.hw) }, mbx := [] }).nvDepth
  Dev.when busy (Dev.masterReset 3) (s.masterReset 0)

/-- The registers and records of a restart; a watchdog's says so first. -/
def Dev.restartRegs (wdog : Bool) (s : Dev) : Dev :=
  let s := (Dev.when wdog (·.stewardMsg 4) s).stewardMsg 3
  let s := ((s.stTo 1).wrB F.HIF_ST_STAT_WARM true).wr F.HIF_ST_STAT_RESTARTS (s.rd F.HIF_ST_STAT_RESTARTS + 1)
  ({ s with st := { s.st with booted := false } }).event F.HIF_EVT_ST_RESTART

/-- The stewards run, or have failed to boot. -/
def Dev.stRuns (s : Dev) : Bool := s.rd F.HIF_ST_STAT_STATE != 0

/-- What a restart answers a BUSY mailbox: RESTARTED; of a load in progress with the load result 0x0A03 (08 Table 8.12, log 80). -/
def State.restarted (busy : List (Nat × Bool)) (s : State) : State :=
  busy.foldl (fun (s : State) x =>
    if x.2 then s.respond x.1 7 0x0A03 0xFFFFFFFF (({ code := 0x0A03 } : LoadErr).bytes 0)
    else s.respond x.1 7 0 0xFFFFFFFF []) s

/-- A steward restart: every BUSY mailbox completes with RESTARTED. -/
def State.restart (wdog : Bool) (s : State) : State :=
  if s.dev.stRuns then
    let busy := ((List.range 8).filter (fun i => s.dev.rd (F.MB_STAT_STATE i) == 1)).map (fun i =>
      (i, (s.dev.mbx.get i).cmd == 0x0101 && (s.dev.mbx.get i).ready.isNone))
    ((s.mapDev Dev.abandon).restarted busy).mapDev (Dev.restartRegs wdog)
  else s

/-- The watchdog expires (R283): the stewards restart when WDOG_RST is set. -/
def State.watchdog (s : State) : State :=
  if s.dev.stRuns then
    let s := s.mapDev (fun d => (d.event F.HIF_EVT_WDOG).raise 0x0401 1 (srcWord 4))
    if s.dev.on F.HIF_ST_CTL_WDOG_RST then s.restart true else s
  else s

/-- LOCKUP of a steward core (13 R299). -/
def State.lockup (core : Nat) (s : State) : State :=
  if s.dev.stRuns then (s.mapDev (·.raise 0x0402 1 (srcWord 4) core)).restart false else s

/-! ### fw.write, sys.info, sys.hold -/

/-- Bytes written over the first pages of a region. -/
def Dev.putImage (s : Dev) (p : Nat) (l : List Byte) : Dev :=
  Dev.each (List.range ((l.length + 4095) / 4096))
    (fun s i => (s.erasePage (p + i)).setPage (p + i) ((l.drop (4096 * i)).take 4096)) s

/-- fw.write (R281): RAISE, then the image into the region not booted, which is then verified. After a trip no page is written
(09 R235). -/
def Dev.fwWrite (image : Option (List Byte)) (mb : Nat) (m : Mbx) (s : Dev) : Dev :=
  let len := m.fld 16 4
  let run := s.on F.HIF_ST_STAT_IMAGE
  if 0x200000 < len then s.range mb 16
  else
    let s := if m.fld 0 1 = 1 ∧ s.fusedRollback < s.fwRollback run then
        { s with nv := { s.nv with fuseRb := some (BitVec.ofNat 32 (s.fwRollback run)) } }
      else s
    let s := s.send (.hostRead (BitVec.ofNat 64 (m.fld 8 8)) len)
    match image with
    | none => s.refuse mb 0x0C03
    | some l =>
      let s := if s.nv.tripped then s else s.putImage (if run then 0 else 512) (fit len l)
      s.finish mb 0 (if s.fwOk (!run) then 0 else 1) 0xFFFFFFFF [if run then 0 else 1]

/-- sys.info (R282); the record store checks IDENT on this read as on every one (09 R234, log 31). -/
def Dev.sysInfo (mb : Nat) (_ : Mbx) (s : Dev) : Dev :=
  let s := s.nvCheck identSlot
  let id := s.nvWin identSlot
  let b (o : Nat) : List Byte := toLe 4 (s.reg o).toNat
  s.finish mb 0 (if id.isNone then 0x1001 else 0) 0xFFFFFFFF
    (b R.HIF_ID ++ b R.HIF_FW_VER ++ [BitVec.ofNat 8 (s.rd F.HIF_ST_STAT_IMAGE)] ++ zeros 7 ++
      fit 48 ((id.map (·.payload)).getD []))

/-- sys.hold HOLD (R269): reason 3 to every vat of the mask. -/
def Dev.sysHold (mb : Nat) (m : Mbx) (s : Dev) : Dev :=
  let eff := s.holdEffOf (bitsOf 64 (m.fld 8 8))
  ((Dev.each (bitsOf 64 (m.fld 8 8)) (Dev.holdVat 3 eff) s.useFree).glSync).ok mb (toLe 8 eff)

/-- sys.hold RELEASE. -/
def Dev.sysRelease (mb : Nat) (m : Mbx) (s : Dev) : Dev :=
  (Dev.each (bitsOf 64 (m.fld 8 8)) (Dev.unhold 3) s).ok mb []

/-! ### The commands -/

def execStewardStart (s : State) : Host.Outcome State Fault Refusal := s.onDev Dev.stewardStart
def execP3StewardsHalt (s : State) : Host.Outcome State Fault Refusal := s.onDev Dev.p3Halt
def execStewardReady (s : State) : Host.Outcome State Fault Refusal := s.onDev Dev.stewardReady
def execWatchdogExpiry (s : State) : Host.Outcome State Fault Refusal := s.onAll State.watchdog
def execLockup (core : BitVec 2) (s : State) : Host.Outcome State Fault Refusal := s.onAll (State.lockup core.toNat)
def execFwWrite (mb : BitVec 3) (image : Option (List Byte)) (s : State) : Host.Outcome State Fault Refusal :=
  s.onDev (Dev.ecs mb.toNat 0x0B02 none (Dev.fwWrite image))
def execSysInfo (mb : BitVec 3) (s : State) : Host.Outcome State Fault Refusal :=
  s.onDev (Dev.ecs mb.toNat 0x0B01 none Dev.sysInfo)
def execSysHoldHold (mb : BitVec 3) (s : State) : Host.Outcome State Fault Refusal :=
  s.onDev (Dev.ecs mb.toNat 0x0B03 (some 0) Dev.sysHold)
def execSysHoldRelease (mb : BitVec 3) (s : State) : Host.Outcome State Fault Refusal :=
  s.onDev (Dev.ecs mb.toNat 0x0B03 (some 1) Dev.sysRelease)

end Sys2Proof.Machine
end

