-- ==== Sys2Proof/Machine/Evq.lean ====
section
/-!
DEFINITION. Event rings and the pending buffer (11 R271 to R275), trace rings (R276, R277).
-/
namespace Sys2Proof.Machine

/-! ### Routing (R272, R275) -/

/-- Ring r is enabled and its filter passes the record. -/
def Dev.ringTakes (s : Dev) (e : Ev) (r : Nat) : Bool :=
  s.on (F.EVQ_CFG_EN r) && bit (s.rd (F.EVQ_CFG_TYPEMASK r)) e.ty && decide (s.rd (F.EVQ_CFG_MINSEV r) ≤ e.sev)

def Dev.anyRing (s : Dev) : Bool := (List.range 16).any (fun r => s.on (F.EVQ_CFG_EN r))

/-- EVQ_PENDING shows the buffer. -/
def Dev.pendSync (s : Dev) : Dev := s.wr F.EVQ_PENDING s.evq.pend.length

/-- The pending buffer takes a record: it keeps the oldest 256. -/
def Dev.pendPut (e : Ev) (s : Dev) : Dev :=
  if s.evq.pend.length < 256 then ({ s with evq := { s.evq with pend := s.evq.pend ++ [e] } }).pendSync
  else ({ s with evq := { s.evq with pendDrop := s.evq.pendDrop + 1 } }).count F.EVQ_PEND_DROP

/-- A record goes to every enabled ring that passes it; else to the pending buffer or the count of unrouted ones. -/
def Dev.route (e : Ev) (s : Dev) : Dev :=
  match (List.range 16).filter (s.ringTakes e) with
  | [] => if s.anyRing then s.count F.EVQ_UNROUTED else s.pendPut e
  | rs => Dev.each rs (fun s r => s.modRing r (fun x => { x with todo := x.todo ++ [e] })) s

/-- The oldest record handed to EVQ is routed. -/
def Dev.eventRecord (s : Dev) : Dev :=
  match s.evq.inbox with
  | [] => s
  | e :: l => Dev.route e { s with evq := { s.evq with inbox := l } }

/-- The first ring enabled empties the buffer in arrival order; what was dropped is reported after it. -/
def Dev.pendEmpty (s : Dev) : Dev :=
  let l := s.evq.pend
  let n := s.evq.pendDrop
  let s := Dev.each l (fun s e => s.route e) ({ s with evq := { s.evq with pend := [], pendDrop := 0 } }).pendSync
  if n = 0 then s else s.route (s.ringEv 1 0 n)

/-! ### Writing (R271, R273, R274) -/

/-- The 64 bytes of a record on its ring (Table 11.9). -/
def evBytes (e : Ev) (seq lost : Nat) (phase : Bool) : List Byte :=
  let fl := (if e.first then 1 else 0) + (if e.group = 0 then 0 else 2) + (if e.hw then 4 else 0) + (if phase then 128 else 0)
  [BitVec.ofNat 8 e.ty, BitVec.ofNat 8 e.sev, BitVec.ofNat 8 fl, BitVec.ofNat 8 e.group] ++ toLe 4 seq ++ toLe 8 e.sample ++
    toLe 4 e.ns.toNat ++ toLe 6 e.sec.toNat ++ toLe 2 (min lost 0xFFFF) ++ toLe 4 e.src.toNat ++ toLe 4 e.code.toNat ++ fit 28 e.data

/-- PHASE of index i on a ring of n records: 1 on the first pass. -/
def phaseOf (i n : Nat) : Bool := i / n % 2 == 0

/-- One record of a batch: written, or dropped on a full ring. Answers whether it signals. -/
def Dev.evPut (r : Nat) (e : Ev) (s : Dev) : Dev × Bool :=
  let n := 2 ^ s.rd (F.EVQ_CFG_SIZE r)
  let pi := s.rd (F.EVQ_PI r)
  let x := s.evq.rings.get r
  if n ≤ (pi + 2 ^ 32 - s.rd (F.EVQ_CI r)) % 2 ^ 32 then (s.evDrop r 1, false)
  else
    let at_ := s.rd2 (R.EVQ_BASE_LO r) + 64 * (pi % n)
    let s := s.send (.hostWrite (BitVec.ofNat 64 at_) (evBytes e x.seq x.lost (phaseOf pi n)))
    let s := (s.wr (F.EVQ_PI r) (pi + 1)).pcClock 0x0201
    let sig := e.sev == 4 || decide (s.rd (F.EVQ_MOD_COAL r) ≤ x.unsig + 1)
    (s.modRing r (fun x => { x with seq := x.seq + 1, lost := 0, unsig := if sig then 0 else x.unsig + 1 }), sig)

/-- A batch: every record routed to ring r, then PI in EVQ_WB_r, then the signals. -/
def Dev.evBatch (r : Nat) (s : Dev) : Dev :=
  let l := (s.evq.rings.get r).todo
  let from_ := s.rd (F.EVQ_PI r)
  let x := l.foldl (fun (x : Dev × Bool) e => let y := x.1.evPut r e; (y.1, x.2 || y.2))
    (s.modRing r (fun x => { x with todo := [] }), false)
  let s := x.1
  if s.rd (F.EVQ_PI r) = from_ then s
  else
    let s := s.send (.hostWrite (BitVec.ofNat 64 (s.rd2 (R.EVQ_WB_LO r))) (toLe 8 (s.rd (F.EVQ_PI r))))
    let each_ := s.rd (F.EVQ_MOD_TIME r) == 0
    let s := Dev.when (x.2 || each_) (·.msix r) s
    if each_ then s.modRing r (fun x => { x with unsig := 0 }) else s

/-- M2 could not write: the batch is lost and counted, as records dropped on a full ring are. -/
def Dev.evLost (r : Nat) (s : Dev) : Dev :=
  (s.evDrop r (s.evq.rings.get r).todo.length).modRing r (fun x => { x with todo := [] })

def Dev.evqWrite (r : Nat) (busOk : Bool) (s : Dev) : Dev := if busOk then s.evBatch r else s.evLost r

/-- TIME has passed since the first unsignalled record. -/
def Dev.evqTimer (r : Nat) (s : Dev) : Dev :=
  if (s.evq.rings.get r).unsig = 0 then s else (s.modRing r (fun x => { x with unsig := 0 })).msix r

/-! ### Consumer indices, enables (R273, R275) -/

/-- EVQ_CI_r is written: forward and not past PI, or ignored with a note. -/
def Dev.evqCi (r : Nat) (v : Word) (s : Dev) : Dev :=
  let ci := s.rd (F.EVQ_CI r)
  if (v.toNat + 2 ^ 32 - ci) % 2 ^ 32 ≤ (s.rd (F.EVQ_PI r) + 2 ^ 32 - ci) % 2 ^ 32 then s.wr (F.EVQ_CI r) v.toNat
  else s.raise 0x0201 0 (srcWord 2) r

/-- EVQ_CFG_r is written: a ring that becomes enabled starts at 0; the first one empties the pending buffer. -/
def Dev.evqCfg (r : Nat) (v : Nat) (s : Dev) : Dev :=
  let was := s.on (F.EVQ_CFG_EN r)
  let first := !s.anyRing
  let s := s.store (R.EVQ_CFG r) v
  if !was && s.on (F.EVQ_CFG_EN r) then
    let s := ((s.wr (F.EVQ_PI r) 0).wr (F.EVQ_CI r) 0).modRing r (fun x => { todo := x.todo })
    if first then s.pendEmpty else s
  else s

/-! ### Trace rings (R276, R277) -/

/-- The 64 bytes of a trace record on its ring (R277). -/
def trBytes (t : Trec) (seq lost : Nat) (phase : Bool) : List Byte :=
  [BitVec.ofNat 8 t.ty, BitVec.ofNat 8 ((if phase then 128 else 0) + (if t.lebEng then 1 else 0)), BitVec.ofNat 8 t.blk,
   BitVec.ofNat 8 t.vat] ++ toLe 4 seq ++ toLe 2 (min lost 0xFFFF) ++ zeros 6 ++ fit 48 t.payload

/-- A record dropped at ring r: the first one since TRC_DROP_r was read is reported; a capture counts its own (09 R228). -/
def Dev.trDrop (r : Nat) (t : Trec) (s : Dev) : Dev :=
  Dev.when (t.ty == 1) (Dev.capDrop (fun c => t.cap == some c.id)) (s.trDrops r 1)

/-- A record for ring r: written, or dropped (R11). Indices count 64-byte records. -/
def Dev.trPut (busOk : Bool) (t : Trec) (r : Nat) (s : Dev) : Dev :=
  let n := 2 ^ (s.rd (F.TRC_CFG_SIZE r) - 6)
  let pi := s.rd2 (R.TRC_PI_LO r)
  let x := s.trc.rings.get r
  if !busOk || !s.on (F.TRC_CFG_EN r) || decide (n ≤ pi - x.ci) then s.trDrop r t
  else
    let s := s.send (.hostWrite (BitVec.ofNat 64 (s.rd2 (R.TRC_BASE_LO r) + 64 * (pi % n))) (trBytes t x.seq x.lost (phaseOf pi n)))
    let s := (s.wr2 (R.TRC_PI_LO r) (pi + 1)).pcClock 0x0301
    let s := s.send (.hostWrite (BitVec.ofNat 64 (s.rd2 (R.TRC_WB_LO r))) (toLe 8 (pi + 1)))
    let late := decide (n < 2 * (pi + 1 - x.ci))
    let s := s.modTRing r (fun x => { x with seq := x.seq + 1, lost := 0, half := x.half || late })
    Dev.when (late && !x.half) (·.msix (16 + r)) s

/-- Enabled rings whose mask takes a type: TYPEMASK's lowest bit is that of RUN, 3. -/
def Dev.trRings (s : Dev) (t : Trec) : List Nat :=
  match t.ring with
  | some r => [r]
  | none => (List.range 8).filter (fun r => s.on (F.TRC_CFG_EN r) && bit (s.rd (F.TRC_CFG_TYPEMASK r)) (t.ty - 3))

/-- The oldest record handed to TRC goes to its ring, or to every ring that takes it. -/
def Dev.traceWrite (busOk : Bool) (s : Dev) : Dev :=
  match s.trc.inbox with
  | [] => s
  | t :: l => Dev.each (s.trRings t) (fun s r => s.trPut busOk t r) { s with trc := { s.trc with inbox := l } }

/-- TRC_CI_HI_r is written: the pair takes effect, or is ignored with a note. -/
def Dev.trcCi (r : Nat) (v : Word) (s : Dev) : Dev :=
  let c := s.rd (F.TRC_CI_LO r) + 2 ^ 32 * v.toNat
  let x := s.trc.rings.get r
  if x.ci ≤ c ∧ c ≤ s.rd2 (R.TRC_PI_LO r) then
    let n := 2 ^ (s.rd (F.TRC_CFG_SIZE r) - 6)
    let late := decide (n < 2 * (s.rd2 (R.TRC_PI_LO r) - c))
    (s.wr2 (R.TRC_CI_LO r) c).modTRing r (fun x => { x with ci := c, half := x.half && late })
  else (s.wr2 (R.TRC_CI_LO r) x.ci).raise 0x0201 0 (srcWord 2) r

/-- TRC_CFG_r is written: a ring that becomes enabled starts at 0. -/
def Dev.trcCfg (r : Nat) (v : Nat) (s : Dev) : Dev :=
  let was := s.on (F.TRC_CFG_EN r)
  let s := s.store (R.TRC_CFG r) v
  if !was && s.on (F.TRC_CFG_EN r) then
    ((s.wr2 (R.TRC_PI_LO r) 0).wr2 (R.TRC_CI_LO r) 0).modTRing r (fun x => { dropNoted := x.dropNoted })
  else s

/-! ### The commands -/

def execEventRecord (s : State) : Host.Outcome State Fault Refusal := s.onDev Dev.eventRecord
def execEvqRecordWrite (r : BitVec 4) (busOk : Bool) (s : State) : Host.Outcome State Fault Refusal :=
  s.onDev (Dev.evqWrite r.toNat busOk)
def execEvqModTimer (r : BitVec 4) (s : State) : Host.Outcome State Fault Refusal := s.onDev (Dev.evqTimer r.toNat)
def execEvqCiWrite (via : Via) (r : BitVec 4) (v : Word) (s : State) : Host.Outcome State Fault Refusal :=
  s.onDev (Dev.writeReg via (R.EVQ_CI r.toNat) (Dev.evqCi r.toNat v))
/-- A write of EVQ_CFG_r with EN 1. -/
def execEvqRingEnable (via : Via) (r : BitVec 4) (v : Word) (s : State) : Host.Outcome State Fault Refusal :=
  s.onDev (Dev.writeReg via (R.EVQ_CFG r.toNat) (Dev.evqCfg r.toNat (setBit v.toNat 0)))
/-- A write of EVQ_CFG_r with EN 0. -/
def execEvqRingDisable (via : Via) (r : BitVec 4) (v : Word) (s : State) : Host.Outcome State Fault Refusal :=
  s.onDev (Dev.writeReg via (R.EVQ_CFG r.toNat) (Dev.evqCfg r.toNat (clrBit v.toNat 0)))
def execTraceRecordWrite (busOk : Bool) (s : State) : Host.Outcome State Fault Refusal := s.onDev (Dev.traceWrite busOk)
def execTrcCiHiWrite (via : Via) (r : BitVec 3) (v : Word) (s : State) : Host.Outcome State Fault Refusal :=
  s.onDev (Dev.writeReg via (R.TRC_CI_HI r.toNat) (Dev.trcCi r.toNat v))
def execTrcRingEnable (via : Via) (r : BitVec 3) (v : Word) (s : State) : Host.Outcome State Fault Refusal :=
  s.onDev (Dev.writeReg via (R.TRC_CFG r.toNat) (Dev.trcCfg r.toNat v.toNat))

end Sys2Proof.Machine
end

