-- ==== Sys2Proof/Machine/Hif.lean ====
section
/-!
DEFINITION. The host interface (11): the service aperture and its code (R264), host-interface resets (R262), the PCIe link
(R262, 14 R326, Table 14.3), and the unmasking of MSI-X vectors (R278).
-/
namespace Sys2Proof.Machine

def Dev.setHif (f : Hif → Hif) (s : Dev) : Dev := { s with hif := f s.hif }

/-! ### The service aperture (R264) -/

/-- The aperture opens, or its period starts over. -/
def Dev.svcOpen (s : Dev) : Dev :=
  let was := s.on F.HIF_STAT_SVC_OPEN
  let s := s.setHif (fun h => { h with misses := 0, svcFor := s.rd F.HIF_SVC_TIME, svcRun := 0 })
  let s := s.wrB F.HIF_STAT_SVC_OPEN true
  Dev.when (!was) (·.event F.HIF_EVT_UNLOCKED) s

/-- The aperture locks. -/
def Dev.svcLock (s : Dev) : Dev :=
  if s.on F.HIF_STAT_SVC_OPEN then
    ((s.setHif (fun h => { h with svcFor := 0, svcRun := 0 })).wrB F.HIF_STAT_SVC_OPEN false).event F.HIF_EVT_LOCKED
  else s

/-- A mismatch; the third in a row begins the lockout. -/
def Dev.svcMiss (s : Dev) : Dev :=
  let n := s.hif.misses + 1
  let s := (s.setHif (fun h => { h with misses := if n < 3 then n else 0 })).event F.HIF_EVT_BADCODE
  if n < 3 then s
  else ((s.wrB F.HIF_STAT_LOCKOUT true).event F.HIF_EVT_LOCKOUT).raise 0x0002 1 (srcWord 0)

/-- HIF_UNLOCK_HI is written: the code offered is compared, unless a lockout refuses it. -/
def Dev.unlockHi (v : Word) (s : Dev) : Dev :=
  if s.on F.HIF_STAT_LOCKOUT then s
  else if s.hif.codeLoaded && s.hif.code == v ++ s.hif.offerLo then s.svcOpen
  else s.svcMiss

/-- A sample strobe: one more microsecond of the period has passed. -/
def Dev.svcTick (s : Dev) : Dev :=
  if s.on F.HIF_STAT_SVC_OPEN then s.setHif (fun h => { h with svcRun := h.svcRun + 1 }) else s

/-- HIF_SVC_CODE_HI is written: the code is loaded. -/
def Dev.svcCodeHi (v : Word) (s : Dev) : Dev :=
  s.setHif (fun h => { h with code := v ++ h.code.setWidth 32, codeLoaded := true })

/-- HIF_SVC_CODE_LO is written. -/
def Dev.svcCodeLo (v : Word) (s : Dev) : Dev :=
  s.setHif (fun h => { h with code := BitVec.ofNat 64 (h.code.toNat / 2 ^ 32 * 2 ^ 32 + v.toNat) })

/-! ### Host-interface resets (R262) -/

/-- What a host-interface reset leaves at an offset of the four blocks: status that belongs to the stewards, the code and
the lockout, the count of the pending buffer, and the fixed counters, which only a read clears (15 R344, R353). -/
def hiKept (off : Nat) : Bool :=
  off == R.HIF_STAT || off == R.HIF_ST_STAT || off == R.HIF_FW_VER || off == R.EVQ_PENDING || isFixed off

/-- The registers of HIF with the MSI-X table and PBA, MB, EVQ and TRC at their reset values, but for what the reset leaves. -/
def Dev.hiRegs (s : Dev) : Dev :=
  { s with regs := s.regs.filter (fun r => decide (0x40000 ≤ r.1) || hiKept r.1),
           hold := s.hold.filter (fun r => decide (0x40000 ≤ r.1)) }

/-- Accepted commands go on without a mailbox, each in a place of its own: requests not yet begun, and a load that is being read
(R262, log 60). -/
def Dev.hiMbx (s : Dev) : Dev :=
  let mv := (List.range 8).filter (fun i =>
    let m := s.mbx.get i
    s.rd (F.MB_STAT_STATE i) == 1 && m.ready.isNone && (!m.taken || m.cmd == 0x0101))
  let t := mv.foldl (fun (t : Tbl Mbx) i => Tbl.set t (16 + (s.mbx.get i).bell) (s.mbx.get i)) s.mbx
  (Dev.orphan (fun k => decide (k < 8)) { s with mbx := t.filter (fun x => decide (8 ≤ x.1)) })

/-- A host-interface reset of the block: the aperture locks, and masters M1 and M2 drain (12 R296). -/
def Dev.hiReset (linkGone : Bool) (s : Dev) : Dev :=
  let wasOpen := s.on F.HIF_STAT_SVC_OPEN
  let s := (Dev.masterReset 2 (s.masterReset 1)).hiMbx.hiRegs
  let s := { s with evq := { s.evq with rings := [] },
                    trc := { s.trc with rings := s.trc.rings.mapAll (fun _ x => { dropNoted := x.dropNoted }) } }
  let s := s.setHif (fun h => { h with offerLo := 0, svcFor := 0, svcRun := 0 })
  let s := (s.wrB F.HIF_STAT_SVC_OPEN false)
  let s := Dev.when linkGone (fun s => (s.wr F.HIF_STAT_LINK_SPD 0).wr F.HIF_STAT_LINK_W 0) s
  (Dev.when wasOpen (·.event F.HIF_EVT_LOCKED) s).event F.HIF_EVT_HIRESET

/-- The response areas are empty again (log 36). -/
def clearResp (m : List Host.Cell) : List Host.Cell := (List.range 8).foldl (fun m i => Memory.clear m (respArea i) 4096) m

/-- A host-interface reset. -/
def State.hiReset (linkGone : Bool) (s : State) : State := { s with mem := clearResp s.mem, dev := s.dev.hiReset linkGone }

/-- The power state of the PCIe function (R261, R262). -/
def Dev.dState (d3 : Bool) (s : Dev) : Dev := s.setHif (fun h => { h with fn := { h.fn with d3hot := d3 } })

/-- Its cause: link down and PERST# take the link down; the other causes find or leave the function in D0 (log 98). -/
def State.hiCause (c : HiReset) (s : State) : State :=
  let s := s.mapDev (Dev.dState (c == .d3hot))
  match c with
  | .flr => s.hiReset false
  | .hotReset => s.hiReset false
  | .d3hot => s.hiReset false
  | .linkDown => s.hiReset true
  | .perst => (s.hiReset true).mapDev (fun d => { d with pins := { d.pins with perstN := false } })

/-- On the way to P3 HIF takes the link down (14 Table 14.3). -/
def State.p3Link (s : State) : State :=
  if s.dev.pm.p3 = .idle then (s.hiReset true).mapDev (Dev.setPm (fun p => { p with p3 := .linkDown })) else s

/-! ### The link comes up; MSI-X -/

/-- The PCIe link is up at one of the five speeds of Table 11.1, once the core's clocks are ready (16 R365): PERST# is high by then (log
81), PCIE_WAKE_N is released (14 R326), and the function is in D0. -/
def Dev.linkUp (speed width : Nat) (s : Dev) : Dev :=
  if s.coreUp && decide (1 ≤ speed) && decide (speed ≤ s.hif.fn.maxSpeed.toNat) then
    let s := s.dState false
    let s := { ((s.wr F.HIF_STAT_LINK_SPD speed).wr F.HIF_STAT_LINK_W width) with pins := { s.pins with perstN := true } }
    if s.pins.wakeN then s else s.drive "PCIE_WAKE_N" true (fun p => { p with wakeN := true })
  else s

/-- A vector is unmasked; with its PBA bit set it fires (R278). -/
def Dev.unmask (v : Nat) (s : Dev) : Dev :=
  let c := 0x1000 + 16 * v + 12
  let p := 0x1800 + 4 * (v / 32)
  let s := s.setReg c (BitVec.ofNat 32 (clrBit (s.reg c).toNat 0))
  if bit (s.reg p).toNat (v % 32) then
    (s.setReg p (BitVec.ofNat 32 (clrBit (s.reg p).toNat (v % 32)))).send (.msix v)
  else s

/-! ### The commands -/

def execHifUnlockHi (via : Via) (v : Word) (s : State) : Host.Outcome State Fault Refusal :=
  s.onDev (Dev.writeReg via R.HIF_UNLOCK_HI (Dev.unlockHi v))
def execSvcPeriodEnd (s : State) : Host.Outcome State Fault Refusal := s.onDev Dev.svcLock
def execLockoutEnd (s : State) : Host.Outcome State Fault Refusal := s.onDev (·.wrB F.HIF_STAT_LOCKOUT false)
def execHifSvcCtlLock (via : Via) (_ : Word) (s : State) : Host.Outcome State Fault Refusal :=
  s.onDev (Dev.writeReg via R.HIF_SVC_CTL Dev.svcLock)
def execHifSvcCodeHi (via : Via) (v : Word) (s : State) : Host.Outcome State Fault Refusal :=
  s.onDev (Dev.writeReg via R.HIF_SVC_CODE_HI (Dev.svcCodeHi v))
def execHostInterfaceReset (cause : HiReset) (s : State) : Host.Outcome State Fault Refusal := s.onAll (State.hiCause cause)
def execP3LinkDown (s : State) : Host.Outcome State Fault Refusal := s.onAll State.p3Link
def execPcieLinkUp (speed : BitVec 3) (width : BitVec 2) (s : State) : Host.Outcome State Fault Refusal :=
  s.onDev (Dev.linkUp speed.toNat width.toNat)
def execMsixUnmask (vec : BitVec 6) (s : State) : Host.Outcome State Fault Refusal := s.onDev (Dev.unmask vec.toNat)

end Sys2Proof.Machine
end

