-- ==== Sys2Proof/Machine/Pc.lean ====
section
/-!
DEFINITION. The performance-counter block (15): selections and their pending change (R346), clear, freeze and snapshot
(R347, R351), the events a counter may take (R349), and counter.config (R345, R346).
-/
namespace Sys2Proof.Machine

/-! ### Selections (R346, R348, R349) -/

/-- Events of Table 15.2 that take a vat. -/
def evVat (e : Nat) : Bool :=
  let b := e / 256
  let k := e % 256
  decide (1 ≤ k) && ((b == 6 && decide (k ≤ 7)) || ((b == 7 || b == 8) && decide (k ≤ 6)) || (b == 9 && decide (k ≤ 3)))

/-- Events of Table 15.2 that take none. -/
def evPlain (e : Nat) : Bool :=
  [0x0000, 0x0201, 0x0301, 0x0302, 0x0501, 0x0502, 0x0904, 0x0B01, 0x0B02, 0x0B03, 0x0B04, 0x0B05, 0x0C01, 0x0C02, 0x0C03,
   0x0C04, 0x0C05, 0x0C06, 0x0C07, 0x1301, 0x1302, 0x1303].contains e

/-- The number is listed (R349). -/
def evListed (e : Nat) : Bool := evVat e || evPlain e

/-- The event takes this VAT (R349): 64 to 254 are reserved. -/
def evTakes (e v : Nat) : Bool := v == 0xFF || (evVat e && decide (v < 64))

/-- A selection register is written: the one in force goes on until the next frame opens (R346). -/
def Dev.pcSelect (off : Nat) (v : Word) (s : Dev) : Dev :=
  let p := if s.pc.pend.any (fun x => x.1 == off) then s.pc.pend else s.pc.pend ++ [(off, s.reg off)]
  { s.setReg off v with pc := { s.pc with pend := p } }

/-- The counter of a selection register: its low count word and its bit of PC_EXT. -/
def pcOf (off : Nat) : Nat × Nat :=
  if off < R.PC_EVSEL 0 then
    let i := (off - R.PC_BPSEL 0) / 0x20
    (R.PC_BPCNT_LO i, i)
  else
    let j := (off - R.PC_EVSEL 0) / 0x20
    (R.PC_EVCNT_LO j, 8 + j)

/-- A count is zeroed and its extrapolated bit cleared. -/
def Dev.pcZero (s : Dev) (c : Nat × Nat) : Dev :=
  (s.wr2 c.1 0).setReg R.PC_EXT (BitVec.ofNat 32 (clrBit (s.reg R.PC_EXT).toNat c.2))

/-- The opening of a compute frame: selections change, and their counts start at 0 (R346). -/
def Dev.pcOpen (s : Dev) : Dev :=
  let l := s.pc.pend
  let s := Dev.when (!l.isEmpty) Dev.bmSettle s
  Dev.each l (fun s x => s.pcZero (pcOf x.1)) { s with pc := { s.pc with pend := [], acc := s.pc.acc.filter (fun a =>
    !(l.any (fun x => (pcOf x.1).2 == 8 + a.1))) } }

/-- The close of a compute frame: the frame's sums are added (R350). -/
def Dev.pcCloseFrame (s : Dev) : Dev :=
  let l := s.pc.acc
  Dev.each l (fun s (a : Nat × Nat) => if s.on F.PC_CTL_FREEZE then s else s.add64 (R.PC_EVCNT_LO a.1) a.2)
    { s with pc := { s.pc with acc := [] } }

/-! ### PC_CTL (R346, R347, R351) -/

/-- Every PC counter: its low count word and its bit of PC_EXT. -/
def pcAll : List (Nat × Nat) :=
  (List.range 8).map (fun i => (R.PC_BPCNT_LO i, i)) ++ (List.range 16).map (fun j => (R.PC_EVCNT_LO j, 8 + j))

/-- SNAP: all counts, the sample index and the extrapolated bits are copied. The snapshot lies 8 bytes past the count. -/
def Dev.pcSnap (s : Dev) : Dev :=
  let s := Dev.each pcAll (fun s c => s.wr2 (c.1 + 8) (s.rd2 c.1)) s
  (s.wr2 R.PC_SNAP_N_LO s.now).setReg R.PC_SNAP_EXT (s.reg R.PC_EXT)

def Dev.pcClear (s : Dev) : Dev := Dev.each pcAll Dev.pcZero s

/-- PC_CTL is written with a word: a snapshot takes the counts from before a clear in the same write. -/
def Dev.pcCtl (v : Nat) (s : Dev) : Dev :=
  let s := Dev.when (bit v 0) Dev.pcSnap s
  (Dev.when (bit v 2) Dev.pcClear s).wrB F.PC_CTL_FREEZE (bit v 1)

/-! ### counter.config (R345, R346, Table 11.7) -/

/-- A field of a set out of range, by payload offset. -/
def pcSetBad (m : Mbx) : Option Nat :=
  let c := m.fld 1 1
  let e := m.fld 2 2
  if c < 8 then
    if 7 < e then some 2 else if 15 < m.fld 4 1 then some 4 else if 63 < m.fld 5 1 then some 5
    else if 15 < m.fld 6 1 then some 6 else if 13 < m.fld 7 1 then some 7 else none
  else if !evListed e then some 2 else if !evTakes e (m.fld 7 1) then some 7 else none

/-- The PC counter that COUNTER names. -/
def pcCounter (c : Nat) : Option (Nat × Nat) :=
  if c < 8 then some (R.PC_BPCNT_LO c, c) else if 16 ≤ c ∧ c < 32 then some (R.PC_EVCNT_LO (c - 16), c - 8) else none

def Dev.counterSet (mb : Nat) (m : Mbx) (s : Dev) : Dev :=
  let c := m.fld 1 1
  if c = 0xFF then s.range mb 0
  else if (pcCounter c).isNone then s.range mb 1
  else
    match pcSetBad m with
    | some o => s.range mb o
    | none =>
      let s := if c < 8 then
          let w := m.fld 7 1 + 16 * m.fld 2 2 + 256 * m.fld 4 1 + 4096 * m.fld 6 1 + 65536 * m.fld 5 1
          let s := s.pcSelect (R.PC_BPSEL c) (BitVec.ofNat 32 w)
          (s.pcSelect (R.PC_BPWB c) (BitVec.ofNat 32 (m.fld 8 4))).pcSelect (R.PC_BPWL c) (BitVec.ofNat 32 (m.fld 12 4))
        else s.pcSelect (R.PC_EVSEL (c - 16)) (BitVec.ofNat 32 (m.fld 2 2 + 65536 * m.fld 7 1))
      s.ok mb []

/-- A fixed counter's count, by OP read or clear: the read clears it (R345). -/
def Dev.counterFixed (mb : Nat) (m : Mbx) (s : Dev) : Dev :=
  let off := m.fld 8 4
  if isFixed off then
    let r := s.rcTake off
    r.2.ok mb (toLe 8 r.1.toNat ++ zeros 8 ++ toLe 8 r.2.now)
  else s.finish mb 6 0 off []

def Dev.counterRead (mb : Nat) (m : Mbx) (s : Dev) : Dev :=
  if m.fld 1 1 = 0xFF then s.counterFixed mb m
  else
    let s := s.bmSettle
    match pcCounter (m.fld 1 1) with
    | some c =>
      s.ok mb (toLe 8 (s.rd2 c.1) ++ [if bit (s.reg R.PC_EXT).toNat c.2 then 1 else 0] ++ zeros 7 ++ toLe 8 s.now)
    | none => s.range mb 1

def Dev.counterClear (mb : Nat) (m : Mbx) (s : Dev) : Dev :=
  if m.fld 1 1 = 0xFF then s.counterFixed mb m
  else
    let s := s.bmSettle
    match pcCounter (m.fld 1 1) with
    | some c => (s.pcZero c).ok mb []
    | none => s.range mb 1

/-! ### The commands -/

def execCounterConfigSet (mb : BitVec 3) (s : State) : Host.Outcome State Fault Refusal :=
  s.onDev (Dev.ecs mb.toNat 0x0A01 (some 0) Dev.counterSet)
def execCounterConfigRead (mb : BitVec 3) (s : State) : Host.Outcome State Fault Refusal :=
  s.onDev (Dev.ecs mb.toNat 0x0A01 (some 1) Dev.counterRead)
def execCounterConfigClear (mb : BitVec 3) (s : State) : Host.Outcome State Fault Refusal :=
  s.onDev (Dev.ecs mb.toNat 0x0A01 (some 2) Dev.counterClear)

end Sys2Proof.Machine
end

