-- ==== Sys2Proof/Machine/Tb.lean ====
section
/-!
DEFINITION. The time base (02): PTP ports, the servo's states and steps, holdover and its supervision, references, PPS, and
time across P3 with the release of the engines (R51, R52; 14 R325, R327, R330; 15 R353). Offsets are in 1/16 ns.
-/
namespace Sys2Proof.Machine

def Dev.setTb (f : Tb → Tb) (s : Dev) : Dev := { s with tb := f s.tb }

def Dev.tbState (s : Dev) : Nat := s.rd F.TB_STAT_STATE

/-- The source in use: a change in REANCHOR takes effect at the release (R49). -/
def Dev.tbSrc (s : Dev) : Nat := s.tb.srcPend.getD (s.rd F.TB_CFG_SRC)

/-- STEP_OK (R41): no plan in force, or REANCHOR. -/
def Dev.stepSync (s : Dev) : Dev := s.wrB F.TB_STAT_STEP_OK (!s.on F.GL_STAT_PLAN || s.tbState == 5)

/-! ### Uncertainty and its supervision (R43, R44, R47) -/

/-- Whole units, rounded up: TB_UNC is a bound. -/
def ceilDiv (x d : Nat) : Nat := (x + d - 1) / d

/-- What the loss of both references has added to TB_UNC since it was last taken over (R47): 100 ppm of elapsed time. -/
def Dev.refGrowth (s : Dev) : Nat :=
  if s.tb.refBoth && !s.tb.refOkSeen then ceilDiv (s.now - s.tb.refLost) 10 else 0

/-- TB_UNC by R43, with the growth of R47 while both references are lost. -/
def Dev.uncNow (s : Dev) : Nat :=
  let t := s.tb.hoSecs
  let u := match s.tbState with
    | 2 => ceilDiv (sgn 32 (s.rd F.TB_OFFSET)).natAbs 16 + s.rd F.TB_UNC_FLOOR
    | 4 => ceilDiv (sgn 32 (s.rd F.TB_OFFSET)).natAbs 16 + s.rd F.TB_UNC_FLOOR
    | 3 => s.tb.u0 + ceilDiv (s.rd F.TB_HO_FERR * t * 512 + s.rd F.TB_HO_AGING * t * t) 131072
    | 5 => s.tb.uncE.toNat
    | _ => 0xFFFFFFFF
  min (u + s.refGrowth) 0xFFFFFFFF

/-- What TB_UNC holds is taken over as a start value: the growth it contains is not added again (R43, R47, R51). -/
def Dev.growthIn (s : Dev) : Dev := s.setTb (fun t => { t with refLost := max t.refLost t.uncAt })

/-- HO_EXCEED clears. -/
def Dev.hoClear (s : Dev) : Dev :=
  if s.on F.TB_STAT_HO_EXCEED then ((s.wrB F.TB_STAT_HO_EXCEED false).wrB F.PM_STAT_F_HO false).pmCheck else s

/-- TB_UNC has exceeded its limit (R44): HO_EXCEED, its line, and Hold where HO_HOLD asks for it. -/
def Dev.hoExceed (u : Nat) (s : Dev) : Dev :=
  let s := ((s.wrB F.TB_STAT_HO_EXCEED true).event F.TB_EVT_HO_EXCEED).raise 0x0503 2 (srcWord 5) u
  let s := s.setTb (fun t => { t with okCnt := 0 })
  if s.on F.TB_CFG_HO_HOLD then (s.wrB F.PM_STAT_F_HO true).pmCheck else s

/-- u(t) of R43 at an instant of HOLDOVER, its whole seconds and the microseconds of the second under way. -/
def Dev.hoBound (s : Dev) : Nat :=
  let us := s.tb.hoSecs * 1000000 + min (s.now - s.tb.hoAt) 1000000
  min (s.tb.u0 + ceilDiv (s.rd F.TB_HO_FERR * us * 512 * 1000000 + s.rd F.TB_HO_AGING * us * us) (131072 * 10 ^ 12) + s.refGrowth)
    0xFFFFFFFF

/-- A source returns in HOLDOVER: a crossing of the limit in this same second is still recorded (R44). -/
def Dev.hoReturn (s : Dev) : Dev :=
  if s.tb.supervised && !s.on F.TB_STAT_HO_EXCEED && decide (s.rd F.TB_HO_LIMIT < s.hoBound) then s.hoExceed s.hoBound else s

/-- A recomputation: TB_UNC, HO_EXCEED by R44, and the clearing of R47. -/
def Dev.tbUnc (s : Dev) : Dev :=
  let u := s.uncNow
  let s := (s.wr F.TB_UNC u).setTb (fun t => { t with uncAt := s.now })
  let low := decide (4 * u ≤ 3 * s.rd F.TB_HO_LIMIT)
  let st := s.tbState
  let s :=
    if !s.tb.supervised || st < 2 || st == 6 then s
    else if s.on F.TB_STAT_HO_EXCEED then
      let n := if low then s.tb.okCnt + 1 else 0
      let s := s.setTb (fun t => { t with okCnt := n })
      if 16 ≤ n then s.hoClear else s
    else if s.rd F.TB_HO_LIMIT < u then s.hoExceed u
    else s
  if s.tb.refBoth && s.tb.refOkSeen then
    let n := if low then s.tb.refClr + 1 else 0
    let s := s.setTb (fun t => { t with refClr := n })
    if 16 ≤ n then ((s.setTb (fun t => { t with refBoth := false, refClr := 0 })).wrB F.PM_STAT_F_REF false).pmCheck else s
  else s

/-! ### States (Table 2.2) -/

/-- The mean addend over the last 16 s, no further back than a sample, from its changes (newest first). -/
def addMean (now since : Nat) (cur : BitVec 40) (h : List (Nat × BitVec 40)) : BitVec 40 :=
  let from_ := max (now - 16000000) since
  let r := h.foldl (fun (a : Nat × Nat × Nat) x =>
    let b := max x.1 from_
    if a.2.2 ≤ b then a else (a.1 + x.2.toNat * (a.2.2 - b), a.2.1 + (a.2.2 - b), b)) (0, 0, now)
  if r.2.1 = 0 then cur else BitVec.ofNat 40 (divRne r.1 r.2.1).toNat

/-- The changes of the addend that its mean over 16 s can need. -/
def histKeep (now : Nat) : List (Nat × BitVec 40) → List (Nat × BitVec 40)
  | [] => []
  | x :: r => if now < x.1 + 16000000 then x :: histKeep now r else [x]

/-- TB_FREQ_ADJ: deviation of the addend from 2 ns, 2^-8 ppb. -/
def Dev.freqAdj (s : Dev) : Dev :=
  s.wr F.TB_FREQ_ADJ (uns 32 (divRne (((s.tb.addend.toNat : Int) - 2 ^ 33) * 256000000000) (2 ^ 33)))

/-- The addend takes a value. -/
def Dev.setAddend (a : BitVec 40) (s : Dev) : Dev :=
  (s.setTb (fun t => { t with addend := a, hist := (s.now, a) :: histKeep s.now t.hist })).freqAdj

/-- TB moves to a state (R49); before the boot gate opens it stays in FREE (16 R362). FREE, ACQUIRE and FREERUN clear
HO_EXCEED; the first LOCKED begins supervision (R44). -/
def Dev.tbTo (st : Nat) (s : Dev) : Dev :=
  if s.tbState = st ∨ (!s.vl.gate && s.tbState == 0) then s
  else
    let s := if s.tbState = 2 then s.setTb (fun t => { t with lockMean := addMean s.now t.lockFrom t.addend t.hist }) else s
    let s := (((s.wr F.TB_STAT_STATE st).event F.TB_EVT_STATE_CHG).setTb (fun t => { t with lockCnt := 0 })).stepSync
    let s := if st = 2 then s.setTb (fun t => { t with supervised := true, lockFrom := s.now }) else s
    let s := if st < 2 ∨ st = 6 then (s.wr F.TB_UNC 0xFFFFFFFF).hoClear else s
    if st = 0 ∧ s.tb.ppsOut then (s.setTb (fun t => { t with ppsOut := false })).send (.pin "PPS_OUT" false) else s

/-- HOLDOVER (R43): u0, F at entry, and the addend at its mean over the last 16 s of LOCKED; a time base that has never been
LOCKED keeps its addend. -/
def Dev.holdover (s : Dev) : Dev :=
  let f := max 256 (Config.servoFreqErr s.tb.addend).toNat
  let u := s.rd F.TB_UNC
  let s := ((s.growthIn).tbTo 3).wr F.TB_HO_FERR f
  let s := s.setTb (fun t => { t with u0 := u, hoSecs := 0, hoAt := s.now, chgUp := none })
  s.setAddend (if s.tb.supervised then s.tb.lockMean else s.tb.addend)

/-- No qualified source is left: LOCKED and RELOCK go to HOLDOVER. REANCHOR lasts until the first offset or TB_WAKE_WAIT (R52; DESIGN
CHOICE against row 3 of Table 2.2, log 104). -/
def Dev.sourceGone (s : Dev) : Dev := if s.tbState = 2 ∨ s.tbState = 4 then s.holdover else s

/-! ### Steps (R41, R42) -/

/-- The time value in 2^-32 ns. -/
def Dev.time32 (s : Dev) : Nat := (s.tb.sec.toNat * 1000000000 + s.tb.ns.toNat) * 2 ^ 32 + s.tb.frac.toNat

/-- The time value becomes t32. -/
def Dev.setTime (t32 : Nat) (s : Dev) : Dev :=
  let ns := t32 / 2 ^ 32
  let s := s.setTb (fun t => { t with sec := BitVec.ofNat 48 (ns / 1000000000), ns := BitVec.ofNat 30 (ns % 1000000000),
                                      frac := BitVec.ofNat 32 t32 })
  s.wr2 R.TB_SAMPLE_LO (ns / 1000)

/-- The time is set to a new value, and TB keeps the distance from now of what it remembers by sample index to measure a duration. -/
def Dev.jumpTb (t32 : Nat) (s : Dev) : Dev :=
  let old := s.now
  let s := s.setTime t32
  let mv (n : Nat) : Nat := n + s.now - old
  s.setTb (fun t => { t with
    hoAt := mv t.hoAt, hist := t.hist.map (fun (x : Nat × BitVec 40) => (mv x.1, x.2)), lockFrom := mv t.lockFrom, uncAt := mv t.uncAt, refLost := mv t.refLost,
    switchAt := t.switchAt.map mv, pa := { t.pa with reqAt := t.pa.reqAt.map mv }, pb := { t.pb with reqAt := t.pb.reqAt.map mv } })

/-- A step (R41): no time has passed, so the other blocks keep such distances too: that from the latest event of each fault (13 R305)
and from the mismatches counted (10 R243). Time carried over P3 has passed for them (R51; log 68). -/
def Dev.jump (t32 : Nat) (s : Dev) : Dev :=
  let old := s.now
  let s := s.jumpTb t32
  let mv (n : Nat) : Nat := n + s.now - old
  { s with fc := { s.fc with rate := s.fc.rate.map (fun (x : BitVec 28 × BitVec 16 × Nat × Nat) => (x.1, x.2.1, mv x.2.2.1, x.2.2.2)) },
           tw := { s.tw with mis := s.tw.mis.map mv } }

/-- A step by an offset of the time base against the source. -/
def Dev.stepBy (o : Int) (s : Dev) : Dev :=
  let s := s.jump (uns 110 ((s.time32 : Int) - o * 2 ^ 28))
  (s.wr F.TB_OFFSET 0).event F.TB_EVT_STEP_DONE

/-! ### The release of the engines after wake (R52, 10 R255, 14 R327) -/

/-- What a change of SRC does to the state (R49): old and new source. -/
def Dev.srcMove (old new : Nat) (s : Dev) : Dev :=
  if old = new then s
  else
    let st := s.tbState
    let s := s.setTb (fun t => { t with fromFree := (old == 2 || (t.fromFree && new != 2)) && (st == 3 || st == 6) })
    if new = 2 then (if st < 2 then s.tbTo 0 else s.sourceGone)
    else if old = 2 then s
    else if st < 2 then s.tbTo 1
    else s.sourceGone

/-- The engines resume once the point is raised (14 R327), at the sample index of the time; TW makes its wake check; HOLD reason 2 is withdrawn. -/
def Dev.enginesOut (s : Dev) : Dev :=
  if s.pm.p3 ≠ .woken ∨ s.pm.opTgt.isSome then s
  else
    let s := { s with le := { s.le with frame := s.now, isOpen := false } }
    let s := Dev.each (List.range 64) (fun s v => s.modVat v (fun x => { x with acc := 0, blkAt := none, blks := [] })) s
    let s := (s.wakeCheck).resyncAgain (s.now + 1)
    let s := (s.setPm (fun p => { p with p3 := .none, target := decide (3 ≤ s.rd F.PM_STAT_REQ) })).stepSync
    let s := Dev.each (List.range 64) (Dev.unhold 2) s
    let s := if s.fc.latch then s else s.resume s.now
    let s := match s.tb.srcPend with
      | some old => (s.setTb (fun t => { t with srcPend := none })).srcMove old (s.rd F.TB_CFG_SRC)
      | none => s
    s.glSync.pmCheck

/-! ### Offsets (R39, R41, R49) -/

/-- The addend that the servo's wish becomes (R34): within 100 ppm of 2 ns and, with a plan in force, within TB_SLEW_MAX of the
mean over the 16 s before the change began. A change lasts while the servo goes on in one direction. -/
def Dev.slewTo (ask : Int) (s : Dev) : Dev :=
  let cur : Int := s.tb.addend.toNat
  let up := decide (cur < ask)
  let s := if ask = cur then s.setTb (fun t => { t with chgUp := none })
    else if s.tb.chgUp = some up then s
    else s.setTb (fun t => { t with chgUp := some up, chgBase := addMean s.now 0 t.addend t.hist })
  let base : Int := s.tb.chgBase.toNat
  let slew : Int := s.rd F.TB_SLEW_MAX * 2 ^ 33 / 1000000
  let ask := if s.on F.GL_STAT_PLAN && decide (ask ≠ cur) then max (base - slew) (min (base + slew) ask) else ask
  s.setAddend (BitVec.ofInt 40 (max (2 ^ 33 - 858993 : Int) (min (2 ^ 33 + 858993) ask)))

/-- The servo takes an offset: filtered offset, addend, and the count of measured offsets toward LOCKED (Table 2.2). -/
def Dev.servo (o : Int) (s : Dev) : Dev :=
  let bw := BitVec.ofNat 3 (s.rd F.TB_CFG_BW)
  let m := BitVec.ofInt 32 o
  let f := Config.servoOffset (s.reg R.TB_OFFSET) m bw
  let s := (s.slewTo (Config.servoAddend s.tb.addend m bw).toNat).wr F.TB_OFFSET f.toNat
  let n := if o.natAbs ≤ 800 then s.tb.lockCnt + 1 else 0
  let s := s.setTb (fun t => { t with lockCnt := n })
  let s := if 16 ≤ n ∧ (s.tbState = 1 ∨ s.tbState = 4) then s.tbTo 2 else s
  s.tbUnc

/-- In ACQUIRE an offset above 1 us is removed by a step while STEP_OK (R41); else the servo takes it. -/
def Dev.acquireOr (o : Int) (s : Dev) : Dev :=
  if s.tbState = 1 ∧ 16000 < o.natAbs ∧ s.on F.TB_STAT_STEP_OK then
    ((s.stepBy o).setTb (fun t => { t with lockCnt := 0 })).tbUnc
  else s.servo o

/-- A qualified offset of the source in use. While the boot gate is closed the time base stays in FREE and takes none
(16 R362). -/
def Dev.tbOffset (o : Int) (s : Dev) : Dev :=
  if s.tbState = 0 ∧ !s.vl.gate then s
  else
  let s := s.stepSync
  let back := if s.tb.fromFree && s.on F.TB_STAT_STEP_OK then 1 else 4
  match s.tbState with
  | 0 => (s.tbTo 1).acquireOr o
  | 3 => ((s.hoReturn.tbTo back).setTb (fun t => { t with fromFree := false })).acquireOr o
  | 5 => (((s.stepBy o).tbTo 4).tbUnc).enginesOut
  | 6 => ((s.tbTo back).setTb (fun t => { t with fromFree := false })).acquireOr o
  | _ => s.acquireOr o

/-! ### PTP (R38, R39) -/

def Dev.ptp (s : Dev) : Port → PtpPort
  | .rpa => s.tb.pa
  | .rpb => s.tb.pb

def Dev.setPtp (p : Port) (f : PtpPort → PtpPort) (s : Dev) : Dev :=
  s.setTb (fun t => if p = .rpa then { t with pa := f t.pa } else { t with pb := f t.pb })

def Dev.ptpOn (s : Dev) (p : Port) : Bool :=
  s.on (if p = .rpa then F.TB_PTP_CFG_PORT_EN_A else F.TB_PTP_CFG_PORT_EN_B) && s.on (rpFld p F.RPA_STAT_LINK)

/-- The time base takes a PTP message (R38): its port up and enabled, its transport configured, multicast, its domain, and its
interval from lo to hi. -/
def Dev.ptpTakes (s : Dev) (p : Port) (h : PtpHdr) (lo hi : Int) : Bool :=
  let way := s.rd F.TB_PTP_CFG_TRANSPORT
  let via := match h.transport with
    | .ethernet => way == 0 || way == 2
    | .udp4 => way == 1 || way == 2
    | .other => false
  s.ptpOn p && via && h.mcast.isSome && h.domain.toNat == s.rd F.TB_PTP_CFG_DOMAIN &&
    decide (lo ≤ h.logInt.toInt) && decide (h.logInt.toInt ≤ hi)

/-- Latency of a report port between its stamp point and its pins, 1/256 ns (09 R216). -/
def Dev.rpTxlat (s : Dev) (p : Port) : Int := s.rd (if p = .rpa then F.CAL_RPA_TXLAT else F.CAL_RPB_TXLAT)
def Dev.rpRxlat (s : Dev) (p : Port) : Int := s.rd (if p = .rpa then F.CAL_RPA_RXLAT else F.CAL_RPB_RXLAT)

/-- A stamp in 1/16 ns corrected by a latency in 1/256 ns. -/
def stampFix (t lat : Int) : Int := divRne (16 * t + lat) 16

def Dev.selected (s : Dev) : Port := if s.on F.TB_STAT_PORT then .rpb else .rpa

/-- The port holds a qualified transmitter. -/
def PtpPort.good (x : PtpPort) : Bool := x.master.isSome && !x.lost

/-- What is reported of the selected port's transmitter: the UTC offset and the PTP timescale (R32). -/
def Dev.showMaster (s : Dev) : Dev :=
  match (s.ptp s.selected).master with
  | some a => (s.wr F.TB_UTC_OFFSET a.utc.toNat).wrB F.TB_STAT_TS_TAI a.ptpScale
  | none => s

/-- TB_SHADOW_OFFSET: the offset of the port not selected, while it holds a qualified transmitter (R39). -/
def Dev.showShadow (s : Dev) : Dev :=
  let x := s.ptp (otherPort s.selected)
  s.wr F.TB_SHADOW_OFFSET (match x.offset with
    | some o => if x.good then uns 32 o else 0x80000000
    | none => 0x80000000)

/-- The time base selects a port: PORT_MOVE when the offsets lie more than 100 ns apart. -/
def Dev.portMove (p : Port) (o : Option Int) (s : Dev) : Dev :=
  if s.selected = p then s
  else
    let old := (s.ptp s.selected).offset
    let s := (((s.wrB F.TB_STAT_PORT (p == .rpb)).event F.TB_EVT_PORT_SW).showMaster).showShadow
    match old, o with
    | some a, some b =>
      if 1600 < (b - a).natAbs then s.raise 0x0506 1 (srcWord 5) (uns 32 (divRne (b - a) 16)) else s
    | _, _ => s

/-- A Sync's offset on a port is known. -/
def Dev.syncOffset (p : Port) (raw : Int) (s : Dev) : Dev :=
  let o := raw - (s.ptp p).delay
  let was := (s.ptp s.selected).good
  let s := s.setPtp p (fun x => { x with lost := false })
  let s := if !was && s.selected != p then s.portMove p (some o) else s
  let s := s.setPtp p (fun x => { x with offset := some o })
  if s.selected = p then
    if s.tbSrc = 0 then (s.pcClock 0x0501).tbOffset o else s
  else s.showShadow

/-- The message comes from the port's best transmitter (R39). -/
def Dev.fromBest (s : Dev) (p : Port) (h : PtpHdr) : Bool := (s.ptp p).master.any (fun m => m.parent == h.src)

/-- A Sync of the port's best transmitter (one-step at once, two-step with its Follow_Up). One whose stamp was taken during a reference switch (R46), or in a
TSDLY run of its port (09 R216), is discarded. -/
def Dev.ptpSync (p : Port) (h : PtpHdr) (seq : BitVec 16) (twoStep : Bool) (origin rx : Int) (s : Dev) : Dev :=
  if !s.ptpTakes p h (-7) 0 || !s.fromBest p h || s.on F.TB_REF_STAT_SWITCHING || s.portInCal p then s
  else
    let rx := stampFix rx (-s.rpRxlat p)
    if twoStep then s.setPtp p (fun x => { x with pend := some { seq := seq, rx := rx } })
    else (s.setPtp p (fun x => { x with pend := none })).syncOffset p (rx - origin)

def Dev.ptpFollowUp (p : Port) (h : PtpHdr) (seq : BitVec 16) (origin : Int) (s : Dev) : Dev :=
  if !s.ptpTakes p h (-7) 0 || !s.fromBest p h then s
  else
    match (s.ptp p).pend with
    | some y => if y.seq = seq then (s.setPtp p (fun x => { x with pend := none })).syncOffset p (y.rx - origin) else s
    | none => s

/-- What the BMCA compares. -/
def annSet (a : Announce) : List Nat := [a.prio1.toNat, a.gmQuality.toNat, a.prio2.toNat, a.gmId.toNat, a.steps.toNat]

/-- An Announce: the port's best transmitter, then the port that wins (R39). A port that gets no Sync does not win, and one that
takes over from a port without a transmitter does so at its next Sync, but for the first selection in FREE. -/
def Dev.ptpAnnounce (p : Port) (h : PtpHdr) (a : Announce) (s : Dev) : Dev :=
  if !s.ptpTakes p h (-3) 3 then s
  else
    let a := { a with parent := h.src }
    let take := match (s.ptp p).master with
      | none => true
      | some m => m.parent == a.parent || Config.bmcaBetter (annSet a) (annSet m)
    if !take then s
    else
      let fresh := (s.ptp p).master.isNone
      let s := s.setPtp p (fun x => { x with master := some a, lost := if fresh then false else x.lost })
      let sel := s.selected
      let win := sel != p && !(s.ptp p).lost && (match (s.ptp sel).master with
        | none => s.tbState == 0
        | some m => Config.bmcaBetter (annSet a) (annSet m))
      let s := if win then s.portMove p (s.ptp p).offset else s
      if s.selected = p then
        let s := s.showMaster
        if s.tbState = 0 ∧ s.tbSrc = 0 then s.tbTo 1 else s
      else s

/-- A path-delay measurement completes: half the sum of the two one-way figures (IEEE 1588 11.3 and 11.4; log 7). End-to-end,
t2 and t3 are the port's own stamps; peer-to-peer, t1 and t4. A matching response counts whichever transmitter sent it (DESIGN CHOICE,
log 104). -/
def Dev.ptpDelayResp (p : Port) (h : PtpHdr) (peer : Bool) (seq : BitVec 16) (t1 t2 t3 t4 : Int) (s : Dev) : Dev :=
  let x := s.ptp p
  if s.ptpTakes p h (-128) 127 && peer == s.on F.TB_PTP_CFG_DELAY_MECH && x.reqOut && x.reqSeq == seq then
    let tx (t : Int) : Int := stampFix t (s.rpTxlat p)
    let rx (t : Int) : Int := stampFix t (-s.rpRxlat p)
    let d := if peer then (t2 - tx t1) + (rx t4 - t3) else (rx t2 - t1) + (t4 - tx t3)
    s.setPtp p (fun x => { x with reqOut := false, delay := divRne d 2 })
  else s

/-- An own request goes out, over every transport configured, from the port's own address (07 R163), at most 2^LOG_REQ times a
second (Table 2.1). -/
def Dev.ptpRequest (p : Port) (s : Dev) : Dev :=
  let x := s.ptp p
  let early := x.reqAt.any (fun a => decide (a ≤ s.now) && decide ((s.now - a) * 2 ^ s.rd F.TB_PTP_CFG_LOG_REQ < 1000000))
  if s.ptpOn p && !early then
    let q := x.reqSeq + 1
    let sa := BitVec.ofNat 48 (s.rd (rpFld p F.RPA_MAC_HI) * 2 ^ 32 + s.rd (rpFld p F.RPA_MAC_LO))
    let way := s.rd F.TB_PTP_CFG_TRANSPORT
    let out (udp : Bool) : Tx := .ptpRequest p udp (s.on F.TB_PTP_CFG_DELAY_MECH) (s.on F.TB_PTP_CFG_MCAST_DA) sa
      (BitVec.ofNat 8 (s.rd F.TB_PTP_CFG_DOMAIN)) q
    let s := s.setPtp p (fun x => { x with reqSeq := q, reqOut := true, reqAt := some s.now })
    Dev.when (way != 0) (·.send (out true)) (Dev.when (way != 1) (·.send (out false)) s)
  else s

/-- A port's transmitter is lost: the other port takes over at its next Sync, or the time base enters holdover. -/
def Dev.ptpLost (p : Port) (gone : Bool) (s : Dev) : Dev :=
  let s := s.setPtp p (fun x => { x with lost := true, master := if gone then none else x.master })
  if s.selected ≠ p then
    let s := (s.setPtp p (fun x => { x with offset := none })).showShadow
    if !(s.ptp s.selected).good && s.tbSrc == 0 then s.sourceGone else s
  else if (s.ptp (otherPort p)).good then s
  else if s.tbSrc = 0 then s.sourceGone
  else s

/-! ### Once a second; references (R43, R45 to R47) -/

/-- No Sync in this second. -/
def Dev.uncTick (s : Dev) : Dev :=
  (if s.tbState = 3 then s.setTb (fun t => { t with hoSecs := t.hoSecs + 1, hoAt := s.now }) else s).tbUnc

def refOk : RefIn → Fld
  | .a => F.TB_REF_STAT_A_OK
  | .b => F.TB_REF_STAT_B_OK

def Dev.refUse (s : Dev) : RefIn := if s.on F.TB_STAT_REF then .b else .a

/-- Both PLLs go over to an input (R46): SWITCHING holds until the switch is complete, 2 us later. -/
def Dev.refSwitch (r : RefIn) (s : Dev) : Dev :=
  if s.refUse = r then s
  else (((s.wrB F.TB_STAT_REF (r == .b)).wrB F.TB_REF_STAT_SWITCHING true).setTb (fun t => { t with switchAt := some s.now })).event
    F.TB_EVT_REF_SW

/-- A switch is complete at the second sample strobe after it began. -/
def Dev.switchOver (s : Dev) : Dev :=
  match s.tb.switchAt with
  | some a => if a + 2 ≤ s.now then (s.wrB F.TB_REF_STAT_SWITCHING false).setTb (fun t => { t with switchAt := none }) else s
  | none => s

/-- A reference input is lost. -/
def Dev.refLoss (r : RefIn) (s : Dev) : Dev :=
  if !s.on (refOk r) then s
  else
    let o : RefIn := if r = .a then .b else .a
    let s := (s.wrB (refOk r) false).event (if r = .a then F.TB_EVT_REF_LOST_A else F.TB_EVT_REF_LOST_B)
    if s.on (refOk o) then
      if s.refUse = r then (s.refSwitch o).raise 0x0501 1 (srcWord 5) (if r = .a then 0 else 1) else s
    else
      let s := s.setTb (fun t => { t with refBoth := true, refLost := s.now, refOkSeen := false, refClr := 0 })
      ((s.raise 0x0502 2 (srcWord 5)).wrB F.PM_STAT_F_REF true).pmCheck

/-- An input has gone 1 ms without loss. The growth of R47 ends; in HOLDOVER and REANCHOR what it added
stays. -/
def Dev.refBack (r : RefIn) (s : Dev) : Dev :=
  let grown := s.refGrowth
  let ho := s.tbState == 3
  let an := s.tbState == 5
  let s := s.wrB (refOk r) true
  let s := s.setTb (fun t => { t with refOkSeen := t.refBoth, u0 := if ho then t.u0 + grown else t.u0,
                                      uncE := if an then BitVec.ofNat 32 (min (t.uncE.toNat + grown) 0xFFFFFFFF) else t.uncE })
  let pref : RefIn := if s.on F.TB_CFG_REF_PREF then .b else .a
  if !s.on (refOk s.refUse) || (s.on F.TB_CFG_REF_REVERT && r == pref) then s.refSwitch r else s

/-! ### PPS (R48, R50) -/

/-- A qualified active edge is used: SRC = PPS, or the cross-check. The edge that applies TB_TOD leads out of FREE, unless the
boot gate is closed (16 R362), and out of REANCHOR (R52); in FREERUN and HOLDOVER it leaves the state to the next edge (DESIGN
CHOICE, log 68). -/
def Dev.ppsUse (diff : Int) (s : Dev) : Dev :=
  if s.tbSrc = 1 then
    if s.tb.todArm then
      let s := s.setTb (fun t => { t with todArm := false })
      if s.on F.TB_STAT_STEP_OK then
        let sec := s.rd F.TB_TOD_SEC_LO + 2 ^ 32 * s.rd F.TB_TOD_SEC_HI
        let s := ((s.jump (sec * 1000000000 * 2 ^ 32)).wr F.TB_OFFSET 0).event F.TB_EVT_STEP_DONE
        match s.tbState with
        | 0 => if s.vl.gate then s.tbTo 1 else s
        | 5 => ((s.tbTo 4).tbUnc).enginesOut
        | _ => s
      else s.event F.TB_EVT_STEP_REFUSED
    else s.tbOffset (16 * diff)
  else if s.tbSrc = 0 ∧ s.on F.TB_CFG_PPS_XCHK then
    let s := s.wr F.TB_PPS_DIFF (uns 32 diff)
    if s.rd F.TB_HO_LIMIT < diff.natAbs then
      (s.event F.TB_EVT_PPS_DISAGREE).raise 0x0504 1 (srcWord 5) (uns 32 diff)
    else s
  else s

/-- A deglitched edge; after three good periods edges are used, and after a bad period or an edge of the other polarity not until three
more, while PPS_QUAL stands until PPS_LOST (log 68): which, whether it begins the shorter phase, whether its period is 1 s within 100 us, and its time
against the nearest whole second in ns. -/
def Dev.ppsEdge (falling shorter periodOk : Bool) (diff : Int) (s : Dev) : Dev :=
  let act := if s.on F.TB_PPS_CFG_POL_AUTO then shorter else falling == s.on F.TB_PPS_CFG_POL_FORCE
  if !s.on F.TB_PPS_CFG_IN_EN || !act then s
  else
    let n := if falling = s.tb.ppsCand ∧ periodOk then min 3 (s.tb.ppsCnt + 1) else 0
    let s := s.setTb (fun t => { t with ppsCand := falling, ppsCnt := n })
    if n < 3 then s
    else
      let s := if s.tb.ppsPolKnown && s.on F.TB_STAT_PPS_POL != falling then
          (s.event F.TB_EVT_PPS_POL_CHG).raise 0x0505 0 (srcWord 5)
        else s
      let s := (s.setTb (fun t => { t with ppsPolKnown := true })).wrB F.TB_STAT_PPS_POL falling
      (s.wrB F.TB_STAT_PPS_QUAL true).ppsUse diff

/-- No edge within the period: the input is no longer qualified. -/
def Dev.ppsGone (s : Dev) : Dev :=
  let s := (s.setTb (fun t => { t with ppsCnt := 0 })).wrB F.TB_STAT_PPS_QUAL false
  if s.tbSrc = 1 then s.sourceGone else s

/-- PPS_OUT (R50). -/
def Dev.ppsDrive (rise : Bool) (s : Dev) : Dev :=
  if rise then
    if s.on F.TB_PPS_CFG_OUT_EN && s.tbState != 0 && decide (s.rd F.PM_STAT_STATE < 3) && !s.tb.ppsOut then
      (s.setTb (fun t => { t with ppsOut := true })).send (.pin "PPS_OUT" true)
    else s
  else if s.tb.ppsOut then (s.setTb (fun t => { t with ppsOut := false })).send (.pin "PPS_OUT" false)
  else s

/-! ### Host control (R41, R49, R53) -/

/-- TB_CFG has been written; its SRC before. -/
def Dev.srcWritten (old : Nat) (s : Dev) : Dev :=
  let new := s.rd F.TB_CFG_SRC
  if s.tbState = 5 then
    (match s.tb.srcPend with
      | some o => if o = new then s.setTb (fun t => { t with srcPend := none }) else s
      | none => if old = new then s else s.setTb (fun t => { t with srcPend := some old }))
  else s.srcMove old new

/-- TB_STEP_CTL has been written. -/
def Dev.hostStep (v : Nat) (s : Dev) : Dev :=
  let s := s.stepSync
  if !bit v 0 then s
  else if !s.on F.TB_STAT_STEP_OK then s.event F.TB_EVT_STEP_REFUSED
  else match s.tbSrc with
    | 0 => s.stepBy (sgn 32 (s.rd F.TB_OFFSET))
    | 1 => s.setTb (fun t => { t with todArm := true })
    | _ =>
      let sec := s.rd F.TB_TOD_SEC_LO + 2 ^ 32 * s.rd F.TB_TOD_SEC_HI
      ((s.jump (sec * 1000000000 * 2 ^ 32)).event F.TB_EVT_STEP_DONE).tbTo 6

/-- TB_SNAP_CTL has been written, ns and frac past the microsecond of the last strobe. -/
def Dev.tbSnap (v ns : Nat) (frac : Word) (s : Dev) : Dev :=
  if !bit v 0 then s
  else
    let x := s.tb.ns.toNat / 1000 * 1000 + ns
    ((((s.wr F.TB_SNAP_SEC_LO s.tb.sec.toNat).wr F.TB_SNAP_SEC_HI (s.tb.sec.toNat / 2 ^ 32)).wr F.TB_SNAP_NS x).setReg
      R.TB_SNAP_FRAC frac)

/-- time.status (11 Table 11.7). With no transmitter the parent data set is not stated: free values. -/
def Dev.timeStatus (mb : Nat) (_ : Mbx) (s : Dev) : Dev :=
  let w (o : Nat) : List Byte := toLe 4 (s.reg o).toNat
  let head := w R.TB_STAT ++ w R.TB_UNC ++ w R.TB_OFFSET ++ w R.TB_SHADOW_OFFSET ++ w R.TB_HO_FERR
  let tail := toLe 2 (s.rd F.TB_UTC_OFFSET) ++ toLe 8 s.now
  match (s.ptp s.selected).master with
  | some a =>
    s.ok mb (head ++ toLe 10 a.parent.toNat ++ toLe 8 a.gmId.toNat ++ toLe 4 a.gmQuality.toNat ++
      [a.prio1, a.prio2] ++ toLe 2 a.steps.toNat ++ tail)
  | none =>
    let f := (List.range 4).flatMap (fun i => toLe 8 (Config.freeValue (s.freeCtr + i)).toNat)
    { s with freeCtr := s.freeCtr + 4 }.ok mb (head ++ f.take 26 ++ tail)

/-! ### Time across P3 (R51, R52) -/

/-- At the slow-clock edge, whose time has these NS and FRAC: what P3 does not keep is lost (R324), the steward SRAM with every
command in it among it, and the core goes off. -/
def Dev.slowClock (ns : Nat) (frac : Word) (s : Dev) : Dev :=
  if s.pm.p3 ≠ .halted ∨ s.pm.p4 then s
  else
    let sec := if ns < s.tb.ns.toNat then s.tb.sec.toNat + 1 else s.tb.sec.toNat
    let s := Dev.when s.tb.ppsOut (·.send (.pin "PPS_OUT" false)) s
    let s := s.growthIn.setTb (fun t => { t with
      incE := BitVec.ofNat 64 (s.rd2 R.TB_AON_INC_LO), timeE := (sec * 1000000000 + ns) * 2 ^ 32 + frac.toNat, ticks := 0,
      uncE := s.reg R.TB_UNC, ppsOut := false, pa := { t.pa with pend := none, reqOut := false },
      pb := { t.pb with pend := none, reqOut := false } })
    let b := s.stagedBank
    let s := if s.on F.GL_STAT_STAGED then ((s.setPlan b none).setDescs b []).setCal b [] else s
    let keep := ((if b then s.fs.map0 else s.fs.map1).filterMap (·.2))
    let s := { s with fs := { s.fs with
      slots := s.fs.slots.filter (fun x => keep.contains x.1),
      map0 := if b then s.fs.map0 else [], map1 := if b then [] else s.fs.map1, kept := [] }, le := { s.le with kept := none } }
    let s := { s with de := { s.de with badMap := s.de.badMap.filter (fun x => x.1 != b) }, trc := { s.trc with inbox := [] },
                      st := {}, mbx := [], bm := { s.bm with mem := [] } }
    let s := ((s.wrB F.GL_STAT_STAGED false).fsStat).deFirstUse.staleSync
    let s := s.toState 3
    (s.setPm (fun p => { p with p3 := .off })).coreEn false

/-- inc_w has been measured over 1,024 slow ticks (R51), and TB_AON_INC takes it (log 68): time is re-anchored, and the core comes up (14 R327, R330). Every meter
is as at a plan's first use from this sample on (07 R179), and every lane allowed to train trains anew (03 R79). -/
def Dev.wakeMeasured (incW ticks : Nat) (s : Dev) : Dev :=
  if s.pm.wake ≠ .measuring then s
  else
    let e := ticks * (s.tb.incE.toNat + incW) / 2
    let diff := if s.tb.incE.toNat < incW then incW - s.tb.incE.toNat else s.tb.incE.toNat - incW
    let unc := s.tb.uncE.toNat + ceilDiv (diff * ticks * 128 * 1000000 + s.rd F.TB_AON_PPM * e) (256000000 * 2 ^ 32)
    let us := e / 2 ^ 32 / 1000
    let s := (s.jumpTb (s.tb.timeE + e)).setTb (fun t => { t with uncE := BitVec.ofNat 32 (min unc 0xFFFFFFFF), ticks := ticks })
    let s := { s with de := { s.de with t0 := s.now } }
    let s := ((s.wr2 R.TB_AON_INC_LO incW).tbTo 5).tbUnc
    let s := (s.add64 (R.PM_RES_P_LO 3) us).wr F.PM_RES_FLAGS 1
    let s := Dev.each (List.range 16) (fun s j =>
      if s.evSel j 0x0502 none || s.evSel j 0x1303 none then
        (s.add64 (R.PC_EVCNT_LO j) us).setReg R.PC_EXT (BitVec.ofNat 32 (setBit (s.reg R.PC_EXT).toNat (8 + j)))
      else s) s
    let s := (s.count F.PM_WAKES).wr F.PM_WAKE_STAT_RESULT s.pm.attempt
    let s := (s.event F.PM_EVT_WAKE).powerEv 4 0
    let s := s.setPm (fun p => { p with p3 := .woken, wake := .none })
    let s := Dev.each (List.range 128) (fun s l =>
      if s.rd (F.VL_LSTAT_STATE l) = 7 then (if s.mayTrain l then s.toDetect l else s.wr (F.VL_LSTAT_STATE l) 0) else s) s
    s.pmStep

/-- TB_WAKE_WAIT passes with no offset: the engines are released on the carried time (R52). -/
def Dev.wakeWaitOver (s : Dev) : Dev :=
  if s.pm.p3 ≠ .woken then s
  else
    let s := if s.tbState = 5 then (s.holdover).event F.TB_EVT_WAKE_NOPTP else s
    (s.enginesOut).tbUnc

/-! ### The commands -/

def execPtpSync (p : Port) (h : PtpHdr) (seq : BitVec 16) (twoStep : Bool) (origin rx : Int) (s : State) :
    Host.Outcome State Fault Refusal := s.onDev (Dev.ptpSync p h seq twoStep origin rx)
def execPtpFollowUp (p : Port) (h : PtpHdr) (seq : BitVec 16) (origin : Int) (s : State) :
    Host.Outcome State Fault Refusal := s.onDev (Dev.ptpFollowUp p h seq origin)
def execPtpAnnounce (p : Port) (h : PtpHdr) (a : Announce) (s : State) : Host.Outcome State Fault Refusal :=
  s.onDev (Dev.ptpAnnounce p h a)
def execPtpDelayResp (p : Port) (h : PtpHdr) (peer : Bool) (seq : BitVec 16) (t1 t2 t3 t4 : Int) (s : State) :
    Host.Outcome State Fault Refusal := s.onDev (Dev.ptpDelayResp p h peer seq t1 t2 t3 t4)
def execPtpRequestSend (p : Port) (s : State) : Host.Outcome State Fault Refusal := s.onDev (Dev.ptpRequest p)
def execAnnounceReceiptTimeout (p : Port) (s : State) : Host.Outcome State Fault Refusal := s.onDev (Dev.ptpLost p true)
def execSyncTimeout (p : Port) (s : State) : Host.Outcome State Fault Refusal := s.onDev (Dev.ptpLost p false)
def execTbUncRecompute (s : State) : Host.Outcome State Fault Refusal := s.onDev Dev.uncTick
def execRefLoss (r : RefIn) (s : State) : Host.Outcome State Fault Refusal := s.onDev (Dev.refLoss r)
def execRefUsable (r : RefIn) (s : State) : Host.Outcome State Fault Refusal := s.onDev (Dev.refBack r)
def execPpsEdge (falling shorter periodOk : Bool) (diff : Int) (s : State) : Host.Outcome State Fault Refusal :=
  s.onDev (Dev.ppsEdge falling shorter periodOk diff)
def execPpsOut (rise : Bool) (s : State) : Host.Outcome State Fault Refusal := s.onDev (Dev.ppsDrive rise)
def execPpsLost (s : State) : Host.Outcome State Fault Refusal := s.onDev Dev.ppsGone
def execWakeWaitExpiry (s : State) : Host.Outcome State Fault Refusal := s.onDev Dev.wakeWaitOver
def execTimeStatus (mb : BitVec 3) (s : State) : Host.Outcome State Fault Refusal :=
  s.onDev (Dev.ecs mb.toNat 0x0801 none Dev.timeStatus)
def execP3SlowClock (ns : BitVec 30) (frac : Word) (s : State) : Host.Outcome State Fault Refusal :=
  s.onDev (Dev.slowClock ns.toNat frac)
def execWakeMeasured (incW ticks : BitVec 64) (s : State) : Host.Outcome State Fault Refusal :=
  s.onDev (Dev.wakeMeasured incW.toNat ticks.toNat)

end Sys2Proof.Machine
end

