-- ==== Sys2Proof/Machine/Tune.lean ====
section
/-!
DEFINITION. loop.tune and loop.read (05 R125, R126), and the tuning shadow as it is applied at a frame opening (05 R116,
R119, R121, R123; 04 R100).
-/
namespace Sys2Proof.Machine

/-- The fields that FMASK names, taken from an image (11 R270). -/
def tuned (fm : Nat) (x d : Desc) : Desc :=
  let p {α : Type} (b : Nat) (new old : α) : α := if bit fm b then new else old
  { d with
    wcode := p 0 x.wcode d.wcode, kpSh := p 1 x.kpSh d.kpSh, kiSh := p 2 x.kiSh d.kiSh, kthSh := p 3 x.kthSh d.kthSh,
    tph := p 4 x.tph d.tph, kp := p 5 x.kp d.kp, ki := p 6 x.ki d.ki, kth := p 7 x.kth d.kth, ffBar := p 8 x.ffBar d.ffBar,
    ffCross := p 9 x.ffCross d.ffCross, umin := p 10 x.umin d.umin, umax := p 11 x.umax d.umax, ilim := p 12 x.ilim d.ilim,
    offl := p 13 x.offl d.offl, tstep := p 14 x.tstep d.tstep, thlim := p 15 x.thlim d.thlim, damp := p 16 x.damp d.damp,
    dband := p 17 x.dband d.dband, darkTh := p 18 x.darkTh d.darkTh, slew := p 19 x.slew d.slew }

/-- The loops of a request's map. -/
def tuneLoops (m : Mbx) : List Nat := (List.range 256).filter (fun l => bit (m.fld (8 + l / 8) 1) (l % 8))

/-- What a write does to a descriptor table. -/
def Tune.descs (t : Tune) (ds : Tbl Desc) : Tbl Desc :=
  if t.kind = .write then
    t.loops.foldl (fun ds l => Tbl.mod ds (loopKey t.vat l) (tuned t.fmask.toNat t.img)) ds
  else ds

/-- The descriptors in force as the writes already accepted leave them. -/
def Dev.descsAhead (s : Dev) : Tbl Desc := s.le.tune.foldl (fun ds t => t.descs ds) (s.descsOf (s.on F.GL_STAT_BANK))

/-- The check of R105 on loop l after a write: of two named loops that share a code the later fails. -/
def tuneCode (p : Plan) (ve : VatEntry) (ds : Tbl Desc) (loops : List Nat) (l : Nat) : Nat :=
  let d := ds.get (loopKey ve.vat l)
  let others := (ds.filter (fun kd => kd.1 != loopKey ve.vat l &&
    !(kd.1 / 256 == ve.vat && loops.contains (kd.1 % 256) && decide (l < kd.1 % 256)))).map (fun kd => (kd.1 / 256, kd.2))
  descCode ve.ntap ve.ndrv d false false (codeShared p.nbrs others d) false

/-- The fields that every operation has: VAT, STATE's reserved bits, FMASK (RANGE), then a plan (NO_PLAN) and its vat. -/
def Dev.tuneVat (s : Dev) (m : Mbx) : Nat ⊕ (Plan × VatEntry) ⊕ Unit :=
  let v := m.fld 1 1
  if 63 < v then .inl 1
  else if 1 < m.fld 2 1 then .inl 2
  else if 2 ^ 20 ≤ m.fld 4 4 then .inl 4
  else match s.plan with
    | none => .inr (.inr ())
    | some p => match p.vats.find? (·.vat == v) with
      | some ve => .inr (.inl (p, ve))
      | none => .inl 1

/-- The common part of loop.tune. -/
def Dev.tuneOp (mb : Nat) (m : Mbx) (act : Plan → VatEntry → Dev → Dev) (s : Dev) : Dev :=
  match s.tuneVat m with
  | .inl o => s.range mb o
  | .inr (.inr _) => s.refuse mb 0x0C02
  | .inr (.inl (p, ve)) => act p ve s

/-- Put a request into the tuning shadow. -/
def Dev.shadow (s : Dev) (t : Tune) : Dev := { s with le := { s.le with tune := s.le.tune ++ [t] } }

def Dev.tuneWrite (mb : Nat) (m : Mbx) (s : Dev) : Dev :=
  s.tuneOp mb m (fun p ve s =>
    let ls := tuneLoops m
    let t : Tune := { kind := .write, mb := mb, vat := ve.vat, loops := ls, fmask := BitVec.ofNat 32 (m.fld 4 4),
                      img := parseDesc m.payload 40 }
    let ds := t.descs s.descsAhead
    let bad := (ls.map (fun l => (tuneCode p ve ds ls l, l))).filter (fun c => c.1 != 0)
    match sortBy (fun (a b : Nat × Nat) => decide (a.1 ≤ b.1)) bad with
    | c :: _ => s.refuse mb c.1 c.2
    | [] => (s.take mb).shadow t)

def Dev.tunePreset (mb : Nat) (m : Mbx) (s : Dev) : Dev :=
  s.tuneOp mb m (fun _ ve s =>
    let ls := tuneLoops m
    let st := bit (m.fld 2 1) 0
    let ds := s.descsAhead
    match ls.find? (fun l => !(ds.get (loopKey ve.vat l)).isCell || ((s.eng s.active).loops.get (loopKey ve.vat l)).st == st) with
    | some l => s.refuse mb 0x0C05 l
    | none => (s.take mb).shadow { kind := .preset, mb := mb, vat := ve.vat, loops := ls, st := st,
                                   val := BitVec.ofNat 40 (m.fld 40 5) })

def Dev.tuneReseed (mb : Nat) (m : Mbx) (s : Dev) : Dev :=
  s.tuneOp mb m (fun _ ve s => (s.take mb).shadow { kind := .reseed, mb := mb, vat := ve.vat, loops := tuneLoops m })

/-! ### At a frame opening -/

/-- The image in force at t(n): that of the latest press committed for then or earlier. -/
def Gl.inForce (g : Gl) (n : Nat) : FormImg :=
  match (g.dec.filter (fun x => x.committed && !x.cancelled && decide (x.m ≤ n))).getLast? with
  | some x => x.img
  | none => g.last

/-- Seed a loop (R123) from the form in force as the frame opens: the press of that instant has taken effect. -/
def Dev.seeded (s : Dev) (v : Nat) (d : Desc) (z : LoopSt) : LoopSt :=
  seedLoop d (cellBit (s.gl.inForce s.le.frame).cells d.idx.toNat) (s.held v) z

/-- Change a loop's state in both engines. -/
def Dev.modLoop (s : Dev) (k : Nat) (f : LoopSt → LoopSt) : Dev :=
  (s.modEng .lea (fun g => { g with loops := g.loops.mod k f })).modEng .leb (fun g => { g with loops := g.loops.mod k f })

/-- The same, with the saturations it makes in each unit that runs (15 Table 15.2). -/
def Dev.modLoopSat (s : Dev) (k : Nat) (f : LoopSt → LoopSt) : Dev :=
  Dev.each [Eng.lea, .leb] (fun s e =>
    let z := satEvents f ((s.eng e).loops.get k)
    let s := s.modEng e (fun g => { g with loops := g.loops.set k z.1 })
    s.satCount e (k / 256) z.2) s

/-- What the engines keep of a loop beside its state ends: dither history, undithered words, UAPP record, press saturation. A seeding at a
plan switch does so and a reseed by loop.tune does not (DESIGN CHOICE: R124 does not say, log 105). -/
def Dev.forget (s : Dev) (k : Nat) : Dev :=
  let f (g : EngSt) : EngSt := { g with dith := g.dith.erase k, recs := g.recs.erase k, useq := g.useq.erase k, pvsat := g.pvsat.erase k }
  { s with le := { s.le with a := f s.le.a, b := f s.le.b } }

/-- The clears of loop.read come first at an opening: a flag that the frame itself sets reads 1 after them (R126, 04 R100). -/
def Dev.clearOpen (s : Dev) : Dev :=
  Dev.each (s.le.tune.filter (fun t => t.kind == .clear)) (fun s t =>
    Dev.each t.loops (fun s l => s.modLoop (loopKey t.vat l) (fun z => { z with aflags := 0, lflags := 0 })) s)
    { s with le := { s.le with tune := s.le.tune.filter (fun t => t.kind != .clear) } }

/-- One operation of the shadow on one loop; was holds the descriptors as they stood before this opening's writes. -/
def Dev.tuneLoop (t : Tune) (x : Dev × Tbl (Option Desc)) (l : Nat) : Dev × Tbl (Option Desc) :=
  let s := x.1
  let k := loopKey t.vat l
  let d := s.descs.get k
  match t.kind with
  | .write => if !d.used then x else (s.setDescsNow (s.descs.mod k (tuned t.fmask.toNat t.img)), if (x.2.get k).isSome then x.2 else x.2.set k (some d))
  | .preset => (s.modLoopSat k (presetLoop d t.st t.val.toInt), x.2)
  | .reseed => (if d.used then s.modLoop k (s.seeded t.vat d) else s, x.2.set k none)
  | .clear => x

/-- A changed cell in F(m - 1) or F(m) takes no tuning (R116). -/
def Dev.tuneWaits (s : Dev) (t : Tune) (n l : Nat) : Bool :=
  let d := s.descs.get (loopKey t.vat l)
  (s.pressCell (n + 1) d).isSome || (s.pressCell n d).isSome

/-- One request at the opening of F(n): its loops but those deferred; it completes when none is left (R125). FIRST is the first
frame in which it reached a loop. -/
def Dev.tuneStep (n : Nat) (x : Dev × Tbl (Option Desc)) (t : Tune) : Dev × Tbl (Option Desc) :=
  let wait := t.loops.filter (x.1.tuneWaits t n)
  let x := (t.loops.filter (fun l => !wait.contains l)).foldl (Dev.tuneLoop t) x
  let some_ := t.loops.isEmpty || decide (wait.length < t.loops.length)
  let first := if t.first = 0 ∧ some_ then n else t.first
  let s := if wait.isEmpty then x.1.ok t.mb (toLe 8 first ++ toLe 8 n)
    else x.1.shadow { t with loops := wait, first := first, last := n }
  (s, x.2)

/-- The descriptors as the shadow's writes leave them in F(n), but for loops that wait. -/
def Dev.tunedDescs (s : Dev) (n : Nat) : Tbl Desc :=
  s.le.tune.foldl (fun ds t => Tune.descs { t with loops := t.loops.filter (fun l => !s.tuneWaits t n l) } ds) s.descs

/-- The tuning shadow at the opening of F(n), with the loops that a bank switch changes in it (enter: the descriptor left, or none for
a seeding): the seedings under the descriptors as they will stand, the requests in arrival order, then one swap per loop that the
switch or they changed (R119). -/
def Dev.tuneOpen (n : Nat) (enter : Tbl (Option Desc)) (s : Dev) : Dev :=
  let ds := s.tunedDescs n
  let seeds := (enter.filter (·.2.isNone)).map (·.1)
  let s := Dev.each seeds (fun s k => (s.modLoop k (s.seeded (k / 256) (ds.get k))).forget k) s
  let x := s.le.tune.foldl (Dev.tuneStep n) ({ s with le := { s.le with tune := [] } }, enter.filter (·.2.isSome))
  Dev.each (x.2.filter (fun kd => !seeds.contains kd.1)) (fun s kd => match kd.2 with
    | some d => s.modLoopSat kd.1 (fun z => if z.mode = .unused then z else changeDesc d (s.descs.get kd.1) z)
    | none => s) x.1

/-! ### loop.read (R126) -/

/-- A field of loop.read out of range, by payload offset. -/
def readBad (m : Mbx) : Option Nat :=
  let n := m.fld 4 2
  if 63 < m.fld 0 1 then some 0 else if 1 < m.fld 1 1 then some 1 else if n = 0 ∨ 50 < n then some 4
  else if 256 < m.fld 2 2 + n then some 2 else none

def Dev.loopRead (mb : Nat) (m : Mbx) (s : Dev) : Dev :=
  let v := m.fld 0 1
  let ls := (List.range (m.fld 4 2)).map (fun q => m.fld 2 2 + q)
  match readBad m with
  | some o => s.range mb o
  | none =>
    if !s.on F.GL_STAT_PLAN then s.refuse mb 0x0C02
    else if !s.planVats.contains v then s.range mb 0
    else
      let out := ls.flatMap (fun l => descBytes (s.le.closedDescs.get (loopKey v l)) ++ stateBytes (s.le.closed.get (loopKey v l)))
      let s := Dev.when (m.fld 1 1 == 1) (·.shadow { kind := .clear, mb := 8, vat := v, loops := ls }) s
      s.ok mb (toLe 8 s.le.closedN ++ out)

def execLoopTuneWrite (mb : BitVec 3) (s : State) : Host.Outcome State Fault Refusal :=
  s.onDev (Dev.ecs mb.toNat 0x0301 (some 0) Dev.tuneWrite)
def execLoopTunePreset (mb : BitVec 3) (s : State) : Host.Outcome State Fault Refusal :=
  s.onDev (Dev.ecs mb.toNat 0x0301 (some 1) Dev.tunePreset)
def execLoopTuneReseed (mb : BitVec 3) (s : State) : Host.Outcome State Fault Refusal :=
  s.onDev (Dev.ecs mb.toNat 0x0301 (some 2) Dev.tuneReseed)
def execLoopRead (mb : BitVec 3) (s : State) : Host.Outcome State Fault Refusal :=
  s.onDev (Dev.ecs mb.toNat 0x0302 none Dev.loopRead)

end Sys2Proof.Machine
end

