-- ==== Sys2Proof/Machine/Frame.lean ====
section
/-!
DEFINITION. The strobes of the sample (01 R14, 02 R35, R37): the opening of a compute frame with what it does to power
state, plan bank, tuning, roles, restarts, presses, stints and the DARK ramp; the phases; the close; the sample strobe.
-/
namespace Sys2Proof.Machine

/-! ### The plan bank (08 R203, 05 R122, R123) -/

/-- The epoch in force at t(n), as bank and epoch number: a pending activation has taken effect from N_act on (R145). -/
def Dev.bankAt (s : Dev) (n : Nat) : Option (Bool × Byte) :=
  if s.on F.GL_STAT_ACT_PEND && decide (s.rd2 R.GL_ACT_LO ≤ n) then
    some (s.stagedBank, BitVec.ofNat 8 (s.rd F.GL_STAT_EPOCH + 1))
  else if s.on F.GL_STAT_PLAN then some (s.on F.GL_STAT_BANK, BitVec.ofNat 8 (s.rd F.GL_STAT_EPOCH))
  else none

/-- A loop is kept (R122). -/
def keeps (d d' : Desc) : Bool :=
  d.used && d.kind == d'.kind && d.tapb == d'.tapb && d.tapx == d'.tapx && d.drv == d'.drv && d.idx == d'.idx

/-- The loops of the new plan that its first frame changes: one that is kept, and that this boundary does not press (R117), with the
descriptor it leaves; one that is seeded, with none. -/
def Dev.entering (old : Tbl Desc) (first : Bool) (n : Nat) (s : Dev) : Tbl (Option Desc) :=
  s.descs.filterMap (fun kd =>
    let d := old.get kd.1
    if !kd.2.used then none
    else if first || !keeps d kd.2 then some (kd.1, none)
    else if (s.pressCell n kd.2).isSome then none else some (kd.1, some d))

/-- The loops of the old plan that the new one does not use stand unused. -/
def Dev.dropLoops (s : Dev) : Dev :=
  let ds := s.descs
  let f (g : EngSt) : EngSt := { g with loops := g.loops.mapAll (fun k x =>
    if (ds.get k).used then x else { x with mode := .unused }) }
  { s with le := { s.le with a := f s.le.a, b := f s.le.b } }

/-- VOPEN selects the bank of the epoch in force at t(n); with it the loops that the switch changes. -/
def Dev.bankOpen (n : Nat) (s : Dev) : Dev × Tbl (Option Desc) :=
  match s.bankAt n with
  | none => (s, [])
  | some (b, ep) =>
    if s.le.inUse && s.le.bank == b && s.le.epoch == ep then (s, [])
    else
      let first := !s.le.inUse
      let old := s.descs
      let s := { s with le := { s.le with inUse := true, bank := b, epoch := ep } }
      let img := match s.on F.GL_STAT_PLAN, s.planBank b with
        | false, some p => s.formImg b p (p.gate.getD 0 {}).form
        | _, _ => s.gl.last
      let s := if first then { s with gl := { s.gl with cur := img, last := img } } else s
      (s.dropLoops, s.entering old first n)

/-- Calibration words that wait reach the bank in use (09 R219). -/
def Dev.calOpen (s : Dev) : Dev :=
  let t := s.le.calPend.foldl (fun (t : Tbl Word) kw => t.set kw.1 kw.2) s.calNow
  ({ s with le := { s.le with calPend := [] } }).setCalNow t

/-- TAP runs make their channels stale from an opening to the one after their end (R218, R219). -/
def Dev.tapRunsOpen (s : Dev) : Dev :=
  let rs := (s.cal.runs.filter (fun r => !(r.kind == 4 && r.ended))).map (fun (r : CalRun) =>
    if r.kind = 4 then { r with active := true } else r)
  { s with cal := { s.cal with runs := rs } }

/-! ### Vats at an opening -/

/-- What a vat starts a frame with: nothing received of its sense frame; whether the one before counts (R95): n - 1, in P2 the
last exchanged. -/
def Dev.vatOpen (s : Dev) (v : Nat) : Dev :=
  let last (x : Vat) : Bool := s.inP2 || x.sofN + 1 == s.le.frame
  s.modVat v (fun x => { x with prevOk := last x && (x.sof.map (fun b => !b.held)).getD false, sof := none, segs := [],
                                copies := [], status := none, efltPend := false })

/-- A HOLD of reason 2 or 3 has its loops wait in RESTART from the frame whose drive applies at EFF (R77); a vat regarded as
held, from the next frame. -/
def Dev.holdOpen (n : Nat) (s : Dev) (v : Nat) : Dev :=
  match (s.vat v).holdEff with
  | some e => if e ≤ n + 1 then (s.modVat v (fun x => { x with holdEff := none })).restartVat v else s
  | none => s

/-- The vat's loops leave RESTART in F(n): its drive is the first to apply at a RELEASE's EFF, or applies after it. -/
def Dev.restarts (s : Dev) (n v : Nat) : Bool :=
  match (s.vat v).relEff with
  | some e => decide (e ≤ n + 1)
  | none => !s.held v && (s.vat v).holdEff.isNone

/-- The restart of one loop in one engine (R124): from UAPP, or from its seeded output; counts the loops without a UAPP. A
FROZEN loop of a held vat has gone to RESTART at this opening (R107). -/
def Dev.restartLoop (e : Eng) (v : Nat) (x : Dev × List Nat) (ld : Nat × Desc) : Dev × List Nat :=
  let s := x.1
  let k := loopKey v ld.1
  let st := (s.eng e).loops.get k
  if st.mode ≠ .restart ∧ ¬(st.mode = .frozen ∧ s.held v) then x
  else
    let named := (s.eng e).useq.get k == some (s.vat v).aseq
    let never := (s.vat v).never
    let spv (z : LoopSt) : LoopSt := if ld.2.isPort && s.le.darkRel.contains v then { z with spv := false } else z
    let z := satEvents (restartOf ld.2 (!never && named)) st
    ((s.modEng e (fun g => { g with loops := g.loops.set k (spv z.1) })).satCount e v z.2,
     if never || named then x.2 else x.2 ++ [ld.1])

/-- The restart of a vat in engine e; the active engine reports loops without a UAPP (NO_UAPP). -/
def Dev.restartEng (v : Nat) (s : Dev) (e : Eng) : Dev :=
  let r := (loopsOf s.descs v).foldl (Dev.restartLoop e v) (s, [])
  if r.2.isEmpty || e != s.active then r.1
  else r.1.raise (256 * engBlock e + 3) 1 (srcWord (engBlock e) v) (65536 * r.2.length + r.2.foldl min 255)

/-- Both engines restart the vat's loops that wait. -/
def Dev.restartOpen (n : Nat) (s : Dev) (v : Nat) : Dev :=
  if s.restarts n v then
    let s := Dev.each [Eng.lea, .leb] (fun s e => s.restartEng v e) s
    { s with le := { s.le with darkRel := s.le.darkRel.filter (· != v) } }
  else s

/-! ### GL at an opening (06 R143, R113; 03 R72) -/

/-- Slot k is committed. -/
def Dev.commitMark (s : Dev) (k : Nat) : Dev :=
  { s with gl := { s.gl with dec := s.gl.dec.map (fun (z : Slot) => if z.k = k then { z with committed := true } else z) } }

/-- F(m - 2) opens: the slot is committed unless it was cancelled; a hard inhibit that has come cancels the press. -/
def Dev.commitSlot (n : Nat) (s : Dev) (x : Slot) : Dev :=
  if x.m ≠ n + 2 ∨ x.cancelled ∨ x.committed then s
  else
    match (List.range 8).find? (fun b => decide (2 ≤ b) && bit (s.rd glInh) b) with
    | some b => if x.nochg then s.commitMark x.k else s.cancelSlot b x
    | none =>
      let s := s.commitMark x.k
      if x.nochg then s else (s.pcClock 0x0B02).pcClock 0x0B03 x.changed.length

def Dev.commitOpen (n : Nat) (s : Dev) : Dev := let s := s.glSync; Dev.each s.gl.dec (Dev.commitSlot n) s

/-- The image whose drive applies at t(n + 1): that of the latest press committed for then or earlier (R113). The first slot of a
new plan governs from the frame that runs under its epoch, for no loop uses a target of one plan with taps taken under the other (01
R27 against R113: log 96). -/
def Gl.curAt (g : Gl) (n : Nat) (ep : Byte) : FormImg :=
  match (g.dec.filter (fun x => x.committed && !x.cancelled && decide (x.m ≤ n + 1) &&
      (decide (x.m ≤ n) || x.epoch == ep))).getLast? with
  | some x => x.img
  | none => g.last

/-- GL lets a slot go once its press has been checked, and keeps the image of the last committed one. -/
def Gl.prune (g : Gl) (n : Nat) : Gl :=
  match (g.dec.filter (fun x => decide (x.m + 2 < n) && x.committed && !x.cancelled)).getLast? with
  | some x => { g with last := x.img, lastK := x.k, dec := g.dec.filter (fun y => decide (n ≤ y.m + 2)) }
  | none => { g with dec := g.dec.filter (fun y => decide (n ≤ y.m + 2)) }

def Dev.pressOpen (n : Nat) (s : Dev) : Dev :=
  { s with gl := ({ s.gl with cur := s.gl.curAt n s.le.epoch }).prune n }

/-- The vats whose sense frame of F(n) must report the press of n - 1 (R25, R72). -/
def Dev.checkOpen (n : Nat) (s : Dev) : Dev :=
  match s.presses.find? (fun x => x.m + 1 == n && !x.changed.isEmpty) with
  | some x => Dev.each (s.framePlan.map (·.vats) |>.getD []) (fun s ve =>
      if (s.vatPress x.m ve.vat).isEmpty then s else s.modVat ve.vat (fun y => { y with checkPa := some x.k })) s
  | none => s

/-! ### Stints at an opening (09 R222, R224) -/

/-- Loops of a stint in a mode go to another, in both engines. -/
def Dev.stintMode (t : Stint) (a b : Mode) (s : Dev) : Dev :=
  Dev.each t.cells (fun s l => s.modLoop (loopKey t.vat l) (fun x => if x.mode = a then { x with mode := b } else x)) s

/-- One stint: it enters at F(m) with ST = TSTATE, its cells are turned while it lasts, it is over at F(m'). -/
def Dev.stintOpen (n : Nat) (s : Dev) (t : Stint) : Dev :=
  let s := if t.entered = some n then
      Dev.each t.cells (fun s l => s.modLoop (loopKey t.vat l) (fun x => { x with st := t.tstate }))
        ((s.event F.CAL_EVT_TURN_ENTER).count F.CAL_TURNS)
    else s
  if (t.exitM.map (fun m => decide (m ≤ n))).getD false then
    ((s.stintMode t .turn .run).event F.CAL_EVT_TURN_EXIT).stintOver t
  else if t.turned n then s.stintMode t .run .turn
  else s

/-- Sweeps step on, but for those the safe state holds with the fabric (R224; log 32). -/
def Dev.stintsAdvance (n : Nat) (s : Dev) : Dev :=
  { s with cal := { s.cal with stints := s.cal.stints.map (fun (t : Stint) => t.advance n (s.fc.latch || s.held t.vat)) } }

/-! ### The DARK ramp (13 R311) -/

/-- One loop of a vat that is not held: at the first opening it goes to DARKSAFE, and in each it steps. -/
def darkLoop (d : Desc) (step : Nat) (x : LoopSt) : LoopSt :=
  let x := if x.mode = .run then { x with mode := .darksafe, pv := x.uhold } else x
  if x.mode = .darksafe then darkStep d step x else x

/-- A DARKSAFE word stands at its limit. -/
def darkAtLim (d : Desc) (x : LoopSt) : Bool := x.mode != .darksafe || x.pv == (if d.attdir then d.umax else d.umin)

/-- The ramp's step in F(n); when every word stands at its limit, HOLD goes out for t(n + 2). -/
def Dev.darkOpen (n : Nat) (s : Dev) : Dev :=
  match s.framePlan with
  | some p =>
    if s.rd F.FC_STAT_SAFE ≠ 2 ∨ s.le.darkDone.isSome then s
    else
      let ports := p.vats.filter (fun ve => ve.port && !s.held ve.vat)
      let ls := ports.flatMap (fun ve => ((loopsOf s.descs ve.vat).filter (·.2.isPort)).map (fun ld => (loopKey ve.vat ld.1, ld.2)))
      let s := Dev.each ls (fun s (kd : Nat × Desc) => s.modLoop kd.1 (darkLoop kd.2 p.darkStep)) s
      let s := { s with le := { s.le with darkN := s.le.darkN + 1 } }
      if ls.all (fun (kd : Nat × Desc) => darkAtLim kd.2 ((s.eng s.active).loops.get kd.1)) then (s.darkHold (n + 2)).event F.FC_EVT_DARK_DONE else s
  | none => s

/-! ### The opening -/

/-- What an engine puts out starts over with the frame, and so do its programs: phase 0 opens with the frame (08 R195). -/
def Dev.engOpen (s : Dev) : Dev :=
  let f (g : EngSt) : EngSt := { g with words := [], front := [], segs := [], ph := [], pos := [] }
  { s with le := { s.le with a := f s.le.a, b := f s.le.b } }

/-- The opening of a compute frame that runs. -/
def Dev.frameOpen (n : Nat) (s : Dev) : Dev :=
  let s := s.pcOpen.engOpen
  let s := Dev.each (List.range 64) Dev.vatOpen s
  let s := Dev.each (List.range 64) (Dev.holdOpen n) s
  let x := (((s.commitOpen n).calOpen).clearOpen).bankOpen n
  let s := ((x.1.twOpen n).tapRunsOpen).tuneOpen n x.2
  let s := Dev.each (List.range 64) (Dev.restartOpen n) s
  let s := Dev.each s.cal.stints (Dev.stintOpen n) ((s.checkOpen n).pressOpen n)
  let s := s.stintsAdvance n
  let s := (s.darkOpen n).openLoops n
  Dev.each ((s.framePlan.map (·.vats)).getD []) (fun s ve => s.issueBoth ((s.prog ve.vat).noTaps 0) ve) s

/-- The frame strobe at t(n) - 80 ns: F(n) for the sample after that of the latest sample strobe. In P2 only every 16th
frame runs, and none while the engines stand (R107); the commit point of a slot comes all the same (R142). -/
def Dev.frameStrobe (s : Dev) : Dev :=
  if !s.coreUp then s
  else
    let n := s.now + 1
    let s := s.pmFrame n
    let runs := s.frameRuns n
    let s := { s with le := { s.le with frame := n, isOpen := runs } }
    if runs then s.frameOpen n else s.commitOpen n

/-- The phase check of R209 at the strobe of phase p: the engines in service whose phase before p has not issued its last operation.
An engine without a clock opens no phase. -/
def Dev.phaseLate (s : Dev) (p v : Nat) : List Eng :=
  (s.inServiceOf v).filter (fun e => decide (((s.eng e).ph.get v) + 1 < p) || (s.eng e).dead.contains v)

/-- The phase strobe that opens phase p of vat v's program (08 R195): the phase before it issues its last operation, and p opens;
where it has not opened, the check of R209 fails and the frame is withheld. -/
def Dev.phaseStrobe (v p : Nat) (s : Dev) : Dev :=
  match (s.framePlan.map (·.vats)).getD [] |>.find? (·.vat == v) with
  | none => s
  | some ve =>
    if !s.le.isOpen || p = 0 || decide ((s.prog v).phases.length ≤ p) then s
    else
      let late := s.phaseLate p v
      let s := if late.isEmpty then s else (s.overrun v (256 * (p - 1)) late).abortFrame v
      Dev.each [Eng.lea, .leb] (fun s e => if s.unitRuns e v && decide ((s.eng e).ph.get v < p) then s.phaseIn p ve e else s) s

/-! ### The close (10 R242) -/

/-- Sense segments of a frame with n tap channels (03 R64). -/
def senseSegs (ntap : Nat) : Nat := tapSeg (ntap - 1) + 1

/-- A vat at the close of F(n): a sense frame not accepted breaks the runs of R77 and Table 3.14, an EFLT without its status
word is reported with INFO all ones, and a press that no SOF_S confirmed is NO_PRESS (R25). -/
def Dev.vatClose (s : Dev) (ve : VatEntry) : Dev :=
  let v := ve.vat
  let s := Dev.each [2 * v, 2 * v + 1] (fun s l => if (s.lane l).doubt.isSome then s.sofReject l else s) s
  let x := s.vat v
  let s := if x.sof.isSome then s else s.modVat v (fun x => { x with acc := 0, heldRun := 0 })
  let s := Dev.when x.efltPend (fun s => (s.modVat v (fun x => { x with efltPend := false })).raise 0x0616 1 (srcWord 6 v) 0xFFFFFFFF) s
  let s := match x.checkPa with
    | some k => (s.modVat v (fun x => { x with checkPa := none })).noPress v k
    | none => s
  (s.pcFrame 0x0604 (senseSegs ve.ntap) (some v)).pcFrame 0x0603 (senseSegs ve.ntap - x.segs.length) (some v)

/-- The press of n - 1 has been checked (06 R146): misses are counted and reported, and the slot's PRESS record goes out. -/
def Dev.pressClose (n : Nat) (s : Dev) : Dev :=
  let miss := match s.gl.pchk with
    | some (m, k, _, v) => if m + 1 = n then (k, v) else (0, 0)
    | none => (0, 0)
  let s := { s with gl := { s.gl with pchk := none } }
  let s := if miss.1 = 0 then s
    else
      let s := ((s.count F.GL_PMISS).count F.GL_PMISS_CELLS miss.1).event F.GL_EVT_PMISS
      s.raise 0x0B01 0 (srcWord 11) (65536 * miss.2 + miss.1)
  Dev.each (s.gl.dec.filter (fun x => x.m + 1 == n && !x.cancelled)) (fun s x => s.pressTrace x false miss.1) s

/-- What a read through T1 or T2 returns from now on (R10): descriptors and loop states as of this close. -/
def Dev.closeRead (s : Dev) : Dev :=
  { s with le := { s.le with closed := (s.eng s.active).loops, closedDescs := s.descs, closedN := s.le.frame } }

/-- A TAP run's measurement takes the raw code of each channel of an accepted segment of its vat's sense frame (09 R218). -/
def Dev.tapCount (s : Dev) : Dev :=
  let n := s.le.frame
  let take (r : CalRun) : CalRun :=
    let v := r.target - 256
    let x := s.vat v
    if r.kind = 4 ∧ r.active ∧ !r.ended ∧ x.sof.isSome ∧ x.sofN = n then
      { r with acc := (List.range r.count).foldl (fun t i =>
          if x.segs.contains (tapSeg (r.first + i)) then t.mod i (tapTake r.nsamp (s.vl.taps.get (chKey v (r.first + i))).toNat) else t) r.acc }
    else r
  { s with cal := { s.cal with runs := s.cal.runs.map take } }

/-- The flag summaries of every vat in each engine that runs it, at the close (04 R101, 05 R127, 01 R10); those of a vat that the
plan leaves out sum no loop. -/
def Dev.closeSums (s : Dev) : Dev :=
  Dev.each (List.range 64) (fun s v =>
    Dev.each [Eng.lea, Eng.leb] (fun s e => if s.runs e v then s.flagSums e v else s) s) s

/-- The close of F(n). -/
def Dev.frameClose (s : Dev) : Dev :=
  if !s.le.isOpen then s
  else
    let vs := (s.framePlan.map (·.vats)).getD []
    let s := Dev.each vs (fun s ve => s.finishVat ve) s
    let s := Dev.each vs Dev.vatClose s.tapCount.closeSums
    let s := ((s.twClose).pressClose s.le.frame).closeRead
    { s.pcCloseFrame with le := { s.pcCloseFrame.le with isOpen := false } }

/-! ### The sample strobe -/

/-- Fewest and most whole core clocks of a microsecond (02 R35): 0.5 % spread downward, 60 ppm. -/
def clockSpan (op : Nat) : Nat × Nat := match op with
  | 0 => (1243, 1251)
  | 1 => (994, 1001)
  | _ => (621, 626)

/-- PM and PC at a strobe (14 R330, 15 Table 15.2). The core clocks of the microsecond are not stated: free in their
bounds. -/
def Dev.strobeCounts (s : Dev) : Dev :=
  let st := s.rd F.PM_STAT_STATE
  let op := s.rd F.PM_STAT_OP
  let c := clockSpan op
  let k := c.1 + s.free.toNat % (c.2 - c.1 + 1)
  let s := ((s.useFree.pcClock 0x0502).pcClock 0x1303).pcClock 0x1301 k
  if st < 3 then (s.add64 (R.PM_RES_P_LO st) 1).add64 (R.PM_RES_OP_LO op) 1 else s

/-- TOS on every lane in TIME or ACTIVE (03 R73), in P2 for n mod 4 = 0 (R78); residue is the stamp past t(n) in 1/256 ns, to which
the lane's transmit latency is added (09 R216). -/
def Dev.sendTos (n residue : Nat) (s : Dev) : Dev :=
  if s.inP2 && n % 4 != 0 then s
  else
    let valid := [2, 3, 4, 6].contains (s.rd F.TB_STAT_STATE)
    Dev.each (List.range 128) (fun s l =>
      if [5, 6].contains (s.rd (F.VL_LSTAT_STATE l)) then
        let t := residue + s.rd (F.CAL_LTXLAT l)
        s.send (.tos l (BitVec.ofNat 40 (1000 * n + t / 256)) (BitVec.ofNat 8 (t % 256)) (BitVec.ofNat 16 (s.rd (F.VL_LDLY_DN l)))
          (BitVec.ofNat 16 n) valid)
      else s) s

/-- At a RELEASE's EFF the vat stops reading as held (R77); an EIC_NOT_APPLYING then waits for its sense frame (R308). -/
def Dev.releaseAt (n : Nat) (s : Dev) (v : Nat) : Dev :=
  match (s.vat v).relEff with
  | some e =>
    if e ≤ n then (s.modVat v (fun x => { x with relEff := none, relDone := bit (s.rd2 R.FC_EICNA_LO) v })).setHeld v false
    else s
  | none => s

/-- At the EFF of the HOLD that ends a DARK ramp every vat is held (R310). -/
def Dev.darkAt (n : Nat) (s : Dev) : Dev :=
  match s.le.darkDone with
  | some e => if e ≤ n then s.darkHeld else s
  | none => s

/-- TB_AON_INC holds the slow clock's increment that TB measures while the core runs (02 R51). -/
def Dev.aonInc (inc : Option (BitVec 64)) (s : Dev) : Dev := match inc with
  | some v => s.wr2 R.TB_AON_INC_LO v.toNat
  | none => s

/-- The sample strobe at t(n), in P0 to P2 and until the core stops in P3's entry (14 R325, R330): time, counters, TOS, what takes
effect at this apply instant, the end of a reference switch (02 R46), engines that a wake has kept waiting for the core's point
(14 R327), and the start of a chooser run being fixed (14 R321). Each strobe carries the next sample index of the time as it stands, so
that after a step back indexes are strobed again (DESIGN CHOICE, log 104). -/
def Dev.sampleStrobe (residue : Nat) (inc : Option (BitVec 64)) (s : Dev) : Dev :=
  if s.rd F.PM_STAT_STATE = 4 ∨ s.unclocked then s
  else
    let n := s.now + 1
    let s := (((s.setTime (n * 1000 * 2 ^ 32)).aonInc inc).svcTick).strobeCounts
    let s := (Dev.each (List.range 64) (Dev.releaseAt n) (s.sendTos n residue)).glSync
    let s := (s.darkAt n).switchOver
    let s := if s.pm.p3 = .woken ∧ s.tbState ≠ 5 ∧ s.pm.opTgt.isNone then s.enginesOut else s
    s.chooserFix

/-! ### The commands -/

def execFrameStrobe (s : State) : Host.Outcome State Fault Refusal := s.onDev Dev.frameStrobe
def execPhaseStrobe (v : BitVec 6) (p : BitVec 3) (s : State) : Host.Outcome State Fault Refusal :=
  s.onDev (Dev.phaseStrobe v.toNat p.toNat)
def execFrameClose (s : State) : Host.Outcome State Fault Refusal := s.onDev Dev.frameClose
def execSampleStrobe (residue : BitVec 32) (aonInc : Option (BitVec 64)) (s : State) : Host.Outcome State Fault Refusal :=
  s.onDev (Dev.sampleStrobe residue.toNat aonInc)

end Sys2Proof.Machine
end

