-- ==== Sys2Proof/Machine/Load.lean ====
section
/-!
DEFINITION. Staging, editing and activating plans: plan.load (08 R204 to R207), form.write (06 R148, R149), plan.activate
and its cancel (06 R150, R151), and what N_act does (06 R151, R153; 07 R181).
-/
namespace Sys2Proof.Machine

/-! ### The staged plan -/

/-- The form map of a bank. -/
def Fs.mapOf (f : Fs) (b : Bool) : Tbl (Option Nat) := if b then f.map1 else f.map0

def Fs.setMap (f : Fs) (b : Bool) (m : Tbl (Option Nat)) : Fs := if b then { f with map1 := m } else { f with map0 := m }

/-- Empty a bank: map, plan, descriptors, calibration, and the demand words marked in it. -/
def Dev.clearBank (s : Dev) (b : Bool) : Dev :=
  let s := ((s.setPlan b none).setDescs b []).setCal b []
  { s with fs := s.fs.setMap b [], de := { s.de with badMap := s.de.badMap.filter (fun x => x.1 != b) } }

/-- plan.load first discards any staged plan (R207). -/
def Dev.discardStaged (s : Dev) : Dev :=
  if s.on F.GL_STAT_STAGED then ((s.clearBank s.stagedBank).wr F.GL_STAT_STAGED 0).fsStat else s

/-- The plan before the one in force is not retired yet (01 R26): where a staged plan takes its bank, its descriptors, programs and
slots are kept until then. -/
def Dev.keepOld (s : Dev) : Dev :=
  let b := s.stagedBank
  match s.planBank b with
  | some p =>
    if s.gl.retireAt.isSome && s.le.kept.isNone && !s.on F.GL_STAT_STAGED then
      { s with le := { s.le with kept := some { bank := b, plan := p, descs := s.descsOf b, cal := s.calOf b } },
               fs := { s.fs with kept := (s.fs.mapOf b).filterMap (·.2) } }
    else s
  | none => s

/-- Put a plan into the staged bank under a form map: its demand words are rewritten with it (07 R183). -/
def Dev.stagePlan (s : Dev) (p : Plan) (m : Tbl (Option Nat)) : Dev :=
  let b := s.stagedBank
  let s := s.keepOld
  let s := ((s.setPlan b (some p)).setDescs b p.descs).setCal b p.cal
  (((({ s with fs := s.fs.setMap b m, de := { s.de with badMap := s.de.badMap.filter (fun x => x.1 != b) } }).bmWipe 0).bmWipe
    3).wr F.GL_STAT_STAGED 1).fsStat

/-- Write a form into a slot unless it shares one of the bank in force (R133); a written slot is no longer BAD (R134). -/
def Fs.writeSlot (f : Fs) (slot : Nat) (shared : Bool) (by_ : List Byte) : Fs :=
  if shared then f else { f with slots := f.slots.set slot { bytes := by_, bad := false } }

/-! ### plan.load -/

/-- The request goes out: from host memory through M3, or to a plan record. A conflict or a pending activation refuses it
(R207, R269); a load that is refused reads no image. -/
def Dev.planLoad (mb : Nat) (m : Mbx) (s : Dev) : Dev :=
  if s.on F.GL_STAT_ACT_PEND then s.finish mb 2 0x0A01 0xFFFFFFFF (({ code := 0x0A01 } : LoadErr).bytes 0)
  else if m.conflict then s.refuse mb 0x0C01
  else
    let s := (s.discardStaged).take mb
    if m.fld 0 1 = 0 then s.send (.hostRead (BitVec.ofNat 64 (m.fld 8 8)) (m.fld 4 4)) else s

/-- The bytes the loader has read: LEN of them, or none (0x0A02). A plan record shorter than the request's LEN answers 0x0A02 too,
and of a longer one the loader takes LEN bytes (DESIGN CHOICE, log 79). -/
def Dev.loadBytes (s : Dev) (m : Mbx) (image : Option (List Byte)) : Option (List Byte) :=
  let len := m.fld 4 4
  let l := if m.fld 0 1 = 0 then image.getD [] else ((s.nvWin 1472).map (·.payload)).getD []
  if l.length < len ∨ (m.fld 0 1 = 0 ∧ image.isNone) ∨ (m.fld 0 1 ≠ 0 ∧ (s.nvWin 1472).isNone) then none else some (l.take len)

/-- The image has been read and checked: the plan is staged, or the load fails (R204, R205). -/
def Dev.loadDone (image : Option (List Byte)) (s : Dev) : Dev :=
  match s.loadingMb with
  | none => s
  | some mb =>
    let m := s.mbx.get mb
    let s := Dev.when (m.fld 0 1 != 0) (·.nvCheck 1472) s
    match s.loadBytes m image with
    | none => s.loadFail mb { code := 0x0A02 }
    | some im =>
      match s.loadImage im (m.fld 4 4) with
      | .inl e => s.loadFail mb e
      | .inr (p, forms, pl) =>
        let s := s.tapReads im
        let fs := pl.foldl (fun (f : Fs) (x : Nat × Nat × Bool) => f.writeSlot x.2.1 x.2.2 (((forms.find? (·.1 == x.1)).map (·.2)).getD [])) s.fs
        let s := ({ s with fs := fs }).stagePlan p (pl.map (fun (x : Nat × Nat × Bool) => (x.1, some x.2.1)))
        let u := p.topUse
        s.ok mb ((({} : LoadErr).bytes 0) ++ toLe 8 p.planid.toNat ++ [BitVec.ofNat 8 p.opmin, BitVec.ofNat 8 u.1] ++
          toLe 2 u.2.1 ++ toLe 2 u.2.2)

/-! ### form.write (R148, R149) -/

/-- The staged plan, a copy of the plan in force with the same slots where there is none (R148). -/
def Dev.stageCopy (s : Dev) : Dev :=
  if s.on F.GL_STAT_STAGED then s
  else
    match s.plan with
    | some p => s.stagePlan p (s.fs.mapOf (s.on F.GL_STAT_BANK))
    | none => s

/-- Forms of a bank by number. -/
def Dev.bankForms (s : Dev) (b : Bool) : List (Nat × List Byte) :=
  (s.fs.mapOf b).filterMap (fun x => x.2.map (fun q => (x.1, (s.fs.slots.get q).bytes)))

/-- The lowest of the refusal codes that apply, CONFLICT among them (R267). -/
def lowestCode (conflict : Bool) (l : List (Option Nat)) : Option Nat :=
  (l.filterMap id ++ (if conflict then [0x0C01] else [])).foldl (fun a c => match a with
    | some x => some (min x c)
    | none => some c) none

/-- The part that the three operations share: the refusals of R148 and R149 that look at no form, a copy of the plan in
force where nothing is staged, then the operation's codes, or its effect. -/
def Dev.formOp (mb : Nat) (m : Mbx) (codes : Dev → Plan → List (Option Nat)) (act : Plan → Dev → Dev) (s : Dev) : Dev :=
  if s.on F.GL_STAT_ACT_PEND then s.refuse mb 0x0A01
  else
    let t := if m.conflict then s else s.stageCopy
    match (if s.on F.GL_STAT_STAGED then s.planBank s.stagedBank else s.plan) with
    | none => s.refuse mb ((lowestCode m.conflict [some 0x0C02]).getD 0)
    | some p =>
      match lowestCode m.conflict (codes s p) with
      | some c => t.refuse mb c
      | none => act p t

/-- Forms of the plan that form.write edits: the staged one, or the plan in force it would copy. -/
def Dev.editForms (s : Dev) : List (Nat × List Byte) :=
  s.bankForms (if s.on F.GL_STAT_STAGED then s.stagedBank else s.on F.GL_STAT_BANK)

/-- Forms with number n replaced. -/
def withForm (l : List (Nat × List Byte)) (n : Nat) (by_ : List Byte) : List (Nat × List Byte) :=
  (n, by_) :: l.filter (fun x => x.1 != n)

def Dev.formWrite (form : Option (List Byte)) (mb : Nat) (m : Mbx) (s : Dev) : Dev :=
  let n := m.fld 2 2
  let reads := !s.on F.GL_STAT_ACT_PEND && (s.on F.GL_STAT_STAGED || s.on F.GL_STAT_PLAN)
  let s := Dev.when reads (·.send (.hostRead (BitVec.ofNat 64 (m.fld 8 8)) 6144)) s
  let by_ := form.getD []
  let place (d : Dev) : Option (Nat × Nat × Bool) := (placeForms d.fs d.forceBank d.fs.taken [(n, by_)]).bind List.head?
  let code (c : Nat) : Option Nat := if c = 0 then none else some c
  s.formOp mb m (fun d p =>
      if form.isNone then [some 0x0C03]
      else [code (formCode p.topo.toNat p.descs by_), if (place d).isNone then some 0x0609 else none,
            (gateCode p.gate (withForm d.editForms n by_)).map (·.1)])
    (fun _ d =>
      match place d with
      | some x =>
        let b := d.stagedBank
        let f := d.fs.writeSlot x.2.1 x.2.2 by_
        let d := { d with fs := f.setMap b ((f.mapOf b).set n (some x.2.1)),
                          de := { d.de with badMap := d.de.badMap.filter (fun y => y != (b, n)) } }
        ((d.bmWipe 0).fsStat).ok mb (toLe 2 x.2.1 ++ [if x.2.2 then 1 else 0])
      | none => d)

def Dev.formDelete (mb : Nat) (m : Mbx) (s : Dev) : Dev :=
  let n := m.fld 2 2
  s.formOp mb m (fun d p => [(gateCode p.gate (d.editForms.filter (fun x => x.1 != n))).map (·.1)])
    (fun _ d =>
      let b := d.stagedBank
      (({ d with fs := d.fs.setMap b ((d.fs.mapOf b).set n none) }).fsStat).ok mb [])

def Dev.formRelevel (mb : Nat) (m : Mbx) (s : Dev) : Dev :=
  s.formOp mb m (fun _ _ => [if (levelBad m.payload 8).isSome then some 0x0602 else none])
    (fun p d => (d.setPlan d.stagedBank (some { p with level := levelsAt m.payload 8 })).ok mb [])

/-! ### plan.activate (R150) -/

/-- The durations of the last two entries of a cycle. -/
def lastTwo (g : List GateEntry) : Nat :=
  (g.getD (g.length - 1) {}).dur + (g.getD ((2 * g.length - 2) % g.length) {}).dur

/-- The decision instant of the first new boundary of an activation at n. -/
def Dev.actDecision (s : Dev) (n : Nat) : Int := match s.plan with
  | some p => (n : Int) - lastTwo p.gate
  | none => n

/-- The point the core runs at, OP2 once a pm.set of Park has been accepted: it takes effect first (08 R202, 11 R269). -/
def Dev.opHeading (s : Dev) : Nat := if s.rd F.PM_STAT_REQ = 2 then 2 else s.rd F.PM_STAT_OP

/-- The conditions of R150 that fail, as codes of Table 11.6. Acceptance falls in the sample of the latest sample strobe. -/
def Dev.actCodes (s : Dev) (n : Nat) : List (Option Nat) :=
  let iff (c : Bool) (x : Nat) : Option Nat := if c then some x else none
  let st := if s.on F.GL_STAT_STAGED then s.planBank s.stagedBank else none
  let a := s.rd2 R.GL_ANCHOR_LO
  [iff (s.tbState ≤ 1 || s.tbState == 5) 0x0B01, iff st.isNone 0x0B02,
   (s.plan).bind (fun p => iff (decide (n < a) || (n - a) % p.cyclen != 0) 0x0B03),
   iff (decide (s.actDecision n < (s.now : Int) + 100)) 0x0B04,
   iff (((s.plan).map (fun p => (p.gate.getD (p.gate.length - 1) {}).dur == 2)).getD false ||
        (st.map (fun p => (p.gate.getD 0 {}).dur == 2)).getD false) 0x0B05,
   st.bind (fun p => iff (decide (p.opmin < s.opHeading)) 0x0B06),
   iff (s.on F.GL_STAT_ACT_PEND) 0x0B08]

/-- The response of plan.activate (11 Table 11.7): N_act, the sample of the decision, the epoch. -/
def Dev.actResponse (s : Dev) (n : Nat) : List Byte :=
  toLe 8 n ++ toLe 8 (uns 64 (s.actDecision n)) ++ [BitVec.ofNat 8 (s.rd F.GL_STAT_EPOCH + 1)]

def Dev.planActivate (mb : Nat) (m : Mbx) (s : Dev) : Dev :=
  let n := m.fld 8 8
  match lowestCode m.conflict (s.actCodes n) with
  | some c => s.refuse mb c
  | none =>
    ((((s.wr F.GL_STAT_ACT_PEND 1).wr2 R.GL_ACT_LO n).cmpLoad).ok mb (s.actResponse n)).pmStep

/-- The cancel window of R150 has closed. -/
def Dev.cancelLate (s : Dev) : Bool :=
  let n := s.rd2 R.GL_ACT_LO
  if s.on F.GL_STAT_PLAN then decide (s.actDecision n ≤ s.now) else decide (n ≤ s.now) || decide (n ≤ s.le.frame)

/-- A cancelled activation: a chooser run already begun on the new bank is void (R151 step 1), and the slot at N_act is
that of the old plan's entry 0 again. -/
def Dev.cancelAct (s : Dev) : Dev :=
  let b := s.stagedBank
  let run := (s.de.run.filter (fun r => r.bank == b)).map (·.k)
  let done := if s.gl.decM = s.rd2 R.GL_ACT_LO then s.gl.choice.map (·.k) else none
  let s := (s.wr F.GL_STAT_ACT_PEND 0).wr2 R.GL_ACT_LO 0
  ({ s with gl := { s.gl with voidRun := (run.or done).or s.gl.voidRun, decBank := s.on F.GL_STAT_BANK } }).cmpLoad

/-- The cancel of a pending activation, which its response names. -/
def Dev.planCancel (mb : Nat) (m : Mbx) (s : Dev) : Dev :=
  let c : Option Nat := if !s.on F.GL_STAT_ACT_PEND then some 0x0B07 else if s.cancelLate then some 0x0B04 else none
  match lowestCode m.conflict [c] with
  | some c => s.refuse mb c
  | none => ((s.cancelAct).ok mb (s.actResponse (s.rd2 R.GL_ACT_LO))).pmStep

/-! ### N_act (R151, R153) -/

/-- Slots 0 and 1 of the first activation: the form of entry 0, pressed by no press and announced (R153). Slot 1 is committed at the
opening of F(m - 2) like any other, unless that has come. -/
def Dev.firstSlots (p : Plan) (n : Nat) (s : Dev) : Dev :=
  let b := s.on F.GL_STAT_BANK
  let g0 := p.gate.getD 0 {}
  let i1 := 1 % p.gate.length
  let g1 := p.gate.getD i1 {}
  let img := s.formImg b p g0.form
  let mk (k m e : Nat) (g : GateEntry) (no : Bool) : Slot :=
    { k := k, m := m, entry := e, dur := g.dur, rind := g.rind, demand := g.demand, first := true, nochg := no,
      committed := decide (m ≤ s.le.frame + 2),
      announced := s.announces, epoch := BitVec.ofNat 8 (s.rd F.GL_STAT_EPOCH), img := img }
  let x0 := mk 0 n 0 g0 false
  let x1 := mk 1 (n + g0.dur) i1 g1 true
  let s := { s with gl := { s.gl with
    dec := [x0, x1], last := img, lastK := 0, walking := !s.fc.latch && decide (s.pm.p3 = P3Step.none),
    entry := i1, nextB := n + g0.dur, owed := 0, decK := 2, decEntry := 2 % p.gate.length, decM := n + g0.dur + g1.dur,
    decBank := b, annEp := if s.announces then some (BitVec.ofNat 8 (s.rd F.GL_STAT_EPOCH)) else s.gl.annEp } }
  let s := (((s.wr2 R.GL_SLOT_LO 0).wr F.GL_STAT_ENTRY 0).wr2 R.GL_NEXTB_LO (n + g0.dur)).count F.GL_NOCHG
  let s := (s.wr F.GL_FORM_CUR img.fnum).wrB F.GL_FORM_CUR_NOCHG false
  let s := Dev.when s.gl.walking (·.setCmp 1 { on := true, idx := n }) s
  ((s.formNext).announce x0 p.nin).announce x1 p.nin

/-- GL's position passes to the new gate list: N_act is the boundary of its entry 0 (R137, R151). -/
def Dev.nextSlots (old p : Plan) (n : Nat) (s : Dev) : Dev :=
  let g := s.gl
  let d0 := (p.gate.getD 0 {}).dur
  let i1 := 1 % p.gate.length
  let g := if g.walking then
      if n < g.nextB then { g with nextB := n + d0, entry := i1 } else { g with entry := 0 }
    else { g with owed := g.owed + (walkTo old g.entry g.nextB (n - 1)).1, nextB := n, entry := 0 }
  let k0 := s.rd2 R.GL_SLOT_LO + (if n < s.gl.nextB then 0 else 1)
  let b := s.on F.GL_STAT_BANK
  let g := if g.walking && (decide (g.decM ≤ n) || g.decBank != b) then { g with decK := k0, decEntry := 0, decM := n, decBank := b } else g
  let s := { s with gl := { g with retireAt := some (n + 2) }, le := { s.le with kept := none }, fs := { s.fs with kept := [] } }
  if g.walking then s.wr2 R.GL_NEXTB_LO g.nextB else s

/-- N_act, with its comparator: anchor, epoch and bank switch (R151 step 2), or the first plan takes effect (R153). -/
def Dev.activationSample (s : Dev) : Dev :=
  let n := s.rd2 R.GL_ACT_LO
  if !s.actFires then s
  else
    let b := s.stagedBank
    match s.planBank b with
    | none => s
    | some p =>
      let old := s.plan
      let s := s.setCmp 3 {}
      let s := (((((s.wr F.GL_STAT_PLAN 1).wrB F.GL_STAT_BANK b).wr F.GL_STAT_EPOCH (s.rd F.GL_STAT_EPOCH + 1)).wr
        F.GL_STAT_ACT_PEND 0).wr F.GL_STAT_STAGED 0).wr2 R.GL_ACT_LO 0
      let s := ((s.wr2 R.GL_ANCHOR_LO n).wr F.GL_CYCLEN p.cyclen).wr F.GL_NENT p.gate.length
      let s := if p.pchkTh = 0 then s else s.wr F.GL_PCHK_TH p.pchkTh
      let s := { s with fc := { s.fc with actSince := true } }
      let s := ((((s.deActivate p).staleSync).abortInj).abortRuns (fun r => r.kind == 4)).abortCaps (fun _ => true)
      let s := match old with
        | some o => s.nextSlots o p n
        | none => s.firstSlots p n
      let s := (s.event F.GL_EVT_ACTIVATED).stepSync
      (if s.gl.walking || s.fc.latch || decide (s.pm.p3 ≠ P3Step.none) then s.cmpLoad else s.resume n).glSync

/-! ### The commands -/

def execPlanLoad (mb : BitVec 3) (s : State) : Host.Outcome State Fault Refusal :=
  s.onDev (Dev.ecs mb.toNat 0x0101 none Dev.planLoad)
def execPlanLoadDone (image : Option (List Byte)) (s : State) : Host.Outcome State Fault Refusal :=
  s.onDev (Dev.loadDone image)
def execFormWrite (mb : BitVec 3) (form : Option (List Byte)) (s : State) : Host.Outcome State Fault Refusal :=
  s.onDev (Dev.ecs mb.toNat 0x0201 (some 0) (Dev.formWrite form))
def execFormDelete (mb : BitVec 3) (s : State) : Host.Outcome State Fault Refusal :=
  s.onDev (Dev.ecs mb.toNat 0x0201 (some 1) Dev.formDelete)
def execFormRelevel (mb : BitVec 3) (s : State) : Host.Outcome State Fault Refusal :=
  s.onDev (Dev.ecs mb.toNat 0x0201 (some 2) Dev.formRelevel)
def execPlanActivate (mb : BitVec 3) (s : State) : Host.Outcome State Fault Refusal :=
  s.onDev (Dev.ecs mb.toNat 0x0102 (some 0) Dev.planActivate)
def execPlanActivateCancel (mb : BitVec 3) (s : State) : Host.Outcome State Fault Refusal :=
  s.onDev (Dev.ecs mb.toNat 0x0102 (some 1) Dev.planCancel)
def execActivationSample (s : State) : Host.Outcome State Fault Refusal := s.onDev Dev.activationSample

end Sys2Proof.Machine
end

