-- ==== Sys2Proof/Machine/Reset.lean ====
section
/-!
DEFINITION. The resets of Table 16.6 but for the host-interface reset (16 R359, R361, R362).
-/
namespace Sys2Proof.Machine

/-- What outlasts every reset: the die's contents and wear, the fuses, the board's levels, and the number of free values
used. -/
def Dev.afterReset (s : Dev) : Dev :=
  { nv := { pages := s.nv.pages, wear := s.nv.wear, jpos := s.nv.jpos, fuseRb := s.nv.fuseRb },
    pins := { s.pins with resetN := false, coreEn := false, corePg := false, offN := true, wakeN := true, faultN := true },
    freeCtr := s.freeCtr }

/-- The AON power-on reset: all but the fuses and the NV die. -/
def Dev.aonReset (s : Dev) : Dev := s.nvAbandon.afterReset.send (.pin "CORE_EN" false)

/-- The engine that TW_CFG.PREF names is active after a reset, the other is its standby (10 R238, log 82). -/
def Dev.rolesBy (pref : Bool) (s : Dev) : Dev := if pref then (s.wr F.TW_STAT_ROLE_A 2).wr F.TW_STAT_ROLE_B 1 else s

/-- RESET_N low, or a rail's supervisor: an erase or program is abandoned, and all outside the AON domain is reset. AON keeps
the lines latched with their sample index, a pending shut-down record, the event pending buffer, and a wake fault with its
pin, which the host clears (14 R328). In P4 the pending buffer is lost (11 R275). -/
def Dev.resetLow (s : Dev) : Dev :=
  let s := s.nvAbandon
  let t := s.afterReset
  let keep (f : Fld) (d : Dev) : Dev := d.wr f (s.rd f)
  let off := s.rd F.PM_STAT_STATE == 4
  let t := (Dev.when (!off) (fun t => keep F.EVQ_PENDING (keep F.EVQ_PEND_DROP t)) t).rolesBy (s.on F.TW_CFG_PREF)
  let t := keep F.NV_STAT_AON_PENDING (keep F.PM_STAT_WAKEFLT (keep F.PM_EVT_WAKE_FAULT t))
  ({ t with nv := { t.nv with aon := s.nv.aon },
            evq := if off then {} else { pend := s.evq.pend, pendDrop := s.evq.pendDrop },
            fc := { lines := s.fc.lines.filter (fun x => x.at_.isSome) },
            pins := { t.pins with faultN := s.pins.faultN } }).send (.pin "CORE_EN" false)

/-- RESET_N rises: the AON domain drives CORE_EN high, and PM writes the voltage of OP2, which it confirms (Table 16.7, R322). The
core runs once the supply and the clocks are ready: the steps of a wake (log 83). -/
def Dev.resetHigh (s : Dev) : Dev :=
  if s.pins.resetN then s
  else
    { (((s.send (.pin "CORE_EN" true)).send (.avsWrite (s.opv 2))).setPm
        (fun p => { p with p3 := .boot, wake := .supply, avsTgt := some 2, avsLast := 2 })) with
      pins := { s.pins with resetN := true, coreEn := true } }

/-- DBG_TRST_N, which a pull-down holds low (16 R369): while low the debug port is in reset, and M5 drains (12 R296). -/
def Dev.trst (low : Bool) (s : Dev) : Dev :=
  Dev.when low (Dev.masterReset 5) { s with pins := { s.pins with trstN := !low } }

/-- A reset of the whole block: mailbox memory starts empty again (log 6). -/
def State.resetBy (f : Dev → Dev) (s : State) : State := { s with dev := f s.fresh.dev, mem := [] }

/-! ### The commands -/

def execAonPowerOnReset (s : State) : Host.Outcome State Fault Refusal := .next (s.resetBy Dev.aonReset)
def execResetN (high : Bool) (s : State) : Host.Outcome State Fault Refusal :=
  .next (if high then s.fresh.mapDev Dev.resetHigh else s.resetBy Dev.resetLow)
def execSupervisor (aon : Bool) (s : State) : Host.Outcome State Fault Refusal :=
  .next (s.resetBy (if aon then Dev.aonReset else Dev.resetLow))
/-- No other reset masks this pin (Table 16.6). -/
def execDbgTrstN (low : Bool) (s : State) : Host.Outcome State Fault Refusal := .next (s.fresh.mapDev (Dev.trst low))

end Sys2Proof.Machine
end

