-- ==== Sys2Proof/Machine/RegIo.lean ====
section
/-!
DEFINITION. Register accesses (00 R6 to R8, 11 R263, R265): what a write of each register does, block by block, the mailbox
areas and the MSI-X table, reads, and the commands that write one register.
-/
namespace Sys2Proof.Machine

/-! ### Writes, block by block, once the privilege is given -/

/-- An MSI-X table entry is written (R278): a vector that is unmasked fires when its PBA bit is set. The PBA is read-only. -/
def Dev.msixWrite (off v : Nat) (s : Dev) : Dev :=
  if 0x1400 ≤ off then s
  else if off % 16 = 12 then
    let s := s.setReg off (BitVec.ofNat 32 (v % 2))
    if bit v 0 then s else s.unmask ((off - 0x1000) / 16)
  else s.setReg off (BitVec.ofNat 32 v)

/-- HIF (R264; RESTART is State.write's). -/
def Dev.putHif (off v : Nat) (s : Dev) : Dev :=
  let w := BitVec.ofNat 32 v
  if off = R.HIF_SVC_CODE_LO then s.svcCodeLo w
  else if off = R.HIF_SVC_CODE_HI then s.svcCodeHi w
  else if off = R.HIF_UNLOCK_LO then s.setHif (fun h => { h with offerLo := w })
  else if off = R.HIF_UNLOCK_HI then s.unlockHi w
  else if off = R.HIF_SVC_CTL then Dev.when (bit v 0) Dev.svcLock s
  else s.store off v

def Dev.putEvq (off v : Nat) (s : Dev) : Dev :=
  let r := (off - 0x20000) / 0x40
  if off = R.EVQ_CFG r ∧ r < 16 then s.evqCfg r v
  else if off = R.EVQ_CI r ∧ r < 16 then s.evqCi r (BitVec.ofNat 32 v)
  else s.store off v

def Dev.putTrc (off v : Nat) (s : Dev) : Dev :=
  let r := (off - 0x30000) / 0x40
  if off = R.TRC_CFG r ∧ r < 8 then s.trcCfg r v
  else if off = R.TRC_CI_HI r ∧ r < 8 then s.trcCi r (BitVec.ofNat 32 v)
  else s.store off v

/-- TB (R41, R42, R49). A snapshot lies between strobes: ns and frac say where. -/
def Dev.putTb (off v ns : Nat) (frac : Word) (s : Dev) : Dev :=
  if off = R.TB_CFG then
    let old := s.rd F.TB_CFG_SRC
    (s.store off v).srcWritten old
  else if off = R.TB_STEP_CTL then s.hostStep v
  else if off = R.TB_SNAP_CTL then s.tbSnap v ns frac
  else s.store off v

/-- VL (R83): AUTO_TRAIN set trains the enabled lanes that are out of reset. -/
def Dev.putVl (off v : Nat) (s : Dev) : Dev :=
  let l := (off - 0x61000) / 0x40
  if off = R.VL_CFG then
    let was := s.on F.VL_CFG_AUTO_TRAIN
    let s := s.store off v
    Dev.when (!was && s.vl.gate) Dev.trainAll s
  else if 0x61000 ≤ off ∧ off = R.VL_LCFG l ∧ l < 128 then
    let was := s.on (F.VL_LCFG_EN l)
    (s.store off v).lcfgWritten l was (bit v 4)
  else s.store off v

/-- A report port's window (07 R157): disabling a port takes it down. -/
def Dev.putRp (p : Port) (off v : Nat) (s : Dev) : Dev :=
  let was := s.on (rpFld p F.RPA_CFG_EN)
  let s := s.store off v
  Dev.when (was && !s.on (rpFld p F.RPA_CFG_EN)) (Dev.portDown p) s

/-- BM_SLICE (12 R295): the effective state changes at once, in step with a change of point in progress. -/
def Dev.putSlice (v : Nat) (s : Dev) : Dev :=
  let s := s.store R.BM_SLICE v
  if s.pm.opTgt.isSome && !s.pointStands then s.pmStep else s.slicePause (s.sliceFor (s.rd F.PM_STAT_OP))

/-- Mask bits of S3 lines, which ignore writes (13 R306). -/
def maskS3 (b : Nat) : Nat :=
  match b with
  | 7 => 0x10
  | 9 => 0x18
  | 18 => 0x02
  | 19 => 0x10
  | 20 => 0x18
  | _ => 0

/-- FC_SAFE_CTL (13 R309, R314): an exit comes before a forced entry of the same write. -/
def Dev.safeCtl (v : Nat) (s : Dev) : Dev :=
  Dev.when (bit v 0) (Dev.force (bit v 2)) (Dev.when (bit v 1) Dev.safeExit s)

/-- FC_CLR (13 R302, R303, R308): the snapshot comes before the clear of the same write. -/
def Dev.fcClr (v : Nat) (s : Dev) : Dev :=
  let s := Dev.when (bit v 2) Dev.hclr (Dev.when (bit v 1) Dev.hsnap (Dev.when (bit v 0) Dev.clrFirst s))
  Dev.when (bit v 4) Dev.clrEict (Dev.when (bit v 3) Dev.clrNopress s)

def Dev.putFc (off v : Nat) (s : Dev) : Dev :=
  let b := (off - 0x120100) / 4
  if off = R.FC_SAFE_CTL then s.safeCtl v
  else if off = R.FC_CLR then s.fcClr v
  else if 0x120100 ≤ off ∧ off = R.FC_MASK b ∧ b < 22 then s.store off (v - (v &&& maskS3 b))
  else s.store off v

/-- The three voltages keep the rules of R319: 650 to 850 mV, none above a faster point's. -/
def opvOk (a b c : Nat) : Bool := [a, b, c].all (fun x => decide (650 ≤ x) && decide (x ≤ 850)) && decide (b ≤ a) && decide (c ≤ b)

/-- PM (14 R319, R328). -/
def Dev.putPm (off v : Nat) (s : Dev) : Dev :=
  let t := s.store off v
  if off = R.PM_OPV_0 ∨ off = R.PM_OPV_1 ∨ off = R.PM_OPV_2 then
    if opvOk (t.rd F.PM_OPV_0) (t.rd F.PM_OPV_1) (t.rd F.PM_OPV_2) then t else s.reservedNote off
  else if off = R.PM_EVT then
    if s.on F.PM_EVT_WAKE_FAULT && !t.on F.PM_EVT_WAKE_FAULT then t.wakeFaultCleared else t
  else t

/-- The thresholds keep the rules of R337; they are s16. -/
def Dev.thOk (s : Dev) : Bool :=
  let x (f : Fld) : Int := sgn 16 (s.rd f)
  decide (x F.TH_RWARN ≤ x F.TH_RTHROT) && decide (x F.TH_RTHROT ≤ x F.TH_RTRIP) && decide (x F.TH_ATHROT < x F.TH_ATRIP) &&
  decide (x F.TH_ATRIP ≤ 0x3C00)

/-- TH (14 R334, R335, R337). -/
def Dev.putTh (off v : Nat) (s : Dev) : Dev :=
  let t := s.store off v
  if off = R.TH_BOARD then t.thBoardWritten v
  else if off = R.TH_FIT_CTL then s.thFitRun v
  else if [R.TH_RWARN, R.TH_RTHROT, R.TH_RTRIP, R.TH_ATHROT, R.TH_ATRIP].contains off then
    if t.thOk then t else s.reservedNote off
  else t

/-- An event counter's selection (15 R349): a pair whose event is not listed, or does not take its VAT, is reserved. -/
def Dev.putEvsel (off v : Nat) (s : Dev) : Dev :=
  if evListed (v % 65536) && evTakes (v % 65536) (v / 65536 % 256) then s.pcSelect off (BitVec.ofNat 32 (v % 2 ^ 24))
  else s.reservedNote off

/-- A bus-port counter's selection (15 R348). -/
def Dev.putBpsel (off v : Nat) (s : Dev) : Dev :=
  match regAt off with
  | some r =>
    let s' := s.pcSelect off (BitVec.ofNat 32 (r.written (s.reg off).toNat v))
    Dev.when (r.reserved v) (Dev.reservedNote off) s'
  | none => s

/-- The selection registers of the PC window. -/
def isSelect (off : Nat) : Bool :=
  (decide (0x150100 ≤ off) && decide (off < 0x150200) && [0, 4, 8].contains ((off - 0x150100) % 0x20)) || isEvsel off
where
  isEvsel (off : Nat) : Bool := decide (0x150200 ≤ off) && decide (off < 0x150400) && (off - 0x150200) % 0x20 == 0

def Dev.putPc (off v : Nat) (s : Dev) : Dev :=
  if off = R.PC_CTL then s.pcCtl v
  else if isSelect off then (if off < 0x150200 then s.putBpsel off v else s.putEvsel off v)
  else s.store off v

/-- What a write of v to the register at off does. -/
def Dev.regPut (off v ns : Nat) (frac : Word) (s : Dev) : Dev :=
  match off / 0x10000 with
  | 0 => s.putHif off v
  | 2 => s.putEvq off v
  | 3 => s.putTrc off v
  | 5 => s.putTb off v ns frac
  | 6 => s.putVl off v
  | 9 => if off = R.TW_CTL then s.twCtl v else s.store off v
  | 11 => if off = R.GL_CTL then (s.store off v).glSync else s.store off v
  | 12 => if off = R.DE_CFG then (s.store off v).staleSync else s.store off v
  | 13 => s.putRp .rpa off v
  | 14 => s.putRp .rpb off v
  | 17 => if off = R.BM_SLICE then s.putSlice v else s.store off v
  | 18 => s.putFc off v
  | 19 => s.putPm off v
  | 20 => s.putTh off v
  | 21 => s.putPc off v
  | _ => s.store off v

/-- A write through an aperture or by a master. A reserved offset ignores it (R7). -/
def Dev.regWriteAt (via : Via) (off v ns : Nat) (frac : Word) (s : Dev) : Dev :=
  if 0x1000 ≤ off ∧ off < 0x1808 then s.writeAs via off 3 (if via = .operator then Dev.msixWrite off v else id)
  else s.writeReg via off (Dev.regPut off v ns frac)

/-- The same when where in its microsecond the write falls matters to nothing, or is not stated (a snapshot): free values. -/
def Dev.regWrite (via : Via) (off v : Nat) (s : Dev) : Dev :=
  if off = R.TB_SNAP_CTL then s.useFree.regWriteAt via off v (s.free.toNat % 1000) (s.free.setWidth 32)
  else s.regWriteAt via off v 0 0

/-! ### The whole aperture -/

/-- The mailbox whose area holds an offset. -/
def areaMb (off : Nat) : Nat := (off - 0x200000) / 0x2000

/-- The offset lies in the mailbox areas. -/
def inAreas (off : Nat) : Bool := decide (0x200000 ≤ off) && decide (off < 0x210000)

/-- A word stored in a mailbox area: the response areas are HIF's. -/
def State.areaPut (off : Nat) (v : Word) (s : State) : State :=
  if off % 0x2000 < 0x1000 then { s with mem := Memory.writeBytes s.mem off (toLe 4 v.toNat) } else s

/-- A write of a mailbox area (R265). -/
def State.areaWrite (via : Via) (off : Nat) (v : Word) (s : State) : State :=
  let i := areaMb off
  if s.dev.viaShut via off true ∨ s.dev.svcShut via off ∨ via = .debug then s.mapDev (Dev.writeAs via off (mbPl i) id)
  else
    let s := s.mapDev (Dev.t6 via off true)
    if via = .operator ∧ 4 ≤ i then s else s.areaPut off v


/-- HIF_ST_CTL takes a word (R283): RESTART restarts the stewards. -/
def State.stPut (v : Word) (s : State) : State :=
  let s := s.mapDev (·.store R.HIF_ST_CTL v.toNat)
  if bit v.toNat 0 then s.restart false else s

/-- A write of HIF_ST_CTL. -/
def State.stCtl (via : Via) (v : Word) (s : State) : State :=
  let off := R.HIF_ST_CTL
  if s.dev.viaShut via off true ∨ s.dev.svcShut via off ∨ 1 < viaPl via then s.mapDev (Dev.writeAs via off 1 id)
  else
    (s.mapDev (Dev.t6 via off true)).stPut v

/-- A write of any offset of an aperture. -/
def State.write (via : Via) (off : Nat) (v : Word) (s : State) : State :=
  if inAreas off then s.areaWrite via off v
  else if off = R.HIF_ST_CTL then s.stCtl via v
  else if off = R.MB_DB ((off - 0x10000) / 16) ∧ off < 0x10080 then s.doorbell via ((off - 0x10000) / 16)
  else s.mapDev (Dev.regWrite via off v.toNat)

/-- A read of a mailbox area (R265, R268). -/
def State.areaRead (via : Via) (off : Nat) (s : State) : Word × State :=
  let i := areaMb off
  let w : Word := BitVec.ofNat 32 (leNat (Memory.readBytes s.mem off 4))
  if via = .operator ∧ 4 ≤ i then (0, s)
  else if off = respArea i then s.statusRead via i
  else if 0x1000 ≤ off % 0x2000 ∧ s.dev.rd (F.MB_STAT_STATE i) = 1 then (0, s)
  else (w, s)

/-- A read of any offset of an aperture. -/
def State.read (via : Via) (off : Nat) (s : State) : Word × State :=
  if inAreas off then s.areaRead via off
  else
    if 0x1000 ≤ off ∧ off < 0x1808 then (if via = .operator then s.dev.reg off else 0, s)
    else
      let r := s.dev.readReg off
      (r.1, { s with dev := r.2 })

/-- A read, with the word sent to the reader. Accesses are aligned words (R8). -/
def State.readAt (via : Via) (off : Nat) (s : State) : State := s.readBy via (off / 4 * 4) (State.read via (off / 4 * 4))

/-! ### Transactions at T6 (12 R287) -/

/-- The view of the register map that a transaction has: of M0, M3 and M4 that of PL0. -/
def BmW.via (w : BmW) : Via :=
  match w.m with
  | 1 => if w.q.pl = 1 then .service else .operator
  | 5 => .debug
  | _ => .steward

/-- The privilege that a write at an offset of the map needs. -/
def t6Need (off : Nat) : Nat :=
  if inAreas off then mbPl (areaMb off)
  else if off = R.MB_DB ((off - 0x10000) / 16) ∧ off < 0x10080 then mbPl ((off - 0x10000) / 16)
  else if off = R.HIF_ST_CTL then 1
  else ((regAt off).map (·.wpl)).getD 3

/-- The offset lies in the MSI-X table or PBA, which stand in the operator aperture only, the lower half of T6 (Table 11.2). -/
def inMsix (off : Nat) : Bool := decide (0x1000 ≤ off) && decide (off < 0x1808)

/-- The view of the map that a transaction has at an offset. -/
def BmW.viaAt (w : BmW) (off : Nat) : Via :=
  if inMsix off then (if w.q.addr.toNat < 0x800000 then .operator else .service) else w.via

/-- A write that T6 lets through has its effect. -/
def State.t6Put (via : Via) (off : Nat) (v : Word) (s : State) : State :=
  if inAreas off then s.areaPut off v
  else if off = R.HIF_ST_CTL then s.stPut v
  else if off = R.MB_DB ((off - 0x10000) / 16) ∧ off < 0x10080 then s.ring ((off - 0x10000) / 16)
  else if inMsix off then (if via = .operator then s.mapDev (Dev.msixWrite off v.toNat) else s)
  else if off = R.TB_SNAP_CTL then
    s.mapDev (fun d => Dev.regPut off v.toNat (d.free.toNat % 1000) (d.free.setWidth 32) d.useFree)
  else s.mapDev (Dev.regPut off v.toNat 0 0)

/-- A transaction at T6 acts in the clock of its grant: the code it earns (PRIV where its privilege falls short), the word a read
returns, and what it leaves. The areas of mailboxes 4 to 7 ignore the host's PL2 (11 R265), and so does the locked service aperture its
PL1 (11 R263). -/
def State.t6Act (w : BmW) (s : State) : Nat × Word × State :=
  let off := t6Off w.q
  if w.q.write then
    if w.via = .operator ∧ inAreas off ∧ 4 ≤ areaMb off then (0, 0, s)
    else if s.dev.svcShut w.via off then (0, 0, s.mapDev (Dev.svcRefused off))
    else if t6Need off < w.q.pl.toNat then (1, 0, s)
    else (0, 0, s.t6Put (w.viaAt off) off (BitVec.ofNat 32 (leNat (w.q.data.take 4))))
  else if readRefused w.via off then (1, 0, s)
  else (0, s.read (w.viaAt off) off)

/-- The same, counted, with what the response will carry. -/
def State.t6Grant (i : Nat) (w : BmW) (s : State) : State :=
  let off := t6Off w.q
  let late := w.q.write && off == R.PC_CTL
  let s := s.mapDev (Dev.settleFor off)
  let r := (if late then s else s.mapDev (·.bpGrant w)).t6Act w
  let bytes : Tbl Byte := if w.q.write then [] else (toLe 4 r.2.1.toNat).zipIdx.map (fun b => (b.2, b.1))
  let t := r.2.2.mapDev (fun d => { d with bm := { d.bm with out := d.bm.out.modify i (fun x => { x with code := r.1, known := bytes }) } })
  if late then t.mapDev (·.bpGrant w) else t

/-- A target's port grants (12 R290): a transaction at T6 acts, the others go to their target. -/
def State.bmGrant (t clocks : Nat) (s : State) : State :=
  let r := s.dev.bmWin t clocks
  let u := s.mapDev (fun _ => r.1)
  match r.2 with
  | none => u
  | some w => if w.q.tgt = 6 then u.t6Grant s.dev.bm.out.length w else u.mapDev (·.bpGrant w)

def execBmGrant (t : BitVec 3) (clocks : Nat) (s : State) : Host.Outcome State Fault Refusal :=
  s.onAll (State.bmGrant t.toNat clocks)

/-! ### The commands: reads and writes -/

def execRcRead (via : Via) (off : BitVec 23) (s : State) : Host.Outcome State Fault Refusal :=
  s.onAll (State.readAt via off.toNat)
def execLowWordRead (via : Via) (off : BitVec 23) (s : State) : Host.Outcome State Fault Refusal :=
  s.onAll (State.readAt via off.toNat)
def execRegisterWrite (via : Via) (off : BitVec 23) (v : Word) (s : State) : Host.Outcome State Fault Refusal :=
  s.onAll (State.write via (off.toNat / 4 * 4) v)

/-! ### The commands that write one register: those that name one of its bits write it as 1 -/

/-- A write of v to a register. -/
def State.writes (via : Via) (off v : Nat) (s : State) : Host.Outcome State Fault Refusal := s.onDev (Dev.regWrite via off v)

def execRetrain (via : Via) (lane : BitVec 7) (v : Word) (s : State) : Host.Outcome State Fault Refusal :=
  s.writes via (R.VL_LCFG lane.toNat) (setBit v.toNat 4)
def execLaneEnableWrite (via : Via) (lane : BitVec 7) (v : Word) (s : State) : Host.Outcome State Fault Refusal :=
  s.writes via (R.VL_LCFG lane.toNat) v.toNat
def execGlPauseWrite (via : Via) (v : Word) (s : State) : Host.Outcome State Fault Refusal := s.writes via R.GL_CTL v.toNat
def execSrcChange (via : Via) (v : Word) (s : State) : Host.Outcome State Fault Refusal := s.writes via R.TB_CFG v.toNat
def execHostStep (via : Via) (v : Word) (s : State) : Host.Outcome State Fault Refusal :=
  s.writes via R.TB_STEP_CTL (setBit v.toNat 0)
def execTbSnap (via : Via) (v : Word) (ns : BitVec 10) (frac : Word) (s : State) : Host.Outcome State Fault Refusal :=
  s.onDev (Dev.regWriteAt via R.TB_SNAP_CTL (setBit v.toNat 0) (ns.toNat % 1000) frac)
def execRestoreA (via : Via) (e : Eng) (v : Word) (s : State) : Host.Outcome State Fault Refusal :=
  s.writes via R.TW_CTL (setBit v.toNat (if e = .lea then 0 else 1))
def execRemoveA (via : Via) (e : Eng) (v : Word) (s : State) : Host.Outcome State Fault Refusal :=
  s.writes via R.TW_CTL (setBit v.toNat (if e = .lea then 2 else 3))
def execSwap (via : Via) (v : Word) (s : State) : Host.Outcome State Fault Refusal := s.writes via R.TW_CTL (setBit v.toNat 4)
def execForce (via : Via) (v : Word) (s : State) : Host.Outcome State Fault Refusal :=
  s.writes via R.FC_SAFE_CTL (setBit v.toNat 0)
def execExit (via : Via) (v : Word) (s : State) : Host.Outcome State Fault Refusal :=
  s.writes via R.FC_SAFE_CTL (setBit v.toNat 1)
def execClrFirst (via : Via) (v : Word) (s : State) : Host.Outcome State Fault Refusal :=
  s.writes via R.FC_CLR (setBit v.toNat 0)
def execHsnap (via : Via) (v : Word) (s : State) : Host.Outcome State Fault Refusal := s.writes via R.FC_CLR (setBit v.toNat 1)
def execHclr (via : Via) (v : Word) (s : State) : Host.Outcome State Fault Refusal := s.writes via R.FC_CLR (setBit v.toNat 2)
def execClrNopress (via : Via) (v : Word) (s : State) : Host.Outcome State Fault Refusal :=
  s.writes via R.FC_CLR (setBit v.toNat 3)
def execClrEict (via : Via) (v : Word) (s : State) : Host.Outcome State Fault Refusal :=
  s.writes via R.FC_CLR (setBit v.toNat 4)
def execStewardRestart (via : Via) (v : Word) (s : State) : Host.Outcome State Fault Refusal :=
  s.onAll (State.stCtl via (BitVec.ofNat 32 (setBit v.toNat 0)))
def execSliceChange (via : Via) (v : Word) (s : State) : Host.Outcome State Fault Refusal := s.writes via R.BM_SLICE v.toNat
def execWakeFaultClear (via : Via) (v : Word) (s : State) : Host.Outcome State Fault Refusal :=
  s.writes via R.PM_EVT (setBit v.toNat 5)
def execThBoardWrite (via : Via) (v : Word) (s : State) : Host.Outcome State Fault Refusal := s.writes via R.TH_BOARD v.toNat
def execThFitRun (via : Via) (v : Word) (s : State) : Host.Outcome State Fault Refusal :=
  s.writes via R.TH_FIT_CTL (setBit v.toNat 0)
def execSnap (via : Via) (v : Word) (s : State) : Host.Outcome State Fault Refusal := s.writes via R.PC_CTL (setBit v.toNat 0)
def execClrAll (via : Via) (v : Word) (s : State) : Host.Outcome State Fault Refusal :=
  s.writes via R.PC_CTL (setBit v.toNat 2)
def execFreeze (via : Via) (v : Word) (s : State) : Host.Outcome State Fault Refusal := s.writes via R.PC_CTL v.toNat
/-- A selection register, by its offset in the PC window; another offset is none (the write is REGISTER_WRITE's). -/
def execPcSelectWrite (via : Via) (off : BitVec 16) (v : Word) (s : State) : Host.Outcome State Fault Refusal :=
  let o := 0x150000 + off.toNat / 4 * 4
  s.onDev (fun d => if isSelect o then d.regWrite via o v.toNat else d)

end Sys2Proof.Machine
end

