-- ==== Sys2Proof/Machine/Dispatch.lean ====
section
/-!
DEFINITION. exec: one arm per command, each one direct call of its meaning.
-/
namespace Sys2Proof.Machine

def exec (i : Instr) (s : State) : Host.Outcome State Fault Refusal :=
  match i with
  | .frameStrobe => Sys2Proof.Machine.execFrameStrobe s
  | .phaseStrobe v p => Sys2Proof.Machine.execPhaseStrobe v p s
  | .segmentHandover e v g flips => Sys2Proof.Machine.execSegmentHandover e v g flips s
  | .noseg late v g => Sys2Proof.Machine.execNoseg late v g s
  | .frameClose => Sys2Proof.Machine.execFrameClose s
  | .driveFrameDeadline v => Sys2Proof.Machine.execDriveFrameDeadline v s
  | .sampleStrobe residue aonInc => Sys2Proof.Machine.execSampleStrobe residue aonInc s
  | .sofS lane b => Sys2Proof.Machine.execSofS lane b s
  | .senseSegment lane j d => Sys2Proof.Machine.execSenseSegment lane j d s
  | .releaseSend v => Sys2Proof.Machine.execReleaseSend v s
  | .drsp lane d => Sys2Proof.Machine.execDrsp lane d s
  | .delayExchangeDue lane nonce t1 => Sys2Proof.Machine.execDelayExchangeDue lane nonce t1 s
  | .trn lane t => Sys2Proof.Machine.execTrn lane t s
  | .detectDone lane openP openN short => Sys2Proof.Machine.execDetectDone lane openP openN short s
  | .blockLock lane ms => Sys2Proof.Machine.execBlockLock lane ms s
  | .lockLost lane => Sys2Proof.Machine.execLockLost lane s
  | .openShortDetect lane openP openN short => Sys2Proof.Machine.execOpenShortDetect lane openP openN short s
  | .trainingTimeout lane => Sys2Proof.Machine.execTrainingTimeout lane s
  | .faultRetry lane => Sys2Proof.Machine.execFaultRetry lane s
  | .retrain via lane v => Sys2Proof.Machine.execRetrain via lane v s
  | .laneEnableWrite via lane v => Sys2Proof.Machine.execLaneEnableWrite via lane v s
  | .bKMinus2 => Sys2Proof.Machine.execBKMinus2 s
  | .defaultRead r => Sys2Proof.Machine.execDefaultRead r s
  | .slotBoundary => Sys2Proof.Machine.execSlotBoundary s
  | .chooserStart => Sys2Proof.Machine.execChooserStart s
  | .updatesReleased => Sys2Proof.Machine.execUpdatesReleased s
  | .chooserResult sram r => Sys2Proof.Machine.execChooserResult sram r s
  | .activationSample => Sys2Proof.Machine.execActivationSample s
  | .planRetire => Sys2Proof.Machine.execPlanRetire s
  | .glPauseWrite via v => Sys2Proof.Machine.execGlPauseWrite via v s
  | .report p f pdu => Sys2Proof.Machine.execReport p f pdu s
  | .rpFrameRx p f etype pdu => Sys2Proof.Machine.execRpFrameRx p f etype pdu s
  | .meterEntry g => Sys2Proof.Machine.execMeterEntry g s
  | .rodStale rod => Sys2Proof.Machine.execRodStale rod s
  | .portDown p => Sys2Proof.Machine.execPortDown p s
  | .portUp p => Sys2Proof.Machine.execPortUp p s
  | .ptpSync p h seq twoStep origin rx => Sys2Proof.Machine.execPtpSync p h seq twoStep origin rx s
  | .ptpFollowUp p h seq origin => Sys2Proof.Machine.execPtpFollowUp p h seq origin s
  | .ptpAnnounce p h a => Sys2Proof.Machine.execPtpAnnounce p h a s
  | .ptpDelayResp p h peer seq t1 t2 t3 t4 => Sys2Proof.Machine.execPtpDelayResp p h peer seq t1 t2 t3 t4 s
  | .ptpRequestSend p => Sys2Proof.Machine.execPtpRequestSend p s
  | .announceReceiptTimeout p => Sys2Proof.Machine.execAnnounceReceiptTimeout p s
  | .syncTimeout p => Sys2Proof.Machine.execSyncTimeout p s
  | .tbUncRecompute => Sys2Proof.Machine.execTbUncRecompute s
  | .refLoss r => Sys2Proof.Machine.execRefLoss r s
  | .refUsable r => Sys2Proof.Machine.execRefUsable r s
  | .ppsEdge falling shorter periodOk diff => Sys2Proof.Machine.execPpsEdge falling shorter periodOk diff s
  | .ppsOut rise => Sys2Proof.Machine.execPpsOut rise s
  | .srcChange via v => Sys2Proof.Machine.execSrcChange via v s
  | .hostStep via v => Sys2Proof.Machine.execHostStep via v s
  | .tbSnap via v ns frac => Sys2Proof.Machine.execTbSnap via v ns frac s
  | .wakeWaitExpiry => Sys2Proof.Machine.execWakeWaitExpiry s
  | .resyncCopyDone => Sys2Proof.Machine.execResyncCopyDone s
  | .miswinAgeOut => Sys2Proof.Machine.execMiswinAgeOut s
  | .selftestPassDone e v stest rom cfg => Sys2Proof.Machine.execSelftestPassDone e v stest rom cfg s
  | .starved e v => Sys2Proof.Machine.execStarved e v s
  | .engineScrub e v r => Sys2Proof.Machine.execEngineScrub e v r s
  | .fsScrub slot r passDone => Sys2Proof.Machine.execFsScrub slot r passDone s
  | .deScrub w r => Sys2Proof.Machine.execDeScrub w r s
  | .restoreTestDone e checks v => Sys2Proof.Machine.execRestoreTestDone e checks v s
  | .autoRestore e => Sys2Proof.Machine.execAutoRestore e s
  | .arbFlt kind => Sys2Proof.Machine.execArbFlt kind s
  | .restoreA via e v => Sys2Proof.Machine.execRestoreA via e v s
  | .removeA via e v => Sys2Proof.Machine.execRemoveA via e v s
  | .swap via v => Sys2Proof.Machine.execSwap via v s
  | .errorLine extra ticks => Sys2Proof.Machine.execErrorLine extra ticks s
  | .direct => Sys2Proof.Machine.execDirect s
  | .darkTmo => Sys2Proof.Machine.execDarkTmo s
  | .force via v => Sys2Proof.Machine.execForce via v s
  | .exit via v => Sys2Proof.Machine.execExit via v s
  | .clrFirst via v => Sys2Proof.Machine.execClrFirst via v s
  | .hsnap via v => Sys2Proof.Machine.execHsnap via v s
  | .hclr via v => Sys2Proof.Machine.execHclr via v s
  | .clrNopress via v => Sys2Proof.Machine.execClrNopress via v s
  | .clrEict via v => Sys2Proof.Machine.execClrEict via v s
  | .doorbell via mb => Sys2Proof.Machine.execDoorbell via mb s
  | .statusWordRead via mb => Sys2Proof.Machine.execStatusWordRead via mb s
  | .planLoad mb => Sys2Proof.Machine.execPlanLoad mb s
  | .planLoadDone image => Sys2Proof.Machine.execPlanLoadDone image s
  | .planActivate mb => Sys2Proof.Machine.execPlanActivate mb s
  | .planActivateCancel mb => Sys2Proof.Machine.execPlanActivateCancel mb s
  | .formWrite mb form => Sys2Proof.Machine.execFormWrite mb form s
  | .formDelete mb => Sys2Proof.Machine.execFormDelete mb s
  | .formRelevel mb => Sys2Proof.Machine.execFormRelevel mb s
  | .loopTuneWrite mb => Sys2Proof.Machine.execLoopTuneWrite mb s
  | .loopTunePreset mb => Sys2Proof.Machine.execLoopTunePreset mb s
  | .loopTuneReseed mb => Sys2Proof.Machine.execLoopTuneReseed mb s
  | .loopRead mb => Sys2Proof.Machine.execLoopRead mb s
  | .calRunLane mb => Sys2Proof.Machine.execCalRunLane mb s
  | .calRunTsdly mb => Sys2Proof.Machine.execCalRunTsdly mb s
  | .calRunIsense mb => Sys2Proof.Machine.execCalRunIsense mb s
  | .calRunTap mb => Sys2Proof.Machine.execCalRunTap mb s
  | .calRunEnd target lost ms storeOk => Sys2Proof.Machine.execCalRunEnd target lost ms storeOk s
  | .charSweep mb => Sys2Proof.Machine.execCharSweep mb s
  | .charStop mb => Sys2Proof.Machine.execCharStop mb s
  | .injectStart mb => Sys2Proof.Machine.execInjectStart mb s
  | .injectStop mb => Sys2Proof.Machine.execInjectStop mb s
  | .injectionEnd id => Sys2Proof.Machine.execInjectionEnd id s
  | .captureStart mb => Sys2Proof.Machine.execCaptureStart mb s
  | .captureEnd => Sys2Proof.Machine.execCaptureEnd s
  | .pmSetP0 mb => Sys2Proof.Machine.execPmSetP0 mb s
  | .pmSetP1 mb => Sys2Proof.Machine.execPmSetP1 mb s
  | .pmSetP2 mb => Sys2Proof.Machine.execPmSetP2 mb s
  | .pmSetP3 mb => Sys2Proof.Machine.execPmSetP3 mb s
  | .pmSetP4 mb => Sys2Proof.Machine.execPmSetP4 mb s
  | .twinStatusRead mb => Sys2Proof.Machine.execTwinStatusRead mb s
  | .twinStatusRestore mb => Sys2Proof.Machine.execTwinStatusRestore mb s
  | .twinStatusRemove mb => Sys2Proof.Machine.execTwinStatusRemove mb s
  | .twinStatusSwap mb => Sys2Proof.Machine.execTwinStatusSwap mb s
  | .nvRecordList mb => Sys2Proof.Machine.execNvRecordList mb s
  | .nvRecordRead mb => Sys2Proof.Machine.execNvRecordRead mb s
  | .nvRecordWrite mb data => Sys2Proof.Machine.execNvRecordWrite mb data s
  | .nvRecordErase mb => Sys2Proof.Machine.execNvRecordErase mb s
  | .timeStatus mb => Sys2Proof.Machine.execTimeStatus mb s
  | .demandTenantSet mb => Sys2Proof.Machine.execDemandTenantSet mb s
  | .demandTenantRead mb => Sys2Proof.Machine.execDemandTenantRead mb s
  | .demandTenantClear mb => Sys2Proof.Machine.execDemandTenantClear mb s
  | .counterConfigSet mb => Sys2Proof.Machine.execCounterConfigSet mb s
  | .counterConfigRead mb => Sys2Proof.Machine.execCounterConfigRead mb s
  | .counterConfigClear mb => Sys2Proof.Machine.execCounterConfigClear mb s
  | .sysInfo mb => Sys2Proof.Machine.execSysInfo mb s
  | .fwWrite mb image => Sys2Proof.Machine.execFwWrite mb image s
  | .sysHoldHold mb => Sys2Proof.Machine.execSysHoldHold mb s
  | .sysHoldRelease mb => Sys2Proof.Machine.execSysHoldRelease mb s
  | .hifUnlockHi via v => Sys2Proof.Machine.execHifUnlockHi via v s
  | .svcPeriodEnd => Sys2Proof.Machine.execSvcPeriodEnd s
  | .lockoutEnd => Sys2Proof.Machine.execLockoutEnd s
  | .hifSvcCtlLock via v => Sys2Proof.Machine.execHifSvcCtlLock via v s
  | .hifSvcCodeHi via v => Sys2Proof.Machine.execHifSvcCodeHi via v s
  | .hostInterfaceReset cause => Sys2Proof.Machine.execHostInterfaceReset cause s
  | .stewardRestart via v => Sys2Proof.Machine.execStewardRestart via v s
  | .watchdogExpiry => Sys2Proof.Machine.execWatchdogExpiry s
  | .lockup core => Sys2Proof.Machine.execLockup core s
  | .stewardStart => Sys2Proof.Machine.execStewardStart s
  | .stewardReady => Sys2Proof.Machine.execStewardReady s
  | .eventRecord => Sys2Proof.Machine.execEventRecord s
  | .evqRecordWrite r busOk => Sys2Proof.Machine.execEvqRecordWrite r busOk s
  | .evqModTimer r => Sys2Proof.Machine.execEvqModTimer r s
  | .evqCiWrite via r v => Sys2Proof.Machine.execEvqCiWrite via r v s
  | .evqRingEnable via r v => Sys2Proof.Machine.execEvqRingEnable via r v s
  | .evqRingDisable via r v => Sys2Proof.Machine.execEvqRingDisable via r v s
  | .traceRecordWrite busOk => Sys2Proof.Machine.execTraceRecordWrite busOk s
  | .trcCiHiWrite via r v => Sys2Proof.Machine.execTrcCiHiWrite via r v s
  | .trcRingEnable via r v => Sys2Proof.Machine.execTrcRingEnable via r v s
  | .msixUnmask vec => Sys2Proof.Machine.execMsixUnmask vec s
  | .bmRequest q => Sys2Proof.Machine.execBmRequest q s
  | .bmGrant t clocks => Sys2Proof.Machine.execBmGrant t clocks s
  | .bmResponse t mid write code data => Sys2Proof.Machine.execBmResponse t mid write code data s
  | .tout t mid write => Sys2Proof.Machine.execTout t mid write s
  | .sliceChange via v => Sys2Proof.Machine.execSliceChange via v s
  | .sliceSwitch => Sys2Proof.Machine.execSliceSwitch s
  | .masterReset m => Sys2Proof.Machine.execMasterReset m s
  | .rstMid m t beats => Sys2Proof.Machine.execRstMid m t beats s
  | .avsPoll mv => Sys2Proof.Machine.execAvsPoll mv s
  | .avsFail => Sys2Proof.Machine.execAvsFail s
  | .avsRetry => Sys2Proof.Machine.execAvsRetry s
  | .avsAlert status => Sys2Proof.Machine.execAvsAlert status s
  | .dividerSwitch => Sys2Proof.Machine.execDividerSwitch s
  | .p3HoldSend => Sys2Proof.Machine.execP3HoldSend s
  | .p3ElectricalIdle => Sys2Proof.Machine.execP3ElectricalIdle s
  | .p3LinkDown => Sys2Proof.Machine.execP3LinkDown s
  | .p3StewardsHalt => Sys2Proof.Machine.execP3StewardsHalt s
  | .p3SlowClock ns frac => Sys2Proof.Machine.execP3SlowClock ns frac s
  | .wakeSource mask lanes ticks => Sys2Proof.Machine.execWakeSource mask lanes ticks s
  | .supplyReady => Sys2Proof.Machine.execSupplyReady s
  | .clocksReady => Sys2Proof.Machine.execClocksReady s
  | .wakeStepTimeout ticks => Sys2Proof.Machine.execWakeStepTimeout ticks s
  | .wakeRetry => Sys2Proof.Machine.execWakeRetry s
  | .wakeMeasured incW ticks => Sys2Proof.Machine.execWakeMeasured incW ticks s
  | .wakeFaultClear via v => Sys2Proof.Machine.execWakeFaultClear via v s
  | .thModelStep ch ticks => Sys2Proof.Machine.execThModelStep ch ticks s
  | .thEvaluate left ticks => Sys2Proof.Machine.execThEvaluate left ticks s
  | .throtStep => Sys2Proof.Machine.execThrotStep s
  | .tripHold => Sys2Proof.Machine.execTripHold s
  | .tripOff => Sys2Proof.Machine.execTripOff s
  | .converged => Sys2Proof.Machine.execConverged s
  | .rateArmed => Sys2Proof.Machine.execRateArmed s
  | .thBoardWrite via v => Sys2Proof.Machine.execThBoardWrite via v s
  | .thFitRun via v => Sys2Proof.Machine.execThFitRun via v s
  | .fitDone r1 r2 => Sys2Proof.Machine.execFitDone r1 r2 s
  | .nvWriteStart => Sys2Proof.Machine.execNvWriteStart s
  | .nvPageOpDone verify => Sys2Proof.Machine.execNvPageOpDone verify s
  | .nvRecordScan => Sys2Proof.Machine.execNvRecordScan s
  | .snap via v => Sys2Proof.Machine.execSnap via v s
  | .clrAll via v => Sys2Proof.Machine.execClrAll via v s
  | .freeze via v => Sys2Proof.Machine.execFreeze via v s
  | .pcSelectWrite via off v => Sys2Proof.Machine.execPcSelectWrite via off v s
  | .rcRead via off => Sys2Proof.Machine.execRcRead via off s
  | .lowWordRead via off => Sys2Proof.Machine.execLowWordRead via off s
  | .registerWrite via off v => Sys2Proof.Machine.execRegisterWrite via off v s
  | .aonPowerOnReset => Sys2Proof.Machine.execAonPowerOnReset s
  | .resetN high => Sys2Proof.Machine.execResetN high s
  | .supervisor aon => Sys2Proof.Machine.execSupervisor aon s
  | .dbgTrstN low => Sys2Proof.Machine.execDbgTrstN low s
  | .mailboxCompletion mb => Sys2Proof.Machine.execMailboxCompletion mb s
  | .pcieLinkUp speed width => Sys2Proof.Machine.execPcieLinkUp speed width s
  | .ppsLost => Sys2Proof.Machine.execPpsLost s
  | .engineClockLost e v => Sys2Proof.Machine.execEngineClockLost e v s
  | .autoRestoreWindowEnd e => Sys2Proof.Machine.execAutoRestoreWindowEnd e s

end Sys2Proof.Machine
end

