-- ==== Sys2Proof/Safety.lean ====
section
/-!
DEFINITION. The terms in which claims speak: the block is out of reset, an aperture may write a register, a mailbox has
asked for a command and has been answered, what a command leaves unchanged, and the invariant of the state.
-/
namespace Sys2Proof.Machine

/-- RESET_N is high: the block takes commands (16 R361). -/
def Running (s : State) : Prop := s.dev.pins.resetN = true

/-- A write through this aperture is let through (11 R263, 12 R287, R290, R296, 16 R361): its master is not in a drain nor the debug
port in reset, it is granted at T6, the service aperture is open, the privilege it carries is enough, and the debug port writes in its
window only. -/
def MayWrite (s : State) (via : Via) (off : Nat) : Prop :=
  s.dev.viaShut via off true = false ∧ s.dev.svcShut via off = false ∧ viaPl via ≤ ((regAt off).map (·.wpl)).getD 3 ∧
    (via = .debug → pcWindow off = true)

/-- Mailbox mb holds the accepted request m of a command that has not begun and is next in the order of the doorbells (11
R267, R269). -/
def Asked (s : State) (mb : BitVec 3) (cmd : Nat) (op : Option Nat) (m : Mbx) : Prop :=
  s.dev.request mb.toNat cmd op = some (mb.toNat, m)

/-- The command of mailbox mb is complete with this STATUS, DETAIL, DETAIL2 and payload (11 R268); the others wait as before. -/
def Answered (s t : State) (mb : BitVec 3) (status detail detail2 : Nat) (pl : List Byte) : Prop :=
  (t.dev.mbx.get mb.toNat).ready = some (status, detail, detail2, pl) ∧
    ∀ k, k ≠ mb.toNat → t.dev.mbx.get k = s.dev.mbx.get k

/-- The command of mailbox mb is under way and not complete; the other mailboxes wait as before. -/
def UnderWay (s t : State) (mb : BitVec 3) : Prop :=
  t.dev.mbx.get mb.toNat = { s.dev.mbx.get mb.toNat with taken := true } ∧
    ∀ k, k ≠ mb.toNat → t.dev.mbx.get k = s.dev.mbx.get k

/-- Every byte of mailbox memory reads as before, and the queue is the same. -/
def KeepsMem (s t : State) : Prop := (∀ a, Memory.read t.mem a = Memory.read s.mem a) ∧ t.pending = s.pending

/-- A line as the collector holds it until its next clock: with the sample index that the always-on domain carries where the core
has no clock (13 R300, 02 R51). -/
def Dev.latched (s : Dev) (l : Line) : Raised := ⟨l, if s.unclocked then some (BitVec.ofNat 64 s.carried) else none⟩

/-- The parts of the block's state beside its registers and the messages of the latest command. -/
inductive Part where
  | hold | tb | vl | le | plan0 | plan1 | fs | gl | de | cal | nv | tw | mbx | hif | evq | trc | st | bm | fc | pm | th | pc | pins | freeCtr
  deriving DecidableEq, Repr

/-- The part is the same in s and t. -/
def Part.Same (s t : Dev) : Part → Prop
  | .hold => t.hold = s.hold
  | .tb => t.tb = s.tb
  | .vl => t.vl = s.vl
  | .le => t.le = s.le
  | .plan0 => t.plan0 = s.plan0
  | .plan1 => t.plan1 = s.plan1
  | .fs => t.fs = s.fs
  | .gl => t.gl = s.gl
  | .de => t.de = s.de
  | .cal => t.cal = s.cal
  | .nv => t.nv = s.nv
  | .tw => t.tw = s.tw
  | .mbx => t.mbx = s.mbx
  | .hif => t.hif = s.hif
  | .evq => t.evq = s.evq
  | .trc => t.trc = s.trc
  | .st => t.st = s.st
  | .bm => t.bm = s.bm
  | .fc => t.fc = s.fc
  | .pm => t.pm = s.pm
  | .th => t.th = s.th
  | .pc => t.pc = s.pc
  | .pins => t.pins = s.pins
  | .freeCtr => t.freeCtr = s.freeCtr

/-- Every part outside l is the same. -/
def Dev.Keeps (l : List Part) (s t : Dev) : Prop := ∀ p, p ∉ l → Part.Same s t p

/-- Every register outside the windows of these block codes (11 Table 11.2) reads as before. -/
def Dev.Within (w : List Nat) (s t : Dev) : Prop := ∀ off, blockOf off ∉ w → t.reg off = s.reg off

/-- Every register reads in t as in d: d is the earlier state with the writes that a statement names. -/
def Dev.RegsAs (d t : Dev) : Prop := ∀ off, t.reg off = d.reg off

/-- The frame of a command: registers change in the windows w only, parts of the block in l only, mailbox memory and the
queue not at all. -/
def Only (w : List Nat) (l : List Part) (s t : State) : Prop :=
  Dev.Within w s.dev t.dev ∧ Dev.Keeps l s.dev t.dev ∧ KeepsMem s t

/-- The frame of a command whose register writes a statement names: d is the earlier block with those writes, and with the access that
made them granted; the registers read as in d, parts of the block other than l are as in d, mailbox memory and the queue are the
same. -/
def Writes (d : Dev) (l : List Part) (s t : State) : Prop :=
  Dev.RegsAs d t.dev ∧ Dev.Keeps l d t.dev ∧ KeepsMem s t

/-- Windows and parts that the power manager's step may reach: its own, the slices, the mailbox it answers, the inhibits of
GL and the slots they cancel, and the boot gate (14 R317 to R323, 06 R142, 16 R363). -/
def pmWindows : List Nat := [6, 11, 12, 13, 14, 17, 19, 21]
def pmParts : List Part := [.gl, .cal, .de, .evq, .fc, .freeCtr, .trc, .pm, .bm, .mbx, .vl, .st]

/-- The parts that cancelling decided slots may reach (06 R142). -/
def cancelParts : List Part := [.gl, .cal, .de, .evq, .fc, .freeCtr, .trc]

/-- The mailbox memory is in its canonical form. -/
def State.Inv (s : State) : Prop := Memory.wf s.mem = true

end Sys2Proof.Machine
end

