-- ==== Sys2Proof/Certificates/Slice0/Obligations.lean ====
section
/-!
DEFINITION. The statements about the block, one definition each: what a family of commands does (the next state it answers, what
it changes and, by the frames of Safety.lean, what it leaves), how the queue and mailbox memory fare, and what reset leaves.
Numbers before rules name the files of spec/. A clause that rests on the model's choice names its log entry.
-/
open Sys2Proof Sys2Proof.Machine

/-- 11 R264: HIF_UNLOCK_HI and HIF_SVC_CODE_HI. A write of HIF_UNLOCK_HI through either aperture, locked or not, compares
the code offered with the loaded one. A match opens the aperture for HIF_SVC_TIME seconds or renews the period. A mismatch
sets BADCODE; the third in a row sets LOCKOUT, with an S1 line of HIF. LOCKOUT refuses every comparison. HIF_SVC_CODE_HI
loads the code. The aperture locks again at a write of LOCK and at the end of the period; the lockout ends. A write that the
matrix has granted moves T6's place in the order of masters (12 R290) and is counted by the bus-port counters that take it (15 R348):
t6 (log 94, the model's reading). -/
def Obligations.ServiceAperture : Prop := ∀ (s : State) (via : Via) (v : Word), Running s →
  let d := s.dev.t6 via R.HIF_UNLOCK_HI true
  (via ≠ .debug → s.dev.viaShut via R.HIF_UNLOCK_HI true = false → s.dev.on F.HIF_STAT_LOCKOUT = false → s.dev.hif.codeLoaded = true → s.dev.hif.code = v ++ s.dev.hif.offerLo →
    ∃ t, exec (.hifUnlockHi via v) s = .next t ∧ t.dev.on F.HIF_STAT_SVC_OPEN = true ∧
      t.dev.hif = { s.dev.hif with misses := 0, svcFor := s.dev.rd F.HIF_SVC_TIME, svcRun := 0 } ∧
      Writes (if s.dev.on F.HIF_STAT_SVC_OPEN then d
        else (d.wr F.HIF_STAT_SVC_OPEN 1).wr F.HIF_EVT_UNLOCKED 1) [.hif, .evq] s t) ∧
  (via ≠ .debug → s.dev.viaShut via R.HIF_UNLOCK_HI true = false → s.dev.on F.HIF_STAT_LOCKOUT = false →
    (s.dev.hif.codeLoaded = false ∨ s.dev.hif.code ≠ v ++ s.dev.hif.offerLo) →
    ∃ t, exec (.hifUnlockHi via v) s = .next t ∧
      t.dev.hif = { s.dev.hif with misses := if s.dev.hif.misses < 2 then s.dev.hif.misses + 1 else 0 } ∧
      t.dev.fc = (if s.dev.hif.misses < 2 then s.dev.fc
        else { s.dev.fc with lines := s.dev.fc.lines ++ [s.dev.latched ⟨0x0002, 1, srcWord 0, 0, true⟩] }) ∧
      Writes (if s.dev.hif.misses < 2 then d.wr F.HIF_EVT_BADCODE 1
        else ((d.wr F.HIF_EVT_BADCODE 1).wr F.HIF_STAT_LOCKOUT 1).wr F.HIF_EVT_LOCKOUT 1) [.hif, .evq, .fc] s t) ∧
  (via ≠ .debug → s.dev.viaShut via R.HIF_UNLOCK_HI true = false → s.dev.on F.HIF_STAT_LOCKOUT = true →
    ∃ t, exec (.hifUnlockHi via v) s = .next t ∧ Writes d [] s t) ∧
  (via = .steward → s.dev.viaShut via R.HIF_SVC_CODE_HI true = false → ∃ t, exec (.hifSvcCodeHi via v) s = .next t ∧
    t.dev.hif = { s.dev.hif with code := v ++ s.dev.hif.code.setWidth 32, codeLoaded := true } ∧ Writes (s.dev.t6 via R.HIF_SVC_CODE_HI true) [.hif] s t) ∧
  (s.dev.on F.HIF_STAT_SVC_OPEN = true → ∀ c e, (c = Instr.svcPeriodEnd ∧ e = s.dev) ∨
      (c = Instr.hifSvcCtlLock via v ∧ via ≠ .debug ∧ s.dev.viaShut via R.HIF_SVC_CTL true = false ∧ e = s.dev.t6 via R.HIF_SVC_CTL true) →
    ∃ t, exec c s = .next t ∧ t.dev.on F.HIF_STAT_SVC_OPEN = false ∧ t.dev.on F.HIF_EVT_LOCKED = true ∧
      t.dev.hif = { s.dev.hif with svcFor := 0, svcRun := 0 } ∧
      Writes ((e.wr F.HIF_STAT_SVC_OPEN 0).wr F.HIF_EVT_LOCKED 1) [.hif, .evq] s t) ∧
  (s.dev.on F.HIF_STAT_SVC_OPEN = false → exec .svcPeriodEnd s = .next s.fresh) ∧
  (∃ t, exec .lockoutEnd s = .next t ∧ t.dev.on F.HIF_STAT_LOCKOUT = false ∧ Writes (s.dev.wr F.HIF_STAT_LOCKOUT 0) [] s t)

/-- 11 R267: a doorbell with the privilege of its mailbox. BUSY: refused, the command in progress unaffected. Stewards not
READY: DONE at once with NOST. Otherwise the request area is copied, the mailbox is BUSY with the request's TAG, its response
area reads 0, and the request waits or is answered by the first check that fails; a state that pm.set does not know is answered
with 0x0C04 and refuser 1 (the model's reading, log 95). Doorbells are numbered in their order (R269). -/
def Obligations.Doorbell : Prop := ∀ (s : State) (via : Via) (mb : BitVec 3), Running s → s.dev.viaShut via (R.MB_DB mb.toNat) true = false →
  s.dev.svcShut via (R.MB_DB mb.toNat) = false → viaPl via ≤ mbPl mb.toNat →
  let i := mb.toNat
  let req := Memory.readBytes s.mem (reqArea i) 4096
  let m : Mbx := { from_ := i, bell := s.dev.hif.bells, cmd := leAt req 0 2, len := leAt req 4 2, req := req, conflict := exclusive (leAt req 0 2) && s.dev.exclusiveOn }
  (s.dev.rd (F.MB_STAT_STATE i) = 1 →
    ∃ t, exec (.doorbell via mb) s = .next t ∧ Writes ((s.dev.t6 via (R.MB_DB i) true).wr (F.MB_STAT_REFUSED i) 1) [] s t) ∧
  (s.dev.rd (F.MB_STAT_STATE i) ≠ 1 → s.dev.rd F.HIF_ST_STAT_STATE = 2 →
    ∃ t, exec (.doorbell via mb) s = .next t ∧
      t.dev.rd (F.MB_STAT_STATE i) = 1 ∧ t.dev.rd (F.MB_STAT_TAG i) = leAt req 2 2 ∧ t.dev.rd (F.MB_STAT_REFUSED i) = 0 ∧
      (ecsCheck i m = none → ¬ (m.cmd = 0x0501 ∧ 4 < m.fld 0 1) → t.dev.mbx.get i = m) ∧
      (ecsCheck i m = none → m.cmd = 0x0501 → 4 < m.fld 0 1 → ∃ pl, (t.dev.mbx.get i).ready = some (2, 0x0C04, 0x1301, pl)) ∧
      (∀ st d2, ecsCheck i m = some (st, d2) → (t.dev.mbx.get i).ready = some (st, 0, d2, [])) ∧
      (∀ k, k ≠ i → t.dev.mbx.get k = s.dev.mbx.get k) ∧
      (∀ off, off ≠ R.MB_STAT i → blockOf off ≠ 19 → blockOf off ≠ 21 → t.dev.reg off = s.dev.reg off) ∧
      t.dev.hif = { s.dev.hif with bells := s.dev.hif.bells + 1 } ∧ Dev.Keeps [.mbx, .hif, .evq, .bm] s.dev t.dev ∧ t.pending = s.pending ∧
      (∀ a, Memory.read t.mem a = if respArea i ≤ a ∧ a < respArea i + 4096 then 0 else Memory.read s.mem a)) ∧
  (s.dev.rd (F.MB_STAT_STATE i) ≠ 1 → s.dev.rd F.HIF_ST_STAT_STATE ≠ 2 →
    ∃ t, exec (.doorbell via mb) s = .next t ∧
      t.dev.rd (F.MB_STAT_STATE i) = 2 ∧ t.dev.rd (F.MB_STAT_TAG i) = leAt req 2 2 ∧
      t.dev.rd (F.MB_CMDS i) = min (s.dev.rd (F.MB_CMDS i) + 1) 0xFFFFFFFF ∧
      Memory.readBytes t.mem (respArea i) 16 = respHeader 8 (leAt req 2 2) 0 0 0xFFFFFFFF ∧
      (∀ a, a < respArea i ∨ respArea i + 4096 ≤ a → Memory.read t.mem a = Memory.read s.mem a) ∧
      Dev.Within [0, 1, 21] s.dev t.dev ∧ Dev.Keeps [.mbx, .hif, .evq, .bm] s.dev t.dev ∧ t.pending = s.pending)

/-- 11 R268: the status word. BUSY reads STATUS = BUSY with TAG and changes nothing. After completion each read counts in
RCOUNT, and REPEAT is 0 on the first. IDLE reads STATUS = IDLE. The operator aperture does not reach mailboxes 4 to 7, and the debug
port gets PRIV there (12 R287; log 94, the model's reading). A read that the matrix has granted moves T6's place in the order of masters
(12 R290) and is counted by the bus-port counters that take it (15 R348): t6. -/
def Obligations.StatusWord : Prop := ∀ (s : State) (via : Via) (mb : BitVec 3), Running s → s.dev.viaShut via (respArea mb.toNat) false = false →
  let i := mb.toNat
  let a := respArea i
  let d := s.fresh.dev.t6 via a false
  let sent (w : Nat) : State := { s with dev := { d with tx := [.readData a (BitVec.ofNat 32 w)] } }
  (via = .operator → 4 ≤ i → exec (.statusWordRead via mb) s = .next (sent 0)) ∧
  (via = .debug → 4 ≤ i → ∃ t, exec (.statusWordRead via mb) s = .next t ∧ t.dev.on F.BM_EVT_PRIV = true ∧
    (∀ w, .readData a w ∉ t.dev.tx) ∧ Only [17, 21] [.evq, .fc, .freeCtr, .bm] s t) ∧
  ((via ≠ .operator ∧ via ≠ .debug) ∨ i < 4 →
    (s.dev.rd (F.MB_STAT_STATE i) = 1 → exec (.statusWordRead via mb) s = .next (sent (0x10000 * s.dev.rd (F.MB_STAT_TAG i) + 1))) ∧
    (s.dev.rd (F.MB_STAT_STATE i) = 0 → exec (.statusWordRead via mb) s = .next (sent (0x10000 * s.dev.rd (F.MB_STAT_TAG i) + 9))) ∧
    (s.dev.rd (F.MB_STAT_STATE i) = 2 →
      ∃ t, exec (.statusWordRead via mb) s = .next t ∧
        Memory.readBytes t.mem (a + 6) 2 = toLe 2 (min (leNat (Memory.readBytes s.mem (a + 6) 2) + 1) 0xFFFF) ∧
        Memory.read t.mem (a + 1) = (if leNat (Memory.readBytes s.mem (a + 6) 2) = 0 then 0 else 1) ∧
        (∀ b, b ≠ a + 1 → b ≠ a + 6 → b ≠ a + 7 → Memory.read t.mem b = Memory.read s.mem b) ∧
        t.dev.tx = [.readData a (BitVec.ofNat 32 (leNat (Memory.readBytes t.mem a 4)))] ∧
        Dev.RegsAs d t.dev ∧ Dev.Keeps [] d t.dev ∧ t.pending = s.pending))

/-- 11 R268: completion. The response of a BUSY mailbox is written whole with REPEAT and RCOUNT 0, the mailbox is DONE and
counted, and with MSI_EN and its vector unmasked MSI-X vector 24 + i fires. -/
def Obligations.Completion : Prop := ∀ (s : State) (mb : BitVec 3) (st d d2 : Nat) (pl : List Byte), Running s →
  let i := mb.toNat
  s.dev.rd (F.MB_STAT_STATE i) = 1 → (s.dev.mbx.get i).ready = some (st, d, d2, pl) →
  ∃ t, exec (.mailboxCompletion mb) s = .next t ∧
    t.dev.rd (F.MB_STAT_STATE i) = 2 ∧ t.dev.rd (F.MB_CMDS i) = min (s.dev.rd (F.MB_CMDS i) + 1) 0xFFFFFFFF ∧
    Memory.readBytes t.mem (respArea i) (16 + pl.length) =
      respHeader st (s.dev.rd (F.MB_STAT_TAG i)) pl.length d d2 ++ pl ∧
    (∀ a, a < respArea i ∨ respArea i + 16 + pl.length ≤ a → Memory.read t.mem a = Memory.read s.mem a) ∧
    (s.dev.on (F.MB_CFG_MSI_EN i) = true → bit (s.dev.reg (0x1000 + 16 * (24 + i) + 12)).toNat 0 = false →
      .msix (24 + i) ∈ t.dev.tx) ∧
    (s.dev.on (F.MB_CFG_EVT_EN i) = true → t.dev.evq.inbox.length = s.dev.evq.inbox.length + 1) ∧
    t.dev.mbx.get i = {} ∧ (∀ k, k ≠ i → t.dev.mbx.get k = s.dev.mbx.get k) ∧
    Dev.Within [0, 1] s.dev t.dev ∧ Dev.Keeps [.mbx, .evq] s.dev t.dev ∧ t.pending = s.pending

/-- 11 R262: a host-interface reset, and the link that HIF takes down on the way to P3 (14 R325). Mailboxes are IDLE, event
and trace rings disabled, the aperture locked with its code kept; the event pending buffer, the fixed counters (15 R344, R353) and the
other blocks stay, but for the drain of masters M1 and M2 (12 R296). Every word of the MSI-X table and PBA reads 0, mask bits too
(log 56), the response areas read 0 (log 36), and the function is in D3hot after that cause alone (log 98): the model's choices. -/
def Obligations.HostInterfaceReset : Prop := ∀ (s : State) (cause : HiReset), Running s →
  ∀ c, (c = Instr.hostInterfaceReset cause ∨ (c = Instr.p3LinkDown ∧ s.dev.pm.p3 = .idle)) →
  ∃ t, exec c s = .next t ∧
    (∀ i, i < 8 → t.dev.rd (F.MB_STAT_STATE i) = 0 ∧ t.dev.mbx.get i = {}) ∧
    (∀ r, r < 16 → t.dev.on (F.EVQ_CFG_EN r) = false) ∧ (∀ r, r < 8 → t.dev.on (F.TRC_CFG_EN r) = false) ∧
    t.dev.on F.HIF_STAT_SVC_OPEN = false ∧
    t.dev.hif.fn = (if c = .p3LinkDown then s.dev.hif.fn else { s.dev.hif.fn with d3hot := cause == .d3hot }) ∧
    t.dev.hif = { s.dev.hif with fn := t.dev.hif.fn, offerLo := 0, svcFor := 0, svcRun := 0 } ∧
    (∀ off, 0x1000 ≤ off → off < 0x2000 → t.dev.reg off = 0) ∧
    t.dev.on F.HIF_EVT_HIRESET = true ∧
    t.dev.evq.pend = s.dev.evq.pend ∧ t.dev.evq.pendDrop = s.dev.evq.pendDrop ∧ t.dev.evq.rings = [] ∧
    (∀ r, t.dev.trc.rings.get r = { dropNoted := (s.dev.trc.rings.get r).dropNoted }) ∧
    (∀ off, isFixed off = true → blockOf off ∈ [1, 2, 3] → t.dev.reg off = s.dev.reg off) ∧
    (c = .p3LinkDown ∨ cause = .linkDown ∨ cause = .perst →
      t.dev.rd F.HIF_STAT_LINK_SPD = 0 ∧ t.dev.rd F.HIF_STAT_LINK_W = 0) ∧
    (c = .p3LinkDown → t.dev.pm.p3 = .linkDown) ∧ (c ≠ .p3LinkDown → t.dev.pm.p3 = s.dev.pm.p3) ∧
    t.dev.nv.pages = s.dev.nv.pages ∧ t.dev.st = s.dev.st ∧
    Dev.Within [0, 1, 2, 3, 17] s.dev t.dev ∧
    Dev.Keeps [.hold, .le, .cal, .nv, .pm, .tw, .mbx, .hif, .evq, .trc, .bm, .pins] s.dev t.dev ∧ t.pending = s.pending ∧
    (∀ a, (∀ i, i < 8 → a < respArea i ∨ respArea i + 4096 ≤ a) → Memory.read t.mem a = Memory.read s.mem a)

/-- The link comes up at one of the speeds of 11 Table 11.1 with that and its width in HIF_STAT, and PCIE_WAKE_N is released (14 R326);
that it is so at once and that PERST# is high by then is the model's reading (logs 69 and 81), and so is the function's return to D0 (log
98). A vector is unmasked and fires when its PBA bit was set, which clears (11 R278). -/
def Obligations.LinkAndVectors : Prop := ∀ (s : State), Running s →
  (∀ (speed : BitVec 3) (width : BitVec 2), s.dev.coreUp = true → 1 ≤ speed.toNat → speed.toNat ≤ s.dev.hif.fn.maxSpeed.toNat →
    ∃ t, exec (.pcieLinkUp speed width) s = .next t ∧
      t.dev.rd F.HIF_STAT_LINK_SPD = speed.toNat ∧ t.dev.rd F.HIF_STAT_LINK_W = width.toNat ∧
      t.dev.pins = { s.dev.pins with perstN := true, wakeN := true } ∧
      t.dev.hif = { s.dev.hif with fn := { s.dev.hif.fn with d3hot := false } } ∧
      Writes ((s.dev.wr F.HIF_STAT_LINK_SPD speed.toNat).wr F.HIF_STAT_LINK_W width.toNat) [.hif, .pins] s t) ∧
  (∀ vec : BitVec 6,
    let c := 0x1000 + 16 * vec.toNat + 12
    let p := 0x1800 + 4 * (vec.toNat / 32)
    let on := bit (s.dev.reg p).toNat (vec.toNat % 32)
    ∃ t, exec (.msixUnmask vec) s = .next t ∧ bit (t.dev.reg c).toNat 0 = false ∧ bit (t.dev.reg p).toNat (vec.toNat % 32) = false ∧
      t.dev.tx = (if on then [.msix vec.toNat] else []) ∧
      (∀ off, off ≠ c → off ≠ p → t.dev.reg off = s.dev.reg off) ∧ Dev.Keeps [] s.dev t.dev ∧ KeepsMem s t)

/-- 11 R280, R283, 13 R299: a write of HIF_ST_CTL.RESTART, a lock-up, and with WDOG_RST the watchdog's expiry restart stewards
in any STATE but OFF, FAIL too (log 54, the model's reading): BOOT with WARM, RESTARTS counted, HIF_EVT.ST_RESTART. Every BUSY mailbox is DONE with RESTARTED, a load in progress with DETAIL 0x0A03 (log 80); queued record
writes are gone, plans, forms and the performance counters stay. A start from OFF boots the image R280 chooses
(an opaque check of the signature, log 10), WARM telling whether the boot gate is open (log 54), or with none FAILs; an image that runs becomes READY once the boot gate is open. -/
def Obligations.Stewards : Prop := (∀ (s : State) (via : Via) (v : Word) (core : BitVec 2), Running s →
  s.dev.rd F.HIF_ST_STAT_STATE ≠ 0 →
  ∀ c, ((c = Instr.stewardRestart via v ∧ via ≠ .debug ∧ via ≠ .operator ∧ s.dev.viaShut via R.HIF_ST_CTL true = false ∧
        s.dev.svcShut via R.HIF_ST_CTL = false) ∨
      c = .lockup core ∨ (c = .watchdogExpiry ∧ s.dev.on F.HIF_ST_CTL_WDOG_RST = true)) →
  ∃ t, exec c s = .next t ∧
    t.dev.rd F.HIF_ST_STAT_STATE = 1 ∧ t.dev.on F.HIF_ST_STAT_WARM = true ∧
    t.dev.rd F.HIF_ST_STAT_RESTARTS = (s.dev.rd F.HIF_ST_STAT_RESTARTS + 1) % 256 ∧
    t.dev.on F.HIF_EVT_ST_RESTART = true ∧ t.dev.st.booted = false ∧
    (c = .watchdogExpiry → t.dev.on F.HIF_EVT_WDOG = true) ∧
    (∀ i, i < 8 → s.dev.rd (F.MB_STAT_STATE i) = 1 →
      t.dev.rd (F.MB_STAT_STATE i) = 2 ∧ Memory.read t.mem (respArea i) = 7 ∧
      leNat (Memory.readBytes t.mem (respArea i + 8) 4) =
        if (s.dev.mbx.get i).cmd = 0x0101 ∧ (s.dev.mbx.get i).ready = none then 0x0A03 else 0) ∧
    t.dev.nv.queue = [] ∧ t.dev.nv.cur = none ∧ t.dev.cal.caps = [] ∧
    Part.Same s.dev t.dev .plan0 ∧ Part.Same s.dev t.dev .plan1 ∧ Part.Same s.dev t.dev .fs ∧ Part.Same s.dev t.dev .pc ∧
    Part.Same s.dev t.dev .th ∧ Part.Same s.dev t.dev .hif ∧ t.pending = s.pending ∧
    (∀ a, (∀ i, i < 8 → a < respArea i ∨ respArea i + 4096 ≤ a) → Memory.read t.mem a = Memory.read s.mem a)) ∧
  (∀ (s : State), Running s →
  (s.dev.coreUp = true → s.dev.rd F.HIF_ST_STAT_STATE = 0 →
    ∃ t, exec .stewardStart s = .next t ∧ KeepsMem s t ∧ match s.dev.fwPick with
      | none => t.dev.rd F.HIF_ST_STAT_STATE = 3 ∧ t.dev.on F.HIF_EVT_BOOT_FAIL = true ∧ Only [0] [.evq] s t
      | some b => t.dev.rd F.HIF_ST_STAT_STATE = 1 ∧ t.dev.on F.HIF_ST_STAT_IMAGE = b ∧
        t.dev.on F.HIF_ST_STAT_WARM = s.dev.vl.gate ∧
        t.dev.reg R.HIF_FW_VER = BitVec.ofNat 32 (leAt (s.dev.fwHeader b) 4 4) ∧ t.dev.st.booted = true ∧
        (s.dev.nv.tripped = false → t.dev.on F.NV_STAT_RECOVERED = true) ∧ t.dev.on F.NV_STAT_FW_SEL = b) ∧
  (s.dev.rd F.HIF_ST_STAT_STATE = 1 → s.dev.st.booted = true → s.dev.vl.gate = true →
    ∃ t, exec .stewardReady s = .next t ∧ t.dev.rd F.HIF_ST_STAT_STATE = 2 ∧
      t.dev.evq.inbox.length = s.dev.evq.inbox.length + 1 ∧
      Only [0] [.evq] s t))

/-- 00 R8: registers are read as aligned words of 32 bits. The read of a 64-bit register's low word copies the high word into its holding
register, and reads of the high word return that copy until the low word is read again. This is the model's reading (log 94) that a read
granted at T6 moves T6's place in the order of masters (12 R290) and is counted by the bus-port counters that take it (15 R348): t6,
before which WAIT is counted up to now where the register is one of PC: settleFor (log 97). It leaves out RC registers, the MSI-X table and
PBA, and the mailbox areas. -/
def Obligations.HoldingRegisters : Prop := ∀ (s : State) (via : Via) (off : BitVec 23) (r r' : RegSpec), Running s →
  let o := off.toNat / 4 * 4
  let d := (s.dev.settleFor o).t6 via o false
  s.dev.viaShut via o false = false →
  regAt o = some r → regAt (o + 4) = some r' → r.isRc = false → r'.isRc = false → isLow o = true → isLow (o + 4) = false →
  inAreas o = false → ¬(0x1000 ≤ o ∧ o < 0x1808) →
  ∃ t, exec (.lowWordRead via off) s = .next t ∧ t.dev.tx = [.readData o (d.readNow o)] ∧
    (t.dev.hold.look o).getD 0 = d.readNow (o + 4) ∧ (∀ k, k ≠ o → t.dev.hold.look k = s.dev.hold.look k) ∧
    Writes d [.hold] s t ∧
    ∀ (u : State) (via' : Via) (off' : BitVec 23), Running u → off'.toNat / 4 * 4 = o + 4 → u.dev.viaShut via' (o + 4) false = false →
      u.dev.hold.look o = t.dev.hold.look o →
      ∃ w, exec (.lowWordRead via' off') u = .next w ∧ w.dev.tx = [.readData (o + 4) (d.readNow (o + 4))] ∧
        Writes ((u.dev.settleFor (o + 4)).t6 via' (o + 4) false) [] u w

/-- 00 R6, R7, 11 R263, R265, 15 R344: register accesses. A read of an RC register returns it as it is at the grant and leaves 0; a write
stores each field by its access code, or does what its block's register does; a reserved offset reads 0 and ignores writes. A write of
any register with too little privilege, by the debug port outside its windows, or through the locked service aperture stores nothing,
whatever its value. At a stalled T6 an access gets TOUT (12 R289). A request area of a mailbox is memory, which the operator aperture
does not reach of mailboxes 4 to 7 and whose reads there the debug port gets PRIV (12 R287). Of a master that drains, and of the debug
port in reset, no access is taken (12 R296, 16 R361). That an access which would not win the arbitration at T6 (12 R290, R293, R295) does
nothing and is commanded again, and that one granted counts as a transaction, are the model's reading (log 94). -/
def Obligations.RegisterAccess : Prop := ∀ (s : State) (via : Via) (off : BitVec 23) (r : RegSpec), Running s →
  let o := off.toNat / 4 * 4
  let d := (s.dev.settleFor o).t6 via o true
  (s.dev.viaOut via = true → exec (.rcRead via off) s = .next s.fresh ∧ exec (.lowWordRead via off) s = .next s.fresh ∧
    (o ≠ R.TB_SNAP_CTL → ∀ v, exec (.registerWrite via off v) s = .next s.fresh)) ∧
  (s.dev.viaOut via = false → s.dev.t6Stalled = false → s.dev.t6Wins via o false = false →
    exec (.rcRead via off) s = .next s.fresh ∧ exec (.lowWordRead via off) s = .next s.fresh) ∧
  (s.dev.viaOut via = false → s.dev.t6Stalled = false → s.dev.t6Wins via o true = false → s.dev.svcShut via o = false →
    (via = .debug → pcWindow o = true) → o ≠ R.TB_SNAP_CTL → ∀ v, exec (.registerWrite via off v) s = .next s.fresh) ∧
  (s.dev.viaOut via = false → s.dev.t6Stalled = true →
    (∃ t, exec (.lowWordRead via off) s = .next t ∧ t.dev.on F.BM_EVT_TOUT = true ∧ (∀ w, .readData o w ∉ t.dev.tx) ∧
      (via ≠ .steward → Only [17, 21] [.evq, .fc, .hif] s t)) ∧
    (s.dev.svcShut via o = false → ∀ v : Word, ∃ t, exec (.registerWrite via off v) s = .next t ∧ t.dev.on F.BM_EVT_TOUT = true ∧
      (via ≠ .steward → Only [17, 21] [.evq, .fc, .hif, .freeCtr] s t))) ∧
  (regAt o = none → inAreas o = false → ¬(0x1000 ≤ o ∧ o < 0x1808) → MayWrite s via o → s.dev.viaShut via o false = false →
    (∃ t, exec (.lowWordRead via off) s = .next t ∧ t.dev.tx = [.readData o 0] ∧
      Writes ((s.dev.settleFor o).t6 via o false) [] s t) ∧
    ∀ v, ∃ t, exec (.registerWrite via off v) s = .next t ∧ Writes d [] s t) ∧
  (regAt o = some r → inAreas o = false → ¬(0x1000 ≤ o ∧ o < 0x1808) →
    (∀ v : Word, MayWrite s via o → o ≠ R.TB_SNAP_CTL → o ≠ R.HIF_ST_CTL → (∀ i, i < 8 → o ≠ R.MB_DB i) →
      ∃ t, exec (.registerWrite via off v) s = .next t ∧ t.dev = s.fresh.dev.t6Do via o (Dev.regPut o v.toNat 0 0) ∧
        t.mem = s.mem ∧ t.pending = s.pending) ∧
    (r.isRc = true → s.dev.viaShut via o false = false →
      ∃ t, exec (.rcRead via off) s = .next t ∧ t.dev.tx = [.readData o (s.dev.reg o &&& BitVec.ofNat 32 r.shown)] ∧
        Writes (((s.dev.settleFor o).t6 via o false).setReg o 0) [.trc] s t) ∧
    (∀ v : Word, o / 0x10000 ∈ [7, 8, 10, 15, 16] → MayWrite s via o → r.reserved v.toNat = false →
      ∃ t, exec (.registerWrite via off v) s = .next t ∧
        Writes (d.setReg o (BitVec.ofNat 32 (r.written (s.dev.reg o).toNat v.toNat))) [] s t) ∧
    (s.dev.viaShut via o true = false → s.dev.svcShut via o = false → (t6Need o < viaPl via ∨ (via = .debug ∧ pcWindow o = false)) →
      ∀ v : Word, ∃ t, exec (.registerWrite via off v) s = .next t ∧ t.dev.on F.BM_EVT_PRIV = true ∧
        t.dev.rd F.BM_PRIV_CNT = min (s.dev.rd F.BM_PRIV_CNT + 1) 0xFFFFFFFF ∧
        (via ≠ .steward → Only [17, 21] [.evq, .fc, .freeCtr, .bm] s t)) ∧
    (s.dev.viaOut via = false → s.dev.svcShut via o = true →
      ∀ v : Word, ∃ t, exec (.registerWrite via off v) s = .next t ∧ t.dev.fc = { s.dev.fc with lines := s.dev.fc.lines ++
          [s.dev.latched ⟨0x0001, 0, srcWord 0, BitVec.ofNat 32 o, true⟩] } ∧
        Writes (s.dev.wr F.HIF_EVT_SVC_REFUSED 1) [.evq, .fc, .freeCtr] s t)) ∧
  (∀ v : Word, inAreas o = true → via = .operator → s.dev.viaShut via o true = false → 4 ≤ areaMb o →
    exec (.registerWrite via off v) s = .next { s with dev := s.fresh.dev.t6 via o true }) ∧
  (∀ v : Word, inAreas o = true → o % 0x2000 < 0x1000 → via ≠ .debug → s.dev.viaShut via o true = false → s.dev.svcShut via o = false →
    (via = .operator → areaMb o < 4) →
    ∃ t, exec (.registerWrite via off v) s = .next t ∧ t.dev = s.fresh.dev.t6 via o true ∧ t.pending = s.pending ∧
      ∀ a, Memory.read t.mem a = if o ≤ a ∧ a < o + 4 then (toLe 4 v.toNat).getD (a - o) 0 else Memory.read s.mem a)

/-- 16 R359, R361, R362, 12 R296, Table 16.6: the resets. The AON power-on reset and a supervisor's put every register at its reset
value and keep the die and the fuses; RESET_N low keeps the AON domain's latches beside, in P4 without the pending buffer (11 R275),
and TW_CFG.PREF names the active engine (10 R238); its rise drives CORE_EN; DBG_TRST_N resets the debug port, whatever RESET_N is. What the AON domain keeps of event and fault registers (log 41), PREF as it stood before the reset (log 82), and that with RESET_N low
every command but the resets leaves the state (log 17) are the model's reading. -/
def Obligations.Resets : Prop := ∀ s : State,
  (∀ i, i ∈ [Instr.aonPowerOnReset, .supervisor true] →
    ∃ t, exec i s = .next t ∧ (∀ off, t.dev.reg off = regReset off) ∧ t.dev.pins.resetN = false ∧ t.dev.pins.coreEn = false ∧
      t.dev.nv.fuseRb = s.dev.nv.fuseRb ∧ t.dev.nv.wear = s.dev.nv.wear ∧ (s.dev.nv.cur = none → t.dev.nv.pages = s.dev.nv.pages) ∧
      t.dev.nv.aon = none ∧ t.dev.gl = {} ∧ t.dev.le = {} ∧ t.dev.evq = {} ∧ t.dev.fc = {} ∧ t.mem = [] ∧
      t.pending = s.pending) ∧
  (∀ i, i ∈ [Instr.resetN false, .supervisor false] →
    ∃ t, exec i s = .next t ∧
      (∀ off, off ∉ [R.EVQ_PENDING, R.EVQ_PEND_DROP, R.NV_STAT, R.PM_STAT, R.PM_EVT, R.TW_STAT] → t.dev.reg off = regReset off) ∧
      t.dev.rd F.EVQ_PENDING = (if s.dev.rd F.PM_STAT_STATE = 4 then 0 else s.dev.rd F.EVQ_PENDING) ∧
      t.dev.on F.PM_STAT_WAKEFLT = s.dev.on F.PM_STAT_WAKEFLT ∧
      t.dev.evq.pend = (if s.dev.rd F.PM_STAT_STATE = 4 then [] else s.dev.evq.pend) ∧
      t.dev.rd F.TW_STAT_ROLE_A = (if s.dev.on F.TW_CFG_PREF then 2 else 1) ∧
      t.dev.rd F.TW_STAT_ROLE_B = (if s.dev.on F.TW_CFG_PREF then 1 else 2) ∧ t.dev.evq.inbox = [] ∧ t.dev.nv.aon = s.dev.nv.aon ∧
      t.dev.nv.fuseRb = s.dev.nv.fuseRb ∧ t.dev.pins.resetN = false ∧ t.dev.pins.faultN = s.dev.pins.faultN ∧
      t.dev.fc.lines = s.dev.fc.lines.filter (fun x => x.at_.isSome) ∧ t.dev.gl = {} ∧ t.dev.le = {} ∧ t.mem = [] ∧
      t.pending = s.pending) ∧
  (s.dev.pins.resetN = false → ∃ t, exec (.resetN true) s = .next t ∧ t.dev.pins.resetN = true ∧ t.dev.pins.coreEn = true ∧
    t.dev.tx = [.pin "CORE_EN" true, .avsWrite (s.dev.opv 2)] ∧
    t.dev.pm = { s.dev.pm with p3 := .boot, wake := .supply, avsTgt := some 2, avsLast := 2 } ∧ Writes s.dev [.pins, .pm] s t) ∧
  (Running s → exec (.resetN true) s = .next s.fresh) ∧
  ((∃ t, exec (.dbgTrstN false) s = .next t ∧ t.dev.pins = { s.dev.pins with trstN := true } ∧ Writes s.dev [.pins] s t) ∧
    (∃ t, exec (.dbgTrstN true) s = .next t ∧ t.dev.pins = { s.dev.pins with trstN := false } ∧
      (∀ w, w ∈ t.dev.bm.wait → w.m ≠ 5) ∧ (∀ off, off ≠ R.BM_STAT → t.dev.reg off = s.dev.reg off) ∧
      Dev.Keeps [.pins, .bm] s.dev t.dev ∧ KeepsMem s t)) ∧
  (s.dev.pins.resetN = false → ∀ i, i ≠ .aonPowerOnReset → (∀ b, i ≠ .resetN b) → (∀ b, i ≠ .supervisor b) →
    (∀ b, i ≠ .dbgTrstN b) → exec i s = .next s.fresh)

/-- The block takes its commands first in, first out: a step runs the command in front on the rest of the queue; with none
waiting it idles, which is the model's choice (log 2). No word of the table spells a command (log 1). -/
def Obligations.StepTakesFront : Prop :=
  (∀ (c : Instr) (l : List Instr) (s : State), s.pending = c :: l → step s = exec c { s with pending := l }) ∧
  (∀ s : State, s.pending = [] → step s = .next s) ∧
  (∀ nbits w, decodeTableWord nbits w = none ∧ ∀ s : State, s.withFetchWord nbits w = s)

/-- Every command answers a next state and leaves the queue as it is; mailbox memory changes only by the commands that write or clear it
(11 R265, R268; 16 R359). That no row ends in a fault or a refusal is the model's choice (log 14). -/
def Obligations.QueueAndMemory : Prop := ∀ (c : Instr) (s : State), ∃ t, exec c s = .next t ∧ t.pending = s.pending ∧
  ((∀ v mb, c ≠ .doorbell v mb) → (∀ v mb, c ≠ .statusWordRead v mb) → (∀ mb, c ≠ .mailboxCompletion mb) →
    (∀ v o, c ≠ .rcRead v o) → (∀ v o, c ≠ .lowWordRead v o) → (∀ v o w, c ≠ .registerWrite v o w) →
    (∀ x, c ≠ .hostInterfaceReset x) → c ≠ .p3LinkDown → (∀ v w, c ≠ .stewardRestart v w) → c ≠ .watchdogExpiry →
    (∀ x, c ≠ .lockup x) → c ≠ .aonPowerOnReset → (∀ b, c ≠ .resetN b) → (∀ x n, c ≠ .bmGrant x n) → (∀ b, c ≠ .supervisor b) → t.mem = s.mem)

/-- Every step keeps the canonical form of mailbox memory: addresses rising and no byte listed that reads as an unlisted one. -/
def Obligations.StepKeepsMemoryForm : Prop := ∀ s t : State, s.Inv → step s = .next t → t.Inv

/-- The state after reset (R6, R361): no command waiting, mailbox memory empty and in its form, every register at its table's reset value:
so no plan (06), every vat held (03 R76), the effective state P0 at OP2 (14 R317), LEA active and LEB standby (10 R238), lanes in OFF, TB in FREE. -/
def Obligations.ResetState : Prop := State.reset.Inv ∧ State.reset.pending = [] ∧ State.reset.mem = [] ∧
  (∀ off, State.reset.dev.reg off = regReset off) ∧ State.reset.dev.on F.GL_STAT_PLAN = false ∧
  State.reset.dev.rd glInh = 0x80 ∧ (∀ v, v < 64 → State.reset.dev.held v = true) ∧
  State.reset.dev.rd F.PM_STAT_STATE = 0 ∧ State.reset.dev.rd F.PM_STAT_OP = 2 ∧
  State.reset.dev.rd F.TW_STAT_ROLE_A = 1 ∧ State.reset.dev.rd F.TW_STAT_ROLE_B = 2 ∧
  (∀ l, l < 128 → State.reset.dev.rd (F.VL_LSTAT_STATE l) = 0) ∧ State.reset.dev.tbState = 0 ∧ Running State.reset

/-- 09 R231, R232: the stewards start the next queued write: OPEN is journalled and the write stands before the erase of
copy A's first page, with the generation one past the highest of the two copies; a rewrite (R234) takes the content the record
has then; an erase starts with copy B and is not journalled (log 53), and one of a record that is not kept ends (log 31): the model's
readings. -/
def Obligations.RecordWriteStart : Prop := ∀ (s : State) (q : NvReq) (rest : List NvReq), Running s →
  s.dev.nv.cur = none → s.dev.nv.queue = q :: rest → s.dev.nv.tripped = false → s.dev.on F.NV_STAT_RECOVERED = true →
  s.dev.rd F.HIF_ST_STAT_STATE = 2 →
  let o := (s.dev.nvSlotFor q.ty q.key).1
  let held := (s.dev.nvWin o).filter (fun c => c.key == q.key)
  let q' : NvReq := if q.refresh then { q with payload := (held.map (·.payload)).getD [] } else q
  let gen := 1 + (([s.dev.nvCopy o false, s.dev.nvCopy o true].filterMap (Option.map (·.gen))).foldl max 0)
  ∃ t, exec .nvWriteStart s = .next t ∧ t.dev.nv.queue = rest ∧
    (q.erase = true ∨ q.refresh = true → held = none → t.dev.nv.cur = none ∧ t.dev.nv.jpos = s.dev.nv.jpos) ∧
    (q.erase = true → held ≠ none → t.dev.nv.cur = some { req := q', slot := o, copyB := true } ∧ t.dev.nv.jpos = s.dev.nv.jpos) ∧
    (q.erase = false → (q.refresh = true → held ≠ none) → gen ≠ 0xFFFFFFFF → ∃ c, t.dev.nv.cur = some c ∧ c.req = q' ∧ c.slot = o ∧ c.gen = gen ∧
      c.stamp = s.dev.now ∧ c.copyB = false ∧ c.page = 0 ∧ c.erasing = true ∧
      t.dev.nv.jpos = (s.dev.nv.jpos + 1) % 8192 ∧ t.dev.rd F.NV_JSEQ = (s.dev.rd F.NV_JSEQ + 1) % 2 ^ 32) ∧
    (q.erase = false → gen = 0xFFFFFFFF → t.dev.nv.cur = none) ∧
    t.dev.rd F.NV_STAT_QDEPTH = min 255 rest.length ∧ t.dev.on F.NV_STAT_BUSY = t.dev.nv.cur.isSome ∧
    Only [15, 16] [.nv, .bm, .evq, .fc, .freeCtr, .mbx] s t

/-- 09 R232: an erase or program of the write in progress ends; that each page is erased and then programmed, in rising order, and of an
erase copy B before copy A, is the model's reading (log 53). An erased page reads erased and its wear is counted; a
programmed page holds its 4,096 bytes of the copy (after a trip the write then ends, R235); after the last page, read back whole, copy B follows copy A, and after
copy B the write is committed and its mailbox answered with the generation. -/
def Obligations.RecordPages : Prop := ∀ (s : State) (verify : Bool) (c : NvCur), Running s → s.dev.nv.cur = some c →
  let p := slotPage c.slot c.copyB + c.page
  ∃ t, exec (.nvPageOpDone verify) s = .next t ∧
    (c.req.erase = true ∨ c.erasing = true → t.dev.nv.pages.get p = [] ∧ t.dev.nv.wear.get p = s.dev.nv.wear.get p + 1 ∧
      (∀ k, k ≠ p → t.dev.nv.pages.get k = s.dev.nv.pages.get k)) ∧
    (c.req.erase = true → t.dev.nv.cur = if c.copyB then some { c with copyB := false } else none) ∧
    (c.req.erase = false → c.erasing = true → t.dev.nv.cur = some { c with erasing := false }) ∧
    (c.req.erase = false → c.erasing = false → s.dev.nv.tripped = true →
      t.dev.nv.pages.get p = (c.bytes.drop (4096 * c.page)).take 4096 ∧ t.dev.nv.cur = none) ∧
    (c.req.erase = false → c.erasing = false → s.dev.nv.tripped = false →
      (c.page + 1 < c.pages → t.dev.nv.pages.get p = (c.bytes.drop (4096 * c.page)).take 4096 ∧
        t.dev.nv.cur = some { c with page := c.page + 1, erasing := true }) ∧
      (¬ c.page + 1 < c.pages → verify = true →
        t.dev.nv.cur = (if c.copyB then none else some { c with copyB := true, page := 0, erasing := true }) ∧
        t.dev.nv.jpos = (s.dev.nv.jpos + 1) % 8192 ∧
        (c.copyB = true → t.dev.rd F.NV_WRITES = min (s.dev.rd F.NV_WRITES + 1) 0xFFFFFFFF ∧
          ∀ i, i < 8 → c.req.mb = some i → c.req.cal = false →
            (t.dev.mbx.get i).ready = some (0, 0, 0xFFFFFFFF, toLe 4 c.gen))) ∧
      (¬ c.page + 1 < c.pages → verify = false → t.dev.nv.cur = none ∧
        ∀ i, i < 8 → c.req.mb = some i → c.req.cal = false →
          (t.dev.mbx.get i).ready = some (2, 0, 0xFFFFFFFF, []))) ∧
    t.dev.nv.queue = s.dev.nv.queue ∧ Only [15, 16] [.nv, .bm, .evq, .mbx] s t

/-- 09 R234: the scan of every 24 hours reads every record and repairs what R233 repairs; every NV_REFRESH_DAYS days it queues a
rewrite of each record older than that, in slot order. -/
def Obligations.RecordScan : Prop := ∀ s : State, Running s → s.dev.rd F.HIF_ST_STAT_STATE = 2 →
  s.dev.on F.NV_STAT_RECOVERED = true →
  let d := s.fresh.dev.nvScanAll
  ∃ t, exec .nvRecordScan s = .next t ∧ t.dev.nv.pages = d.nv.pages ∧
    (s.dev.nv.days + 1 < d.rd F.NV_REFRESH_DAYS → t.dev.nv.days = s.dev.nv.days + 1 ∧ t.dev.nv.queue = s.dev.nv.queue) ∧
    (¬ s.dev.nv.days + 1 < d.rd F.NV_REFRESH_DAYS → t.dev.nv.days = 0 ∧ t.dev.nv.queue = s.dev.nv.queue ++
      nvSlots.filterMap (fun o => (d.nvWin o).bind (fun c =>
        if c.stamp + d.rd F.NV_REFRESH_DAYS * 86400000000 < d.now then some { ty := slotType o, key := c.key, refresh := true }
        else none))) ∧
    Only [16] [.nv, .bm, .evq, .fc, .freeCtr] s t

/-- 09 R236: nv.record. LIST answers the records kept, READ the bytes of one; WRITE of a PLAN or USER record and ERASE of a
USER record are queued. A record that is not kept, or of another type, is refused (with no code: log 31). -/
def Obligations.RecordCommands : Prop := ∀ (s : State) (mb : BitVec 3) (m : Mbx), Running s →
  (Asked s mb 0x0701 (some 0) m →
    let d := s.fresh.dev.nvScanAll
    let all := nvSlots.filterMap (fun o => (d.nvWin o).map (fun c => (slotType o, c)))
    let pick := (all.drop (m.fld 12 4)).take 145
    ∃ t, exec (.nvRecordList mb) s = .next t ∧
      Answered s t mb 0 0 0xFFFFFFFF (toLe 2 pick.length ++ toLe 2 all.length ++ zeros 4 ++ pick.flatMap (fun x =>
        toLe 2 x.1 ++ zeros 2 ++ toLe 8 x.2.key ++ toLe 4 x.2.gen ++ toLe 8 x.2.stamp ++ toLe 4 x.2.payload.length)) ∧
      t.dev.nv.queue = s.dev.nv.queue ∧ Only [16] [.nv, .bm, .evq, .fc, .freeCtr, .mbx] s t) ∧
  (Asked s mb 0x0701 (some 1) m → nvTypeOk m.nvTy = true → m.fld 16 4 ≤ 4032 →
    let d := s.fresh.dev.nvCheck (s.dev.nvSlotFor m.nvTy m.nvKey).1
    ∃ t, exec (.nvRecordRead mb) s = .next t ∧
      (match (d.nvWin (s.dev.nvSlotFor m.nvTy m.nvKey).1).filter (fun c => c.key == m.nvKey) with
        | some c => m.fld 12 4 ≤ c.payload.length → Answered s t mb 0 0 0xFFFFFFFF
            (toLe 4 c.payload.length ++ zeros 4 ++ (c.payload.drop (m.fld 12 4)).take (m.fld 16 4))
        | none => Answered s t mb 2 0 0xFFFFFFFF []) ∧
      Only [16] [.nv, .bm, .evq, .fc, .freeCtr, .mbx] s t) ∧
  (Asked s mb 0x0701 (some 2) m → (m.nvTy = 0x30 ∧ m.nvKey = 0 ∧ m.fld 16 4 ≤ 0x017FFFC0) ∨
      (0x100 ≤ m.nvTy ∧ m.nvTy ≤ 0x13F ∧ m.fld 16 4 ≤ 4032) → m.fld 20 8 % 64 = 0 →
    (∀ l : List Byte, ∃ t, exec (.nvRecordWrite mb (some l)) s = .next t ∧ UnderWay s t mb ∧
      t.dev.tx = [.hostRead (BitVec.ofNat 64 (m.fld 20 8)) (m.fld 16 4)] ∧
      t.dev.nv = { s.dev.nv with queue := s.dev.nv.queue ++
        [{ mb := some mb.toNat, ty := m.nvTy, key := m.nvKey, payload := fit (m.fld 16 4) l }] } ∧
      t.dev.rd F.NV_STAT_QDEPTH = min 255 (s.dev.nv.queue.length + 1) ∧ Only [16] [.nv, .mbx] s t) ∧
    (∃ t, exec (.nvRecordWrite mb none) s = .next t ∧ Answered s t mb 2 0x0C03 0xFFFFFFFF [] ∧ Only [] [.mbx] s t)) ∧
  (Asked s mb 0x0701 (some 3) m → nvTypeOk m.nvTy = true →
    ∃ t, exec (.nvRecordErase mb) s = .next t ∧
      (0x100 ≤ m.nvTy → UnderWay s t mb ∧ t.dev.nv = { s.dev.nv with queue := s.dev.nv.queue ++
        [{ mb := some mb.toNat, ty := m.nvTy, key := m.nvKey, erase := true }] }) ∧
      (m.nvTy < 0x100 → Answered s t mb 2 0 0xFFFFFFFF []) ∧ Only [16] [.nv, .mbx] s t)

/-- 09 R213, Table 9.1: a cal.run of kind 1 LANE, 2 TSDLY, 3 ISENSE or 4 TAP whose request is in range, whose precondition
holds and whose target no other run has starts its run: the run is listed, CAL_STAT.BUSY shows it, and no answer is given.
A run whose precondition held and whose measurements agree, in range, ends OK: its values take effect and it answers with them, under
STORE when its record is written (R214 to R219); a run whose precondition was lost ends ABORTED and changes no calibration register. That
codes 1 to 5 answer REFUSED with the code as DETAIL, and 0, 6 and 7 OK, is the model's reading (log 62). -/
def Obligations.CalibrationRuns : Prop := (∀ (s : State) (mb : BitVec 3) (m : Mbx) (kind : Nat) (c : Instr), Running s →
  (kind, c) ∈ [(1, Instr.calRunLane mb), (2, .calRunTsdly mb), (3, .calRunIsense mb), (4, .calRunTap mb)] →
  Asked s mb 0x0401 (some kind) m → calBad m = none →
  (kind = 1 → m.calTarget ≤ 127) → (kind = 2 → m.calTarget ≤ 129) →
  (kind = 4 → m.calTarget ≤ 63 ∧ 0 < m.fld 8 2 ∧ m.fld 6 2 + m.fld 8 2 ≤ 512 ∧ nsampOk (m.fld 12 4) = true) →
  let key := if kind = 3 then 130 else if kind = 4 then 256 + m.calTarget else m.calTarget
  s.dev.calReady kind key = true → s.dev.runOn key = false →
  let r : CalRun := { mb := mb.toNat, kind := kind, target := key, store := bit (m.fld 1 1) 0,
                      asym := if bit (m.fld 1 1) 1 then some (BitVec.ofNat 16 (m.fld 18 2)) else none,
                      ref := m.fld 4 1 == 1, first := m.fld 6 2, count := m.fld 8 2, nsamp := m.fld 12 4,
                      x := BitVec.ofNat 16 (m.fld 16 2) }
  ∃ t, exec c s = .next t ∧ t.dev.cal.runs = s.dev.cal.runs ++ [r] ∧ t.dev.on F.CAL_STAT_BUSY = true ∧ UnderWay s t mb ∧
    (kind = 1 → s.dev.laneActive key = true → (t.dev.lane key).calHold = true) ∧
    (kind = 3 ∨ kind = 4 → Only [15] [.cal, .mbx] s t) ∧ (kind = 1 → Only [15] [.cal, .mbx, .vl] s t) ∧
    (kind = 2 → Only [6, 11, 12, 13, 14, 15, 21] ([.mbx, .vl, .tb] ++ cancelParts) s t)) ∧
  (∀ (s : State) (target : Nat) (ms : List Meas) (storeOk : Bool) (r : CalRun),
  Running s → s.dev.cal.runs.find? (fun r => r.target == target && !r.ended) = some r → r.mb < 8 → 1 ≤ r.kind → r.kind ≤ 4 →
  ((r.kind = 4 ∨ r.kind = 3) →
    ∃ t, exec (.calRunEnd target true ms storeOk) s = .next t ∧ t.dev.rd F.CAL_STAT_LASTCODE = 3 ∧
      t.dev.rd F.CAL_RUNS = min (s.dev.rd F.CAL_RUNS + 1) 0xFFFFFFFF ∧
      t.dev.rd F.CAL_FAILS = min (s.dev.rd F.CAL_FAILS + 1) 0xFFFFFFFF ∧ t.dev.on F.CAL_EVT_FAIL = true ∧
      (∀ x ∈ t.dev.cal.runs, x.target = target → x.kind = r.kind → x.ended = true) ∧ (t.dev.mbx.get r.mb).ready = some (2, 3, 0xFFFFFFFF, []) ∧
      t.dev.le = s.dev.le ∧ t.dev.cal.isense = s.dev.cal.isense ∧ Only [15, 17] [.cal, .evq, .mbx, .bm] s t) ∧
  ((r.kind = 1 ∨ r.kind = 2) → target < 130 →
    ∃ t, exec (.calRunEnd target true ms storeOk) s = .next t ∧ t.dev.rd F.CAL_STAT_LASTCODE = 3 ∧ t.dev.rd F.CAL_STAT_KIND = r.kind ∧
      t.dev.rd F.CAL_RUNS = min (s.dev.rd F.CAL_RUNS + 1) 0xFFFFFFFF ∧
      t.dev.rd F.CAL_FAILS = min (s.dev.rd F.CAL_FAILS + 1) 0xFFFFFFFF ∧ t.dev.on F.CAL_EVT_FAIL = true ∧
      (∀ x ∈ t.dev.cal.runs, x.target = target → x.kind = r.kind → x.ended = true) ∧ (t.dev.mbx.get r.mb).ready = some (2, 3, 0xFFFFFFFF, []) ∧
      (∀ l, l < 128 → t.dev.reg (R.CAL_LRX0 l) = s.dev.reg (R.CAL_LRX0 l) ∧ t.dev.reg (R.CAL_LRX1 l) = s.dev.reg (R.CAL_LRX1 l) ∧
        t.dev.rd (F.CAL_LTXLAT l) = s.dev.rd (F.CAL_LTXLAT l) ∧ t.dev.rd (F.CAL_LRXLAT l) = s.dev.rd (F.CAL_LRXLAT l) ∧
        t.dev.rd (F.VL_LASYM l) = s.dev.rd (F.VL_LASYM l)) ∧
      (∀ f ∈ [F.CAL_RPA_TXLAT, F.CAL_RPA_RXLAT, F.CAL_RPB_TXLAT, F.CAL_RPB_RXLAT], t.dev.rd f = s.dev.rd f) ∧
      (r.kind = 1 → (t.dev.lane target).calHold = false ∧ Only [15, 17] [.cal, .evq, .mbx, .bm, .vl] s t) ∧
      (r.kind = 2 → KeepsMem s t ∧ (128 ≤ target → Only [15, 17] [.cal, .evq, .mbx, .bm] s t))) ∧
  (∀ vs, r.agreed ms = some (some vs) → s.dev.calReady r.kind target = true → (r.store = true → storeOk = true) →
    let v (i : Nat) : Int := vs.getD i 0
    let word (i : Nat) : Option Word := tapResult r (s.dev.tapWord (target - 256) (r.first + i)) (v i)
    (r.kind = 1 → laneOk vs = true) → (r.kind = 2 → ∀ i, i < 2 → 0 ≤ v i ∧ v i ≤ 65535) →
    (r.kind = 3 → ∀ i, i < 32 → 0 ≤ v i ∧ v i ≤ 65535) → (r.kind = 4 → ∀ i, i < r.count → (word i).isSome = true) →
    ∃ t resp, exec (.calRunEnd target false ms storeOk) s = .next t ∧ t.dev.rd F.CAL_STAT_LASTCODE = 0 ∧ t.dev.rd F.CAL_STAT_KIND = r.kind ∧
      t.dev.rd F.CAL_RUNS = min (s.dev.rd F.CAL_RUNS + 1) 0xFFFFFFFF ∧ t.dev.rd F.CAL_FAILS = s.dev.rd F.CAL_FAILS ∧
      t.dev.on F.CAL_EVT_DONE = true ∧ (∀ x ∈ t.dev.cal.runs, x.target = target → x.kind = r.kind → x.ended = true) ∧
      (r.store = false → (t.dev.mbx.get r.mb).ready = some (0, 0, 0xFFFFFFFF, resp)) ∧
      (r.store = true → ∃ q, t.dev.nv.queue = s.dev.nv.queue ++ [q] ∧ q.mb = some r.mb ∧ q.resp = resp) ∧
      (r.kind = 1 → t.dev.rd (F.CAL_LRX0_RXDLY target) = uns 6 (v 5) ∧ t.dev.rd (F.CAL_LRX0_THM target) = uns 6 (v 0) ∧
        t.dev.rd (F.CAL_LRX1_TH1 target) = uns 6 (v 1) ∧ t.dev.rd (F.CAL_LRX1_TH2 target) = uns 6 (v 2) ∧
        t.dev.rd (F.CAL_LRX1_TH3 target) = uns 6 (v 3) ∧ t.dev.rd (F.CAL_LRX1_TH4 target) = uns 6 (v 4) ∧ (t.dev.lane target).calHold = false) ∧
      (r.kind = 2 → target < 128 → t.dev.rd (F.CAL_LTXLAT target) = (v 0).toNat ∧ t.dev.rd (F.CAL_LRXLAT target) = (v 1).toNat) ∧
      (r.kind = 3 → t.dev.th.sub = [] ∧ t.dev.on F.TH_STAT_SENSE_SUB = false ∧
        (∀ c, c < 16 → t.dev.cal.isense.get c = (BitVec.ofNat 16 (v (2 * c)).toNat, BitVec.ofNat 16 (v (2 * c + 1)).toNat)) ∧
        resp = (List.range 16).flatMap (fun c =>
          toLe 2 (BitVec.ofNat 16 (v (2 * c)).toNat).toNat ++ toLe 2 (BitVec.ofNat 16 (v (2 * c + 1)).toNat).toNat)) ∧
      (r.kind = 4 → t.dev.le.calPend = s.dev.le.calPend ++
        (List.range r.count).map (fun i => (chKey (target - 256) (r.first + i), (word i).getD 0))) ∧
      (r.store = false → r.kind ≠ 2 → Only [15, 20] [.cal, .evq, .mbx, .th, .vl, .le] s t)))

/-- 09 R220, R224 to R228: char.sweep lists its stint; char.stop ends a stint that has not entered at once; inject.start
takes a free number and answers with it; inject.stop ends it with the last sample it acts on; an injection whose samples
have passed ends with its event; capture.start lists its capture, and a capture that has taken its samples, its records handed over, ends OK. That a stint not yet entered ends at once, and that an injection which put out nothing answers 0, is the
model's choice (log 32). -/
def Obligations.StintsInjectionsCaptures : Prop := ∀ (s : State) (mb : BitVec 3) (m : Mbx), Running s →
  (Asked s mb 0x0402 none m → sweepBad m = none → s.dev.on F.GL_STAT_PLAN = true →
    let v := m.fld 0 1
    let cells := mapBits ((m.req.drop 28).take 32)
    let probe := m.fld 2 2
    cells.all (s.dev.cellLoop v) = true → (probe ≠ 0x3FF → s.dev.chUsed v probe = false ∧ probe < s.dev.ndrvOf v) →
    cells.any (fun l => s.dev.cal.stints.any (fun t => t.vat == v && t.cells.contains l) ||
      s.dev.liveInj.any (fun j => j.vat == v && j.loops.contains l)) = false →
    ∃ t u, exec (.charSweep mb) s = .next t ∧ t.dev.cal.stints = s.dev.cal.stints ++ [u] ∧ u.mb = mb.toNat ∧ u.vat = v ∧
      u.cells = cells ∧ u.maxdur = m.fld 16 4 ∧ u.entered = none ∧ UnderWay s t mb ∧ Only [15] [.cal, .mbx] s t) ∧
  (Asked s mb 0x0403 none m → m.fld 0 1 ≤ 63 → s.dev.cal.stints.any (fun t => t.vat == m.fld 0 1) = true →
    ∃ t, exec (.charStop mb) s = .next t ∧ (t.dev.mbx.get mb.toNat).ready = some (0, 0, 0xFFFFFFFF, []) ∧
      (∀ u ∈ t.dev.cal.stints, u.vat = m.fld 0 1 → u.stopReq = true ∧ u.entered ≠ none) ∧ Only [15] [.cal, .mbx] s t) ∧
  (Asked s mb 0x0404 none m → s.dev.injBad m = none → s.dev.on F.GL_STAT_PLAN = true →
    ∀ (e : VatEntry) (id : Nat), s.dev.vatEntry (m.fld 0 1) = some e → s.dev.injFree = some id →
    (∀ x ∈ injElems m, s.dev.cal.stints.any (fun t => t.vat == m.fld 0 1 && (if x.1 then t.probe == x.2 else t.cells.contains x.2)) = false ∧
      s.dev.liveInj.any (fun j => j.vat == m.fld 0 1 && (if x.1 then j.aux else j.loops).contains x.2) = false) →
    (∀ x ∈ injElems m, (x.1 = false → let d := s.dev.descs.get (loopKey (m.fld 0 1) x.2)
        if m.fld 1 1 = 4 then d.isPort = true else d.used = true) ∧
      (x.1 = true → m.fld 1 1 ≠ 4 ∧ s.dev.chUsed (m.fld 0 1) x.2 = false ∧ x.2 < s.dev.ndrvOf (m.fld 0 1))) →
    ∃ t j, exec (.injectStart mb) s = .next t ∧ t.dev.cal.inj.get id = some j ∧ j.s0 = m.fld 12 8 ∧ j.ns = m.fld 8 4 ∧
      j.vat = m.fld 0 1 ∧ Answered s t mb 0 0 0xFFFFFFFF [BitVec.ofNat 8 id] ∧ Only [15] [.cal, .mbx] s t) ∧
  (Asked s mb 0x0405 none m → ∀ j, m.fld 0 1 ≤ 7 → s.dev.cal.inj.get (m.fld 0 1) = some j → j.stopped = false →
    let n := min j.ns (s.dev.le.frame + 2 - j.s0)
    ∃ t, exec (.injectStop mb) s = .next t ∧ t.dev.cal.inj.get (m.fld 0 1) = some { j with ns := n, stopped := true } ∧
      t.dev.on F.CAL_EVT_INJ_END = true ∧
      Answered s t mb 0 0 0xFFFFFFFF (toLe 8 (if n = 0 then 0 else j.s0 + n - 1)) ∧ Only [15] [.cal, .mbx, .evq] s t) ∧
  (∀ (id : BitVec 3) (j : Inj), s.dev.cal.inj.get id.toNat = some j → j.over s.dev.le.frame = true →
    ∃ t, exec (.injectionEnd id) s = .next t ∧ t.dev.cal.inj.get id.toNat = none ∧
      (j.stopped = false → t.dev.on F.CAL_EVT_INJ_END = true) ∧ Only [15] [.cal, .evq] s t) ∧
  (Asked s mb 0x0406 none m → s.dev.capBad m = none →
    ∀ j : Inj, (m.fld 3 1 = 1 → s.dev.cal.inj.get (m.fld 8 8) = some j ∧ j.stopped = false) → s.dev.on F.GL_STAT_PLAN = true → (s.dev.vatEntry (m.fld 0 1)).isSome = true →
    (capItems m).all (s.dev.capHas (m.fld 0 1)) = true →
    ∃ t c, exec (.captureStart mb) s = .next t ∧ t.dev.cal.caps = s.dev.cal.caps ++ [c] ∧ c.mb = mb.toNat ∧
      c.vat = m.fld 0 1 ∧ c.ring = m.fld 1 1 ∧ c.items = capItems m ∧ c.ns = m.fld 4 4 ∧ c.start = (if m.fld 3 1 = 1 then j.s0 else m.fld 8 8) ∧ c.done = 0 ∧
      t.dev.on F.CAL_STAT_CAPTURE = true ∧ UnderWay s t mb ∧ Only [15] [.cal, .mbx] s t) ∧
  (∀ c : Cap, s.dev.cal.caps = [c] → c.ns ≤ c.done → s.dev.capWaiting c = false → c.mb < 8 →
    ∃ t, exec .captureEnd s = .next t ∧ t.dev.cal.caps = [] ∧ t.dev.on F.CAL_STAT_CAPTURE = false ∧
      t.dev.on F.CAL_EVT_CAP_DONE = true ∧
      (t.dev.mbx.get c.mb).ready = some (0, 0, 0xFFFFFFFF, (s.fresh.dev.capResp c).2) ∧
      Only [15] [.cal, .evq, .mbx, .freeCtr] s t)

/-- 07 R157 to R159, R163 to R165: a REPORT on a port that is up, addressed to DE, from a rod in use that neither repeats nor
comes too soon, opens the rod's window; its one entry, for a destination in use and an enabled subscriber with room in its
meter block, waits there. A frame of EtherType 0x88B5 is such a PDU; a PTP frame goes to the time base, any other is counted and
discarded, and one outside 64 to 1,522 bytes or with a bad FCS counts as bad; FEC codewords count. A port goes down with an S1 line, and with both down the chooser has no reports (S2, R158); a port that may come up
shows LINK, ALIGNED and FEC_LOCK at its configured rate. -/
def Obligations.ReportPorts : Prop := (∀ (s : State) (p : Port) (f : RxFrame) (pdu : List Byte), Running s →
  s.dev.on (rpFld p F.RPA_STAT_LINK) = true →
  let good := 64 ≤ f.len ∧ f.len ≤ 1522 ∧ f.fcsOk = true
  let d := (s.dev.count (rpFld p F.RPA_FEC_CORR) f.fecCorr).count (rpFld p F.RPA_FEC_UNCORR) f.fecUncorr
  (good → s.dev.on (rpFld p F.RPA_CFG_NAERN_RX) = true → reportOk pdu = true → s.dev.daOk p f.da.toNat = true →
    s.dev.on F.DE_CFG_ACCEPT_EN = true → beAt pdu 4 2 < s.dev.rodsInUse →
    let i := beAt pdu 4 2
    let r := s.dev.de.rods.get i
    let d := (beAt pdu 6 2 + 65536 - r.last.toNat) % 65536
    (r.have_ = true → d ≠ 0 ∧ (d < 32768 ∨ bit (byteAt pdu 1) 7 = true) ∧ r.lastacc + 20 ≤ s.dev.now) →
    ∃ t, exec (.report p f pdu) s = .next t ∧
      t.dev.de.rods.get i = { have_ := true, last := BitVec.ofNat 16 (beAt pdu 6 2), lastacc := s.dev.now, stale := false } ∧
      t.dev.rd F.DE_REPORTS = min (s.dev.rd F.DE_REPORTS + 1) 0xFFFFFFFF ∧
      t.dev.rd (rpFld p F.RPA_RX_NAERN) = min (s.dev.rd (rpFld p F.RPA_RX_NAERN) + 1) 0xFFFFFFFF ∧
      (byteAt pdu 8 = 1 →
        let dst := bits (beAt pdu 16 2) 9 0
        let sub := bits (beAt pdu 18 2) 11 0
        dst < s.dev.de.nout → (s.dev.de.dem.subs.get sub).en = true → (s.dev.de.queue.get (sub % 16)).length < 512 →
        t.dev.de.queue.get (sub % 16) = s.dev.de.queue.get (sub % 16) ++
          [⟨i, dst, bits (beAt pdu 16 2) 12 10, sub, BitVec.ofNat 32 (beAt pdu 20 4), s.dev.now⟩]) ∧
      Only [12, 13, 14, 21] [.de, .evq, .fc, .freeCtr] s t) ∧
  (∀ etype : BitVec 16,
    let ptp := etype = 0x88F7 ∨ (etype = 0x0800 ∧ ptpUdp pdu = true)
    (etype = 0x88B5 → exec (.rpFrameRx p f etype pdu) s = exec (.report p f pdu) s) ∧
    (good → etype ≠ 0x88B5 → ¬ptp → ∃ t, exec (.rpFrameRx p f etype pdu) s = .next t ∧ Writes (d.count (rpFld p F.RPA_RX_OTHER)) [] s t) ∧
    (good → ptp → ∃ t, exec (.rpFrameRx p f etype pdu) s = .next t ∧ Writes d [] s t) ∧
    (¬good → ∃ t, exec (.rpFrameRx p f etype pdu) s = .next t ∧ Writes (d.count (rpFld p F.RPA_RX_BAD)) [] s t))) ∧
  (∀ (s : State) (p : Port), Running s →
  (s.dev.on (rpFld p F.RPA_STAT_LINK) = true →
    ∃ t, exec (.portDown p) s = .next t ∧ t.dev.on (rpFld p F.RPA_STAT_LINK) = false ∧
      t.dev.on (rpFld p F.RPA_STAT_ALIGNED) = false ∧ t.dev.on (rpFld p F.RPA_STAT_FEC_LOCK) = false ∧
      t.dev.rd (rpFld p F.RPA_LINK_DOWN) = min (s.dev.rd (rpFld p F.RPA_LINK_DOWN) + 1) 0xFFFFFFFF ∧
      (s.dev.on (rpFld (otherPort p) F.RPA_STAT_LINK) = true → t.dev.fc.lines.length = s.dev.fc.lines.length + 1) ∧
      (s.dev.on (rpFld (otherPort p) F.RPA_STAT_LINK) = false → t.dev.on F.DE_STAT_PORTS_DOWN = true ∧
        t.dev.on F.DE_EVT_PORTS_DOWN = true ∧ t.dev.fc.lines.length = s.dev.fc.lines.length + 2) ∧
      Only [12, 13, 14] [.evq, .fc] s t) ∧
  (s.dev.on (rpFld p F.RPA_CFG_EN) = true → s.dev.vl.gate = true → s.dev.coreUp = true → s.dev.portInCal p = false →
    ∃ t, exec (.portUp p) s = .next t ∧ t.dev.on (rpFld p F.RPA_STAT_LINK) = true ∧
      t.dev.rd (rpFld p F.RPA_STAT_RATE_ACT) = s.dev.rd (rpFld p F.RPA_CFG_RATE) ∧
      t.dev.on F.DE_STAT_PORTS_DOWN = false ∧ Only [12, 13, 14] [] s t))

/-- 07 R165: of a REPORT that is accepted (R163, R164), an entry whose DST is not an output in use by the plan in force, or whose SUB is
disabled, is discarded and counted in DE_BADENT; the others are accounted as those of a REPORT that holds them alone, and with no
other the abacus's queues stay. -/
def Obligations.ReportEntries : Prop := ∀ (s : State) (p : Port) (f : RxFrame) (pdu : List Byte), Running s →
  s.dev.on (rpFld p F.RPA_STAT_LINK) = true → 64 ≤ f.len → f.len ≤ 1522 → f.fcsOk = true →
  s.dev.on (rpFld p F.RPA_CFG_NAERN_RX) = true → reportOk pdu = true → s.dev.daOk p f.da.toNat = true →
  s.dev.on F.DE_CFG_ACCEPT_EN = true → beAt pdu 4 2 < s.dev.rodsInUse →
  let r := s.dev.de.rods.get (beAt pdu 4 2)
  let d := (beAt pdu 6 2 + 65536 - r.last.toNat) % 65536
  (r.have_ = true → d ≠ 0 ∧ (d < 32768 ∨ bit (byteAt pdu 1) 7 = true) ∧ r.lastacc + 20 ≤ s.dev.now) →
  let entries (q : List Byte) : List (List Byte) := reportEntries q (byteAt q 8)
  let bad (x : List Byte) : Bool :=
    decide (s.dev.de.nout ≤ bits (beAt x 0 2) 9 0) || !(s.dev.de.dem.subs.get (bits (beAt x 2 2) 11 0)).en
  ∃ t, exec (.report p f pdu) s = .next t ∧
    t.dev.rd F.DE_BADENT = min (s.dev.rd F.DE_BADENT + (entries pdu).countP bad) 0xFFFFFFFF ∧
    ((entries pdu).all bad = true → t.dev.de.queue = s.dev.de.queue) ∧
    ∀ (pdu' : List Byte) (t' : State), reportOk pdu' = true → byteAt pdu' 1 = byteAt pdu 1 → beAt pdu' 4 2 = beAt pdu 4 2 →
      beAt pdu' 6 2 = beAt pdu 6 2 → entries pdu' = (entries pdu).filter (fun x => !bad x) → exec (.report p f pdu') s = .next t' →
      t.dev.de = t'.dev.de ∧ t.dev.rd F.DE_QDROP = t'.dev.rd F.DE_QDROP

/-- 07 R164, R167 to R169: a meter block takes its oldest entry through its meter; a red entry is counted, any other adds
its increment to its bead, or with a run in progress that has not released the updates is held. A rod whose window has
passed is stale. No bucket ever holds more than its burst, a green entry is covered by both, a yellow one by the peak bucket,
and the octets of an entry are counted under its colour alone. -/
def Obligations.MetersAndWindows : Prop := (∀ (s : State), Running s →
  (∀ (g : BitVec 4) (e : QEnt) (rest : List QEnt), s.dev.de.queue.get g.toNat = e :: rest →
    let c := s.dev.svcCfg e.sub e.svc
    let r := meterStep c e.oct.toNat e.n ((s.dev.de.meters.get (8 * e.sub + e.svc)).open_ s.dev.de.t0 c)
    let inc := beadInc s.dev.de.dem (s.dev.de.dem.subs.get e.sub).sw e.svc e.oct.toNat (r.2 == .green)
    ∃ t, exec (.meterEntry g) s = .next t ∧ t.dev.de.queue.get g.toNat = rest ∧
      t.dev.de.meters.get (8 * e.sub + e.svc) = r.1 ∧
      (r.2 = .red → t.dev.rd F.DE_RED = min (s.dev.rd F.DE_RED + 1) 0xFFFFFFFF ∧ t.dev.de.beads = s.dev.de.beads) ∧
      (r.2 ≠ .red → t.dev.rd F.DE_RED = s.dev.rd F.DE_RED ∧
        (s.dev.de.run = none → t.dev.bead e.rod e.dst = min (s.dev.bead e.rod e.dst + inc) 0xFFFFFFFF) ∧
        (∀ k, s.dev.de.run = some k → k.released = false → 0 < inc →
          t.dev.de.held = s.dev.de.held ++ [.add e.rod e.dst inc])) ∧
      Only [12, 21] [.de, .evq, .fc, .freeCtr] s t) ∧
  (∀ i : BitVec 10, (s.dev.de.rods.get i.toNat).have_ = true → i.toNat < s.dev.rodsInUse →
    (s.dev.de.rods.get i.toNat).lastacc + s.dev.rd F.DE_STALE_US < s.dev.now →
    ∃ t, exec (.rodStale i) s = .next t ∧
      t.dev.de.rods.get i.toNat = { s.dev.de.rods.get i.toNat with stale := true, have_ := false } ∧
      Only [12] [.de, .evq, .fc, .freeCtr] s t)) ∧
  (∀ (c : Svc) (oct n : Nat) (m : Meter),
    let r := meterStep c oct n m
    r.1.tc.toNat ≤ 256 * c.cbs.toNat ∧ r.1.tp.toNat ≤ 256 * c.pbs.toNat ∧
    (r.2 = .green → 256 * oct ≤ 256 * c.cbs.toNat ∧ 256 * oct ≤ 256 * c.pbs.toNat ∧
      r.1.green.toNat = min (m.green.toNat + oct) (2 ^ 64 - 1) ∧ r.1.yellow = m.yellow ∧ r.1.red = m.red) ∧
    (r.2 = .yellow → 256 * oct ≤ 256 * c.pbs.toNat ∧ r.1.yellow.toNat = min (m.yellow.toNat + oct) (2 ^ 64 - 1) ∧
      r.1.green = m.green ∧ r.1.red = m.red) ∧
    (r.2 = .red → r.1.red.toNat = min (m.red.toNat + oct) (2 ^ 64 - 1) ∧ r.1.green = m.green ∧ r.1.yellow = m.yellow))

/-- 07 R182: demand.tenant SET puts the subscriber's named fields in force and cuts its meters to the new bursts; READ
answers its configuration; CLEAR zeroes the octet counts of the named services and nothing else of their meters. -/
def Obligations.Tenants : Prop := ∀ (s : State) (mb : BitVec 3) (m : Mbx) (op : Nat), Running s → Asked s mb 0x0901 (some op) m →
  tenantBad m = none → s.dev.on F.GL_STAT_PLAN = true →
  let sub := m.fld 2 2
  let old := s.dev.de.dem.subs.get sub
  (op = 0 → ∃ t, exec (.demandTenantSet mb) s = .next t ∧ Answered s t mb 0 0 0xFFFFFFFF [] ∧
    (t.dev.de.dem.subs.get sub).en = (if bit (m.fld 4 1) 0 then m.fld 6 1 == 1 else old.en) ∧
    (t.dev.de.dem.subs.get sub).sw = (if bit (m.fld 4 1) 1 then BitVec.ofNat 8 (m.fld 7 1) else old.sw) ∧
    (∀ v, v < 8 → (t.dev.de.dem.subs.get sub).svc[v]? =
      some (if bit (m.fld 5 1) v then tenantSvc m v else old.svc.getD v {})) ∧
    (∀ v, v < 8 → bit (m.fld 5 1) v = true → (t.dev.de.meters.get (8 * sub + v)).tc.toNat ≤ 256 * (tenantSvc m v).cbs.toNat) ∧
    (∀ k, k ≠ sub → t.dev.de.dem.subs.get k = s.dev.de.dem.subs.get k) ∧ t.dev.de.beads = s.dev.de.beads ∧
    Only [] [.de, .mbx] s t) ∧
  (op = 1 → ∃ t pl, exec (.demandTenantRead mb) s = .next t ∧ Answered s t mb 0 0 0xFFFFFFFF pl ∧ pl.length = 528 ∧
    pl.take 16 = [if old.en then 1 else 0, old.sw] ++ zeros 6 ++ toLe 8 s.dev.now ∧ Only [] [.mbx] s t) ∧
  (op = 2 → ∃ t, exec (.demandTenantClear mb) s = .next t ∧ Answered s t mb 0 0 0xFFFFFFFF [] ∧
    (∀ v, v < 8 → t.dev.de.meters.get (8 * sub + v) = if bit (m.fld 5 1) v then
      { s.dev.de.meters.get (8 * sub + v) with green := 0, yellow := 0, red := 0 } else s.dev.de.meters.get (8 * sub + v)) ∧
    t.dev.de = { s.dev.de with meters := t.dev.de.meters } ∧ Only [] [.de, .mbx] s t)

/-- 07 R173 to R176: a chooser run starts on the snapshot of the abacus; its updates are released at clock 4,096; its result
goes to GL with the form of the highest score, or as invalid. -/
def Obligations.ChooserRun : Prop := ∀ (s : State), Running s →
  (∀ (q : Pos) (p : Plan), s.dev.fires 2 = true → s.dev.rd F.PM_STAT_STATE = 0 → s.dev.rd glInh = 0 →
    s.dev.gl.walking = true → s.dev.de.run = none →
    s.dev.decideAt (fun b => b == s.dev.now + s.dev.chooserLead) = some q →
    s.dev.planBank q.bank = some p → (s.dev.gate q).demand = true →
    ∃ t r, exec .chooserStart s = .next t ∧ t.dev.de.run = some r ∧ r.k = q.k ∧ r.bank = q.bank ∧
      r.cset = (s.dev.gate q).cset ∧ r.dflt = (s.dev.gate q).form ∧ r.beads = s.dev.de.beads ∧ r.age = s.dev.de.age ∧
      r.released = false ∧ t.dev.on F.DE_STAT_RUNNING = true ∧
      t.dev.rd F.DE_RUNS = min (s.dev.rd F.DE_RUNS + 1) 0xFFFFFFFF ∧ Only [12, 21] [.de, .tb] s t) ∧
  (∀ r, s.dev.de.run = some r →
    ∃ t, exec .updatesReleased s = .next t ∧ t.dev.de.run = some { r with released := true } ∧ t.dev.de.held = [] ∧
      (∀ i o inc, s.dev.de.held = [.add i o inc] → t.dev.bead i o = min (s.dev.bead i o + inc) 0xFFFFFFFF) ∧ Only [12, 21] [.de, .evq, .fc, .freeCtr] s t) ∧
  (∀ r p, s.dev.de.run = some r → s.dev.planBank r.bank = some p → ∀ (sram : Bool) (ecc : Ecc),
    let best := s.dev.bestForm r p
    let code := if r.code ≠ 0 then r.code else if sram then 4 else if best.1 = 0 then 1 else 0
    let form := if r.code = 0 ∧ sram = false then best.2 else r.dflt
    ∃ t, exec (.chooserResult sram ecc) s = .next t ∧ t.dev.de.run = none ∧ t.dev.on F.DE_STAT_RUNNING = false ∧
      t.dev.gl = { s.dev.gl with choice := some { k := r.k, form := form, valid := decide (code ≤ 1), idle := code == 1 } } ∧
      (1 < code → t.dev.rd F.DE_INVALID = min (s.dev.rd F.DE_INVALID + 1) 0xFFFFFFFF) ∧
      (ecc = .ok → t.dev.fs = s.dev.fs) ∧ t.dev.de.held = [] ∧ Only [10, 12, 21] [.de, .gl, .trc, .evq, .fs, .fc, .freeCtr] s t)

/-- 07 R174: the run's result is the highest score over the eligible forms, and the first form in map order that has it; with
every score 0 it is the default. -/
def Obligations.HighestScore : Prop := ∀ (s : Dev) (r : Run) (p : Plan),
  let b := s.bestForm r p
  let score (f : Nat × List Byte) : Nat := scoreForm r p (permList (formPerm f.2))
  (∀ f ∈ s.eligible r.bank r.cset, score f ≤ b.1) ∧ (b.1 = 0 → b.2 = r.dflt) ∧
  (0 < b.1 → ∃ l f l', s.eligible r.bank r.cset = l ++ f :: l' ∧ f.1 = b.2 ∧ score f = b.1 ∧ ∀ g ∈ l, score g < b.1)

/-- 06 R140, R141, 02 R36: at B(k - 2), when its comparator fires, the next slot is decided and listed. With an inhibit in force it is nochg with the image of
the slot before it, and counted; with none it takes the form that R140 picks. It is announced on every report port that is up (07 R161),
in P0 to P2 (07 R177), and its beads are drained (07 R170). A hard inhibit, here that of a safe state the host forces, cancels every slot decided and not
committed: REVOKE goes out, the count steps and what was drained for it comes back (06 R142, 07 R162, R172). -/
def Obligations.Decision : Prop := (∀ (s : State), Running s → s.dev.gl.walking = true → s.dev.fires 1 = true →
  let g := s.dev.gl
  let q := s.dev.decPos
  ∀ p, s.dev.planBank q.bank = some p →
  ∃ t x, exec .bKMinus2 s = .next t ∧ t.dev.gl.dec = g.dec ++ [x] ∧ x.k = q.k ∧ x.m = q.b ∧ x.entry = q.entry ∧
    x.dur = (s.dev.gate q).dur ∧ x.committed = false ∧ x.cancelled = false ∧ (s.dev.rd F.PM_STAT_STATE < 3 → x.announced = true) ∧
    (s.dev.rd glInh ≠ 0 → x.nochg = true ∧ x.img = s.dev.prevImg ∧
      t.dev.rd F.GL_NOCHG = min (s.dev.rd F.GL_NOCHG + 1) 0xFFFFFFFF) ∧
    (s.dev.rd glInh = 0 → ∀ f, (s.dev.pickForm q (s.dev.gate q)).1 = some f →
      x.nochg = false ∧ x.img = s.dev.formImg q.bank p f ∧ t.dev.rd F.GL_NOCHG = s.dev.rd F.GL_NOCHG) ∧
    t.dev.gl.decK = (s.dev.succ q).k ∧ t.dev.gl.decM = (s.dev.succ q).b ∧ t.dev.gl.choice = none ∧
    (∀ (r : Port) (i : Nat), x.announced = true → s.dev.on (rpFld r F.RPA_STAT_LINK) = true → s.dev.on (rpFld r F.RPA_CFG_NAERN_TX) = true →
      let parts := if p.nin ≤ 512 then 1 else 2
      let wire := fit (2 * p.nin) (permWire x.img.perm)
      i < parts → s.dev.naern r (annPdu x p.nin i parts (crc32c wire) wire) ∈ t.dev.tx) ∧
    (∀ i o, i < p.nin → (permList x.img.perm)[i]? = some (some o) → o < 1024 → s.dev.de.run = none → s.dev.rd F.FC_STAT_SAFE < 2 →
      t.dev.bead i o = s.dev.bead i o - p.dem.drate.getD i 0 * (1000 * x.dur - 10 * x.rind) / 256000) ∧
    Only [11, 12, 13, 14, 21] [.gl, .cal, .de, .evq, .fc, .freeCtr, .tb] s t) ∧
  (∀ (s : State) (via : Via) (v : Word), Running s → MayWrite s via R.FC_SAFE_CTL → s.dev.unclocked = false → bit v.toNat 1 = false →
    s.dev.fc.latch = false → bit (s.dev.rd glInh) 2 = false →
    ∃ t, exec (.force via v) s = .next t ∧ bit (t.dev.rd glInh) 2 = true ∧ KeepsMem s t ∧
      ∀ x, x ∈ s.dev.gl.dec → x.committed = false → x.cancelled = false →
        (∃ y, y ∈ t.dev.gl.dec ∧ y.k = x.k ∧ y.m = x.m ∧ y.cancelled = true ∧ y.committed = false ∧ y.changed = []) ∧
        min (s.dev.rd F.GL_REVOKE + 1) 0xFFFFFFFF ≤ t.dev.rd F.GL_REVOKE ∧ t.dev.on F.GL_EVT_REVOKE = true ∧
        (∀ r : Port, x.announced = true → s.dev.on (rpFld r F.RPA_STAT_LINK) = true → s.dev.on (rpFld r F.RPA_CFG_NAERN_TX) = true →
          ∃ keep, s.dev.naern r (revokePdu x.k keep 2 (s.dev.rd F.GL_STAT_EPOCH)) ∈ t.dev.tx ∧
            ((∀ z, z ∈ s.dev.gl.dec → z.committed = false) → keep = s.dev.gl.lastK)) ∧
        (s.dev.de.run = none → (∀ z, z ∈ t.dev.de.drained → z.1 ≠ x.k) ∧
          ∀ i o a, s.dev.de.drained = [(x.k, i, o, a)] → t.dev.bead i o = min (s.dev.bead i o + a) 0xFFFFFFFF))

/-- 06 R139, R134: at B(k), when its comparator fires (02 R36), the slot index and the gate-list entry advance and the next boundary is one duration on; the slot
decided for it, the latest of that number, becomes the current one. GL_PRESSES counts each committed slot that is not nochg, with or
without a changed cell (log 47), and one that was cancelled shows as nochg (log 68): the model's readings. Before that its fixed form is
read, and a slot of the form store that fails is BAD, on a scrub by SECDED alone. GL_CTL.PAUSE is an inhibit, and GL_INH follows its
conditions. -/
def Obligations.Boundaries : Prop := ∀ (s : State), Running s →
  (∀ p, s.dev.plan = some p → (s.dev.gl.walking = true ∨ s.dev.pressDue = true) → s.dev.fires 0 = true →
    let k := (s.dev.rd2 R.GL_SLOT_LO + 1) % 2 ^ 64
    ∃ t, exec .slotBoundary s = .next t ∧ t.dev.rd2 R.GL_SLOT_LO = k ∧ t.dev.rd F.GL_STAT_ENTRY = s.dev.gl.entry % 4096 ∧
      t.dev.gl.nextB = s.dev.gl.nextB + (p.gate.getD s.dev.gl.entry {}).dur ∧
      t.dev.gl.entry = (if s.dev.gl.entry + 1 < p.gate.length then s.dev.gl.entry + 1 else 0) ∧
      (∀ x, s.dev.gl.slotOf (s.dev.rd2 R.GL_SLOT_LO + 1) = some x →
        t.dev.rd F.GL_FORM_CUR = x.img.fnum % 4096 ∧ t.dev.on F.GL_FORM_CUR_NOCHG = x.nochg ∧
        t.dev.rd F.GL_PRESSES = (if x.committed && !x.nochg then min (s.dev.rd F.GL_PRESSES + 1) 0xFFFFFFFF
          else s.dev.rd F.GL_PRESSES)) ∧
      t.dev.gl.dec = s.dev.gl.dec ∧ Only [11] [.gl, .de, .tb] s t) ∧
  (∀ q slot, s.dev.decideAt (fun b => decide (s.dev.now ≤ b) && decide (b ≤ s.dev.now + 2)) = some q →
    s.dev.fs.map q.bank (s.dev.gate q).form = some slot →
    exec (.defaultRead .ok) s = .next s.fresh ∧
    (∃ t, exec (.defaultRead .corrected) s = .next t ∧ Writes (s.dev.count F.FS_CE_CNT) [] s t) ∧
    (∃ t, exec (.defaultRead .checkFails) s = .next t ∧ (t.dev.fs.slots.get slot).bad = true ∧
      t.dev.rd F.FS_UE_CNT = s.dev.rd F.FS_UE_CNT ∧ Only [10] [.fs, .fc, .freeCtr] s t) ∧
    ∃ t, exec (.defaultRead .uncorrectable) s = .next t ∧ (t.dev.fs.slots.get slot).bad = true ∧
      t.dev.rd F.FS_UE_CNT = min (s.dev.rd F.FS_UE_CNT + 1) 0xFFFFFFFF ∧ Only [10] [.fs, .fc, .freeCtr] s t) ∧
  (∀ (via : Via) (v : Word), MayWrite s via R.GL_CTL →
    ∃ t, exec (.glPauseWrite via v) s = .next t ∧ t.dev.on F.GL_CTL_PAUSE = bit v.toNat 0 ∧
      t.dev.on F.GL_INH_PAUSE = bit v.toNat 0 ∧ t.dev.rd glInh = t.dev.inhNow ∧
      Only [11, 12, 13, 14, 21] (.bm :: cancelParts) s t) ∧
  (∀ (slot : BitVec 12) (done : Bool), ∃ t, exec (.fsScrub slot .uncorrectable done) s = .next t ∧
    (t.dev.fs.slots.get slot.toNat).bad = true ∧ t.dev.rd F.FS_UE_CNT = min (s.dev.rd F.FS_UE_CNT + 1) 0xFFFFFFFF ∧
    Only [10] [.fs, .fc, .freeCtr] s t) ∧
  (∀ (slot : BitVec 12) (done : Bool) (r : Ecc), r ≠ .uncorrectable → ∃ t, exec (.fsScrub slot r done) s = .next t ∧
    let d := if r = .corrected then s.dev.count F.FS_CE_CNT else s.dev
    Writes (if done then d.wr F.FS_SCRUB_PASS (s.dev.rd F.FS_SCRUB_PASS + 1) else d) [] s t)

/-- 06 R151, R153, R156, 02 R36: at N_act, when its comparator fires, a staged plan whose activation is pending takes force: bank,
epoch, anchor, cycle length and number of entries, demand configuration; a sample that is not N_act leaves it pending (log 94, the
model's reading). Two samples on, once no engine runs in the old bank (01 R26; log 19), the old plan is retired and its bank's map empty,
unless a plan is staged there. -/
def Obligations.Activation : Prop := ∀ (s : State), Running s →
  (s.dev.rd2 R.GL_ACT_LO ≠ s.dev.now → exec .activationSample s = .next s.fresh) ∧
  (∀ p, s.dev.on F.GL_STAT_ACT_PEND = true → s.dev.rd2 R.GL_ACT_LO = s.dev.now → s.dev.fires 3 = true →
    s.dev.planBank s.dev.stagedBank = some p →
    ∃ t, exec .activationSample s = .next t ∧ t.dev.plan = some p ∧ t.dev.on F.GL_STAT_PLAN = true ∧
      t.dev.on F.GL_STAT_BANK = s.dev.stagedBank ∧ t.dev.rd F.GL_STAT_EPOCH = (s.dev.rd F.GL_STAT_EPOCH + 1) % 256 ∧
      t.dev.on F.GL_STAT_ACT_PEND = false ∧ t.dev.on F.GL_STAT_STAGED = false ∧ t.dev.rd2 R.GL_ACT_LO = 0 ∧
      t.dev.rd2 R.GL_ANCHOR_LO = s.dev.rd2 R.GL_ACT_LO ∧ t.dev.rd F.GL_CYCLEN = p.cyclen % 2 ^ 20 ∧
      t.dev.rd F.GL_NENT = p.gate.length % 2 ^ 13 ∧ t.dev.de.dem = p.dem ∧ t.dev.de.nin = p.nin ∧ t.dev.de.nout = p.nout ∧
      t.dev.on F.GL_EVT_ACTIVATED = true ∧ t.pending = s.pending ∧ KeepsMem s t) ∧
  (∀ n, s.dev.gl.retireAt = some n → (s.dev.now < n ∨ s.dev.inOldBank = true) → exec .planRetire s = .next s.fresh) ∧
  (∀ n, s.dev.gl.retireAt = some n → n ≤ s.dev.now → s.dev.inOldBank = false →
    ∃ t, exec .planRetire s = .next t ∧ t.dev.gl = { s.dev.gl with retireAt := none } ∧ t.dev.on F.GL_EVT_RETIRED = true ∧
      (s.dev.on F.GL_STAT_STAGED = false → t.dev.planBank s.dev.stagedBank = none ∧
        (∀ f, t.dev.fs.map s.dev.stagedBank f = none) ∧
        t.dev.planBank (!s.dev.stagedBank) = s.dev.planBank (!s.dev.stagedBank) ∧
        ∀ f, t.dev.fs.map (!s.dev.stagedBank) f = s.dev.fs.map (!s.dev.stagedBank) f) ∧
      (s.dev.on F.GL_STAT_STAGED = true → Part.Same s.dev t.dev .fs ∧ Part.Same s.dev t.dev .plan0 ∧ Part.Same s.dev t.dev .plan1) ∧
      Only [10, 11] [.gl, .fs, .plan0, .plan1, .le, .de, .evq] s t)

/-- 08 R204, R205, R207: plan.load discards a staged plan and reads its image; a pending activation or a conflict refuses it.
An image read stages its plan, or the load ends with the code of the first check that fails; the record store checks the records that
the load reads (09 R234). -/
def Obligations.PlanLoad : Prop := ∀ (s : State) (mb : BitVec 3) (m : Mbx), Running s →
  (Asked s mb 0x0101 none m →
    (s.dev.on F.GL_STAT_ACT_PEND = false → m.conflict = false →
      ∃ t, exec (.planLoad mb) s = .next t ∧ UnderWay s t mb ∧ t.dev.on F.GL_STAT_STAGED = false ∧
        (m.fld 0 1 = 0 → t.dev.tx = [.hostRead (BitVec.ofNat 64 (m.fld 8 8)) (m.fld 4 4)]) ∧
        (s.dev.on F.GL_STAT_BANK ≠ s.dev.stagedBank → t.dev.plan = s.dev.plan) ∧
        Only [10, 11] [.mbx, .fs, .plan0, .plan1, .le, .de] s t) ∧
    (s.dev.on F.GL_STAT_ACT_PEND = true →
      ∃ t pl, exec (.planLoad mb) s = .next t ∧ Answered s t mb 2 0x0A01 0xFFFFFFFF pl ∧ Only [] [.mbx] s t) ∧
    (s.dev.on F.GL_STAT_ACT_PEND = false → m.conflict = true →
      ∃ t, exec (.planLoad mb) s = .next t ∧ Answered s t mb 2 0x0C01 0xFFFFFFFF [] ∧ Only [] [.mbx] s t)) ∧
  (∀ (image : Option (List Byte)) (k : Nat), s.dev.loadingMb = some k → s.dev.mbx.get k = m →
    let rec_ := m.fld 0 1 ≠ 0
    let d := if rec_ then s.fresh.dev.nvCheck 1472 else s.fresh.dev
    let wins := if rec_ then [16] else []
    let parts := if rec_ then [.mbx, .bm, .freeCtr, .nv, .evq, .fc] else [.mbx, .freeCtr]
    ∃ t, exec (.planLoadDone image) s = .next t ∧ match d.loadBytes m image with
      | none => (k < 8 → ∃ pl, (t.dev.mbx.get k).ready = some (2, 0x0A02, 0xFFFFFFFF, pl)) ∧ Only wins parts s t
      | some im => match d.loadImage im (m.fld 4 4) with
        | .inl e => (k < 8 → ∃ pl, (t.dev.mbx.get k).ready = some (2, e.code, 0xFFFFFFFF, pl)) ∧ Only wins parts s t
        | .inr (p, _, pl) => t.dev.planBank s.dev.stagedBank = some p ∧ t.dev.on F.GL_STAT_STAGED = true ∧
          t.dev.descsOf s.dev.stagedBank = p.descs ∧
          t.dev.fs.mapOf s.dev.stagedBank = pl.map (fun x => (x.1, some x.2.1)) ∧
          (k < 8 → ∃ r, (t.dev.mbx.get k).ready = some (0, 0, 0xFFFFFFFF, r)) ∧
          Only [10, 11, 16] [.mbx, .bm, .fs, .plan0, .plan1, .le, .de, .nv, .evq, .fc, .freeCtr] s t)

/-- 06 R150: plan.activate with no condition of R150 failing makes the activation at N pending, and else is refused with the
lowest code; its cancel in time takes the activation back. The response to either names the activation, its decision instant and its
epoch (11 Table 11.7). -/
def Obligations.PlanActivate : Prop := ∀ (s : State) (mb : BitVec 3) (m : Mbx), Running s →
  (Asked s mb 0x0102 (some 0) m → match lowestCode m.conflict (s.dev.actCodes (m.fld 8 8)) with
    | some c => ∃ t, exec (.planActivate mb) s = .next t ∧ Answered s t mb 2 c 0xFFFFFFFF [] ∧ Only [] [.mbx] s t
    | none => ∃ t, exec (.planActivate mb) s = .next t ∧ t.dev.on F.GL_STAT_ACT_PEND = true ∧
      t.dev.rd2 R.GL_ACT_LO = m.fld 8 8 ∧
      (t.dev.mbx.get mb.toNat).ready = some (0, 0, 0xFFFFFFFF, toLe 8 (m.fld 8 8) ++ toLe 8 (uns 64 (s.dev.actDecision (m.fld 8 8))) ++
        [BitVec.ofNat 8 (s.dev.rd F.GL_STAT_EPOCH + 1)]) ∧ Only pmWindows (.tb :: pmParts) s t) ∧
  (Asked s mb 0x0102 (some 1) m → s.dev.on F.GL_STAT_ACT_PEND = true → m.conflict = false →
    (s.dev.cancelLate = false → ∃ t, exec (.planActivateCancel mb) s = .next t ∧ t.dev.on F.GL_STAT_ACT_PEND = false ∧
      t.dev.rd2 R.GL_ACT_LO = 0 ∧ t.dev.on F.GL_STAT_STAGED = s.dev.on F.GL_STAT_STAGED ∧
      (t.dev.mbx.get mb.toNat).ready = some (0, 0, 0xFFFFFFFF, let n := s.dev.rd2 R.GL_ACT_LO
        toLe 8 n ++ toLe 8 (uns 64 (s.dev.actDecision n)) ++ [BitVec.ofNat 8 (s.dev.rd F.GL_STAT_EPOCH + 1)]) ∧ Only pmWindows (.tb :: pmParts) s t) ∧
    (s.dev.cancelLate = true → ∃ t, exec (.planActivateCancel mb) s = .next t ∧ Answered s t mb 2 0x0B04 0xFFFFFFFF [] ∧
      Only [] [.mbx] s t))

/-- 06 R148, R149: form.write on the staged plan, or on the copy of the plan in force that it then becomes. WRITE puts the
form into its slot and map, DELETE takes a form no gate-list entry needs out of the map, RELEVEL replaces the level table. -/
def Obligations.FormWrite : Prop := ∀ (s : State) (mb : BitVec 3) (m : Mbx) (p : Plan), Running s →
  s.dev.on F.GL_STAT_ACT_PEND = false → m.conflict = false →
  (if s.dev.on F.GL_STAT_STAGED then s.dev.planBank s.dev.stagedBank else s.dev.plan) = some p →
  let b := s.dev.stagedBank
  let d := s.dev.stageCopy
  let n := m.fld 2 2
  (Asked s mb 0x0201 (some 0) m → ∀ (f : List Byte) (slot : Nat) (shared : Bool), formCode p.topo.toNat p.descs f = 0 →
    gateCode p.gate (withForm s.dev.editForms n f) = none →
    ((placeForms s.dev.fs s.dev.forceBank s.dev.fs.taken [(n, f)]).bind List.head?).isSome = true →
    placeForms d.fs d.forceBank d.fs.taken [(n, f)] = some [(n, slot, shared)] →
    ∃ t, exec (.formWrite mb (some f)) s = .next t ∧ t.dev.fs.map b n = some slot ∧
      (shared = false → t.dev.fs.slots.get slot = { bytes := f, bad := false }) ∧
      (∀ k, k ≠ n → t.dev.fs.map b k = d.fs.map b k) ∧ t.dev.on F.GL_STAT_STAGED = true ∧
      t.dev.tx = [.hostRead (BitVec.ofNat 64 (m.fld 8 8)) 6144] ∧
      Answered s t mb 0 0 0xFFFFFFFF (toLe 2 slot ++ [if shared then 1 else 0]) ∧
      Only [10, 11] [.fs, .de, .mbx, .bm, .plan0, .plan1, .le] s t) ∧
  (Asked s mb 0x0201 (some 1) m → gateCode p.gate (s.dev.editForms.filter (fun x => x.1 != n)) = none →
    ∃ t, exec (.formDelete mb) s = .next t ∧ t.dev.fs.map b n = none ∧ (∀ k, k ≠ n → t.dev.fs.map b k = d.fs.map b k) ∧
      t.dev.on F.GL_STAT_STAGED = true ∧ Answered s t mb 0 0 0xFFFFFFFF [] ∧
      Only [10, 11] [.fs, .de, .mbx, .bm, .plan0, .plan1, .le] s t) ∧
  (Asked s mb 0x0201 (some 2) m → levelBad m.payload 8 = none →
    ∃ t, exec (.formRelevel mb) s = .next t ∧ t.dev.planBank b = some { p with level := levelsAt m.payload 8 } ∧
      t.dev.on F.GL_STAT_STAGED = true ∧ Answered s t mb 0 0 0xFFFFFFFF [] ∧
      Only [10, 11] [.fs, .de, .mbx, .bm, .plan0, .plan1, .le] s t)

/-- 01 R14, 02 R35, R37, 08 R195: FRAME_STROBE opens F(n) for the sample after that of the latest sample strobe: while a plan is in
force and the engines run, with its sense frames empty, its lanes' parts not handed over and every program in phase 0; in P2 one frame
in 16 runs (03 R78). It is the commit point of the slot at n + 2 (06 R143), and every loop ramps and offloads (05 R110, R112). PHASE_STROBE opens the next phase of a vat's program in each engine that runs it. FRAME_CLOSE runs the programs to their end, an update as 05 R107 gives it, decides the
roles (10 R242, R243), and what loop.read returns is the active engine's state from then on (R10). SAMPLE_STROBE advances the sample index and sends TOS on every lane
in TIME or ACTIVE (03 R73), in P2 for one sample in four. That a frame strobe which runs no frame also sets the frame's index is
DEDUCED (log 39). -/
def Obligations.Strobes : Prop := ∀ (s : State), Running s →
  (s.dev.coreUp = true → let n := s.dev.now + 1; let runs := (s.fresh.dev.pmFrame n).frameRuns n
    ∃ t, exec .frameStrobe s = .next t ∧ t.dev.le.frame = n ∧ t.dev.le.isOpen = runs ∧ KeepsMem s t ∧
      (s.dev.stands n = false → s.dev.rd F.PM_STAT_STATE < 2 → s.dev.rd F.PM_STAT_REQ < 2 → runs = true) ∧
      (s.dev.stands n = false → s.dev.rd F.PM_STAT_STATE = 2 → s.dev.rd F.PM_STAT_REQ = 2 → runs = (n % 16 == 0)) ∧
      (runs = true → t.dev.tw.rel = [] ∧
        (∀ v, v < 64 → (t.dev.vat v).sof = none ∧ (t.dev.vat v).segs = [] ∧ (t.dev.vat v).status = none) ∧
        (∀ e v, (t.dev.eng e).ph.get v = 0)) ∧
      (s.dev.rd F.PM_STAT_STATE < 2 → s.dev.rd F.PM_STAT_REQ < 2 → hardBits s.dev.inhNow = false →
        ∀ x, x ∈ s.dev.gl.dec → x.m = n + 2 → x.cancelled = false →
          ∃ y, y ∈ t.dev.gl.dec ∧ y.k = x.k ∧ y.m = x.m ∧ y.committed = true ∧ y.cancelled = false ∧ y.img = x.img) ∧
      (s.dev.rd F.PM_STAT_STATE < 2 → s.dev.rd F.PM_STAT_REQ < 2 → hardBits s.dev.inhNow = true →
        ∀ x, x ∈ s.dev.gl.dec → x.m = n + 2 → x.committed = false → x.nochg = false →
          ∃ y, y ∈ t.dev.gl.dec ∧ y.k = x.k ∧ y.m = x.m ∧ y.cancelled = true ∧ y.committed = false ∧ y.changed = []) ∧
      (∀ (e : Eng) (v l : Nat) (ve : VatEntry) (d : Desc), let k := loopKey v l
        s.dev.rd F.PM_STAT_STATE < 2 → s.dev.rd F.PM_STAT_REQ < 2 → runs = true → s.dev.rd F.FC_STAT_SAFE = 0 →
        s.dev.le.inUse = true → s.dev.bankAt n = some (s.dev.le.bank, s.dev.le.epoch) → s.dev.le.tune = [] → s.dev.gl.dec = [] →
        s.dev.cal.stints = [] → s.dev.cal.inj = [] → s.dev.tw.reqs = [] → s.dev.tw.vres = [] → s.dev.tw.wres = none →
        (s.dev.vat v).holdEff = none → ((s.dev.framePlan.map (·.vats)).getD []).filter (·.vat == v) = [ve] → v < 64 → l < 256 →
        (loopsOf s.dev.descs v).filter (·.1 == l) = [(l, d)] → s.dev.unitRuns e v = true →
        ((s.dev.eng e).loops.get k).mode = .run → ((s.dev.eng e).loops.get k).spv = true →
        let o := (openLoop d { n := n, tgt := (s.dev.gl.last.tgts.getD d.idx.toNat 0).toInt } ((s.dev.eng e).loops.get k)).1
        ((t.dev.eng e).loops.get k).sp = o.sp ∧ ((t.dev.eng e).loops.get k).th = o.th)) ∧
  (∀ (v : BitVec 6) (p : BitVec 3) (ve : VatEntry), s.dev.le.isOpen = true →
    ((s.dev.framePlan.map (·.vats)).getD []).find? (·.vat == v.toNat) = some ve → 0 < p.toNat →
    p.toNat < (s.dev.prog v.toNat).phases.length → s.dev.phaseLate p.toNat v.toNat = [] →
    ∃ t, exec (.phaseStrobe v p) s = .next t ∧ t.dev.le.isOpen = true ∧ t.dev.le.frame = s.dev.le.frame ∧
      (∀ e, (t.dev.eng e).ph.get v.toNat = if s.dev.unitRuns e v.toNat = true ∧ (s.dev.eng e).ph.get v.toNat < p.toNat then p.toNat
        else (s.dev.eng e).ph.get v.toNat) ∧ t.dev.tw = s.dev.tw ∧ KeepsMem s t) ∧
  (s.dev.le.isOpen = true → ∃ t, exec .frameClose s = .next t ∧ t.dev.le.isOpen = false ∧
    t.dev.le.closedN = s.dev.le.frame ∧ t.dev.le.frame = s.dev.le.frame ∧ t.dev.le.closed = (t.dev.eng t.dev.active).loops ∧
    t.dev.le.closedDescs = t.dev.descs ∧ t.dev.tw.shadowN = s.dev.le.frame ∧ t.dev.gl.pchk = none ∧ KeepsMem s t ∧
    (let a := s.dev.active
     let b := s.dev.partner
     let ready := s.dev.role b = 2 ∧ s.dev.vatResync = false
     (t.dev.faulty a = true → (t.dev.faulty b = true ∧ s.dev.role b ≠ 0) ∨ ¬ready →
       t.dev.active = a ∧ s.dev.latched ⟨0x0903, 3, srcWord 9, BitVec.ofNat 32 (engNo a), true⟩ ∈ t.dev.fc.lines) ∧
     (t.dev.faulty a = true → t.dev.faulty b = false → ready → t.dev.active = b ∧ t.dev.role b = 1 ∧ t.dev.role a = 0 ∧
       t.dev.rd (causeFld a) = 1 ∧ t.dev.rd F.TW_FAILOVER = min (s.dev.rd F.TW_FAILOVER + 1) 0xFFFFFFFF ∧ t.dev.on F.TW_EVT_FAILOVER = true) ∧
     (t.dev.faulty a = false → t.dev.faulty b = true → s.dev.role b ≠ 0 → t.dev.active = a ∧ t.dev.role b = 0 ∧ t.dev.rd (causeFld b) = 1 ∧
       t.dev.rd F.TW_REMOVALS = min (s.dev.rd F.TW_REMOVALS + 1) 0xFFFFFFFF) ∧
     (t.dev.faulty a = false → t.dev.faulty b = false → ready → s.dev.tw.wres = none → s.dev.tw.trialBad = [] → s.dev.rd2 R.TW_XF_LO = 0 →
       s.dev.tw.diffs ≠ [] →
       (s.dev.tw.mis.length + 1 < s.dev.rd F.TW_CFG_MIS_LIM → t.dev.role b = 2 ∧ t.dev.on F.TW_STAT_SUSPECT = true ∧
         ∀ x, x ∈ s.dev.tw.diffs → (t.dev.tw.vres.get x.1).isSome = true ∧ (a, x.1) ∈ t.dev.tw.prio ∧ (b, x.1) ∈ t.dev.tw.prio) ∧
       (s.dev.rd F.TW_CFG_MIS_LIM ≤ 1 → t.dev.role b = 0 ∧ t.dev.rd (causeFld b) = 2 ∧ t.dev.on F.TW_STAT_SUSPECT = false))) ∧
    (∀ (e : Eng) (v l : Nat) (ve : VatEntry) (i : PInst) (r : List PInst) (d : Desc), let k := loopKey v l
      ((s.dev.framePlan.map (·.vats)).getD []).filter (·.vat == v) = [ve] → v < 64 → l < 256 → s.dev.unitRuns e v = true →
      (s.dev.prog v).ins.drop ((s.dev.eng e).pos.get v) = i :: r → i.opc = 6 → r.all (fun j => j.opc ∉ [4, 5, 6]) = true →
      (∀ j, j ∈ (s.dev.prog v).ins → j.phase ≤ (s.dev.eng e).ph.get v) → (gangLoops s.dev.descs v i.arg).filter (·.1 == l) = [(l, d)] →
      s.dev.gl.dec = [] → s.dev.cal.stints = [] → s.dev.cal.inj = [] →
      let o := loopUpdate d ((s.dev.eng e).front.get k) { jApp := chipApp s.dev.inP2 s.dev.le.frame, pvRep := (s.dev.eng e).pvsat.get k }
        ((s.dev.eng e).loops.get k)
      (t.dev.eng e).loops.get k = o.st ∧ (((s.dev.eng e).loops.get k).mode = .run →
        ((t.dev.eng e).recs.get k).head? = some (s.dev.le.frame, o.st.uhold)))) ∧
  (∀ (residue : BitVec 32) (inc : Option (BitVec 64)), s.dev.coreUp = true →
    let n := s.dev.now + 1
    let at_ (l : Nat) : Nat := residue.toNat + s.dev.rd (F.CAL_LTXLAT l)
    ∃ t, exec (.sampleStrobe residue inc) s = .next t ∧ t.dev.now = n % 2 ^ 64 ∧
      (∀ x, inc = some x → t.dev.rd2 R.TB_AON_INC_LO = x.toNat) ∧
      (∀ l, l < 128 → (s.dev.rd (F.VL_LSTAT_STATE l) = 5 ∨ s.dev.rd (F.VL_LSTAT_STATE l) = 6) → (s.dev.inP2 = true → n % 4 = 0) →
        Tx.tos l (BitVec.ofNat 40 (1000 * n + at_ l / 256)) (BitVec.ofNat 8 (at_ l % 256))
          (BitVec.ofNat 16 (s.dev.rd (F.VL_LDLY_DN l))) (BitVec.ofNat 16 n)
          ([2, 3, 4, 6].contains (s.dev.rd F.TB_STAT_STATE)) ∈ t.dev.tx) ∧ KeepsMem s t ∧
      (s.dev.le.darkDone = none → s.dev.pm.p3 ≠ .woken →
        Only [5, 6, 11, 12, 13, 14, 19, 21] ([.gl, .cal, .de, .evq, .fc, .freeCtr, .trc] ++ [.tb, .vl, .hif, .pm]) s t))

/-- 01 R17, 10 R239, R240: an engine hands over its next part of a vat's frame once the operations that make it have issued (d). Its
first copy waits for the other's; equal copies are released on the lanes that are ACTIVE, LEA's on lane A and LEB's on lane B; copies
that differ withhold this part and every later one and count a mismatch. A cross-fed vat's part of the active engine is released as it
comes. With the TERM of a frame go the HOLD, RELEASE and MODE blocks that wait for it (03 R59). -/
def Obligations.Handover : Prop := ∀ (s : State) (e : Eng) (v : BitVec 6) (g : Seg) (flips : List Flip) (ve : VatEntry),
  Running s → ((s.dev.framePlan.map (·.vats)).getD []).find? (·.vat == v.toNat) = some ve → s.dev.le.isOpen = true →
  s.dev.on F.TW_STAT_ARB_FLT = false →
  let k := segNo g
  let d := s.fresh.dev.issueFor ve k
  let r := d.rel v.toNat
  let l := flipBytes flips (d.part e d.le.frame ve k)
  d.unitRuns e v.toNat = true → r.aborted = false → r.whole e = false → d.part e d.le.frame ve k ≠ [] →
  k = nextPart (d.bodies ve) (r.handed e) →
  (d.crossFed v.toNat = false →
    (r.wait.find? (fun w => w.1 == other e && w.2.1 == k) = none →
      ∃ t, exec (.segmentHandover e v g flips) s = .next t ∧ (t.dev.rel v.toNat).wait = r.wait ++ [(e, k, l)] ∧
        t.dev.tx = d.tx ∧ Dev.RegsAs d t.dev ∧ Dev.Keeps [.tw] d t.dev ∧ KeepsMem s t) ∧
    (∀ w, r.wait.find? (fun w => w.1 == other e && w.2.1 == k) = some w →
      let a := if e = .lea then l else w.2.2
      let b := if e = .lea then w.2.2 else l
      (firstDiff (maskSof k a) (maskSof k b) 0 = none →
        ∃ t, exec (.segmentHandover e v g flips) s = .next t ∧ (t.dev.rel v.toNat).opened = true ∧
          (t.dev.rel v.toNat).closed = (k == 31) ∧
          (let tx := (d.onLanes v.toNat (fun lb => if k = 31 then .term v.toNat lb else .drive v.toNat lb k (if lb then b else a))).tx
           t.dev.tx.take tx.length = tx ∧ (k ≠ 31 ∨ (d.vat v.toNat).blks = [] → t.dev.tx = tx ∧ Part.Same d t.dev .vl)) ∧
          Dev.RegsAs d t.dev ∧ Dev.Keeps [.tw, .pc, .vl] d t.dev ∧ KeepsMem s t) ∧
      (∀ i, firstDiff (maskSof k a) (maskSof k b) 0 = some i →
        ∃ t, exec (.segmentHandover e v g flips) s = .next t ∧ (t.dev.rel v.toNat).aborted = true ∧
          t.dev.rd F.TW_MISMATCH = min (d.rd F.TW_MISMATCH + 1) 0xFFFFFFFF ∧ t.dev.on F.TW_EVT_MISMATCH = true ∧
          (t.dev.vat v.toNat).lostFrame = some d.le.frame ∧ Dev.Within [9] d t.dev ∧
          Dev.Keeps [.tw, .pc, .vl, .evq, .trc, .freeCtr] d t.dev ∧ KeepsMem s t))) ∧
  (d.crossFed v.toNat = true → e = d.active → d.runs d.partner v.toNat = false →
    ∃ t, exec (.segmentHandover e v g flips) s = .next t ∧ (t.dev.rel v.toNat).closed = (k == 31) ∧
      (let tx := (d.onLanes v.toNat (fun lb => if k = 31 then .term v.toNat lb else .drive v.toNat lb k l)).tx
       t.dev.tx.take tx.length = tx ∧ (k ≠ 31 ∨ (d.vat v.toNat).blks = [] → t.dev.tx = tx ∧ Part.Same d t.dev .vl)) ∧
      Dev.RegsAs d t.dev ∧ Dev.Keeps [.tw, .pc, .vl] d t.dev ∧ KeepsMem s t)

/-- 10 R240, R241, 08 R209: a frame that has left the pins by its deadline is complete. A copy 16 core clocks late is a mismatch and NOSEG in the late engine's health word. A frame
not off the pins in time ends with ABORT, and the engine that had not handed it over whole is faulty, both being a plan
overrun. -/
def Obligations.LateCopies : Prop := ∀ (s : State) (v : BitVec 6), Running s →
  (∀ (late : Eng) (g : Seg) (w : Eng × Nat × List Byte),
    ((s.dev.rel v.toNat).wait.find? (fun w => w.1 == other late && w.2.1 == segNo g)) = some w →
    (s.dev.rel v.toNat).aborted = false → s.dev.le.isOpen = true → s.dev.runs late v.toNat = true →
    s.dev.crossFed v.toNat = false →
    ∃ t, exec (.noseg late v g) s = .next t ∧ t.dev.faulty late = true ∧
      bit (t.dev.rd (healthFld late F.TW_HEALTH_A_CHECKS)) 5 = true ∧ (t.dev.rel v.toNat).aborted = true ∧
      t.dev.rd F.TW_MISMATCH = min (s.dev.rd F.TW_MISMATCH + 1) 0xFFFFFFFF ∧
      Only [9] [.tw, .pc, .vl, .evq, .trc, .freeCtr] s t) ∧
  (∀ r : Rel, s.dev.tw.lastRel.look v.toNat = some r → r.closed = true →
    ∃ t, exec (.driveFrameDeadline v) s = .next t ∧ t.dev.tw.lastRel.look v.toNat = none ∧ t.dev.tx = [] ∧ Writes s.dev [.tw] s t) ∧
  (∀ r : Rel, s.dev.tw.lastRel.look v.toNat = some r → r.closed = false → r.aborted = false →
    s.dev.on F.TW_STAT_ARB_FLT = false →
    ∃ t, exec (.driveFrameDeadline v) s = .next t ∧ (t.dev.vat v.toNat).lostFrame = some s.dev.le.closedN ∧
      (r.opened = true → let tx := (s.fresh.dev.onLanes v.toNat (fun lb => .abort v.toNat lb)).tx
        t.dev.tx.take tx.length = tx ∧ ((s.dev.vat v.toNat).blks = [] → t.dev.tx = tx)) ∧
      (∀ e, (s.dev.inServiceOf v.toNat).filter (fun e => !r.whole e) = [e] → t.dev.faulty e = true ∧
        bit (t.dev.rd (healthFld e F.TW_HEALTH_A_CHECKS)) 4 = true ∧ t.dev.fc = s.dev.fc) ∧
      ((s.dev.inServiceOf v.toNat).filter (fun e => !r.whole e) = [.lea, .leb] →
        t.dev.fc = { s.dev.fc with lines := s.dev.fc.lines ++ [s.dev.latched ⟨0x0704, 3, srcWord 7 v.toNat, 2, true⟩] }) ∧
      Only [9] [.tw, .vl, .pc, .fc, .freeCtr] s t)

/-- 05 R107, R109: the normal update puts out a value within UMIN and UMAX and keeps the integrator of the loop's state
within ILIM; the state and the other state's integrator stay. -/
def Obligations.LoopLimits : Prop := ∀ (d : Desc) (f : Front) (j : Nat) (s : LoopSt), d.umin.toInt ≤ d.umax.toInt →
  let o := updNormal d f j s
  d.umin.toInt ≤ o.st.uhold.toInt ∧ o.st.uhold.toInt ≤ d.umax.toInt ∧ o.st.st = s.st ∧ o.st.i (!s.st) = s.i (!s.st) ∧
  o.st.th = s.th ∧ o.st.mode = s.mode ∧
  (((s.i s.st).natAbs : Int) ≤ a16 d.ilim.toNat → ((o.st.i s.st).natAbs : Int) ≤ a16 d.ilim.toNat)

/-- 03 R58, R65, R64, R77, R364: an accepted SOF_S copy makes the vat's sense frame of n and admits its lane's segments; one of
another SEQ is rejected and counted, one whose EPOCH alone fails waits for its status word; an admitted segment's codes become tap
codes; a block with an invalid sync header counts; a vat with no HOLD reason, a lane ACTIVE and 16 frames accepted is released with
the next frame that runs. -/
def Obligations.SenseFrames : Prop := ∀ (s : State), Running s →
  (∀ u : BitVec 6, s.dev.held u.toNat = true → (s.dev.vat u.toNat).holds = 0 → s.dev.vatActive u.toNat = true →
    16 ≤ (s.dev.vat u.toNat).acc → (s.dev.vat u.toNat).relEff = none →
    let eff := s.dev.nextFrame (max s.dev.le.frame s.dev.now) + 1
    ∃ t, exec (.releaseSend u) s = .next t ∧ (t.dev.vat u.toNat).relEff = some eff ∧
      t.dev.tx = (s.fresh.dev.sendFour u.toNat (.release eff)).tx ∧ Only [] [.vl] s t) ∧
  (∀ lane : BitVec 7,
  let l := lane.toNat
  let v := l / 2
  let x := s.dev.vat v
  let again := x.sofN = s.dev.now ∧ x.sof.isSome = true
  s.dev.laneActive l = true → (s.dev.lane l).doubt = none →
  (∀ (b : SofS) (d : SenseSeg) (j : BitVec 4), b.hdrOk = false → d.hdrOk = false →
    (∃ t, exec (.sofS lane b) s = .next t ∧ t.dev.rd (F.VL_BLK_ERR l) = min (s.dev.rd (F.VL_BLK_ERR l) + 1) 0xFFFFFFFF ∧ Only [6] [.vl] s t) ∧
    (∃ t, exec (.senseSegment lane j d) s = .next t ∧ t.dev.rd (F.VL_BLK_ERR l) = min (s.dev.rd (F.VL_BLK_ERR l) + 1) 0xFFFFFFFF ∧
      (t.dev.vat v).copies.contains (l % 2 == 1) = false ∧ Only [6] [.vl] s t)) ∧
  ((s.dev.lane l).calHold = false → ∀ (b : SofS) (e : VatEntry), b.hdrOk = true → b.crcOk = true → s.dev.vatEntry v = some e →
    (b.seq.toNat = s.dev.now % 65536 → stampOk b.stamp.toNat s.dev.now = true → b.ntap.toNat = e.ntap →
      (s.dev.held v = true ∨ s.dev.liveEpoch b.epoch = true →
        ∃ t, exec (.sofS lane b) s = .next t ∧ (t.dev.vat v).sofN = s.dev.now ∧
          (¬again → (t.dev.vat v).sof = some (if s.dev.held v then { b with epoch := s.dev.le.epoch } else b)) ∧ (again → (t.dev.vat v).sof = x.sof) ∧
          (t.dev.vat v).copies = (if again then x.copies else []) ++ [l % 2 == 1] ∧ (t.dev.lane l).seqRej = 0 ∧
          t.dev.on (F.VL_LSTAT_TLOCK l) = b.tlock ∧
          Only [6, 11, 12, 13, 14, 18, 21] ([.gl, .cal, .de, .evq, .fc, .freeCtr, .trc] ++ [.vl, .pc]) s t) ∧
      (s.dev.held v = false → s.dev.liveEpoch b.epoch = false →
        ∃ t, exec (.sofS lane b) s = .next t ∧ (t.dev.lane l).doubt = some b ∧ t.dev.on (F.VL_LSTAT_TLOCK l) = b.tlock ∧ Only [6] [.vl] s t)) ∧
    (b.seq.toNat ≠ s.dev.now % 65536 → (s.dev.lane l).seqRej < 15 →
      ∃ t, exec (.sofS lane b) s = .next t ∧ t.dev.rd (F.VL_SEQ_ERR l) = min (s.dev.rd (F.VL_SEQ_ERR l) + 1) 0xFFFFFFFF ∧
        (t.dev.lane l).seqRej = (s.dev.lane l).seqRej + 1 ∧ Part.Same s.dev t.dev .le ∧ Only [6] [.vl] s t)) ∧
  (∀ (j : BitVec 4) (d : SenseSeg), (s.dev.lane l).calHold = false → d.hdrOk = true → d.crcOk = true → again →
    x.copies.contains (l % 2 == 1) = true → x.segs.contains j.toNat = false →
    ∃ t, exec (.senseSegment lane j d) s = .next t ∧ (t.dev.vat v).segs = x.segs ++ [j.toNat] ∧
      (∀ i, i < d.codes.length → t.dev.vl.taps.get (chKey v (segFirst j.toNat + i)) = d.codes.getD i 0) ∧
      (j = 0 → (t.dev.vat v).status = some d.status ∧ (t.dev.vat v).never = d.status.never ∧
        (t.dev.vat v).aseq = d.status.aseq) ∧
      Only [6] [.vl, .le, .fc, .freeCtr] s t))

/-- 03 R56, R57, R61 to R63, R74, Table 3.3, 09 R215, R216: a lane's way from DETECT to ACTIVE. DREQ goes out in DELAY, and in ACTIVE
every 2^(DLY_INT + 6) samples. Its DRSP closes the exchange: the lane's delays and time offset are the means of the latest 16, from
instants that the latencies of its transmitter and receiver correct. In DELAY the 16th exchange takes the lane to TIME, or out of
range to FAULT; in ACTIVE a delay out of range or a jump faults it. The model's readings: an open is reported before a short, RX_INV
toggles when the complement of a TRN passes its CRC, TLOCK is taken from every TRN, and the means are what DELAY_LONG and the jump are
judged on (log 42); the means round half to even (log 44). -/
def Obligations.LaneTraining : Prop := (∀ (s : State) (lane : BitVec 7), Running s →
  let l := lane.toNat
  let st := s.dev.rd (F.VL_LSTAT_STATE l)
  let x := s.dev.lane l
  let y := s.dev.lane (2 * (l / 2) + (1 - l % 2))
  (∀ openP openN short : Bool, st = 1 →
    ∃ t, exec (.detectDone lane openP openN short) s = .next t ∧ t.dev.on (F.VL_LSTAT_OPEN_P l) = openP ∧
      t.dev.on (F.VL_LSTAT_OPEN_N l) = openN ∧ t.dev.on (F.VL_LSTAT_SHORT l) = short ∧
      (openP = true ∨ openN = true → t.dev.rd (F.VL_LSTAT_STATE l) = 8 ∧ t.dev.rd (F.VL_LSTAT_CAUSE l) = 1) ∧
      (openP = false → openN = false → short = true →
        t.dev.rd (F.VL_LSTAT_STATE l) = 8 ∧ t.dev.rd (F.VL_LSTAT_CAUSE l) = 2) ∧
      (openP = false → openN = false → short = false → t.dev.rd (F.VL_LSTAT_STATE l) = 2 ∧
        (t.dev.lane l).nonceTx = s.dev.free.setWidth 16 ∧ t.dev.fc = s.dev.fc) ∧
      Only [6] [.vl, .fc, .freeCtr] s t) ∧
  (∀ ms : List Meas, 2 ≤ st → st ≤ 6 →
    ∃ t, exec (.blockLock lane ms) s = .next t ∧ (t.dev.lane l).locked = true ∧
      (st ≠ 2 → Only [] [.vl] s t) ∧
      (∀ vs, st = 2 → agreeAll laneTols ms = some (some vs) → laneOk vs = true →
        t.dev.rd (F.CAL_LRX0_RXDLY l) = uns 6 (vs.getD 5 0) ∧ t.dev.rd (F.CAL_LRX0_THM l) = uns 6 (vs.getD 0 0) ∧
        t.dev.rd (F.CAL_LRX1_TH1 l) = uns 6 (vs.getD 1 0) ∧ t.dev.rd (F.CAL_LRX1_TH4 l) = uns 6 (vs.getD 4 0) ∧ Only [15] [.vl] s t) ∧
      (st = 2 → agreeAll laneTols ms = some none → Only [] [.vl, .fc, .freeCtr] s t)) ∧
  (∀ b : Trn, b.hdrOk = true → x.locked = true →
    (st = 2 → b.crcOk = true ∨ b.crcInv = true → ∃ t, exec (.trn lane b) s = .next t ∧ (t.dev.lane l).nonceRx = b.nonceTx ∧
      (t.dev.lane l).trnGood = min 8 (x.trnGood + 1) ∧
      t.dev.on (F.VL_LSTAT_RX_INV l) = (if b.crcOk then s.dev.on (F.VL_LSTAT_RX_INV l) else !s.dev.on (F.VL_LSTAT_RX_INV l)) ∧
      t.dev.rd (F.VL_LSTAT_STATE l) = (if 7 ≤ x.trnGood then 3 else 2) ∧ Only [6] [.vl, .fc, .freeCtr] s t) ∧
    (st = 3 → b.crcOk = true → b.fromEic = true → b.id ≠ 0 → 3 ≤ b.tstate.toNat →
      (b.nonceEcho = x.nonceTx ∨ (b.nonceEcho = y.nonceTx ∧ b.nonceEcho ≠ 0)) →
      ∃ t, exec (.trn lane b) s = .next t ∧ t.dev.on (F.VL_LSTAT_EIC_PORT l) = b.endp ∧
        t.dev.rd (F.VL_EIC_ID_LO l) = b.id.toNat % 2 ^ 32 ∧ t.dev.rd (F.VL_EIC_ID_HI l) = b.id.toNat / 2 ^ 32 ∧
        t.dev.on (F.VL_LSTAT_SPLIT l) = (b.nonceEcho == y.nonceTx && b.nonceEcho != x.nonceTx) ∧
        ((s.dev.boundId (l / 2)).getD b.id = b.id → t.dev.rd (F.VL_LSTAT_STATE l) = 4) ∧
        ((s.dev.boundId (l / 2)).getD b.id ≠ b.id → t.dev.rd (F.VL_LSTAT_STATE l) = 8 ∧ t.dev.rd (F.VL_LSTAT_CAUSE l) = 5) ∧
        Only [6] [.vl, .fc, .freeCtr] s t) ∧
    (st = 5 → b.crcOk = true → ∃ t, exec (.trn lane b) s = .next t ∧ t.dev.on (F.VL_LSTAT_TLOCK l) = b.tlock ∧
      t.dev.rd (F.VL_LSTAT_STATE l) = (if b.tlock then 6 else 5) ∧
      (b.tlock = true → bit (t.dev.reg (R.VL_LANE_UP0 + 4 * (l / 32))).toNat (l % 32) = true) ∧ Only [6] [.vl] s t) ∧
    (st = 4 ∨ st = 6 → b.crcOk = true → ∃ t, exec (.trn lane b) s = .next t ∧ t.dev.on (F.VL_LSTAT_TLOCK l) = b.tlock ∧
      t.dev.rd (F.VL_LSTAT_STATE l) = st ∧ Only [6] [.vl] s t))) ∧
  (∀ (s : State) (lane : BitVec 7), Running s →
  (∀ (nonce : Byte) (t1 : BitVec 64), let l := lane.toNat
    let st := s.dev.rd (F.VL_LSTAT_STATE l)
    (st = 4 ∨ (st = 6 ∧ ∀ a, (s.dev.lane l).dreqAt = some a → s.dev.now < a ∨ a + 2 ^ (s.dev.rd F.VL_CFG_DLY_INT + 6) ≤ s.dev.now)) →
    ∃ t, exec (.delayExchangeDue lane nonce t1) s = .next t ∧ (t.dev.lane l).dreq = some (nonce, t1) ∧
      (st = 6 → (t.dev.lane l).dreqAt = some s.dev.now) ∧ t.dev.tx = [.dreq l nonce] ∧ Only [] [.vl] s t) ∧
  (∀ (d : Drsp) (t1 : BitVec 64),
    let r := lane.toNat
    let l := if s.dev.on (F.VL_LSTAT_SPLIT r) then 2 * (r / 2) + (1 - r % 2) else r
    let st := s.dev.rd (F.VL_LSTAT_STATE l)
    s.dev.receives r = true → d.hdrOk = true → d.crcOk = true → (s.dev.lane l).dreq = some (d.nonce, t1) → st = 4 ∨ st = 6 →
    let at1 : Int := t1.toInt + s.dev.rd (F.CAL_LTXLAT l)
    let rt : Int := d.t4.toInt - s.dev.rd (F.CAL_LRXLAT r) - at1 - d.turn.toNat
    let asym := sgn 16 (s.dev.rd (F.VL_LASYM l))
    let ex := ((⟨rt + 2 * asym, rt - 2 * asym, sgn 33 (uns 33 (2 * (d.t2.toNat : Int) - 2 * at1 - (rt + 2 * asym)))⟩ : Exch) ::
      (s.dev.lane l).exch).take 16
    let dn := mean2 (ex.map (·.dn))
    let up := mean2 (ex.map (·.up))
    let long := 10240 < dn ∨ 10240 < up
    let jump := (256 * s.dev.rd F.VL_CFG_DJUMP_LIM : Int) < (dn - sgn 16 (s.dev.rd (F.VL_LDLY_DN l))).natAbs ∨
      (256 * s.dev.rd F.VL_CFG_DJUMP_LIM : Int) < (up - sgn 16 (s.dev.rd (F.VL_LDLY_UP l))).natAbs
    let early := st = 4 ∧ (s.dev.lane l).nDelay < 15
    ∃ t, exec (.drsp lane d) s = .next t ∧ (t.dev.lane l).dreq = none ∧
      t.dev.rd (F.VL_LDLY_DN l) = uns 16 dn % 2 ^ 16 ∧ t.dev.rd (F.VL_LDLY_UP l) = uns 16 up % 2 ^ 16 ∧
      t.dev.rd (F.VL_LTOFF l) = uns 32 (mean2 (ex.map (·.off))) % 2 ^ 32 ∧
      (early → t.dev.rd (F.VL_LSTAT_STATE l) = 4 ∧ (t.dev.lane l).exch = ex ∧ (t.dev.lane l).nDelay = (s.dev.lane l).nDelay + 1) ∧
      (¬early → long → t.dev.rd (F.VL_LSTAT_STATE l) = 8 ∧ t.dev.rd (F.VL_LSTAT_CAUSE l) = 6) ∧
      (st = 4 → ¬early → ¬long → t.dev.rd (F.VL_LSTAT_STATE l) = 5 ∧ (t.dev.lane l).exch = ex) ∧
      (st = 6 → ¬long → jump → t.dev.rd (F.VL_LSTAT_STATE l) = 1 ∧ t.dev.rd (F.VL_LSTAT_CAUSE l) = 11) ∧
      (st = 6 → ¬long → ¬jump → t.dev.rd (F.VL_LSTAT_STATE l) = 6 ∧ (t.dev.lane l).exch = ex) ∧
      Only [6, 11, 12, 13, 14, 18, 21] ([.gl, .cal, .de, .evq, .fc, .freeCtr, .trc] ++ [.vl]) s t))

/-- 03 R82, R83, Tables 3.3 and 3.14: a step of training that takes too long, and an open in service, fault the lane with
their CAUSE; a lane that loses block lock in ACTIVE, outside a LANE run of its own (09 R215), or that the host retrains or enables, goes back to DETECT, but a
TSDLY run keeps its lane in OFF (09 R216); a disabled one goes to OFF. An open together with a short gives CAUSE 1 (log 42, the model's
reading). -/
def Obligations.LaneFaults : Prop := ∀ (s : State) (lane : BitVec 7), Running s →
  let l := lane.toNat
  let st := s.dev.rd (F.VL_LSTAT_STATE l)
  let parts : List Part := [.gl, .cal, .de, .evq, .fc, .freeCtr, .trc] ++ [.vl]
  (∀ c, (st, c) ∈ [(2, 3), (3, 4), (4, 6), (5, 7)] →
    ∃ t, exec (.trainingTimeout lane) s = .next t ∧ t.dev.rd (F.VL_LSTAT_STATE l) = 8 ∧ t.dev.rd (F.VL_LSTAT_CAUSE l) = c ∧
      Only [6] [.vl, .fc, .freeCtr] s t) ∧
  (st = 8 → s.dev.mayTrain l = true →
    ∃ t, exec (.faultRetry lane) s = .next t ∧ t.dev.rd (F.VL_LSTAT_STATE l) = 1 ∧
      t.dev.rd (F.VL_RETRAIN l) = min (s.dev.rd (F.VL_RETRAIN l) + 1) 0xFFFFFFFF ∧ Only [6] [.vl] s t) ∧
  (let losses := if (s.dev.lane l).runLost then s.dev.rd (F.VL_LOCK_LOSS l) else min (s.dev.rd (F.VL_LOCK_LOSS l) + 1) 0xFFFFFFFF
   (st = 6 → (s.dev.lane l).calHold = true → ∃ t, exec (.lockLost lane) s = .next t ∧ t.dev.rd (F.VL_LSTAT_STATE l) = 6 ∧
    (t.dev.lane l).locked = false ∧ (t.dev.lane l).runLost = true ∧ t.dev.rd (F.VL_LOCK_LOSS l) = losses ∧ Only [6] [.vl] s t) ∧
   (st = 6 → (s.dev.lane l).calHold = false → ∃ t, exec (.lockLost lane) s = .next t ∧ t.dev.rd (F.VL_LSTAT_STATE l) = 1 ∧
    t.dev.rd (F.VL_LSTAT_CAUSE l) = 8 ∧ t.dev.rd (F.VL_LOCK_LOSS l) = losses ∧
    (s.dev.vatActive (l / 2) = true → s.dev.laneActive (2 * (l / 2) + (1 - l % 2)) = false → t.dev.held (l / 2) = true) ∧
    Only [6, 11, 12, 13, 14, 21] parts s t)) ∧
  (st ≠ 6 → ∃ t, exec (.lockLost lane) s = .next t ∧ (t.dev.lane l).locked = false ∧ Only [] [.vl] s t) ∧
  (∀ openP openN short : Bool, 1 ≤ st → st ≤ 6 → openP = true ∨ openN = true ∨ short = true →
    ∃ t, exec (.openShortDetect lane openP openN short) s = .next t ∧ t.dev.rd (F.VL_LSTAT_STATE l) = 8 ∧
      t.dev.rd (F.VL_LSTAT_CAUSE l) = (if openP || openN then 1 else 2) ∧ t.dev.on (F.VL_LSTAT_OPEN_P l) = openP ∧
      t.dev.on (F.VL_LSTAT_OPEN_N l) = openN ∧ t.dev.on (F.VL_LSTAT_SHORT l) = short ∧ Only [6, 11, 12, 13, 14, 21] parts s t) ∧
  (∀ (via : Via) (v : Word), MayWrite s via (R.VL_LCFG l) → s.dev.vl.gate = true → bit v.toNat 0 = true →
    (∃ t, exec (.retrain via lane v) s = .next t ∧ t.dev.on (F.VL_LCFG_EN l) = true ∧
      t.dev.rd (F.VL_LSTAT_STATE l) = (if s.dev.laneInCal l then st else 1) ∧ Only [6, 11, 12, 13, 14, 21] (.bm :: parts) s t) ∧
    (s.dev.on (F.VL_LCFG_EN l) = false → s.dev.on F.VL_CFG_AUTO_TRAIN = true → s.dev.laneInCal l = false →
      ∃ t, exec (.laneEnableWrite via lane v) s = .next t ∧ t.dev.on (F.VL_LCFG_EN l) = true ∧
        t.dev.rd (F.VL_LSTAT_STATE l) = 1 ∧ Only [6, 11, 12, 13, 14, 21] (.bm :: parts) s t)) ∧
  (∀ (via : Via) (v : Word), MayWrite s via (R.VL_LCFG l) → s.dev.on (F.VL_LCFG_EN l) = true → bit v.toNat 0 = false →
    ∃ t, exec (.laneEnableWrite via lane v) s = .next t ∧ t.dev.on (F.VL_LCFG_EN l) = false ∧
      t.dev.rd (F.VL_LSTAT_STATE l) = 0 ∧ t.dev.rd (F.VL_LSTAT_CAUSE l) = 12 ∧ Only [6, 11, 12, 13, 14, 21] (.bm :: parts) s t)

/-- 10 R254, R253: restore, remove and swap through TW_CTL. Judged on the roles as the requests accepted before will leave
them (applyReqs: log 64, the model's reading), a request with a reason of Table 10.11 against it is refused with its event; else a removal or a swap waits for the
next opening, and a restore clears the engine's fault bits and tests it. -/
def Obligations.TwinRequests : Prop := ∀ (s : State) (via : Via) (v : Word), Running s → MayWrite s via R.TW_CTL →
  let a := s.fresh.dev.applyReqs
  let d := s.dev.t6 via R.TW_CTL true
  (∀ e : Eng, setBit v.toNat (if e = .lea then 2 else 3) % 32 = 2 ^ (if e = .lea then 2 else 3) →
    (a.removeWhy e = none → ∃ t, exec (.removeA via e v) s = .next t ∧
      t.dev.tw = { s.dev.tw with reqs := s.dev.tw.reqs ++ [.remove e] } ∧ Writes d [.tw] s t) ∧
    (∀ w, a.removeWhy e = some w → ∃ t, exec (.removeA via e v) s = .next t ∧ t.dev.on F.TW_EVT_REFUSED = true ∧
      Writes (d.wr F.TW_EVT_REFUSED 1) [.evq] s t)) ∧
  (setBit v.toNat 4 % 32 = 16 →
    (a.swapWhy = none → ∃ t, exec (.swap via v) s = .next t ∧
      t.dev.tw = { s.dev.tw with reqs := s.dev.tw.reqs ++ [.swap] } ∧ Writes d [.tw] s t) ∧
    (∀ w, a.swapWhy = some w → ∃ t, exec (.swap via v) s = .next t ∧
      Writes (d.wr F.TW_EVT_REFUSED 1) [.evq] s t)) ∧
  (∀ e : Eng, setBit v.toNat (if e = .lea then 0 else 1) % 32 = 2 ^ (if e = .lea then 0 else 1) →
    (∀ w, a.restoreWhy e = some w → ∃ t, exec (.restoreA via e v) s = .next t ∧ Writes (d.wr F.TW_EVT_REFUSED 1) [.evq] s t) ∧
    (a.restoreWhy e = none → ∃ t, exec (.restoreA via e v) s = .next t ∧ t.dev.tw.restoring = some e ∧ t.dev.faulty e = false ∧
      t.dev.rd (healthFld e F.TW_HEALTH_A_CHECKS) = 0 ∧ t.dev.on (healthFld e F.TW_HEALTH_A_STARVED) = false ∧
      t.dev.role e = s.dev.role e ∧ (t.dev.eng e).dead = [] ∧ Only [9, 21] [.tw, .le, .bm] s t))

/-- 10 R241, R247, R248, R257: what the self-test, the scrub and the clock monitors find goes to the engine's health word; a
fault of the arbiter's own checks is a line of S3 and ends every open frame with ABORT. -/
def Obligations.HealthWords : Prop := ∀ (s : State) (e : Eng) (v : BitVec 6), Running s →
  let chk := healthFld e F.TW_HEALTH_A_CHECKS
  (∀ stest rom cfg : Bool, s.dev.selfTests e = true →
    ∃ t, exec (.selftestPassDone e v stest rom cfg) s = .next t ∧
      t.dev.rd (healthFld e F.TW_HEALTH_A_PASSES) = (s.dev.rd (healthFld e F.TW_HEALTH_A_PASSES) + 1) % 256 ∧
      bit (t.dev.rd chk) 1 = (stest || bit (s.dev.rd chk) 1) ∧ bit (t.dev.rd chk) 2 = (rom || bit (s.dev.rd chk) 2) ∧
      bit (t.dev.rd chk) 3 = (cfg || bit (s.dev.rd chk) 3) ∧
      t.dev.faulty e = (stest || rom || cfg || s.dev.faulty e) ∧ Only [9, 21] [.tw] s t) ∧
  (s.dev.selfTests e = true →
    ∃ t, exec (.starved e v) s = .next t ∧ t.dev.on (healthFld e F.TW_HEALTH_A_STARVED) = true ∧
      t.dev.on F.TW_EVT_STARVED = true ∧ Only [9] [.tw, .evq, .fc, .freeCtr] s t) ∧
  (∃ t, exec (.engineScrub e v .uncorrectable) s = .next t ∧ bit (t.dev.rd chk) 0 = true ∧ t.dev.faulty e = true ∧
    Only [9] [] s t) ∧ exec (.engineScrub e v .ok) s = .next s.fresh ∧
  (∃ t, exec (.engineScrub e v .corrected) s = .next t ∧
    Writes (s.dev.count (if e = .lea then F.TW_CE_A else F.TW_CE_B)) [] s t) ∧
  (∃ t, exec (.engineClockLost e v) s = .next t ∧ bit (t.dev.rd chk) 6 = true ∧ t.dev.faulty e = true ∧
    (s.dev.faulty e = false → t.dev.rd (healthFld e F.TW_HEALTH_A_FVAT) = v.toNat) ∧
    (s.dev.faulty e = true → t.dev.rd (healthFld e F.TW_HEALTH_A_FVAT) = s.dev.rd (healthFld e F.TW_HEALTH_A_FVAT)) ∧
    (t.dev.eng e).dead.contains v.toNat = true ∧ Only [9] [.le] s t) ∧
  (∀ kind : BitVec 2, s.dev.on F.TW_STAT_ARB_FLT = false →
    ∃ t, exec (.arbFlt kind) s = .next t ∧ t.dev.on F.TW_STAT_ARB_FLT = true ∧ t.dev.on F.TW_EVT_ARB_FLT = true ∧
      (∀ x, x ∈ s.dev.tw.rel → x.2.closed = false → (t.dev.rel x.1).aborted = true) ∧
      t.dev.fc = { s.dev.fc with lines := s.dev.fc.lines ++ [s.dev.latched ⟨0x0904, 3, srcWord 9, BitVec.ofNat 32 kind.toNat, true⟩] } ∧
      Only [9] [.tw, .vl, .pc, .evq, .fc] s t)

/-- 10 R243, R250, R251, R253, 07 R183: the copy of a resynchronisation leaves the joining engine with the active one's state; the
mismatch window forgets what is older than MIS_WIN; a restore's test ends in RESYNC, or in a cause; an automatic restore is
tried once an hour; the scrub of DE's words counts. -/
def Obligations.Resynchronisation : Prop := ∀ (s : State), Running s →
  (∃ t, exec .resyncCopyDone s = .next t ∧ Writes s.dev [.le, .tw] s t ∧
    (∀ r : Resync, s.dev.tw.wres = some r → 0 < r.k → r.copied = false → t.dev.tw.wres = some { r with copied := true } ∧
      t.dev.eng s.dev.partner = copyEng (s.dev.eng s.dev.active) (s.dev.eng s.dev.partner) none) ∧
    (∀ (v : Nat) (r : Resync), s.dev.tw.vres.get v = some r → 0 < r.k → r.copied = false →
      t.dev.tw.vres.get v = some { r with copied := true })) ∧
  (let keep := s.dev.tw.mis.filter (fun n => decide (s.dev.now < n + 100000 * s.dev.rd F.TW_CFG_MIS_WIN))
    ∃ t, exec .miswinAgeOut s = .next t ∧ t.dev.tw = { s.dev.tw with mis := keep } ∧
      Writes ((s.dev.wr F.TW_MISWIN (min 15 keep.length)).wrB F.TW_STAT_SUSPECT (!keep.isEmpty)) [.tw] s t) ∧
  (∀ (e : Eng) (checks : BitVec 7) (v : BitVec 6), s.dev.tw.restoring = some e →
    ∃ t, exec (.restoreTestDone e checks v) s = .next t ∧ t.dev.tw.restoring = none ∧
      (s.dev.faulty e = false → checks = 0 → t.dev.role e = 3 ∧ t.dev.rd F.TW_STAT_TRY = 1 ∧ t.dev.tw.mis = [] ∧
        t.dev.tw.wres = some { s := s.dev.le.frame + 2 }) ∧
      (s.dev.faulty e = true ∨ checks ≠ 0 → t.dev.faulty e = true ∧ t.dev.role e = s.dev.role e ∧
        t.dev.rd (causeFld e) = 5 ∧ t.dev.on F.TW_EVT_RESTORE_FAIL = true) ∧
      Only [9, 21] [.tw, .evq, .fc, .freeCtr, .mbx] s t) ∧
  (∀ e : Eng, s.dev.on F.TW_CFG_AUTO_RST = true → s.dev.rd (causeFld e) = 2 → s.dev.on (autoFld e) = false →
    s.dev.restoreWhy e = none →
    ∃ t, exec (.autoRestore e) s = .next t ∧ t.dev.on (autoFld e) = true ∧ t.dev.tw.restoring = some e ∧
      t.dev.faulty e = false ∧ Only [9] [.tw, .le] s t) ∧
  (∀ e : Eng, ∃ t, exec (.autoRestoreWindowEnd e) s = .next t ∧ Writes (s.dev.wrB (autoFld e) false) [] s t) ∧
  (∀ w : DeWord, exec (.deScrub w .ok) s = .next s.fresh ∧ (∃ t, exec (.deScrub w .corrected) s = .next t ∧ Writes (s.dev.count F.DE_CE) [] s t) ∧
    (∃ t, exec (.deScrub w .uncorrectable) s = .next t ∧ t.dev.rd F.DE_UE = min (s.dev.rd F.DE_UE + 1) 0xFFFFFFFF ∧
      t.dev.on F.DE_EVT_UE = true ∧ (∀ i o, w = .bead i o → t.dev.bead i.toNat o.toNat = 0) ∧
      Only [12] [.de, .evq, .fc, .freeCtr] s t))

/-- 10 R259, 11 Table 11.7: twin.status reads TW as of the last frame close, and passes on RESTORE, REMOVE and SWAP. -/
def Obligations.TwinStatus : Prop := ∀ (s : State) (mb : BitVec 3) (m : Mbx), Running s →
  let a := s.fresh.dev.applyReqs
  let r (o : Nat) : List Byte := toLe 4 (s.dev.twRead o).toNat
  (Asked s mb 0x0601 (some 0) m → ∃ t, exec (.twinStatusRead mb) s = .next t ∧
    Answered s t mb 0 0 0xFFFFFFFF (r R.TW_STAT ++ r R.TW_HEALTH_A ++ r R.TW_HEALTH_B ++ r R.TW_LASTMIS ++ r R.TW_LASTMIS_N_LO ++
      r R.TW_LASTMIS_N_HI ++ r R.TW_VRESYNC_LO ++ r R.TW_VRESYNC_HI ++ r R.TW_XF_LO ++ r R.TW_XF_HI ++ r R.TW_MISWIN ++ zeros 4 ++
      (List.range 8).flatMap (fun c => r (R.TW_MISMATCH + 4 * c)) ++ zeros 4 ++ toLe 8 s.dev.tw.shadowN) ∧
    Only [] [.mbx] s t) ∧
  (Asked s mb 0x0601 (some 1) m →
    (m.fld 1 1 ≤ 1 → a.restoreWhy m.twEng = none → ∃ t, exec (.twinStatusRestore mb) s = .next t ∧ UnderWay s t mb ∧
      t.dev.tw.restoring = some m.twEng ∧ t.dev.tw.restoreMb = some mb.toNat ∧ Only [9] [.tw, .le, .mbx] s t) ∧
    (∀ w, m.fld 1 1 ≤ 1 → a.restoreWhy m.twEng = some w → ∃ t, exec (.twinStatusRestore mb) s = .next t ∧
      Answered s t mb 2 0x0C04 (0x0900 + w) [] ∧ t.dev.on F.TW_EVT_REFUSED = true ∧ Only [9] [.evq, .mbx] s t) ∧
    (1 < m.fld 1 1 → ∃ t, exec (.twinStatusRestore mb) s = .next t ∧ Answered s t mb 6 0 1 [] ∧ Only [] [.mbx] s t)) ∧
  (Asked s mb 0x0601 (some 2) m → m.fld 1 1 ≤ 1 →
    (a.removeWhy m.twEng = none → ∃ t, exec (.twinStatusRemove mb) s = .next t ∧
      t.dev.tw.reqs = s.dev.tw.reqs ++ [.remove m.twEng] ∧ Answered s t mb 0 0 0xFFFFFFFF (toLe 8 s.dev.nextOpen) ∧
      Only [] [.tw, .mbx] s t) ∧
    (∀ w, a.removeWhy m.twEng = some w → ∃ t, exec (.twinStatusRemove mb) s = .next t ∧
      Answered s t mb 2 0x0C04 (0x0900 + w) [] ∧ Only [9] [.evq, .mbx] s t)) ∧
  (Asked s mb 0x0601 (some 3) m →
    (a.swapWhy = none → ∃ t, exec (.twinStatusSwap mb) s = .next t ∧ t.dev.tw.reqs = s.dev.tw.reqs ++ [.swap] ∧
      Answered s t mb 0 0 0xFFFFFFFF (toLe 8 s.dev.nextOpen) ∧ Only [] [.tw, .mbx] s t) ∧
    (∀ w, a.swapWhy = some w → ∃ t, exec (.twinStatusSwap mb) s = .next t ∧ Answered s t mb 2 0x0C04 (0x0900 + w) [] ∧
      Only [9] [.evq, .mbx] s t))

/-- 14 R320 to R322: a voltage read within 10 mV of that written confirms the point; one that is not confirmed in time is
refused on the way up and retried on the way down; the divider switches at an eligible opening. -/
def Obligations.OperatingPoint : Prop := ∀ (s : State), Running s →
  (∀ mv : BitVec 10, (s.dev.pm.avsTgt = none →
      ∃ t, exec (.avsPoll mv) s = .next t ∧ Writes (s.dev.wr F.PM_AVS_VOUT mv.toNat) [] s t) ∧
    (∀ p, s.dev.pm.avsTgt = some p → p ≤ 2 → mv.toNat ≤ s.dev.opv p + 10 → s.dev.opv p ≤ mv.toNat + 10 →
      ∃ t, exec (.avsPoll mv) s = .next t ∧ t.dev.rd F.PM_AVS_VOUT = mv.toNat ∧ t.dev.rd F.PM_STAT_VOP = p ∧
        Only pmWindows pmParts s t) ∧
    (∀ p, s.dev.pm.avsTgt = some p → ¬(mv.toNat ≤ s.dev.opv p + 10 ∧ s.dev.opv p ≤ mv.toNat + 10) →
      ∃ t, exec (.avsPoll mv) s = .next t ∧ Writes (s.dev.wr F.PM_AVS_VOUT mv.toNat) [] s t)) ∧
  (∀ p, s.dev.pm.avsTgt = some p → s.dev.unclocked = true →
    ∃ t, exec .avsFail s = .next t ∧ t.dev.on F.PM_EVT_AVS_FAIL = true ∧ Only [19] [.evq, .fc] s t) ∧
  (∀ p, s.dev.pm.avsTgt = some p → s.dev.unclocked = false →
    ∃ t, exec .avsFail s = .next t ∧ t.dev.on F.PM_EVT_AVS_FAIL = true ∧ t.dev.pm.avsTgt = none ∧
      (p < s.dev.rd F.PM_STAT_OP → t.dev.pm.avsRetry = s.dev.pm.avsRetry ∧ t.dev.pm.reqPend = none ∧
        ∀ m r, s.dev.pm.mb = some (m, r) → m < 8 → t.dev.pm.opReq = s.dev.pm.undoOp ∧
          ∃ pl, (t.dev.mbx.get m).ready = some (2, 0x0C04, 0x1306, pl)) ∧
      (s.dev.rd F.PM_STAT_OP ≤ p → t.dev.pm.avsRetry = true) ∧ Only pmWindows pmParts s t) ∧
  (s.dev.pm.avsRetry = true →
    ∃ t, exec .avsRetry s = .next t ∧ t.dev.tx = [.avsWrite (s.dev.opv (s.dev.rd F.PM_STAT_OP))] ∧
      t.dev.pm.avsTgt = some (s.dev.rd F.PM_STAT_OP) ∧ t.dev.pm.avsRetry = false ∧ t.dev.on F.PM_STAT_SEQ = true ∧
      Only [19] [.pm, .mbx] s t) ∧
  (∀ status : Word,
    ∃ t, exec (.avsAlert status) s = .next t ∧ t.dev.on F.PM_EVT_AVS_ALERT = true ∧
      t.dev.fc = { s.dev.fc with lines := s.dev.fc.lines ++ [s.dev.latched ⟨0x1302, 1, srcWord 19, status, true⟩] } ∧
      Writes (s.dev.wr F.PM_EVT_AVS_ALERT 1) [.evq, .fc] s t) ∧
  (∀ p, s.dev.pm.opTgt = some p → p ≤ 2 → s.dev.pm.divider = true → s.dev.bm.sliceTo = none → s.dev.rd F.PM_STAT_VOP ≤ p →
    s.dev.chooserBlocks = false →
    ∃ t, exec .dividerSwitch s = .next t ∧ t.dev.rd F.PM_STAT_OP = p ∧ (s.dev.rd F.PM_STAT_OP ≠ p → t.dev.on F.PM_EVT_OP_CHG = true) ∧
      t.dev.pm.reqPend = none ∧ Only pmWindows (.th :: pmParts) s t)

/-- 14 R318, R324, R325: pm.set is refused by the first refuser of Table 14.2 that
is against it, and counted against it; accepted for P0, P1 or P2 it sets the request (that with
a faster point once the point is reached), for P3 or P4 it makes the press path empty; then the vats are held, the links go to
electrical idle, every lane to IDLE (log 69, the model's reading) and the report ports down (07 R158), the stewards halt, and the core goes
off, at the slow-clock edge or, for P4, at once; after a thermal trip nothing is written to the die and the rails go at its own instant
(09 R235, R339). -/
def Obligations.PowerStates : Prop := ∀ (s : State), Running s →
  (∀ (mb : BitVec 3) (m : Mbx) (want : Nat) (i : Instr), (want, i) ∈ [(0, Instr.pmSetP0 mb), (1, Instr.pmSetP1 mb),
      (2, Instr.pmSetP2 mb), (3, Instr.pmSetP3 mb), (4, Instr.pmSetP4 mb)] → Asked s mb 0x0501 (some want) m →
    (let o := m.fld 1 1
     let pm := s.dev.on F.PM_STAT_SEQ = true ∨ (2 < o ∧ o ≠ 0xFF) ∨ (want = 2 ∧ o ≠ 2 ∧ o ≠ 0xFF)
     let plan := (s.dev.opMin < o ∧ o ≠ 0xFF) ∨ (want = 2 ∧ s.dev.opMin ≠ 2)
     let th := o < s.dev.rd F.PM_STAT_OPMAX
     let gl := 3 ≤ want ∧ s.dev.on F.GL_STAT_ACT_PEND = true
     ∀ r, (r = 1 ∧ pm) ∨ (r = 2 ∧ ¬pm ∧ plan) ∨ (r = 3 ∧ ¬pm ∧ ¬plan ∧ th) ∨ (r = 5 ∧ ¬pm ∧ ¬plan ∧ ¬th ∧ gl) →
      ∃ t pl, exec i s = .next t ∧ Answered s t mb 2 0x0C04 (0x1300 + r) pl ∧
        t.dev.rd (F.PM_REFUSE (r - 1)) = min (s.dev.rd (F.PM_REFUSE (r - 1)) + 1) 0xFFFFFFFF ∧ t.dev.on F.PM_EVT_REFUSED = true ∧
        Only [19] [.evq, .mbx] s t) ∧
    (let o := m.fld 1 1
     s.dev.on F.PM_STAT_SEQ = false → (o ≤ 2 ∨ o = 0xFF) → (want = 2 → o = 2 ∨ o = 0xFF) → (o = 0xFF ∨ o ≤ s.dev.opMin) →
      (want = 2 → s.dev.opMin = 2) → s.dev.rd F.PM_STAT_OPMAX ≤ o →
      let op := if o = 0xFF then s.dev.pm.opReq else o
      let faster := want < 2 ∧ s.dev.rd F.PM_STAT_STATE < 2 ∧ max op (s.dev.rd F.PM_STAT_OPMAX) < s.dev.rd F.PM_STAT_OP
      (want < 3 → ∃ t, exec i s = .next t ∧ (t.dev.mbx.get mb.toNat).taken = true ∧ t.dev.pm.target = false ∧
        t.dev.pm.opReq = (if want = 2 then 2 else op) ∧ (faster → t.dev.pm.reqPend = some want) ∧
        (¬faster → t.dev.rd F.PM_STAT_REQ = want) ∧ Only pmWindows pmParts s t) ∧
      (3 ≤ want → s.dev.on F.GL_STAT_ACT_PEND = false → ∃ t, exec i s = .next t ∧ t.dev.rd F.PM_STAT_REQ = want ∧
        t.dev.pm.p3 = .waiting ∧ t.dev.pm.p4 = (want == 4) ∧ t.dev.pm.mb = some (mb.toNat, 0) ∧ t.dev.pm.opReq = op ∧
        t.dev.cal.stints = [] ∧ KeepsMem s t))) ∧
  (s.dev.pm.p3 = .waiting → s.dev.slotsOver = true →
    ∃ t, exec .p3HoldSend s = .next t ∧ t.dev.pm.p3 = .held ∧ t.dev.pm.holdEff = s.dev.holdEff ∧ t.dev.pm.mb = none ∧
      (∀ v, v < 64 → t.dev.held v = true ∧ bit (t.dev.vat v).holds.toNat 2 = true) ∧
      (∀ m r, s.dev.pm.mb = some (m, r) → m < 8 → ∃ pl, (t.dev.mbx.get m).ready = some (0, 0, 0xFFFFFFFF, pl)) ∧
      Only pmWindows pmParts s t) ∧
  (s.dev.pm.p3 = .held → s.dev.pm.holdEff < s.dev.now →
    ∃ t, exec .p3ElectricalIdle s = .next t ∧ t.dev.pm.p3 = .idle ∧ t.dev.gl.walking = false ∧
      (∀ l, l < 128 → t.dev.rd (F.VL_LSTAT_STATE l) = 7 ∧ .electricalIdle l ∈ t.dev.tx) ∧ (∀ v, v < 64 → (t.dev.vat v).acc = 0) ∧
      (∀ p, t.dev.on (rpFld p F.RPA_STAT_LINK) = false ∧ (s.dev.on (rpFld p F.RPA_STAT_LINK) = true →
        t.dev.rd (rpFld p F.RPA_LINK_DOWN) = min (s.dev.rd (rpFld p F.RPA_LINK_DOWN) + 1) 0xFFFFFFFF)) ∧
      (s.dev.on (rpFld .rpa F.RPA_STAT_LINK) = true ∨ s.dev.on (rpFld .rpb F.RPA_STAT_LINK) = true →
        t.dev.on F.DE_STAT_PORTS_DOWN = true) ∧
      Only [6, 12, 13, 14] [.vl, .gl, .pm, .tb] s t) ∧
  (s.dev.pm.p3 = .linkDown → ∃ t, exec .p3StewardsHalt s = .next t ∧ t.dev.nv.queue = [] ∧
    t.dev.rd F.HIF_ST_STAT_STATE = 0 ∧ t.dev.mbx = [] ∧ KeepsMem s t ∧ (s.dev.nv.tripped = false → t.dev.nv.cur = none) ∧
    (s.dev.nv.tripped = true → t.dev.nv = { s.dev.nv with queue := [] }) ∧
    (s.dev.pm.p4 = false ∨ s.dev.nv.tripped = true → t.dev.pm.p3 = .halted ∧ Only [0, 16] [.nv, .bm, .pm, .mbx, .freeCtr] s t) ∧
    (s.dev.pm.p4 = true → s.dev.nv.tripped = false → t.dev.rd F.PM_STAT_STATE = 4 ∧ t.dev.pins.coreEn = false ∧ t.dev.pins.offN = false ∧
      t.dev.evq.pend = [] ∧ t.dev.pc = {})) ∧
  (∀ (ns : BitVec 30) (frac : Word), s.dev.pm.p3 = .halted → (s.dev.pm.p4 = true → exec (.p3SlowClock ns frac) s = .next s.fresh) ∧
    (s.dev.pm.p4 = false → ∃ t, exec (.p3SlowClock ns frac) s = .next t ∧ t.dev.pm.p3 = .off ∧ t.dev.rd F.PM_STAT_STATE = 3 ∧
      t.dev.pins.coreEn = false ∧ t.dev.on F.GL_STAT_STAGED = false ∧ t.dev.st = {} ∧ t.dev.mbx = [] ∧
      t.dev.tb.uncE = s.dev.reg R.TB_UNC ∧ KeepsMem s t))

/-- 14 R326 to R328, 02 R51, R52: a wake, step by step: supply, clocks, the measure of the slow clock that carries time over,
and the release of the engines on the carried time once the point is raised; a step that fails twice is a wake fault, which the host
clears. P4 is left by no wake (R329). That SUPPLY_READY and CLOCKS_READY end the same steps of the bring-up after RESET_N is the model's
reading (log 83), and so is that TB_AON_INC takes the increment measured at the wake (log 68). -/
def Obligations.Wake : Prop := ∀ (s : State), Running s →
  (∀ (mask : BitVec 5) (lanes : BitVec 128) (ticks : BitVec 64), s.dev.pm.p3 = .off → s.dev.pm.wake = .none →
    s.dev.rd F.PM_STAT_STATE ≠ 4 →
    let m := (s.dev.tickTo ticks.toNat).wakeSeen mask.toNat lanes.toNat &&& (s.dev.reg R.PM_WAKE_CFG).toNat % 32
    m ≠ 0 → ∃ t, exec (.wakeSource mask lanes ticks) s = .next t ∧ t.dev.rd F.PM_WAKE_STAT_SRCMASK = m ∧ t.dev.pins.coreEn = true ∧
      t.dev.pins.wakeN = (if m = 8 then s.dev.pins.wakeN else false) ∧ Tx.avsWrite (s.dev.opv 2) ∈ t.dev.tx ∧
      t.dev.pm = { s.dev.pm with wake := .supply, attempt := 1, avsTgt := some 2, avsLast := 2 } ∧ Only [19] [.pm, .pins, .tb] s t) ∧
  (s.dev.pm.wake = .supply → s.dev.pm.avsTgt = none → ∃ t, exec .supplyReady s = .next t ∧ t.dev.pm = { s.dev.pm with wake := .clocks } ∧
    t.dev.pins = { s.dev.pins with corePg := true } ∧ Writes (s.dev.wr F.PM_STAT_VOP 2) [.pm, .pins] s t) ∧
  (s.dev.pm.wake = .clocks → ∃ t, exec .clocksReady s = .next t ∧ t.dev.pm.opTgt = none ∧
    (s.dev.pm.p3 ≠ .boot → t.dev.pm.wake = .measuring ∧ t.dev.pm.p3 = s.dev.pm.p3) ∧
    (s.dev.pm.p3 = .boot → t.dev.pm.wake = .none ∧ t.dev.pm.p3 = .none) ∧
    t.dev.rd F.PM_STAT_OP = 2 ∧ t.dev.reg R.BM_SLICE_EFF = BitVec.ofNat 32 (s.dev.sliceFor 2) ∧
    (s.dev.sliceFor 2 ≠ s.dev.sliceEff → t.dev.on F.BM_EVT_SLICE_CHG = true) ∧ t.dev.bm = { s.dev.bm with sliceTo := none } ∧
    t.dev.on F.BM_STAT_PAUSE = false ∧ Only [17, 19, 21] [.pm, .evq, .th, .bm] s t) ∧
  (∀ ticks : BitVec 64, s.dev.pm.p3 = .off → s.dev.pm.wake = .supply ∨ s.dev.pm.wake = .clocks →
    ∃ t, exec (.wakeStepTimeout ticks) s = .next t ∧ t.dev.pins.coreEn = false ∧
      t.dev.rd F.PM_WAKE_STAT_REFUSER = (if s.dev.pm.wake = .supply then 6 else 7) ∧
      t.dev.rd F.PM_WAKE_FAILS = min (s.dev.rd F.PM_WAKE_FAILS + 1) 0xFFFFFFFF ∧
      (s.dev.pm.attempt < 2 → t.dev.pm.wake = .retryWait ∧ t.dev.on F.PM_EVT_WAKE_RETRY = true) ∧
      (2 ≤ s.dev.pm.attempt → t.dev.pm.wake = .none ∧ t.dev.on F.PM_STAT_WAKEFLT = true ∧
        t.dev.rd F.PM_WAKE_STAT_RESULT = 3 ∧ t.dev.pins.faultN = false ∧ t.dev.on F.PM_EVT_WAKE_FAULT = true ∧
        t.dev.nv.aon.isSome = true) ∧
      Only [16, 19] [.pm, .pins, .evq, .fc, .freeCtr, .nv, .tb] s t) ∧
  (s.dev.pm.wake = .retryWait → ∃ t, exec .wakeRetry s = .next t ∧ t.dev.pm = { s.dev.pm with wake := .supply, attempt := 2, avsTgt := some 2, avsLast := 2 } ∧
    t.dev.pins = { s.dev.pins with coreEn := true } ∧ Writes s.dev [.pm, .pins] s t) ∧
  (∀ (via : Via) (v : Word), MayWrite s via R.PM_EVT → s.dev.on F.PM_EVT_WAKE_FAULT = true →
    ∃ t, exec (.wakeFaultClear via v) s = .next t ∧ t.dev.on F.PM_EVT_WAKE_FAULT = false ∧
      t.dev.on F.PM_STAT_WAKEFLT = false ∧ t.dev.pins = { s.dev.pins with faultN := true } ∧ Only [19, 21] [.pins, .bm] s t) ∧
  (∀ incW ticks : BitVec 64, s.dev.pm.wake = .measuring →
    ∃ t, exec (.wakeMeasured incW ticks) s = .next t ∧ t.dev.pm.p3 = .woken ∧ t.dev.pm.wake = .none ∧
      t.dev.now = (s.dev.tb.timeE + ticks.toNat * (s.dev.tb.incE.toNat + incW.toNat) / 2) / 2 ^ 32 / 1000 % 2 ^ 64 ∧
      t.dev.rd2 R.TB_AON_INC_LO = incW.toNat ∧ t.dev.rd F.PM_WAKES = min (s.dev.rd F.PM_WAKES + 1) 0xFFFFFFFF ∧
      t.dev.on F.PM_EVT_WAKE = true ∧ KeepsMem s t) ∧
  (s.dev.pm.p3 = .woken → ∃ t, exec .wakeWaitExpiry s = .next t ∧ t.dev.now = s.dev.now ∧
    (s.dev.pm.opTgt = none → t.dev.pm.p3 = .none ∧ t.dev.le.frame = s.dev.now ∧ t.dev.le.isOpen = false ∧
      (∀ v, v < 64 → (t.dev.vat v).holds = (s.dev.vat v).holds &&& ~~~(4 : BitVec 4))) ∧
    (s.dev.pm.opTgt ≠ none → t.dev.pm.p3 = .woken) ∧ (s.dev.tbState = 5 → t.dev.on F.TB_EVT_WAKE_NOPTP = true) ∧ KeepsMem s t)

/-- 12 R287, R288, R293: a transaction of a master that sets only attributes of its own row, at a target that answers. In
shape and reach it waits. Out of shape it is refused with DECERR, out of reach with PRIV: its count and event, a line, and
with no capture held BM_ERR_INFO, BM_ERR_ADDR and BM_ERR_N. What the masters M0, M2, M3 and M4 do on an error (Table 12.5) is left out of
the frames here. -/
def Obligations.BusRequest : Prop := ∀ (s : State) (q : BmReq) (m : Nat), Running s → masterOf q.mid.toNat = some m →
  bmOwn q m = true → bit (s.dev.rd F.BM_STAT_DRAIN) m = false → bit (s.dev.rd F.BM_STAT_TSTALL) q.tgt.toNat = false → (m = 5 → s.dev.pins.trstN = true) →
  let w0 : BmW := { q := q, qos := s.dev.qosOf m q.cls.toNat }
  let w : BmW := { w0 with raisedFor := s.dev.bpPasses w0, grantedFor := s.dev.bpPasses w0 }
  (bmShaped q = true → bmReaches q m = true →
    ∃ t, exec (.bmRequest q) s = .next t ∧ t.dev.bm = { s.dev.bm with wait := s.dev.bm.wait ++ [w] } ∧
      Writes s.dev [.bm] s t) ∧
  (bmShaped q = false → s.dev.on F.BM_ERR_INFO_VALID = false →
    ∃ t, exec (.bmRequest q) s = .next t ∧ t.dev.on F.BM_EVT_DECERR = true ∧
      t.dev.rd F.BM_DEC_CNT = min (s.dev.rd F.BM_DEC_CNT + 1) 0xFFFFFFFF ∧
      t.dev.rd F.BM_ERR_INFO_CODE = 2 ∧ t.dev.rd F.BM_ERR_INFO_MID = q.mid.toNat ∧ t.dev.rd F.BM_ERR_INFO_TGT = q.tgt.toNat ∧
      t.dev.rd2 R.BM_ERR_ADDR_LO = q.addr.toNat ∧ (q.write = false → .busAnswer q.mid.toNat 2 (zeros (bmLen q)) ∈ t.dev.tx) ∧ KeepsMem s t ∧
      (m ∉ [0, 2, 3, 4] → t.dev.fc = { s.dev.fc with lines := s.dev.fc.lines ++
        [s.dev.latched ⟨0x1102, 0, srcWord 17, BitVec.ofNat 32 (w.errInfo 2 ((q.beats.toNat + 15) % 16)), true⟩] } ∧
        Only [17, 21] [.evq, .fc] s t)) ∧
  (bmShaped q = true → bmReaches q m = false → s.dev.on F.BM_ERR_INFO_VALID = false →
    ∃ t, exec (.bmRequest q) s = .next t ∧ t.dev.on F.BM_EVT_PRIV = true ∧
      t.dev.rd F.BM_PRIV_CNT = min (s.dev.rd F.BM_PRIV_CNT + 1) 0xFFFFFFFF ∧ t.dev.rd F.BM_ERR_INFO_CODE = 1 ∧
      t.dev.rd2 R.BM_ERR_ADDR_LO = q.addr.toNat ∧ (q.write = false → .busAnswer q.mid.toNat 1 (zeros (bmLen q)) ∈ t.dev.tx) ∧ KeepsMem s t ∧
      (m ∉ [0, 2, 3, 4] → Only [17, 21] [.evq, .fc] s t))

/-- 12 R287 to R290, R293: a grant takes the winner among the contenders of its target into the transactions outstanding and
moves the round-robin pointer past it; what a request raised since the last grant has waited is free (log 97). The matrix keeps what
a write to T0, T3, T4 or T7 stores: a read granted later returns it. At T6 a transaction acts
in the clock of its grant: a write of too little privilege earns PRIV and stores nothing, one let through stores, and a read of a
counter returns and clears it. An answer of its target takes the transaction out again, a read's data with it, with SLVERR as the target
gives it and with another error all 0, an error code with its line; what a failed write was to store is not known. A timeout stalls the target. An error of the stewards'
own master fails their command, of M3 the load, and of M2 it loses the records (Table 12.5; DETAIL and the choice of the record are the
model's, logs 74 and 97). -/
def Obligations.BusGrantAndAnswer : Prop := ∀ (s : State) (t : BitVec 3), Running s →
  (∀ (clocks i : Nat) (w : BmW), let a := s.fresh.dev.bmAge t.toNat (clocks - s.dev.bm.passed.get t.toNat)
    bit a.pausedPorts (6 + t.toNat) = false → a.winner t.toNat (a.contenders t.toNat) = some (i, w) →
    let o := t6Off w.q
    let v := leNat (w.q.data.take 4)
    let g : BmW := { w with grantedFor := a.bpPasses w, known := a.bmKnown w.q }
    ∃ u, exec (.bmGrant t clocks) s = .next u ∧
      (t ≠ 6 → u.dev.bm.out = s.dev.bm.out ++ [g] ∧ u.dev.bm.wait = a.bm.wait.eraseIdx i ∧
        u.dev.bm.wait.length + 1 = s.dev.bm.wait.length ∧ u.dev.bm.rr.get t.toNat = (w.m + 1) % 6 ∧ u.dev.bm.passed.get t.toNat = 0 ∧
        (w.q.write = true → bmHolds t.toNat = true → ∀ k, k < bmLen w.q → u.dev.bm.mem.get (bmKey t.toNat (w.q.addr.toNat + k)) = w.q.data[k]?) ∧
        bit (u.dev.rd F.BM_STAT_TBUSY) t.toNat = true ∧ Only [17, 21] [.bm, .freeCtr] s u) ∧
      (t = 6 → w.q.write = true → ¬(w.via = .operator ∧ inAreas o = true ∧ 4 ≤ areaMb o) → s.dev.svcShut w.via o = false → t6Need o < w.q.pl.toNat →
        u.dev.bm.out = s.dev.bm.out ++ [{ g with code := 1, known := [] }] ∧ Only [17, 21] [.bm, .freeCtr] s u) ∧
      (t = 6 → w.q.write = true → s.dev.svcShut w.via o = false → ¬ t6Need o < w.q.pl.toNat → o / 0x10000 ∈ [7, 8, 10, 15, 16] → ∀ r, regAt o = some r → r.reserved v = false →
        u.dev.bm.out = s.dev.bm.out ++ [{ g with code := 0, known := [] }] ∧
        u.dev.reg o = BitVec.ofNat 32 (r.written (s.dev.reg o).toNat v) ∧
        (∀ k, k ≠ o → blockOf k ≠ 17 → blockOf k ≠ 21 → u.dev.reg k = s.dev.reg k) ∧ Dev.Keeps [.bm, .freeCtr] s.dev u.dev ∧ KeepsMem s u) ∧
      (t = 6 → w.q.write = false → ∀ r, regAt o = some r → r.isRc = true → inAreas o = false → o / 0x10000 ∉ [17, 21] →
        ∃ x, u.dev.bm.out = s.dev.bm.out ++ [x] ∧ x.q = w.q ∧
          x.readData [] = fit (bmLen w.q) (toLe 4 (s.dev.reg o &&& BitVec.ofNat 32 r.shown).toNat) ∧ u.dev.reg o = 0 ∧ KeepsMem s u)) ∧
  (∀ (mid : BitVec 4) (write : Bool) (code : BitVec 3) (data : List Byte) (i : Nat) (w : BmW), code.toNat ≤ 3 →
    s.dev.bmFind t.toNat mid.toNat write (fun _ => true) = some (i, w) → w.late = false → w.drain = false →
    let c := max code.toNat w.code
    ∃ u, exec (.bmResponse t mid write code data) s = .next u ∧ KeepsMem s u ∧
      (w.q.write = false → .busAnswer w.q.mid.toNat c (w.answerData c data) ∈ u.dev.tx) ∧
      (c = 0 → u.dev.bm = { s.dev.bm with out := s.dev.bm.out.eraseIdx i } ∧ Only [17, 21] [.bm] s u) ∧
      (c ≠ 0 → w.q.write = true → bmHolds t.toNat = true → ∀ k, k < bmLen w.q → u.dev.bm.mem.get (bmKey t.toNat (w.q.addr.toNat + k)) = none) ∧
      (c ≠ 0 → w.m ∉ [0, 2, 3, 4] → u.dev.bm.out.map (·.q) = (s.dev.bm.out.eraseIdx i).map (·.q) ∧
        (w.q.write = false → u.dev.bm = { s.dev.bm with out := s.dev.bm.out.eraseIdx i }) ∧
        u.dev.fc = { s.dev.fc with lines := s.dev.fc.lines ++ [s.dev.latched ⟨BitVec.ofNat 16 (0x1100 + c),
          if c < 3 then 0 else 1, srcWord 17, BitVec.ofNat 32 (w.errInfo c ((w.q.beats.toNat + 15) % 16)), true⟩] } ∧
        Only [17, 21] [.bm, .evq, .fc, .hif] s u) ∧
      (∀ (k : Nat) (y : Mbx), c ≠ 0 → w.m = 0 → s.dev.mbx = [(k, y)] → k < 8 → y.ready = none → s.dev.rd (F.MB_STAT_STATE k) = 1 →
        (u.dev.mbx.get k).ready = some (2, 0, c, [])) ∧
      (∀ k, c ≠ 0 → w.m = 3 → w.q.cls = 1 → s.dev.loadingMb = some k → k < 8 →
        ∃ pl, (u.dev.mbx.get k).ready = some (2, 0x0A02, 0xFFFFFFFF, pl)) ∧
      (c ≠ 0 → w.m = 2 → w.q.mid = 5 → ∀ r, s.dev.on (F.EVQ_CFG_EN r) = true → (∀ k, k ≠ r → s.dev.on (F.EVQ_CFG_EN k) = false) →
        r < 16 → s.dev.rd2 (R.EVQ_BASE_LO r) ≤ w.q.addr.toNat →
        w.q.addr.toNat < s.dev.rd2 (R.EVQ_BASE_LO r) + 64 * 2 ^ s.dev.rd (F.EVQ_CFG_SIZE r) →
        u.dev.rd (F.EVQ_DROP r) = min (s.dev.rd (F.EVQ_DROP r) + (bmLen w.q + 63) / 64) 0xFFFFFFFF)) ∧
  (∀ (mid : BitVec 4) (write : Bool) (i : Nat) (w : BmW),
    s.dev.bmFind t.toNat mid.toNat write (fun x => !x.late) = some (i, w) →
    ∃ u, exec (.tout t mid write) s = .next u ∧ bit (u.dev.rd F.BM_STAT_TSTALL) t.toNat = true ∧
      u.dev.on F.BM_EVT_TOUT = true ∧ u.dev.rd F.BM_TOUT_CNT = min (s.dev.rd F.BM_TOUT_CNT + 1) 0xFFFFFFFF ∧ KeepsMem s u ∧
      (w.drain = true ∨ w.m ∉ [0, 2, 3, 4] → u.dev.bm.out.map (fun x => (x.q, x.late)) =
          (s.dev.bm.out.modify i (fun w => { w with late := true })).map (fun x => (x.q, x.late)) ∧
        Only [17, 21] [.bm, .evq, .fc, .hif] s u))

/-- 12 R295, R296: slices switch to the mask that a pause waits for; a reset master's waiting requests are withdrawn and what
it issued drains, and what its writes were to store is not known; the last answer of a drain, an error with its line, ends it with RST_MID, which also releases a transaction that timed out while its target
stays stalled (log 65, the model's reading). -/
def Obligations.BusSlicesAndDrains : Prop := ∀ (s : State), Running s →
  (∀ (via : Via) (v : Word), MayWrite s via R.BM_SLICE → let k := v.toNat % 2 ^ 14 &&& sliceAllowed (s.dev.rd F.PM_STAT_OP)
    ∃ t, exec (.sliceChange via v) s = .next t ∧ (t.dev.reg R.BM_SLICE).toNat % 2 ^ 14 = v.toNat % 2 ^ 14 ∧
      (s.dev.pm.opTgt = none ∨ s.dev.pointStands = true → k ≠ s.dev.sliceEff → t.dev.on F.BM_STAT_PAUSE = true ∧ t.dev.bm = { (s.dev.t6 via R.BM_SLICE true).bm with sliceTo := some k } ∧
        Only [17, 21] [.bm] s t) ∧
      (s.dev.pm.opTgt = none ∨ s.dev.pointStands = true → k = s.dev.sliceEff → t.dev.on F.BM_STAT_PAUSE = false ∧ t.dev.bm = { (s.dev.t6 via R.BM_SLICE true).bm with sliceTo := none } ∧
        Only [17, 21] [.bm] s t) ∧
      (s.dev.pm.opTgt ≠ none → s.dev.pointStands = false → Only pmWindows pmParts s t)) ∧
  (∀ k, s.dev.bm.sliceTo = some k →
    ∃ t, exec .sliceSwitch s = .next t ∧ t.dev.sliceEff = k % 2 ^ 32 ∧ t.dev.on F.BM_EVT_SLICE_CHG = true ∧
      (s.dev.rd F.PM_STAT_OP = s.dev.opWant → s.dev.sliceFor (s.dev.rd F.PM_STAT_OP) = k →
        t.dev.bm.sliceTo = none ∧ t.dev.on F.BM_STAT_PAUSE = false) ∧ Only pmWindows pmParts s t) ∧
  (∀ m : BitVec 3,
    let out := s.dev.bm.out.map (fun (w : BmW) => if w.m = m.toNat ∧ !w.late then { w with drain := true } else w)
    ∃ t, exec (.masterReset m) s = .next t ∧
      t.dev.bm.wait = s.dev.bm.wait.filter (fun w => w.m != m.toNat) ∧ t.dev.bm.out.map (fun x => (x.q, x.drain, x.late)) = out.map (fun x => (x.q, x.drain, x.late)) ∧
      (∀ w, w ∈ out → w.m = m.toNat → w.drain = true → w.q.write = true →
        (bmHolds w.q.tgt.toNat = true → ∀ k, k < bmLen w.q → t.dev.bm.mem.get (bmKey w.q.tgt.toNat (w.q.addr.toNat + k)) = none) ∧
        (∀ x, x ∈ t.dev.bm.out → x.q.tgt = w.q.tgt → ∀ kb, kb ∈ x.known →
          ¬(w.q.addr.toNat ≤ x.q.addr.toNat + kb.1 ∧ x.q.addr.toNat + kb.1 < w.q.addr.toNat + bmLen w.q))) ∧
      (m.toNat < 6 → out.any (fun w => w.m == m.toNat && w.drain) = true → bit (t.dev.rd F.BM_STAT_DRAIN) m.toNat = true) ∧
      (∀ off, off ≠ R.BM_STAT → t.dev.reg off = s.dev.reg off) ∧ Dev.Keeps [.bm] s.dev t.dev ∧ KeepsMem s t) ∧
  (∀ (m g : BitVec 3) (beats : BitVec 4) (w : BmW),
    s.dev.bm.out.find? (fun w => w.m == m.toNat && w.drain && w.q.tgt.toNat == g.toNat && (!w.late || s.dev.drainsLate m.toNat)) = some w →
    s.dev.lastDrain m.toNat = true → w.code ≤ 3 →
    let left := (s.dev.bm.out.erase w).map (fun (x : BmW) => if x.m = m.toNat then { x with drain := false } else x)
    ∃ t, exec (.rstMid m g beats) s = .next t ∧
      t.dev.bm = { s.dev.bm with out := if w.late then left ++ [{ w with drain := false }] else left } ∧
      bit (t.dev.rd F.BM_STAT_DRAIN) m.toNat = false ∧ t.dev.on F.BM_EVT_RST_MID = true ∧
      t.dev.rd F.BM_RST_CNT = min (s.dev.rd F.BM_RST_CNT + 1) 0xFFFFFFFF ∧
      t.dev.fc = { s.dev.fc with lines := s.dev.fc.lines ++ (if w.code ≠ 0 ∧ w.late = false then [s.dev.latched ⟨BitVec.ofNat 16 (0x1100 + w.code),
          if w.code < 3 then 0 else 1, srcWord 17, BitVec.ofNat 32 (w.errInfo w.code ((w.q.beats.toNat + 15) % 16)), true⟩] else []) ++ [s.dev.latched ⟨0x1105, 0, srcWord 17,
        BitVec.ofNat 32 (w.errInfo 0 beats.toNat), true⟩] } ∧ Only [17, 21] [.bm, .evq, .fc] s t)

/-- 14 R332 to R339: a model step senses and steps the nodes and reports them; an evaluation takes TH_RATE and, at its eighth
exceeding one in a row, trips, by rate (TRIP_RATE, 0x1403) or by temperature (TRIP_ABS, 0x1404); throttling steps the ceiling down to
OPMIN, that of a pending plan if it is the slower (log 78, the model's reading); 2 ms after a trip HOLD takes the safe state, entered for
the trip latched, or ends the DARK ramp in force; then the power goes; the board temperature and
a fit set the boundary. Quotients of the model that the spec leaves open go through thQuot (log 9). -/
def Obligations.Thermal : Prop := ∀ (s : State), Running s →
  (∀ (ch : List Sense) (ticks : BitVec 64), s.dev.rd F.PM_STAT_STATE ≠ 4 →
    ∃ t, exec (.thModelStep ch ticks) s = .next t ∧
      t.dev.node 47 = thS32 (512 * (s.dev.th.board.toInt + sgn 16 (s.dev.rd F.TH_FIT_OFS))) ∧
      (∀ i, i < 48 → t.dev.rd (F.TH_NODE i) = uns 16 (t.dev.nodeOut i) % 2 ^ 16) ∧
      (∀ c, c < 16 → s.dev.coreOff = true → c ≠ 10 → t.dev.rd (F.TH_DOM_CURRENT c) = 0 ∧ t.dev.rd (F.TH_DOM_POWER c) = 0) ∧
      (∀ c, c < 16 → s.dev.coreOff = false ∨ c = 10 →
        let x := ch.getD c ⟨0, false, false⟩
        (x.away = true → s.dev.runOn 130 = true → t.dev.rd (F.TH_DOM_CURRENT c) = s.dev.rd (F.TH_DOM_CURRENT c)) ∧
        (x.away = false ∨ s.dev.runOn 130 = false → t.dev.rd (F.TH_DOM_CURRENT c) =
          (Config.senseCurrent x.code (s.dev.cal.isense.get c).1 (s.dev.cal.isense.get c).2).toNat % 2 ^ 16) ∧
        (t.dev.th.sub.contains c = false → t.dev.rd (F.TH_DOM_POWER c) = t.dev.thPow c % 2 ^ 16) ∧
        (t.dev.th.sub.contains c = true → t.dev.rd (F.TH_DOM_POWER c) = if s.dev.coreOff then 375 else thSubst c)) ∧
      Only [20] [.th, .evq, .fc, .freeCtr, .tb] s t) ∧
  (∀ (left : BitVec 32) (ticks : BitVec 64), s.dev.rd F.PM_STAT_STATE ≠ 4 → ∃ t, exec (.thEvaluate left ticks) s = .next t ∧ KeepsMem s t ∧
    t.dev.th.hist = (sgn 16 (s.dev.rd F.TH_TMAX) :: s.dev.th.hist).take 255 ∧
    (∀ x, s.dev.th.hist[s.dev.rd F.TH_CFG_WIN - 1]? = some x →
      let r := divRne ((sgn 16 (s.dev.rd F.TH_TMAX) - x) * 125) (s.dev.rd F.TH_CFG_WIN)
      r < 32768 → -32768 ≤ r → t.dev.rd F.TH_RATE = uns 16 r) ∧
    (s.dev.on F.TH_STAT_TRIP = false → 7 ≤ s.dev.th.rIn → sgn 16 (s.dev.rd F.TH_ATRIP) ≤ sgn 16 (s.dev.rd F.TH_TMAX) →
      t.dev.on F.TH_STAT_TRIP = true ∧ t.dev.on F.TH_EVT_TRIP = true) ∧
    (let byRate := s.dev.on F.TH_STAT_RATE_ARMED = true ∧ s.dev.on F.TH_CFG_RATE_EN = true ∧
        sgn 16 (s.dev.rd F.TH_FLOOR) ≤ sgn 16 (s.dev.rd F.TH_TMAX) ∧ sgn 16 (s.dev.rd F.TH_RTRIP) ≤ sgn 16 (t.dev.rd F.TH_RATE)
     s.dev.on F.TH_STAT_TRIP = false → 7 ≤ s.dev.th.rIn →
      (byRate → t.dev.on F.TH_STAT_TRIP = true ∧ t.dev.th.tripRate = true) ∧
      (¬byRate → sgn 16 (s.dev.rd F.TH_ATRIP) ≤ sgn 16 (s.dev.rd F.TH_TMAX) → t.dev.th.tripRate = false)) ∧
    (s.dev.on F.TH_STAT_TRIP = false → s.dev.th.rIn < 7 → t.dev.on F.TH_STAT_TRIP = false)) ∧
  (∃ t, exec .throtStep s = .next t ∧ Only pmWindows pmParts s t ∧
    (s.dev.on F.TH_STAT_THROT = true → s.dev.rd F.PM_STAT_OPMAX < s.dev.opMin →
      t.dev.rd F.PM_STAT_OPMAX = (s.dev.rd F.PM_STAT_OPMAX + 1) % 4) ∧
    (s.dev.on F.TH_STAT_THROT = true → s.dev.opMin ≤ s.dev.rd F.PM_STAT_OPMAX → t.dev.on F.PM_STAT_F_TH = true) ∧
    (s.dev.on F.TH_STAT_THROT = false → t.dev.rd F.PM_STAT_OPMAX = s.dev.rd F.PM_STAT_OPMAX - 1)) ∧
  (s.dev.on F.TH_STAT_TRIP = true → s.dev.rd F.PM_STAT_STATE ≠ 4 →
    (s.dev.fc.latch = false → ∃ t, exec .tripHold s = .next t ∧ t.dev.fc.latch = true ∧ t.dev.rd F.FC_STAT_SAFE = 1 ∧
      t.dev.rd F.FC_SAFE_CODE = (if s.dev.th.tripRate then 0x1403 else 0x1404) ∧ t.dev.rd2 R.FC_SAFE_N_LO = s.dev.now ∧
      (∀ v, v < 64 → bit (t.dev.vat v).holds.toNat 1 = true) ∧ t.dev.gl.walking = false ∧ KeepsMem s t) ∧
    (s.dev.fc.latch = true → s.dev.rd F.FC_STAT_SAFE = 2 → ∃ t, exec .tripHold s = .next t ∧ t.dev.fc.latch = true ∧
      t.dev.rd F.FC_STAT_SAFE = 1 ∧ t.dev.rd F.FC_SAFE_CODE = s.dev.rd F.FC_SAFE_CODE ∧ t.dev.le.darkDone = none ∧
      (∀ v, v < 64 → bit (t.dev.vat v).holds.toNat 1 = true) ∧ KeepsMem s t) ∧
    (s.dev.fc.latch = true → s.dev.rd F.FC_STAT_SAFE = 1 → ∃ t, exec .tripHold s = .next t ∧ t.dev.fc.latch = true ∧
      t.dev.rd F.FC_STAT_SAFE = 1 ∧ KeepsMem s t) ∧
    (∃ t, exec .tripOff s = .next t ∧ t.dev.rd F.PM_STAT_STATE = 4 ∧
      t.dev.pins = { s.dev.pins with coreEn := false, corePg := false, offN := false } ∧ t.dev.tb.ppsOut = false ∧ t.dev.evq.pend = [] ∧
      t.dev.pc = {} ∧ t.dev.mbx = [] ∧ KeepsMem s t)) ∧
  (s.dev.on F.TH_STAT_NCONV = true → ∃ t, exec .converged s = .next t ∧ t.dev.on F.TH_STAT_NCONV = false ∧
    t.dev.on F.TH_EVT_CONVERGED = true ∧ Only [20] [.evq] s t) ∧
  (s.dev.on F.TH_STAT_NCONV = false → s.dev.on F.TH_STAT_RATE_ARMED = false →
    ∃ t, exec .rateArmed s = .next t ∧ t.dev.on F.TH_STAT_RATE_ARMED = true ∧ t.dev.on F.TH_EVT_ARMED = true ∧
      Only [20] [.evq] s t) ∧
  (∀ (via : Via) (v : Word), MayWrite s via R.TH_BOARD → bit v.toNat 16 = true →
    ∃ t, exec (.thBoardWrite via v) s = .next t ∧ t.dev.th.board = BitVec.ofNat 16 v.toNat ∧
      t.dev.on F.TH_STAT_BOARD_VALID = true ∧
      (s.dev.on F.TH_STAT_NCONV = true → ∀ i, i < 48 → t.dev.node i = 512 * (BitVec.ofNat 16 v.toNat).toInt) ∧
      (s.dev.on F.TH_STAT_NCONV = false → ∀ i, i ≠ 47 → t.dev.node i = s.dev.node i) ∧
      Only [20, 21] [.th, .bm, .fc, .freeCtr] s t) ∧
  (∀ (via : Via) (v : Word), MayWrite s via R.TH_FIT_CTL → s.dev.th.fitOn = false → s.dev.rd F.PM_STAT_STATE < 2 →
    s.dev.on F.TH_STAT_NCONV = false →
    ∃ t, exec (.thFitRun via v) s = .next t ∧ t.dev.th = { s.dev.th with fitOn := true, fitStore := bit v.toNat 1, fitChg := false } ∧
      Writes (s.dev.t6 via R.TH_FIT_CTL true) [.th] s t) ∧
  (∀ (r1 r2 : Int), s.dev.th.fitOn = true →
    ∃ t, exec (.fitDone r1 r2) s = .next t ∧ t.dev.th.fitOn = false ∧ t.dev.rd F.TH_REFJ = uns 16 r2 % 2 ^ 16 ∧
      t.dev.rd F.TH_STAT_FIT = (if s.dev.th.fitChg = true ∨ 32 < (r1 - r2).natAbs then 2 else 1) ∧
      t.dev.on F.TH_EVT_FIT_DONE = true ∧ Only [16, 20] [.th, .nv, .evq, .freeCtr] s t)

/-- 13 R300 to R303, R309 to R312: the lines sampled at a collector clock are recorded in the order of R301, the first of all
in the FIRST registers, and a line that asks for it sets the safe-state latch; without a clock they are latched with the sample index
that the always-on domain carries. The collector's own failure shows in FC_STAT (log 77). An entry with no logged cause is DIRECT, and the S3 lines
not yet collected act as collected ones on the latch, a DARK ramp, RESET_ONLY and the conditions of an exit (R310, R312 to R314). A DARK
ramp that overruns its bound ends with HOLD. -/
def Obligations.Collector : Prop := ∀ (s : State), Running s →
  (∀ (extra : List Line) (ticks : BitVec 64), s.dev.unclocked = true →
    let seen : List Raised := extra.map (fun l => { line := l, at_ := some (BitVec.ofNat 64 (s.dev.tickTo ticks.toNat).carried) })
    ∃ t, exec (.errorLine extra ticks) s = .next t ∧ t.dev.fc = { s.dev.fc with lines := s.dev.fc.lines ++ seen } ∧
      Writes s.dev [.fc, .tb] s t) ∧
  (∀ (extra : List Line) (ticks : BitVec 64), s.dev.unclocked = false →
    let ls := sortBy lineLe (s.dev.fc.lines ++ extra.map (fun l => ({ line := l } : Raised)))
    let rs := ls.filter (fun x => !isProt x)
    ∃ t, exec (.errorLine extra ticks) s = .next t ∧ (rs ≠ [] → t.dev.on F.FC_STAT_FIRST_VALID = true) ∧
      (ls.any isProt = true → t.dev.on F.FC_STAT_PROT = true ∧ t.dev.on F.FC_STAT_RESET_ONLY = true) ∧
      (∀ x, x ∈ rs → bit (t.dev.rd F.FC_STAT_SEVSEEN) x.line.sev.toNat = true) ∧
      (∀ x l, rs = x :: l → s.dev.on F.FC_STAT_FIRST_VALID = false →
        t.dev.rd F.FC_FIRST_CODE_CODE = x.line.code.toNat ∧ t.dev.rd F.FC_FIRST_CODE_SEV = x.line.sev.toNat + 1 ∧
        t.dev.rd F.FC_FIRST_SRC = x.line.src.toNat ∧ t.dev.rd F.FC_FIRST_INFO = x.line.info.toNat ∧
        t.dev.rd2 R.FC_FIRST_N_LO = (x.at_.map BitVec.toNat).getD s.dev.now % 2 ^ 64) ∧
      (ls.any (fun x => s.dev.asksSafe x.line) = true → t.dev.fc.latch = true) ∧
      (ls.any (fun x => s.dev.asksSafe x.line) = false → t.dev.fc.latch = s.dev.fc.latch ∧
        Only [11, 12, 13, 14, 18, 21] [.gl, .cal, .de, .evq, .fc, .freeCtr, .trc] s t) ∧
      KeepsMem s t) ∧
  (s.dev.unclocked = false → s.dev.fc.latch = true → s.dev.fc.latchLogged = false → (∀ x ∈ s.dev.fc.lines, x.line.sev ≠ 3) →
    ∃ t, exec .direct s = .next t ∧ Writes (s.dev.wrB F.FC_STAT_DIRECT true) [] s t) ∧
  (∀ x, s.dev.unclocked = false → x ∈ s.dev.fc.lines → x.line.sev = 3 →
    ∃ t, exec .direct s = .next t ∧ t.dev.fc.latch = true ∧
      (s.dev.fc.latch = false ∨ s.dev.fc.latchLogged = false → t.dev.on F.FC_STAT_DIRECT = true) ∧
      (s.dev.asksHold x.line = true → s.dev.fc.latch = false ∨ s.dev.rd F.FC_STAT_SAFE = 2 → t.dev.rd F.FC_STAT_SAFE = 1) ∧
      (holdOnly x.line.code.toNat = true → t.dev.on F.FC_STAT_RESET_ONLY = true) ∧
      (x.line.code = 0x0704 → t.dev.fc.overrun = true) ∧ KeepsMem s t) ∧
  (∀ p, s.dev.plan = some p → s.dev.rd F.FC_STAT_SAFE = 2 → s.dev.le.darkDone = none →
    (65535 + p.darkStep - 1) / p.darkStep + 16 ≤ s.dev.le.darkN →
    ∃ t, exec .darkTmo s = .next t ∧ t.dev.le = { s.dev.le with darkDone := some (s.dev.nextEff (List.range 64)) } ∧
      (∀ v, v < 64 → bit (t.dev.vat v).holds.toNat 1 = true) ∧ Writes (s.dev.wr F.FC_EVT_DARK_TMO 1) [.vl, .le, .evq, .freeCtr] s t)

/-- 13 R302, R303, R308, R309, R314: what the host asks of FC: a forced entry, an exit, which is refused while a condition of
Table 13.4 stands, and the clears and the snapshot of FC_CLR. The model's: EXIT acts before FORCE in one write (log 58), and a forced
entry sets the latch at once (log 63). -/
def Obligations.FaultControl : Prop := ∀ (s : State) (via : Via) (v : Word), Running s →
  (MayWrite s via R.FC_SAFE_CTL →
    (s.dev.unclocked = false →
      ∃ t, exec (.force via v) s = .next t ∧ t.dev.fc.latch = true ∧
        (bit v.toNat 1 = false → s.dev.fc.latch = false → bit v.toNat 2 = true → t.dev.rd F.FC_STAT_SAFE = 1) ∧ KeepsMem s t) ∧
    (bit v.toNat 0 = false →
      (s.dev.exitOk = true → ∃ t, exec (.exit via v) s = .next t ∧ t.dev.rd F.FC_STAT_SAFE = 0 ∧ t.dev.fc.latch = false ∧
        t.dev.on F.FC_EVT_SAFE_OUT = true ∧ (∀ u, u < 64 → bit (t.dev.vat u).holds.toNat 1 = false) ∧ KeepsMem s t) ∧
      (s.dev.exitOk = false → ∃ t, exec (.exit via v) s = .next t ∧
        Writes ((s.dev.t6 via R.FC_SAFE_CTL true).wr F.FC_EVT_EXIT_REFUSED 1) [.evq] s t))) ∧
  (MayWrite s via R.FC_CLR →
    (setBit v.toNat 0 % 32 = 1 → ∃ t, exec (.clrFirst via v) s = .next t ∧ t.dev.on F.FC_STAT_FIRST_VALID = false ∧
      t.dev.reg R.FC_FIRST_CODE = 0 ∧ t.dev.reg R.FC_FIRST_SRC = 0 ∧ t.dev.reg R.FC_FIRST_INFO = 0 ∧
      t.dev.rd2 R.FC_FIRST_N_LO = 0 ∧ Only [18, 21] [.bm] s t) ∧
    (setBit v.toNat 1 % 32 = 2 → ∃ t, exec (.hsnap via v) s = .next t ∧
      (∀ i r w, i < 32 → w < 8 → s.dev.fc.hist[i]? = some r →
        t.dev.reg (R.FC_HIST_0 i + 4 * w) = BitVec.ofNat 32 (r.words.getD w 0)) ∧
      (∀ i w, i < 32 → w < 8 → s.dev.fc.hist.length ≤ i → t.dev.reg (R.FC_HIST_0 i + 4 * w) = 0) ∧ Only [18, 21] [.bm] s t) ∧
    (setBit v.toNat 2 % 32 = 4 → ∃ t, exec (.hclr via v) s = .next t ∧ t.dev.fc = { s.dev.fc with hist := [] } ∧
      Writes ((s.dev.t6 via R.FC_CLR true).wr F.FC_STAT_HCOUNT 0) [.fc] s t) ∧
    (setBit v.toNat 3 % 32 = 8 → ∃ t, exec (.clrNopress via v) s = .next t ∧ t.dev.rd2 R.FC_NOPRESS_LO = 0 ∧
      t.dev.rd glInh = t.dev.inhNow ∧ Only [11, 12, 13, 14, 18, 21] [.bm, .gl, .cal, .de, .evq, .fc, .freeCtr, .trc] s t) ∧
    (setBit v.toNat 4 % 32 = 16 → ∃ t, exec (.clrEict via v) s = .next t ∧
      t.dev.rd2 R.FC_EICT_LO = s.dev.fc.eictClr.foldl clrBit (s.dev.rd2 R.FC_EICT_LO) ∧ t.dev.fc.eictClr = [] ∧
      t.dev.rd glInh = t.dev.inhNow ∧ Only [11, 12, 13, 14, 18, 21] [.bm, .gl, .cal, .de, .evq, .fc, .freeCtr, .trc] s t))

/-- 11 R271 to R275: event records. The oldest handed over goes to every enabled ring that passes it, else is counted or, with
no ring enabled, kept; of a batch the records that fit are written from PI on, each with its sequence number, and the others dropped; the ring's timer signals; a consumer index
moves forward up to PI; an enabled ring starts at 0. That SEQ restarts with PI is DEDUCED (log 40). -/
def Obligations.EventRings : Prop := ∀ (s : State), Running s →
  (∀ e l, s.dev.evq.inbox = e :: l →
    let rs := (List.range 16).filter (s.dev.ringTakes e)
    ∃ t, exec .eventRecord s = .next t ∧ t.dev.evq.inbox = l ∧
      (∀ r, r ∈ rs → (t.dev.evq.rings.get r).todo = (s.dev.evq.rings.get r).todo ++ [e]) ∧
      (rs ≠ [] → Writes s.dev [.evq] s t) ∧
      (rs = [] → s.dev.anyRing = true → Writes (s.dev.count F.EVQ_UNROUTED) [.evq] s t) ∧
      (rs = [] → s.dev.anyRing = false → s.dev.evq.pend.length < 256 → t.dev.evq.pend = s.dev.evq.pend ++ [e] ∧
        t.dev.rd F.EVQ_PENDING = s.dev.evq.pend.length + 1 ∧ Only [2] [.evq] s t)) ∧
  (∀ r : BitVec 4,
    let x := s.dev.evq.rings.get r.toNat
    let n := 2 ^ s.dev.rd (F.EVQ_CFG_SIZE r.toNat)
    let pi := s.dev.rd (F.EVQ_PI r.toNat)
    let k := min x.todo.length (n - (pi + 2 ^ 32 - s.dev.rd (F.EVQ_CI r.toNat)) % 2 ^ 32)
    (∃ t, exec (.evqRecordWrite r true) s = .next t ∧ (t.dev.evq.rings.get r.toNat).todo = [] ∧
      t.dev.tx.take k = (x.todo.take k).zipIdx.map (fun ei => let p := (pi + ei.2) % 2 ^ 32
        Tx.hostWrite (BitVec.ofNat 64 (s.dev.rd2 (R.EVQ_BASE_LO r.toNat) + 64 * (p % n)))
          (evBytes ei.1 (x.seq + ei.2) (if ei.2 = 0 then x.lost else 0) (phaseOf p n))) ∧
      t.dev.rd (F.EVQ_PI r.toNat) = (pi + k) % 2 ^ 32 ∧ (t.dev.evq.rings.get r.toNat).seq = x.seq + k ∧
      (t.dev.evq.rings.get r.toNat).lost = (if k = 0 then x.lost else 0) + (x.todo.length - k) ∧
      t.dev.rd (F.EVQ_DROP r.toNat) = min (s.dev.rd (F.EVQ_DROP r.toNat) + (x.todo.length - k)) 0xFFFFFFFF ∧
      (k ≠ 0 → .hostWrite (BitVec.ofNat 64 (s.dev.rd2 (R.EVQ_WB_LO r.toNat))) (toLe 8 ((pi + k) % 2 ^ 32)) ∈ t.dev.tx) ∧
      (k = 0 → t.dev.tx = []) ∧ Only [0, 2, 21] [.evq] s t) ∧
    (∃ t, exec (.evqRecordWrite r false) s = .next t ∧ (t.dev.evq.rings.get r.toNat).todo = [] ∧
      (t.dev.evq.rings.get r.toNat).lost = x.lost + x.todo.length ∧
      Writes (s.dev.count (F.EVQ_DROP r.toNat) x.todo.length) [.evq] s t)) ∧
  (∀ r : BitVec 4, (s.dev.evq.rings.get r.toNat).unsig ≠ 0 →
    ∃ t, exec (.evqModTimer r) s = .next t ∧ (t.dev.evq.rings.get r.toNat).unsig = 0 ∧
      (bit (s.dev.reg (0x1000 + 16 * r.toNat + 12)).toNat 0 = false → t.dev.tx = [.msix r.toNat]) ∧
      (bit (s.dev.reg (0x1000 + 16 * r.toNat + 12)).toNat 0 = true → t.dev.tx = [] ∧
        bit (t.dev.reg 0x1800).toNat r.toNat = true) ∧ Only [0] [.evq] s t) ∧
  (∀ (via : Via) (r : BitVec 4) (v : Word), MayWrite s via (R.EVQ_CI r.toNat) →
    let ci := s.dev.rd (F.EVQ_CI r.toNat)
    let ok := (v.toNat + 2 ^ 32 - ci) % 2 ^ 32 ≤ (s.dev.rd (F.EVQ_PI r.toNat) + 2 ^ 32 - ci) % 2 ^ 32
    let d := s.dev.t6 via (R.EVQ_CI r.toNat) true
    (ok → ∃ t, exec (.evqCiWrite via r v) s = .next t ∧ Writes (d.wr (F.EVQ_CI r.toNat) v.toNat) [] s t) ∧
    (¬ ok → ∃ t, exec (.evqCiWrite via r v) s = .next t ∧
      t.dev.fc = { s.dev.fc with lines := s.dev.fc.lines ++
        [s.dev.latched ⟨0x0201, 0, srcWord 2, BitVec.ofNat 32 r.toNat, true⟩] } ∧ Writes d [.fc] s t)) ∧
  (∀ (via : Via) (r : BitVec 4) (v : Word), MayWrite s via (R.EVQ_CFG r.toNat) →
    (s.dev.on (F.EVQ_CFG_EN r.toNat) = false →
      ∃ t, exec (.evqRingEnable via r v) s = .next t ∧ t.dev.on (F.EVQ_CFG_EN r.toNat) = true ∧
        t.dev.rd (F.EVQ_PI r.toNat) = 0 ∧ t.dev.rd (F.EVQ_CI r.toNat) = 0 ∧ (t.dev.evq.rings.get r.toNat).seq = 0 ∧
        (s.dev.anyRing = false → t.dev.evq.pend = [] ∧ t.dev.evq.pendDrop = 0) ∧ Only [2, 21] [.bm, .evq, .fc, .freeCtr] s t) ∧
    (∃ t, exec (.evqRingDisable via r v) s = .next t ∧ t.dev.on (F.EVQ_CFG_EN r.toNat) = false ∧
      Only [2, 21] [.bm, .fc, .freeCtr] s t))

/-- 11 R276, R277: trace records. The oldest goes to its ring at PI, or is dropped where the bus does not answer, the ring is not
enabled or it is full; a consumer index takes effect whole or not at all; an enabled ring starts at 0, and its SEQ with it. The model's
readings: that a record for a ring not enabled is dropped, that after a bad consumer index the pair TRC_CI reads as the effective value
again (log 61), and that SEQ starts over (log 40). -/
def Obligations.TraceRings : Prop := ∀ (s : State), Running s →
  (∀ (busOk : Bool) (a : Trec) (l : List Trec) (r : Nat), s.dev.trc.inbox = a :: l → s.dev.trRings a = [r] → r < 8 →
    let x := s.dev.trc.rings.get r
    let n := 2 ^ (s.dev.rd (F.TRC_CFG_SIZE r) - 6)
    let pi := s.dev.rd2 (R.TRC_PI_LO r)
    (busOk = true → s.dev.on (F.TRC_CFG_EN r) = true → pi - x.ci < n →
      ∃ t, exec (.traceRecordWrite busOk) s = .next t ∧ t.dev.trc.inbox = l ∧
        t.dev.tx.head? = some (.hostWrite (BitVec.ofNat 64 (s.dev.rd2 (R.TRC_BASE_LO r) + 64 * (pi % n)))
          (trBytes a x.seq x.lost (phaseOf pi n))) ∧
        t.dev.rd2 (R.TRC_PI_LO r) = (pi + 1) % 2 ^ 64 ∧ (t.dev.trc.rings.get r).seq = x.seq + 1 ∧
        (t.dev.trc.rings.get r).lost = 0 ∧ Only [0, 3, 21] [.trc] s t) ∧
    (busOk = false ∨ s.dev.on (F.TRC_CFG_EN r) = false ∨ n ≤ pi - x.ci →
      ∃ t, exec (.traceRecordWrite busOk) s = .next t ∧ t.dev.trc.inbox = l ∧
        t.dev.rd (F.TRC_DROP r) = min (s.dev.rd (F.TRC_DROP r) + 1) 0xFFFFFFFF ∧
        (t.dev.trc.rings.get r).lost = x.lost + 1 ∧ t.dev.rd2 (R.TRC_PI_LO r) = pi ∧
        Only [0, 3, 15, 21] [.trc, .evq, .cal] s t)) ∧
  (∀ (via : Via) (r : BitVec 3) (v : Word), MayWrite s via (R.TRC_CI_HI r.toNat) →
    let c := s.dev.rd (F.TRC_CI_LO r.toNat) + 2 ^ 32 * v.toNat
    let x := s.dev.trc.rings.get r.toNat
    let d := s.dev.t6 via (R.TRC_CI_HI r.toNat) true
    (x.ci ≤ c → c ≤ s.dev.rd2 (R.TRC_PI_LO r.toNat) →
      ∃ t, exec (.trcCiHiWrite via r v) s = .next t ∧ (t.dev.trc.rings.get r.toNat).ci = c ∧
        Writes (d.wr2 (R.TRC_CI_LO r.toNat) c) [.trc] s t) ∧
    (¬ (x.ci ≤ c ∧ c ≤ s.dev.rd2 (R.TRC_PI_LO r.toNat)) →
      ∃ t, exec (.trcCiHiWrite via r v) s = .next t ∧ t.dev.fc = { s.dev.fc with lines := s.dev.fc.lines ++
          [s.dev.latched ⟨0x0201, 0, srcWord 2, BitVec.ofNat 32 r.toNat, true⟩] } ∧
        Writes (d.wr2 (R.TRC_CI_LO r.toNat) x.ci) [.fc] s t)) ∧
  (∀ (via : Via) (r : BitVec 3) (v : Word), MayWrite s via (R.TRC_CFG r.toNat) → s.dev.on (F.TRC_CFG_EN r.toNat) = false →
    bit v.toNat 0 = true →
    ∃ t, exec (.trcRingEnable via r v) s = .next t ∧ t.dev.on (F.TRC_CFG_EN r.toNat) = true ∧
      t.dev.rd2 (R.TRC_PI_LO r.toNat) = 0 ∧ t.dev.rd2 (R.TRC_CI_LO r.toNat) = 0 ∧
      (t.dev.trc.rings.get r.toNat).ci = 0 ∧ (t.dev.trc.rings.get r.toNat).seq = 0 ∧ Only [3, 21] [.bm, .trc, .fc, .freeCtr] s t)

/-- 15 R346 to R351: a snapshot copies every count and the sample index as they are in the clock of the write's own grant, a clear
zeroes them, and FREEZE follows its bit; what that grant counts is not in the snapshot and is counted after the clear (R347: t6 comes
last). A write with SNAP and CLR_ALL takes the snapshot first (log 58), and a register access over BAR0 counts as a transaction at T6
(log 94): the model's readings. What requests have waited up to now is counted before any of it, clocks of which no command has told being
free (log 97). A selection written is in force from the next frame, the one before being kept until then;
counter.config sets, reads and clears PC counters. -/
def Obligations.PerformanceCounters : Prop := ∀ (s : State), Running s →
  (∀ (via : Via) (v : Word), MayWrite s via R.PC_CTL →
    let z := s.dev.bmSettle
    let frozen := z.wrB F.PC_CTL_FREEZE (bit v.toNat 1)
    let cleared := z.pcClear.wrB F.PC_CTL_FREEZE (bit v.toNat 1)
    (∃ t, exec (.snap via v) s = .next t ∧ (∀ c, c ∈ pcAll → t.dev.rd2 (c.1 + 8) = z.rd2 c.1) ∧
      t.dev.rd2 R.PC_SNAP_N_LO = s.dev.now ∧ t.dev.reg R.PC_SNAP_EXT = s.dev.reg R.PC_EXT ∧
      (bit v.toNat 2 = false → ∀ c, c ∈ pcAll → t.dev.rd2 c.1 = (frozen.t6 via R.PC_CTL true).rd2 c.1) ∧
      t.dev.on F.PC_CTL_FREEZE = bit v.toNat 1 ∧ Only [21] [.bm, .freeCtr] s t) ∧
    (∃ t, exec (.clrAll via v) s = .next t ∧
      (∀ c, c ∈ pcAll → cleared.rd2 c.1 = 0 ∧ t.dev.rd2 c.1 = (cleared.t6 via R.PC_CTL true).rd2 c.1 ∧
        (8 ≤ c.2 → t.dev.rd2 c.1 = 0) ∧ bit (t.dev.reg R.PC_EXT).toNat c.2 = false) ∧
      t.dev.on F.PC_CTL_FREEZE = bit v.toNat 1 ∧ Only [21] [.bm, .freeCtr] s t) ∧
    (bit v.toNat 0 = false → bit v.toNat 2 = false → ∃ t, exec (.freeze via v) s = .next t ∧
      Writes (frozen.t6 via R.PC_CTL true) [] s t)) ∧
  (∀ (via : Via) (off : BitVec 16) (v : Word),
    let o := 0x150000 + off.toNat / 4 * 4
    let d := s.dev.bmSettle.t6 via o true
    isSelect o = true → MayWrite s via o →
    (∀ r, o < R.PC_EVSEL 0 → regAt o = some r → r.reserved v.toNat = false →
      ∃ t, exec (.pcSelectWrite via off v) s = .next t ∧
        t.dev.pc.pend = (if s.dev.pc.pend.any (fun x => x.1 == o) then s.dev.pc.pend else s.dev.pc.pend ++ [(o, s.dev.reg o)]) ∧
        Writes (d.setReg o (BitVec.ofNat 32 (r.written (s.dev.reg o).toNat v.toNat))) [.pc] s t) ∧
    (R.PC_EVSEL 0 ≤ o → evListed (v.toNat % 65536) = true → evTakes (v.toNat % 65536) (v.toNat / 65536 % 256) = true →
      ∃ t, exec (.pcSelectWrite via off v) s = .next t ∧
        t.dev.pc.pend = (if s.dev.pc.pend.any (fun x => x.1 == o) then s.dev.pc.pend else s.dev.pc.pend ++ [(o, s.dev.reg o)]) ∧
        Writes (d.setReg o (BitVec.ofNat 32 (v.toNat % 2 ^ 24))) [.pc] s t)) ∧
  (∀ (mb : BitVec 3) (m : Mbx), Asked s mb 0x0A01 (some 0) m → m.fld 1 1 ≠ 0xFF → (pcCounter (m.fld 1 1)).isSome = true →
    (∀ o, pcSetBad m = some o → ∃ t, exec (.counterConfigSet mb) s = .next t ∧ Answered s t mb 6 0 o [] ∧ Only [] [.mbx] s t) ∧
    (pcSetBad m = none → ∃ t, exec (.counterConfigSet mb) s = .next t ∧ Answered s t mb 0 0 0xFFFFFFFF [] ∧
      (16 ≤ m.fld 1 1 → t.dev.reg (R.PC_EVSEL (m.fld 1 1 - 16)) = BitVec.ofNat 32 (m.fld 2 2 + 65536 * m.fld 7 1)) ∧
      (m.fld 1 1 < 8 → t.dev.reg (R.PC_BPWB (m.fld 1 1)) = BitVec.ofNat 32 (m.fld 8 4) ∧
        t.dev.reg (R.PC_BPWL (m.fld 1 1)) = BitVec.ofNat 32 (m.fld 12 4)) ∧ Only [21] [.pc, .mbx] s t)) ∧
  (∀ (mb : BitVec 3) (m : Mbx) (c : Nat × Nat), m.fld 1 1 ≠ 0xFF → pcCounter (m.fld 1 1) = some c →
    (Asked s mb 0x0A01 (some 1) m → ∃ t, exec (.counterConfigRead mb) s = .next t ∧
      Answered s t mb 0 0 0xFFFFFFFF (toLe 8 (s.dev.bmSettle.rd2 c.1) ++ [if bit (s.dev.reg R.PC_EXT).toNat c.2 then 1 else 0] ++ zeros 7 ++
        toLe 8 s.dev.now) ∧ Only [21] [.mbx, .bm, .freeCtr] s t) ∧
    (Asked s mb 0x0A01 (some 2) m → ∃ t, exec (.counterConfigClear mb) s = .next t ∧ Answered s t mb 0 0 0xFFFFFFFF [] ∧
      t.dev.rd2 c.1 = 0 ∧ bit (t.dev.reg R.PC_EXT).toNat c.2 = false ∧ Only [21] [.mbx, .bm, .freeCtr] s t))

/-- 15 R345: counter.config reaches a fixed counter with COUNTER = 0xFF and WBASE set to its offset. OP read, and OP clear alike,
answers the count extended to 64 bits with the sample index, and clears the counter as a register read does; OP set is refused
with RANGE, and so is a WBASE that names no fixed counter, with DETAIL2 holding it. -/
def Obligations.FixedCounterCommands : Prop := ∀ (s : State) (mb : BitVec 3) (m : Mbx), Running s → m.fld 1 1 = 0xFF →
  (Asked s mb 0x0A01 (some 0) m →
    ∃ t, exec (.counterConfigSet mb) s = .next t ∧ (∃ o, Answered s t mb 6 0 o []) ∧ Only [] [.mbx] s t) ∧
  (∀ (op : Nat) (c : Instr), (op, c) ∈ [(1, Instr.counterConfigRead mb), (2, .counterConfigClear mb)] →
    Asked s mb 0x0A01 (some op) m →
    let off := m.fld 8 4
    (isFixed off = true → ∃ t, exec c s = .next t ∧
      Answered s t mb 0 0 0xFFFFFFFF (toLe 8 (s.dev.readNow off).toNat ++ zeros 8 ++ toLe 8 s.dev.now) ∧
      t.dev.readNow off = 0 ∧ Writes (s.dev.setReg off 0) [.mbx, .trc] s t) ∧
    (isFixed off = false → ∃ t, exec c s = .next t ∧ Answered s t mb 6 0 off [] ∧ Only [] [.mbx] s t))

/-- 02 R38, R39, R48, R50; 09 R216: what PTP and PPS bring. A Sync the port takes, or its Follow_Up, gives its port an offset, its
stamp corrected by RXLAT, where its transmitter is the port's best one; an Announce gives a port with none its transmitter, and a timeout takes it away; a delay response gives the
path delay; a request goes out over each transport configured, from the port's own address; a qualified PPS edge is seen after three
in a row; PPS_OUT follows its enable. A lost source in use takes LOCKED and RELOCK to HOLDOVER. The mean of the path delay is that of
IEEE 1588 (log 7); what ends the PPS qualification is the model's (log 68). -/
def Obligations.TimeInputs : Prop := ∀ (s : State), Running s →
  (∀ (p : Port) (h : PtpHdr) (seq : BitVec 16) (origin rx : Int), s.dev.ptpTakes p h (-7) 0 = true →
    let at_ := stampFix rx (-s.dev.rpRxlat p)
    (s.dev.fromBest p h = true → s.dev.on F.TB_REF_STAT_SWITCHING = false → s.dev.portInCal p = false →
      (∃ t, exec (.ptpSync p h seq true origin rx) s = .next t ∧ (t.dev.ptp p).pend = some { seq := seq, rx := at_ } ∧
        t.dev.ptp (otherPort p) = s.dev.ptp (otherPort p) ∧ Writes s.dev [.tb] s t) ∧
      (∃ t, exec (.ptpSync p h seq false origin rx) s = .next t ∧ (t.dev.ptp p).pend = none ∧ (t.dev.ptp p).lost = false ∧
        (t.dev.ptp p).offset = some (at_ - origin - (s.dev.ptp p).delay) ∧ KeepsMem s t)) ∧
    (s.dev.fromBest p h = false ∨ s.dev.on F.TB_REF_STAT_SWITCHING = true ∨ s.dev.portInCal p = true → ∀ two,
      exec (.ptpSync p h seq two origin rx) s = .next s.fresh) ∧
    (s.dev.fromBest p h = false → exec (.ptpFollowUp p h seq origin) s = .next s.fresh) ∧
    (s.dev.fromBest p h = true → (s.dev.ptp p).pend = some { seq := seq, rx := rx } →
      ∃ t, exec (.ptpFollowUp p h seq origin) s = .next t ∧ (t.dev.ptp p).pend = none ∧
        (t.dev.ptp p).offset = some (rx - origin - (s.dev.ptp p).delay) ∧ KeepsMem s t)) ∧
  (∀ (p : Port) (h : PtpHdr) (a : Announce), s.dev.ptpTakes p h (-3) 3 = true → (s.dev.ptp p).master = none →
    ∃ t, exec (.ptpAnnounce p h a) s = .next t ∧ (t.dev.ptp p).master = some { a with parent := h.src } ∧ (t.dev.ptp p).lost = false ∧
      (s.dev.selected = p → t.dev.rd F.TB_UTC_OFFSET = a.utc.toNat % 2 ^ 16 ∧ t.dev.on F.TB_STAT_TS_TAI = a.ptpScale) ∧
      KeepsMem s t) ∧
  (∀ (p : Port) (h : PtpHdr) (seq : BitVec 16) (t1 t2 t3 t4 : Int), s.dev.ptpTakes p h (-128) 127 = true →
    (s.dev.ptp p).reqOut = true → (s.dev.ptp p).reqSeq = seq →
    let peer := s.dev.on F.TB_PTP_CFG_DELAY_MECH
    let out (x : Int) : Int := stampFix x (s.dev.rpTxlat p)
    let in_ (x : Int) : Int := stampFix x (-s.dev.rpRxlat p)
    let sum : Int := if peer then (t2 - out t1) + (in_ t4 - t3) else (in_ t2 - t1) + (t4 - out t3)
    ∃ t, exec (.ptpDelayResp p h peer seq t1 t2 t3 t4) s = .next t ∧
      t.dev.ptp p = { s.dev.ptp p with reqOut := false, delay := divRne sum 2 } ∧ Writes s.dev [.tb] s t) ∧
  (∀ p : Port, s.dev.ptpOn p = true →
    (∀ a, (s.dev.ptp p).reqAt = some a → s.dev.now < a ∨ 1000000 ≤ (s.dev.now - a) * 2 ^ s.dev.rd F.TB_PTP_CFG_LOG_REQ) →
    let q := (s.dev.ptp p).reqSeq + 1
    let sa := BitVec.ofNat 48 (s.dev.rd (rpFld p F.RPA_MAC_HI) * 2 ^ 32 + s.dev.rd (rpFld p F.RPA_MAC_LO))
    let out (udp : Bool) : Tx := .ptpRequest p udp (s.dev.on F.TB_PTP_CFG_DELAY_MECH) (s.dev.on F.TB_PTP_CFG_MCAST_DA) sa
      (BitVec.ofNat 8 (s.dev.rd F.TB_PTP_CFG_DOMAIN)) q
    ∃ t, exec (.ptpRequestSend p) s = .next t ∧
      t.dev.tx = (if s.dev.rd F.TB_PTP_CFG_TRANSPORT = 1 then [] else [out false]) ++
        (if s.dev.rd F.TB_PTP_CFG_TRANSPORT = 0 then [] else [out true]) ∧
      t.dev.ptp p = { s.dev.ptp p with reqSeq := q, reqOut := true, reqAt := some s.dev.now } ∧ Writes s.dev [.tb] s t) ∧
  (∀ (p : Port) (gone : Bool),
    ∃ t, exec (if gone then .announceReceiptTimeout p else .syncTimeout p) s = .next t ∧ (t.dev.ptp p).lost = true ∧
      (t.dev.ptp p).master = (if gone then none else (s.dev.ptp p).master) ∧
      (s.dev.selected ≠ p → (t.dev.ptp p).offset = none ∧ t.dev.rd F.TB_SHADOW_OFFSET = 0x80000000 ∧
        ((s.dev.ptp s.dev.selected).good = true → Only [5] [.tb] s t)) ∧
      ((s.dev.ptp (otherPort p)).good = false → s.dev.tbSrc = 0 → s.dev.tbState = 2 ∨ s.dev.tbState = 4 →
        t.dev.tbState = 3 ∧ t.dev.tb.hoSecs = 0) ∧ KeepsMem s t) ∧
  (∀ (falling shorter periodOk : Bool) (diff : Int), s.dev.on F.TB_PPS_CFG_IN_EN = true →
    (if s.dev.on F.TB_PPS_CFG_POL_AUTO then shorter else falling == s.dev.on F.TB_PPS_CFG_POL_FORCE) = true →
    let n := if falling = s.dev.tb.ppsCand ∧ periodOk = true then min 3 (s.dev.tb.ppsCnt + 1) else 0
    (n < 3 → ∃ t, exec (.ppsEdge falling shorter periodOk diff) s = .next t ∧
      t.dev.tb = { s.dev.tb with ppsCand := falling, ppsCnt := n } ∧ Writes s.dev [.tb] s t) ∧
    (n = 3 → ∃ t, exec (.ppsEdge falling shorter periodOk diff) s = .next t ∧ t.dev.on F.TB_STAT_PPS_QUAL = true ∧
      t.dev.on F.TB_STAT_PPS_POL = falling ∧ KeepsMem s t)) ∧
  (∃ t, exec .ppsLost s = .next t ∧ t.dev.on F.TB_STAT_PPS_QUAL = false ∧ t.dev.tb.ppsCnt = 0 ∧
    (s.dev.tbSrc = 1 → s.dev.tbState = 2 ∨ s.dev.tbState = 4 → t.dev.tbState = 3) ∧ KeepsMem s t) ∧
  (s.dev.on F.TB_PPS_CFG_OUT_EN = true → s.dev.tbState ≠ 0 → s.dev.rd F.PM_STAT_STATE < 3 → s.dev.tb.ppsOut = false →
    ∃ t, exec (.ppsOut true) s = .next t ∧ t.dev.tx = [.pin "PPS_OUT" true] ∧ t.dev.tb = { s.dev.tb with ppsOut := true } ∧
      Writes s.dev [.tb] s t) ∧
  (s.dev.tb.ppsOut = true → ∃ t, exec (.ppsOut false) s = .next t ∧ t.dev.tx = [.pin "PPS_OUT" false] ∧
    t.dev.tb = { s.dev.tb with ppsOut := false } ∧ Writes s.dev [.tb] s t)

/-- 02 R41 to R43, R46, R47, R49, R53: TB_UNC is recomputed each second; a lost reference switches to the other, both lost grow
the uncertainty and force P1; a change of source in LOCKED or RELOCK goes to HOLDOVER, in REANCHOR it waits; a host step is made
where STEP_OK allows it; a snapshot and time.status read the time. TB_OFFSET = 0 after a host step from PTP is the model's (log 84). -/
def Obligations.TimeBase : Prop := ∀ (s : State), Running s →
  (let d := if s.dev.tbState = 3 then s.dev.setTb (fun t => { t with hoSecs := t.hoSecs + 1 }) else s.dev
    ∃ t, exec .tbUncRecompute s = .next t ∧ t.dev.rd F.TB_UNC = d.uncNow ∧ t.dev.tb.hoSecs = d.tb.hoSecs ∧ KeepsMem s t) ∧
  (∀ r : RefIn, s.dev.on (refOk r) = true →
    let o : RefIn := if r = .a then .b else .a
    ∃ t, exec (.refLoss r) s = .next t ∧ t.dev.on (refOk r) = false ∧
      (s.dev.on (refOk o) = true → t.dev.refUse = o ∧ (s.dev.refUse = r → t.dev.on F.TB_REF_STAT_SWITCHING = true ∧
        t.dev.tb.switchAt = some s.dev.now ∧ t.dev.fc.lines = s.dev.fc.lines ++
          [s.dev.latched ⟨0x0501, 1, srcWord 5, if r = .a then 0 else 1, true⟩])) ∧
      (s.dev.on (refOk o) = false → t.dev.tb.refBoth = true ∧ t.dev.tb.refLost = s.dev.now ∧ t.dev.tb.refOkSeen = false ∧
        t.dev.on F.PM_STAT_F_REF = true) ∧ KeepsMem s t) ∧
  (∀ r : RefIn, ∃ t, exec (.refUsable r) s = .next t ∧ t.dev.on (refOk r) = true ∧ t.dev.tb.refOkSeen = s.dev.tb.refBoth ∧
    t.dev.tb.u0 = (if s.dev.tbState = 3 then s.dev.tb.u0 + s.dev.refGrowth else s.dev.tb.u0) ∧
    (s.dev.on (refOk s.dev.refUse) = false → r ≠ s.dev.refUse → t.dev.refUse = r ∧ t.dev.on F.TB_REF_STAT_SWITCHING = true) ∧
    Only [5] [.tb, .evq] s t) ∧
  (∀ (via : Via) (v : Word), MayWrite s via R.TB_CFG →
    let old := s.dev.rd F.TB_CFG_SRC
    let new := v.toNat / 16 % 4
    new ≤ 2 → ∃ t, exec (.srcChange via v) s = .next t ∧ t.dev.rd F.TB_CFG_SRC = new ∧ KeepsMem s t ∧
      (s.dev.tbState = 5 → s.dev.tb.srcPend = none → t.dev.tb.srcPend = (if old = new then none else some old) ∧
        t.dev.tbState = 5) ∧
      (s.dev.tbState = 2 ∨ s.dev.tbState = 4 → old ≠ new → old ≠ 2 → t.dev.tbState = 3)) ∧
  (∀ (via : Via) (v : Word), MayWrite s via R.TB_STEP_CTL →
    (s.dev.on F.GL_STAT_PLAN = true → s.dev.tbState ≠ 5 → ∃ t, exec (.hostStep via v) s = .next t ∧
      t.dev.on F.TB_EVT_STEP_REFUSED = true ∧ t.dev.now = s.dev.now ∧ Only [5, 21] [.bm, .evq] s t) ∧
    (s.dev.on F.GL_STAT_PLAN = false ∨ s.dev.tbState = 5 →
      (s.dev.tbSrc = 0 → ∃ t, exec (.hostStep via v) s = .next t ∧ t.dev.on F.TB_EVT_STEP_DONE = true ∧
        t.dev.rd F.TB_OFFSET = 0 ∧
        t.dev.now = uns 110 ((s.dev.time32 : Int) - sgn 32 (s.dev.rd F.TB_OFFSET) * 2 ^ 28) / 2 ^ 32 / 1000 % 2 ^ 64 ∧
        Only [5, 21] [.bm, .tb, .evq] s t) ∧
      (s.dev.tbSrc = 1 → ∃ t, exec (.hostStep via v) s = .next t ∧ t.dev.tb = { s.dev.tb with todArm := true } ∧
        Only [5, 21] [.bm, .tb] s t) ∧
      (s.dev.tbSrc = 2 → s.dev.vl.gate = true → ∃ t, exec (.hostStep via v) s = .next t ∧ t.dev.tbState = 6 ∧
        t.dev.now = (s.dev.rd F.TB_TOD_SEC_LO + 2 ^ 32 * s.dev.rd F.TB_TOD_SEC_HI) * 1000000 % 2 ^ 64 ∧ KeepsMem s t))) ∧
  (∀ (via : Via) (v : Word) (ns : BitVec 10) (frac : Word), MayWrite s via R.TB_SNAP_CTL →
    ∃ t, exec (.tbSnap via v ns frac) s = .next t ∧ t.dev.rd F.TB_SNAP_SEC_LO = s.dev.tb.sec.toNat % 2 ^ 32 ∧
      t.dev.rd F.TB_SNAP_SEC_HI = s.dev.tb.sec.toNat / 2 ^ 32 ∧
      t.dev.rd F.TB_SNAP_NS = (s.dev.tb.ns.toNat / 1000 * 1000 + ns.toNat % 1000) % 2 ^ 30 ∧ t.dev.reg R.TB_SNAP_FRAC = frac ∧
      Only [5, 21] [.bm] s t) ∧
  (∀ (mb : BitVec 3) (m : Mbx), Asked s mb 0x0801 none m →
    let w (o : Nat) : List Byte := toLe 4 (s.dev.reg o).toNat
    let head := w R.TB_STAT ++ w R.TB_UNC ++ w R.TB_OFFSET ++ w R.TB_SHADOW_OFFSET ++ w R.TB_HO_FERR
    let tail := toLe 2 (s.dev.rd F.TB_UTC_OFFSET) ++ toLe 8 s.dev.now
    (∀ a, (s.dev.ptp s.dev.selected).master = some a → ∃ t, exec (.timeStatus mb) s = .next t ∧
      Answered s t mb 0 0 0xFFFFFFFF (head ++ toLe 10 a.parent.toNat ++ toLe 8 a.gmId.toNat ++ toLe 4 a.gmQuality.toNat ++
        [a.prio1, a.prio2] ++ toLe 2 a.steps.toNat ++ tail) ∧ Only [] [.mbx] s t) ∧
    ((s.dev.ptp s.dev.selected).master = none → ∃ t f, exec (.timeStatus mb) s = .next t ∧ f.length = 26 ∧
      Answered s t mb 0 0 0xFFFFFFFF (head ++ f ++ tail) ∧ Only [] [.mbx, .freeCtr] s t))

/-- 05 R125, R126: loop.tune and loop.read. A request that passes its checks waits in the tuning shadow for a frame opening; a loop of
the wrong kind or state refuses a preset; a read answers descriptors and states as of the last close. -/
def Obligations.Tuning : Prop := ∀ (s : State) (mb : BitVec 3) (m : Mbx), Running s →
  (∀ p ve, s.dev.tuneVat m = .inr (.inl (p, ve)) →
    (Asked s mb 0x0301 (some 0) m →
      let w : Tune := { kind := .write, mb := mb.toNat, vat := ve.vat, loops := tuneLoops m, fmask := BitVec.ofNat 32 (m.fld 4 4), img := parseDesc m.payload 40 }
      (∀ l ∈ tuneLoops m, tuneCode p ve (w.descs s.dev.descsAhead) (tuneLoops m) l = 0) →
      ∃ t, exec (.loopTuneWrite mb) s = .next t ∧ UnderWay s t mb ∧
        t.dev.le = { s.dev.le with tune := s.dev.le.tune ++ [w] } ∧ Writes s.dev [.le, .mbx] s t) ∧
    (Asked s mb 0x0301 (some 1) m →
      let bad := (tuneLoops m).find? (fun l => !(s.dev.descsAhead.get (loopKey ve.vat l)).isCell ||
        ((s.dev.eng s.dev.active).loops.get (loopKey ve.vat l)).st == bit (m.fld 2 1) 0)
      (bad = none → ∃ t, exec (.loopTunePreset mb) s = .next t ∧ UnderWay s t mb ∧
        t.dev.le = { s.dev.le with tune := s.dev.le.tune ++ [{ kind := .preset, mb := mb.toNat, vat := ve.vat, loops := tuneLoops m, st := bit (m.fld 2 1) 0, val := BitVec.ofNat 40 (m.fld 40 5) }] } ∧
        Writes s.dev [.le, .mbx] s t) ∧
      (∀ l, bad = some l → ∃ t, exec (.loopTunePreset mb) s = .next t ∧ Answered s t mb 2 0x0C05 l [] ∧
        Only [] [.mbx] s t)) ∧
    (Asked s mb 0x0301 (some 2) m → ∃ t, exec (.loopTuneReseed mb) s = .next t ∧ UnderWay s t mb ∧
      t.dev.le = { s.dev.le with tune := s.dev.le.tune ++
        [{ kind := .reseed, mb := mb.toNat, vat := ve.vat, loops := tuneLoops m }] } ∧ Writes s.dev [.le, .mbx] s t)) ∧
  (Asked s mb 0x0302 none m → readBad m = none → s.dev.on F.GL_STAT_PLAN = true → s.dev.planVats.contains (m.fld 0 1) = true →
    ∃ t, exec (.loopRead mb) s = .next t ∧
      Answered s t mb 0 0 0xFFFFFFFF (toLe 8 s.dev.le.closedN ++ ((List.range (m.fld 4 2)).map (fun q => m.fld 2 2 + q)).flatMap
        (fun l => descBytes (s.dev.le.closedDescs.get (loopKey (m.fld 0 1) l)) ++
          stateBytes (s.dev.le.closed.get (loopKey (m.fld 0 1) l)))) ∧
      (m.fld 1 1 = 0 → t.dev.le = s.dev.le) ∧ Writes s.dev [.le, .mbx] s t)

/-- 11 R269, R281, R282: sys.hold, sys.info and fw.write. A HOLD reaches every vat of its mask at one EFF, a RELEASE withdraws its
reason; fw.write puts the image into the region not booted. The check of IDENT on sys.info's read is log 31's reading of 09 R234. -/
def Obligations.SystemCommands : Prop := ∀ (s : State) (mb : BitVec 3) (m : Mbx), Running s →
  (Asked s mb 0x0B01 none m → ∃ t, exec (.sysInfo mb) s = .next t ∧
    Answered s t mb 0 (if ((s.fresh.dev.nvCheck identSlot).nvWin identSlot).isNone then 0x1001 else 0) 0xFFFFFFFF
      (toLe 4 (s.dev.reg R.HIF_ID).toNat ++ toLe 4 (s.dev.reg R.HIF_FW_VER).toNat ++
        [BitVec.ofNat 8 (s.dev.rd F.HIF_ST_STAT_IMAGE)] ++ zeros 7 ++
        fit 48 ((((s.fresh.dev.nvCheck identSlot).nvWin identSlot).map (·.payload)).getD [])) ∧
    Only [16] [.mbx, .bm, .nv, .evq, .fc, .freeCtr] s t) ∧
  (Asked s mb 0x0B03 (some 0) m → ∃ t, exec (.sysHoldHold mb) s = .next t ∧
    (∀ v ∈ bitsOf 64 (m.fld 8 8), t.dev.held v = true ∧ bit (t.dev.vat v).holds.toNat 3 = true) ∧
    (∀ v, v < 64 → v ∉ bitsOf 64 (m.fld 8 8) → t.dev.held v = s.dev.held v ∧ t.dev.vat v = s.dev.vat v) ∧
    t.dev.rd glInh = t.dev.inhNow ∧ Answered s t mb 0 0 0xFFFFFFFF (toLe 8 (s.dev.holdEffOf (bitsOf 64 (m.fld 8 8)))) ∧
    Only [6, 11, 12, 13, 14, 21] [.gl, .cal, .de, .evq, .fc, .freeCtr, .trc, .vl, .mbx] s t) ∧
  (Asked s mb 0x0B03 (some 1) m → ∃ t, exec (.sysHoldRelease mb) s = .next t ∧
    (∀ v ∈ bitsOf 64 (m.fld 8 8), t.dev.vat v = { s.dev.vat v with holds := (s.dev.vat v).holds &&& 7 }) ∧
    (∀ v, v < 64 → v ∉ bitsOf 64 (m.fld 8 8) → t.dev.vat v = s.dev.vat v) ∧
    Answered s t mb 0 0 0xFFFFFFFF [] ∧ Writes s.dev [.vl, .mbx] s t) ∧
  (Asked s mb 0x0B02 none m →
    (0x200000 < m.fld 16 4 → ∃ t, exec (.fwWrite mb none) s = .next t ∧ Answered s t mb 6 0 16 [] ∧ Only [] [.mbx] s t) ∧
    (m.fld 16 4 ≤ 0x200000 →
      (∃ t, exec (.fwWrite mb none) s = .next t ∧ Answered s t mb 2 0x0C03 0xFFFFFFFF [] ∧
        t.dev.tx = [.hostRead (BitVec.ofNat 64 (m.fld 8 8)) (m.fld 16 4)] ∧ t.dev.nv.pages = s.dev.nv.pages ∧
        Only [] [.mbx, .nv] s t) ∧
      (∀ im : List Byte, ∃ t d, exec (.fwWrite mb (some im)) s = .next t ∧
        Answered s t mb 0 d 0xFFFFFFFF [if s.dev.on F.HIF_ST_STAT_IMAGE then 0 else 1] ∧
        (d = 0 ↔ t.dev.fwOk (!s.dev.on F.HIF_ST_STAT_IMAGE) = true) ∧ d ≤ 1 ∧ Only [16] [.mbx, .bm, .nv, .evq] s t)))
end

