-- ==== Sys2Proof/Laws/Table.lean ====
section
/-!
SUPPORT. The laws of the sparse tables and of the byte memory: a read after a write gives the value written, a write leaves
every other key alone, and every memory operation keeps the canonical form.
-/
namespace Sys2Proof

theorem Tbl.look_insert {α : Type} (t : Tbl α) (k j : Nat) (v : α) :
    (t.insert k v).look j = if k = j then some v else t.look j := by
  induction t with
  | nil => simp [Tbl.insert, Tbl.look]
  | cons e r ih =>
    obtain ⟨i, w⟩ := e
    simp only [Tbl.insert]
    split
    · by_cases h : k = j <;> simp [Tbl.look, h]
    · split
      · subst_vars; by_cases h : i = j <;> simp [Tbl.look, h]
      · by_cases h : i = j
        · have hk : k ≠ j := by omega
          simp [Tbl.look, h, hk]
        · simp [Tbl.look, h, ih]

theorem Tbl.look_erase {α : Type} (t : Tbl α) (k j : Nat) :
    (t.erase k).look j = if k = j then none else t.look j := by
  induction t with
  | nil => simp [Tbl.erase, Tbl.look]
  | cons e r ih =>
    obtain ⟨i, w⟩ := e
    simp only [Tbl.erase] at ih ⊢
    by_cases h : i = k
    · subst h; by_cases hj : i = j <;> simp_all [Tbl.look]
    · by_cases hj : i = j
      · subst hj; simp [h, Tbl.look, Ne.symm h]
      · simp [h, Tbl.look, hj, ih]

/-- A table reads v under k after v is stored there, and every other key as before. -/
theorem Tbl.look_put {α : Type} [DecidableEq α] (d : α) (t : Tbl α) (k j : Nat) (v : α) :
    ((t.put d k v).look j).getD d = if k = j then v else (t.look j).getD d := by
  unfold Tbl.put
  split
  · rw [look_erase]; split <;> simp_all
  · rw [look_insert]; split <;> simp_all

theorem Tbl.look_put_ne {α : Type} [DecidableEq α] (d : α) (t : Tbl α) {k j : Nat} (h : k ≠ j) (v : α) :
    (t.put d k v).look j = t.look j := by
  unfold Tbl.put; split
  · simp [look_erase, h]
  · simp [look_insert, h]

@[simp] theorem Tbl.get_set_self {α : Type} [Inhabited α] [DecidableEq α] (t : Tbl α) (k : Nat) (v : α) :
    (t.set k v).get k = v := by
  simp [Tbl.get, Tbl.set, Tbl.look_put]

theorem Tbl.get_set {α : Type} [Inhabited α] [DecidableEq α] (t : Tbl α) (k j : Nat) (v : α) :
    (t.set k v).get j = if k = j then v else t.get j := by
  simp [Tbl.get, Tbl.set, Tbl.look_put]

theorem Tbl.get_set_ne {α : Type} [Inhabited α] [DecidableEq α] (t : Tbl α) {k j : Nat} (h : k ≠ j) (v : α) :
    (t.set k v).get j = t.get j := by
  simp [Tbl.get_set, h]

@[simp] theorem Tbl.get_mod_self {α : Type} [Inhabited α] [DecidableEq α] (t : Tbl α) (k : Nat) (f : α → α) :
    (t.mod k f).get k = f (t.get k) := by
  simp [Tbl.mod]

theorem Tbl.get_mod_ne {α : Type} [Inhabited α] [DecidableEq α] (t : Tbl α) {k j : Nat} (h : k ≠ j) (f : α → α) :
    (t.mod k f).get j = t.get j := by
  simp [Tbl.mod, Tbl.get_set_ne _ h]

/-! ### The canonical form -/

theorem Tbl.wfFrom_mono {α : Type} [DecidableEq α] (d : Nat → α) (t : Tbl α) (a b : Nat) (h : a ≤ b)
    (hw : Tbl.wfFrom d b t = true) : Tbl.wfFrom d a t = true := by
  cases t with
  | nil => rfl
  | cons e r =>
    obtain ⟨k, v⟩ := e
    simp only [Tbl.wfFrom, Bool.and_eq_true, decide_eq_true_eq] at hw ⊢
    exact ⟨⟨by omega, hw.1.2⟩, hw.2⟩

theorem Tbl.wfFrom_filter {α : Type} [DecidableEq α] (d : Nat → α) (p : Nat × α → Bool) (t : Tbl α) (a : Nat)
    (hw : Tbl.wfFrom d a t = true) : Tbl.wfFrom d a (t.filter p) = true := by
  induction t generalizing a with
  | nil => rfl
  | cons e r ih =>
    obtain ⟨k, v⟩ := e
    simp only [Tbl.wfFrom, Bool.and_eq_true, decide_eq_true_eq] at hw
    simp only [List.filter_cons]
    split
    · simp only [Tbl.wfFrom, Bool.and_eq_true, decide_eq_true_eq]
      exact ⟨hw.1, ih _ hw.2⟩
    · exact Tbl.wfFrom_mono d _ _ _ (by omega) (ih _ hw.2)

theorem Tbl.wfFrom_insert {α : Type} [DecidableEq α] (d : Nat → α) (t : Tbl α) (a k : Nat) (v : α) (ha : a ≤ k)
    (hv : v ≠ d k) (hw : Tbl.wfFrom d a t = true) : Tbl.wfFrom d a (t.insert k v) = true := by
  induction t generalizing a with
  | nil => simp [Tbl.insert, Tbl.wfFrom, ha, hv]
  | cons e r ih =>
    obtain ⟨j, w⟩ := e
    simp only [Tbl.wfFrom, Bool.and_eq_true, decide_eq_true_eq] at hw
    simp only [Tbl.insert]
    split
    · simp only [Tbl.wfFrom, Bool.and_eq_true, decide_eq_true_eq]
      exact ⟨⟨ha, hv⟩, ⟨by omega, hw.1.2⟩, hw.2⟩
    · split
      · subst_vars
        simp only [Tbl.wfFrom, Bool.and_eq_true, decide_eq_true_eq]
        exact ⟨⟨ha, hv⟩, hw.2⟩
      · simp only [Tbl.wfFrom, Bool.and_eq_true, decide_eq_true_eq]
        exact ⟨hw.1, ih _ (by omega) hw.2⟩

theorem Tbl.wfFrom_put {α : Type} [DecidableEq α] (d : Nat → α) (t : Tbl α) (k : Nat) (v : α)
    (hw : Tbl.wfFrom d 0 t = true) : Tbl.wfFrom d 0 (t.put (d k) k v) = true := by
  unfold Tbl.put
  split
  · exact Tbl.wfFrom_filter d _ t 0 hw
  · exact Tbl.wfFrom_insert d t 0 k v (Nat.zero_le k) ‹_› hw

theorem Tbl.wf_set {α : Type} [Inhabited α] [DecidableEq α] (t : Tbl α) (k : Nat) (v : α) (hw : t.wf = true) :
    (t.set k v).wf = true := Tbl.wfFrom_put (fun _ => default) t k v hw

/-! ### The mailbox memory -/

theorem Memory.read_write (m : List Host.Cell) (a x : Nat) (b : Byte) :
    Memory.read (Memory.write m a b) x = if a = x then b else Memory.read m x := by
  simp [Memory.read, Memory.write, Tbl.look_put]

@[simp] theorem Memory.read_write_self (m : List Host.Cell) (a : Nat) (b : Byte) :
    Memory.read (Memory.write m a b) a = b := by simp [Memory.read_write]

theorem Memory.read_write_ne (m : List Host.Cell) {a x : Nat} (h : a ≠ x) (b : Byte) :
    Memory.read (Memory.write m a b) x = Memory.read m x := by simp [Memory.read_write, h]

/-- Bytes stored from a on read back inside the stored bytes, and every address outside reads as before. -/
theorem Memory.read_writeBytes (l : List Byte) (m : List Host.Cell) (a x : Nat) :
    Memory.read (Memory.writeBytes m a l) x =
      if a ≤ x ∧ x < a + l.length then l.getD (x - a) 0 else Memory.read m x := by
  induction l generalizing m a with
  | nil =>
    rw [if_neg (by simp only [List.length_nil]; omega)]
    rfl
  | cons b r ih =>
    simp only [Memory.writeBytes, ih, Memory.read_write, List.length_cons]
    by_cases h : a = x
    · rw [if_neg (by omega), if_pos h, if_pos (by omega), show x - a = 0 by omega]
      rfl
    · by_cases h2 : a + 1 ≤ x ∧ x < a + 1 + r.length
      · rw [if_pos h2, if_pos (by omega), show x - a = (x - (a + 1)) + 1 by omega]
        rfl
      · rw [if_neg h2, if_neg h, if_neg (by omega)]

theorem Memory.readBytes_length (m : List Host.Cell) (a n : Nat) : (Memory.readBytes m a n).length = n := by
  induction n generalizing a with
  | zero => rfl
  | succ n ih => simp [Memory.readBytes, ih]

theorem Memory.wf_write (m : List Host.Cell) (a : Nat) (b : Byte) (h : Memory.wf m = true) :
    Memory.wf (Memory.write m a b) = true := Tbl.wfFrom_put (fun _ => (0 : Byte)) m a b h

theorem Memory.wf_writeBytes (l : List Byte) (m : List Host.Cell) (a : Nat) (h : Memory.wf m = true) :
    Memory.wf (Memory.writeBytes m a l) = true := by
  induction l generalizing m a with
  | nil => exact h
  | cons b r ih => exact ih _ _ (Memory.wf_write m a b h)

theorem Memory.wf_clear (m : List Host.Cell) (a n : Nat) (h : Memory.wf m = true) :
    Memory.wf (Memory.clear m a n) = true := Tbl.wfFrom_filter _ _ m 0 h

theorem Memory.wf_nil : Memory.wf [] = true := rfl

theorem Memory.read_clear (m : List Host.Cell) (a n x : Nat) :
    Memory.read (Memory.clear m a n) x = if a ≤ x ∧ x < a + n then 0 else Memory.read m x := by
  induction m with
  | nil => simp [Memory.clear, Memory.read, Tbl.look]
  | cons e r ih =>
    obtain ⟨j, w⟩ := e
    simp only [Memory.clear, Memory.read, List.filter_cons] at ih ⊢
    by_cases hj : j = x
    · subst hj
      by_cases h : a ≤ j ∧ j < a + n
      · have h1 : ¬ j < a := by omega
        have h2 : ¬ a + n ≤ j := by omega
        simpa [h1, h2, h] using ih
      · have h3 : (decide (j < a) || decide (a + n ≤ j)) = true := by simp; omega
        simp [h3, Tbl.look, h]
    · split
      · simpa [Tbl.look, hj] using ih
      · simpa [Tbl.look, hj] using ih

end Sys2Proof
end

