-- ==== Sys2Proof/Laws/Reg.lean ====
section
/-!
SUPPORT. The laws of registers and fields: what a write of a register or of one field leaves to be read there and elsewhere,
and what the shared operations that go through them (counters, event bits, 64-bit registers) read afterwards.
-/
namespace Sys2Proof.Machine

/-- The field lies within its 32-bit register. -/
def Fld.fits (f : Fld) : Bool := decide (f.lo + f.w ≤ 32)

/-- The two fields share no bit. -/
def Fld.apart (f g : Fld) : Bool :=
  decide (f.reg ≠ g.reg) || decide (f.lo + f.w ≤ g.lo) || decide (g.lo + g.w ≤ f.lo)

theorem Dev.reg_setReg (s : Dev) (k j : Nat) (v : Word) : (s.setReg k v).reg j = if k = j then v else s.reg j := by
  unfold Dev.setReg Dev.reg
  by_cases h : k = j
  · subst h; simp [Tbl.look_put]
  · simp [Tbl.look_put_ne _ _ h, h]

@[simp] theorem Dev.reg_setReg_self (s : Dev) (k : Nat) (v : Word) : (s.setReg k v).reg k = v := by
  simp [Dev.reg_setReg]

theorem Dev.reg_setReg_ne (s : Dev) {k j : Nat} (h : k ≠ j) (v : Word) : (s.setReg k v).reg j = s.reg j := by
  simp [Dev.reg_setReg, h]

theorem Dev.rd_setReg_ne (s : Dev) {k : Nat} {g : Fld} (h : k ≠ g.reg) (v : Word) : (s.setReg k v).rd g = s.rd g := by
  simp [Dev.rd, Dev.reg_setReg, h]

/-! ### Fields -/

/-- A word is its part below the field, the field and the part above. -/
theorem field_split (old lo w : Nat) :
    old = old % 2 ^ lo + old / 2 ^ lo % 2 ^ w * 2 ^ lo + old / 2 ^ (lo + w) * 2 ^ (lo + w) := by
  have h1 := Nat.div_add_mod old (2 ^ lo)
  have h2 := Nat.div_add_mod (old / 2 ^ lo) (2 ^ w)
  rw [Nat.div_div_eq_div_mul, ← Nat.pow_add] at h2
  rw [Nat.pow_add, ← Nat.mul_assoc]
  conv_lhs => rw [← h1, ← h2]
  rw [← Nat.pow_add]
  ring

theorem setField_eq (old lo w v : Nat) :
    setField old lo w v = old % 2 ^ lo + v % 2 ^ w * 2 ^ lo + old / 2 ^ (lo + w) * 2 ^ (lo + w) := by
  have h := field_split old lo w
  unfold setField
  omega

theorem digits_lt (a b A B : Nat) (ha : a < A) (hb : b < B) : a + b * A < B * A := by
  have h := Nat.mul_le_mul_right A (Nat.succ_le_of_lt hb)
  rw [Nat.succ_mul] at h
  omega

theorem setField_lt (old lo w v : Nat) (h : lo + w ≤ 32) (ho : old < 2 ^ 32) : setField old lo w v < 2 ^ 32 := by
  rw [setField_eq]
  have hv : v % 2 ^ w < 2 ^ w := Nat.mod_lt _ (by positivity)
  have hl : old % 2 ^ lo < 2 ^ lo := Nat.mod_lt _ (by positivity)
  have e : (2 : Nat) ^ 32 = 2 ^ (32 - (lo + w)) * 2 ^ (lo + w) := by rw [← Nat.pow_add]; congr 1; omega
  have hq : old / 2 ^ (lo + w) < 2 ^ (32 - (lo + w)) := by
    rw [Nat.div_lt_iff_lt_mul (by positivity), ← e]; exact ho
  have e2 : (2 : Nat) ^ (lo + w) = 2 ^ w * 2 ^ lo := by rw [← Nat.pow_add]; congr 1; omega
  have h1 : old % 2 ^ lo + v % 2 ^ w * 2 ^ lo < 2 ^ (lo + w) := by
    rw [e2]; exact digits_lt _ _ _ _ hl hv
  rw [e]; exact digits_lt _ _ _ _ h1 hq

/-- Reading any field g of the word in which f was replaced. -/
theorem setField_get_self (old lo w v : Nat) : setField old lo w v / 2 ^ lo % 2 ^ w = v % 2 ^ w := by
  rw [setField_eq]
  have hl : old % 2 ^ lo < 2 ^ lo := Nat.mod_lt _ (by positivity)
  have e : old % 2 ^ lo + v % 2 ^ w * 2 ^ lo + old / 2 ^ (lo + w) * 2 ^ (lo + w) =
      old % 2 ^ lo + (v % 2 ^ w + old / 2 ^ (lo + w) * 2 ^ w) * 2 ^ lo := by rw [Nat.pow_add]; ring
  rw [e, Nat.add_mul_div_right _ _ (by positivity), Nat.div_eq_of_lt hl, Nat.zero_add, Nat.add_mul_mod_self_right,
    Nat.mod_mod]

theorem setField_get_below (old lo w v lo' w' : Nat) (h : lo' + w' ≤ lo) :
    setField old lo w v / 2 ^ lo' % 2 ^ w' = old / 2 ^ lo' % 2 ^ w' := by
  rw [setField_eq]
  obtain ⟨d, rfl⟩ := Nat.exists_eq_add_of_le h
  have e : old % 2 ^ (lo' + w' + d) + v % 2 ^ w * 2 ^ (lo' + w' + d) +
        old / 2 ^ (lo' + w' + d + w) * 2 ^ (lo' + w' + d + w) =
      old % 2 ^ (lo' + w' + d) + (v % 2 ^ w * 2 ^ d + old / 2 ^ (lo' + w' + d + w) * 2 ^ (d + w)) * 2 ^ (lo' + w') := by
    simp only [Nat.pow_add]; ring
  have key : ∀ x, x / 2 ^ lo' % 2 ^ w' = x % 2 ^ (lo' + w') / 2 ^ lo' := by
    intro x; rw [Nat.pow_add, Nat.mod_mul_right_div_self]
  rw [key, key, e, Nat.add_mul_mod_self_right, Nat.mod_mod_of_dvd _ (Nat.pow_dvd_pow 2 (by omega))]

theorem setField_get_above (old lo w v lo' w' : Nat) (h : lo + w ≤ lo') :
    setField old lo w v / 2 ^ lo' % 2 ^ w' = old / 2 ^ lo' % 2 ^ w' := by
  rw [setField_eq]
  obtain ⟨d, rfl⟩ := Nat.exists_eq_add_of_le h
  have hv : v % 2 ^ w < 2 ^ w := Nat.mod_lt _ (by positivity)
  have hl : old % 2 ^ lo < 2 ^ lo := Nat.mod_lt _ (by positivity)
  have hs : old % 2 ^ lo + v % 2 ^ w * 2 ^ lo < 2 ^ (lo + w) := by
    have e2 : (2 : Nat) ^ (lo + w) = 2 ^ w * 2 ^ lo := by rw [← Nat.pow_add]; congr 1; omega
    rw [e2]; exact digits_lt _ _ _ _ hl hv
  have q : ∀ x, x / 2 ^ (lo + w + d) = x / 2 ^ (lo + w) / 2 ^ d := by
    intro x; rw [Nat.div_div_eq_div_mul, ← Nat.pow_add]
  rw [q, q, Nat.add_mul_div_right _ _ (by positivity), Nat.div_eq_of_lt hs, Nat.zero_add]

theorem Dev.reg_wr (s : Dev) (f : Fld) (v j : Nat) :
    (s.wr f v).reg j = if f.reg = j then BitVec.ofNat 32 (setField (s.reg f.reg).toNat f.lo f.w v) else s.reg j := by
  simp [Dev.wr, Dev.reg_setReg]

theorem Dev.reg_wr_ne (s : Dev) {f : Fld} {j : Nat} (h : f.reg ≠ j) (v : Nat) : (s.wr f v).reg j = s.reg j := by
  simp [Dev.reg_wr, h]

theorem Dev.toNat_reg_wr (s : Dev) (f : Fld) (v : Nat) (h : f.fits = true) :
    ((s.wr f v).reg f.reg).toNat = setField (s.reg f.reg).toNat f.lo f.w v := by
  simp only [Fld.fits, decide_eq_true_eq] at h
  rw [Dev.reg_wr, if_pos rfl, BitVec.toNat_ofNat, Nat.mod_eq_of_lt (setField_lt _ _ _ v h (s.reg f.reg).isLt)]

/-- A field reads what was written into it, cut to its width. -/
theorem Dev.rd_wr_self (s : Dev) (f : Fld) (v : Nat) (h : f.fits = true) : (s.wr f v).rd f = v % 2 ^ f.w := by
  rw [Dev.rd, Dev.toNat_reg_wr s f v h, setField_get_self]

/-- A write of one field leaves every field that shares no bit with it. -/
theorem Dev.rd_wr_apart (s : Dev) (f g : Fld) (v : Nat) (h : f.fits = true) (ha : f.apart g = true) :
    (s.wr f v).rd g = s.rd g := by
  by_cases e : f.reg = g.reg
  · simp only [Fld.apart, e, ne_eq, not_true_eq_false, decide_false, Bool.false_or, Bool.or_eq_true,
      decide_eq_true_eq] at ha
    unfold Dev.rd
    rw [← e, Dev.toNat_reg_wr s f v h]
    rcases ha with ha | ha
    · exact setField_get_above _ _ _ _ _ _ ha
    · exact setField_get_below _ _ _ _ _ _ ha
  · simp [Dev.rd, Dev.reg_wr_ne s e]

theorem Dev.rd_lt (s : Dev) (f : Fld) : s.rd f < 2 ^ f.w := Nat.mod_lt _ (by positivity)

@[simp] theorem Dev.on_wrB_self (s : Dev) (f : Fld) (b : Bool) (h : f.fits = true) (hw : f.w = 1) :
    (s.wrB f b).on f = b := by
  cases b <;> simp [Dev.on, Dev.wrB, Dev.rd_wr_self _ _ _ h, hw]

theorem Dev.rd_wrB_apart (s : Dev) (f g : Fld) (b : Bool) (h : f.fits = true) (ha : f.apart g = true) :
    (s.wrB f b).rd g = s.rd g := Dev.rd_wr_apart s f g _ h ha

theorem Dev.on_wr_apart (s : Dev) (f g : Fld) (v : Nat) (h : f.fits = true) (ha : f.apart g = true) :
    (s.wr f v).on g = s.on g := by simp [Dev.on, Dev.rd_wr_apart s f g v h ha]

theorem Dev.reg_wrB_ne (s : Dev) {f : Fld} {j : Nat} (h : f.reg ≠ j) (b : Bool) : (s.wrB f b).reg j = s.reg j :=
  Dev.reg_wr_ne s h _

theorem Dev.reg_count_ne (s : Dev) {f : Fld} {j : Nat} (h : f.reg ≠ j) (n : Nat) : (s.count f n).reg j = s.reg j :=
  Dev.reg_wr_ne s h _

/-- A fixed counter adds and holds at 2^32 - 1 (R344). -/
theorem Dev.rd_count_self (s : Dev) (f : Fld) (n : Nat) (h : f.fits = true) (hw : f.w = 32) :
    (s.count f n).rd f = min (s.rd f + n) (2 ^ 32 - 1) := by
  have : min (s.rd f + n) 4294967295 < 4294967296 := by omega
  simp [Dev.count, Dev.rd_wr_self _ _ _ h, hw, satAdd, Nat.mod_eq_of_lt this]

theorem Dev.rd_count_apart (s : Dev) (f g : Fld) (n : Nat) (h : f.fits = true) (ha : f.apart g = true) :
    (s.count f n).rd g = s.rd g := Dev.rd_wr_apart s f g _ h ha

/-! ### 64-bit registers -/

theorem Dev.reg_wr2_ne (s : Dev) {lo j : Nat} (h : lo ≠ j) (h' : lo + 4 ≠ j) (v : Nat) : (s.wr2 lo v).reg j = s.reg j := by
  simp [Dev.wr2, Dev.reg_setReg, h, h']

theorem Dev.rd2_wr2_self (s : Dev) (lo v : Nat) : (s.wr2 lo v).rd2 lo = v % 2 ^ 64 := by
  have : lo + 4 ≠ lo := by omega
  simp only [Dev.rd2, Dev.wr2, Dev.reg_setReg, this, if_false, if_true, BitVec.toNat_ofNat]
  omega

theorem Dev.rd2_wr2_ne (s : Dev) {lo lo' : Nat} (h : lo ≠ lo') (h1 : lo + 4 ≠ lo') (h2 : lo ≠ lo' + 4) (v : Nat) :
    (s.wr2 lo v).rd2 lo' = s.rd2 lo' := by
  simp [Dev.rd2, Dev.wr2, Dev.reg_setReg, h, h1, h2]

/-! ### Event bits -/

/-- After an event its bit is set (R307). -/
theorem Dev.on_event_self (s : Dev) (f : Fld) (h : f.fits = true) (hw : f.w = 1) : (s.event f).on f = true := by
  unfold Dev.event
  split
  · assumption
  · split <;> simp [Dev.on, Dev.rd, Dev.emit, Dev.reg] <;>
      simpa [Dev.on, Dev.rd, Dev.reg, hw] using congrArg (· == 1) (Dev.rd_wr_self s f 1 h)

/-- An event touches its own register only. -/
theorem Dev.reg_event_ne (s : Dev) {f : Fld} {j : Nat} (h : f.reg ≠ j) : (s.event f).reg j = s.reg j := by
  unfold Dev.event
  split
  · rfl
  · split <;> exact Dev.reg_wr_ne s h 1

theorem Dev.rd_event_apart (s : Dev) (f g : Fld) (h : f.fits = true) (ha : f.apart g = true) :
    (s.event f).rd g = s.rd g := by
  unfold Dev.event
  split
  · rfl
  · split <;> exact Dev.rd_wr_apart s f g 1 h ha

theorem setField_same (old lo w : Nat) : setField old lo w (old / 2 ^ lo % 2 ^ w) = old := by
  have h := field_split old lo w
  rw [setField_eq, Nat.mod_mod]
  exact h.symm

/-- Writing into a field what it reads changes no register. -/
theorem Dev.reg_wr_same (s : Dev) (f : Fld) (j : Nat) : (s.wr f (s.rd f)).reg j = s.reg j := by
  rw [Dev.reg_wr]
  split
  · subst j
    rw [Dev.rd, setField_same]
    simp
  · rfl

/-- Whether its bit was set or not, an event leaves the registers that setting the bit leaves. -/
theorem Dev.reg_event (s : Dev) (f : Fld) (j : Nat) : (s.event f).reg j = (s.wr f 1).reg j := by
  unfold Dev.event
  split
  · rename_i h
    have h' : s.rd f = 1 := by simpa [Dev.on] using h
    rw [← h', Dev.reg_wr_same]
  · split <;> rfl

end Sys2Proof.Machine
end

