-- ==== Sys2Proof/Laws/State.lean ====
section
/-!
SUPPORT. What every update of the shared operations leaves of the block's fields, one lemma per field and update, so that
no proof unfolds a record update; then what they leave of the registers; then the laws of the loops over lists.
-/
namespace Sys2Proof.Machine

/-! ### setReg -/

@[simp] theorem Dev.setReg_hold (s : Dev) (k : Nat) (v : Word) : (s.setReg k v).hold = s.hold := rfl
@[simp] theorem Dev.setReg_tb (s : Dev) (k : Nat) (v : Word) : (s.setReg k v).tb = s.tb := rfl
@[simp] theorem Dev.setReg_vl (s : Dev) (k : Nat) (v : Word) : (s.setReg k v).vl = s.vl := rfl
@[simp] theorem Dev.setReg_le (s : Dev) (k : Nat) (v : Word) : (s.setReg k v).le = s.le := rfl
@[simp] theorem Dev.setReg_plan0 (s : Dev) (k : Nat) (v : Word) : (s.setReg k v).plan0 = s.plan0 := rfl
@[simp] theorem Dev.setReg_plan1 (s : Dev) (k : Nat) (v : Word) : (s.setReg k v).plan1 = s.plan1 := rfl
@[simp] theorem Dev.setReg_fs (s : Dev) (k : Nat) (v : Word) : (s.setReg k v).fs = s.fs := rfl
@[simp] theorem Dev.setReg_gl (s : Dev) (k : Nat) (v : Word) : (s.setReg k v).gl = s.gl := rfl
@[simp] theorem Dev.setReg_de (s : Dev) (k : Nat) (v : Word) : (s.setReg k v).de = s.de := rfl
@[simp] theorem Dev.setReg_cal (s : Dev) (k : Nat) (v : Word) : (s.setReg k v).cal = s.cal := rfl
@[simp] theorem Dev.setReg_nv (s : Dev) (k : Nat) (v : Word) : (s.setReg k v).nv = s.nv := rfl
@[simp] theorem Dev.setReg_tw (s : Dev) (k : Nat) (v : Word) : (s.setReg k v).tw = s.tw := rfl
@[simp] theorem Dev.setReg_mbx (s : Dev) (k : Nat) (v : Word) : (s.setReg k v).mbx = s.mbx := rfl
@[simp] theorem Dev.setReg_hif (s : Dev) (k : Nat) (v : Word) : (s.setReg k v).hif = s.hif := rfl
@[simp] theorem Dev.setReg_evq (s : Dev) (k : Nat) (v : Word) : (s.setReg k v).evq = s.evq := rfl
@[simp] theorem Dev.setReg_trc (s : Dev) (k : Nat) (v : Word) : (s.setReg k v).trc = s.trc := rfl
@[simp] theorem Dev.setReg_st (s : Dev) (k : Nat) (v : Word) : (s.setReg k v).st = s.st := rfl
@[simp] theorem Dev.setReg_bm (s : Dev) (k : Nat) (v : Word) : (s.setReg k v).bm = s.bm := rfl
@[simp] theorem Dev.setReg_fc (s : Dev) (k : Nat) (v : Word) : (s.setReg k v).fc = s.fc := rfl
@[simp] theorem Dev.setReg_pm (s : Dev) (k : Nat) (v : Word) : (s.setReg k v).pm = s.pm := rfl
@[simp] theorem Dev.setReg_th (s : Dev) (k : Nat) (v : Word) : (s.setReg k v).th = s.th := rfl
@[simp] theorem Dev.setReg_pc (s : Dev) (k : Nat) (v : Word) : (s.setReg k v).pc = s.pc := rfl
@[simp] theorem Dev.setReg_pins (s : Dev) (k : Nat) (v : Word) : (s.setReg k v).pins = s.pins := rfl
@[simp] theorem Dev.setReg_freeCtr (s : Dev) (k : Nat) (v : Word) : (s.setReg k v).freeCtr = s.freeCtr := rfl
@[simp] theorem Dev.setReg_tx (s : Dev) (k : Nat) (v : Word) : (s.setReg k v).tx = s.tx := rfl

/-! ### wr -/

@[simp] theorem Dev.wr_hold (s : Dev) (f : Fld) (v : Nat) : (s.wr f v).hold = s.hold := rfl
@[simp] theorem Dev.wr_tb (s : Dev) (f : Fld) (v : Nat) : (s.wr f v).tb = s.tb := rfl
@[simp] theorem Dev.wr_vl (s : Dev) (f : Fld) (v : Nat) : (s.wr f v).vl = s.vl := rfl
@[simp] theorem Dev.wr_le (s : Dev) (f : Fld) (v : Nat) : (s.wr f v).le = s.le := rfl
@[simp] theorem Dev.wr_plan0 (s : Dev) (f : Fld) (v : Nat) : (s.wr f v).plan0 = s.plan0 := rfl
@[simp] theorem Dev.wr_plan1 (s : Dev) (f : Fld) (v : Nat) : (s.wr f v).plan1 = s.plan1 := rfl
@[simp] theorem Dev.wr_fs (s : Dev) (f : Fld) (v : Nat) : (s.wr f v).fs = s.fs := rfl
@[simp] theorem Dev.wr_gl (s : Dev) (f : Fld) (v : Nat) : (s.wr f v).gl = s.gl := rfl
@[simp] theorem Dev.wr_de (s : Dev) (f : Fld) (v : Nat) : (s.wr f v).de = s.de := rfl
@[simp] theorem Dev.wr_cal (s : Dev) (f : Fld) (v : Nat) : (s.wr f v).cal = s.cal := rfl
@[simp] theorem Dev.wr_nv (s : Dev) (f : Fld) (v : Nat) : (s.wr f v).nv = s.nv := rfl
@[simp] theorem Dev.wr_tw (s : Dev) (f : Fld) (v : Nat) : (s.wr f v).tw = s.tw := rfl
@[simp] theorem Dev.wr_mbx (s : Dev) (f : Fld) (v : Nat) : (s.wr f v).mbx = s.mbx := rfl
@[simp] theorem Dev.wr_hif (s : Dev) (f : Fld) (v : Nat) : (s.wr f v).hif = s.hif := rfl
@[simp] theorem Dev.wr_evq (s : Dev) (f : Fld) (v : Nat) : (s.wr f v).evq = s.evq := rfl
@[simp] theorem Dev.wr_trc (s : Dev) (f : Fld) (v : Nat) : (s.wr f v).trc = s.trc := rfl
@[simp] theorem Dev.wr_st (s : Dev) (f : Fld) (v : Nat) : (s.wr f v).st = s.st := rfl
@[simp] theorem Dev.wr_bm (s : Dev) (f : Fld) (v : Nat) : (s.wr f v).bm = s.bm := rfl
@[simp] theorem Dev.wr_fc (s : Dev) (f : Fld) (v : Nat) : (s.wr f v).fc = s.fc := rfl
@[simp] theorem Dev.wr_pm (s : Dev) (f : Fld) (v : Nat) : (s.wr f v).pm = s.pm := rfl
@[simp] theorem Dev.wr_th (s : Dev) (f : Fld) (v : Nat) : (s.wr f v).th = s.th := rfl
@[simp] theorem Dev.wr_pc (s : Dev) (f : Fld) (v : Nat) : (s.wr f v).pc = s.pc := rfl
@[simp] theorem Dev.wr_pins (s : Dev) (f : Fld) (v : Nat) : (s.wr f v).pins = s.pins := rfl
@[simp] theorem Dev.wr_freeCtr (s : Dev) (f : Fld) (v : Nat) : (s.wr f v).freeCtr = s.freeCtr := rfl
@[simp] theorem Dev.wr_tx (s : Dev) (f : Fld) (v : Nat) : (s.wr f v).tx = s.tx := rfl

/-! ### wrB -/

@[simp] theorem Dev.wrB_hold (s : Dev) (f : Fld) (b : Bool) : (s.wrB f b).hold = s.hold := rfl
@[simp] theorem Dev.wrB_tb (s : Dev) (f : Fld) (b : Bool) : (s.wrB f b).tb = s.tb := rfl
@[simp] theorem Dev.wrB_vl (s : Dev) (f : Fld) (b : Bool) : (s.wrB f b).vl = s.vl := rfl
@[simp] theorem Dev.wrB_le (s : Dev) (f : Fld) (b : Bool) : (s.wrB f b).le = s.le := rfl
@[simp] theorem Dev.wrB_plan0 (s : Dev) (f : Fld) (b : Bool) : (s.wrB f b).plan0 = s.plan0 := rfl
@[simp] theorem Dev.wrB_plan1 (s : Dev) (f : Fld) (b : Bool) : (s.wrB f b).plan1 = s.plan1 := rfl
@[simp] theorem Dev.wrB_fs (s : Dev) (f : Fld) (b : Bool) : (s.wrB f b).fs = s.fs := rfl
@[simp] theorem Dev.wrB_gl (s : Dev) (f : Fld) (b : Bool) : (s.wrB f b).gl = s.gl := rfl
@[simp] theorem Dev.wrB_de (s : Dev) (f : Fld) (b : Bool) : (s.wrB f b).de = s.de := rfl
@[simp] theorem Dev.wrB_cal (s : Dev) (f : Fld) (b : Bool) : (s.wrB f b).cal = s.cal := rfl
@[simp] theorem Dev.wrB_nv (s : Dev) (f : Fld) (b : Bool) : (s.wrB f b).nv = s.nv := rfl
@[simp] theorem Dev.wrB_tw (s : Dev) (f : Fld) (b : Bool) : (s.wrB f b).tw = s.tw := rfl
@[simp] theorem Dev.wrB_mbx (s : Dev) (f : Fld) (b : Bool) : (s.wrB f b).mbx = s.mbx := rfl
@[simp] theorem Dev.wrB_hif (s : Dev) (f : Fld) (b : Bool) : (s.wrB f b).hif = s.hif := rfl
@[simp] theorem Dev.wrB_evq (s : Dev) (f : Fld) (b : Bool) : (s.wrB f b).evq = s.evq := rfl
@[simp] theorem Dev.wrB_trc (s : Dev) (f : Fld) (b : Bool) : (s.wrB f b).trc = s.trc := rfl
@[simp] theorem Dev.wrB_st (s : Dev) (f : Fld) (b : Bool) : (s.wrB f b).st = s.st := rfl
@[simp] theorem Dev.wrB_bm (s : Dev) (f : Fld) (b : Bool) : (s.wrB f b).bm = s.bm := rfl
@[simp] theorem Dev.wrB_fc (s : Dev) (f : Fld) (b : Bool) : (s.wrB f b).fc = s.fc := rfl
@[simp] theorem Dev.wrB_pm (s : Dev) (f : Fld) (b : Bool) : (s.wrB f b).pm = s.pm := rfl
@[simp] theorem Dev.wrB_th (s : Dev) (f : Fld) (b : Bool) : (s.wrB f b).th = s.th := rfl
@[simp] theorem Dev.wrB_pc (s : Dev) (f : Fld) (b : Bool) : (s.wrB f b).pc = s.pc := rfl
@[simp] theorem Dev.wrB_pins (s : Dev) (f : Fld) (b : Bool) : (s.wrB f b).pins = s.pins := rfl
@[simp] theorem Dev.wrB_freeCtr (s : Dev) (f : Fld) (b : Bool) : (s.wrB f b).freeCtr = s.freeCtr := rfl
@[simp] theorem Dev.wrB_tx (s : Dev) (f : Fld) (b : Bool) : (s.wrB f b).tx = s.tx := rfl

/-! ### wr2 -/

@[simp] theorem Dev.wr2_hold (s : Dev) (k v : Nat) : (s.wr2 k v).hold = s.hold := rfl
@[simp] theorem Dev.wr2_tb (s : Dev) (k v : Nat) : (s.wr2 k v).tb = s.tb := rfl
@[simp] theorem Dev.wr2_vl (s : Dev) (k v : Nat) : (s.wr2 k v).vl = s.vl := rfl
@[simp] theorem Dev.wr2_le (s : Dev) (k v : Nat) : (s.wr2 k v).le = s.le := rfl
@[simp] theorem Dev.wr2_plan0 (s : Dev) (k v : Nat) : (s.wr2 k v).plan0 = s.plan0 := rfl
@[simp] theorem Dev.wr2_plan1 (s : Dev) (k v : Nat) : (s.wr2 k v).plan1 = s.plan1 := rfl
@[simp] theorem Dev.wr2_fs (s : Dev) (k v : Nat) : (s.wr2 k v).fs = s.fs := rfl
@[simp] theorem Dev.wr2_gl (s : Dev) (k v : Nat) : (s.wr2 k v).gl = s.gl := rfl
@[simp] theorem Dev.wr2_de (s : Dev) (k v : Nat) : (s.wr2 k v).de = s.de := rfl
@[simp] theorem Dev.wr2_cal (s : Dev) (k v : Nat) : (s.wr2 k v).cal = s.cal := rfl
@[simp] theorem Dev.wr2_nv (s : Dev) (k v : Nat) : (s.wr2 k v).nv = s.nv := rfl
@[simp] theorem Dev.wr2_tw (s : Dev) (k v : Nat) : (s.wr2 k v).tw = s.tw := rfl
@[simp] theorem Dev.wr2_mbx (s : Dev) (k v : Nat) : (s.wr2 k v).mbx = s.mbx := rfl
@[simp] theorem Dev.wr2_hif (s : Dev) (k v : Nat) : (s.wr2 k v).hif = s.hif := rfl
@[simp] theorem Dev.wr2_evq (s : Dev) (k v : Nat) : (s.wr2 k v).evq = s.evq := rfl
@[simp] theorem Dev.wr2_trc (s : Dev) (k v : Nat) : (s.wr2 k v).trc = s.trc := rfl
@[simp] theorem Dev.wr2_st (s : Dev) (k v : Nat) : (s.wr2 k v).st = s.st := rfl
@[simp] theorem Dev.wr2_bm (s : Dev) (k v : Nat) : (s.wr2 k v).bm = s.bm := rfl
@[simp] theorem Dev.wr2_fc (s : Dev) (k v : Nat) : (s.wr2 k v).fc = s.fc := rfl
@[simp] theorem Dev.wr2_pm (s : Dev) (k v : Nat) : (s.wr2 k v).pm = s.pm := rfl
@[simp] theorem Dev.wr2_th (s : Dev) (k v : Nat) : (s.wr2 k v).th = s.th := rfl
@[simp] theorem Dev.wr2_pc (s : Dev) (k v : Nat) : (s.wr2 k v).pc = s.pc := rfl
@[simp] theorem Dev.wr2_pins (s : Dev) (k v : Nat) : (s.wr2 k v).pins = s.pins := rfl
@[simp] theorem Dev.wr2_freeCtr (s : Dev) (k v : Nat) : (s.wr2 k v).freeCtr = s.freeCtr := rfl
@[simp] theorem Dev.wr2_tx (s : Dev) (k v : Nat) : (s.wr2 k v).tx = s.tx := rfl

/-! ### count -/

@[simp] theorem Dev.count_hold (s : Dev) (f : Fld) (n : Nat) : (s.count f n).hold = s.hold := rfl
@[simp] theorem Dev.count_tb (s : Dev) (f : Fld) (n : Nat) : (s.count f n).tb = s.tb := rfl
@[simp] theorem Dev.count_vl (s : Dev) (f : Fld) (n : Nat) : (s.count f n).vl = s.vl := rfl
@[simp] theorem Dev.count_le (s : Dev) (f : Fld) (n : Nat) : (s.count f n).le = s.le := rfl
@[simp] theorem Dev.count_plan0 (s : Dev) (f : Fld) (n : Nat) : (s.count f n).plan0 = s.plan0 := rfl
@[simp] theorem Dev.count_plan1 (s : Dev) (f : Fld) (n : Nat) : (s.count f n).plan1 = s.plan1 := rfl
@[simp] theorem Dev.count_fs (s : Dev) (f : Fld) (n : Nat) : (s.count f n).fs = s.fs := rfl
@[simp] theorem Dev.count_gl (s : Dev) (f : Fld) (n : Nat) : (s.count f n).gl = s.gl := rfl
@[simp] theorem Dev.count_de (s : Dev) (f : Fld) (n : Nat) : (s.count f n).de = s.de := rfl
@[simp] theorem Dev.count_cal (s : Dev) (f : Fld) (n : Nat) : (s.count f n).cal = s.cal := rfl
@[simp] theorem Dev.count_nv (s : Dev) (f : Fld) (n : Nat) : (s.count f n).nv = s.nv := rfl
@[simp] theorem Dev.count_tw (s : Dev) (f : Fld) (n : Nat) : (s.count f n).tw = s.tw := rfl
@[simp] theorem Dev.count_mbx (s : Dev) (f : Fld) (n : Nat) : (s.count f n).mbx = s.mbx := rfl
@[simp] theorem Dev.count_hif (s : Dev) (f : Fld) (n : Nat) : (s.count f n).hif = s.hif := rfl
@[simp] theorem Dev.count_evq (s : Dev) (f : Fld) (n : Nat) : (s.count f n).evq = s.evq := rfl
@[simp] theorem Dev.count_trc (s : Dev) (f : Fld) (n : Nat) : (s.count f n).trc = s.trc := rfl
@[simp] theorem Dev.count_st (s : Dev) (f : Fld) (n : Nat) : (s.count f n).st = s.st := rfl
@[simp] theorem Dev.count_bm (s : Dev) (f : Fld) (n : Nat) : (s.count f n).bm = s.bm := rfl
@[simp] theorem Dev.count_fc (s : Dev) (f : Fld) (n : Nat) : (s.count f n).fc = s.fc := rfl
@[simp] theorem Dev.count_pm (s : Dev) (f : Fld) (n : Nat) : (s.count f n).pm = s.pm := rfl
@[simp] theorem Dev.count_th (s : Dev) (f : Fld) (n : Nat) : (s.count f n).th = s.th := rfl
@[simp] theorem Dev.count_pc (s : Dev) (f : Fld) (n : Nat) : (s.count f n).pc = s.pc := rfl
@[simp] theorem Dev.count_pins (s : Dev) (f : Fld) (n : Nat) : (s.count f n).pins = s.pins := rfl
@[simp] theorem Dev.count_freeCtr (s : Dev) (f : Fld) (n : Nat) : (s.count f n).freeCtr = s.freeCtr := rfl
@[simp] theorem Dev.count_tx (s : Dev) (f : Fld) (n : Nat) : (s.count f n).tx = s.tx := rfl

/-! ### add64 -/

@[simp] theorem Dev.add64_hold (s : Dev) (k n : Nat) : (s.add64 k n).hold = s.hold := rfl
@[simp] theorem Dev.add64_tb (s : Dev) (k n : Nat) : (s.add64 k n).tb = s.tb := rfl
@[simp] theorem Dev.add64_vl (s : Dev) (k n : Nat) : (s.add64 k n).vl = s.vl := rfl
@[simp] theorem Dev.add64_le (s : Dev) (k n : Nat) : (s.add64 k n).le = s.le := rfl
@[simp] theorem Dev.add64_plan0 (s : Dev) (k n : Nat) : (s.add64 k n).plan0 = s.plan0 := rfl
@[simp] theorem Dev.add64_plan1 (s : Dev) (k n : Nat) : (s.add64 k n).plan1 = s.plan1 := rfl
@[simp] theorem Dev.add64_fs (s : Dev) (k n : Nat) : (s.add64 k n).fs = s.fs := rfl
@[simp] theorem Dev.add64_gl (s : Dev) (k n : Nat) : (s.add64 k n).gl = s.gl := rfl
@[simp] theorem Dev.add64_de (s : Dev) (k n : Nat) : (s.add64 k n).de = s.de := rfl
@[simp] theorem Dev.add64_cal (s : Dev) (k n : Nat) : (s.add64 k n).cal = s.cal := rfl
@[simp] theorem Dev.add64_nv (s : Dev) (k n : Nat) : (s.add64 k n).nv = s.nv := rfl
@[simp] theorem Dev.add64_tw (s : Dev) (k n : Nat) : (s.add64 k n).tw = s.tw := rfl
@[simp] theorem Dev.add64_mbx (s : Dev) (k n : Nat) : (s.add64 k n).mbx = s.mbx := rfl
@[simp] theorem Dev.add64_hif (s : Dev) (k n : Nat) : (s.add64 k n).hif = s.hif := rfl
@[simp] theorem Dev.add64_evq (s : Dev) (k n : Nat) : (s.add64 k n).evq = s.evq := rfl
@[simp] theorem Dev.add64_trc (s : Dev) (k n : Nat) : (s.add64 k n).trc = s.trc := rfl
@[simp] theorem Dev.add64_st (s : Dev) (k n : Nat) : (s.add64 k n).st = s.st := rfl
@[simp] theorem Dev.add64_bm (s : Dev) (k n : Nat) : (s.add64 k n).bm = s.bm := rfl
@[simp] theorem Dev.add64_fc (s : Dev) (k n : Nat) : (s.add64 k n).fc = s.fc := rfl
@[simp] theorem Dev.add64_pm (s : Dev) (k n : Nat) : (s.add64 k n).pm = s.pm := rfl
@[simp] theorem Dev.add64_th (s : Dev) (k n : Nat) : (s.add64 k n).th = s.th := rfl
@[simp] theorem Dev.add64_pc (s : Dev) (k n : Nat) : (s.add64 k n).pc = s.pc := rfl
@[simp] theorem Dev.add64_pins (s : Dev) (k n : Nat) : (s.add64 k n).pins = s.pins := rfl
@[simp] theorem Dev.add64_freeCtr (s : Dev) (k n : Nat) : (s.add64 k n).freeCtr = s.freeCtr := rfl
@[simp] theorem Dev.add64_tx (s : Dev) (k n : Nat) : (s.add64 k n).tx = s.tx := rfl

/-! ### setHeld -/

@[simp] theorem Dev.setHeld_hold (s : Dev) (v : Nat) (b : Bool) : (s.setHeld v b).hold = s.hold := rfl
@[simp] theorem Dev.setHeld_tb (s : Dev) (v : Nat) (b : Bool) : (s.setHeld v b).tb = s.tb := rfl
@[simp] theorem Dev.setHeld_vl (s : Dev) (v : Nat) (b : Bool) : (s.setHeld v b).vl = s.vl := rfl
@[simp] theorem Dev.setHeld_le (s : Dev) (v : Nat) (b : Bool) : (s.setHeld v b).le = s.le := rfl
@[simp] theorem Dev.setHeld_plan0 (s : Dev) (v : Nat) (b : Bool) : (s.setHeld v b).plan0 = s.plan0 := rfl
@[simp] theorem Dev.setHeld_plan1 (s : Dev) (v : Nat) (b : Bool) : (s.setHeld v b).plan1 = s.plan1 := rfl
@[simp] theorem Dev.setHeld_fs (s : Dev) (v : Nat) (b : Bool) : (s.setHeld v b).fs = s.fs := rfl
@[simp] theorem Dev.setHeld_gl (s : Dev) (v : Nat) (b : Bool) : (s.setHeld v b).gl = s.gl := rfl
@[simp] theorem Dev.setHeld_de (s : Dev) (v : Nat) (b : Bool) : (s.setHeld v b).de = s.de := rfl
@[simp] theorem Dev.setHeld_cal (s : Dev) (v : Nat) (b : Bool) : (s.setHeld v b).cal = s.cal := rfl
@[simp] theorem Dev.setHeld_nv (s : Dev) (v : Nat) (b : Bool) : (s.setHeld v b).nv = s.nv := rfl
@[simp] theorem Dev.setHeld_tw (s : Dev) (v : Nat) (b : Bool) : (s.setHeld v b).tw = s.tw := rfl
@[simp] theorem Dev.setHeld_mbx (s : Dev) (v : Nat) (b : Bool) : (s.setHeld v b).mbx = s.mbx := rfl
@[simp] theorem Dev.setHeld_hif (s : Dev) (v : Nat) (b : Bool) : (s.setHeld v b).hif = s.hif := rfl
@[simp] theorem Dev.setHeld_evq (s : Dev) (v : Nat) (b : Bool) : (s.setHeld v b).evq = s.evq := rfl
@[simp] theorem Dev.setHeld_trc (s : Dev) (v : Nat) (b : Bool) : (s.setHeld v b).trc = s.trc := rfl
@[simp] theorem Dev.setHeld_st (s : Dev) (v : Nat) (b : Bool) : (s.setHeld v b).st = s.st := rfl
@[simp] theorem Dev.setHeld_bm (s : Dev) (v : Nat) (b : Bool) : (s.setHeld v b).bm = s.bm := rfl
@[simp] theorem Dev.setHeld_fc (s : Dev) (v : Nat) (b : Bool) : (s.setHeld v b).fc = s.fc := rfl
@[simp] theorem Dev.setHeld_pm (s : Dev) (v : Nat) (b : Bool) : (s.setHeld v b).pm = s.pm := rfl
@[simp] theorem Dev.setHeld_th (s : Dev) (v : Nat) (b : Bool) : (s.setHeld v b).th = s.th := rfl
@[simp] theorem Dev.setHeld_pc (s : Dev) (v : Nat) (b : Bool) : (s.setHeld v b).pc = s.pc := rfl
@[simp] theorem Dev.setHeld_pins (s : Dev) (v : Nat) (b : Bool) : (s.setHeld v b).pins = s.pins := rfl
@[simp] theorem Dev.setHeld_freeCtr (s : Dev) (v : Nat) (b : Bool) : (s.setHeld v b).freeCtr = s.freeCtr := rfl
@[simp] theorem Dev.setHeld_tx (s : Dev) (v : Nat) (b : Bool) : (s.setHeld v b).tx = s.tx := rfl

/-! ### setVatBit -/

@[simp] theorem Dev.setVatBit_hold (s : Dev) (k v : Nat) : (s.setVatBit k v).hold = s.hold := rfl
@[simp] theorem Dev.setVatBit_tb (s : Dev) (k v : Nat) : (s.setVatBit k v).tb = s.tb := rfl
@[simp] theorem Dev.setVatBit_vl (s : Dev) (k v : Nat) : (s.setVatBit k v).vl = s.vl := rfl
@[simp] theorem Dev.setVatBit_le (s : Dev) (k v : Nat) : (s.setVatBit k v).le = s.le := rfl
@[simp] theorem Dev.setVatBit_plan0 (s : Dev) (k v : Nat) : (s.setVatBit k v).plan0 = s.plan0 := rfl
@[simp] theorem Dev.setVatBit_plan1 (s : Dev) (k v : Nat) : (s.setVatBit k v).plan1 = s.plan1 := rfl
@[simp] theorem Dev.setVatBit_fs (s : Dev) (k v : Nat) : (s.setVatBit k v).fs = s.fs := rfl
@[simp] theorem Dev.setVatBit_gl (s : Dev) (k v : Nat) : (s.setVatBit k v).gl = s.gl := rfl
@[simp] theorem Dev.setVatBit_de (s : Dev) (k v : Nat) : (s.setVatBit k v).de = s.de := rfl
@[simp] theorem Dev.setVatBit_cal (s : Dev) (k v : Nat) : (s.setVatBit k v).cal = s.cal := rfl
@[simp] theorem Dev.setVatBit_nv (s : Dev) (k v : Nat) : (s.setVatBit k v).nv = s.nv := rfl
@[simp] theorem Dev.setVatBit_tw (s : Dev) (k v : Nat) : (s.setVatBit k v).tw = s.tw := rfl
@[simp] theorem Dev.setVatBit_mbx (s : Dev) (k v : Nat) : (s.setVatBit k v).mbx = s.mbx := rfl
@[simp] theorem Dev.setVatBit_hif (s : Dev) (k v : Nat) : (s.setVatBit k v).hif = s.hif := rfl
@[simp] theorem Dev.setVatBit_evq (s : Dev) (k v : Nat) : (s.setVatBit k v).evq = s.evq := rfl
@[simp] theorem Dev.setVatBit_trc (s : Dev) (k v : Nat) : (s.setVatBit k v).trc = s.trc := rfl
@[simp] theorem Dev.setVatBit_st (s : Dev) (k v : Nat) : (s.setVatBit k v).st = s.st := rfl
@[simp] theorem Dev.setVatBit_bm (s : Dev) (k v : Nat) : (s.setVatBit k v).bm = s.bm := rfl
@[simp] theorem Dev.setVatBit_fc (s : Dev) (k v : Nat) : (s.setVatBit k v).fc = s.fc := rfl
@[simp] theorem Dev.setVatBit_pm (s : Dev) (k v : Nat) : (s.setVatBit k v).pm = s.pm := rfl
@[simp] theorem Dev.setVatBit_th (s : Dev) (k v : Nat) : (s.setVatBit k v).th = s.th := rfl
@[simp] theorem Dev.setVatBit_pc (s : Dev) (k v : Nat) : (s.setVatBit k v).pc = s.pc := rfl
@[simp] theorem Dev.setVatBit_pins (s : Dev) (k v : Nat) : (s.setVatBit k v).pins = s.pins := rfl
@[simp] theorem Dev.setVatBit_freeCtr (s : Dev) (k v : Nat) : (s.setVatBit k v).freeCtr = s.freeCtr := rfl
@[simp] theorem Dev.setVatBit_tx (s : Dev) (k v : Nat) : (s.setVatBit k v).tx = s.tx := rfl

/-! ### send -/

@[simp] theorem Dev.send_regs (s : Dev) (m : Tx) : (s.send m).regs = s.regs := rfl
@[simp] theorem Dev.send_hold (s : Dev) (m : Tx) : (s.send m).hold = s.hold := rfl
@[simp] theorem Dev.send_tb (s : Dev) (m : Tx) : (s.send m).tb = s.tb := rfl
@[simp] theorem Dev.send_vl (s : Dev) (m : Tx) : (s.send m).vl = s.vl := rfl
@[simp] theorem Dev.send_le (s : Dev) (m : Tx) : (s.send m).le = s.le := rfl
@[simp] theorem Dev.send_plan0 (s : Dev) (m : Tx) : (s.send m).plan0 = s.plan0 := rfl
@[simp] theorem Dev.send_plan1 (s : Dev) (m : Tx) : (s.send m).plan1 = s.plan1 := rfl
@[simp] theorem Dev.send_fs (s : Dev) (m : Tx) : (s.send m).fs = s.fs := rfl
@[simp] theorem Dev.send_gl (s : Dev) (m : Tx) : (s.send m).gl = s.gl := rfl
@[simp] theorem Dev.send_de (s : Dev) (m : Tx) : (s.send m).de = s.de := rfl
@[simp] theorem Dev.send_cal (s : Dev) (m : Tx) : (s.send m).cal = s.cal := rfl
@[simp] theorem Dev.send_nv (s : Dev) (m : Tx) : (s.send m).nv = s.nv := rfl
@[simp] theorem Dev.send_tw (s : Dev) (m : Tx) : (s.send m).tw = s.tw := rfl
@[simp] theorem Dev.send_mbx (s : Dev) (m : Tx) : (s.send m).mbx = s.mbx := rfl
@[simp] theorem Dev.send_hif (s : Dev) (m : Tx) : (s.send m).hif = s.hif := rfl
@[simp] theorem Dev.send_evq (s : Dev) (m : Tx) : (s.send m).evq = s.evq := rfl
@[simp] theorem Dev.send_trc (s : Dev) (m : Tx) : (s.send m).trc = s.trc := rfl
@[simp] theorem Dev.send_st (s : Dev) (m : Tx) : (s.send m).st = s.st := rfl
@[simp] theorem Dev.send_bm (s : Dev) (m : Tx) : (s.send m).bm = s.bm := rfl
@[simp] theorem Dev.send_fc (s : Dev) (m : Tx) : (s.send m).fc = s.fc := rfl
@[simp] theorem Dev.send_pm (s : Dev) (m : Tx) : (s.send m).pm = s.pm := rfl
@[simp] theorem Dev.send_th (s : Dev) (m : Tx) : (s.send m).th = s.th := rfl
@[simp] theorem Dev.send_pc (s : Dev) (m : Tx) : (s.send m).pc = s.pc := rfl
@[simp] theorem Dev.send_pins (s : Dev) (m : Tx) : (s.send m).pins = s.pins := rfl
@[simp] theorem Dev.send_freeCtr (s : Dev) (m : Tx) : (s.send m).freeCtr = s.freeCtr := rfl
@[simp] theorem Dev.send_reg (s : Dev) (m : Tx) (j : Nat) : (s.send m).reg j = s.reg j := rfl
@[simp] theorem Dev.send_rd (s : Dev) (m : Tx) (g : Fld) : (s.send m).rd g = s.rd g := rfl
@[simp] theorem Dev.send_on (s : Dev) (m : Tx) (g : Fld) : (s.send m).on g = s.on g := rfl
@[simp] theorem Dev.send_rd2 (s : Dev) (m : Tx) (j : Nat) : (s.send m).rd2 j = s.rd2 j := rfl

/-! ### useFree -/

@[simp] theorem Dev.useFree_regs (s : Dev) : (s.useFree).regs = s.regs := rfl
@[simp] theorem Dev.useFree_hold (s : Dev) : (s.useFree).hold = s.hold := rfl
@[simp] theorem Dev.useFree_tb (s : Dev) : (s.useFree).tb = s.tb := rfl
@[simp] theorem Dev.useFree_vl (s : Dev) : (s.useFree).vl = s.vl := rfl
@[simp] theorem Dev.useFree_le (s : Dev) : (s.useFree).le = s.le := rfl
@[simp] theorem Dev.useFree_plan0 (s : Dev) : (s.useFree).plan0 = s.plan0 := rfl
@[simp] theorem Dev.useFree_plan1 (s : Dev) : (s.useFree).plan1 = s.plan1 := rfl
@[simp] theorem Dev.useFree_fs (s : Dev) : (s.useFree).fs = s.fs := rfl
@[simp] theorem Dev.useFree_gl (s : Dev) : (s.useFree).gl = s.gl := rfl
@[simp] theorem Dev.useFree_de (s : Dev) : (s.useFree).de = s.de := rfl
@[simp] theorem Dev.useFree_cal (s : Dev) : (s.useFree).cal = s.cal := rfl
@[simp] theorem Dev.useFree_nv (s : Dev) : (s.useFree).nv = s.nv := rfl
@[simp] theorem Dev.useFree_tw (s : Dev) : (s.useFree).tw = s.tw := rfl
@[simp] theorem Dev.useFree_mbx (s : Dev) : (s.useFree).mbx = s.mbx := rfl
@[simp] theorem Dev.useFree_hif (s : Dev) : (s.useFree).hif = s.hif := rfl
@[simp] theorem Dev.useFree_evq (s : Dev) : (s.useFree).evq = s.evq := rfl
@[simp] theorem Dev.useFree_trc (s : Dev) : (s.useFree).trc = s.trc := rfl
@[simp] theorem Dev.useFree_st (s : Dev) : (s.useFree).st = s.st := rfl
@[simp] theorem Dev.useFree_bm (s : Dev) : (s.useFree).bm = s.bm := rfl
@[simp] theorem Dev.useFree_fc (s : Dev) : (s.useFree).fc = s.fc := rfl
@[simp] theorem Dev.useFree_pm (s : Dev) : (s.useFree).pm = s.pm := rfl
@[simp] theorem Dev.useFree_th (s : Dev) : (s.useFree).th = s.th := rfl
@[simp] theorem Dev.useFree_pc (s : Dev) : (s.useFree).pc = s.pc := rfl
@[simp] theorem Dev.useFree_pins (s : Dev) : (s.useFree).pins = s.pins := rfl
@[simp] theorem Dev.useFree_tx (s : Dev) : (s.useFree).tx = s.tx := rfl
@[simp] theorem Dev.useFree_reg (s : Dev) (j : Nat) : (s.useFree).reg j = s.reg j := rfl
@[simp] theorem Dev.useFree_rd (s : Dev) (g : Fld) : (s.useFree).rd g = s.rd g := rfl
@[simp] theorem Dev.useFree_on (s : Dev) (g : Fld) : (s.useFree).on g = s.on g := rfl
@[simp] theorem Dev.useFree_rd2 (s : Dev) (j : Nat) : (s.useFree).rd2 j = s.rd2 j := rfl

/-! ### emit -/

@[simp] theorem Dev.emit_regs (s : Dev) (e : Ev) : (s.emit e).regs = s.regs := rfl
@[simp] theorem Dev.emit_hold (s : Dev) (e : Ev) : (s.emit e).hold = s.hold := rfl
@[simp] theorem Dev.emit_tb (s : Dev) (e : Ev) : (s.emit e).tb = s.tb := rfl
@[simp] theorem Dev.emit_vl (s : Dev) (e : Ev) : (s.emit e).vl = s.vl := rfl
@[simp] theorem Dev.emit_le (s : Dev) (e : Ev) : (s.emit e).le = s.le := rfl
@[simp] theorem Dev.emit_plan0 (s : Dev) (e : Ev) : (s.emit e).plan0 = s.plan0 := rfl
@[simp] theorem Dev.emit_plan1 (s : Dev) (e : Ev) : (s.emit e).plan1 = s.plan1 := rfl
@[simp] theorem Dev.emit_fs (s : Dev) (e : Ev) : (s.emit e).fs = s.fs := rfl
@[simp] theorem Dev.emit_gl (s : Dev) (e : Ev) : (s.emit e).gl = s.gl := rfl
@[simp] theorem Dev.emit_de (s : Dev) (e : Ev) : (s.emit e).de = s.de := rfl
@[simp] theorem Dev.emit_cal (s : Dev) (e : Ev) : (s.emit e).cal = s.cal := rfl
@[simp] theorem Dev.emit_nv (s : Dev) (e : Ev) : (s.emit e).nv = s.nv := rfl
@[simp] theorem Dev.emit_tw (s : Dev) (e : Ev) : (s.emit e).tw = s.tw := rfl
@[simp] theorem Dev.emit_mbx (s : Dev) (e : Ev) : (s.emit e).mbx = s.mbx := rfl
@[simp] theorem Dev.emit_hif (s : Dev) (e : Ev) : (s.emit e).hif = s.hif := rfl
@[simp] theorem Dev.emit_trc (s : Dev) (e : Ev) : (s.emit e).trc = s.trc := rfl
@[simp] theorem Dev.emit_st (s : Dev) (e : Ev) : (s.emit e).st = s.st := rfl
@[simp] theorem Dev.emit_bm (s : Dev) (e : Ev) : (s.emit e).bm = s.bm := rfl
@[simp] theorem Dev.emit_fc (s : Dev) (e : Ev) : (s.emit e).fc = s.fc := rfl
@[simp] theorem Dev.emit_pm (s : Dev) (e : Ev) : (s.emit e).pm = s.pm := rfl
@[simp] theorem Dev.emit_th (s : Dev) (e : Ev) : (s.emit e).th = s.th := rfl
@[simp] theorem Dev.emit_pc (s : Dev) (e : Ev) : (s.emit e).pc = s.pc := rfl
@[simp] theorem Dev.emit_pins (s : Dev) (e : Ev) : (s.emit e).pins = s.pins := rfl
@[simp] theorem Dev.emit_freeCtr (s : Dev) (e : Ev) : (s.emit e).freeCtr = s.freeCtr := rfl
@[simp] theorem Dev.emit_tx (s : Dev) (e : Ev) : (s.emit e).tx = s.tx := rfl
@[simp] theorem Dev.emit_reg (s : Dev) (e : Ev) (j : Nat) : (s.emit e).reg j = s.reg j := rfl
@[simp] theorem Dev.emit_rd (s : Dev) (e : Ev) (g : Fld) : (s.emit e).rd g = s.rd g := rfl
@[simp] theorem Dev.emit_on (s : Dev) (e : Ev) (g : Fld) : (s.emit e).on g = s.on g := rfl
@[simp] theorem Dev.emit_rd2 (s : Dev) (e : Ev) (j : Nat) : (s.emit e).rd2 j = s.rd2 j := rfl

/-! ### stewardMsg -/

@[simp] theorem Dev.stewardMsg_regs (s : Dev) (c : Nat) : (s.stewardMsg c).regs = s.regs := rfl
@[simp] theorem Dev.stewardMsg_hold (s : Dev) (c : Nat) : (s.stewardMsg c).hold = s.hold := rfl
@[simp] theorem Dev.stewardMsg_tb (s : Dev) (c : Nat) : (s.stewardMsg c).tb = s.tb := rfl
@[simp] theorem Dev.stewardMsg_vl (s : Dev) (c : Nat) : (s.stewardMsg c).vl = s.vl := rfl
@[simp] theorem Dev.stewardMsg_le (s : Dev) (c : Nat) : (s.stewardMsg c).le = s.le := rfl
@[simp] theorem Dev.stewardMsg_plan0 (s : Dev) (c : Nat) : (s.stewardMsg c).plan0 = s.plan0 := rfl
@[simp] theorem Dev.stewardMsg_plan1 (s : Dev) (c : Nat) : (s.stewardMsg c).plan1 = s.plan1 := rfl
@[simp] theorem Dev.stewardMsg_fs (s : Dev) (c : Nat) : (s.stewardMsg c).fs = s.fs := rfl
@[simp] theorem Dev.stewardMsg_gl (s : Dev) (c : Nat) : (s.stewardMsg c).gl = s.gl := rfl
@[simp] theorem Dev.stewardMsg_de (s : Dev) (c : Nat) : (s.stewardMsg c).de = s.de := rfl
@[simp] theorem Dev.stewardMsg_cal (s : Dev) (c : Nat) : (s.stewardMsg c).cal = s.cal := rfl
@[simp] theorem Dev.stewardMsg_nv (s : Dev) (c : Nat) : (s.stewardMsg c).nv = s.nv := rfl
@[simp] theorem Dev.stewardMsg_tw (s : Dev) (c : Nat) : (s.stewardMsg c).tw = s.tw := rfl
@[simp] theorem Dev.stewardMsg_mbx (s : Dev) (c : Nat) : (s.stewardMsg c).mbx = s.mbx := rfl
@[simp] theorem Dev.stewardMsg_hif (s : Dev) (c : Nat) : (s.stewardMsg c).hif = s.hif := rfl
@[simp] theorem Dev.stewardMsg_trc (s : Dev) (c : Nat) : (s.stewardMsg c).trc = s.trc := rfl
@[simp] theorem Dev.stewardMsg_st (s : Dev) (c : Nat) : (s.stewardMsg c).st = s.st := rfl
@[simp] theorem Dev.stewardMsg_bm (s : Dev) (c : Nat) : (s.stewardMsg c).bm = s.bm := rfl
@[simp] theorem Dev.stewardMsg_fc (s : Dev) (c : Nat) : (s.stewardMsg c).fc = s.fc := rfl
@[simp] theorem Dev.stewardMsg_pm (s : Dev) (c : Nat) : (s.stewardMsg c).pm = s.pm := rfl
@[simp] theorem Dev.stewardMsg_th (s : Dev) (c : Nat) : (s.stewardMsg c).th = s.th := rfl
@[simp] theorem Dev.stewardMsg_pc (s : Dev) (c : Nat) : (s.stewardMsg c).pc = s.pc := rfl
@[simp] theorem Dev.stewardMsg_pins (s : Dev) (c : Nat) : (s.stewardMsg c).pins = s.pins := rfl
@[simp] theorem Dev.stewardMsg_freeCtr (s : Dev) (c : Nat) : (s.stewardMsg c).freeCtr = s.freeCtr := rfl
@[simp] theorem Dev.stewardMsg_tx (s : Dev) (c : Nat) : (s.stewardMsg c).tx = s.tx := rfl
@[simp] theorem Dev.stewardMsg_reg (s : Dev) (c : Nat) (j : Nat) : (s.stewardMsg c).reg j = s.reg j := rfl
@[simp] theorem Dev.stewardMsg_rd (s : Dev) (c : Nat) (g : Fld) : (s.stewardMsg c).rd g = s.rd g := rfl
@[simp] theorem Dev.stewardMsg_on (s : Dev) (c : Nat) (g : Fld) : (s.stewardMsg c).on g = s.on g := rfl
@[simp] theorem Dev.stewardMsg_rd2 (s : Dev) (c : Nat) (j : Nat) : (s.stewardMsg c).rd2 j = s.rd2 j := rfl

/-! ### trace -/

@[simp] theorem Dev.trace_regs (s : Dev) (r : Trec) : (s.trace r).regs = s.regs := rfl
@[simp] theorem Dev.trace_hold (s : Dev) (r : Trec) : (s.trace r).hold = s.hold := rfl
@[simp] theorem Dev.trace_tb (s : Dev) (r : Trec) : (s.trace r).tb = s.tb := rfl
@[simp] theorem Dev.trace_vl (s : Dev) (r : Trec) : (s.trace r).vl = s.vl := rfl
@[simp] theorem Dev.trace_le (s : Dev) (r : Trec) : (s.trace r).le = s.le := rfl
@[simp] theorem Dev.trace_plan0 (s : Dev) (r : Trec) : (s.trace r).plan0 = s.plan0 := rfl
@[simp] theorem Dev.trace_plan1 (s : Dev) (r : Trec) : (s.trace r).plan1 = s.plan1 := rfl
@[simp] theorem Dev.trace_fs (s : Dev) (r : Trec) : (s.trace r).fs = s.fs := rfl
@[simp] theorem Dev.trace_gl (s : Dev) (r : Trec) : (s.trace r).gl = s.gl := rfl
@[simp] theorem Dev.trace_de (s : Dev) (r : Trec) : (s.trace r).de = s.de := rfl
@[simp] theorem Dev.trace_cal (s : Dev) (r : Trec) : (s.trace r).cal = s.cal := rfl
@[simp] theorem Dev.trace_nv (s : Dev) (r : Trec) : (s.trace r).nv = s.nv := rfl
@[simp] theorem Dev.trace_tw (s : Dev) (r : Trec) : (s.trace r).tw = s.tw := rfl
@[simp] theorem Dev.trace_mbx (s : Dev) (r : Trec) : (s.trace r).mbx = s.mbx := rfl
@[simp] theorem Dev.trace_hif (s : Dev) (r : Trec) : (s.trace r).hif = s.hif := rfl
@[simp] theorem Dev.trace_evq (s : Dev) (r : Trec) : (s.trace r).evq = s.evq := rfl
@[simp] theorem Dev.trace_st (s : Dev) (r : Trec) : (s.trace r).st = s.st := rfl
@[simp] theorem Dev.trace_bm (s : Dev) (r : Trec) : (s.trace r).bm = s.bm := rfl
@[simp] theorem Dev.trace_fc (s : Dev) (r : Trec) : (s.trace r).fc = s.fc := rfl
@[simp] theorem Dev.trace_pm (s : Dev) (r : Trec) : (s.trace r).pm = s.pm := rfl
@[simp] theorem Dev.trace_th (s : Dev) (r : Trec) : (s.trace r).th = s.th := rfl
@[simp] theorem Dev.trace_pc (s : Dev) (r : Trec) : (s.trace r).pc = s.pc := rfl
@[simp] theorem Dev.trace_pins (s : Dev) (r : Trec) : (s.trace r).pins = s.pins := rfl
@[simp] theorem Dev.trace_freeCtr (s : Dev) (r : Trec) : (s.trace r).freeCtr = s.freeCtr := rfl
@[simp] theorem Dev.trace_tx (s : Dev) (r : Trec) : (s.trace r).tx = s.tx := rfl
@[simp] theorem Dev.trace_reg (s : Dev) (r : Trec) (j : Nat) : (s.trace r).reg j = s.reg j := rfl
@[simp] theorem Dev.trace_rd (s : Dev) (r : Trec) (g : Fld) : (s.trace r).rd g = s.rd g := rfl
@[simp] theorem Dev.trace_on (s : Dev) (r : Trec) (g : Fld) : (s.trace r).on g = s.on g := rfl
@[simp] theorem Dev.trace_rd2 (s : Dev) (r : Trec) (j : Nat) : (s.trace r).rd2 j = s.rd2 j := rfl

/-! ### modVat -/

@[simp] theorem Dev.modVat_regs (s : Dev) (v : Nat) (f : Vat → Vat) : (s.modVat v f).regs = s.regs := rfl
@[simp] theorem Dev.modVat_hold (s : Dev) (v : Nat) (f : Vat → Vat) : (s.modVat v f).hold = s.hold := rfl
@[simp] theorem Dev.modVat_tb (s : Dev) (v : Nat) (f : Vat → Vat) : (s.modVat v f).tb = s.tb := rfl
@[simp] theorem Dev.modVat_le (s : Dev) (v : Nat) (f : Vat → Vat) : (s.modVat v f).le = s.le := rfl
@[simp] theorem Dev.modVat_plan0 (s : Dev) (v : Nat) (f : Vat → Vat) : (s.modVat v f).plan0 = s.plan0 := rfl
@[simp] theorem Dev.modVat_plan1 (s : Dev) (v : Nat) (f : Vat → Vat) : (s.modVat v f).plan1 = s.plan1 := rfl
@[simp] theorem Dev.modVat_fs (s : Dev) (v : Nat) (f : Vat → Vat) : (s.modVat v f).fs = s.fs := rfl
@[simp] theorem Dev.modVat_gl (s : Dev) (v : Nat) (f : Vat → Vat) : (s.modVat v f).gl = s.gl := rfl
@[simp] theorem Dev.modVat_de (s : Dev) (v : Nat) (f : Vat → Vat) : (s.modVat v f).de = s.de := rfl
@[simp] theorem Dev.modVat_cal (s : Dev) (v : Nat) (f : Vat → Vat) : (s.modVat v f).cal = s.cal := rfl
@[simp] theorem Dev.modVat_nv (s : Dev) (v : Nat) (f : Vat → Vat) : (s.modVat v f).nv = s.nv := rfl
@[simp] theorem Dev.modVat_tw (s : Dev) (v : Nat) (f : Vat → Vat) : (s.modVat v f).tw = s.tw := rfl
@[simp] theorem Dev.modVat_mbx (s : Dev) (v : Nat) (f : Vat → Vat) : (s.modVat v f).mbx = s.mbx := rfl
@[simp] theorem Dev.modVat_hif (s : Dev) (v : Nat) (f : Vat → Vat) : (s.modVat v f).hif = s.hif := rfl
@[simp] theorem Dev.modVat_evq (s : Dev) (v : Nat) (f : Vat → Vat) : (s.modVat v f).evq = s.evq := rfl
@[simp] theorem Dev.modVat_trc (s : Dev) (v : Nat) (f : Vat → Vat) : (s.modVat v f).trc = s.trc := rfl
@[simp] theorem Dev.modVat_st (s : Dev) (v : Nat) (f : Vat → Vat) : (s.modVat v f).st = s.st := rfl
@[simp] theorem Dev.modVat_bm (s : Dev) (v : Nat) (f : Vat → Vat) : (s.modVat v f).bm = s.bm := rfl
@[simp] theorem Dev.modVat_fc (s : Dev) (v : Nat) (f : Vat → Vat) : (s.modVat v f).fc = s.fc := rfl
@[simp] theorem Dev.modVat_pm (s : Dev) (v : Nat) (f : Vat → Vat) : (s.modVat v f).pm = s.pm := rfl
@[simp] theorem Dev.modVat_th (s : Dev) (v : Nat) (f : Vat → Vat) : (s.modVat v f).th = s.th := rfl
@[simp] theorem Dev.modVat_pc (s : Dev) (v : Nat) (f : Vat → Vat) : (s.modVat v f).pc = s.pc := rfl
@[simp] theorem Dev.modVat_pins (s : Dev) (v : Nat) (f : Vat → Vat) : (s.modVat v f).pins = s.pins := rfl
@[simp] theorem Dev.modVat_freeCtr (s : Dev) (v : Nat) (f : Vat → Vat) : (s.modVat v f).freeCtr = s.freeCtr := rfl
@[simp] theorem Dev.modVat_tx (s : Dev) (v : Nat) (f : Vat → Vat) : (s.modVat v f).tx = s.tx := rfl
@[simp] theorem Dev.modVat_reg (s : Dev) (v : Nat) (f : Vat → Vat) (j : Nat) : (s.modVat v f).reg j = s.reg j := rfl
@[simp] theorem Dev.modVat_rd (s : Dev) (v : Nat) (f : Vat → Vat) (g : Fld) : (s.modVat v f).rd g = s.rd g := rfl
@[simp] theorem Dev.modVat_on (s : Dev) (v : Nat) (f : Vat → Vat) (g : Fld) : (s.modVat v f).on g = s.on g := rfl
@[simp] theorem Dev.modVat_rd2 (s : Dev) (v : Nat) (f : Vat → Vat) (j : Nat) : (s.modVat v f).rd2 j = s.rd2 j := rfl

/-! ### modLane -/

@[simp] theorem Dev.modLane_regs (s : Dev) (l : Nat) (f : Lane → Lane) : (s.modLane l f).regs = s.regs := rfl
@[simp] theorem Dev.modLane_hold (s : Dev) (l : Nat) (f : Lane → Lane) : (s.modLane l f).hold = s.hold := rfl
@[simp] theorem Dev.modLane_tb (s : Dev) (l : Nat) (f : Lane → Lane) : (s.modLane l f).tb = s.tb := rfl
@[simp] theorem Dev.modLane_le (s : Dev) (l : Nat) (f : Lane → Lane) : (s.modLane l f).le = s.le := rfl
@[simp] theorem Dev.modLane_plan0 (s : Dev) (l : Nat) (f : Lane → Lane) : (s.modLane l f).plan0 = s.plan0 := rfl
@[simp] theorem Dev.modLane_plan1 (s : Dev) (l : Nat) (f : Lane → Lane) : (s.modLane l f).plan1 = s.plan1 := rfl
@[simp] theorem Dev.modLane_fs (s : Dev) (l : Nat) (f : Lane → Lane) : (s.modLane l f).fs = s.fs := rfl
@[simp] theorem Dev.modLane_gl (s : Dev) (l : Nat) (f : Lane → Lane) : (s.modLane l f).gl = s.gl := rfl
@[simp] theorem Dev.modLane_de (s : Dev) (l : Nat) (f : Lane → Lane) : (s.modLane l f).de = s.de := rfl
@[simp] theorem Dev.modLane_cal (s : Dev) (l : Nat) (f : Lane → Lane) : (s.modLane l f).cal = s.cal := rfl
@[simp] theorem Dev.modLane_nv (s : Dev) (l : Nat) (f : Lane → Lane) : (s.modLane l f).nv = s.nv := rfl
@[simp] theorem Dev.modLane_tw (s : Dev) (l : Nat) (f : Lane → Lane) : (s.modLane l f).tw = s.tw := rfl
@[simp] theorem Dev.modLane_mbx (s : Dev) (l : Nat) (f : Lane → Lane) : (s.modLane l f).mbx = s.mbx := rfl
@[simp] theorem Dev.modLane_hif (s : Dev) (l : Nat) (f : Lane → Lane) : (s.modLane l f).hif = s.hif := rfl
@[simp] theorem Dev.modLane_evq (s : Dev) (l : Nat) (f : Lane → Lane) : (s.modLane l f).evq = s.evq := rfl
@[simp] theorem Dev.modLane_trc (s : Dev) (l : Nat) (f : Lane → Lane) : (s.modLane l f).trc = s.trc := rfl
@[simp] theorem Dev.modLane_st (s : Dev) (l : Nat) (f : Lane → Lane) : (s.modLane l f).st = s.st := rfl
@[simp] theorem Dev.modLane_bm (s : Dev) (l : Nat) (f : Lane → Lane) : (s.modLane l f).bm = s.bm := rfl
@[simp] theorem Dev.modLane_fc (s : Dev) (l : Nat) (f : Lane → Lane) : (s.modLane l f).fc = s.fc := rfl
@[simp] theorem Dev.modLane_pm (s : Dev) (l : Nat) (f : Lane → Lane) : (s.modLane l f).pm = s.pm := rfl
@[simp] theorem Dev.modLane_th (s : Dev) (l : Nat) (f : Lane → Lane) : (s.modLane l f).th = s.th := rfl
@[simp] theorem Dev.modLane_pc (s : Dev) (l : Nat) (f : Lane → Lane) : (s.modLane l f).pc = s.pc := rfl
@[simp] theorem Dev.modLane_pins (s : Dev) (l : Nat) (f : Lane → Lane) : (s.modLane l f).pins = s.pins := rfl
@[simp] theorem Dev.modLane_freeCtr (s : Dev) (l : Nat) (f : Lane → Lane) : (s.modLane l f).freeCtr = s.freeCtr := rfl
@[simp] theorem Dev.modLane_tx (s : Dev) (l : Nat) (f : Lane → Lane) : (s.modLane l f).tx = s.tx := rfl
@[simp] theorem Dev.modLane_reg (s : Dev) (l : Nat) (f : Lane → Lane) (j : Nat) : (s.modLane l f).reg j = s.reg j := rfl
@[simp] theorem Dev.modLane_rd (s : Dev) (l : Nat) (f : Lane → Lane) (g : Fld) : (s.modLane l f).rd g = s.rd g := rfl
@[simp] theorem Dev.modLane_on (s : Dev) (l : Nat) (f : Lane → Lane) (g : Fld) : (s.modLane l f).on g = s.on g := rfl
@[simp] theorem Dev.modLane_rd2 (s : Dev) (l : Nat) (f : Lane → Lane) (j : Nat) : (s.modLane l f).rd2 j = s.rd2 j := rfl

/-! ### unhold -/

@[simp] theorem Dev.unhold_regs (s : Dev) (r v : Nat) : (s.unhold r v).regs = s.regs := rfl
@[simp] theorem Dev.unhold_hold (s : Dev) (r v : Nat) : (s.unhold r v).hold = s.hold := rfl
@[simp] theorem Dev.unhold_tb (s : Dev) (r v : Nat) : (s.unhold r v).tb = s.tb := rfl
@[simp] theorem Dev.unhold_le (s : Dev) (r v : Nat) : (s.unhold r v).le = s.le := rfl
@[simp] theorem Dev.unhold_plan0 (s : Dev) (r v : Nat) : (s.unhold r v).plan0 = s.plan0 := rfl
@[simp] theorem Dev.unhold_plan1 (s : Dev) (r v : Nat) : (s.unhold r v).plan1 = s.plan1 := rfl
@[simp] theorem Dev.unhold_fs (s : Dev) (r v : Nat) : (s.unhold r v).fs = s.fs := rfl
@[simp] theorem Dev.unhold_gl (s : Dev) (r v : Nat) : (s.unhold r v).gl = s.gl := rfl
@[simp] theorem Dev.unhold_de (s : Dev) (r v : Nat) : (s.unhold r v).de = s.de := rfl
@[simp] theorem Dev.unhold_cal (s : Dev) (r v : Nat) : (s.unhold r v).cal = s.cal := rfl
@[simp] theorem Dev.unhold_nv (s : Dev) (r v : Nat) : (s.unhold r v).nv = s.nv := rfl
@[simp] theorem Dev.unhold_tw (s : Dev) (r v : Nat) : (s.unhold r v).tw = s.tw := rfl
@[simp] theorem Dev.unhold_mbx (s : Dev) (r v : Nat) : (s.unhold r v).mbx = s.mbx := rfl
@[simp] theorem Dev.unhold_hif (s : Dev) (r v : Nat) : (s.unhold r v).hif = s.hif := rfl
@[simp] theorem Dev.unhold_evq (s : Dev) (r v : Nat) : (s.unhold r v).evq = s.evq := rfl
@[simp] theorem Dev.unhold_trc (s : Dev) (r v : Nat) : (s.unhold r v).trc = s.trc := rfl
@[simp] theorem Dev.unhold_st (s : Dev) (r v : Nat) : (s.unhold r v).st = s.st := rfl
@[simp] theorem Dev.unhold_bm (s : Dev) (r v : Nat) : (s.unhold r v).bm = s.bm := rfl
@[simp] theorem Dev.unhold_fc (s : Dev) (r v : Nat) : (s.unhold r v).fc = s.fc := rfl
@[simp] theorem Dev.unhold_pm (s : Dev) (r v : Nat) : (s.unhold r v).pm = s.pm := rfl
@[simp] theorem Dev.unhold_th (s : Dev) (r v : Nat) : (s.unhold r v).th = s.th := rfl
@[simp] theorem Dev.unhold_pc (s : Dev) (r v : Nat) : (s.unhold r v).pc = s.pc := rfl
@[simp] theorem Dev.unhold_pins (s : Dev) (r v : Nat) : (s.unhold r v).pins = s.pins := rfl
@[simp] theorem Dev.unhold_freeCtr (s : Dev) (r v : Nat) : (s.unhold r v).freeCtr = s.freeCtr := rfl
@[simp] theorem Dev.unhold_tx (s : Dev) (r v : Nat) : (s.unhold r v).tx = s.tx := rfl
@[simp] theorem Dev.unhold_reg (s : Dev) (r v : Nat) (j : Nat) : (s.unhold r v).reg j = s.reg j := rfl
@[simp] theorem Dev.unhold_rd (s : Dev) (r v : Nat) (g : Fld) : (s.unhold r v).rd g = s.rd g := rfl
@[simp] theorem Dev.unhold_on (s : Dev) (r v : Nat) (g : Fld) : (s.unhold r v).on g = s.on g := rfl
@[simp] theorem Dev.unhold_rd2 (s : Dev) (r v : Nat) (j : Nat) : (s.unhold r v).rd2 j = s.rd2 j := rfl

/-! ### setBead -/

@[simp] theorem Dev.setBead_regs (s : Dev) (i o v : Nat) : (s.setBead i o v).regs = s.regs := rfl
@[simp] theorem Dev.setBead_hold (s : Dev) (i o v : Nat) : (s.setBead i o v).hold = s.hold := rfl
@[simp] theorem Dev.setBead_tb (s : Dev) (i o v : Nat) : (s.setBead i o v).tb = s.tb := rfl
@[simp] theorem Dev.setBead_vl (s : Dev) (i o v : Nat) : (s.setBead i o v).vl = s.vl := rfl
@[simp] theorem Dev.setBead_le (s : Dev) (i o v : Nat) : (s.setBead i o v).le = s.le := rfl
@[simp] theorem Dev.setBead_plan0 (s : Dev) (i o v : Nat) : (s.setBead i o v).plan0 = s.plan0 := rfl
@[simp] theorem Dev.setBead_plan1 (s : Dev) (i o v : Nat) : (s.setBead i o v).plan1 = s.plan1 := rfl
@[simp] theorem Dev.setBead_fs (s : Dev) (i o v : Nat) : (s.setBead i o v).fs = s.fs := rfl
@[simp] theorem Dev.setBead_gl (s : Dev) (i o v : Nat) : (s.setBead i o v).gl = s.gl := rfl
@[simp] theorem Dev.setBead_cal (s : Dev) (i o v : Nat) : (s.setBead i o v).cal = s.cal := rfl
@[simp] theorem Dev.setBead_nv (s : Dev) (i o v : Nat) : (s.setBead i o v).nv = s.nv := rfl
@[simp] theorem Dev.setBead_tw (s : Dev) (i o v : Nat) : (s.setBead i o v).tw = s.tw := rfl
@[simp] theorem Dev.setBead_mbx (s : Dev) (i o v : Nat) : (s.setBead i o v).mbx = s.mbx := rfl
@[simp] theorem Dev.setBead_hif (s : Dev) (i o v : Nat) : (s.setBead i o v).hif = s.hif := rfl
@[simp] theorem Dev.setBead_evq (s : Dev) (i o v : Nat) : (s.setBead i o v).evq = s.evq := rfl
@[simp] theorem Dev.setBead_trc (s : Dev) (i o v : Nat) : (s.setBead i o v).trc = s.trc := rfl
@[simp] theorem Dev.setBead_st (s : Dev) (i o v : Nat) : (s.setBead i o v).st = s.st := rfl
@[simp] theorem Dev.setBead_bm (s : Dev) (i o v : Nat) : (s.setBead i o v).bm = s.bm := rfl
@[simp] theorem Dev.setBead_fc (s : Dev) (i o v : Nat) : (s.setBead i o v).fc = s.fc := rfl
@[simp] theorem Dev.setBead_pm (s : Dev) (i o v : Nat) : (s.setBead i o v).pm = s.pm := rfl
@[simp] theorem Dev.setBead_th (s : Dev) (i o v : Nat) : (s.setBead i o v).th = s.th := rfl
@[simp] theorem Dev.setBead_pc (s : Dev) (i o v : Nat) : (s.setBead i o v).pc = s.pc := rfl
@[simp] theorem Dev.setBead_pins (s : Dev) (i o v : Nat) : (s.setBead i o v).pins = s.pins := rfl
@[simp] theorem Dev.setBead_freeCtr (s : Dev) (i o v : Nat) : (s.setBead i o v).freeCtr = s.freeCtr := rfl
@[simp] theorem Dev.setBead_tx (s : Dev) (i o v : Nat) : (s.setBead i o v).tx = s.tx := rfl
@[simp] theorem Dev.setBead_reg (s : Dev) (i o v : Nat) (j : Nat) : (s.setBead i o v).reg j = s.reg j := rfl
@[simp] theorem Dev.setBead_rd (s : Dev) (i o v : Nat) (g : Fld) : (s.setBead i o v).rd g = s.rd g := rfl
@[simp] theorem Dev.setBead_on (s : Dev) (i o v : Nat) (g : Fld) : (s.setBead i o v).on g = s.on g := rfl
@[simp] theorem Dev.setBead_rd2 (s : Dev) (i o v : Nat) (j : Nat) : (s.setBead i o v).rd2 j = s.rd2 j := rfl

/-! ### take -/

@[simp] theorem Dev.take_regs (s : Dev) (mb : Nat) : (s.take mb).regs = s.regs := rfl
@[simp] theorem Dev.take_hold (s : Dev) (mb : Nat) : (s.take mb).hold = s.hold := rfl
@[simp] theorem Dev.take_tb (s : Dev) (mb : Nat) : (s.take mb).tb = s.tb := rfl
@[simp] theorem Dev.take_vl (s : Dev) (mb : Nat) : (s.take mb).vl = s.vl := rfl
@[simp] theorem Dev.take_le (s : Dev) (mb : Nat) : (s.take mb).le = s.le := rfl
@[simp] theorem Dev.take_plan0 (s : Dev) (mb : Nat) : (s.take mb).plan0 = s.plan0 := rfl
@[simp] theorem Dev.take_plan1 (s : Dev) (mb : Nat) : (s.take mb).plan1 = s.plan1 := rfl
@[simp] theorem Dev.take_fs (s : Dev) (mb : Nat) : (s.take mb).fs = s.fs := rfl
@[simp] theorem Dev.take_gl (s : Dev) (mb : Nat) : (s.take mb).gl = s.gl := rfl
@[simp] theorem Dev.take_de (s : Dev) (mb : Nat) : (s.take mb).de = s.de := rfl
@[simp] theorem Dev.take_cal (s : Dev) (mb : Nat) : (s.take mb).cal = s.cal := rfl
@[simp] theorem Dev.take_nv (s : Dev) (mb : Nat) : (s.take mb).nv = s.nv := rfl
@[simp] theorem Dev.take_tw (s : Dev) (mb : Nat) : (s.take mb).tw = s.tw := rfl
@[simp] theorem Dev.take_hif (s : Dev) (mb : Nat) : (s.take mb).hif = s.hif := rfl
@[simp] theorem Dev.take_evq (s : Dev) (mb : Nat) : (s.take mb).evq = s.evq := rfl
@[simp] theorem Dev.take_trc (s : Dev) (mb : Nat) : (s.take mb).trc = s.trc := rfl
@[simp] theorem Dev.take_st (s : Dev) (mb : Nat) : (s.take mb).st = s.st := rfl
@[simp] theorem Dev.take_bm (s : Dev) (mb : Nat) : (s.take mb).bm = s.bm := rfl
@[simp] theorem Dev.take_fc (s : Dev) (mb : Nat) : (s.take mb).fc = s.fc := rfl
@[simp] theorem Dev.take_pm (s : Dev) (mb : Nat) : (s.take mb).pm = s.pm := rfl
@[simp] theorem Dev.take_th (s : Dev) (mb : Nat) : (s.take mb).th = s.th := rfl
@[simp] theorem Dev.take_pc (s : Dev) (mb : Nat) : (s.take mb).pc = s.pc := rfl
@[simp] theorem Dev.take_pins (s : Dev) (mb : Nat) : (s.take mb).pins = s.pins := rfl
@[simp] theorem Dev.take_freeCtr (s : Dev) (mb : Nat) : (s.take mb).freeCtr = s.freeCtr := rfl
@[simp] theorem Dev.take_tx (s : Dev) (mb : Nat) : (s.take mb).tx = s.tx := rfl
@[simp] theorem Dev.take_reg (s : Dev) (mb : Nat) (j : Nat) : (s.take mb).reg j = s.reg j := rfl
@[simp] theorem Dev.take_rd (s : Dev) (mb : Nat) (g : Fld) : (s.take mb).rd g = s.rd g := rfl
@[simp] theorem Dev.take_on (s : Dev) (mb : Nat) (g : Fld) : (s.take mb).on g = s.on g := rfl
@[simp] theorem Dev.take_rd2 (s : Dev) (mb : Nat) (j : Nat) : (s.take mb).rd2 j = s.rd2 j := rfl

/-! ### event -/

@[simp] theorem Dev.event_hold (s : Dev) (f : Fld) : (s.event f).hold = s.hold := by
  unfold Dev.event; (repeat' split) <;> rfl
@[simp] theorem Dev.event_tb (s : Dev) (f : Fld) : (s.event f).tb = s.tb := by
  unfold Dev.event; (repeat' split) <;> rfl
@[simp] theorem Dev.event_vl (s : Dev) (f : Fld) : (s.event f).vl = s.vl := by
  unfold Dev.event; (repeat' split) <;> rfl
@[simp] theorem Dev.event_le (s : Dev) (f : Fld) : (s.event f).le = s.le := by
  unfold Dev.event; (repeat' split) <;> rfl
@[simp] theorem Dev.event_plan0 (s : Dev) (f : Fld) : (s.event f).plan0 = s.plan0 := by
  unfold Dev.event; (repeat' split) <;> rfl
@[simp] theorem Dev.event_plan1 (s : Dev) (f : Fld) : (s.event f).plan1 = s.plan1 := by
  unfold Dev.event; (repeat' split) <;> rfl
@[simp] theorem Dev.event_fs (s : Dev) (f : Fld) : (s.event f).fs = s.fs := by
  unfold Dev.event; (repeat' split) <;> rfl
@[simp] theorem Dev.event_gl (s : Dev) (f : Fld) : (s.event f).gl = s.gl := by
  unfold Dev.event; (repeat' split) <;> rfl
@[simp] theorem Dev.event_de (s : Dev) (f : Fld) : (s.event f).de = s.de := by
  unfold Dev.event; (repeat' split) <;> rfl
@[simp] theorem Dev.event_cal (s : Dev) (f : Fld) : (s.event f).cal = s.cal := by
  unfold Dev.event; (repeat' split) <;> rfl
@[simp] theorem Dev.event_nv (s : Dev) (f : Fld) : (s.event f).nv = s.nv := by
  unfold Dev.event; (repeat' split) <;> rfl
@[simp] theorem Dev.event_tw (s : Dev) (f : Fld) : (s.event f).tw = s.tw := by
  unfold Dev.event; (repeat' split) <;> rfl
@[simp] theorem Dev.event_mbx (s : Dev) (f : Fld) : (s.event f).mbx = s.mbx := by
  unfold Dev.event; (repeat' split) <;> rfl
@[simp] theorem Dev.event_hif (s : Dev) (f : Fld) : (s.event f).hif = s.hif := by
  unfold Dev.event; (repeat' split) <;> rfl
@[simp] theorem Dev.event_trc (s : Dev) (f : Fld) : (s.event f).trc = s.trc := by
  unfold Dev.event; (repeat' split) <;> rfl
@[simp] theorem Dev.event_st (s : Dev) (f : Fld) : (s.event f).st = s.st := by
  unfold Dev.event; (repeat' split) <;> rfl
@[simp] theorem Dev.event_bm (s : Dev) (f : Fld) : (s.event f).bm = s.bm := by
  unfold Dev.event; (repeat' split) <;> rfl
@[simp] theorem Dev.event_fc (s : Dev) (f : Fld) : (s.event f).fc = s.fc := by
  unfold Dev.event; (repeat' split) <;> rfl
@[simp] theorem Dev.event_pm (s : Dev) (f : Fld) : (s.event f).pm = s.pm := by
  unfold Dev.event; (repeat' split) <;> rfl
@[simp] theorem Dev.event_th (s : Dev) (f : Fld) : (s.event f).th = s.th := by
  unfold Dev.event; (repeat' split) <;> rfl
@[simp] theorem Dev.event_pc (s : Dev) (f : Fld) : (s.event f).pc = s.pc := by
  unfold Dev.event; (repeat' split) <;> rfl
@[simp] theorem Dev.event_pins (s : Dev) (f : Fld) : (s.event f).pins = s.pins := by
  unfold Dev.event; (repeat' split) <;> rfl
@[simp] theorem Dev.event_freeCtr (s : Dev) (f : Fld) : (s.event f).freeCtr = s.freeCtr := by
  unfold Dev.event; (repeat' split) <;> rfl
@[simp] theorem Dev.event_tx (s : Dev) (f : Fld) : (s.event f).tx = s.tx := by
  unfold Dev.event; (repeat' split) <;> rfl

/-! ### raise -/

@[simp] theorem Dev.raise_regs (s : Dev) (c v : Nat) (r : BitVec 28) (i : Nat) (h : Bool) : (s.raise c v r i h).regs = s.regs := by
  unfold Dev.raise; (repeat' split) <;> rfl
@[simp] theorem Dev.raise_hold (s : Dev) (c v : Nat) (r : BitVec 28) (i : Nat) (h : Bool) : (s.raise c v r i h).hold = s.hold := by
  unfold Dev.raise; (repeat' split) <;> rfl
@[simp] theorem Dev.raise_tb (s : Dev) (c v : Nat) (r : BitVec 28) (i : Nat) (h : Bool) : (s.raise c v r i h).tb = s.tb := by
  unfold Dev.raise; (repeat' split) <;> rfl
@[simp] theorem Dev.raise_vl (s : Dev) (c v : Nat) (r : BitVec 28) (i : Nat) (h : Bool) : (s.raise c v r i h).vl = s.vl := by
  unfold Dev.raise; (repeat' split) <;> rfl
@[simp] theorem Dev.raise_le (s : Dev) (c v : Nat) (r : BitVec 28) (i : Nat) (h : Bool) : (s.raise c v r i h).le = s.le := by
  unfold Dev.raise; (repeat' split) <;> rfl
@[simp] theorem Dev.raise_plan0 (s : Dev) (c v : Nat) (r : BitVec 28) (i : Nat) (h : Bool) : (s.raise c v r i h).plan0 = s.plan0 := by
  unfold Dev.raise; (repeat' split) <;> rfl
@[simp] theorem Dev.raise_plan1 (s : Dev) (c v : Nat) (r : BitVec 28) (i : Nat) (h : Bool) : (s.raise c v r i h).plan1 = s.plan1 := by
  unfold Dev.raise; (repeat' split) <;> rfl
@[simp] theorem Dev.raise_fs (s : Dev) (c v : Nat) (r : BitVec 28) (i : Nat) (h : Bool) : (s.raise c v r i h).fs = s.fs := by
  unfold Dev.raise; (repeat' split) <;> rfl
@[simp] theorem Dev.raise_gl (s : Dev) (c v : Nat) (r : BitVec 28) (i : Nat) (h : Bool) : (s.raise c v r i h).gl = s.gl := by
  unfold Dev.raise; (repeat' split) <;> rfl
@[simp] theorem Dev.raise_de (s : Dev) (c v : Nat) (r : BitVec 28) (i : Nat) (h : Bool) : (s.raise c v r i h).de = s.de := by
  unfold Dev.raise; (repeat' split) <;> rfl
@[simp] theorem Dev.raise_cal (s : Dev) (c v : Nat) (r : BitVec 28) (i : Nat) (h : Bool) : (s.raise c v r i h).cal = s.cal := by
  unfold Dev.raise; (repeat' split) <;> rfl
@[simp] theorem Dev.raise_nv (s : Dev) (c v : Nat) (r : BitVec 28) (i : Nat) (h : Bool) : (s.raise c v r i h).nv = s.nv := by
  unfold Dev.raise; (repeat' split) <;> rfl
@[simp] theorem Dev.raise_tw (s : Dev) (c v : Nat) (r : BitVec 28) (i : Nat) (h : Bool) : (s.raise c v r i h).tw = s.tw := by
  unfold Dev.raise; (repeat' split) <;> rfl
@[simp] theorem Dev.raise_mbx (s : Dev) (c v : Nat) (r : BitVec 28) (i : Nat) (h : Bool) : (s.raise c v r i h).mbx = s.mbx := by
  unfold Dev.raise; (repeat' split) <;> rfl
@[simp] theorem Dev.raise_hif (s : Dev) (c v : Nat) (r : BitVec 28) (i : Nat) (h : Bool) : (s.raise c v r i h).hif = s.hif := by
  unfold Dev.raise; (repeat' split) <;> rfl
@[simp] theorem Dev.raise_evq (s : Dev) (c v : Nat) (r : BitVec 28) (i : Nat) (h : Bool) : (s.raise c v r i h).evq = s.evq := by
  unfold Dev.raise; (repeat' split) <;> rfl
@[simp] theorem Dev.raise_trc (s : Dev) (c v : Nat) (r : BitVec 28) (i : Nat) (h : Bool) : (s.raise c v r i h).trc = s.trc := by
  unfold Dev.raise; (repeat' split) <;> rfl
@[simp] theorem Dev.raise_st (s : Dev) (c v : Nat) (r : BitVec 28) (i : Nat) (h : Bool) : (s.raise c v r i h).st = s.st := by
  unfold Dev.raise; (repeat' split) <;> rfl
@[simp] theorem Dev.raise_bm (s : Dev) (c v : Nat) (r : BitVec 28) (i : Nat) (h : Bool) : (s.raise c v r i h).bm = s.bm := by
  unfold Dev.raise; (repeat' split) <;> rfl
@[simp] theorem Dev.raise_pm (s : Dev) (c v : Nat) (r : BitVec 28) (i : Nat) (h : Bool) : (s.raise c v r i h).pm = s.pm := by
  unfold Dev.raise; (repeat' split) <;> rfl
@[simp] theorem Dev.raise_th (s : Dev) (c v : Nat) (r : BitVec 28) (i : Nat) (h : Bool) : (s.raise c v r i h).th = s.th := by
  unfold Dev.raise; (repeat' split) <;> rfl
@[simp] theorem Dev.raise_pc (s : Dev) (c v : Nat) (r : BitVec 28) (i : Nat) (h : Bool) : (s.raise c v r i h).pc = s.pc := by
  unfold Dev.raise; (repeat' split) <;> rfl
@[simp] theorem Dev.raise_pins (s : Dev) (c v : Nat) (r : BitVec 28) (i : Nat) (h : Bool) : (s.raise c v r i h).pins = s.pins := by
  unfold Dev.raise; (repeat' split) <;> rfl
@[simp] theorem Dev.raise_tx (s : Dev) (c v : Nat) (r : BitVec 28) (i : Nat) (h : Bool) : (s.raise c v r i h).tx = s.tx := by
  unfold Dev.raise; (repeat' split) <;> rfl
@[simp] theorem Dev.raise_reg (s : Dev) (c v : Nat) (r : BitVec 28) (i : Nat) (h : Bool) (j : Nat) : (s.raise c v r i h).reg j = s.reg j := by
  unfold Dev.raise; (repeat' split) <;> rfl
@[simp] theorem Dev.raise_rd (s : Dev) (c v : Nat) (r : BitVec 28) (i : Nat) (h : Bool) (j : Fld) : (s.raise c v r i h).rd j = s.rd j := by
  unfold Dev.raise; (repeat' split) <;> rfl
@[simp] theorem Dev.raise_on (s : Dev) (c v : Nat) (r : BitVec 28) (i : Nat) (h : Bool) (j : Fld) : (s.raise c v r i h).on j = s.on j := by
  unfold Dev.raise; (repeat' split) <;> rfl
@[simp] theorem Dev.raise_rd2 (s : Dev) (c v : Nat) (r : BitVec 28) (i : Nat) (h : Bool) (j : Nat) : (s.raise c v r i h).rd2 j = s.rd2 j := by
  unfold Dev.raise; (repeat' split) <;> rfl

/-! ### msix -/

@[simp] theorem Dev.msix_hold (s : Dev) (v : Nat) : (s.msix v).hold = s.hold := by
  unfold Dev.msix; (repeat' split) <;> rfl
@[simp] theorem Dev.msix_tb (s : Dev) (v : Nat) : (s.msix v).tb = s.tb := by
  unfold Dev.msix; (repeat' split) <;> rfl
@[simp] theorem Dev.msix_vl (s : Dev) (v : Nat) : (s.msix v).vl = s.vl := by
  unfold Dev.msix; (repeat' split) <;> rfl
@[simp] theorem Dev.msix_le (s : Dev) (v : Nat) : (s.msix v).le = s.le := by
  unfold Dev.msix; (repeat' split) <;> rfl
@[simp] theorem Dev.msix_plan0 (s : Dev) (v : Nat) : (s.msix v).plan0 = s.plan0 := by
  unfold Dev.msix; (repeat' split) <;> rfl
@[simp] theorem Dev.msix_plan1 (s : Dev) (v : Nat) : (s.msix v).plan1 = s.plan1 := by
  unfold Dev.msix; (repeat' split) <;> rfl
@[simp] theorem Dev.msix_fs (s : Dev) (v : Nat) : (s.msix v).fs = s.fs := by
  unfold Dev.msix; (repeat' split) <;> rfl
@[simp] theorem Dev.msix_gl (s : Dev) (v : Nat) : (s.msix v).gl = s.gl := by
  unfold Dev.msix; (repeat' split) <;> rfl
@[simp] theorem Dev.msix_de (s : Dev) (v : Nat) : (s.msix v).de = s.de := by
  unfold Dev.msix; (repeat' split) <;> rfl
@[simp] theorem Dev.msix_cal (s : Dev) (v : Nat) : (s.msix v).cal = s.cal := by
  unfold Dev.msix; (repeat' split) <;> rfl
@[simp] theorem Dev.msix_nv (s : Dev) (v : Nat) : (s.msix v).nv = s.nv := by
  unfold Dev.msix; (repeat' split) <;> rfl
@[simp] theorem Dev.msix_tw (s : Dev) (v : Nat) : (s.msix v).tw = s.tw := by
  unfold Dev.msix; (repeat' split) <;> rfl
@[simp] theorem Dev.msix_mbx (s : Dev) (v : Nat) : (s.msix v).mbx = s.mbx := by
  unfold Dev.msix; (repeat' split) <;> rfl
@[simp] theorem Dev.msix_hif (s : Dev) (v : Nat) : (s.msix v).hif = s.hif := by
  unfold Dev.msix; (repeat' split) <;> rfl
@[simp] theorem Dev.msix_evq (s : Dev) (v : Nat) : (s.msix v).evq = s.evq := by
  unfold Dev.msix; (repeat' split) <;> rfl
@[simp] theorem Dev.msix_trc (s : Dev) (v : Nat) : (s.msix v).trc = s.trc := by
  unfold Dev.msix; (repeat' split) <;> rfl
@[simp] theorem Dev.msix_st (s : Dev) (v : Nat) : (s.msix v).st = s.st := by
  unfold Dev.msix; (repeat' split) <;> rfl
@[simp] theorem Dev.msix_bm (s : Dev) (v : Nat) : (s.msix v).bm = s.bm := by
  unfold Dev.msix; (repeat' split) <;> rfl
@[simp] theorem Dev.msix_fc (s : Dev) (v : Nat) : (s.msix v).fc = s.fc := by
  unfold Dev.msix; (repeat' split) <;> rfl
@[simp] theorem Dev.msix_pm (s : Dev) (v : Nat) : (s.msix v).pm = s.pm := by
  unfold Dev.msix; (repeat' split) <;> rfl
@[simp] theorem Dev.msix_th (s : Dev) (v : Nat) : (s.msix v).th = s.th := by
  unfold Dev.msix; (repeat' split) <;> rfl
@[simp] theorem Dev.msix_pc (s : Dev) (v : Nat) : (s.msix v).pc = s.pc := by
  unfold Dev.msix; (repeat' split) <;> rfl
@[simp] theorem Dev.msix_pins (s : Dev) (v : Nat) : (s.msix v).pins = s.pins := by
  unfold Dev.msix; (repeat' split) <;> rfl
@[simp] theorem Dev.msix_freeCtr (s : Dev) (v : Nat) : (s.msix v).freeCtr = s.freeCtr := by
  unfold Dev.msix; (repeat' split) <;> rfl

/-! ### finish -/

@[simp] theorem Dev.finish_regs (s : Dev) (mb a b c : Nat) (l : List Byte) : (s.finish mb a b c l).regs = s.regs := by
  unfold Dev.finish; (repeat' split) <;> rfl
@[simp] theorem Dev.finish_hold (s : Dev) (mb a b c : Nat) (l : List Byte) : (s.finish mb a b c l).hold = s.hold := by
  unfold Dev.finish; (repeat' split) <;> rfl
@[simp] theorem Dev.finish_tb (s : Dev) (mb a b c : Nat) (l : List Byte) : (s.finish mb a b c l).tb = s.tb := by
  unfold Dev.finish; (repeat' split) <;> rfl
@[simp] theorem Dev.finish_vl (s : Dev) (mb a b c : Nat) (l : List Byte) : (s.finish mb a b c l).vl = s.vl := by
  unfold Dev.finish; (repeat' split) <;> rfl
@[simp] theorem Dev.finish_le (s : Dev) (mb a b c : Nat) (l : List Byte) : (s.finish mb a b c l).le = s.le := by
  unfold Dev.finish; (repeat' split) <;> rfl
@[simp] theorem Dev.finish_plan0 (s : Dev) (mb a b c : Nat) (l : List Byte) : (s.finish mb a b c l).plan0 = s.plan0 := by
  unfold Dev.finish; (repeat' split) <;> rfl
@[simp] theorem Dev.finish_plan1 (s : Dev) (mb a b c : Nat) (l : List Byte) : (s.finish mb a b c l).plan1 = s.plan1 := by
  unfold Dev.finish; (repeat' split) <;> rfl
@[simp] theorem Dev.finish_fs (s : Dev) (mb a b c : Nat) (l : List Byte) : (s.finish mb a b c l).fs = s.fs := by
  unfold Dev.finish; (repeat' split) <;> rfl
@[simp] theorem Dev.finish_gl (s : Dev) (mb a b c : Nat) (l : List Byte) : (s.finish mb a b c l).gl = s.gl := by
  unfold Dev.finish; (repeat' split) <;> rfl
@[simp] theorem Dev.finish_de (s : Dev) (mb a b c : Nat) (l : List Byte) : (s.finish mb a b c l).de = s.de := by
  unfold Dev.finish; (repeat' split) <;> rfl
@[simp] theorem Dev.finish_cal (s : Dev) (mb a b c : Nat) (l : List Byte) : (s.finish mb a b c l).cal = s.cal := by
  unfold Dev.finish; (repeat' split) <;> rfl
@[simp] theorem Dev.finish_nv (s : Dev) (mb a b c : Nat) (l : List Byte) : (s.finish mb a b c l).nv = s.nv := by
  unfold Dev.finish; (repeat' split) <;> rfl
@[simp] theorem Dev.finish_tw (s : Dev) (mb a b c : Nat) (l : List Byte) : (s.finish mb a b c l).tw = s.tw := by
  unfold Dev.finish; (repeat' split) <;> rfl
@[simp] theorem Dev.finish_hif (s : Dev) (mb a b c : Nat) (l : List Byte) : (s.finish mb a b c l).hif = s.hif := by
  unfold Dev.finish; (repeat' split) <;> rfl
@[simp] theorem Dev.finish_evq (s : Dev) (mb a b c : Nat) (l : List Byte) : (s.finish mb a b c l).evq = s.evq := by
  unfold Dev.finish; (repeat' split) <;> rfl
@[simp] theorem Dev.finish_trc (s : Dev) (mb a b c : Nat) (l : List Byte) : (s.finish mb a b c l).trc = s.trc := by
  unfold Dev.finish; (repeat' split) <;> rfl
@[simp] theorem Dev.finish_st (s : Dev) (mb a b c : Nat) (l : List Byte) : (s.finish mb a b c l).st = s.st := by
  unfold Dev.finish; (repeat' split) <;> rfl
@[simp] theorem Dev.finish_bm (s : Dev) (mb a b c : Nat) (l : List Byte) : (s.finish mb a b c l).bm = s.bm := by
  unfold Dev.finish; (repeat' split) <;> rfl
@[simp] theorem Dev.finish_fc (s : Dev) (mb a b c : Nat) (l : List Byte) : (s.finish mb a b c l).fc = s.fc := by
  unfold Dev.finish; (repeat' split) <;> rfl
@[simp] theorem Dev.finish_pm (s : Dev) (mb a b c : Nat) (l : List Byte) : (s.finish mb a b c l).pm = s.pm := by
  unfold Dev.finish; (repeat' split) <;> rfl
@[simp] theorem Dev.finish_th (s : Dev) (mb a b c : Nat) (l : List Byte) : (s.finish mb a b c l).th = s.th := by
  unfold Dev.finish; (repeat' split) <;> rfl
@[simp] theorem Dev.finish_pc (s : Dev) (mb a b c : Nat) (l : List Byte) : (s.finish mb a b c l).pc = s.pc := by
  unfold Dev.finish; (repeat' split) <;> rfl
@[simp] theorem Dev.finish_pins (s : Dev) (mb a b c : Nat) (l : List Byte) : (s.finish mb a b c l).pins = s.pins := by
  unfold Dev.finish; (repeat' split) <;> rfl
@[simp] theorem Dev.finish_freeCtr (s : Dev) (mb a b c : Nat) (l : List Byte) : (s.finish mb a b c l).freeCtr = s.freeCtr := by
  unfold Dev.finish; (repeat' split) <;> rfl
@[simp] theorem Dev.finish_tx (s : Dev) (mb a b c : Nat) (l : List Byte) : (s.finish mb a b c l).tx = s.tx := by
  unfold Dev.finish; (repeat' split) <;> rfl
@[simp] theorem Dev.finish_reg (s : Dev) (mb a b c : Nat) (l : List Byte) (j : Nat) : (s.finish mb a b c l).reg j = s.reg j := by
  unfold Dev.finish; (repeat' split) <;> rfl
@[simp] theorem Dev.finish_rd (s : Dev) (mb a b c : Nat) (l : List Byte) (j : Fld) : (s.finish mb a b c l).rd j = s.rd j := by
  unfold Dev.finish; (repeat' split) <;> rfl
@[simp] theorem Dev.finish_on (s : Dev) (mb a b c : Nat) (l : List Byte) (j : Fld) : (s.finish mb a b c l).on j = s.on j := by
  unfold Dev.finish; (repeat' split) <;> rfl
@[simp] theorem Dev.finish_rd2 (s : Dev) (mb a b c : Nat) (l : List Byte) (j : Nat) : (s.finish mb a b c l).rd2 j = s.rd2 j := by
  unfold Dev.finish; (repeat' split) <;> rfl

/-! ### Loops over lists, and conditional operations -/

/-- What every turn of a loop keeps, the loop keeps. -/
theorem Dev.each_keeps {α : Type} {P : Dev → Prop} (l : List α) (f : Dev → α → Dev) (s : Dev)
    (hf : ∀ s a, P s → P (f s a)) (hs : P s) : P (Dev.each l f s) := by
  induction l generalizing s with
  | nil => exact hs
  | cons a r ih => exact ih _ (hf s a hs)

/-- A value that no turn of a loop changes, the loop does not change. -/
theorem Dev.each_eq {α β : Type} (g : Dev → β) (l : List α) (f : Dev → α → Dev) (s : Dev)
    (hf : ∀ s a, g (f s a) = g s) : g (Dev.each l f s) = g s :=
  Dev.each_keeps (P := fun x => g x = g s) l f s (fun x a h => (hf x a).trans h) rfl

@[simp] theorem Dev.each_nil {α : Type} (f : Dev → α → Dev) (s : Dev) : Dev.each [] f s = s := rfl

@[simp] theorem Dev.each_cons {α : Type} (a : α) (r : List α) (f : Dev → α → Dev) (s : Dev) :
    Dev.each (a :: r) f s = Dev.each r f (f s a) := rfl

@[simp] theorem Dev.when_true (f : Dev → Dev) (s : Dev) : Dev.when true f s = f s := rfl

@[simp] theorem Dev.when_false (f : Dev → Dev) (s : Dev) : Dev.when false f s = s := rfl

/-- A value that the operation does not change, it does not change when conditional. -/
theorem Dev.when_eq {β : Type} (g : Dev → β) (c : Bool) (f : Dev → Dev) (s : Dev) (hf : g (f s) = g s) :
    g (Dev.when c f s) = g s := by cases c <;> simp [Dev.when, hf]

/-! ### The shape of exec -/

@[simp] theorem State.fresh_mem (s : State) : s.fresh.mem = s.mem := rfl
@[simp] theorem State.fresh_pending (s : State) : s.fresh.pending = s.pending := rfl
@[simp] theorem State.fresh_regs (s : State) : s.fresh.dev.regs = s.dev.regs := rfl
@[simp] theorem State.fresh_pins (s : State) : s.fresh.dev.pins = s.dev.pins := rfl
@[simp] theorem State.fresh_reg (s : State) (j : Nat) : s.fresh.dev.reg j = s.dev.reg j := rfl
@[simp] theorem State.fresh_rd (s : State) (f : Fld) : s.fresh.dev.rd f = s.dev.rd f := rfl
@[simp] theorem State.fresh_on (s : State) (f : Fld) : s.fresh.dev.on f = s.dev.on f := rfl
@[simp] theorem State.fresh_rd2 (s : State) (j : Nat) : s.fresh.dev.rd2 j = s.dev.rd2 j := rfl

/-- With RESET_N high a command of the block alone does exactly its operation. -/
theorem State.onDev_next (s : State) (f : Dev → Dev) (h : s.dev.pins.resetN = true) :
    s.onDev f = .next { s with dev := f s.fresh.dev } := by
  simp [State.onDev, Dev.live, h]

theorem State.onAll_next (s : State) (f : State → State) (h : s.dev.pins.resetN = true) :
    s.onAll f = .next (f s.fresh) := by
  simp [State.onAll, h]

/-- A command of the block alone leaves mailbox memory and the queue. -/
theorem State.onDev_frame (s t : State) (f : Dev → Dev) (h : s.onDev f = .next t) : t.mem = s.mem ∧ t.pending = s.pending := by
  simp only [State.onDev, Host.Outcome.next.injEq] at h
  subst h
  exact ⟨rfl, rfl⟩

end Sys2Proof.Machine
end

