-- ==== Sys2Proof/Laws/Window.lean ====
section
/-!
SUPPORT. Which windows of BAR0 each shared operation writes: a relation that composes, and one law per operation.
-/
namespace Sys2Proof.Machine

theorem Dev.Within.refl (w : List Nat) (s : Dev) : Dev.Within w s s := fun _ _ => rfl

theorem Dev.Within.trans {w : List Nat} {s t u : Dev} (h : Dev.Within w s t) (k : Dev.Within w t u) : Dev.Within w s u :=
  fun off ho => (k off ho).trans (h off ho)

theorem Dev.Within.mono {w v : List Nat} {s t : Dev} (h : Dev.Within w s t) (hs : ∀ b ∈ w, b ∈ v) : Dev.Within v s t :=
  fun off ho => h off (fun hb => ho (hs _ hb))

/-- An operation that leaves the registers writes no window. -/
theorem Dev.Within.of_regs {w : List Nat} {s t : Dev} (h : t.regs = s.regs) : Dev.Within w s t :=
  fun _ _ => by simp [Dev.reg, h]

theorem Dev.Within.setReg {w : List Nat} (s : Dev) (k : Nat) (v : Word) (h : blockOf k ∈ w) : Dev.Within w s (s.setReg k v) :=
  fun off ho => Dev.reg_setReg_ne s (k := k) (j := off) (fun e => ho (by rw [← e]; exact h)) v

theorem Dev.Within.wr {w : List Nat} (s : Dev) (f : Fld) (v : Nat) (h : blockOf f.reg ∈ w) : Dev.Within w s (s.wr f v) :=
  Dev.Within.setReg s _ _ h

theorem Dev.Within.wrB {w : List Nat} (s : Dev) (f : Fld) (b : Bool) (h : blockOf f.reg ∈ w) : Dev.Within w s (s.wrB f b) :=
  Dev.Within.wr s f _ h

theorem Dev.Within.count {w : List Nat} (s : Dev) (f : Fld) (n : Nat) (h : blockOf f.reg ∈ w) :
    Dev.Within w s (s.count f n) := Dev.Within.wr s f _ h

theorem Dev.Within.wr2 {w : List Nat} (s : Dev) (k v : Nat) (h : blockOf k ∈ w) (h' : blockOf (k + 4) ∈ w) :
    Dev.Within w s (s.wr2 k v) := (Dev.Within.setReg s _ _ h).trans (Dev.Within.setReg _ _ _ h')

theorem Dev.Within.event {w : List Nat} (s : Dev) (f : Fld) (h : blockOf f.reg ∈ w) : Dev.Within w s (s.event f) :=
  fun off ho => Dev.reg_event_ne s (j := off) (fun e => ho (by rw [← e]; exact h))

theorem Dev.Within.raise {w : List Nat} (s : Dev) (c v : Nat) (r : BitVec 28) (i : Nat) (h : Bool) :
    Dev.Within w s (s.raise c v r i h) := Dev.Within.of_regs (Dev.raise_regs s c v r i h)

theorem Dev.Within.each {α : Type} {w : List Nat} (l : List α) (f : Dev → α → Dev) (s : Dev)
    (hf : ∀ s a, a ∈ l → Dev.Within w s (f s a)) : Dev.Within w s (Dev.each l f s) := by
  induction l generalizing s with
  | nil => exact .refl w s
  | cons a r ih =>
    exact (hf s a List.mem_cons_self).trans (ih (f s a) (fun s b hb => hf s b (List.mem_cons_of_mem a hb)))

theorem Dev.Within.when {w : List Nat} (c : Bool) (f : Dev → Dev) (s : Dev) (hf : Dev.Within w s (f s)) :
    Dev.Within w s (Dev.when c f s) := by cases c <;> simp [Dev.when, hf, Dev.Within.refl]

/-- What reads in an untouched window reads as before. -/
theorem Dev.Within.rd {w : List Nat} {s t : Dev} (h : Dev.Within w s t) (f : Fld) (hf : blockOf f.reg ∉ w) :
    t.rd f = s.rd f := by simp [Dev.rd, h _ hf]

theorem Dev.Within.on {w : List Nat} {s t : Dev} (h : Dev.Within w s t) (f : Fld) (hf : blockOf f.reg ∉ w) :
    t.on f = s.on f := by simp [Dev.on, h.rd f hf]

theorem Dev.Within.rd2 {w : List Nat} {s t : Dev} (h : Dev.Within w s t) (k : Nat) (hk : blockOf k ∉ w)
    (hk' : blockOf (k + 4) ∉ w) : t.rd2 k = s.rd2 k := by simp [Dev.rd2, h _ hk, h _ hk']

/-! ### Shared operations -/

/-- A performance-counter event writes PC's window only. -/
theorem Dev.pcClock_within (s : Dev) (e n : Nat) (v : Option Nat) : Dev.Within [21] s (s.pcClock e n v) := by
  refine Dev.Within.each _ _ _ (fun s j hj => ?_)
  have hj : j < 16 := List.mem_range.mp hj
  split
  · refine Dev.Within.wr2 s _ _ ?_ ?_ <;> simp only [R.PC_EVCNT_LO, blockOf, List.mem_singleton] <;> omega
  · exact .refl _ s

theorem Dev.msix_within (s : Dev) (v : Nat) (h : v < 64) : Dev.Within [0] s (s.msix v) := by
  unfold Dev.msix
  split
  · refine Dev.Within.setReg s _ _ ?_
    simp only [blockOf, List.mem_singleton]; omega
  · exact .of_regs rfl

/-- A frame of the report ports writes the two ports' windows only. -/
theorem Dev.rpSend_within (s : Dev) (c : Fld) (l : List Byte) (h : blockOf c.reg = 13) :
    Dev.Within [13, 14] s (s.rpSend c l) := by
  refine Dev.Within.each _ _ _ (fun s p _ => ?_)
  split
  · refine Dev.Within.trans (.of_regs rfl) (Dev.Within.count _ _ _ ?_)
    simp only [blockOf] at h
    cases p <;> simp only [rpFld, portBase, blockOf, List.mem_cons, List.not_mem_nil, or_false] <;> omega
  · exact .refl _ s

theorem Dev.setVatBit_within {w : List Nat} (s : Dev) (k v : Nat) (h : blockOf k ∈ w) (h' : blockOf (k + 4) ∈ w) :
    Dev.Within w s (s.setVatBit k v) := Dev.Within.wr2 s _ _ h h'

theorem Dev.bankApply_within (s : Dev) (o : BankOp) : Dev.Within [12, 21] s (s.bankApply o) := by
  cases o with
  | add i o inc =>
    rw [Dev.bankApply.eq_def]; dsimp -zeta only
    extract_lets t s1 first s2
    split
    · have h2 : Dev.Within [12, 21] s s2 :=
        (Dev.Within.trans (.of_regs rfl) (Dev.Within.count s1 F.DE_BEAD_SAT 1 (by decide))).trans (Dev.Within.event _ _ (by decide))
      exact h2.trans (Dev.Within.when _ _ _ (Dev.Within.raise _ _ _ _ _ _))
    · exact .of_regs rfl
  | drain k i o dr =>
    rw [Dev.bankApply.eq_def]; dsimp -zeta only
    extract_lets b d s1 _
    split
    · exact .of_regs rfl
    · refine Dev.Within.trans ?_ (Dev.Within.mono (Dev.pcClock_within _ 0x0C07 d none) (by simp))
      exact .of_regs rfl
  | refund k =>
    rw [Dev.bankApply.eq_def]; dsimp -zeta only
    exact Dev.Within.trans (.of_regs rfl) (Dev.Within.each _ _ _ (fun s d _ => .of_regs rfl))
  | age i o => exact .of_regs rfl

theorem Dev.bankOp_within (s : Dev) (o : BankOp) : Dev.Within [12, 21] s (s.bankOp o) := by
  unfold Dev.bankOp
  split
  · split
    · exact s.bankApply_within o
    · exact .of_regs rfl
  · exact s.bankApply_within o

theorem Dev.refund_within (s : Dev) (k : Nat) : Dev.Within [12, 21] s (s.refund k) := s.bankOp_within _

/-- A granted register access counts in PC's window only. -/
theorem Dev.bpCount_within (s : Dev) (js : List Nat) (e n : Nat) (h : ∀ j ∈ js, j < 8) :
    Dev.Within [21] s (s.bpCount js e n) := by
  refine Dev.Within.each _ _ _ (fun s j hj => ?_)
  have hj := h j hj
  split
  · refine Dev.Within.wr2 s _ _ ?_ ?_ <;> simp only [R.PC_BPCNT_LO, blockOf, List.mem_singleton] <;> omega
  · exact .refl _ s

theorem Dev.bpPasses_lt (s : Dev) (w : BmW) : ∀ j ∈ s.bpPasses w, j < 8 := fun _ hj =>
  List.mem_range.mp (List.mem_of_mem_filter hj)

theorem Dev.bpBeats_within (s : Dev) (w : BmW) (h : ∀ j ∈ w.grantedFor, j < 8) : Dev.Within [21] s (s.bpBeats w) :=
  ((s.bpCount_within _ _ _ h).trans (Dev.bpCount_within _ _ _ _ h)).trans (Dev.bpCount_within _ _ _ _ h)

theorem Dev.bpGrant_within (s : Dev) (w : BmW) (h : ∀ j ∈ w.grantedFor, j < 8) : Dev.Within [21] s (s.bpGrant w) := by
  unfold Dev.bpGrant
  split
  · exact (s.bpCount_within _ _ _ h).trans (Dev.bpBeats_within _ _ h)
  · exact s.bpCount_within _ _ _ h

theorem Dev.viaW_lt (s : Dev) (via : Via) (off : Nat) (wr : Bool) : ∀ j ∈ (s.viaW via off wr).grantedFor, j < 8 :=
  s.bpPasses_lt _

theorem Dev.t6_within (via : Via) (off : Nat) (wr : Bool) (s : Dev) : Dev.Within [21] s (s.t6 via off wr) := by
  unfold Dev.t6 Dev.when
  refine Dev.Within.trans (t := if (!wr) = true then _ else _) ?_ (.of_regs rfl)
  split
  · exact (s.bpGrant_within _ (s.viaW_lt _ _ _)).trans (Dev.bpBeats_within _ _ (s.viaW_lt _ _ _))
  · exact s.bpGrant_within _ (s.viaW_lt _ _ _)

theorem Dev.formNext_within (s : Dev) : Dev.Within [11] s s.formNext := by
  unfold Dev.formNext
  split
  · exact (Dev.Within.wr _ _ _ (by decide)).trans (Dev.Within.wrB _ _ _ (by decide))
  · exact .refl _ s

/-- A cancelled slot touches GL, DE, the report ports' counters and PC. -/
theorem Dev.cancelSlot_within (r : Nat) (s : Dev) (x : Slot) : Dev.Within [11, 12, 13, 14, 21] s (s.cancelSlot r x) := by
  unfold Dev.cancelSlot
  extract_lets off g com y s1 c s2 s3 s4
  have h3 : Dev.Within [11, 12, 13, 14, 21] s s3 :=
    (Dev.Within.trans (t := s2) (.of_regs rfl) (Dev.Within.count s2 _ _ (by decide))).trans (Dev.Within.event _ _ (by decide))
  have h4 : Dev.Within [11, 12, 13, 14, 21] s s4 :=
    h3.trans (Dev.Within.when _ _ _ ((Dev.rpSend_within _ _ _ (by decide)).mono (by simp)))
  have h5 := h4.trans ((Dev.refund_within s4 x.k).mono (by simp))
  exact (h5.trans ((Dev.formNext_within _).mono (by simp))).trans (.of_regs rfl)

theorem Dev.cancelAll_within (r : Nat) (s : Dev) : Dev.Within [11, 12, 13, 14, 21] s (s.cancelAll r) :=
  Dev.Within.each _ _ _ (fun s x _ => s.cancelSlot_within r x)

/-- What GL's inhibits bring about (06 R141, R142) touches GL, DE, the report ports' counters and PC. -/
theorem Dev.glSync_within (s : Dev) : Dev.Within [11, 12, 13, 14, 21] s s.glSync := by
  unfold Dev.glSync
  extract_lets old new s1 fresh s2 s3
  have h1 : Dev.Within [11, 12, 13, 14, 21] s s1 :=
    ((Dev.Within.wr _ _ _ (by decide)).trans (Dev.Within.wrB _ _ _ (by decide))).trans (Dev.Within.wrB _ _ _ (by decide))
  have h2 : Dev.Within [11, 12, 13, 14, 21] s s2 := h1.trans (Dev.Within.when _ _ _ (Dev.Within.event _ _ (by decide)))
  have h3 : Dev.Within [11, 12, 13, 14, 21] s s3 := h2.trans (Dev.Within.when _ _ _ (Dev.Within.event _ _ (by decide)))
  split
  · exact h1
  · split
    · exact h3.trans (Dev.cancelAll_within _ _)
    · exact h3

theorem Dev.setHeld_within (s : Dev) (v : Nat) (b : Bool) : Dev.Within [6] s (s.setHeld v b) :=
  Dev.Within.wr2 s _ _ (by decide) (by decide)

theorem Dev.raiseCond_within (s : Dev) (k c v i : Nat) (h : blockOf k = 18) (h' : blockOf (k + 4) = 18) :
    Dev.Within [11, 12, 13, 14, 18, 21] s (s.raiseCond k c v i) := by
  unfold Dev.raiseCond
  exact ((Dev.Within.raise _ _ _ _ _ _).trans (Dev.setVatBit_within _ _ _ (by simp [h]) (by simp [h']))).trans
    ((Dev.glSync_within _).mono (by simp))

theorem Dev.blkFlush_regs (s : Dev) (v : Nat) : (s.blkFlush v).regs = s.regs := by
  unfold Dev.blkFlush; split
  · rfl
  · exact Dev.each_eq (·.regs) _ _ _ fun _ _ => rfl
  · split <;> rfl

theorem Dev.sendFour_regs (s : Dev) (v : Nat) (b : LinkBlk) : (s.sendFour v b).regs = s.regs := by
  unfold Dev.sendFour; split
  · exact Dev.blkFlush_regs _ v
  · rfl

theorem Dev.holdBlocks_regs (s : Dev) (v r e : Nat) : (s.holdBlocks v r e).regs = s.regs := s.sendFour_regs v _

theorem Dev.holdVat_within (r e : Nat) (s : Dev) (v : Nat) : Dev.Within [6] s (s.holdVat r e v) := by
  unfold Dev.holdVat
  extract_lets s1
  have h1 : Dev.Within [6] s (s1.holdBlocks v r e) := .of_regs (s1.holdBlocks_regs v r e)
  exact h1.trans (Dev.setHeld_within _ _ _)

end Sys2Proof.Machine
end

