-- ==== Sys2Proof/Laws/Keeps.lean ====
section
/-!
SUPPORT. Which parts of the block each shared operation leaves the same: a relation that composes, and one law per
operation.
-/
namespace Sys2Proof.Machine

theorem Part.Same.refl (s : Dev) (p : Part) : Part.Same s s p := by cases p <;> rfl

theorem Part.Same.trans {s t u : Dev} {p : Part} (h : Part.Same s t p) (k : Part.Same t u p) : Part.Same s u p := by
  cases p <;> exact Eq.trans k h

theorem Dev.Keeps.refl (l : List Part) (s : Dev) : Dev.Keeps l s s := fun p _ => .refl s p

theorem Dev.Keeps.trans {l : List Part} {s t u : Dev} (h : Dev.Keeps l s t) (k : Dev.Keeps l t u) : Dev.Keeps l s u :=
  fun p hp => (h p hp).trans (k p hp)

theorem Dev.Keeps.mono {l m : List Part} {s t : Dev} (h : Dev.Keeps l s t) (hs : ∀ p ∈ l, p ∈ m) : Dev.Keeps m s t :=
  fun p hp => h p (fun hq => hp (hs p hq))

theorem Dev.Keeps.each {α : Type} {l : List Part} (r : List α) (f : Dev → α → Dev) (s : Dev)
    (hf : ∀ s a, a ∈ r → Dev.Keeps l s (f s a)) : Dev.Keeps l s (Dev.each r f s) := by
  induction r generalizing s with
  | nil => exact .refl l s
  | cons a r ih =>
    exact (hf s a List.mem_cons_self).trans (ih (f s a) (fun s b hb => hf s b (List.mem_cons_of_mem a hb)))

theorem Dev.Keeps.when {l : List Part} (c : Bool) (f : Dev → Dev) (s : Dev) (hf : Dev.Keeps l s (f s)) :
    Dev.Keeps l s (Dev.when c f s) := by cases c <;> simp [Dev.when, hf, Dev.Keeps.refl]

/-! ### Operations on registers and messages -/

theorem Dev.Keeps.setReg (s : Dev) (k : Nat) (v : Word) : Dev.Keeps [] s (s.setReg k v) := fun p _ => by cases p <;> rfl
theorem Dev.Keeps.wr (s : Dev) (f : Fld) (v : Nat) : Dev.Keeps [] s (s.wr f v) := fun p _ => by cases p <;> rfl
theorem Dev.Keeps.wrB (s : Dev) (f : Fld) (b : Bool) : Dev.Keeps [] s (s.wrB f b) := fun p _ => by cases p <;> rfl
theorem Dev.Keeps.wr2 (s : Dev) (k v : Nat) : Dev.Keeps [] s (s.wr2 k v) := fun p _ => by cases p <;> rfl
theorem Dev.Keeps.count (s : Dev) (f : Fld) (n : Nat) : Dev.Keeps [] s (s.count f n) := fun p _ => by cases p <;> rfl
theorem Dev.Keeps.send (s : Dev) (t : Tx) : Dev.Keeps [] s (s.send t) := fun p _ => by cases p <;> rfl
theorem Dev.Keeps.add64 (s : Dev) (k n : Nat) : Dev.Keeps [] s (s.add64 k n) := fun p _ => by cases p <;> rfl
theorem Dev.Keeps.setVatBit (s : Dev) (k v : Nat) : Dev.Keeps [] s (s.setVatBit k v) := fun p _ => by cases p <;> rfl

/-- A frame that holds of everything holds of less. -/
theorem Dev.Keeps.all {l : List Part} {s t : Dev} (h : Dev.Keeps [] s t) : Dev.Keeps l s t := h.mono (by simp)

theorem Dev.Keeps.event (s : Dev) (f : Fld) : Dev.Keeps [.evq] s (s.event f) := by
  intro p hp
  unfold Dev.event
  split
  · exact .refl s p
  · split <;> cases p <;> first | rfl | exact absurd (by decide) hp

theorem Dev.Keeps.raise (s : Dev) (c v : Nat) (r : BitVec 28) (i : Nat) (h : Bool) :
    Dev.Keeps [.fc, .freeCtr] s (s.raise c v r i h) := by
  intro p hp
  unfold Dev.raise
  dsimp only
  split <;> cases p <;> first | rfl | exact absurd (by decide) hp

theorem Dev.Keeps.trace (s : Dev) (t : Trec) : Dev.Keeps [.trc] s (s.trace t) :=
  fun p hp => by cases p <;> first | rfl | exact absurd (by decide) hp

theorem Dev.Keeps.emit (s : Dev) (e : Ev) : Dev.Keeps [.evq] s (s.emit e) :=
  fun p hp => by cases p <;> first | rfl | exact absurd (by decide) hp

theorem Dev.Keeps.msix (s : Dev) (v : Nat) : Dev.Keeps [] s (s.msix v) := by
  unfold Dev.msix
  split
  · exact Dev.Keeps.setReg _ _ _
  · exact Dev.Keeps.send _ _

theorem Dev.Keeps.pcClock (s : Dev) (e n : Nat) (v : Option Nat) : Dev.Keeps [] s (s.pcClock e n v) := by
  refine Dev.Keeps.each _ _ _ (fun s j _ => ?_)
  split
  · exact Dev.Keeps.add64 _ _ _
  · exact .refl _ s

theorem Dev.Keeps.pcFrame (s : Dev) (e n : Nat) (v : Option Nat) : Dev.Keeps [.pc] s (s.pcFrame e n v) := by
  refine Dev.Keeps.each _ _ _ (fun s j _ => ?_)
  split
  · exact fun p hp => by cases p <;> first | rfl | exact absurd (by decide) hp
  · exact .refl _ s

theorem Dev.Keeps.rpSend (s : Dev) (c : Fld) (l : List Byte) : Dev.Keeps [] s (s.rpSend c l) := by
  refine Dev.Keeps.each _ _ _ (fun s p _ => ?_)
  split
  · exact (Dev.Keeps.send _ _).trans (Dev.Keeps.count _ _ _)
  · exact .refl _ s

theorem Dev.Keeps.modVat (s : Dev) (v : Nat) (f : Vat → Vat) : Dev.Keeps [.vl] s (s.modVat v f) :=
  fun p hp => by cases p <;> first | rfl | exact absurd (by decide) hp

theorem Dev.Keeps.modLane (s : Dev) (v : Nat) (f : Lane → Lane) : Dev.Keeps [.vl] s (s.modLane v f) :=
  fun p hp => by cases p <;> first | rfl | exact absurd (by decide) hp

theorem Dev.Keeps.setBead (s : Dev) (i o v : Nat) : Dev.Keeps [.de] s (s.setBead i o v) :=
  fun p hp => by cases p <;> first | rfl | exact absurd (by decide) hp

/-- Completing a command touches its mailbox only. -/
theorem Dev.Keeps.finish (s : Dev) (mb a b c : Nat) (l : List Byte) : Dev.Keeps [.mbx] s (s.finish mb a b c l) := by
  intro p hp
  unfold Dev.finish
  split <;> cases p <;> first | rfl | exact absurd (by decide) hp

/-! ### The abacus, the inhibits and holds -/

theorem Dev.Keeps.bankApply (s : Dev) (o : BankOp) : Dev.Keeps [.de, .evq, .fc, .freeCtr] s (s.bankApply o) := by
  cases o with
  | add i o inc =>
    rw [Dev.bankApply.eq_def]; dsimp -zeta only
    extract_lets t s1 first s2
    have h1 : Dev.Keeps [.de, .evq, .fc, .freeCtr] s s1 := (Dev.Keeps.setBead _ _ _ _).mono (by simp)
    split
    · have h2 : Dev.Keeps [.de, .evq, .fc, .freeCtr] s s2 :=
        (h1.trans (Dev.Keeps.count s1 _ _).all).trans ((Dev.Keeps.event _ _).mono (by simp))
      exact h2.trans (Dev.Keeps.when _ _ _ ((Dev.Keeps.raise _ _ _ _ _ _).mono (by simp)))
    · exact h1
  | drain k i o dr =>
    rw [Dev.bankApply.eq_def]; dsimp -zeta only
    extract_lets b d s1 _
    have h1 : Dev.Keeps [.de, .evq, .fc, .freeCtr] s s1 := (Dev.Keeps.setBead _ _ _ _).mono (by simp)
    split
    · exact h1
    · refine (h1.trans ?_).trans (Dev.Keeps.pcClock _ 0x0C07 d none).all
      exact fun p hp => by cases p <;> first | rfl | exact absurd (by decide) hp
  | refund k =>
    rw [Dev.bankApply.eq_def]; dsimp -zeta only
    refine Dev.Keeps.trans (t := { s with de := { s.de with drained := s.de.drained.filter (fun d => d.1 != k) } })
      (fun p hp => by cases p <;> first | rfl | exact absurd (by decide) hp) ?_
    refine Dev.Keeps.each _ _ _ ?_
    intro s d _
    exact (Dev.Keeps.setBead s _ _ _).mono (by simp)
  | age i o => exact fun p hp => by cases p <;> first | rfl | exact absurd (by decide) hp

theorem Dev.Keeps.bankOp (s : Dev) (o : BankOp) : Dev.Keeps [.de, .evq, .fc, .freeCtr] s (s.bankOp o) := by
  unfold Dev.bankOp
  split
  · split
    · exact Dev.Keeps.bankApply s o
    · exact fun p hp => by cases p <;> first | rfl | exact absurd (by decide) hp
  · exact Dev.Keeps.bankApply s o

theorem Dev.Keeps.refund (s : Dev) (k : Nat) : Dev.Keeps [.de, .evq, .fc, .freeCtr] s (s.refund k) := by
  exact Dev.Keeps.bankOp s _

theorem Dev.Keeps.bpCount (s : Dev) (js : List Nat) (e n : Nat) : Dev.Keeps [] s (s.bpCount js e n) :=
  Dev.Keeps.each _ _ _ (fun s j _ => by
    split
    · exact Dev.Keeps.add64 _ _ _
    · exact .refl _ s)

theorem Dev.Keeps.bpBeats (s : Dev) (w : BmW) : Dev.Keeps [] s (s.bpBeats w) :=
  ((Dev.Keeps.bpCount _ _ _ _).trans (Dev.Keeps.bpCount _ _ _ _)).trans (Dev.Keeps.bpCount _ _ _ _)

theorem Dev.Keeps.bpGrant (s : Dev) (w : BmW) : Dev.Keeps [] s (s.bpGrant w) := by
  unfold Dev.bpGrant
  split
  · exact (Dev.Keeps.bpCount _ _ _ _).trans (Dev.Keeps.bpBeats _ _)
  · exact Dev.Keeps.bpCount _ _ _ _

/-- A granted register access touches counters, and T6's place in the order of its masters. -/
theorem Dev.Keeps.t6 (via : Via) (off : Nat) (wr : Bool) (s : Dev) : Dev.Keeps [.bm] s (s.t6 via off wr) := by
  unfold Dev.t6 Dev.when
  have h (d : Dev) (t m : Nat) : Dev.Keeps [.bm] d (d.bmPass t m) :=
    fun p hp => by cases p <;> first | rfl | exact absurd (by decide) hp
  refine Dev.Keeps.trans ?_ (h _ _ _)
  split
  · exact ((Dev.Keeps.bpGrant _ _).trans (Dev.Keeps.bpBeats _ _)).all
  · exact (Dev.Keeps.bpGrant _ _).all

theorem Dev.Keeps.formNext (s : Dev) : Dev.Keeps [] s s.formNext := by
  unfold Dev.formNext
  split
  · exact (Dev.Keeps.wr _ _ _).trans (Dev.Keeps.wrB _ _ _)
  · exact .refl _ s

theorem Dev.Keeps.cancelSlot (r : Nat) (s : Dev) (x : Slot) : Dev.Keeps cancelParts s (s.cancelSlot r x) := by
  unfold Dev.cancelSlot
  extract_lets off g com y s1 c s2 s3 s4
  have h2 : Dev.Keeps cancelParts s s2 :=
    fun p hp => by cases p <;> first | rfl | exact absurd (by decide) hp
  have h3 : Dev.Keeps cancelParts s s3 := (h2.trans (Dev.Keeps.count s2 _ _).all).trans ((Dev.Keeps.event _ _).mono (by decide))
  have h4 : Dev.Keeps cancelParts s s4 := h3.trans (Dev.Keeps.when _ _ _ (Dev.Keeps.rpSend _ _ _).all)
  have h5 := h4.trans ((Dev.Keeps.refund s4 x.k).mono (by decide))
  exact (h5.trans (Dev.Keeps.formNext _).all).trans ((Dev.Keeps.trace _ _).mono (by decide))

theorem Dev.Keeps.cancelAll (r : Nat) (s : Dev) : Dev.Keeps cancelParts s (s.cancelAll r) :=
  Dev.Keeps.each _ _ _ (fun s x _ => Dev.Keeps.cancelSlot r s x)

theorem Dev.Keeps.glSync (s : Dev) : Dev.Keeps cancelParts s s.glSync := by
  unfold Dev.glSync
  extract_lets old new s1 fresh s2 s3
  have h1 : Dev.Keeps cancelParts s s1 := ((Dev.Keeps.wr _ _ _).trans ((Dev.Keeps.wrB _ _ _).trans (Dev.Keeps.wrB _ _ _))).all
  have h2 : Dev.Keeps cancelParts s s2 := h1.trans (Dev.Keeps.when _ _ _ ((Dev.Keeps.event _ _).mono (by decide)))
  have h3 : Dev.Keeps cancelParts s s3 := h2.trans (Dev.Keeps.when _ _ _ ((Dev.Keeps.event _ _).mono (by decide)))
  split
  · exact h1
  · split
    · exact h3.trans (Dev.Keeps.cancelAll _ _)
    · exact h3

theorem Dev.Keeps.setHeld (s : Dev) (v : Nat) (b : Bool) : Dev.Keeps [] s (s.setHeld v b) := Dev.Keeps.wr2 _ _ _

theorem Dev.Keeps.raiseCond (s : Dev) (k c v i : Nat) : Dev.Keeps cancelParts s (s.raiseCond k c v i) := by
  unfold Dev.raiseCond
  exact (((Dev.Keeps.raise _ _ _ _ _ _).mono (by decide)).trans (Dev.Keeps.setVatBit _ _ _).all).trans (Dev.Keeps.glSync _)

theorem Dev.Keeps.fourCopies (v : Nat) (s : Dev) (b : LinkBlk) : Dev.Keeps [] s (s.fourCopies v b) :=
  fun p _ => by cases p <;> rfl

theorem Dev.Keeps.blkFlush (s : Dev) (v : Nat) : Dev.Keeps [.vl] s (s.blkFlush v) := by
  unfold Dev.blkFlush; split
  · exact .refl _ _
  · exact (Dev.Keeps.each _ _ _ (fun s b _ => Dev.Keeps.fourCopies v s b)).all.trans (Dev.Keeps.modVat _ _ _)
  · split
    · exact .refl _ _
    · exact (Dev.Keeps.fourCopies v s _).all.trans (Dev.Keeps.modVat _ _ _)

theorem Dev.Keeps.holdVat (r e : Nat) (s : Dev) (v : Nat) : Dev.Keeps [.vl] s (s.holdVat r e v) := by
  unfold Dev.holdVat
  extract_lets s1
  have h1 : Dev.Keeps [.vl] s s1 := Dev.Keeps.modVat _ _ _
  have h2 : Dev.Keeps [.vl] s (s1.holdBlocks v r e) := h1.trans (by
    unfold Dev.holdBlocks Dev.sendFour; split
    · exact (Dev.Keeps.modVat _ _ _).trans (Dev.Keeps.blkFlush _ _)
    · exact .refl _ _)
  exact h2.trans (Dev.Keeps.setHeld _ _ _).all

theorem Dev.Keeps.unhold (r : Nat) (s : Dev) (v : Nat) : Dev.Keeps [.vl] s (s.unhold r v) := Dev.Keeps.modVat _ _ _

/-! ### Frames of whole commands -/

/-- The frame of a command that works on the block alone, from those of its operation. -/
theorem Only.of {w : List Nat} {l : List Part} {s : State} {d : Dev} (h : Dev.Within w s.fresh.dev d)
    (k : Dev.Keeps l s.fresh.dev d) : Only w l s { s with dev := d } :=
  ⟨h, Dev.Keeps.trans (t := s.fresh.dev) (fun p _ => by cases p <;> rfl) k, fun _ => rfl, rfl⟩

theorem Writes.of {e : Dev} {l : List Part} {s : State} {d : Dev} (h : Dev.RegsAs e d) (k : Dev.Keeps l e d) :
    Writes e l s { s with dev := d } := ⟨h, k, fun _ => rfl, rfl⟩

end Sys2Proof.Machine
end

