-- ==== Sys2Proof/Laws/PerInstr.lean ====
section
/-!
SUPPORT. One lemma per command of the family Block: spec/opcode_table.json gives its rows no bits, so no word spells it (log 1).
-/
namespace Sys2Proof.Laws.Block

/-- No word of the table spells the command. -/
def Statement (i : Instr) : Prop := ∀ nbits w : Nat, decodeTableWord nbits w ≠ some i

theorem frameStrobe : Statement .frameStrobe := fun _ _ h => nomatch h
theorem phaseStrobe (v : BitVec 6) (p : BitVec 3) : Statement (.phaseStrobe v p) := fun _ _ h => nomatch h
theorem segmentHandover (e : Eng) (v : BitVec 6) (g : Seg) (flips : List Flip) : Statement (.segmentHandover e v g flips) := fun _ _ h => nomatch h
theorem noseg (late : Eng) (v : BitVec 6) (g : Seg) : Statement (.noseg late v g) := fun _ _ h => nomatch h
theorem frameClose : Statement .frameClose := fun _ _ h => nomatch h
theorem driveFrameDeadline (v : BitVec 6) : Statement (.driveFrameDeadline v) := fun _ _ h => nomatch h
theorem sampleStrobe (residue : BitVec 32) (aonInc : Option (BitVec 64)) : Statement (.sampleStrobe residue aonInc) := fun _ _ h => nomatch h
theorem sofS (lane : BitVec 7) (b : SofS) : Statement (.sofS lane b) := fun _ _ h => nomatch h
theorem senseSegment (lane : BitVec 7) (j : BitVec 4) (d : SenseSeg) : Statement (.senseSegment lane j d) := fun _ _ h => nomatch h
theorem releaseSend (v : BitVec 6) : Statement (.releaseSend v) := fun _ _ h => nomatch h
theorem drsp (lane : BitVec 7) (d : Drsp) : Statement (.drsp lane d) := fun _ _ h => nomatch h
theorem delayExchangeDue (lane : BitVec 7) (nonce : Byte) (t1 : BitVec 64) : Statement (.delayExchangeDue lane nonce t1) := fun _ _ h => nomatch h
theorem trn (lane : BitVec 7) (t : Trn) : Statement (.trn lane t) := fun _ _ h => nomatch h
theorem detectDone (lane : BitVec 7) (openP : Bool) (openN : Bool) (short : Bool) : Statement (.detectDone lane openP openN short) := fun _ _ h => nomatch h
theorem blockLock (lane : BitVec 7) (ms : List Meas) : Statement (.blockLock lane ms) := fun _ _ h => nomatch h
theorem lockLost (lane : BitVec 7) : Statement (.lockLost lane) := fun _ _ h => nomatch h
theorem openShortDetect (lane : BitVec 7) (openP : Bool) (openN : Bool) (short : Bool) : Statement (.openShortDetect lane openP openN short) := fun _ _ h => nomatch h
theorem trainingTimeout (lane : BitVec 7) : Statement (.trainingTimeout lane) := fun _ _ h => nomatch h
theorem faultRetry (lane : BitVec 7) : Statement (.faultRetry lane) := fun _ _ h => nomatch h
theorem retrain (via : Via) (lane : BitVec 7) (v : Word) : Statement (.retrain via lane v) := fun _ _ h => nomatch h
theorem laneEnableWrite (via : Via) (lane : BitVec 7) (v : Word) : Statement (.laneEnableWrite via lane v) := fun _ _ h => nomatch h
theorem bKMinus2 : Statement .bKMinus2 := fun _ _ h => nomatch h
theorem defaultRead (r : Ecc) : Statement (.defaultRead r) := fun _ _ h => nomatch h
theorem slotBoundary : Statement .slotBoundary := fun _ _ h => nomatch h
theorem chooserStart : Statement .chooserStart := fun _ _ h => nomatch h
theorem updatesReleased : Statement .updatesReleased := fun _ _ h => nomatch h
theorem chooserResult (sram : Bool) (r : Ecc) : Statement (.chooserResult sram r) := fun _ _ h => nomatch h
theorem activationSample : Statement .activationSample := fun _ _ h => nomatch h
theorem planRetire : Statement .planRetire := fun _ _ h => nomatch h
theorem glPauseWrite (via : Via) (v : Word) : Statement (.glPauseWrite via v) := fun _ _ h => nomatch h
theorem report (p : Port) (f : RxFrame) (pdu : List Byte) : Statement (.report p f pdu) := fun _ _ h => nomatch h
theorem rpFrameRx (p : Port) (f : RxFrame) (etype : BitVec 16) (pdu : List Byte) : Statement (.rpFrameRx p f etype pdu) := fun _ _ h => nomatch h
theorem meterEntry (g : BitVec 4) : Statement (.meterEntry g) := fun _ _ h => nomatch h
theorem rodStale (rod : BitVec 10) : Statement (.rodStale rod) := fun _ _ h => nomatch h
theorem portDown (p : Port) : Statement (.portDown p) := fun _ _ h => nomatch h
theorem portUp (p : Port) : Statement (.portUp p) := fun _ _ h => nomatch h
theorem ptpSync (p : Port) (h : PtpHdr) (seq : BitVec 16) (twoStep : Bool) (origin : Int) (rx : Int) : Statement (.ptpSync p h seq twoStep origin rx) := fun _ _ h => nomatch h
theorem ptpFollowUp (p : Port) (h : PtpHdr) (seq : BitVec 16) (origin : Int) : Statement (.ptpFollowUp p h seq origin) := fun _ _ h => nomatch h
theorem ptpAnnounce (p : Port) (h : PtpHdr) (a : Announce) : Statement (.ptpAnnounce p h a) := fun _ _ h => nomatch h
theorem ptpDelayResp (p : Port) (h : PtpHdr) (peer : Bool) (seq : BitVec 16) (t1 : Int) (t2 : Int) (t3 : Int) (t4 : Int) : Statement (.ptpDelayResp p h peer seq t1 t2 t3 t4) := fun _ _ h => nomatch h
theorem ptpRequestSend (p : Port) : Statement (.ptpRequestSend p) := fun _ _ h => nomatch h
theorem announceReceiptTimeout (p : Port) : Statement (.announceReceiptTimeout p) := fun _ _ h => nomatch h
theorem syncTimeout (p : Port) : Statement (.syncTimeout p) := fun _ _ h => nomatch h
theorem tbUncRecompute : Statement .tbUncRecompute := fun _ _ h => nomatch h
theorem refLoss (r : RefIn) : Statement (.refLoss r) := fun _ _ h => nomatch h
theorem refUsable (r : RefIn) : Statement (.refUsable r) := fun _ _ h => nomatch h
theorem ppsEdge (falling : Bool) (shorter : Bool) (periodOk : Bool) (diff : Int) : Statement (.ppsEdge falling shorter periodOk diff) := fun _ _ h => nomatch h
theorem ppsOut (rise : Bool) : Statement (.ppsOut rise) := fun _ _ h => nomatch h
theorem srcChange (via : Via) (v : Word) : Statement (.srcChange via v) := fun _ _ h => nomatch h
theorem hostStep (via : Via) (v : Word) : Statement (.hostStep via v) := fun _ _ h => nomatch h
theorem tbSnap (via : Via) (v : Word) (ns : BitVec 10) (frac : Word) : Statement (.tbSnap via v ns frac) := fun _ _ h => nomatch h
theorem wakeWaitExpiry : Statement .wakeWaitExpiry := fun _ _ h => nomatch h
theorem resyncCopyDone : Statement .resyncCopyDone := fun _ _ h => nomatch h
theorem miswinAgeOut : Statement .miswinAgeOut := fun _ _ h => nomatch h
theorem selftestPassDone (e : Eng) (v : BitVec 6) (stest : Bool) (rom : Bool) (cfg : Bool) : Statement (.selftestPassDone e v stest rom cfg) := fun _ _ h => nomatch h
theorem starved (e : Eng) (v : BitVec 6) : Statement (.starved e v) := fun _ _ h => nomatch h
theorem engineScrub (e : Eng) (v : BitVec 6) (r : Ecc) : Statement (.engineScrub e v r) := fun _ _ h => nomatch h
theorem fsScrub (slot : BitVec 12) (r : Ecc) (passDone : Bool) : Statement (.fsScrub slot r passDone) := fun _ _ h => nomatch h
theorem deScrub (w : DeWord) (r : Ecc) : Statement (.deScrub w r) := fun _ _ h => nomatch h
theorem restoreTestDone (e : Eng) (checks : BitVec 7) (v : BitVec 6) : Statement (.restoreTestDone e checks v) := fun _ _ h => nomatch h
theorem autoRestore (e : Eng) : Statement (.autoRestore e) := fun _ _ h => nomatch h
theorem arbFlt (kind : BitVec 2) : Statement (.arbFlt kind) := fun _ _ h => nomatch h
theorem restoreA (via : Via) (e : Eng) (v : Word) : Statement (.restoreA via e v) := fun _ _ h => nomatch h
theorem removeA (via : Via) (e : Eng) (v : Word) : Statement (.removeA via e v) := fun _ _ h => nomatch h
theorem swap (via : Via) (v : Word) : Statement (.swap via v) := fun _ _ h => nomatch h
theorem errorLine (extra : List Line) (ticks : BitVec 64) : Statement (.errorLine extra ticks) := fun _ _ h => nomatch h
theorem direct : Statement .direct := fun _ _ h => nomatch h
theorem darkTmo : Statement .darkTmo := fun _ _ h => nomatch h
theorem force (via : Via) (v : Word) : Statement (.force via v) := fun _ _ h => nomatch h
theorem exit (via : Via) (v : Word) : Statement (.exit via v) := fun _ _ h => nomatch h
theorem clrFirst (via : Via) (v : Word) : Statement (.clrFirst via v) := fun _ _ h => nomatch h
theorem hsnap (via : Via) (v : Word) : Statement (.hsnap via v) := fun _ _ h => nomatch h
theorem hclr (via : Via) (v : Word) : Statement (.hclr via v) := fun _ _ h => nomatch h
theorem clrNopress (via : Via) (v : Word) : Statement (.clrNopress via v) := fun _ _ h => nomatch h
theorem clrEict (via : Via) (v : Word) : Statement (.clrEict via v) := fun _ _ h => nomatch h
theorem doorbell (via : Via) (mb : BitVec 3) : Statement (.doorbell via mb) := fun _ _ h => nomatch h
theorem statusWordRead (via : Via) (mb : BitVec 3) : Statement (.statusWordRead via mb) := fun _ _ h => nomatch h
theorem planLoad (mb : BitVec 3) : Statement (.planLoad mb) := fun _ _ h => nomatch h
theorem planLoadDone (image : Option (List Byte)) : Statement (.planLoadDone image) := fun _ _ h => nomatch h
theorem planActivate (mb : BitVec 3) : Statement (.planActivate mb) := fun _ _ h => nomatch h
theorem planActivateCancel (mb : BitVec 3) : Statement (.planActivateCancel mb) := fun _ _ h => nomatch h
theorem formWrite (mb : BitVec 3) (form : Option (List Byte)) : Statement (.formWrite mb form) := fun _ _ h => nomatch h
theorem formDelete (mb : BitVec 3) : Statement (.formDelete mb) := fun _ _ h => nomatch h
theorem formRelevel (mb : BitVec 3) : Statement (.formRelevel mb) := fun _ _ h => nomatch h
theorem loopTuneWrite (mb : BitVec 3) : Statement (.loopTuneWrite mb) := fun _ _ h => nomatch h
theorem loopTunePreset (mb : BitVec 3) : Statement (.loopTunePreset mb) := fun _ _ h => nomatch h
theorem loopTuneReseed (mb : BitVec 3) : Statement (.loopTuneReseed mb) := fun _ _ h => nomatch h
theorem loopRead (mb : BitVec 3) : Statement (.loopRead mb) := fun _ _ h => nomatch h
theorem calRunLane (mb : BitVec 3) : Statement (.calRunLane mb) := fun _ _ h => nomatch h
theorem calRunTsdly (mb : BitVec 3) : Statement (.calRunTsdly mb) := fun _ _ h => nomatch h
theorem calRunIsense (mb : BitVec 3) : Statement (.calRunIsense mb) := fun _ _ h => nomatch h
theorem calRunTap (mb : BitVec 3) : Statement (.calRunTap mb) := fun _ _ h => nomatch h
theorem calRunEnd (target : Nat) (lost : Bool) (ms : List Meas) (storeOk : Bool) : Statement (.calRunEnd target lost ms storeOk) := fun _ _ h => nomatch h
theorem charSweep (mb : BitVec 3) : Statement (.charSweep mb) := fun _ _ h => nomatch h
theorem charStop (mb : BitVec 3) : Statement (.charStop mb) := fun _ _ h => nomatch h
theorem injectStart (mb : BitVec 3) : Statement (.injectStart mb) := fun _ _ h => nomatch h
theorem injectStop (mb : BitVec 3) : Statement (.injectStop mb) := fun _ _ h => nomatch h
theorem injectionEnd (id : BitVec 3) : Statement (.injectionEnd id) := fun _ _ h => nomatch h
theorem captureStart (mb : BitVec 3) : Statement (.captureStart mb) := fun _ _ h => nomatch h
theorem captureEnd : Statement .captureEnd := fun _ _ h => nomatch h
theorem pmSetP0 (mb : BitVec 3) : Statement (.pmSetP0 mb) := fun _ _ h => nomatch h
theorem pmSetP1 (mb : BitVec 3) : Statement (.pmSetP1 mb) := fun _ _ h => nomatch h
theorem pmSetP2 (mb : BitVec 3) : Statement (.pmSetP2 mb) := fun _ _ h => nomatch h
theorem pmSetP3 (mb : BitVec 3) : Statement (.pmSetP3 mb) := fun _ _ h => nomatch h
theorem pmSetP4 (mb : BitVec 3) : Statement (.pmSetP4 mb) := fun _ _ h => nomatch h
theorem twinStatusRead (mb : BitVec 3) : Statement (.twinStatusRead mb) := fun _ _ h => nomatch h
theorem twinStatusRestore (mb : BitVec 3) : Statement (.twinStatusRestore mb) := fun _ _ h => nomatch h
theorem twinStatusRemove (mb : BitVec 3) : Statement (.twinStatusRemove mb) := fun _ _ h => nomatch h
theorem twinStatusSwap (mb : BitVec 3) : Statement (.twinStatusSwap mb) := fun _ _ h => nomatch h
theorem nvRecordList (mb : BitVec 3) : Statement (.nvRecordList mb) := fun _ _ h => nomatch h
theorem nvRecordRead (mb : BitVec 3) : Statement (.nvRecordRead mb) := fun _ _ h => nomatch h
theorem nvRecordWrite (mb : BitVec 3) (data : Option (List Byte)) : Statement (.nvRecordWrite mb data) := fun _ _ h => nomatch h
theorem nvRecordErase (mb : BitVec 3) : Statement (.nvRecordErase mb) := fun _ _ h => nomatch h
theorem timeStatus (mb : BitVec 3) : Statement (.timeStatus mb) := fun _ _ h => nomatch h
theorem demandTenantSet (mb : BitVec 3) : Statement (.demandTenantSet mb) := fun _ _ h => nomatch h
theorem demandTenantRead (mb : BitVec 3) : Statement (.demandTenantRead mb) := fun _ _ h => nomatch h
theorem demandTenantClear (mb : BitVec 3) : Statement (.demandTenantClear mb) := fun _ _ h => nomatch h
theorem counterConfigSet (mb : BitVec 3) : Statement (.counterConfigSet mb) := fun _ _ h => nomatch h
theorem counterConfigRead (mb : BitVec 3) : Statement (.counterConfigRead mb) := fun _ _ h => nomatch h
theorem counterConfigClear (mb : BitVec 3) : Statement (.counterConfigClear mb) := fun _ _ h => nomatch h
theorem sysInfo (mb : BitVec 3) : Statement (.sysInfo mb) := fun _ _ h => nomatch h
theorem fwWrite (mb : BitVec 3) (image : Option (List Byte)) : Statement (.fwWrite mb image) := fun _ _ h => nomatch h
theorem sysHoldHold (mb : BitVec 3) : Statement (.sysHoldHold mb) := fun _ _ h => nomatch h
theorem sysHoldRelease (mb : BitVec 3) : Statement (.sysHoldRelease mb) := fun _ _ h => nomatch h
theorem hifUnlockHi (via : Via) (v : Word) : Statement (.hifUnlockHi via v) := fun _ _ h => nomatch h
theorem svcPeriodEnd : Statement .svcPeriodEnd := fun _ _ h => nomatch h
theorem lockoutEnd : Statement .lockoutEnd := fun _ _ h => nomatch h
theorem hifSvcCtlLock (via : Via) (v : Word) : Statement (.hifSvcCtlLock via v) := fun _ _ h => nomatch h
theorem hifSvcCodeHi (via : Via) (v : Word) : Statement (.hifSvcCodeHi via v) := fun _ _ h => nomatch h
theorem hostInterfaceReset (cause : HiReset) : Statement (.hostInterfaceReset cause) := fun _ _ h => nomatch h
theorem stewardRestart (via : Via) (v : Word) : Statement (.stewardRestart via v) := fun _ _ h => nomatch h
theorem watchdogExpiry : Statement .watchdogExpiry := fun _ _ h => nomatch h
theorem lockup (core : BitVec 2) : Statement (.lockup core) := fun _ _ h => nomatch h
theorem stewardStart : Statement .stewardStart := fun _ _ h => nomatch h
theorem stewardReady : Statement .stewardReady := fun _ _ h => nomatch h
theorem eventRecord : Statement .eventRecord := fun _ _ h => nomatch h
theorem evqRecordWrite (r : BitVec 4) (busOk : Bool) : Statement (.evqRecordWrite r busOk) := fun _ _ h => nomatch h
theorem evqModTimer (r : BitVec 4) : Statement (.evqModTimer r) := fun _ _ h => nomatch h
theorem evqCiWrite (via : Via) (r : BitVec 4) (v : Word) : Statement (.evqCiWrite via r v) := fun _ _ h => nomatch h
theorem evqRingEnable (via : Via) (r : BitVec 4) (v : Word) : Statement (.evqRingEnable via r v) := fun _ _ h => nomatch h
theorem evqRingDisable (via : Via) (r : BitVec 4) (v : Word) : Statement (.evqRingDisable via r v) := fun _ _ h => nomatch h
theorem traceRecordWrite (busOk : Bool) : Statement (.traceRecordWrite busOk) := fun _ _ h => nomatch h
theorem trcCiHiWrite (via : Via) (r : BitVec 3) (v : Word) : Statement (.trcCiHiWrite via r v) := fun _ _ h => nomatch h
theorem trcRingEnable (via : Via) (r : BitVec 3) (v : Word) : Statement (.trcRingEnable via r v) := fun _ _ h => nomatch h
theorem msixUnmask (vec : BitVec 6) : Statement (.msixUnmask vec) := fun _ _ h => nomatch h
theorem bmRequest (q : BmReq) : Statement (.bmRequest q) := fun _ _ h => nomatch h
theorem bmGrant (t : BitVec 3) (clocks : Nat) : Statement (.bmGrant t clocks) := fun _ _ h => nomatch h
theorem bmResponse (t : BitVec 3) (mid : BitVec 4) (write : Bool) (code : BitVec 3) (data : List Byte) : Statement (.bmResponse t mid write code data) := fun _ _ h => nomatch h
theorem tout (t : BitVec 3) (mid : BitVec 4) (write : Bool) : Statement (.tout t mid write) := fun _ _ h => nomatch h
theorem sliceChange (via : Via) (v : Word) : Statement (.sliceChange via v) := fun _ _ h => nomatch h
theorem sliceSwitch : Statement .sliceSwitch := fun _ _ h => nomatch h
theorem masterReset (m : BitVec 3) : Statement (.masterReset m) := fun _ _ h => nomatch h
theorem rstMid (m : BitVec 3) (t : BitVec 3) (beats : BitVec 4) : Statement (.rstMid m t beats) := fun _ _ h => nomatch h
theorem avsPoll (mv : BitVec 10) : Statement (.avsPoll mv) := fun _ _ h => nomatch h
theorem avsFail : Statement .avsFail := fun _ _ h => nomatch h
theorem avsRetry : Statement .avsRetry := fun _ _ h => nomatch h
theorem avsAlert (status : Word) : Statement (.avsAlert status) := fun _ _ h => nomatch h
theorem dividerSwitch : Statement .dividerSwitch := fun _ _ h => nomatch h
theorem p3HoldSend : Statement .p3HoldSend := fun _ _ h => nomatch h
theorem p3ElectricalIdle : Statement .p3ElectricalIdle := fun _ _ h => nomatch h
theorem p3LinkDown : Statement .p3LinkDown := fun _ _ h => nomatch h
theorem p3StewardsHalt : Statement .p3StewardsHalt := fun _ _ h => nomatch h
theorem p3SlowClock (ns : BitVec 30) (frac : Word) : Statement (.p3SlowClock ns frac) := fun _ _ h => nomatch h
theorem wakeSource (mask : BitVec 5) (lanes : BitVec 128) (ticks : BitVec 64) : Statement (.wakeSource mask lanes ticks) := fun _ _ h => nomatch h
theorem supplyReady : Statement .supplyReady := fun _ _ h => nomatch h
theorem clocksReady : Statement .clocksReady := fun _ _ h => nomatch h
theorem wakeStepTimeout (ticks : BitVec 64) : Statement (.wakeStepTimeout ticks) := fun _ _ h => nomatch h
theorem wakeRetry : Statement .wakeRetry := fun _ _ h => nomatch h
theorem wakeMeasured (incW : BitVec 64) (ticks : BitVec 64) : Statement (.wakeMeasured incW ticks) := fun _ _ h => nomatch h
theorem wakeFaultClear (via : Via) (v : Word) : Statement (.wakeFaultClear via v) := fun _ _ h => nomatch h
theorem thModelStep (ch : List Sense) (ticks : BitVec 64) : Statement (.thModelStep ch ticks) := fun _ _ h => nomatch h
theorem thEvaluate (left : BitVec 32) (ticks : BitVec 64) : Statement (.thEvaluate left ticks) := fun _ _ h => nomatch h
theorem throtStep : Statement .throtStep := fun _ _ h => nomatch h
theorem tripHold : Statement .tripHold := fun _ _ h => nomatch h
theorem tripOff : Statement .tripOff := fun _ _ h => nomatch h
theorem converged : Statement .converged := fun _ _ h => nomatch h
theorem rateArmed : Statement .rateArmed := fun _ _ h => nomatch h
theorem thBoardWrite (via : Via) (v : Word) : Statement (.thBoardWrite via v) := fun _ _ h => nomatch h
theorem thFitRun (via : Via) (v : Word) : Statement (.thFitRun via v) := fun _ _ h => nomatch h
theorem fitDone (r1 : Int) (r2 : Int) : Statement (.fitDone r1 r2) := fun _ _ h => nomatch h
theorem nvWriteStart : Statement .nvWriteStart := fun _ _ h => nomatch h
theorem nvPageOpDone (verify : Bool) : Statement (.nvPageOpDone verify) := fun _ _ h => nomatch h
theorem nvRecordScan : Statement .nvRecordScan := fun _ _ h => nomatch h
theorem snap (via : Via) (v : Word) : Statement (.snap via v) := fun _ _ h => nomatch h
theorem clrAll (via : Via) (v : Word) : Statement (.clrAll via v) := fun _ _ h => nomatch h
theorem freeze (via : Via) (v : Word) : Statement (.freeze via v) := fun _ _ h => nomatch h
theorem pcSelectWrite (via : Via) (off : BitVec 16) (v : Word) : Statement (.pcSelectWrite via off v) := fun _ _ h => nomatch h
theorem rcRead (via : Via) (off : BitVec 23) : Statement (.rcRead via off) := fun _ _ h => nomatch h
theorem lowWordRead (via : Via) (off : BitVec 23) : Statement (.lowWordRead via off) := fun _ _ h => nomatch h
theorem registerWrite (via : Via) (off : BitVec 23) (v : Word) : Statement (.registerWrite via off v) := fun _ _ h => nomatch h
theorem aonPowerOnReset : Statement .aonPowerOnReset := fun _ _ h => nomatch h
theorem resetN (high : Bool) : Statement (.resetN high) := fun _ _ h => nomatch h
theorem supervisor (aon : Bool) : Statement (.supervisor aon) := fun _ _ h => nomatch h
theorem dbgTrstN (low : Bool) : Statement (.dbgTrstN low) := fun _ _ h => nomatch h
theorem mailboxCompletion (mb : BitVec 3) : Statement (.mailboxCompletion mb) := fun _ _ h => nomatch h
theorem pcieLinkUp (speed : BitVec 3) (width : BitVec 2) : Statement (.pcieLinkUp speed width) := fun _ _ h => nomatch h
theorem ppsLost : Statement .ppsLost := fun _ _ h => nomatch h
theorem engineClockLost (e : Eng) (v : BitVec 6) : Statement (.engineClockLost e v) := fun _ _ h => nomatch h
theorem autoRestoreWindowEnd (e : Eng) : Statement (.autoRestoreWindowEnd e) := fun _ _ h => nomatch h

end Sys2Proof.Laws.Block
end

