-- ==== Sys2Proof/Laws/Shape.lean ====
section
/-!
SUPPORT. The shapes that the meanings share: a command of a mailbox that has asked for it, a completed command, a write
that is let through, and what Frames follow from them.
-/
namespace Sys2Proof.Machine

/-- A mailbox that has asked for the command runs it (R262, R267). -/
theorem Asked.ecs {s : State} {mb : BitVec 3} {cmd : Nat} {op : Option Nat} {m : Mbx} (h : Asked s mb cmd op m)
    (f : Nat → Mbx → Dev → Dev) : Dev.ecs mb.toNat cmd op f s.fresh.dev = f mb.toNat m s.fresh.dev := by
  have h' : s.fresh.dev.request mb.toNat cmd op = some (mb.toNat, m) := h
  simp [Dev.ecs, h']

/-- The whole command: its operation on the block, nothing else. -/
theorem Asked.run {s : State} {mb : BitVec 3} {cmd : Nat} {op : Option Nat} {m : Mbx} (h : Asked s mb cmd op m)
    (hr : Running s) (f : Nat → Mbx → Dev → Dev) :
    s.onDev (Dev.ecs mb.toNat cmd op f) = .next { s with dev := f mb.toNat m s.fresh.dev } := by
  rw [State.onDev_next _ _ hr, h.ecs]

theorem mb_lt (mb : BitVec 3) : mb.toNat < 8 := mb.isLt

/-- A completed command's response waits in its mailbox (R268). -/
theorem Dev.finish_ready (s : Dev) (mb a b c : Nat) (l : List Byte) (h : mb < 8) :
    ((s.finish mb a b c l).mbx.get mb).ready = some (a, b, c, l) := by
  have : ¬ 8 ≤ mb := by omega
  simp [Dev.finish, this]

theorem Dev.finish_mbx (s : Dev) (mb a b c : Nat) (l : List Byte) : (s.finish mb a b c l).mbx =
    if 8 ≤ mb then s.mbx.set mb {} else s.mbx.mod mb (fun m => { m with ready := some (a, b, c, l), taken := true }) := by
  unfold Dev.finish; split <;> rfl

/-- Completing a command changes its own mailbox only. -/
theorem Dev.finish_other (s : Dev) (mb k a b c : Nat) (l : List Byte) (h : mb ≠ k) :
    (s.finish mb a b c l).mbx.get k = s.mbx.get k := by
  rw [Dev.finish_mbx]
  split
  · simp [Tbl.get_set_ne _ h]
  · simp [Tbl.get_mod_ne _ h]

@[simp] theorem Dev.finish_now (s : Dev) (mb a b c : Nat) (l : List Byte) : (s.finish mb a b c l).now = s.now :=
  Dev.finish_rd2 s mb a b c l _

/-- A write that is let through does its operation in the clock of its grant (R263, R287, R347). -/
theorem MayWrite.writeReg {s : State} {via : Via} {off : Nat} (h : MayWrite s via off) (f : Dev → Dev) :
    Dev.writeReg via off f s.fresh.dev = s.fresh.dev.t6Do via off f := by
  obtain ⟨h0, h1, h2, h3⟩ := h
  obtain ⟨hs, h5⟩ : (s.fresh.dev.viaOut via || s.fresh.dev.t6Stalled) = false ∧ (!s.fresh.dev.t6Wins via off true) = false :=
    Bool.or_eq_false_iff.mp h0
  obtain ⟨h0', h4⟩ := Bool.or_eq_false_iff.mp hs
  have h1' : s.fresh.dev.svcShut via off = false := h1
  have h2' : ¬ (((regAt off).map (·.wpl)).getD 3 < viaPl via) := by omega
  unfold Dev.writeReg Dev.writeAs
  rw [h0', h1', h4, h5]
  simp only [Bool.false_eq_true, if_false]
  rw [if_neg, if_neg h2']
  rintro ⟨h, k⟩
  simp [h3 h] at k

/-- A command of the block alone keeps mailbox memory and the queue. -/
theorem KeepsMem.onDev (s : State) (d : Dev) : KeepsMem s { s with dev := d } := ⟨fun _ => rfl, rfl⟩

/-! ### Registers as those of a known state -/

theorem Dev.RegsAs.refl (d : Dev) : Dev.RegsAs d d := fun _ => rfl

theorem Dev.RegsAs.of_regs {d t : Dev} (h : t.regs = d.regs) : Dev.RegsAs d t := fun _ => by simp [Dev.reg, h]

theorem Dev.RegsAs.setReg {d t : Dev} (h : Dev.RegsAs d t) (k : Nat) (v : Word) : Dev.RegsAs (d.setReg k v) (t.setReg k v) :=
  fun off => by simp [Dev.reg_setReg, h off]

theorem Dev.RegsAs.wr {d t : Dev} (h : Dev.RegsAs d t) (f : Fld) (v : Nat) : Dev.RegsAs (d.wr f v) (t.wr f v) := by
  unfold Dev.wr
  rw [h f.reg]
  exact h.setReg _ _

theorem Dev.RegsAs.wrB {d t : Dev} (h : Dev.RegsAs d t) (f : Fld) (b : Bool) : Dev.RegsAs (d.wrB f b) (t.wrB f b) := h.wr f _

theorem Dev.RegsAs.wr2 {d t : Dev} (h : Dev.RegsAs d t) (k v : Nat) : Dev.RegsAs (d.wr2 k v) (t.wr2 k v) :=
  (h.setReg _ _).setReg _ _

theorem Dev.RegsAs.event {d t : Dev} (h : Dev.RegsAs d t) (f : Fld) : Dev.RegsAs (d.wr f 1) (t.event f) :=
  fun off => (Dev.reg_event t f off).trans (h.wr f 1 off)

theorem Dev.RegsAs.rd {d t : Dev} (h : Dev.RegsAs d t) (f : Fld) : t.rd f = d.rd f := by simp [Dev.rd, h f.reg]

theorem Dev.RegsAs.on {d t : Dev} (h : Dev.RegsAs d t) (f : Fld) : t.on f = d.on f := by simp [Dev.on, h.rd f]

theorem Dev.RegsAs.rd2 {d t : Dev} (h : Dev.RegsAs d t) (k : Nat) : t.rd2 k = d.rd2 k := by simp [Dev.rd2, h k, h (k + 4)]

theorem Dev.RegsAs.count {d t : Dev} (h : Dev.RegsAs d t) (f : Fld) (n : Nat) : Dev.RegsAs (d.count f n) (t.count f n) := by
  unfold Dev.count
  rw [h.rd f]
  exact h.wr f _

theorem Dev.RegsAs.trans {a b c : Dev} (h : Dev.RegsAs a b) (k : Dev.RegsAs b c) : Dev.RegsAs a c :=
  fun off => (k off).trans (h off)

theorem Dev.RegsAs.raise {d t : Dev} (h : Dev.RegsAs d t) (c v : Nat) (r : BitVec 28) (i : Nat) (b : Bool) :
    Dev.RegsAs d (t.raise c v r i b) := h.trans (.of_regs (Dev.raise_regs t c v r i b))

end Sys2Proof.Machine
end

