-- ==== Sys2Proof/WellFormed.lean ====
section
/-!
DEFINITION. Which commands are well formed: the ranges the spec gives their operands where a type admits more. exec is
defined on every command; these checks say which operands an outside party of the spec can give.
-/
namespace Sys2Proof

/-- A part of a drive frame: body segments are counted 0 to 16 at most (R66 to R68: a press head, 8 press and 8 regular). -/
def Seg.wf : Seg → Bool
  | .body j => decide (j.toNat ≤ 16)
  | _ => true

/-- A sense segment: at most 56 codes in segment 0, 64 in the others (R64). -/
def senseWf (j : BitVec 4) (d : SenseSeg) : Bool :=
  decide (j.toNat ≤ 8) && decide (d.codes.length ≤ if j = 0 then 56 else 64)

/-- A bus-matrix transaction: MIDs 0x0 to 0x9, 1 to 16 beats of 16 bytes (12 R285, R286). -/
def BmReq.wf (q : BmReq) : Bool :=
  decide (q.mid.toNat ≤ 9) && decide (1 ≤ q.beats.toNat) && decide (q.beats.toNat ≤ 16) && decide (q.data.length ≤ 16 * q.beats.toNat)

/-- An error line's source has no bits outside its fields' use: unit codes 0 to 4 (Table 11.9). -/
def Line.wf (l : Line) : Bool := decide (l.src.toNat / 65536 % 16 ≤ 4)

/-- The check itself. -/
def Instr.wf : Instr → Bool
  | .segmentHandover _ _ g fl => g.wf && fl.all (fun f => decide (f.pos < 144))
  | .noseg _ _ g => g.wf
  | .senseSegment _ j d => senseWf j d
  | .rpFrameRx _ f _ pdu => decide (pdu.length ≤ f.len)
  | .report _ f pdu => decide (pdu.length ≤ f.len)
  | .blockLock _ ms => decide (ms.length = 6)
  | .tbSnap _ _ ns _ => decide (ns.toNat < 1000)
  | .arbFlt kind => decide (kind.toNat ≤ 2)
  | .errorLine extra _ => extra.all Line.wf
  | .planLoadDone (some im) => decide (im.length < 2 ^ 32)
  | .formWrite _ (some f) => decide (f.length = 6144)
  | .calRunEnd target _ _ _ => decide (target ≤ 130) || (decide (256 ≤ target) && decide (target < 320))
  | .bmRequest q => q.wf
  | .bmResponse _ mid _ code _ => decide (mid.toNat ≤ 9) && decide (code.toNat ≤ 3)
  | .tout _ mid _ => decide (mid.toNat ≤ 9)
  | .masterReset m => decide (m.toNat ≤ 5)
  | .rstMid m _ _ => decide (m.toNat ≤ 5)
  | .thModelStep ch _ => decide (ch.length = 16)
  | .p3SlowClock ns _ => decide (ns.toNat < 1000000000)
  | .rcRead _ off => decide (off.toNat % 4 = 0)
  | .lowWordRead _ off => decide (off.toNat % 4 = 0)
  | .registerWrite _ off _ => decide (off.toNat % 4 = 0)
  | .pcSelectWrite _ off _ => decide (off.toNat % 4 = 0) && decide (0x100 ≤ off.toNat) && decide (off.toNat < 0x400)
  | .pcieLinkUp speed _ => decide (1 ≤ speed.toNat) && decide (speed.toNat ≤ 5)
  | _ => true

end Sys2Proof
end

