-- ==== Sys2Proof/Tests/Slice0.lean ====
section
/-!
SUPPORT. The model's own tests: ill-formed commands that WellFormed refuses, the spec's worked examples, and for every
obligation a witness: concrete states and operands that meet its hypotheses together, clause by clause.
-/
open Sys2Proof Sys2Proof.Machine
namespace Sys2Proof.Tests

/-! ### Small states -/

/-- A state with these fields written. -/
def at_ (l : List (Fld × Nat)) (s : State := {}) : State := s.mapDev (fun d => l.foldl (fun d x => d.wr x.1 x.2) d)

/-- A state with mailbox mb BUSY with an accepted request, its TAG 0x42. -/
def ask (mb cmd : Nat) (payload : List Nat) (s : State := {}) : State :=
  let p : List Byte := payload.map (BitVec.ofNat 8)
  let s := at_ [(F.MB_STAT_STATE mb, 1), (F.MB_STAT_TAG mb, 0x42)] s
  s.mapDev (fun d => { d with mbx := Tbl.set d.mbx mb { cmd := cmd, len := p.length, req := zeros 8 ++ p } })

/-- A cell loop of a small plan. -/
def cellD : Desc :=
  { kind := 1, tapb := 0, tapx := 1, drv := 0, kp := 0x4000, ki := 0x0400, umax := 0x7000, ilim := 0x4000, idx := 0, wcode := 1, darkTh := 1 }

/-- A plan of one cell vat, with a fixed entry, form 3, and a demand entry, default form 3. -/
def plan : Plan :=
  { opmin := 2, planid := 7, nin := 2, nout := 2,
    vats := [{ vat := 0, ntap := 4, ndrv := 2, nloop := 2 }],
    descs := [(loopKey 0 0, cellD), (loopKey 0 1, { cellD with drv := 1, tapb := 2, tapx := 3, idx := 1, wcode := 2 })],
    progs := [(0, { phases := [0] })], level := [0x100],
    gate := [{ dur := 12, rind := 30, form := 3 }, { dur := 8, rind := 30, demand := true, cset := 1, form := 3 }], cyclen := 20,
    darkStep := 0x200,
    dem := { cwg := 4, cwy := 1, vw := [1, 1, 1, 1, 1, 1, 1, 1], cap := [1000, 1000], drate := [8, 8],
             subs := [(5, { en := true, sw := 2, svc := List.replicate 8 { cir := 256, pir := 512, cbs := 1000, pbs := 2000 } })] } }

/-- The plan in force in bank 0 since sample 100, walked from there; now is sample 105. -/
def inForce (s : State := {}) : State :=
  let s := at_ [(F.GL_STAT_PLAN, 1), (F.GL_STAT_EPOCH, 2), (F.GL_INH_NO_PLAN, 0), (F.GL_CYCLEN, 20), (F.GL_NENT, 2)] s
  s.mapDev (fun d =>
    let d := (d.wr2 R.GL_ANCHOR_LO 100).wr2 R.TB_SAMPLE_LO 105
    { d with
      plan0 := some plan,
      tb := { d.tb with ns := 105000 },
      le := { d.le with descs0 := plan.descs, frame := 105, epoch := 2 },
      fs := { slots := [(9, { bytes := zeros 6144 })], map0 := [(3, some 9)] },
      de := { d.de with dem := plan.dem, nin := 2, nout := 2 },
      gl := { d.gl with walking := true, entry := 1, nextB := 120, decK := 1, decEntry := 1, decM := 120 } })

/-- With frame 106 open on the plan. -/
def inFrame (s : State := inForce) : State := s.mapDev (fun d =>
  { d with le := { d.le with frame := 106, isOpen := true, inUse := true } })

/-- The core at OP0 in P0. -/
def atOp0 (s : State) : State := at_ [(F.PM_STAT_OP, 0), (F.PM_STAT_VOP, 0), (F.PM_STAT_OPMAX, 0)] s

def dev (f : Dev → Dev) (s : State := {}) : State := s.mapDev f
/-! ### WellFormed: for each check a command it refuses -/

theorem smoke_frame_parts :
    (Instr.segmentHandover .lea 0 (.body 16) [⟨143, 1⟩]).wf = true ∧ (Instr.segmentHandover .lea 0 (.body 17) []).wf = false ∧
    (Instr.segmentHandover .lea 0 .sof [⟨144, 1⟩]).wf = false ∧ (Instr.noseg .leb 0 (.body 17)).wf = false := by decide
theorem smoke_senseSegment :
    (Instr.senseSegment 0 8 { (default : SenseSeg) with codes := List.replicate 64 0 }).wf = true ∧
    (Instr.senseSegment 0 9 default).wf = false ∧
    (Instr.senseSegment 0 0 { (default : SenseSeg) with codes := List.replicate 57 0 }).wf = false ∧
    (Instr.senseSegment 0 1 { (default : SenseSeg) with codes := List.replicate 65 0 }).wf = false := by decide
def rxF (n : Nat) (da : BitVec 48 := 0) : RxFrame := ⟨n, true, da, 0, 0⟩
theorem smoke_report_frames :
    (Instr.rpFrameRx .rpa (rxF 64) 0x88B5 (zeros 65)).wf = false ∧ (Instr.rpFrameRx .rpa (rxF 64) 0x88B5 (zeros 64)).wf = true ∧
    (Instr.report .rpb (rxF 64) (zeros 65)).wf = false := by decide
theorem smoke_blockLock : (Instr.blockLock 1 []).wf = false ∧ (Instr.blockLock 1 (List.replicate 6 ⟨1, 1, 1⟩)).wf = true := by decide
theorem smoke_times :
    (Instr.tbSnap .operator 1 1000 0).wf = false ∧ (Instr.tbSnap .operator 1 999 0).wf = true ∧
    (Instr.p3SlowClock 1000000000 0).wf = false ∧ (Instr.p3SlowClock 999999999 0).wf = true := by decide
theorem smoke_faults :
    (Instr.arbFlt 3).wf = false ∧ (Instr.arbFlt 2).wf = true ∧
    (Instr.errorLine [{ (default : Line) with src := 0x50000 }] 0).wf = false ∧ (Instr.errorLine [{ (default : Line) with src := 0x40000 }] 0).wf = true := by decide
theorem smoke_planLoadDone : (Instr.planLoadDone (some (List.replicate (2 ^ 32) 0))).wf = false := by
  rw [Instr.wf, List.length_replicate]; rfl
theorem smoke_formWrite : (Instr.formWrite 0 (some (zeros 6143))).wf = false ∧ (Instr.formWrite 0 (some (zeros 6144))).wf = true := by
  simp only [Instr.wf, zeros, List.length_replicate]; decide
theorem smoke_calRunEnd :
    (Instr.calRunEnd 131 false [] true).wf = false ∧ (Instr.calRunEnd 320 false [] true).wf = false ∧
    (Instr.calRunEnd 130 false [] true).wf = true ∧ (Instr.calRunEnd 256 false [] true).wf = true := by decide
theorem smoke_bus :
    (Instr.bmRequest { (default : BmReq) with mid := 10, beats := 1 }).wf = false ∧
    (Instr.bmRequest { (default : BmReq) with beats := 0 }).wf = false ∧
    (Instr.bmRequest { (default : BmReq) with beats := 17 }).wf = false ∧
    (Instr.bmRequest { (default : BmReq) with mid := 9, beats := 16 }).wf = true ∧
    (Instr.bmResponse 0 10 false 0 []).wf = false ∧ (Instr.bmResponse 0 0 false 4 []).wf = false ∧ (Instr.tout 0 10 false).wf = false ∧
    (Instr.bmRequest { (default : BmReq) with beats := 1, data := zeros 17 }).wf = false ∧ (Instr.masterReset 6).wf = false ∧ (Instr.rstMid 6 0 0).wf = false := by decide
theorem smoke_thModelStep : (Instr.thModelStep (List.replicate 15 default) 0).wf = false ∧ (Instr.thModelStep (List.replicate 16 default) 0).wf = true := by decide
theorem smoke_registers :
    (Instr.rcRead .operator 0x14002).wf = false ∧ (Instr.lowWordRead .operator 1).wf = false ∧ (Instr.registerWrite .operator 3 0).wf = false ∧
    (Instr.pcSelectWrite .operator 0x102 0).wf = false ∧ (Instr.pcSelectWrite .operator 0xFC 0).wf = false ∧
    (Instr.pcSelectWrite .operator 0x400 0).wf = false ∧ (Instr.pcSelectWrite .operator 0x3FC 0).wf = true := by decide
theorem smoke_pcieLinkUp : (Instr.pcieLinkUp 0 4).wf = false ∧ (Instr.pcieLinkUp 6 4).wf = false := by decide


/-! ### The worked examples of the spec -/

/-- 03 R60's polynomial, initial value and final exclusive-or, on the nine digits for which CRC-32C is known (RFC 3720's
check value of the same parameters). -/
theorem test_crc32c : crc32c [0x31, 0x32, 0x33, 0x34, 0x35, 0x36, 0x37, 0x38, 0x39] = 0xE3069283 := by decide +kernel

/-- The example under 04 R85: 0x4000 by 0x6000 shifted by 3 is the A40 code 0x0180000000. -/
theorem test_mulc : mulc 0x4000 0x6000 3 = 0x0180000000 := by decide

/-- The tap correction of the example under 04 R92: the tie rounds to even. -/
theorem test_tapFix : tapFix 0xB7A0 0x0040 0x8200 = (0xBA3E, false) ∧ tapFix 0x0155 0x0030 0x7E00 = (0x0120, false) := by decide

/-- The seed and the ratio of the example under 04 R92. -/
theorem test_ratio : seedRom 118 = 0xAEFF ∧ ratio 288 47966 = (0xC5, false) := by decide

/-- The chips of code 6 in the example under 04 R98. -/
theorem test_walsh : (List.range 16).map (walsh 6) = [1, 1, -1, -1, -1, -1, 1, 1, 1, 1, -1, -1, -1, -1, 1, 1] := by
  decide +kernel

/-- The gradient of the example under 04 R98: 32 over a period, above the deadband of 20. -/
def walked : LoopSt :=
  (List.zip (List.range 16) [197, 197, 193, 193, 194, 194, 198, 198, 199, 199, 195, 195, 196, 196, 200, 200]).foldl
    (fun s x => demodStep { kind := 1, wcode := 6, dband := 20 } x.1 x.2 true s) {}
theorem test_gradient : walked.dacc.toInt = 32 ∧ walked.sgrad = 1 := by decide

/-- The cell of the examples under 05 R108 and R111. -/
def cell42 : Desc :=
  { kind := 1, kp := 0x6000, kpSh := 1, ki := 0x4000, kth := 0x4000, ffBar := 0x2A3C, umin := 0, umax := 0x6000, ilim := 0x1000,
    offl := 0x0400, tstep := 0x0100, thlim := 0x1000, wcode := 6, damp := 0x0030 }
def cell42St : LoopSt := { mode := .run, sgrad := 1, ib := 0xFFFEC94000, th := 0x0040 }

/-- The update of the example under 05 R108. -/
theorem test_loopUpdate :
    let o := loopUpdate cell42 { cond := .normal, e := 197, r := 197 } { jApp := chipApp false 1760000000000000 } cell42St
    o.word.word = 0x27CB ∧ o.st.uhold = 0x279B ∧ o.st.ib = 0xFFFE66C000 ∧ o.st.elast = 0x00C5 ∧ o.st.lsat = 0 := by decide

/-- The offload of the example under 05 R111. -/
theorem test_offload :
    let o := offload cell42 { cell42St with ib := 0xFFFBF98000 }
    o.2 = true ∧ o.1.th = 0xFF40 ∧ o.1.ib = 0xFFFC798000 := by decide

/-- The ramp of Table 5.6: 11 steps toward 0x3800, then back. -/
def ramped (n : Nat) (tgt : Int) (s : LoopSt) : LoopSt := (List.range n).foldl (fun s _ => rampLoop { kind := 2, slew := 0x80 } tgt s) s
theorem test_ramp :
    let a := ramped 11 0x3800 { sp := 0x3000 }
    a.sp = 0x3580 ∧ (ramped 12 0x3800 { sp := 0x3000 }).sp = 0x3600 ∧
      (ramped 1 0x3000 (ramped 12 0x3800 { sp := 0x3000 })).sp = 0x3580 := by decide +kernel

/-- The coefficient swap of the example under 05 R121 and its two updates. -/
def port48 : Desc := { kind := 2, ffBar := 0x5000, kp := 0xC000, ki := 0xF000, umax := 0x7800, ilim := 0x2000, thlim := 0x7FFF }
def port48St : LoopSt := rebase port48 { mode := .run, spv := true, ib := 0x0020000000, elast := 0x0300, lsat := 2, uhold := 0x7000 }
theorem test_swap :
    let a := loopUpdate port48 { cond := .normal, e := 0x300 } {} port48St
    let b := loopUpdate port48 { cond := .normal, e := 0x300 } {} a.st
    port48St.ib = 0x001E800000 ∧ port48St.lsat = 2 ∧ a.st.uhold = 0x7000 ∧ a.st.lsat = 0 ∧ a.st.ib = 0x001E800000 ∧
      b.st.uhold = 0x7060 ∧ b.st.ib = 0x001EE00000 := by decide

/-- The meter and the bead of the example under 07 R169. -/
def meter37 : Meter := { full := false, tc := 256 * 20000, tp := 256 * 90000, tlast := 100 }
def svc37 : Svc := { cir := 0x0004E200, pir := 0x0009C400, cbs := 64000, pbs := 128000 }
theorem test_meter :
    let r := meterStep svc37 48000 110 meter37
    r.2 = .yellow ∧ r.1.tc = 256 * 32500 ∧ r.1.tp = 256 * 67000 ∧
      beadInc { cwg := 0, cwy := 0x08, vw := [0, 0, 0x10] } 0x18 2 48000 false = 562 := by decide

/-- The memory of reset lists nothing and is in form. -/
theorem test_reset_memory : Memory.wf State.reset.mem = true ∧ State.reset.pending = [] := by decide

/-- The delay exchange of the example under 03 R74. -/
theorem test_delay :
    let s := at_ [(F.VL_LSTAT_STATE 127, 4), (F.VL_LASYM 127, 0x60)] (dev (fun d => { d with vl := { d.vl with lanes := [(127, { dreq := some (7, 1000) })] } }))
    let d := s.dev.drspIn 127 ⟨true, true, 7, 22440, 10600, 0xC80⟩
    d.rd (F.VL_LDLY_DN 127) = 0x2400 ∧ d.rd (F.VL_LDLY_UP 127) = 0x2340 ∧ d.rd (F.VL_LTOFF 127) = 0x180 := by decide +kernel

/-! ### Witnesses: for each statement, states and operands that meet its hypotheses together, clause by clause -/

def sCode (n : Nat) : State := dev (fun d => { d with hif := { d.hif with code := 0x500000007, codeLoaded := true, offerLo := 7, misses := n } })
def sOpen : State := at_ [(F.HIF_STAT_SVC_OPEN, 1)]
theorem wit_ServiceAperture :
    (Running (sCode 0) ∧ Via.operator ≠ .debug ∧ (sCode 0).dev.viaShut .operator R.HIF_UNLOCK_HI true = false ∧ (sCode 0).dev.on F.HIF_STAT_LOCKOUT = false ∧ (sCode 0).dev.hif.codeLoaded = true ∧
      (sCode 0).dev.hif.code = (5 : Word) ++ (sCode 0).dev.hif.offerLo) ∧
    (Running (sCode 2) ∧ (sCode 2).dev.on F.HIF_STAT_LOCKOUT = false ∧ (sCode 2).dev.viaShut .steward R.HIF_UNLOCK_HI true = false ∧
      (sCode 2).dev.hif.code ≠ (6 : Word) ++ (sCode 2).dev.hif.offerLo) ∧
    (at_ [(F.HIF_STAT_LOCKOUT, 1)]).dev.on F.HIF_STAT_LOCKOUT = true ∧
    (Running sOpen ∧ sOpen.dev.on F.HIF_STAT_SVC_OPEN = true) ∧
    (Running State.reset ∧ State.reset.dev.on F.HIF_STAT_SVC_OPEN = false) := by
  simp only [Running]; decide

def sReady (s : State := {}) : State := at_ [(F.HIF_ST_STAT_STATE, 2)] s
/-- A request of sys.info, TAG 0x42, in mailbox 0, and one of command 0 in mailbox 1. -/
def sReq : State := { sReady with mem := [(0x200000, 0x01), (0x200001, 0x0B), (0x200002, 0x42)] }
def sBusy : State := at_ [(F.MB_STAT_STATE 0, 1)] sReady
theorem wit_Doorbell :
    (Running sReq ∧ sReq.dev.viaShut .operator (R.MB_DB 0) true = false ∧ sReq.dev.svcShut .operator (R.MB_DB 0) = false ∧ viaPl .operator ≤ mbPl 0 ∧
      sReq.dev.rd (F.MB_STAT_STATE 0) ≠ 1 ∧ sReq.dev.rd F.HIF_ST_STAT_STATE = 2) ∧
    (Running sBusy ∧ sBusy.dev.rd (F.MB_STAT_STATE 0) = 1) ∧
    (Running State.reset ∧ State.reset.dev.svcShut .steward (R.MB_DB 7) = false ∧ viaPl .steward ≤ mbPl 7 ∧
      State.reset.dev.rd (F.MB_STAT_STATE 7) ≠ 1 ∧ State.reset.dev.rd F.HIF_ST_STAT_STATE ≠ 2) := by
  simp only [Running]; decide
theorem wit_Doorbell_requests :
    let req (i : Nat) := Memory.readBytes sReq.mem (reqArea i) 4096
    let m (i : Nat) : Mbx := { cmd := leAt (req i) 0 2, len := leAt (req i) 4 2, req := req i }
    ecsCheck 0 (m 0) = none ∧ (m 0).cmd = 0x0B01 ∧
      ¬((m 0).cmd = 0x0501 ∧ 4 < (m 0).fld 0 1) ∧ ecsCheck 1 (m 1) = some (4, 0xFFFFFFFF) := by decide +kernel

def sDone : State := at_ [(F.MB_STAT_STATE 3, 2)]
theorem wit_StatusWord : (Running sDone ∧ sDone.dev.rd (F.MB_STAT_STATE 3) = 2 ∧ (3 : BitVec 3).toNat < 4 ∧ sDone.dev.viaShut .service (respArea 3) false = false) ∧
    (Running sBusy ∧ sBusy.dev.rd (F.MB_STAT_STATE 1) = 0 ∧ sBusy.dev.rd (F.MB_STAT_STATE 0) = 1) := by
  simp only [Running]; decide

def sAnswer : State := dev (fun d => { d with mbx := [(7, { ready := some (2, 1, 5, [7]) })] }) (at_ [(F.MB_STAT_STATE 7, 1), (F.MB_CFG_MSI_EN 7, 1), (F.MB_CFG_EVT_EN 7, 1)])
theorem wit_Completion : Running sAnswer ∧ sAnswer.dev.rd (F.MB_STAT_STATE 7) = 1 ∧
    (sAnswer.dev.mbx.get 7).ready = some (2, 1, 5, [7]) ∧ sAnswer.dev.on (F.MB_CFG_MSI_EN 7) = true := by
  simp only [Running]; decide

def sP3 (p : P3Step) : State := dev (fun d => { d with pm := { d.pm with p3 := p } })
theorem wit_HostInterfaceReset : Running (sP3 .idle) ∧ (sP3 .idle).dev.pm.p3 = .idle := by simp only [Running]; decide
theorem wit_LinkAndVectors : Running State.reset ∧ State.reset.dev.coreUp = true ∧ 1 ≤ (5 : BitVec 3).toNat ∧
    (5 : BitVec 3).toNat ≤ State.reset.dev.hif.fn.maxSpeed.toNat := by simp only [Running]; decide

def sWdog : State := at_ [(F.HIF_ST_CTL_WDOG_RST, 1), (F.HIF_STAT_SVC_OPEN, 1)] sReady
def sBoot : State := dev (fun d => { d with st := { booted := true }, vl := { d.vl with gate := true } }) (at_ [(F.HIF_ST_STAT_STATE, 1)])
theorem wit_Doorbell_pmSet : let m : Mbx := { cmd := 0x0501, len := 2, req := toLe 8 0x0501 ++ [5, 0] }
    ecsCheck 0 m = none ∧ m.cmd = 0x0501 ∧ 4 < m.fld 0 1 := by decide +kernel
theorem wit_Stewards :
    (Running sWdog ∧ sWdog.dev.rd F.HIF_ST_STAT_STATE ≠ 0 ∧ Via.service ≠ .debug ∧ Via.service ≠ .operator ∧
      sWdog.dev.svcShut .service R.HIF_ST_CTL = false ∧ sWdog.dev.on F.HIF_ST_CTL_WDOG_RST = true) ∧
    (Running State.reset ∧ State.reset.dev.coreUp = true ∧ State.reset.dev.rd F.HIF_ST_STAT_STATE = 0) ∧
    (Running sBoot ∧ sBoot.dev.rd F.HIF_ST_STAT_STATE = 1 ∧ sBoot.dev.st.booted = true ∧ sBoot.dev.vl.gate = true) := by
  simp only [Running]; decide

def sMem : State := at_ [(F.NV_STAT_RECOVERED, 1)] sReady
def sQueue (erase : Bool) : State :=
  dev (fun d => { d with nv := { d.nv with queue := [{ mb := some 0, ty := 0x100, key := 1, payload := [1, 2], erase := erase }] } }) sMem
theorem wit_RecordWriteStart : Running (sQueue false) ∧ (sQueue false).dev.nv.cur = none ∧
    (sQueue false).dev.nv.queue = [{ mb := some 0, ty := 0x100, key := 1, payload := [1, 2] }] ∧ (sQueue false).dev.nv.tripped = false ∧
    (sQueue false).dev.on F.NV_STAT_RECOVERED = true ∧ (sQueue false).dev.rd F.HIF_ST_STAT_STATE = 2 := by
  simp only [Running]; decide
/-- A record that is kept, generation 1, payload 1 and 2, and a write of it queued that erases or refreshes it. -/
def sKept (erase refresh : Bool) : State := dev (fun d =>
  let c : Copy := { key := 1, gen := 1, stamp := 5, payload := [1, 2] }
  { d with nv := { d.nv with pages := [(slotPage 196 false, copyBytes 0x100 false c), (slotPage 196 true, copyBytes 0x100 true c)],
                             queue := [{ ty := 0x100, key := 1, erase := erase, refresh := refresh }] } }) sMem
theorem wit_RecordWriteStart_kept : (∀ e r, (sKept e r).dev.nv.cur = none ∧ (sKept e r).dev.nv.tripped = false) ∧
    (sKept true false).dev.nvSlotFor 0x100 1 = (196, false) ∧
    ((sKept true false).dev.nvWin 196).filter (fun c => c.key == 1) = some { key := 1, gen := 1, stamp := 5, payload := [1, 2] } ∧
    ((sQueue true).dev.nvWin 196).filter (fun c => c.key == 1) = none ∧ Running (sKept false true) := by
  refine ⟨by decide, by decide, by decide +kernel, by decide +kernel, by simp only [Running]; decide⟩

def sCur (erase copyB erasing : Bool) (n : Nat := 2) : State := dev (fun d => { d with nv := { d.nv with
  cur := some { req := { mb := some 0, ty := 0x100, key := 1, payload := zeros n, erase := erase }, slot := 196, gen := 1, copyB := copyB,
                erasing := erasing } } }) sMem
theorem wit_RecordPages : Running (sCur false true false) ∧ (sCur false true false).dev.nv.cur.isSome = true ∧
    (∀ c, (sCur false true false).dev.nv.cur = some c → ¬ c.page + 1 < c.pages) ∧ (sCur false false false 5000).dev.nv.tripped = false ∧
    (((sCur false false false 5000).dev.nv.cur).map (fun c => decide (c.page + 1 < c.pages))) = some true := by
  refine ⟨by simp only [Running]; decide, by decide, ?_, by decide, by decide +kernel⟩
  intro c h; cases h; decide
def sRecord (stamp : Nat) : State := dev (fun d => { d with nv := { d.nv with days := 400 } }) (at_ [(F.NV_REFRESH_DAYS, stamp)] sMem)
theorem wit_RecordScan : Running sMem ∧ sMem.dev.rd F.HIF_ST_STAT_STATE = 2 ∧ sMem.dev.on F.NV_STAT_RECOVERED = true ∧
    sMem.dev.nv.days + 1 < sMem.dev.rd F.NV_REFRESH_DAYS ∧ ¬(sRecord 30).dev.nv.days + 1 < (sRecord 30).dev.rd F.NV_REFRESH_DAYS := by
  simp only [Running]; decide

def aRec (op ty off len addr : Nat) : State := ask 4 0x0701 [op, 0, ty % 256, ty / 256, 1, 0, 0, 0, 0, 0, 0, 0, off, 0, 0, 0, len, 0, 0, 0, addr, 0, 0, 0, 0, 0, 0, 0] sMem
theorem wit_RecordCommands : (∀ op, op < 4 → ((aRec op 0x100 0 4 64).dev.mbx.get 4).waits 0x0701 (some op) = true) ∧
    Running (aRec 2 0x100 0 4 64) ∧ (aRec 2 0x100 0 4 64).dev.rd (F.MB_STAT_STATE 4) = 1 ∧
    nvTypeOk ((aRec 2 0x100 0 4 64).dev.mbx.get 4).nvTy = true ∧ ((aRec 2 0x100 0 4 64).dev.mbx.get 4).fld 16 4 ≤ 4032 ∧
    ((aRec 2 0x100 0 4 64).dev.mbx.get 4).fld 20 8 % 64 = 0 ∧ 0x100 ≤ ((aRec 2 0x100 0 4 64).dev.mbx.get 4).nvTy := by
  simp only [Running]; decide

/-- With two phases, and frame 106 open. -/
def sPhases : State := inFrame (dev (fun d => { d with plan0 := some { plan with progs := [(0, { phases := [0, 64] })] } }) inForce)
theorem wit_Strobes :
    (Running inFrame ∧ inFrame.dev.coreUp = true ∧ inFrame.dev.le.isOpen = true ∧ inFrame.dev.le.darkDone = none ∧ inFrame.dev.pm.p3 ≠ .woken ∧
      inFrame.dev.stands 106 = false ∧ inFrame.dev.rd F.PM_STAT_STATE < 2 ∧ inFrame.dev.rd F.PM_STAT_REQ < 2) ∧
    ((at_ [(F.PM_STAT_STATE, 2), (F.PM_STAT_REQ, 2)]).dev.rd F.PM_STAT_STATE = 2 ∧ (at_ [(F.PM_STAT_STATE, 2), (F.PM_STAT_REQ, 2)]).dev.rd F.PM_STAT_REQ = 2) ∧
    (Running sPhases ∧ sPhases.dev.le.isOpen = true ∧
      ((sPhases.dev.framePlan.map (·.vats)).getD []).find? (·.vat == 0) = some { vat := 0, ntap := 4, ndrv := 2, nloop := 2 } ∧
      0 < (1 : BitVec 3).toNat ∧ (1 : BitVec 3).toNat < (sPhases.dev.prog 0).phases.length ∧ sPhases.dev.phaseLate 1 0 = [] ∧
      sPhases.dev.unitRuns .lea 0 = true) ∧
    ((at_ [(F.VL_LSTAT_STATE 127, 6)]).dev.rd (F.VL_LSTAT_STATE 127) = 6 ∧ (at_ [(F.VL_LSTAT_STATE 127, 6)]).dev.inP2 = false) := by
  simp only [Running]; decide
/-- Slot 1 decided for sample 108; vat 0 released or held; the engine's cell loop in MODE RUN. -/
def sCommit (held : Bool) (dec : List Slot := [{ k := 1, m := 108, entry := 1, img := { fnum := 3 } }]) : State := dev (fun d =>
  { (d.setHeld 0 held) with gl := { d.gl with dec := dec },
                            le := { d.le with inUse := true, a := { d.le.a with loops := [(loopKey 0 0, { mode := .run, spv := true })] } } }) inForce
theorem wit_Strobes_commit :
    (Running (sCommit false) ∧ (sCommit false).dev.coreUp = true ∧ (sCommit false).dev.rd F.PM_STAT_STATE < 2 ∧ (sCommit false).dev.rd F.PM_STAT_REQ < 2 ∧
      (sCommit false).dev.now + 1 + 2 = 108 ∧ hardBits (sCommit false).dev.inhNow = false ∧ hardBits (sCommit true).dev.inhNow = true) ∧
    (let s := sCommit false []
     ((s.fresh.dev.pmFrame 106).frameRuns 106 = true ∧ s.dev.rd F.FC_STAT_SAFE = 0 ∧ s.dev.bankAt 106 = some (s.dev.le.bank, s.dev.le.epoch) ∧
      s.dev.le.tune = [] ∧ s.dev.gl.dec = [] ∧ s.dev.cal.stints = [] ∧ s.dev.cal.inj = [] ∧ s.dev.tw.reqs = [] ∧ s.dev.tw.vres = []) ∧
      s.dev.tw.wres = none ∧ (s.dev.vat 0).holdEff = none ∧
      ((s.dev.framePlan.map (·.vats)).getD []).filter (·.vat == 0) = [{ vat := 0, ntap := 4, ndrv := 2, nloop := 2 }] ∧
      (loopsOf s.dev.descs 0).filter (·.1 == 0) = [(0, cellD)] ∧ s.dev.unitRuns .lea 0 = true ∧
      ((s.dev.eng .lea).loops.get (loopKey 0 0)).mode = .run ∧ ((s.dev.eng .lea).loops.get (loopKey 0 0)).spv = true) := by
  simp only [Running]; decide
def sGupd : State := inFrame (dev (fun d => { d with plan0 := some { plan with progs := [(0, { phases := [0], ins := [{ opc := 6 }] })] } }) inForce)
def sClose (f : Tw → Tw) (l : List (Fld × Nat)) : State := dev (fun d => { d with tw := f d.tw }) (at_ l inFrame)
def closed (s : State) : Dev := match exec .frameClose s with
  | .next t => t.dev
  | _ => s.dev
def sMism : State := sClose (fun x => { x with diffs := [(0, 5)] }) []
theorem wit_Strobes_close :
    (sGupd.dev.unitRuns .lea 0 = true ∧ (sGupd.dev.prog 0).ins.drop ((sGupd.dev.eng .lea).pos.get 0) = { opc := 6 } :: [] ∧
      (gangLoops sGupd.dev.descs 0 0).filter (·.1 == 1) = [(1, { cellD with drv := 1, tapb := 2, tapx := 3, idx := 1, wcode := 2 })]) ∧
    (sMism.dev.active = .lea ∧ sMism.dev.partner = .leb ∧ sMism.dev.role .leb = 2 ∧ sMism.dev.vatResync = false ∧ sMism.dev.tw.wres = none ∧
      sMism.dev.tw.trialBad = [] ∧ sMism.dev.rd2 R.TW_XF_LO = 0 ∧ sMism.dev.tw.diffs ≠ [] ∧ sMism.dev.tw.mis.length + 1 < sMism.dev.rd F.TW_CFG_MIS_LIM) := by decide
theorem wit_Strobes_roles :
    ((closed sMism).faulty .lea = false ∧ (closed sMism).faulty .leb = false) ∧
    ((closed (sClose id [(F.TW_HEALTH_A_FAULT, 1)])).faulty .lea = true ∧ (closed (sClose id [(F.TW_HEALTH_A_FAULT, 1)])).faulty .leb = false) ∧
    (closed (sClose id [(F.TW_HEALTH_A_FAULT, 1), (healthFld .leb F.TW_HEALTH_A_FAULT, 1)])).faulty .leb = true ∧
    (closed (sClose id [(healthFld .leb F.TW_HEALTH_A_FAULT, 1)])).faulty .lea = false := by decide +kernel

def hand (wait : List (Eng × Nat × List Byte)) (s : State := inFrame) : State :=
  dev (fun d => { d with tw := { d.tw with rel := Tbl.set d.tw.rel 0 { wait := wait } } }) s
def vat0 : VatEntry := { vat := 0, ntap := 4, ndrv := 2, nloop := 2 }
def dHand (s : State := inFrame) : Dev := s.fresh.dev.issueFor vat0 0
def sofLea : List Byte := dHand.part .lea 106 vat0 0
def sXf : State := dev (fun d => d.wr2 R.TW_XF_LO 1) (at_ [(F.TW_STAT_ROLE_B, 0)] inFrame)
theorem wit_Handover :
    (Running inFrame ∧ ((inFrame.dev.framePlan.map (·.vats)).getD []).find? (·.vat == 0) = some vat0 ∧
      inFrame.dev.le.isOpen = true ∧ dHand.unitRuns .lea 0 = true ∧ inFrame.dev.on F.TW_STAT_ARB_FLT = false ∧
      (dHand.rel 0).aborted = false ∧ (dHand.rel 0).whole .lea = false ∧ sofLea ≠ [] ∧
      0 = nextPart (dHand.bodies vat0) ((dHand.rel 0).handed .lea) ∧ dHand.crossFed 0 = false) ∧
    ((dHand.rel 0).wait.find? (fun w => w.1 == other .lea && w.2.1 == 0) = none ∧
      ((dHand (hand [(.leb, 0, sofLea)])).rel 0).wait.find? (fun w => w.1 == other .lea && w.2.1 == 0) = some (.leb, 0, sofLea)) ∧
    firstDiff (maskSof 0 sofLea) (maskSof 0 sofLea) 0 = none ∧
    firstDiff (maskSof 0 sofLea) (maskSof 0 (flipBytes [⟨3, 1⟩] sofLea)) 0 = some 3 ∧
    ((dHand sXf).crossFed 0 = true ∧ (dHand sXf).active = .lea ∧ (dHand sXf).runs (dHand sXf).partner 0 = false ∧ (dHand sXf).unitRuns .lea 0 = true) := by
  simp only [Running]; decide +kernel

def lastOf (r : Rel) : State := dev (fun d => { d with tw := { d.tw with lastRel := [(0, r)] } }) inFrame
theorem wit_LateCopies :
    (((hand [(.lea, 0, [1])]).dev.rel 0).wait.find? (fun w => w.1 == other .leb && w.2.1 == segNo .sof) = some (.lea, 0, [1]) ∧
      Running (hand [(.lea, 0, [1])]) ∧ ((hand [(.lea, 0, [1])]).dev.rel 0).aborted = false ∧ (hand [(.lea, 0, [1])]).dev.le.isOpen = true ∧
      (hand [(.lea, 0, [1])]).dev.runs .leb 0 = true ∧ (hand [(.lea, 0, [1])]).dev.crossFed 0 = false) ∧
    ((lastOf { nA := 32, nB := 3, opened := true }).dev.tw.lastRel.look 0 = some { nA := 32, nB := 3, opened := true } ∧
      Running (lastOf { nA := 32, nB := 3, opened := true }) ∧ (lastOf { nA := 32, nB := 3, opened := true }).dev.on F.TW_STAT_ARB_FLT = false ∧
      ((lastOf { nA := 32, nB := 3, opened := true }).dev.inServiceOf 0).filter
        (fun e => !({ nA := 32, nB := 3, opened := true } : Rel).whole e) = [.leb]) ∧
    ((lastOf { closed := true }).dev.tw.lastRel.look 0 = some { closed := true }) ∧
    ((lastOf {}).dev.inServiceOf 0).filter (fun e => !({} : Rel).whole e) = [.lea, .leb] ∧ (lastOf {}).dev.pm.p3 ≠ .off := by
  simp only [Running]; decide +kernel
theorem wit_LoopLimits : cellD.umin.toInt ≤ cellD.umax.toInt ∧ ((0 : Int).natAbs : Int) ≤ a16 cellD.ilim.toNat := by decide

/-- cal.run of a kind at a target; lane 2 in TRAIN, lane 3 ACTIVE, vat 0's EIC known, port B up. -/
def aCal (kind target count nsamp : Nat) : State :=
  ask 4 0x0401 [kind, 0, target, 0, 0, 0, 0, 0, count, 0, 0, 0, nsamp, 0, 0, 0, 0, 0, 0, 0]
    (dev (fun d => { d with vl := { d.vl with vats := [(0, { eicId := some 5 })] } })
      (at_ [(F.VL_LSTAT_STATE 2, 2), (F.VL_LSTAT_STATE 3, 6), (rpFld .rpb F.RPA_STAT_LINK, 1)]))
theorem wit_CalibrationRuns_start :
    ((aCal 1 2 0 0).dev.calReady 1 2 = true ∧ (aCal 2 2 0 0).dev.calReady 2 2 = true ∧ (aCal 2 128 0 0).dev.calReady 2 128 = true ∧
      (aCal 3 0 0 0).dev.calReady 3 130 = true ∧ (aCal 4 0 8 16).dev.calReady 4 256 = true) ∧
    (Running (aCal 4 0 8 16) ∧ Asked (aCal 4 0 8 16) 4 0x0401 (some 4) ((aCal 4 0 8 16).dev.mbx.get 4) ∧
      calBad ((aCal 4 0 8 16).dev.mbx.get 4) = none ∧ ((aCal 4 0 8 16).dev.mbx.get 4).calTarget ≤ 63 ∧
      0 < ((aCal 4 0 8 16).dev.mbx.get 4).fld 8 2 ∧ nsampOk (((aCal 4 0 8 16).dev.mbx.get 4).fld 12 4) = true ∧
      (aCal 4 0 8 16).dev.runOn 256 = false) ∧
    (Asked (aCal 1 2 0 0) 4 0x0401 (some 1) ((aCal 1 2 0 0).dev.mbx.get 4) ∧ Asked (aCal 2 2 0 0) 4 0x0401 (some 2) ((aCal 2 2 0 0).dev.mbx.get 4) ∧
      Asked (aCal 3 0 0 0) 4 0x0401 (some 3) ((aCal 3 0 0 0).dev.mbx.get 4)) := by
  simp only [Running, Asked]; decide
def sRun (kind target : Nat) : State := dev (fun d => { d with cal := { d.cal with runs := [{ mb := 4, kind := kind, target := target, count := 1 }] } })
  (ask 4 0x0401 [kind])
def sTapRun : State := dev (fun d => { d with cal := { d.cal with runs := [{ mb := 4, kind := 4, target := 256, count := 1, nsamp := 16, acc := [(0, (0, 0, [5, 5, 6]))] }] } })
  (aCal 4 0 1 16)
theorem wit_CalibrationRuns_lost :
    (Running (sRun 1 2) ∧ (sRun 1 2).dev.cal.runs.find? (fun r => r.target == 2 && !r.ended) = some { mb := 4, kind := 1, target := 2, count := 1 }) ∧
    (Running (sRun 2 2) ∧ (sRun 2 2).dev.cal.runs.find? (fun r => r.target == 2 && !r.ended) = some { mb := 4, kind := 2, target := 2, count := 1 }) ∧
    (sRun 2 129).dev.cal.runs.find? (fun r => r.target == 129 && !r.ended) = some { mb := 4, kind := 2, target := 129, count := 1 } := by
  simp only [Running]; decide
theorem wit_CalibrationRuns_end :
    (Running (sRun 3 130) ∧ (sRun 3 130).dev.cal.runs.find? (fun r => r.target == 130 && !r.ended) = some { mb := 4, kind := 3, target := 130, count := 1 } ∧
      ({ mb := 4, kind := 3, target := 130, count := 1 } : CalRun).agreed (List.replicate 32 ⟨320, 321, 400⟩) = some (some (List.replicate 32 5)) ∧
      (sRun 3 130).dev.calReady 3 130 = true ∧
      ∀ i, i < 32 → 0 ≤ (List.replicate 32 (5 : Int)).getD i 0 ∧ (List.replicate 32 (5 : Int)).getD i 0 ≤ 65535) ∧
    (({ mb := 4, kind := 1, target := 2 } : CalRun).agreed (List.replicate 6 ⟨5, 5, 6⟩) = some (some (List.replicate 6 5)) ∧
      laneOk (List.replicate 6 5) = true ∧ (aCal 1 2 0 0).dev.calReady 1 2 = true) ∧
    (({ mb := 4, kind := 2, target := 2 } : CalRun).agreed [⟨5, 5, 6⟩, ⟨5, 5, 6⟩] = some (some [5, 5]) ∧ (aCal 2 2 0 0).dev.calReady 2 2 = true) ∧
    (∀ r, sTapRun.dev.cal.runs.find? (fun r => r.target == 256 && !r.ended) = some r →
      r.agreed [] = some (some [5]) ∧ (tapResult r (sTapRun.dev.tapWord 0 r.first) 5).isSome = true ∧ sTapRun.dev.calReady 4 256 = true) ∧
    sTapRun.dev.cal.runs.find? (fun r => r.target == 256 && !r.ended) ≠ none := by
  refine ⟨by simp only [Running]; decide, by decide, by decide, ?_, by decide⟩
  intro r h; cases h; decide +kernel
def sSweep : State := ask 4 0x0402 ([0, 1, 0xFF, 3, 0, 0, 0, 0, 16, 0, 1, 0, 8, 0, 0, 0, 18, 0, 0, 0] ++ [2] ++ List.replicate 31 0) inFrame
def sProbe : State := ask 4 0x0402 ([0, 0, 1, 0, 0, 0, 0, 0, 16, 0, 1, 0, 8, 0, 0, 0, 18, 0, 0, 0] ++ [1] ++ List.replicate 31 0)
  (dev (fun d => { d with le := { d.le with descs0 := [(loopKey 0 0, cellD)] } }) inFrame)
def sStint : State := dev (fun d => { d with cal := { d.cal with stints := [{ mb := 4, vat := 0, cells := [1], maxdur := 18 }] } }) inFrame
def aInject (op : Nat) (s : State := inFrame) : State :=
  ask 4 0x0404 [0, op, 0, 0, 1, 0, 10, 0, 4, 0, 0, 0, 200, 0, 0, 0, 0, 0, 0, 0, 1, 0, 0, 0, 1, 0] s
def sInj (j : Inj) : State := dev (fun d => { d with cal := { d.cal with inj := [(7, some j)] } }) (ask 4 0x0405 [7] inFrame)
theorem wit_StintsInjectionsCaptures_stints :
    (∀ s, s = sSweep ∨ s = sProbe → Running s ∧ Asked s 4 0x0402 none (s.dev.mbx.get 4) ∧ sweepBad (s.dev.mbx.get 4) = none ∧
      s.dev.on F.GL_STAT_PLAN = true ∧ (mapBits (((s.dev.mbx.get 4).req.drop 28).take 32)).all (s.dev.cellLoop 0) = true ∧ s.dev.cal.stints = [] ∧ s.dev.liveInj = [] ∧
      (mapBits (((s.dev.mbx.get 4).req.drop 28).take 32)) ≠ []) ∧
    (sProbe.dev.chUsed 0 1 = false ∧ 1 < sProbe.dev.ndrvOf 0) ∧
    (Asked (ask 4 0x0403 [0] sStint) 4 0x0403 none ((ask 4 0x0403 [0] sStint).dev.mbx.get 4) ∧ Running (ask 4 0x0403 [0] sStint) ∧
      (ask 4 0x0403 [0] sStint).dev.cal.stints.any (fun t => t.vat == 0) = true) := by
  refine ⟨?_, by decide, by simp only [Running, Asked]; decide⟩
  rintro s (rfl | rfl) <;> simp only [Running, Asked] <;> decide
theorem wit_StintsInjectionsCaptures_injections :
    (Running (aInject 0) ∧ Asked (aInject 0) 4 0x0404 none ((aInject 0).dev.mbx.get 4) ∧ (aInject 0).dev.injBad ((aInject 0).dev.mbx.get 4) = none ∧
      (aInject 0).dev.on F.GL_STAT_PLAN = true ∧ ((aInject 0).dev.vatEntry 0).isSome = true ∧ (aInject 0).dev.injFree = some 0 ∧
      (aInject 0).dev.cal.stints = [] ∧ (aInject 0).dev.liveInj = [] ∧ injElems ((aInject 0).dev.mbx.get 4) = [(false, 1)] ∧
      ((aInject 0).dev.descs.get (loopKey 0 1)).used = true) ∧
    (Asked (sInj { ns := 4, s0 := 105 }) 4 0x0405 none ((sInj { ns := 4, s0 := 105 }).dev.mbx.get 4) ∧
      ((sInj { ns := 4, s0 := 105 }).dev.mbx.get 4).fld 0 1 ≤ 7 ∧
      (sInj { ns := 4, s0 := 105 }).dev.cal.inj.get (((sInj { ns := 4, s0 := 105 }).dev.mbx.get 4).fld 0 1) = some { ns := 4, s0 := 105 }) ∧
    ((sInj { ns := 4, s0 := 90 }).dev.cal.inj.get (7 : BitVec 3).toNat = some { ns := 4, s0 := 90 } ∧
      ({ ns := 4, s0 := 90 } : Inj).over (sInj { ns := 4, s0 := 90 }).dev.le.frame = true) := by
  simp only [Running, Asked]; decide

def aCap (mode at_ : Nat) (s : State := inFrame) : State := ask 0 0x0406 [0, 3, 1, mode, 4, 0, 0, 0, at_, 0, 0, 0, 0, 0, 0, 0, 1, 0, 2, 0] s
def sCapOn : State := dev (fun d => { d with cal := { d.cal with
  inj := [(7, some { ns := 4, s0 := 200 })],
  caps := [{ mb := 0, vat := 0, ring := 3, items := [(1, 2)], ns := 4, start := 90, done := 4, stats := [(1, 2, 6, 4)] }] } }) (ask 0 0x0406 [0] inFrame)
theorem wit_StintsInjectionsCaptures_captures :
    (Running (aCap 0 200) ∧ Asked (aCap 0 200) 0 0x0406 none ((aCap 0 200).dev.mbx.get 0) ∧ (aCap 0 200).dev.capBad ((aCap 0 200).dev.mbx.get 0) = none ∧
      ((aCap 0 200).dev.mbx.get 0).fld 3 1 ≠ 1 ∧ (aCap 0 200).dev.on F.GL_STAT_PLAN = true ∧ ((aCap 0 200).dev.vatEntry 0).isSome = true ∧
      (capItems ((aCap 0 200).dev.mbx.get 0)).all ((aCap 0 200).dev.capHas 0) = true) ∧
    (((aCap 1 7 sCapOn).dev.mbx.get 0).fld 3 1 = 1 ∧ (aCap 1 7 sCapOn).dev.cal.inj.get 7 = some { ns := 4, s0 := 200 } ∧
      (aCap 1 7 sCapOn).dev.capBad ((aCap 1 7 sCapOn).dev.mbx.get 0) = none) ∧
    (Running sCapOn ∧ ∀ c, sCapOn.dev.cal.caps = [c] → c.ns ≤ c.done ∧ sCapOn.dev.capWaiting c = false ∧ c.mb < 8) := by
  refine ⟨by simp only [Running, Asked]; decide, by decide, by simp only [Running]; decide, ?_⟩
  intro c h; cases h; decide

/-- Both ports up; reports accepted on port A at its announcement address. -/
def sPorts (s : State := inForce) : State := at_ [(rpFld .rpa F.RPA_STAT_LINK, 1), (rpFld .rpa F.RPA_CFG_NAERN_RX, 1), (F.DE_CFG_ACCEPT_EN, 1)] s
/-- A REPORT of rod 1, sequence 9, one entry: destination 1, service 2, subscriber 5, 300 octets. -/
def pdu1 : List Byte := [0x11, 0, 0, 24, 0, 1, 0, 9, 1, 0, 0, 0, 0, 0, 0, 0, 8, 1, 0, 5, 0, 0, 1, 44].map (BitVec.ofNat 8)
def annDa : BitVec 48 := BitVec.ofNat 48 (State.reset.dev.rd F.DE_ANN_DA_LO + 2 ^ 32 * State.reset.dev.rd F.DE_ANN_DA_HI)
def sRod (last at_ : Nat) : State := dev (fun d => { d with de := { d.de with rods := [(1, { have_ := true, last := BitVec.ofNat 16 last, lastacc := at_, stale := false })] } }) (sPorts)
theorem wit_ReportPorts :
    (Running (sRod 8 85) ∧ (sRod 8 85).dev.on (rpFld .rpa F.RPA_STAT_LINK) = true ∧ (sRod 8 85).dev.on (rpFld .rpa F.RPA_CFG_NAERN_RX) = true ∧
      64 ≤ (rxF 64 annDa).len ∧ (rxF 64 annDa).len ≤ 1522 ∧ (rxF 64 annDa).fcsOk = true ∧
      reportOk pdu1 = true ∧ (sRod 8 85).dev.daOk .rpa (rxF 64 annDa).da.toNat = true ∧ (sRod 8 85).dev.on F.DE_CFG_ACCEPT_EN = true ∧
      beAt pdu1 4 2 < (sRod 8 85).dev.rodsInUse ∧ ((sRod 8 85).dev.de.rods.get 1).lastacc + 20 ≤ (sRod 8 85).dev.now ∧
      (beAt pdu1 6 2 + 65536 - 8) % 65536 = 1 ∧ byteAt pdu1 8 = 1 ∧ bits (beAt pdu1 16 2) 9 0 < (sRod 8 85).dev.de.nout ∧
      ((sRod 8 85).dev.de.dem.subs.get (bits (beAt pdu1 18 2) 11 0)).en = true ∧ (sRod 8 85).dev.de.queue.get 5 = []) ∧
    (¬(64 ≤ (rxF 63).len) ∧ ¬((rxF 1523).len ≤ 1522) ∧ (0x88B5 : BitVec 16) ≠ 0x88F7 ∧ ¬((0x800 : BitVec 16) = 0x800 ∧ ptpUdp pdu1 = true)) ∧
    (sPorts.dev.on (rpFld .rpb F.RPA_STAT_LINK) = false ∧ (at_ [(rpFld .rpb F.RPA_STAT_LINK, 1)] sPorts).dev.on (rpFld .rpb F.RPA_STAT_LINK) = true) ∧
    (Running sBoot ∧ (at_ [(rpFld .rpb F.RPA_CFG_EN, 1)] sBoot).dev.on (rpFld .rpb F.RPA_CFG_EN) = true ∧ sBoot.dev.vl.gate = true ∧
      sBoot.dev.coreUp = true ∧ sBoot.dev.portInCal .rpb = false) := by
  simp only [Running]; decide

/-- pdu1 with a second entry, of subscriber 9; and with that entry alone. -/
def pdu2 : List Byte := [0x11, 0, 0, 32, 0, 1, 0, 9, 2, 0, 0, 0, 0, 0, 0, 0, 8, 1, 0, 5, 0, 0, 1, 44, 8, 1, 0, 9, 0, 0, 0, 1].map (BitVec.ofNat 8)
def pdu3 : List Byte := [0x11, 0, 0, 24, 0, 1, 0, 9, 1, 0, 0, 0, 0, 0, 0, 0, 8, 1, 0, 9, 0, 0, 0, 1].map (BitVec.ofNat 8)
theorem wit_ReportEntries :
    let sub (q : List Byte) (k : Nat) : Bool := ((sRod 8 85).dev.de.dem.subs.get (bits (beAt ((reportEntries q (byteAt q 8)).getD k []) 2 2) 11 0)).en
    (reportOk pdu2 = true ∧ reportOk pdu3 = true ∧ byteAt pdu2 1 = byteAt pdu1 1 ∧ beAt pdu2 4 2 = beAt pdu1 4 2 ∧ beAt pdu2 6 2 = beAt pdu1 6 2 ∧
      sub pdu2 0 = true ∧ sub pdu2 1 = false ∧ sub pdu3 0 = false ∧
      reportEntries pdu1 (byteAt pdu1 8) = [(reportEntries pdu2 (byteAt pdu2 8)).getD 0 []]) ∧
    (Running (sRod 8 85) ∧ (sRod 8 85).dev.on (rpFld .rpa F.RPA_STAT_LINK) = true ∧ (sRod 8 85).dev.on (rpFld .rpa F.RPA_CFG_NAERN_RX) = true ∧
      64 ≤ (rxF 64 annDa).len ∧ (rxF 64 annDa).len ≤ 1522 ∧ (rxF 64 annDa).fcsOk = true ∧
      (sRod 8 85).dev.daOk .rpa (rxF 64 annDa).da.toNat = true ∧ (sRod 8 85).dev.on F.DE_CFG_ACCEPT_EN = true ∧
      beAt pdu2 4 2 < (sRod 8 85).dev.rodsInUse ∧ ((sRod 8 85).dev.de.rods.get 1).lastacc + 20 ≤ (sRod 8 85).dev.now ∧
      (beAt pdu2 6 2 + 65536 - 8) % 65536 = 1 ∧ bits (beAt ((reportEntries pdu2 (byteAt pdu2 8)).getD 0 []) 0 2) 9 0 < (sRod 8 85).dev.de.nout) := by
  simp only [Running]; decide

def qe (oct : Nat) : QEnt := ⟨1, 1, 2, 5, BitVec.ofNat 32 oct, 104⟩
def sEntry (oct : Nat) (run : Option Run) : State :=
  dev (fun d => { d with de := { d.de with queue := [(15, [qe oct])], run := run } }) sPorts
theorem wit_MetersAndWindows :
    let color (oct : Nat) := (meterStep ((sEntry oct none).dev.svcCfg 5 2) oct 104
      (((sEntry oct none).dev.de.meters.get 42).open_ 0 ((sEntry oct none).dev.svcCfg 5 2))).2
    Running (sEntry 300 none) ∧ (sEntry 300 none).dev.de.queue.get (15 : BitVec 4).toNat = [qe 300] ∧
      color 300 = .green ∧ color 1500 = .yellow ∧ color 5000 = .red ∧ (sEntry 300 (some {})).dev.de.run = some {} ∧
      ((sRod 8 85).dev.de.rods.get 1).have_ = true ∧ (1 : BitVec 10).toNat < (sRod 8 85).dev.rodsInUse ∧
      (at_ [(F.DE_STALE_US, 19)] (sRod 8 85)).dev.rd F.DE_STALE_US + 85 < (at_ [(F.DE_STALE_US, 19)] (sRod 8 85)).dev.now := by
  simp only [Running]; decide

def aTenant (op : Nat) : State := ask 0 0x0901 ([op, 0, 5, 0, 3, 0x84, 0, 4] ++ List.replicate 128 9) inForce
theorem wit_Tenants : ∀ op, op < 3 → Running (aTenant op) ∧ Asked (aTenant op) 0 0x0901 (some op) ((aTenant op).dev.mbx.get 0) ∧
    tenantBad ((aTenant op).dev.mbx.get 0) = none ∧ (aTenant op).dev.on F.GL_STAT_PLAN = true := by
  simp only [Running, Asked]; decide +kernel

/-- Slot 0 in force, entry 1 (demand) next at 120; its chooser run starts at B(k - 2) - 4 samples. -/
def sCmp (i idx : Nat) (s : State) : State := dev (fun d => { d with tb := { d.tb with cmp := Tbl.set d.tb.cmp i { on := true, idx := idx } } }) s
def sChoose : State := sCmp 2 116 (dev (fun d => d.wr2 R.TB_SAMPLE_LO 116) (atOp0 inForce))
def sRunning (r : Run) (held : List BankOp := []) : State := dev (fun d => { d with de := { d.de with run := some r, held := held } }) inForce
theorem wit_ChooserRun :
    (Running sChoose ∧ sChoose.dev.fires 2 = true ∧ sChoose.dev.rd F.PM_STAT_STATE = 0 ∧ sChoose.dev.rd glInh = 0 ∧
      sChoose.dev.gl.walking = true ∧ sChoose.dev.de.run = none ∧ sChoose.dev.chooserLead = 4 ∧
      ((sChoose.dev.decideAt (fun b => b == sChoose.dev.now + sChoose.dev.chooserLead)).map
        (fun q => (sChoose.dev.gate q).demand && (sChoose.dev.planBank q.bank).isSome)) = some true) ∧
    ((sRunning {} [.add 1 1 300]).dev.de.run = some {} ∧ (sRunning {} [.add 1 1 300]).dev.de.held = [.add 1 1 300]) ∧
    (Running (sRunning { released := true }) ∧ (sRunning { released := true }).dev.de.run = some { released := true } ∧
      (sRunning { released := true }).dev.planBank false = some plan) := by
  simp only [Running]; decide

def sPaused : State := at_ [(F.GL_INH_PAUSE, 1)] inForce
def sDec (s : State := inForce) : State := sCmp 1 105 s
theorem wit_Decision : (∀ s, s = sDec ∨ s = sDec sPaused → Running s ∧ s.dev.gl.walking = true ∧ s.dev.fires 1 = true ∧
      s.dev.planBank s.dev.decPos.bank = some plan) ∧
    sDec.dev.rd glInh = 0 ∧ (sDec sPaused).dev.rd glInh ≠ 0 ∧ (sDec.dev.pickForm sDec.dev.decPos (sDec.dev.gate sDec.dev.decPos)).1 = some 3 := by
  refine ⟨?_, by decide⟩
  rintro s (rfl | rfl) <;> simp only [Running] <;> decide
/-- Slot 1 is decided and drained, announced on port A; nothing inhibits. -/
def sRevoke : State := at_ [(rpFld .rpa F.RPA_CFG_NAERN_TX, 1)] (sPorts (dev (fun d => { d with
  gl := { d.gl with dec := [{ k := 1, m := 120, entry := 1, announced := true, img := { fnum := 3 } }] },
  de := { d.de with drained := [(1, 0, 1, 7)] } }) inForce))
theorem wit_Decision_revoke :
    (Running sRevoke ∧ MayWrite sRevoke .steward R.FC_SAFE_CTL ∧ sRevoke.dev.unclocked = false ∧ bit (0 : Word).toNat 1 = false ∧
      sRevoke.dev.fc.latch = false ∧ bit (sRevoke.dev.rd glInh) 2 = false ∧ sRevoke.dev.de.run = none ∧ sRevoke.dev.de.drained = [(1, 0, 1, 7)] ∧
      sRevoke.dev.on (rpFld .rpa F.RPA_STAT_LINK) = true ∧ sRevoke.dev.on (rpFld .rpa F.RPA_CFG_NAERN_TX) = true ∧
      sRevoke.dev.gl.dec.map (fun x => (x.k, x.committed, x.cancelled, x.announced)) = [(1, false, false, true)]) ∧
    (sRevoke.dev.rd F.PM_STAT_STATE < 3 ∧ sDec.dev.de.run = none ∧ sDec.dev.rd F.FC_STAT_SAFE < 2) := by
  simp only [Running, MayWrite]; decide

def slot1 : Slot := { k := 1, m := 120, entry := 1, committed := true, img := { fnum := 3 } }
def sBound : State := sCmp 0 120 <| dev (fun d => { d.wr2 R.TB_SAMPLE_LO 120 with gl := { d.gl with dec := [slot1], decK := 2, decEntry := 0, decM := 128 } }) inForce
/-- Two boundaries before the one whose slot is fixed: entry 0 has form 3 in slot 9. -/
def sDefault : State := dev (fun d => d.wr2 R.TB_SAMPLE_LO 119) inForce
theorem wit_Boundaries :
    (Running sBound ∧ sBound.dev.plan = some plan ∧ sBound.dev.gl.walking = true ∧ sBound.dev.pressDue = true ∧ sBound.dev.fires 0 = true ∧
      sBound.dev.gl.slotOf (sBound.dev.rd2 R.GL_SLOT_LO + 1) = some slot1) ∧
    ((sDefault.dev.decideAt (fun b => decide (119 ≤ b) && decide (b ≤ 121))).map
      (fun q => sDefault.dev.fs.map q.bank (sDefault.dev.gate q).form)) = some (some 9) ∧ sDefault.dev.now = 119 ∧
    MayWrite State.reset .operator R.GL_CTL := by
  simp only [Running, MayWrite]; decide

def plan2 : Plan := { plan with gate := [{ dur := 20, rind := 30, form := 3 }], planid := 8 }
def sStaged (act : Nat) : State := dev (fun d => { d.wr2 R.GL_ACT_LO act with plan1 := some plan2 })
  (at_ [(F.GL_STAT_STAGED, 1), (F.GL_STAT_ACT_PEND, if act = 0 then 0 else 1)] (at_ [(F.GL_STAT_EPOCH, 2), (F.GL_STAT_BANK, 0)] inForce))
def sActs : State := sCmp 3 105 (dev (fun d => d.wr2 R.TB_SAMPLE_LO 105) (sStaged 105))
def sRetire : State := dev (fun d => { d.wr2 R.TB_SAMPLE_LO 108 with gl := { d.gl with retireAt := some 107 } }) inForce
theorem wit_Activation :
    (Running sActs ∧ sActs.dev.on F.GL_STAT_ACT_PEND = true ∧ sActs.dev.rd2 R.GL_ACT_LO = sActs.dev.now ∧ sActs.dev.fires 3 = true ∧
      sActs.dev.planBank sActs.dev.stagedBank = some plan2 ∧ inForce.dev.rd2 R.GL_ACT_LO ≠ inForce.dev.now) ∧
    (sRetire.dev.gl.retireAt = some 107 ∧ 107 ≤ sRetire.dev.now ∧ sRetire.dev.inOldBank = false ∧
      (dev (fun d => { d with gl := { d.gl with retireAt := some 107 } }) inForce).dev.now < 107) ∧
    inForce.dev.on F.GL_STAT_STAGED = false ∧ (sStaged 0).dev.on F.GL_STAT_STAGED = true := by
  simp only [Running]; decide

def aLoad (s : State) (len : Nat := 8) : State := ask 0 0x0101 [0, 0, 0, 0, len, 0, 0, 0, 64, 0, 0, 0, 0, 0, 0, 0] s
def sConf (s : State) : State := dev (fun d => { d with mbx := d.mbx.mod 0 (fun m => { m with conflict := true }) }) s
def sTaken (s : State) : State := dev (fun d => { d with mbx := d.mbx.mod 0 (fun m => { m with taken := true }) }) s
theorem wit_PlanLoad :
    (Running (aLoad inForce) ∧ Asked (aLoad inForce) 0 0x0101 none ((aLoad inForce).dev.mbx.get 0) ∧ (aLoad inForce).dev.on F.GL_STAT_ACT_PEND = false ∧
      ((aLoad inForce).dev.mbx.get 0).conflict = false ∧ (aLoad inForce).dev.on F.GL_STAT_BANK ≠ (aLoad inForce).dev.stagedBank) ∧
    (Asked (aLoad (sStaged 205)) 0 0x0101 none ((aLoad (sStaged 205)).dev.mbx.get 0) ∧ (aLoad (sStaged 205)).dev.on F.GL_STAT_ACT_PEND = true) ∧
    (Asked (sConf (aLoad inForce)) 0 0x0101 none ((sConf (aLoad inForce)).dev.mbx.get 0) ∧ ((sConf (aLoad inForce)).dev.mbx.get 0).conflict = true) ∧
    (sTaken (aLoad inForce)).dev.loadingMb = some (0 : BitVec 3).toNat ∧
    (sTaken (aLoad inForce)).dev.loadBytes ((sTaken (aLoad inForce)).dev.mbx.get 0) none = none ∧
    (sTaken (aLoad inForce)).dev.loadBytes ((sTaken (aLoad inForce)).dev.mbx.get 0) (some (zeros 8)) = some (zeros 8) := by
  simp only [Running, Asked]; decide +kernel

/-- plan.activate of OP at a sample index. -/
def aAct (op n : Nat) (s : State) : State := ask 0 0x0102 [op, 0, 0, 0, 0, 0, 0, 0, n % 256, n / 256, 0, 0, 0, 0, 0, 0] s
def sLocked (s : State) : State := at_ [(F.TB_STAT_STATE, 2)] s
theorem wit_PlanActivate :
    (Running (aAct 0 500 (sLocked (sStaged 0))) ∧ Asked (aAct 0 500 (sLocked (sStaged 0))) 0 0x0102 (some 0) ((aAct 0 500 (sLocked (sStaged 0))).dev.mbx.get 0) ∧
      ((aAct 0 500 (sLocked (sStaged 0))).dev.mbx.get 0).fld 8 8 = 500) ∧
    lowestCode false ((aAct 0 500 (sLocked (sStaged 0))).dev.actCodes 500) = none ∧
    lowestCode false ((aAct 0 500 (sStaged 0)).dev.actCodes 500) = some 0x0B01 ∧
    (Asked (aAct 1 0 (sStaged 500)) 0 0x0102 (some 1) ((aAct 1 0 (sStaged 500)).dev.mbx.get 0) ∧ (aAct 1 0 (sStaged 500)).dev.on F.GL_STAT_ACT_PEND = true ∧
      (aAct 1 0 (sStaged 500)).dev.cancelLate = false) ∧
    (aAct 1 0 (sStaged 106)).dev.cancelLate = true := by
  simp only [Running, Asked]; decide +kernel

def aForm (op n : Nat) (s : State) : State := ask 0 0x0201 ([op, 0, n % 256, n / 256, 0, 0, 0, 0] ++ List.replicate 512 0) s
def sPlain : State := dev (fun d => { d with plan0 := some plan2 }) inForce
theorem wit_FormWrite_others :
    (Running (aForm 1 4 sPlain) ∧ (aForm 1 4 sPlain).dev.on F.GL_STAT_ACT_PEND = false ∧ ((aForm 1 4 sPlain).dev.mbx.get 0).conflict = false ∧
      (aForm 1 4 sPlain).dev.on F.GL_STAT_STAGED = false ∧ (aForm 1 4 sPlain).dev.plan = some plan2 ∧
      Asked (aForm 1 4 sPlain) 0 0x0201 (some 1) ((aForm 1 4 sPlain).dev.mbx.get 0) ∧
      gateCode plan2.gate ((aForm 1 4 sPlain).dev.editForms.filter (fun x => x.1 != 4)) = none) ∧
    (Asked (aForm 2 0 (sStaged 0)) 0 0x0201 (some 2) ((aForm 2 0 (sStaged 0)).dev.mbx.get 0) ∧ (sStaged 0).dev.on F.GL_STAT_STAGED = true ∧
      (sStaged 0).dev.planBank (sStaged 0).dev.stagedBank = some plan2 ∧
      levelBad ((aForm 2 0 (sStaged 0)).dev.mbx.get 0).payload 8 = none) := by
  simp only [Running, Asked]; decide +kernel

/-- Lane 1 ACTIVE on vat 0, not held; frame 105. -/
def sLive (x : Vat) : State := dev (fun d => { (d.setHeld 0 false) with vl := { d.vl with vats := [(0, x)] } }) (at_ [(F.VL_LSTAT_STATE 1, 6)] inFrame)
def sof1 (seq : Nat) : SofS := { hdrOk := true, crcOk := true, seq := BitVec.ofNat 16 seq, epoch := 2, stamp := 105000, pa := true, held := false, tlock := true, eflt := false, p1ok := true, p0ok := true, port := false, ntap := 4 }
def seg0 : SenseSeg := { hdrOk := true, crcOk := true, status := ⟨0, 0, 0, false, 7⟩, codes := [1, 2, 3, 4] }
def sDue : State := dev (fun d => { d with vl := { d.vl with vats := [(0, { acc := 16 })] } }) (at_ [(F.VL_LSTAT_STATE 1, 6)] inFrame)
theorem wit_SenseFrames :
    (Running sDue ∧ sDue.dev.held 0 = true ∧ (sDue.dev.vat 0).holds = 0 ∧ sDue.dev.vatActive 0 = true ∧ 16 ≤ (sDue.dev.vat 0).acc ∧
      (sDue.dev.vat 0).relEff = none) ∧
    (Running (sLive { never := false }) ∧ (sLive { never := false }).dev.laneActive (1 : BitVec 7).toNat = true ∧
      ((sLive { never := false }).dev.lane 1).calHold = false ∧ ((sLive { never := false }).dev.lane 1).doubt = none ∧
      (sLive { never := false }).dev.vatEntry 0 = some { vat := 0, ntap := 4, ndrv := 2, nloop := 2 } ∧
      (sof1 105).hdrOk = true ∧ (sof1 105).crcOk = true ∧ (sof1 105).ntap.toNat = 4 ∧
      (sof1 105).seq.toNat = (sLive { never := false }).dev.now % 65536 ∧ stampOk (sof1 105).stamp.toNat 105 = true ∧
      (sLive { never := false }).dev.held 0 = false ∧ (sLive { never := false }).dev.liveEpoch 2 = true ∧
      (sLive { never := false }).dev.liveEpoch 9 = false ∧ (sof1 104).seq.toNat ≠ 105 ∧ ((sLive { never := false }).dev.lane 1).seqRej < 15) ∧
    (let s := sLive { sofN := 105, sof := some (sof1 105), copies := [true] }
     (s.dev.vat 0).sofN = s.dev.now ∧ (s.dev.vat 0).sof.isSome = true ∧ seg0.hdrOk = true ∧ seg0.crcOk = true ∧
      (s.dev.vat 0).copies.contains ((1 : Nat) % 2 == 1) = true ∧ (s.dev.vat 0).segs.contains 0 = false) ∧
    ({ sof1 105 with hdrOk := false } : SofS).hdrOk = false ∧ ({ seg0 with hdrOk := false } : SenseSeg).hdrOk = false := by
  simp only [Running]; decide

/-- Lane 127 in a state of Table 3.3. -/
def sLane (st : Nat) (x : Lane := {}) : State := dev (fun d => { d with vl := { d.vl with lanes := [(127, x)], gate := true } }) (at_ [(F.VL_LSTAT_STATE 127, st)])
def trn1 : Trn := { hdrOk := true, crcOk := true, crcInv := false, tstate := 2, fromEic := true, tlock := true, endp := true, nonceTx := 9, nonceEcho := 0, id := 5 }
theorem wit_LaneTraining :
    (Running (sLane 1) ∧ (sLane 1).dev.rd (F.VL_LSTAT_STATE 127) = 1 ∧ (sLane 2).dev.rd (F.VL_LSTAT_STATE 127) = 2 ∧
      (sLane 6).dev.rd (F.VL_LSTAT_STATE 127) = 6 ∧ agreeAll laneTols (List.replicate 6 ⟨5, 5, 6⟩) = some (some (List.replicate 6 5)) ∧
      laneOk (List.replicate 6 5) = true ∧ agreeAll laneTols (List.replicate 6 ⟨5, 50, 16⟩) = some none) ∧
    (((sLane 2 { locked := true, trnGood := 7 }).dev.lane 127).locked = true ∧ trn1.hdrOk = true ∧ trn1.crcOk = true ∧ trn1.fromEic = true ∧ trn1.id ≠ 0 ∧
      ((sLane 3 { locked := true, nonceTx := 0 }).dev.lane 127).nonceTx = trn1.nonceEcho ∧ 3 ≤ ({ trn1 with tstate := 3 } : Trn).tstate.toNat ∧
      (sLane 3 { locked := true }).dev.rd (F.VL_LSTAT_STATE 127) = 3 ∧ ((sLane 3).dev.boundId 63).getD trn1.id = trn1.id) ∧
    ((sLane 5 { locked := true }).dev.rd (F.VL_LSTAT_STATE 127) = 5 ∧ trn1.tlock = true ∧ (sLane 4).dev.rd (F.VL_LSTAT_STATE 127) = 4) ∧
    (((sLane 4 { dreq := some (7, 1000), nDelay := 14 }).dev.lane 127).dreq = some (7, 1000) ∧
      (sLane 4 { dreq := some (7, 1000), nDelay := 14 }).dev.on (F.VL_LSTAT_SPLIT 127) = false ∧
      (sLane 4 { dreq := some (7, 1000), nDelay := 14 }).dev.receives 127 = true ∧
      ((sLane 4 { dreq := some (7, 1000), nDelay := 14 }).dev.lane 127).nDelay < 15 ∧
      ¬((sLane 4 { dreq := some (7, 1000), nDelay := 15 }).dev.lane 127).nDelay < 15 ∧ (sLane 6).dev.rd F.VL_CFG_DJUMP_LIM < 1000 ∧
      ((sLane 6).dev.lane 127).dreqAt = none) := by
  simp only [Running]; decide
def sEn (st en auto : Nat) : State := at_ [(F.VL_LCFG_EN 127, en), (F.VL_CFG_AUTO_TRAIN, auto)] (sLane st)
theorem wit_LaneFaults :
    (∀ x, x ∈ [(2, 3), (3, 4), (4, 6), (5, 7)] → (sLane x.1).dev.rd (F.VL_LSTAT_STATE 127) = x.1) ∧
    ((sEn 8 1 0).dev.rd (F.VL_LSTAT_STATE 127) = 8 ∧ (sEn 8 1 0).dev.mayTrain 127 = true ∧ Running (sEn 8 1 0)) ∧
    ((sLane 6).dev.vatActive 63 = true ∧ (sLane 6).dev.laneActive 126 = false ∧ ((sLane 6).dev.lane 127).calHold = false ∧
      ((sLane 6 { calHold := true }).dev.lane 127).calHold = true) ∧
    (MayWrite (sEn 0 0 1) .steward (R.VL_LCFG 127) ∧ (sEn 0 0 1).dev.vl.gate = true ∧ (sEn 0 0 1).dev.on (F.VL_LCFG_EN 127) = false ∧
      (sEn 0 0 1).dev.on F.VL_CFG_AUTO_TRAIN = true ∧ bit (1 : Word).toNat 0 = true) ∧
    (MayWrite (sEn 6 1 1) .steward (R.VL_LCFG 127) ∧ (sEn 6 1 1).dev.on (F.VL_LCFG_EN 127) = true ∧ bit (0 : Word).toNat 0 = false) := by
  simp only [Running, MayWrite]; decide

def sRoles (a b : Nat) (s : State := {}) : State := at_ [(F.TW_STAT_ROLE_A, a), (F.TW_STAT_ROLE_B, b)] s
theorem wit_TwinRequests :
    (Running State.reset ∧ MayWrite State.reset .steward R.TW_CTL ∧ State.reset.fresh.dev.applyReqs.removeWhy .leb = none ∧
      State.reset.fresh.dev.applyReqs.swapWhy = none ∧ State.reset.fresh.dev.applyReqs.removeWhy .lea = none) ∧
    ((sRoles 1 0).fresh.dev.applyReqs.removeWhy .leb = some 3 ∧ (sRoles 1 0).fresh.dev.applyReqs.swapWhy = some 5 ∧
      (sRoles 1 0).fresh.dev.applyReqs.restoreWhy .leb = none ∧ State.reset.fresh.dev.applyReqs.restoreWhy .leb = some 1) ∧
    (setBit 0 2 % 32 = 2 ^ 2 ∧ setBit 0 3 % 32 = 2 ^ 3 ∧ setBit 0 4 % 32 = 16 ∧ setBit 0 0 % 32 = 2 ^ 0 ∧ setBit 0 1 % 32 = 2 ^ 1) := by
  simp only [Running, MayWrite]; decide
theorem wit_HealthWords : Running State.reset ∧ State.reset.dev.selfTests .leb = true ∧ State.reset.dev.on F.TW_STAT_ARB_FLT = false ∧
    State.reset.dev.faulty .leb = false ∧ (at_ [(F.TW_HEALTH_A_FAULT, 1)]).dev.faulty .lea = true := by
  simp only [Running]; decide
def sTw (f : Tw → Tw) (s : State := {}) : State := dev (fun d => { d with tw := f d.tw }) s
theorem wit_Resynchronisation :
    (Running (sTw (fun x => { x with wres := some { k := 2 } })) ∧ (sTw (fun x => { x with wres := some { k := 2 } })).dev.tw.wres = some { k := 2 } ∧
      0 < ({ k := 2 } : Resync).k ∧ ({ k := 2 } : Resync).copied = false ∧ (sTw (fun x => { x with vres := [(0, some { k := 2 })] })).dev.tw.vres.get 0 = some { k := 2 }) ∧
    ((sTw (fun x => { x with restoring := some .leb }) (sRoles 1 0)).dev.tw.restoring = some .leb ∧ (sRoles 1 0).dev.faulty .leb = false ∧
      (at_ [(healthFld .leb F.TW_HEALTH_A_FAULT, 1)]).dev.faulty .leb = true) ∧
    ((at_ [(F.TW_CFG_AUTO_RST, 1), (F.TW_STAT_CAUSE_B, 2)] (sRoles 1 0)).dev.rd (causeFld .leb) = 2 ∧
      (at_ [(F.TW_CFG_AUTO_RST, 1), (F.TW_STAT_CAUSE_B, 2)] (sRoles 1 0)).dev.on F.TW_CFG_AUTO_RST = true ∧
      (at_ [(F.TW_CFG_AUTO_RST, 1), (F.TW_STAT_CAUSE_B, 2)] (sRoles 1 0)).dev.on (autoFld .leb) = false ∧
      (at_ [(F.TW_CFG_AUTO_RST, 1), (F.TW_STAT_CAUSE_B, 2)] (sRoles 1 0)).dev.restoreWhy .leb = none) := by
  simp only [Running]; decide
def aTwin (op e : Nat) (s : State) : State := ask 4 0x0601 [op, e, 0, 0] s
theorem wit_TwinStatus :
    (∀ op, op < 4 → Asked (aTwin op 1 {}) 4 0x0601 (some op) ((aTwin op 1 {}).dev.mbx.get 4)) ∧ Running (aTwin 0 1 {}) ∧
    (((aTwin 1 1 (sRoles 1 0)).dev.mbx.get 4).fld 1 1 ≤ 1 ∧ (aTwin 1 1 (sRoles 1 0)).fresh.dev.applyReqs.restoreWhy .leb = none ∧
      (aTwin 1 1 {}).fresh.dev.applyReqs.restoreWhy .leb = some 1 ∧ 1 < ((aTwin 1 2 {}).dev.mbx.get 4).fld 1 1) ∧
    ((aTwin 2 1 {}).fresh.dev.applyReqs.removeWhy .leb = none ∧ (aTwin 2 1 (sRoles 1 0)).fresh.dev.applyReqs.removeWhy .leb = some 3 ∧
      (aTwin 3 1 {}).fresh.dev.applyReqs.swapWhy = none ∧ (aTwin 3 1 (sRoles 1 0)).fresh.dev.applyReqs.swapWhy = some 5) := by
  simp only [Running, Asked]; decide

def sPm (f : Pm → Pm) (s : State := {}) : State := dev (fun d => { d with pm := f d.pm }) s
def sUp : State := sPm (fun x => { x with opTgt := some 0, avsTgt := some 0, opReq := 0, undoOp := 2, mb := some (0, 0) }) (ask 0 0x0501 [0, 0])
theorem wit_OperatingPoint :
    (Running State.reset ∧ State.reset.dev.pm.avsTgt = none) ∧
    ((sPm (fun x => { x with p3 := .off, avsTgt := some 2 })).dev.unclocked = true ∧ sUp.dev.unclocked = false ∧
      ¬((0 : BitVec 10).toNat ≤ sUp.dev.opv 0 + 10 ∧ sUp.dev.opv 0 ≤ (0 : BitVec 10).toNat + 10)) ∧
    (sUp.dev.pm.avsTgt = some 0 ∧ (BitVec.ofNat 10 (sUp.dev.opv 0 - 10)).toNat ≤ sUp.dev.opv 0 + 10 ∧ sUp.dev.opv 0 ≤ (BitVec.ofNat 10 (sUp.dev.opv 0 - 10)).toNat + 10 ∧
      0 < sUp.dev.rd F.PM_STAT_OP ∧ sUp.dev.pm.mb = some (0, 0)) ∧
    ((sPm (fun x => { x with avsTgt := some 2 }) ).dev.rd F.PM_STAT_OP ≤ 2 ∧ (sPm (fun x => { x with avsRetry := true })).dev.pm.avsRetry = true) ∧
    ((sPm (fun x => { x with opTgt := some 2, divider := true })).dev.bm.sliceTo = none ∧
      (sPm (fun x => { x with opTgt := some 2, divider := true })).dev.rd F.PM_STAT_VOP ≤ 2 ∧
      (sPm (fun x => { x with opTgt := some 2, divider := true })).dev.chooserBlocks = false) := by
  simp only [Running]; decide
def aPm (want op : Nat) (s : State := {}) : State := ask 0 0x0501 [want, op] s
theorem wit_PowerStates :
    (∀ want, want < 5 → Running (aPm want 2) ∧ Asked (aPm want 2) 0 0x0501 (some want) ((aPm want 2).dev.mbx.get 0) ∧
      (aPm want 2).dev.on F.PM_STAT_SEQ = false ∧ ((aPm want 2).dev.mbx.get 0).fld 1 1 = 2 ∧ (aPm want 2).dev.opMin = 2 ∧
      (aPm want 2).dev.rd F.PM_STAT_OPMAX ≤ 2 ∧ (aPm want 2).dev.rd F.PM_STAT_OP ≤ 2 ∧ (aPm want 2).dev.on F.GL_STAT_ACT_PEND = false) ∧
    (aPm 1 2 (at_ [(F.PM_STAT_SEQ, 1)])).dev.on F.PM_STAT_SEQ = true ∧
    (2 < ((aPm 1 3).dev.mbx.get 0).fld 1 1 ∧ ((aPm 2 1).dev.mbx.get 0).fld 1 1 ≠ 2 ∧
      (aPm 0 1 (dev (fun d => { d with plan0 := some { plan with opmin := 0 } }) inForce)).dev.opMin < 1 ∧
      1 < (aPm 0 1 (at_ [(F.PM_STAT_OPMAX, 2)])).dev.rd F.PM_STAT_OPMAX ∧ (aPm 3 2 (at_ [(F.GL_STAT_ACT_PEND, 1)])).dev.on F.GL_STAT_ACT_PEND = true) ∧
    ((aPm 0 0).dev.rd F.PM_STAT_STATE < 2 ∧ max (((aPm 0 0).dev.mbx.get 0).fld 1 1) ((aPm 0 0).dev.rd F.PM_STAT_OPMAX) < (aPm 0 0).dev.rd F.PM_STAT_OP) ∧
    ((sPm (fun x => { x with p3 := .linkDown, p4 := true })).dev.pm.p4 = true ∧ (sP3 .linkDown).dev.pm.p4 = false) ∧
    ((sP3 .waiting).dev.slotsOver = true ∧ (dev (fun d => d.wr2 R.TB_SAMPLE_LO 1) (sP3 .held)).dev.pm.holdEff <
      (dev (fun d => d.wr2 R.TB_SAMPLE_LO 1) (sP3 .held)).dev.now) ∧
    ((sP3 .linkDown).dev.pm.p3 = .linkDown ∧ (sP3 .halted).dev.pm.p3 = .halted) := by
  simp only [Running, Asked]; decide
def sWake (w : WakeStep) (n : Nat) : State := sPm (fun x => { x with p3 := .off, wake := w, attempt := n }) (at_ [(F.PM_STAT_STATE, 3)])
theorem wit_Wake :
    (Running (sWake .none 0) ∧ (sWake .none 0).dev.pm.p3 = .off ∧ (sWake .none 0).dev.pm.wake = .none ∧
      ∀ m : BitVec 5, m = 1 ∨ m = 8 → (((at_ [(⟨R.PM_WAKE_CFG, 0, 5⟩, 31)] (sWake .none 0)).dev.tickTo 5).wakeSeen m.toNat 0 &&&
        ((at_ [(⟨R.PM_WAKE_CFG, 0, 5⟩, 31)] (sWake .none 0)).dev.reg R.PM_WAKE_CFG).toNat % 32) ≠ 0) ∧
    ((sWake .supply 1).dev.pm.avsTgt = none ∧ (sPm (fun x => { x with p3 := .boot, wake := .clocks })).dev.pm.p3 = .boot ∧
      (sP3 .woken).dev.pm.opTgt = none ∧ (sPm (fun x => { x with p3 := .woken, opTgt := some 0 })).dev.pm.opTgt ≠ none) ∧
    ((sWake .supply 1).dev.pm.wake = .supply ∧ (sWake .clocks 2).dev.pm.wake = .clocks ∧ (sWake .supply 1).dev.pm.attempt < 2 ∧ 2 ≤ (sWake .clocks 2).dev.pm.attempt) ∧
    ((sWake .retryWait 1).dev.pm.wake = .retryWait ∧ (sWake .measuring 1).dev.pm.wake = .measuring ∧ (sP3 .woken).dev.pm.p3 = .woken) ∧
    (MayWrite (at_ [(F.PM_EVT_WAKE_FAULT, 1)]) .operator R.PM_EVT ∧ (at_ [(F.PM_EVT_WAKE_FAULT, 1)]).dev.on F.PM_EVT_WAKE_FAULT = true) ∧
    (at_ [(F.TB_STAT_STATE, 5)] (sP3 .woken)).dev.tbState = 5 := by
  simp only [Running, MayWrite]; decide

/-! ### A form image that passes every check of R130, for the write clause of FormWrite -/

/-- The first 6,140 bytes of a form with no cell, no level and no VALID entry: FMTV 1, zeros after it. -/
def formBody : List Byte := [1, 0] ++ zeros 6138
def formImg : List Byte := formBody ++ toLe 4 (crc32c formBody)

theorem byteAt_eq (l : List Byte) (o : Nat) : byteAt l o = (l[o]?.getD 0).toNat := by
  have h : l[o]? = (l.drop o)[0]? := by simp
  rw [h, byteAt]
  cases l.drop o <;> simp
theorem leNat_zeros (n : Nat) : leNat (List.replicate n 0) = 0 := by
  induction n with
  | zero => rfl
  | succ n ih => rw [List.replicate_succ, leNat, ih]; rfl
theorem leNat_toLe4 (c : Nat) (h : c < 2 ^ 32) : leNat (toLe 4 c) = c := by
  simp only [toLe, leNat, BitVec.toNat_ofNat]
  omega
theorem toLe_length (n c : Nat) : (toLe n c).length = n := by
  induction n generalizing c with
  | zero => rfl
  | succ n ih => simp [toLe, ih]
theorem crcBit_lt (c : Nat) (h : c < 2 ^ 32) : crcBit c < 2 ^ 32 := by
  unfold crcBit
  split
  · exact Nat.xor_lt_two_pow (by omega) (by decide)
  · omega
theorem crcByte_lt (c : Nat) (b : Byte) (h : c < 2 ^ 32) : crcByte c b < 2 ^ 32 := by
  have hb : b.toNat < 2 ^ 32 := Nat.lt_of_lt_of_le b.isLt (by decide)
  unfold crcByte
  iterate 8 apply crcBit_lt
  exact Nat.xor_lt_two_pow h hb
theorem crcFold_lt (l : List Byte) (c : Nat) (h : c < 2 ^ 32) : l.foldl crcByte c < 2 ^ 32 := by
  induction l generalizing c with
  | nil => exact h
  | cons b l ih => exact ih _ (crcByte_lt c b h)
theorem crc32c_lt (l : List Byte) : crc32c l < 2 ^ 32 := Nat.xor_lt_two_pow (crcFold_lt l _ (by decide)) (by decide)

theorem formBody_length : formBody.length = 6140 := by rw [formBody, List.length_append, zeros, List.length_replicate]; rfl
theorem formImg_length : formImg.length = 6144 := by simp [formImg, formBody_length, toLe_length]
theorem formImg_get (o : Nat) (h : 2 ≤ o) (h' : o < 6140) : formImg[o]? = some 0 := by
  rw [formImg, List.getElem?_append_left (by rw [formBody_length]; exact h'), formBody, List.getElem?_append_right (by simpa using h)]
  rw [zeros, List.getElem?_replicate, if_pos (by show o - 2 < 6138; omega)]
theorem formImg_slice (o n : Nat) (h : 2 ≤ o) (h' : o + n ≤ 6140) : (formImg.drop o).take n = List.replicate n 0 := by
  apply List.ext_getElem?
  intro i
  simp only [List.getElem?_take, List.getElem?_drop, List.getElem?_replicate]
  split
  · rw [formImg_get (o + i) (by omega) (by omega)]
  · rfl
theorem formImg_byte (o : Nat) (h : 2 ≤ o) (h' : o < 6140) : byteAt formImg o = 0 := by
  rw [byteAt_eq, formImg_get o h h']; rfl
theorem formImg_le (o n : Nat) (h : 2 ≤ o) (h' : o + n ≤ 6140) : leAt formImg o n = 0 := by
  rw [leAt, formImg_slice o n h h', leNat_zeros]
theorem formImg_zeroIn (a b : Nat) (h : 2 ≤ a) (h' : b ≤ 6140) : zeroIn formImg a b 0 = none := by
  simp only [zeroIn, Option.map_eq_none_iff, List.find?_eq_none, List.mem_range]
  intro i hi
  simp [formImg_byte (a + i) (by omega) (by omega)]
theorem permList_zeros (n : Nat) : permList (List.replicate (2 * n) 0) = List.replicate n none := by
  induction n with
  | zero => rfl
  | succ n ih => rw [show 2 * (n + 1) = 2 * n + 1 + 1 by omega, List.replicate_succ, List.replicate_succ, permList, ih, List.replicate_succ]; rfl
theorem formImg_outs : permOuts formImg = [] := by
  rw [permOuts, formPerm, formImg_slice 3648 2048 (by decide) (by decide), show 2048 = 2 * 1024 from rfl, permList_zeros]
  exact List.filterMap_eq_nil_iff.mpr (fun a ha => by rw [List.eq_of_mem_replicate ha]; rfl)
theorem formImg_cell (c : Nat) : cellBit (formCells formImg) c = false := by
  have : byteAt (formCells formImg) (c / 8) = 0 := by
    rw [byteAt_eq, formCells, formImg_slice 64 1536 (by decide) (by decide), List.getElem?_replicate]
    split <;> rfl
  rw [cellBit, this, bit]
  simp
theorem formImg_code (d : Tbl Desc) : formCode 0 d formImg = 0 := by
  have h0 : leAt formImg 0 2 = 1 := rfl
  have hc : crc32c (formImg.take 6140) = leAt formImg 6140 4 := by
    have ht : formImg.take 6140 = formBody := by
      rw [formImg]; exact List.take_left' formBody_length
    have hd : formImg.drop 6140 = toLe 4 (crc32c formBody) := by
      rw [formImg]; exact List.drop_left' formBody_length
    rw [ht, leAt, hd, List.take_of_length_le (Nat.le_of_eq (toLe_length 4 _)), leNat_toLe4 _ (crc32c_lt _)]
  have hr : (List.range 1024).any (fun i => leAt formImg (3648 + 2 * i) 2 / 1024 % 32 != 0) = false := by
    rw [List.any_eq_false]
    intro i hi
    simp [formImg_le (3648 + 2 * i) 2 (by omega) (by have := List.mem_range.mp hi; omega)]
  have hl : (List.range 2048).any (fun p => formLvl formImg p != 0 && !(d.filterMap (fun kd => if kd.2.kind == 2 then some kd.2.idx.toNat else none)).contains p) = false := by
    rw [List.any_eq_false]
    intro i hi
    simp [formLvl, formImg_byte (1600 + i) (by omega) (by have := List.mem_range.mp hi; omega)]
  simp only [formCode, formImg_outs, formImg_cell, hr, hl, hc, h0, formImg_length, formImg_zeroIn 28 64 (by decide) (by decide),
    formImg_zeroIn 5696 6140 (by decide) (by decide), formImg_byte 2 (by decide) (by decide), formImg_byte 3 (by decide) (by decide),
    formImg_le 6 2 (by decide) (by decide), formImg_le 8 4 (by decide) (by decide)]
  simp

def sForm : State := aForm 0 4 sPlain
theorem wit_FormWrite :
    (Running sForm ∧ sForm.dev.on F.GL_STAT_ACT_PEND = false ∧ (sForm.dev.mbx.get 0).conflict = false ∧
      sForm.dev.on F.GL_STAT_STAGED = false ∧ sForm.dev.plan = some plan2 ∧
      Asked sForm 0 0x0201 (some 0) (sForm.dev.mbx.get 0) ∧ (sForm.dev.mbx.get 0).fld 2 2 = 4 ∧ plan2.topo.toNat = 0) ∧
    gateCode plan2.gate (withForm sForm.dev.editForms 4 formImg) = none ∧
    ((placeForms sForm.dev.fs sForm.dev.forceBank sForm.dev.fs.taken [(4, formImg)]).bind List.head?).isSome = true ∧
    placeForms sForm.dev.stageCopy.fs sForm.dev.stageCopy.forceBank sForm.dev.stageCopy.fs.taken [(4, formImg)] = some [(4, 0, false)] := by
  simp only [Running, Asked]; decide +kernel

/-- A host read of 16 beats of T4 at address 64, and one past the window's end. -/
def rq (tgt : Nat) (write : Bool) (addr : Nat) : BmReq := { mid := 4, pl := 2, cls := 0, tgt := BitVec.ofNat 3 tgt, write := write, beats := 1, addr := BitVec.ofNat 64 addr, data := [] }
theorem wit_BusRequest :
    (Running State.reset ∧ masterOf (4 : BitVec 4).toNat = some 1 ∧ bmOwn (rq 6 false 64) 1 = true ∧ bit (State.reset.dev.rd F.BM_STAT_DRAIN) 1 = false ∧
      bit (State.reset.dev.rd F.BM_STAT_TSTALL) 6 = false ∧ (dev (fun d => { d with pins := { d.pins with trstN := true } })).dev.pins.trstN = true ∧ State.reset.dev.on F.BM_ERR_INFO_VALID = false) ∧
    (bmShaped (rq 6 false 64) = true ∧ bmReaches (rq 6 false 64) 1 = true) ∧ bmShaped (rq 6 false 66) = false ∧
    (bmShaped (rq 1 true 64) = true ∧ bmReaches (rq 1 true 64) 1 = false) := by
  simp only [Running]; decide
def w1 : BmW := { q := rq 6 false 64, qos := 8, fresh := false }
def sBm (wait out : List BmW) : State := dev (fun d => { d with bm := { d.bm with wait := wait, out := out } })
theorem wit_BusGrantAndAnswer :
    (Running (sBm [w1] []) ∧ bit (((sBm [w1] []).fresh.dev.bmAge 6 3).pausedPorts) 12 = false ∧
      ((sBm [w1] []).fresh.dev.bmAge 6 3).winner 6 (((sBm [w1] []).fresh.dev.bmAge 6 3).contenders 6) = some (0, { w1 with wait := 3 })) ∧
    ((sBm [] [w1]).dev.bmFind 6 4 false (fun _ => true) = some (0, w1) ∧ w1.late = false ∧ w1.drain = false ∧ w1.m ≠ 0 ∧ w1.m ≠ 4 ∧
      (sBm [] [w1]).dev.bmFind 6 4 false (fun x => !x.late) = some (0, w1)) := by
  simp only [Running]; decide
def w0 : BmW := { q := { rq 6 false 64 with mid := 0 } }
/-- The command of mailbox 0 in progress, whose read fails. -/
def sM0 : State := dev (fun d => { d with mbx := [(0, { cmd := 0x0B01, taken := true })], bm := { d.bm with out := [w0] } }) (at_ [(F.MB_STAT_STATE 0, 1)])
/-- Transactions at T6: a write of NV_REFRESH_DAYS, with too little privilege and with enough, and a read of VL_BLK_ERR of lane 0. -/
def rq6 (pl : Nat) (write : Bool) (addr : Nat) : BmReq := { rq 6 write addr with pl := BitVec.ofNat 2 pl, data := if write then toLe 4 30 else [] }
def w6 (pl : Nat) (write : Bool) (addr : Nat) : BmW := { q := rq6 pl write addr, qos := 8, fresh := false }
def sT6 (w : BmW) : State := sBm [w] []
theorem wit_BusGrantAndAnswer_t6 :
    (∀ w, w = w6 3 true R.NV_REFRESH_DAYS ∨ w = w6 0 true R.NV_REFRESH_DAYS ∨ w = w6 2 false 0x110070 ∨ w = w6 2 false R.TW_MISMATCH →
      Running (sT6 w) ∧ bit (((sT6 w).fresh.dev.bmAge 6 3).pausedPorts) 12 = false ∧
      ((sT6 w).fresh.dev.bmAge 6 3).winner 6 (((sT6 w).fresh.dev.bmAge 6 3).contenders 6) = some (0, { w with wait := 3 })) ∧
    (t6Need R.NV_REFRESH_DAYS < (rq6 3 true R.NV_REFRESH_DAYS).pl.toNat ∧ ¬ t6Need R.NV_REFRESH_DAYS < (rq6 0 true R.NV_REFRESH_DAYS).pl.toNat ∧
      R.NV_REFRESH_DAYS / 0x10000 ∈ [7, 8, 10, 15, 16] ∧ (regAt R.NV_REFRESH_DAYS).map (fun r => r.reserved 30) = some false) ∧
    ((regAt R.TW_MISMATCH).map RegSpec.isRc = some true ∧ inAreas R.TW_MISMATCH = false ∧ R.TW_MISMATCH / 0x10000 ∉ [17, 21]) := by
  refine ⟨?_, by decide, by decide⟩
  rintro w (rfl | rfl | rfl | rfl) <;> (simp only [Running]; decide)
/-- A failed load of M3 from host memory, and a failed record write of M2 to ring 0. -/
def w3 : BmW := { q := { rq 4 false 64 with mid := 7, cls := 1 } }
def w2 : BmW := { q := { rq 4 true 0x40 with mid := 5, data := zeros 4 } }
def sM3 : State := dev (fun d => { d with bm := { d.bm with out := [w3, w2] } }) (sTaken (aLoad inForce))
def sM2 : State := dev (fun d => { d.wr2 (R.EVQ_BASE_LO 0) 0x40 with bm := { d.bm with out := [w2] } }) (at_ [(F.EVQ_CFG_EN 0, 1)])
theorem wit_BusGrantAndAnswer_masters :
    (Running sM3 ∧ w3.m = 3 ∧ w3.q.cls = 1 ∧ sM3.dev.bmFind 4 7 false (fun _ => true) = some (0, w3) ∧ sM3.dev.loadingMb = some 0) ∧
    (Running sM2 ∧ w2.m = 2 ∧ w2.q.mid = 5 ∧ sM2.dev.bmFind 4 5 true (fun _ => true) = some (0, w2) ∧ sM2.dev.on (F.EVQ_CFG_EN 0) = true ∧
      (∀ k, k < 16 → k ≠ 0 → sM2.dev.on (F.EVQ_CFG_EN k) = false) ∧ sM2.dev.rd2 (R.EVQ_BASE_LO 0) ≤ w2.q.addr.toNat ∧
      w2.q.addr.toNat < sM2.dev.rd2 (R.EVQ_BASE_LO 0) + 64 * 2 ^ sM2.dev.rd (F.EVQ_CFG_SIZE 0)) := by
  simp only [Running]; decide
theorem wit_BusGrantAndAnswer_stewards : Running sM0 ∧ w0.m = 0 ∧ w0.late = false ∧ w0.drain = false ∧
    sM0.dev.bmFind 6 0 false (fun _ => true) = some (0, w0) ∧ sM0.dev.mbx = [(0, { cmd := 0x0B01, taken := true })] ∧
    ({ cmd := 0x0B01, taken := true } : Mbx).ready = none ∧ sM0.dev.rd (F.MB_STAT_STATE 0) = 1 := by
  simp only [Running]; decide
def sSlice : State := dev (fun d => { d with bm := { d.bm with sliceTo := some 5 } }) (at_ [(⟨R.BM_SLICE, 0, 14⟩, 5)])
def sDrain : State := sBm [] [{ w1 with drain := true }]
/-- A write of T0 waits, of which nothing is known; it fails when it is outstanding. -/
def w7 : BmW := { q := { mid := 0, pl := 0, cls := 0, tgt := 0, write := true, beats := 1, addr := 64, data := List.replicate 16 5 }, qos := 8, fresh := false }
theorem wit_BusGrantAndAnswer_memory :
    (Running (sBm [w7] []) ∧ bit (((sBm [w7] []).fresh.dev.bmAge 0 3).pausedPorts) 6 = false ∧
      ((sBm [w7] []).fresh.dev.bmAge 0 3).winner 0 (((sBm [w7] []).fresh.dev.bmAge 0 3).contenders 0) = some (0, { w7 with wait := 3 }) ∧
      w7.q.write = true ∧ bmHolds 0 = true) ∧
    ((sBm [] [w7]).dev.bmFind 0 0 true (fun _ => true) = some (0, w7) ∧ (5 : BitVec 3).toNat ≠ 0 ∧ w7.late = false ∧ w7.drain = false) := by
  simp only [Running]; decide
theorem wit_BusSlicesAndDrains :
    (MayWrite State.reset .steward R.BM_SLICE ∧ State.reset.dev.pm.opTgt = none ∧
      (5 % 2 ^ 14 &&& sliceAllowed (State.reset.dev.rd F.PM_STAT_OP)) ≠ State.reset.dev.sliceEff ∧
      (0 % 2 ^ 14 &&& sliceAllowed (State.reset.dev.rd F.PM_STAT_OP)) = State.reset.dev.sliceEff ∧ sUp.dev.pm.opTgt ≠ none) ∧
    (Running sSlice ∧ sSlice.dev.bm.sliceTo = some 5 ∧ sSlice.dev.pm.opTgt = none ∧ sSlice.dev.pm.mb = none ∧ sSlice.dev.st.raising = false ∧
      sSlice.dev.rd F.PM_STAT_OP = sSlice.dev.opWant ∧ sSlice.dev.sliceFor (sSlice.dev.rd F.PM_STAT_OP) = 5 ∧
      sSlice.dev.rd F.PM_STAT_VOP = sSlice.dev.rd F.PM_STAT_OP ∧ sSlice.dev.pm.avsTgt = none ∧ sUp.dev.pointStands = false) ∧
    ((sBm [] [w1]).dev.bm.out.map (fun (w : BmW) => if w.m = 1 ∧ !w.late then { w with drain := true } else w)).any (fun w => w.m == 1 && w.drain) = true ∧
    (sDrain.dev.bm.out.find? (fun w => w.m == 1 && w.drain && w.q.tgt.toNat == 6 && (!w.late || sDrain.dev.drainsLate 1)) =
      some { w1 with drain := true } ∧ sDrain.dev.lastDrain 1 = true) := by
  simp only [Running, MayWrite]; decide

def sTh (f : Th → Th) (s : State := {}) : State := dev (fun d => { d with th := f d.th }) s
def sHot : State := sTh (fun x => { x with rIn := 7, hist := List.replicate 255 0x2800 }) (at_ [(F.TH_TMAX, 0x3C00), (F.TH_ATRIP, 0x3C00)])
def sThrot (max : Nat) : State := at_ [(F.TH_STAT_THROT, 1), (F.PM_STAT_OPMAX, max)]
def sTrip : State := at_ [(F.TH_STAT_TRIP, 1)]
theorem wit_Thermal :
    (Running sHot ∧ sHot.dev.rd F.PM_STAT_STATE ≠ 4 ∧ sHot.dev.on F.TH_STAT_TRIP = false ∧ 7 ≤ sHot.dev.th.rIn ∧
      sgn 16 (sHot.dev.rd F.TH_ATRIP) ≤ sgn 16 (sHot.dev.rd F.TH_TMAX) ∧ sHot.dev.th.hist[sHot.dev.rd F.TH_CFG_WIN - 1]? = some 0x2800) ∧
    (divRne ((sgn 16 (sHot.dev.rd F.TH_TMAX) - 0x2800) * 125) (sHot.dev.rd F.TH_CFG_WIN) < 32768 ∧
      -32768 ≤ divRne ((sgn 16 (sHot.dev.rd F.TH_TMAX) - 0x2800) * 125) (sHot.dev.rd F.TH_CFG_WIN)) ∧
    (sHot.dev.coreOff = false ∧ (sWake .none 0).dev.coreOff = true ∧ (sRun 3 130).dev.runOn 130 = true ∧ State.reset.dev.runOn 130 = false) ∧
    ((sThrot 0).dev.on F.TH_STAT_THROT = true ∧ (sThrot 0).dev.rd F.PM_STAT_OPMAX < (sThrot 0).dev.opMin ∧
      (sThrot 2).dev.opMin ≤ (sThrot 2).dev.rd F.PM_STAT_OPMAX ∧ State.reset.dev.on F.TH_STAT_THROT = false) ∧
    (sTrip.dev.on F.TH_STAT_TRIP = true ∧ sTrip.dev.rd F.PM_STAT_STATE ≠ 4 ∧ sTrip.dev.fc.latch = false) ∧
    (let s := dev (fun d => { d with fc := { d.fc with latch := true } }) (at_ [(F.TH_STAT_TRIP, 1), (F.FC_STAT_SAFE, 2)])
     s.dev.on F.TH_STAT_TRIP = true ∧ s.dev.fc.latch = true ∧ s.dev.rd F.FC_STAT_SAFE = 2) ∧
    (let s := at_ [(F.TH_STAT_RATE_ARMED, 1), (F.TH_CFG_RATE_EN, 1), (F.TH_FLOOR, 0), (F.TH_RTRIP, 0)] sHot
     s.dev.on F.TH_STAT_RATE_ARMED = true ∧ s.dev.on F.TH_CFG_RATE_EN = true ∧ sgn 16 (s.dev.rd F.TH_FLOOR) ≤ sgn 16 (s.dev.rd F.TH_TMAX) ∧
      sgn 16 (s.dev.rd F.TH_RTRIP) ≤ divRne ((sgn 16 (s.dev.rd F.TH_TMAX) - 0x2800) * 125) (s.dev.rd F.TH_CFG_WIN) ∧
      sHot.dev.on F.TH_STAT_RATE_ARMED = false) ∧
    (State.reset.dev.on F.TH_STAT_NCONV = true ∧ (at_ [(F.TH_STAT_NCONV, 0)]).dev.on F.TH_STAT_NCONV = false ∧
      (at_ [(F.TH_STAT_NCONV, 0)]).dev.on F.TH_STAT_RATE_ARMED = false ∧ (at_ [(F.TH_STAT_NCONV, 0)]).dev.rd F.PM_STAT_STATE < 2) ∧
    (MayWrite State.reset .steward R.TH_BOARD ∧ bit (0x11400 : Word).toNat 16 = true ∧ MayWrite State.reset .steward R.TH_FIT_CTL ∧
      State.reset.dev.th.fitOn = false ∧ (sTh (fun x => { x with fitOn := true })).dev.th.fitOn = true) := by
  simp only [Running, MayWrite]; decide

def s3line : Line := { code := 0x0904, sev := 3, src := srcWord 9, info := 1, hw := true }
def s0line : Line := { code := 0x0201, sev := 0, src := srcWord 2, info := 1, hw := true }
def sLine (s : State := {}) : State := dev (fun d => { d with fc := { d.fc with lines := [{ line := s3line }, { line := { s3line with code := 0x0704 } }] } }) s
def sLatch : State := dev (fun d => { d with fc := { d.fc with latch := true } }) (at_ [(F.FC_STAT_SAFE, 1)])
def sDark : State := dev (fun d => { d with le := { d.le with darkN := 144 } }) (at_ [(F.FC_STAT_SAFE, 2)] inForce)
theorem wit_Collector :
    (State.reset.dev.unclocked = false ∧ (sWake .none 0).dev.unclocked = true ∧
      sLine.dev.fc.latch = false ∧ s3line.sev = 3 ∧ sLine.dev.asksHold s3line = true ∧ holdOnly s3line.code.toNat = true ∧
      (sLine sDark).dev.fc.latchLogged = false ∧ (sLine sDark).dev.rd F.FC_STAT_SAFE = 2) ∧
    (Running State.reset ∧ ([({ line := s3line } : Raised)]).filter (fun x => !isProt x) = [{ line := s3line }] ∧ sortBy lineLe (State.reset.dev.fc.lines ++ [({ line := s3line } : Raised)]) ≠ [] ∧
      (sortBy lineLe (State.reset.dev.fc.lines ++ [({ line := s3line } : Raised)])).any (fun x => State.reset.dev.asksSafe x.line) = true ∧
      (sortBy lineLe (State.reset.dev.fc.lines ++ [({ line := s0line } : Raised)])).any (fun x => State.reset.dev.asksSafe x.line) = false ∧
      State.reset.dev.on F.FC_STAT_FIRST_VALID = false) ∧
    (sLatch.dev.fc.latch = true ∧ sLatch.dev.fc.latchLogged = false ∧ ∀ x ∈ sLatch.dev.fc.lines, x.line.sev ≠ 3) ∧
    (sDark.dev.plan = some plan ∧ sDark.dev.rd F.FC_STAT_SAFE = 2 ∧ sDark.dev.le.darkDone = none ∧
      (65535 + plan.darkStep - 1) / plan.darkStep + 16 ≤ sDark.dev.le.darkN) := by
  simp only [Running]; decide
theorem wit_FaultControl :
    (Running State.reset ∧ MayWrite State.reset .steward R.FC_SAFE_CTL ∧ MayWrite State.reset .steward R.FC_CLR ∧ State.reset.dev.unclocked = false ∧
      bit (4 : Word).toNat 1 = false ∧ bit (4 : Word).toNat 2 = true ∧ bit (2 : Word).toNat 0 = false ∧ State.reset.dev.exitOk = false) ∧
    sLatch.dev.exitOk = true ∧
    (setBit 0 0 % 32 = 1 ∧ setBit 0 1 % 32 = 2 ∧ setBit 0 2 % 32 = 4 ∧ setBit 0 3 % 32 = 8 ∧ setBit 0 4 % 32 = 16) := by
  simp only [Running, MayWrite]; decide

def ev1 : Ev := { ty := 1, code := 0x10 }
def sInbox (s : State := {}) : State := dev (fun d => { d with evq := { d.evq with inbox := [ev1] } }) s
def sRing (pi ci : Nat) : State := dev (fun d => { d with evq := { d.evq with rings := [(15, { todo := [ev1], unsig := 1 })] } })
  (at_ [(F.EVQ_CFG_EN 15, 1), (F.EVQ_CFG_SIZE 15, 6), (F.EVQ_CFG_TYPEMASK 15, 2), (F.EVQ_PI 15, pi), (F.EVQ_CI 15, ci)])
theorem wit_EventRings :
    (Running (sInbox) ∧ sInbox.dev.evq.inbox = [ev1] ∧ sInbox.dev.anyRing = false ∧ sInbox.dev.evq.pend.length < 256 ∧
      (List.range 16).filter ((sInbox (sRing 0 0)).dev.ringTakes ev1) = [15] ∧
      (List.range 16).filter ((sInbox (at_ [(F.EVQ_CFG_TYPEMASK 15, 0)] (sRing 0 0))).dev.ringTakes ev1) = [] ∧ (sRing 0 0).dev.anyRing = true) ∧
    ((sRing 63 0).dev.evq.rings.get (15 : BitVec 4).toNat = { todo := [ev1], unsig := 1 } ∧
      ¬ 2 ^ (sRing 63 0).dev.rd (F.EVQ_CFG_SIZE 15) ≤ ((sRing 63 0).dev.rd (F.EVQ_PI 15) + 2 ^ 32 - (sRing 63 0).dev.rd (F.EVQ_CI 15)) % 2 ^ 32 ∧
      2 ^ (sRing 64 0).dev.rd (F.EVQ_CFG_SIZE 15) ≤ ((sRing 64 0).dev.rd (F.EVQ_PI 15) + 2 ^ 32 - (sRing 64 0).dev.rd (F.EVQ_CI 15)) % 2 ^ 32 ∧
      ((sRing 63 0).dev.evq.rings.get 15).unsig ≠ 0) ∧
    (let x := (dev (fun d => { d with evq := { d.evq with rings := [(15, { todo := [ev1, ev1, ev1], lost := 2 })] } }) (sRing 62 0)).dev.evq.rings.get 15
     min x.todo.length (64 - (62 + 2 ^ 32 - 0) % 2 ^ 32) = 2) ∧
    (MayWrite (sRing 5 3) .steward (R.EVQ_CI 15) ∧
      (5 + 2 ^ 32 - (sRing 5 3).dev.rd (F.EVQ_CI 15)) % 2 ^ 32 ≤ ((sRing 5 3).dev.rd (F.EVQ_PI 15) + 2 ^ 32 - (sRing 5 3).dev.rd (F.EVQ_CI 15)) % 2 ^ 32 ∧
      ¬ (6 + 2 ^ 32 - (sRing 5 3).dev.rd (F.EVQ_CI 15)) % 2 ^ 32 ≤ ((sRing 5 3).dev.rd (F.EVQ_PI 15) + 2 ^ 32 - (sRing 5 3).dev.rd (F.EVQ_CI 15)) % 2 ^ 32) ∧
    (MayWrite State.reset .steward (R.EVQ_CFG 15) ∧ State.reset.dev.on (F.EVQ_CFG_EN 15) = false ∧ (sRing 5 3).dev.on (F.EVQ_CFG_EN 15) = true) := by
  simp only [Running, MayWrite]; decide
def tr1 : Trec := { ring := some 7, ty := 1, payload := [1] }
def sTrace (pi en : Nat) : State := dev (fun d => { (d.wr2 (R.TRC_PI_LO 7) pi) with trc := { d.trc with inbox := [tr1], rings := [(7, { ci := 2 })] } })
  (at_ [(F.TRC_CFG_EN 7, en), (F.TRC_CFG_SIZE 7, 12), (F.TRC_CI_LO 7, 4)])
theorem wit_TraceRings :
    (Running (sTrace 65 1) ∧ (sTrace 65 1).dev.trc.inbox = [tr1] ∧ (sTrace 65 1).dev.trRings tr1 = [7] ∧ (sTrace 65 1).dev.on (F.TRC_CFG_EN 7) = true ∧
      (sTrace 65 1).dev.rd2 (R.TRC_PI_LO 7) - ((sTrace 65 1).dev.trc.rings.get 7).ci < 2 ^ ((sTrace 65 1).dev.rd (F.TRC_CFG_SIZE 7) - 6) ∧
      2 ^ ((sTrace 66 1).dev.rd (F.TRC_CFG_SIZE 7) - 6) ≤ (sTrace 66 1).dev.rd2 (R.TRC_PI_LO 7) - ((sTrace 66 1).dev.trc.rings.get 7).ci ∧
      (sTrace 65 0).dev.on (F.TRC_CFG_EN 7) = false) ∧
    (MayWrite (sTrace 65 1) .steward (R.TRC_CI_HI 7) ∧ 2 ≤ (sTrace 65 1).dev.rd (F.TRC_CI_LO 7) + 2 ^ 32 * (0 : Word).toNat ∧
      (sTrace 65 1).dev.rd (F.TRC_CI_LO 7) + 2 ^ 32 * (0 : Word).toNat ≤ (sTrace 65 1).dev.rd2 (R.TRC_PI_LO 7) ∧
      ¬ ((sTrace 65 1).dev.rd (F.TRC_CI_LO 7) + 2 ^ 32 * (1 : Word).toNat ≤ (sTrace 65 1).dev.rd2 (R.TRC_PI_LO 7))) ∧
    (MayWrite (sTrace 65 0) .steward (R.TRC_CFG 7) ∧ bit (1 : Word).toNat 0 = true) := by
  simp only [Running, MayWrite]; decide

/-- counter.config of OP on COUNTER; EVENT, WBASE as given. -/
def aPc (op c event wbase : Nat) : State :=
  ask 0 0x0A01 [op, c, event % 256, event / 256, 15, 63, 15, 13, wbase % 256, wbase / 256 % 256, wbase / 65536, 0, 0, 0, 0, 0]
theorem wit_PerformanceCounters :
    (Running State.reset ∧ MayWrite State.reset .steward R.PC_CTL ∧ bit (2 : Word).toNat 0 = false ∧ bit (2 : Word).toNat 2 = false) ∧
    (isSelect 0x150100 = true ∧ isSelect 0x1503E0 = true ∧ MayWrite State.reset .steward 0x150100 ∧ MayWrite State.reset .steward 0x1503E0 ∧
      0x150100 < R.PC_EVSEL 0 ∧ (regAt 0x150100).isSome = true ∧ ((regAt 0x150100).map (fun r => r.reserved 1)) = some false ∧
      R.PC_EVSEL 0 ≤ 0x1503E0 ∧ evListed (0xFF0604 % 65536) = true ∧ evTakes (0xFF0604 % 65536) (0xFF0604 / 65536 % 256) = true) ∧
    (∀ op, op < 3 → Asked (aPc op 31 0x0604 0) 0 0x0A01 (some op) ((aPc op 31 0x0604 0).dev.mbx.get 0)) ∧
    (pcCounter 31 = some (R.PC_EVCNT_LO 15, 23) ∧ pcCounter 7 = some (R.PC_BPCNT_LO 7, 7) ∧ pcSetBad ((aPc 0 7 7 0).dev.mbx.get 0) = none ∧
      pcSetBad ((aPc 0 7 8 0).dev.mbx.get 0) = some 2) := by
  simp only [Running, MayWrite, Asked]; decide
theorem wit_FixedCounterCommands :
    Running (aPc 1 0xFF 0 0x110070) ∧ ((aPc 1 0xFF 0 0x110070).dev.mbx.get 0).fld 1 1 = 0xFF ∧
    (∀ op, op < 3 → Asked (aPc op 0xFF 0 0x110070) 0 0x0A01 (some op) ((aPc op 0xFF 0 0x110070).dev.mbx.get 0)) ∧
    ((aPc 1 0xFF 0 0x110070).dev.mbx.get 0).fld 8 4 = 0x110070 ∧ isFixed 0x110070 = true ∧ isFixed R.TW_MISMATCH = true ∧ isFixed 0x150010 = false := by
  simp only [Running, Asked]; decide

def anc1 : Announce := { parent := 7, gmId := 8, gmQuality := 9, prio1 := 1, prio2 := 2, steps := 1, utc := 37, ptpScale := true }
def sPtp (a b : PtpPort) (s : State := {}) : State :=
  dev (fun d => { d with tb := { d.tb with pa := a, pb := b } })
    (at_ [(F.TB_PTP_CFG_PORT_EN_A, 1), (F.TB_PTP_CFG_PORT_EN_B, 1), (rpFld .rpa F.RPA_STAT_LINK, 1), (rpFld .rpb F.RPA_STAT_LINK, 1), (F.TB_PTP_CFG_DOMAIN, 0)] s)
def hdr0 : PtpHdr := ⟨.ethernet, some false, 0, 0, 7⟩
def sHeard : State := sPtp { master := some anc1, lost := false, delay := 32 } { master := none, pend := some { seq := 3, rx := 900 }, reqOut := true, reqSeq := 5 }
def sPps (cand : Bool) (n : Nat) : State := dev (fun d => { d with tb := { d.tb with ppsCand := cand, ppsCnt := n } })
  (at_ [(F.TB_PPS_CFG_IN_EN, 1), (F.TB_PPS_CFG_POL_AUTO, 1), (F.TB_CFG_SRC, 1), (F.TB_STAT_STATE, 2), (F.TB_PPS_CFG_OUT_EN, 1)])
def sHeardB : State := sPtp { master := some anc1, lost := false, delay := 32 } { master := some anc1, pend := some { seq := 3, rx := 900 } }
theorem wit_TimeInputs :
    (Running sHeard ∧ sHeard.dev.ptpTakes .rpa hdr0 (-7) 0 = true ∧ sHeard.dev.fromBest .rpa hdr0 = true ∧
      sHeard.dev.fromBest .rpb hdr0 = false ∧ sHeardB.dev.fromBest .rpb hdr0 = true ∧ sHeardB.dev.ptpTakes .rpb hdr0 (-7) 0 = true ∧
      (sHeardB.dev.ptp .rpb).pend = some { seq := 3, rx := 900 } ∧
      sHeard.dev.on F.TB_REF_STAT_SWITCHING = false ∧ sHeard.dev.portInCal .rpa = false ∧ (at_ [(F.TB_REF_STAT_SWITCHING, 1)] sHeard).dev.ptpTakes .rpa hdr0 (-7) 0 = true) ∧
    (sHeard.dev.ptpTakes .rpb hdr0 (-7) 0 = true ∧ sHeard.dev.ptpTakes .rpb hdr0 (-3) 3 = true ∧ sHeard.dev.ptpTakes .rpb hdr0 (-128) 127 = true ∧
      sHeard.dev.ptpOn .rpb = true ∧ (sHeard.dev.ptp .rpb).reqAt = none ∧ sHeard.dev.selected ≠ .rpb ∧ (sHeard.dev.ptp sHeard.dev.selected).good = true ∧ (sHeard.dev.ptp .rpb).pend = some { seq := 3, rx := 900 } ∧ (sHeard.dev.ptp .rpb).master = none ∧
      (sHeard.dev.ptp .rpb).reqOut = true ∧ (sHeard.dev.ptp .rpb).reqSeq = 5 ∧ sHeard.dev.on (rpFld .rpb F.RPA_STAT_LINK) = true) ∧
    (sHeard.dev.selected = .rpa ∧ (at_ [(F.TB_STAT_STATE, 2)] sHeard).dev.tbState = 2 ∧ (sHeard.dev.ptp .rpb).good = false ∧
      (at_ [(F.TB_STAT_STATE, 2), (F.TB_CFG_SRC, 0)] sHeard).dev.tbSrc = 0) ∧
    ((sPps true 2).dev.on F.TB_PPS_CFG_IN_EN = true ∧ (if (sPps true 2).dev.on F.TB_PPS_CFG_POL_AUTO then true else true == (sPps true 2).dev.on F.TB_PPS_CFG_POL_FORCE) = true ∧
      min 3 ((sPps true 2).dev.tb.ppsCnt + 1) = 3 ∧ min 3 ((sPps true 1).dev.tb.ppsCnt + 1) < 3 ∧ (sPps true 2).dev.tbSrc = 1 ∧ (sPps true 2).dev.tbState = 2) ∧
    ((sPps true 2).dev.on F.TB_PPS_CFG_OUT_EN = true ∧ (sPps true 2).dev.tbState ≠ 0 ∧ (sPps true 2).dev.rd F.PM_STAT_STATE < 3 ∧ (sPps true 2).dev.tb.ppsOut = false ∧
      (dev (fun d => { d with tb := { d.tb with ppsOut := true } })).dev.tb.ppsOut = true) := by
  simp only [Running]; decide

def sRefs (a b : Nat) : State := at_ [(refOk .a, a), (refOk .b, b)]
def sSrc (src st : Nat) (s : State := {}) : State := at_ [(F.TB_CFG_SRC, src), (F.TB_STAT_STATE, st)] s
def aTime (s : State) : State := ask 4 0x0801 [] s
theorem wit_TimeBase :
    (Running (sRefs 1 1) ∧ (sRefs 1 1).dev.on (refOk .a) = true ∧ (sRefs 1 1).dev.on (refOk .b) = true ∧
      (sRefs 1 0).dev.on (refOk .b) = false ∧ (sRefs 1 0).dev.on (refOk .a) = true) ∧
    ((sRefs 0 0).dev.on (refOk (sRefs 0 0).dev.refUse) = false ∧ RefIn.b ≠ (sRefs 0 0).dev.refUse) ∧
    (MayWrite (sSrc 0 2) .steward R.TB_CFG ∧ (0x10 : Word).toNat / 16 % 4 ≤ 2 ∧ (sSrc 0 2).dev.rd F.TB_CFG_SRC = 0 ∧ (sSrc 0 2).dev.tbState = 2 ∧
      (sSrc 0 5).dev.tbState = 5 ∧ (sSrc 0 5).dev.tb.srcPend = none) ∧
    (MayWrite inForce .steward R.TB_STEP_CTL ∧ inForce.dev.on F.GL_STAT_PLAN = true ∧ inForce.dev.tbState ≠ 5 ∧ State.reset.dev.on F.GL_STAT_PLAN = false ∧
      (sSrc 0 0).dev.tbSrc = 0 ∧ (sSrc 1 0).dev.tbSrc = 1 ∧ (sSrc 2 0 sBoot).dev.tbSrc = 2 ∧ (sSrc 2 0 sBoot).dev.vl.gate = true) ∧
    MayWrite State.reset .steward R.TB_SNAP_CTL ∧
    (Asked (aTime sHeard) 4 0x0801 none ((aTime sHeard).dev.mbx.get 4) ∧ ((aTime sHeard).dev.ptp (aTime sHeard).dev.selected).master = some anc1 ∧
      Asked (aTime {}) 4 0x0801 none ((aTime {}).dev.mbx.get 4) ∧ ((aTime {}).dev.ptp (aTime {}).dev.selected).master = none) := by
  simp only [Running, MayWrite, Asked]; decide

/-- loop.tune of OP on vat 0, loop 1: KP takes the image's value. -/
def aTune (op : Nat) (s : State := inForce) : State := ask 4 0x0301 ([op, 0, 0, 0, 32, 0, 0, 0, 2] ++ List.replicate 31 0 ++ List.replicate 40 0) s
def sState (on_ : Bool) : State := dev (fun d => { d with le := { d.le with a := { d.le.a with loops := [(loopKey 0 1, { st := on_, mode := .run })] } } }) inForce
def aReadLoop (s : State) : State := ask 0 0x0302 [0, 0, 0, 0, 2, 0, 0, 0] s
theorem wit_Tuning :
    (Running (aTune 0) ∧ (∀ op, op < 3 → Asked (aTune op) 4 0x0301 (some op) ((aTune op).dev.mbx.get 4)) ∧
      (aTune 0).dev.tuneVat ((aTune 0).dev.mbx.get 4) = .inr (.inl (plan, { vat := 0, ntap := 4, ndrv := 2, nloop := 2 })) ∧
      tuneLoops ((aTune 0).dev.mbx.get 4) = [1]) ∧
    (((aTune 1 (sState true)).dev.descsAhead.get (loopKey 0 1)).isCell = true ∧
      (((aTune 1 (sState true)).dev.eng (aTune 1 (sState true)).dev.active).loops.get (loopKey 0 1)).st ≠ bit (((aTune 1 (sState true)).dev.mbx.get 4).fld 2 1) 0 ∧
      (((aTune 1 (sState false)).dev.eng (aTune 1 (sState false)).dev.active).loops.get (loopKey 0 1)).st = bit (((aTune 1 (sState false)).dev.mbx.get 4).fld 2 1) 0) ∧
    (Asked (aReadLoop inForce) 0 0x0302 none ((aReadLoop inForce).dev.mbx.get 0) ∧ readBad ((aReadLoop inForce).dev.mbx.get 0) = none ∧
      inForce.dev.on F.GL_STAT_PLAN = true ∧ inForce.dev.planVats.contains (((aReadLoop inForce).dev.mbx.get 0).fld 0 1) = true) := by
  simp only [Running, Asked]; decide +kernel
theorem wit_Tuning_write :
    tuneCode plan { vat := 0, ntap := 4, ndrv := 2, nloop := 2 } ((aTune 0).dev.descsAhead) [1] 1 = 0 := by decide +kernel

def aHold (op : Nat) : State := ask 0 0x0B03 [op, 0, 0, 0, 0, 0, 0, 0, 1, 0, 0, 0, 0, 0, 0, 128] sReady
def aFw (len : Nat) : State := ask 4 0x0B02 [1, 0, 0, 0, 0, 0, 0, 0, 64, 0, 0, 0, 0, 0, 0, 0, len % 256, len / 256 % 256, len / 65536, 0] sReady
theorem wit_SystemCommands :
    (Running (ask 0 0x0B01 [] sReady) ∧ Asked (ask 0 0x0B01 [] sReady) 0 0x0B01 none ((ask 0 0x0B01 [] sReady).dev.mbx.get 0)) ∧
    (Asked (aHold 0) 0 0x0B03 (some 0) ((aHold 0).dev.mbx.get 0) ∧ Asked (aHold 1) 0 0x0B03 (some 1) ((aHold 1).dev.mbx.get 0) ∧
      bitsOf 64 (((aHold 0).dev.mbx.get 0).fld 8 8) = [0, 63]) ∧
    (Asked (aFw 0x200001) 4 0x0B02 none ((aFw 0x200001).dev.mbx.get 4) ∧ 0x200000 < ((aFw 0x200001).dev.mbx.get 4).fld 16 4 ∧
      Asked (aFw 0x200000) 4 0x0B02 none ((aFw 0x200000).dev.mbx.get 4) ∧ ((aFw 0x200000).dev.mbx.get 4).fld 16 4 ≤ 0x200000) := by
  simp only [Running, Asked]; decide

theorem wit_HoldingRegisters : Running State.reset ∧ State.reset.dev.viaShut .operator 0x150010 false = false ∧ (regAt 0x150010).isSome = true ∧ (regAt 0x150014).isSome = true ∧
    ((regAt 0x150010).map RegSpec.isRc) = some false ∧ ((regAt 0x150014).map RegSpec.isRc) = some false ∧ isLow 0x150010 = true ∧ isLow 0x150014 = false ∧
    inAreas 0x150010 = false ∧ ¬(0x1000 ≤ 0x150010 ∧ 0x150010 < 0x1808) ∧ (0x150016 : BitVec 23).toNat / 4 * 4 = 0x150010 + 4 := by
  simp only [Running]; decide
/-- DBG_TRST_N high. -/
def sDebug : State := dev (fun d => { d with pins := { d.pins with trstN := true } })
theorem wit_RegisterAccess :
    (Running State.reset ∧ ((regAt 0x110070).map RegSpec.isRc) = some true ∧ 0x110070 / 0x10000 ≠ 9 ∧
      ((regAt R.TW_MISMATCH).map RegSpec.isRc) = some true ∧ R.TW_MISMATCH / 0x10000 = 9) ∧
    (R.NV_REFRESH_DAYS / 0x10000 ∈ [7, 8, 10, 15, 16] ∧ MayWrite State.reset .steward R.NV_REFRESH_DAYS ∧
      ((regAt R.NV_REFRESH_DAYS).map (fun r => r.reserved 30)) = some false ∧ ((regAt R.NV_REFRESH_DAYS).map (fun r => decide (r.wpl < viaPl .debug))) = some true ∧
      State.reset.dev.svcShut .debug R.NV_REFRESH_DAYS = false ∧ sDebug.dev.viaShut .debug R.NV_REFRESH_DAYS true = false ∧ State.reset.dev.svcShut .service R.NV_REFRESH_DAYS = true) ∧
    (State.reset.dev.viaOut .debug = true ∧
      (at_ [(F.BM_STAT_TSTALL, 64)]).dev.viaOut .operator = false ∧ (at_ [(F.BM_STAT_TSTALL, 64)]).dev.t6Stalled = true ∧
      (at_ [(F.BM_STAT_TSTALL, 64)]).dev.svcShut .operator R.NV_REFRESH_DAYS = false ∧ t6Need R.NV_REFRESH_DAYS < viaPl .operator ∧
      State.reset.dev.viaShut .operator R.NV_REFRESH_DAYS false = false ∧
      State.reset.dev.viaShut .steward 0x1F0000 false = false ∧ State.reset.dev.viaShut .debug R.NV_REFRESH_DAYS true = true ∧
      R.NV_REFRESH_DAYS ≠ R.TB_SNAP_CTL ∧ R.NV_REFRESH_DAYS ≠ R.HIF_ST_CTL) ∧
    (regAt 0x1F0000 = none ∧ inAreas 0x1F0000 = false ∧ ¬(0x1000 ≤ 0x1F0000 ∧ 0x1F0000 < 0x1808) ∧ MayWrite State.reset .steward 0x1F0000) ∧
    (inAreas 0x206FFC = true ∧ 0x206FFC % 0x2000 < 0x1000 ∧ State.reset.dev.svcShut .operator 0x206FFC = false ∧ areaMb 0x206FFC < 4) := by
  simp only [Running, MayWrite]; decide
def sLow : State := dev (fun d => { d with pins := { d.pins with resetN := false } })
theorem wit_Resets : sLow.dev.pins.resetN = false ∧ Running State.reset ∧ State.reset.dev.nv.cur = none ∧ Instr.frameStrobe ≠ .aonPowerOnReset ∧
    (∀ b, Instr.frameStrobe ≠ .resetN b) ∧ ∀ b, Instr.frameStrobe ≠ .supervisor b := by
  simp only [Running]; decide
theorem wit_StepTakesFront : ({ pending := [.frameStrobe, .frameClose] } : State).pending = .frameStrobe :: [.frameClose] ∧ State.reset.pending = [] ∧
    decodeTableWord 32 0 = none := by decide
theorem wit_QueueAndMemory : (∀ v mb, Instr.frameStrobe ≠ .doorbell v mb) ∧ Instr.frameStrobe ≠ .p3LinkDown ∧ (∀ v o, Instr.frameStrobe ≠ .rcRead v o) ∧
    (∀ v o w, Instr.frameStrobe ≠ .registerWrite v o w) ∧ Instr.frameStrobe ≠ .watchdogExpiry := by
  refine ⟨?_, ?_, ?_, ?_, ?_⟩ <;> intros <;> exact Instr.noConfusion
theorem wit_StepKeepsMemoryForm : State.Inv sReq ∧ ∃ t, step { sReq with pending := [.doorbell .operator 0] } = .next t :=
  ⟨by simp only [State.Inv]; decide, _, rfl⟩

end Sys2Proof.Tests
end

section
/-!
PROOFS. The report path (07 R157 to R165): what accounting one entry does to the demand engine and to its registers, what a REPORT that
DE accepts does before its first entry, and what the loop over its entries counts and queues. Then the statement on bad entries.
-/
namespace Sys2Proof.Machine

/-! ### One entry -/

/-- The entry is one that R165 discards: its DST is no output in use by the plan in force, or its SUB is disabled. -/
def De.badEntry (e : De) (x : List Byte) : Bool :=
  decide (e.nout ≤ bits (beAt x 0 2) 9 0) || !(e.dem.subs.get (bits (beAt x 2 2) 11 0)).en

/-- The meter block of the entry's subscriber (R169). -/
def entryBlock (x : List Byte) : Nat := bits (beAt x 2 2) 11 0 % 16

/-- The queue of the entry's meter block holds its 512 entries (R169). -/
def De.entryFull (e : De) (x : List Byte) : Bool := decide (512 ≤ (e.queue.get (entryBlock x)).length)

/-- The entry as rod i's meter block queues it at sample n. -/
def queuedEntry (n i : Nat) (x : List Byte) : QEnt :=
  { rod := i, dst := bits (beAt x 0 2) 9 0, svc := bits (beAt x 0 2) 12 10, sub := bits (beAt x 2 2) 11 0,
    oct := BitVec.ofNat 32 (beAt x 4 4), n := n }

/-- DE after rod i's entry at sample n. -/
def De.account (e : De) (n i : Nat) (x : List Byte) : De :=
  if e.badEntry x then e
  else if e.entryFull x then
    if e.qNoted.contains (entryBlock x) then e else { e with qNoted := entryBlock x :: e.qNoted }
  else { e with queue := e.queue.set (entryBlock x) (e.queue.get (entryBlock x) ++ [queuedEntry n i x]) }

/-- The register writes of an entry: a bad one counts in DE_BADENT, one that finds its queue full in DE_QDROP. -/
def Dev.entryRegs (s : Dev) (x : List Byte) : Dev :=
  if s.de.badEntry x then s.count F.DE_BADENT
  else if s.de.entryFull x then (s.count F.DE_QDROP).wr F.DE_EVT_QDROP 1
  else s

/-- An entry dropped at a full queue counts in DE_QDROP and sets its event bit (R169). -/
def Dev.dropEntry (s : Dev) : Dev := (s.count F.DE_QDROP).event F.DE_EVT_QDROP

@[simp] theorem Dev.dropEntry_de (s : Dev) : s.dropEntry.de = s.de := Dev.event_de _ _

theorem Dev.dropEntry_regs (s : Dev) : Dev.RegsAs ((s.count F.DE_QDROP).wr F.DE_EVT_QDROP 1) s.dropEntry :=
  (Dev.RegsAs.refl _).event _

theorem Dev.account_of_bad {s : Dev} {x : List Byte} (h : s.de.badEntry x = true) (i : Nat) :
    s.account i x = s.count F.DE_BADENT := by
  unfold Dev.account
  exact if_pos (by simpa [De.badEntry] using h)

theorem Dev.account_of_room {s : Dev} {x : List Byte} (h : s.de.badEntry x = false) (hr : s.de.entryFull x = false) (i : Nat) :
    s.account i x = { s with de := { s.de with
      queue := s.de.queue.set (entryBlock x) (s.de.queue.get (entryBlock x) ++ [queuedEntry s.now i x]) } } := by
  unfold Dev.account
  exact (if_neg (by simpa [De.badEntry] using h)).trans (if_neg (of_decide_eq_false hr))

theorem Dev.account_of_full {s : Dev} {x : List Byte} (h : s.de.badEntry x = false) (hf : s.de.entryFull x = true) (i : Nat) :
    s.account i x =
      if s.de.qNoted.contains (entryBlock x) then s.dropEntry
      else ({ s.dropEntry with de := { s.dropEntry.de with qNoted := entryBlock x :: s.dropEntry.de.qNoted } }).raise
        0x0C06 0 (srcWord 12 (entryBlock x) 4) := by
  unfold Dev.account
  refine (if_neg (by simpa [De.badEntry] using h)).trans
    ((if_pos (of_decide_eq_true hf)).trans ?_)
  show (if (!s.de.qNoted.contains (entryBlock x)) = true then _ else _) = _
  cases s.de.qNoted.contains (entryBlock x) <;> rfl

theorem Dev.account_de (s : Dev) (i : Nat) (x : List Byte) : (s.account i x).de = s.de.account s.now i x := by
  unfold De.account
  cases hb : s.de.badEntry x with
  | true => simp [Dev.account_of_bad hb]
  | false =>
    cases hf : s.de.entryFull x with
    | true => rw [Dev.account_of_full hb hf]; split <;> simp
    | false => simp [Dev.account_of_room hb hf]

theorem Dev.account_regs (s : Dev) (i : Nat) (x : List Byte) : Dev.RegsAs (s.entryRegs x) (s.account i x) := by
  unfold Dev.entryRegs
  cases hb : s.de.badEntry x with
  | true => rw [Dev.account_of_bad hb]; exact .refl _
  | false =>
    cases hf : s.de.entryFull x with
    | true =>
      rw [Dev.account_of_full hb hf]
      simp only [Bool.false_eq_true, if_false, if_true]
      split
      · exact s.dropEntry_regs
      · refine s.dropEntry_regs.trans (.of_regs ?_)
        rw [Dev.raise_regs]
    | false => rw [Dev.account_of_room hb hf]; exact .of_regs rfl

theorem Dev.entryRegs_within (s : Dev) (x : List Byte) : Dev.Within [12] s (s.entryRegs x) := by
  unfold Dev.entryRegs
  split
  · exact .count _ _ _ (by decide)
  · split
    · exact (Dev.Within.count s _ _ (by decide)).trans (.wr _ _ _ (by decide))
    · exact .refl _ s

@[simp] theorem Dev.account_now (s : Dev) (i : Nat) (x : List Byte) : (s.account i x).now = s.now :=
  ((s.account_regs i x).rd2 _).trans ((s.entryRegs_within x).rd2 _ (by decide) (by decide))

theorem Dev.entryRegs_badent (s : Dev) (x : List Byte) :
    (s.entryRegs x).rd F.DE_BADENT = min (s.rd F.DE_BADENT + (s.de.badEntry x).toNat) 0xFFFFFFFF := by
  have hlt : s.rd F.DE_BADENT < 2 ^ 32 := s.rd_lt F.DE_BADENT
  unfold Dev.entryRegs
  cases s.de.badEntry x with
  | true => exact Dev.rd_count_self s _ _ (by decide) rfl
  | false =>
    simp only [Bool.false_eq_true, if_false, Bool.toNat_false]
    split
    · rw [Dev.rd_wr_apart _ _ _ _ (by decide) (by decide), Dev.rd_count_apart _ _ _ _ (by decide) (by decide)]
      omega
    · omega

theorem Dev.entryRegs_qdrop (s : Dev) {x : List Byte} (hb : s.de.badEntry x = false) :
    (s.entryRegs x).rd F.DE_QDROP = min (s.rd F.DE_QDROP + (s.de.entryFull x).toNat) 0xFFFFFFFF := by
  have hlt : s.rd F.DE_QDROP < 2 ^ 32 := s.rd_lt F.DE_QDROP
  unfold Dev.entryRegs
  rw [hb]
  cases s.de.entryFull x with
  | true => exact (Dev.rd_wr_apart _ _ _ _ (by decide) (by decide)).trans (Dev.rd_count_self s _ _ (by decide) rfl)
  | false =>
    simp only [Bool.false_eq_true, if_false, Bool.toNat_false]
    omega

/-- No entry changes which entries are bad. -/
@[simp] theorem Dev.account_badEntry (s : Dev) (i : Nat) (x : List Byte) : (s.account i x).de.badEntry = s.de.badEntry := by
  have hkeep : (s.de.account s.now i x).nout = s.de.nout ∧ (s.de.account s.now i x).dem = s.de.dem := by
    unfold De.account
    (repeat' split) <;> exact ⟨rfl, rfl⟩
  rw [Dev.account_de]
  funext y
  simp only [De.badEntry, hkeep.1, hkeep.2]

/-! ### The entries of a report -/

/-- Of the entries of a report the bad ones count in DE_BADENT. -/
theorem Dev.each_account_badent (i : Nat) (l : List (List Byte)) (s : Dev) :
    (Dev.each l (fun s x => s.account i x) s).rd F.DE_BADENT =
      min (s.rd F.DE_BADENT + l.countP s.de.badEntry) 0xFFFFFFFF := by
  induction l generalizing s with
  | nil =>
    have hlt : s.rd F.DE_BADENT < 2 ^ 32 := s.rd_lt F.DE_BADENT
    simp only [Dev.each_nil, List.countP_nil]
    omega
  | cons x l ih =>
    rw [Dev.each_cons, ih, (Dev.account_regs _ i x).rd, Dev.entryRegs_badent, Dev.account_badEntry, List.countP_cons]
    cases s.de.badEntry x <;> simp only [Bool.toNat_true, Bool.toNat_false, Bool.false_eq_true, if_true, if_false] <;> omega

/-- The two blocks hold the same demand engine, have dropped as many entries at full queues and stand in the same sample: an entry
finds in both what it is accounted by. -/
structure Dev.SameDemand (s t : Dev) : Prop where
  de : s.de = t.de
  qdrop : s.rd F.DE_QDROP = t.rd F.DE_QDROP
  now : s.now = t.now

theorem Dev.SameDemand.refl (s : Dev) : Dev.SameDemand s s := ⟨rfl, rfl, rfl⟩

/-- A discarded entry leaves the demand engine. -/
theorem Dev.SameDemand.account_bad {s t : Dev} (h : Dev.SameDemand s t) {x : List Byte} (hb : s.de.badEntry x = true) (i : Nat) :
    Dev.SameDemand (s.account i x) t where
  de := by rw [Dev.account_of_bad hb, Dev.count_de, h.de]
  qdrop := by rw [Dev.account_of_bad hb, Dev.rd_count_apart _ _ _ _ (by decide) (by decide), h.qdrop]
  now := by rw [Dev.account_now, h.now]

/-- An entry that is not discarded is accounted alike in both. -/
theorem Dev.SameDemand.account_good {s t : Dev} (h : Dev.SameDemand s t) {x : List Byte} (hb : s.de.badEntry x = false) (i : Nat) :
    Dev.SameDemand (s.account i x) (t.account i x) where
  de := by rw [Dev.account_de, Dev.account_de, h.de, h.now]
  qdrop := by
    rw [(s.account_regs i x).rd, (t.account_regs i x).rd, s.entryRegs_qdrop hb, t.entryRegs_qdrop (h.de ▸ hb), h.qdrop, h.de]
  now := by rw [Dev.account_now, Dev.account_now, h.now]

/-- The entries of a report leave the demand engine as the others of them, without the bad ones, do (R165). -/
theorem Dev.SameDemand.each_account_filter (i : Nat) (l : List (List Byte)) {s t : Dev} (h : Dev.SameDemand s t) :
    Dev.SameDemand (Dev.each l (fun s x => s.account i x) s)
      (Dev.each (l.filter (fun x => !s.de.badEntry x)) (fun s x => s.account i x) t) := by
  induction l generalizing s t with
  | nil => exact h
  | cons x l ih =>
    cases hb : s.de.badEntry x with
    | true => simpa [hb] using ih (h.account_bad hb i)
    | false => simpa [hb] using ih (h.account_good hb i)

/-! ### Acceptance -/

/-- A REPORT of rod i with sequence seq passes R164: DE accepts reports, the rod is in use, and with an open window the report neither
repeats an older one nor comes within 20 µs of the latest. -/
structure Dev.TakesReport (s : Dev) (i seq : Nat) (rst : Bool) : Prop where
  accepts : s.on F.DE_CFG_ACCEPT_EN = true
  inUse : i < s.rodsInUse
  window : (s.de.rods.get i).have_ = true →
    (seq + 65536 - (s.de.rods.get i).last.toNat) % 65536 ≠ 0 ∧
    ((seq + 65536 - (s.de.rods.get i).last.toNat) % 65536 < 32768 ∨ rst = true) ∧
    (s.de.rods.get i).lastacc + 20 ≤ s.now

/-- A rod's window after the report with sequence seq is accepted at sample n (R164). -/
def Rod.accept (r : Rod) (n seq : Nat) : Rod := { r with have_ := true, last := BitVec.ofNat 16 seq, lastacc := n, stale := false }

/-- An accepted REPORT before its first entry: the rod's window moves on and DE_REPORTS counts (R164). -/
def Dev.openReport (s : Dev) (i seq : Nat) : Dev :=
  let rods := s.de.rods.set i ((s.de.rods.get i).accept s.now seq)
  ((({ s with de := { s.de with rods := rods } }).count F.DE_REPORTS).pcClock 0x0C01).staleSync

theorem Dev.reportIn_of_takes {s : Dev} {pdu : List Byte}
    (h : s.TakesReport (beAt pdu 4 2) (beAt pdu 6 2) (bit (byteAt pdu 1) 7)) :
    s.reportIn pdu = Dev.each (reportEntries pdu (byteAt pdu 8)) (fun s x => s.account (beAt pdu 4 2) x)
      (s.openReport (beAt pdu 4 2) (beAt pdu 6 2)) := by
  obtain ⟨hacc, huse, hwin⟩ := h
  unfold Dev.reportIn
  refine (if_neg (by simpa [hacc] using huse)).trans ((if_neg ?_).trans ((if_neg ?_).trans rfl))
  · intro hdup
    simp only [Bool.and_eq_true, Bool.or_eq_true, beq_iff_eq, decide_eq_true_eq, Bool.not_eq_true'] at hdup
    obtain ⟨hne, hnew, -⟩ := hwin hdup.1
    rcases hdup.2 with h0 | ⟨hold, hrst⟩
    · exact hne h0
    · rcases hnew with hlt | hr
      · omega
      · simp [hr] at hrst
  · intro hrate
    simp only [Bool.and_eq_true, decide_eq_true_eq] at hrate
    obtain ⟨-, -, hgap⟩ := hwin hrate.1
    omega

theorem Dev.staleSync_de (s : Dev) : s.staleSync.de = s.de := by
  unfold Dev.staleSync
  dsimp only
  split <;> simp

theorem Dev.staleSync_badent (s : Dev) : s.staleSync.rd F.DE_BADENT = s.rd F.DE_BADENT := by
  unfold Dev.staleSync
  dsimp only
  split
  · rw [Dev.raise_rd, Dev.rd_event_apart _ _ _ (by decide) (by decide), Dev.rd_wrB_apart _ _ _ _ (by decide) (by decide),
      Dev.rd_wr_apart _ _ _ _ (by decide) (by decide)]
  · rw [Dev.rd_wrB_apart _ _ _ _ (by decide) (by decide), Dev.rd_wr_apart _ _ _ _ (by decide) (by decide)]

theorem Dev.pcClock_de (s : Dev) (e n : Nat) (v : Option Nat) : (s.pcClock e n v).de = s.de :=
  Dev.Keeps.pcClock s e n v .de List.not_mem_nil

/-- Before its entries an accepted REPORT changes the rod's window alone of the demand engine. -/
theorem Dev.openReport_de (s : Dev) (i seq : Nat) :
    (s.openReport i seq).de = { s.de with rods := s.de.rods.set i ((s.de.rods.get i).accept s.now seq) } := by
  rw [Dev.openReport, Dev.staleSync_de, Dev.pcClock_de, Dev.count_de]

theorem Dev.openReport_badent (s : Dev) (i seq : Nat) : (s.openReport i seq).rd F.DE_BADENT = s.rd F.DE_BADENT := by
  rw [Dev.openReport, Dev.staleSync_badent, (Dev.pcClock_within _ _ _ _).rd _ (by decide),
    Dev.rd_count_apart _ _ _ _ (by decide) (by decide)]
  rfl

/-- What the port counts of a good frame that carries a REPORT: its FEC codewords, and the Naern frame (R157). -/
def Dev.portTook (s : Dev) (p : Port) (f : RxFrame) : Dev :=
  ((s.count (rpFld p F.RPA_FEC_CORR) f.fecCorr).count (rpFld p F.RPA_FEC_UNCORR) f.fecUncorr).count (rpFld p F.RPA_RX_NAERN)

theorem Dev.portTook_within (s : Dev) (p : Port) (f : RxFrame) : Dev.Within [13, 14] s (s.portTook p f) :=
  ((Dev.Within.count s _ _ (by cases p <;> decide)).trans (.count _ _ _ (by cases p <;> decide))).trans
    (.count _ _ _ (by cases p <;> decide))

@[simp] theorem Dev.portTook_de (s : Dev) (p : Port) (f : RxFrame) : (s.portTook p f).de = s.de := rfl

theorem Dev.portTook_rd_apart (s : Dev) (p : Port) (f : RxFrame) {g : Fld} (hc : (rpFld p F.RPA_FEC_CORR).apart g = true)
    (hu : (rpFld p F.RPA_FEC_UNCORR).apart g = true) (hn : (rpFld p F.RPA_RX_NAERN).apart g = true) :
    (s.portTook p f).rd g = s.rd g :=
  ((Dev.rd_count_apart _ _ _ _ rfl hn).trans (Dev.rd_count_apart _ _ _ _ rfl hu)).trans (Dev.rd_count_apart _ _ _ _ rfl hc)

theorem Dev.portTook_rpMac (s : Dev) (p : Port) (f : RxFrame) : (s.portTook p f).rpMac p = s.rpMac p := by
  have hlo : (s.portTook p f).rd (rpFld p F.RPA_MAC_LO) = s.rd (rpFld p F.RPA_MAC_LO) :=
    s.portTook_rd_apart p f (by cases p <;> decide) (by cases p <;> decide) (by cases p <;> decide)
  have hhi : (s.portTook p f).rd (rpFld p F.RPA_MAC_HI) = s.rd (rpFld p F.RPA_MAC_HI) :=
    s.portTook_rd_apart p f (by cases p <;> decide) (by cases p <;> decide) (by cases p <;> decide)
  simp only [Dev.rpMac, hlo, hhi]

theorem Dev.portTook_daOk (s : Dev) (p : Port) (f : RxFrame) (da : Nat) : (s.portTook p f).daOk p da = s.daOk p da := by
  unfold Dev.daOk
  rw [Dev.portTook_rpMac, (s.portTook_within p f).rd _ (by decide), (s.portTook_within p f).rd _ (by decide)]

theorem Dev.TakesReport.portTook {s : Dev} {i seq : Nat} {rst : Bool} (h : s.TakesReport i seq rst) (p : Port) (f : RxFrame) :
    (s.portTook p f).TakesReport i seq rst := by
  have hw := s.portTook_within p f
  refine ⟨(hw.on _ (by decide)).trans h.accepts, ?_, ?_⟩
  · have huse : (s.portTook p f).rodsInUse = s.rodsInUse := by
      simp only [Dev.rodsInUse, hw.on F.GL_STAT_PLAN (by decide), Dev.portTook_de]
    exact huse ▸ h.inUse
  · have hnow : (s.portTook p f).now = s.now := hw.rd2 _ (by decide) (by decide)
    rw [hnow]
    exact h.window

/-- The port takes a frame as a Naern PDU for DE: it is up and takes Naern, the frame is good, and it is addressed to DE (R157, R163). -/
structure Dev.TakesFrame (s : Dev) (p : Port) (f : RxFrame) : Prop where
  up : s.on (rpFld p F.RPA_STAT_LINK) = true
  long : 64 ≤ f.len
  short : f.len ≤ 1522
  fcs : f.fcsOk = true
  naern : s.on (rpFld p F.RPA_CFG_NAERN_RX) = true
  addressed : s.daOk p f.da.toNat = true

/-- The block when the port and DE have taken rod i's REPORT, before its first entry. -/
def Dev.tookReport (s : Dev) (p : Port) (f : RxFrame) (i seq : Nat) : Dev := (s.portTook p f).openReport i seq

theorem Dev.tookReport_badEntry (s : Dev) (p : Port) (f : RxFrame) (i seq : Nat) :
    (s.tookReport p f i seq).de.badEntry = s.de.badEntry := by
  rw [Dev.tookReport, Dev.openReport_de]
  rfl

theorem Dev.tookReport_queue (s : Dev) (p : Port) (f : RxFrame) (i seq : Nat) :
    (s.tookReport p f i seq).de.queue = s.de.queue := by
  rw [Dev.tookReport, Dev.openReport_de]
  rfl

theorem Dev.tookReport_badent (s : Dev) (p : Port) (f : RxFrame) (i seq : Nat) :
    (s.tookReport p f i seq).rd F.DE_BADENT = s.rd F.DE_BADENT :=
  (Dev.openReport_badent _ i seq).trans ((s.portTook_within p f).rd _ (by decide))

/-- A REPORT that is accepted (R157, R163, R164) is accounted entry by entry. -/
theorem Dev.frameRx_report {s : Dev} {p : Port} {f : RxFrame} {pdu : List Byte} (hf : s.TakesFrame p f) (hok : reportOk pdu = true)
    (hr : s.TakesReport (beAt pdu 4 2) (beAt pdu 6 2) (bit (byteAt pdu 1) 7)) :
    s.frameRx p f 0x88B5 pdu = Dev.each (reportEntries pdu (byteAt pdu 8)) (fun s x => s.account (beAt pdu 4 2) x)
      (s.tookReport p f (beAt pdu 4 2) (beAt pdu 6 2)) := by
  obtain ⟨hup, hmin, hmax, hfcs, hnaern, hda⟩ := hf
  have hlen : ¬(f.len < 64 ∨ 1522 < f.len ∨ (!f.fcsOk) = true) := by simp [hfcs]; omega
  have hrx : ((s.count (rpFld p F.RPA_FEC_CORR) f.fecCorr).count (rpFld p F.RPA_FEC_UNCORR) f.fecUncorr).on
      (rpFld p F.RPA_CFG_NAERN_RX) = true := by
    rw [Dev.on, Dev.rd_count_apart _ _ _ _ rfl (by cases p <;> decide), Dev.rd_count_apart _ _ _ _ rfl (by cases p <;> decide)]
    exact hnaern
  unfold Dev.frameRx Dev.naernIn
  simp only [hup, hrx, hok, hlen, Bool.not_true, Bool.false_eq_true, if_false, if_true]
  exact (if_pos ((s.portTook_daOk p f _).trans hda)).trans (Dev.reportIn_of_takes (hr.portTook p f))

theorem exec_report {s : State} {p : Port} {f : RxFrame} {pdu : List Byte} (hrun : Running s) (hf : s.fresh.dev.TakesFrame p f)
    (hok : reportOk pdu = true) (hr : s.fresh.dev.TakesReport (beAt pdu 4 2) (beAt pdu 6 2) (bit (byteAt pdu 1) 7)) :
    exec (.report p f pdu) s = .next { s with
      dev := Dev.each (reportEntries pdu (byteAt pdu 8)) (fun s x => s.account (beAt pdu 4 2) x)
        (s.fresh.dev.tookReport p f (beAt pdu 4 2) (beAt pdu 6 2)) } :=
  (State.onDev_next s _ hrun).trans (by rw [Dev.frameRx_report hf hok hr])

end Sys2Proof.Machine

namespace Sys2Proof.Proofs
open Sys2Proof.Machine

/-- Settles O22: an accepted report is the loop of `Dev.account` over its entries from a state that depends only on the frame, the rod
and the sequence number, and that loop takes bad entries into DE_BADENT alone. -/
theorem reportEntries : Obligations.ReportEntries := by
  unfold Obligations.ReportEntries
  intro s p f pdu hrun hup hmin hmax hfcs hnaern hok hda hacc huse r d hwin entries bad
  have hframe : s.fresh.dev.TakesFrame p f := ⟨hup, hmin, hmax, hfcs, hnaern, hda⟩
  have htakes : s.fresh.dev.TakesReport (beAt pdu 4 2) (beAt pdu 6 2) (bit (byteAt pdu 1) 7) := ⟨hacc, huse, hwin⟩
  have hbad : (s.fresh.dev.tookReport p f (beAt pdu 4 2) (beAt pdu 6 2)).de.badEntry = bad := Dev.tookReport_badEntry _ p f _ _
  have hsame := (Dev.SameDemand.refl (s.fresh.dev.tookReport p f (beAt pdu 4 2) (beAt pdu 6 2))).each_account_filter
    (beAt pdu 4 2) (entries pdu)
  rw [hbad] at hsame
  refine ⟨_, exec_report hrun hframe hok htakes, ?_, ?_, ?_⟩
  · rw [Dev.each_account_badent, Dev.tookReport_badent, hbad, State.fresh_rd]
  · intro hall
    have hnone : (entries pdu).filter (fun x => !bad x) = [] := by
      simpa [List.filter_eq_nil_iff] using hall
    rw [hnone, Dev.each_nil] at hsame
    exact (congrArg De.queue hsame.de).trans (Dev.tookReport_queue _ p f _ _)
  · intro pdu' t' hok' h1 h4 h6 hent ht'
    rw [exec_report hrun hframe hok' (by rw [h1, h4, h6]; exact htakes), h4, h6, Host.Outcome.next.injEq] at ht'
    subst ht'
    rw [← hent] at hsame
    exact ⟨hsame.de, hsame.qdrop⟩

end Sys2Proof.Proofs
end

section
/-!
PROOFS. Fixed counters (15 R344, R345): what a read of one gives, what taking its count leaves, and what counter.config with COUNTER =
0xFF does. Then the statement on it.
-/
namespace Sys2Proof.Machine

/-! ### A completed command -/

/-- A command that completes after work that left the mailboxes has answered its own mailbox (R268). -/
theorem Answered.of_finish {s : State} {d : Dev} (hd : d.mbx = s.dev.mbx) (mb : BitVec 3) (st a b : Nat) (l : List Byte) :
    Answered s { s with dev := d.finish mb.toNat st a b l } mb st a b l :=
  ⟨d.finish_ready _ _ _ _ _ (mb_lt mb), fun k hk =>
    (d.finish_other _ _ _ _ _ _ hk.symm).trans (congrArg (fun t : Tbl Mbx => t.get k) hd)⟩

/-- A command that completes at once changes nothing but its mailbox (R268). -/
theorem Only.of_finish (s : State) (mb : BitVec 3) (st a b : Nat) (l : List Byte) :
    Only [] [.mbx] s { s with dev := s.fresh.dev.finish mb.toNat st a b l } :=
  .of (fun off _ => Dev.finish_reg _ _ _ _ _ _ off) (Dev.Keeps.finish _ _ _ _ _ _)

/-- A command's own messages start afresh: that is none of the parts, before or after a register is written. -/
theorem Dev.Keeps.fresh_setReg (s : State) (k : Nat) (v : Word) : Dev.Keeps [] (s.dev.setReg k v) (s.fresh.dev.setReg k v) :=
  fun p _ => by cases p <;> rfl

/-! ### Fixed counters -/

/-- A fixed counter is a register with an RC field. -/
theorem regAt_of_isFixed {off : Nat} (h : isFixed off = true) : ∃ r, regAt off = some r ∧ r.isRc = true := by
  unfold isFixed at h
  cases hr : regAt off with
  | none => simp [hr] at h
  | some r => exact ⟨r, rfl, by simpa [hr] using h⟩

/-- An offset that names no fixed counter is not that of one. -/
theorem ne_of_isFixed {off k : Nat} (h : isFixed off = true) (hk : isFixed k = false) : off ≠ k :=
  fun e => by simp [← e, h] at hk

/-- A fixed counter reads the shown bits of its own word: it is none of the registers that a read computes from other state. -/
theorem Dev.readNow_of_isFixed {off : Nat} (h : isFixed off = true) :
    ∃ mask : Word, ∀ s : Dev, s.readNow off = s.reg off &&& mask := by
  obtain ⟨r, hr, hrc⟩ := regAt_of_isFixed h
  have hleft : off ≠ R.HIF_SVC_LEFT := ne_of_isFixed h (by decide)
  have hstat : off ≠ R.FC_STAT := ne_of_isFixed h (by decide)
  exact ⟨BitVec.ofNat 32 r.shown, fun s => by simp [Dev.readNow, hr, hrc, hleft, hstat]⟩

/-! ### Taking a count (R6, R344) -/

@[simp] theorem Dev.rcTake_fst (s : Dev) (off : Nat) : (s.rcTake off).1 = s.readNow off := by
  unfold Dev.rcTake
  dsimp only
  split <;> rfl

/-- Taking the count writes 0 into the counter's register, and into no other. -/
theorem Dev.rcTake_regs (s : Dev) (off : Nat) : Dev.RegsAs (s.setReg off 0) (s.rcTake off).2 := by
  unfold Dev.rcTake
  dsimp only
  split
  · exact .of_regs rfl
  · exact .refl _

/-- Beside its register, taking a count reaches the trace rings alone: the RING event of a ring whose drop count is read (R276). -/
theorem Dev.Keeps.rcTake (s : Dev) (off : Nat) : Dev.Keeps [.trc] (s.setReg off 0) (s.rcTake off).2 := by
  intro p hp
  unfold Dev.rcTake
  dsimp only
  split
  · cases p with
    | trc => exact absurd (List.mem_singleton_self _) hp
    | _ => rfl
  · exact .refl _ p

theorem Dev.rcTake_mbx (s : Dev) (off : Nat) : (s.rcTake off).2.mbx = s.mbx := Dev.Keeps.rcTake s off .mbx (by decide)

/-- The sample index is no fixed counter: taking a count leaves it. -/
theorem Dev.rcTake_now (s : Dev) {off : Nat} (h : isFixed off = true) : (s.rcTake off).2.now = s.now := by
  have hlo : off ≠ R.TB_SAMPLE_LO := ne_of_isFixed h (by decide)
  have hhi : off ≠ R.TB_SAMPLE_LO + 4 := ne_of_isFixed h (by decide)
  rw [Dev.now, (s.rcTake_regs off).rd2, Dev.rd2, Dev.reg_setReg_ne s hlo, Dev.reg_setReg_ne s hhi]
  rfl

/-- A fixed counter whose register holds 0 reads 0. -/
theorem Dev.readNow_zero {s : Dev} {off : Nat} (h : isFixed off = true) (h0 : s.reg off = 0) : s.readNow off = 0 := by
  obtain ⟨mask, hmask⟩ := Dev.readNow_of_isFixed h
  rw [hmask, h0]
  exact BitVec.zero_and

/-! ### counter.config with COUNTER = 0xFF (R345) -/

theorem Dev.counterSet_fixed {m : Mbx} (h : m.fld 1 1 = 0xFF) (mb : Nat) (s : Dev) : Dev.counterSet mb m s = s.range mb 0 :=
  if_pos h

theorem Dev.counterRead_fixed {m : Mbx} (h : m.fld 1 1 = 0xFF) (mb : Nat) (s : Dev) :
    Dev.counterRead mb m s = s.counterFixed mb m := if_pos h

theorem Dev.counterClear_fixed {m : Mbx} (h : m.fld 1 1 = 0xFF) (mb : Nat) (s : Dev) :
    Dev.counterClear mb m s = s.counterFixed mb m := if_pos h

/-- The count taken from the fixed counter that WBASE names is answered with the sample index. -/
theorem Dev.counterFixed_named {m : Mbx} (h : isFixed (m.fld 8 4) = true) (mb : Nat) (s : Dev) :
    s.counterFixed mb m = (s.rcTake (m.fld 8 4)).2.finish mb 0 0 0xFFFFFFFF
      (toLe 8 (s.readNow (m.fld 8 4)).toNat ++ zeros 8 ++ toLe 8 s.now) := by
  rw [Dev.counterFixed, if_pos h]
  dsimp only
  rw [Dev.rcTake_fst, Dev.rcTake_now s h, Dev.ok]

/-- Of the registers the answer changes the counter's alone, which it clears. -/
theorem Dev.counterFixed_regs {m : Mbx} (h : isFixed (m.fld 8 4) = true) (mb : Nat) (s : Dev) :
    Dev.RegsAs (s.setReg (m.fld 8 4) 0) (s.counterFixed mb m) := by
  rw [Dev.counterFixed_named h]
  exact (s.rcTake_regs _).trans fun off => Dev.finish_reg _ _ _ _ _ _ off

theorem Dev.Keeps.counterFixed {m : Mbx} (h : isFixed (m.fld 8 4) = true) (mb : Nat) (s : Dev) :
    Dev.Keeps [.mbx, .trc] (s.setReg (m.fld 8 4) 0) (s.counterFixed mb m) := by
  rw [Dev.counterFixed_named h]
  exact ((Dev.Keeps.rcTake s _).mono (by simp)).trans ((Dev.Keeps.finish _ _ _ _ _ _).mono (by simp))

/-- A WBASE that names no fixed counter is refused with RANGE, and DETAIL2 holds it. -/
theorem Dev.counterFixed_unnamed {m : Mbx} (h : isFixed (m.fld 8 4) = false) (mb : Nat) (s : Dev) :
    s.counterFixed mb m = s.finish mb 6 0 (m.fld 8 4) [] := if_neg (by simp [h])

theorem exec_counterConfigSet_fixed {s : State} {mb : BitVec 3} {m : Mbx} (hrun : Running s) (hff : m.fld 1 1 = 0xFF)
    (hask : Asked s mb 0x0A01 (some 0) m) :
    exec (.counterConfigSet mb) s = .next { s with dev := s.fresh.dev.finish mb.toNat 6 0 0 [] } :=
  (hask.run hrun Dev.counterSet).trans (by rw [Dev.counterSet_fixed hff, Dev.range])

/-- OP read and OP clear do the same to a fixed counter. -/
theorem exec_counterConfig_fixed {s : State} {mb : BitVec 3} {m : Mbx} {op : Nat} {c : Instr} (hrun : Running s)
    (hff : m.fld 1 1 = 0xFF) (hc : (op, c) ∈ [(1, Instr.counterConfigRead mb), (2, .counterConfigClear mb)])
    (hask : Asked s mb 0x0A01 (some op) m) :
    exec c s = .next { s with dev := s.fresh.dev.counterFixed mb.toNat m } := by
  simp only [List.mem_cons, Prod.mk.injEq, List.not_mem_nil, or_false] at hc
  obtain ⟨rfl, rfl⟩ | ⟨rfl, rfl⟩ := hc
  · exact (hask.run hrun Dev.counterRead).trans (by rw [Dev.counterRead_fixed hff])
  · exact (hask.run hrun Dev.counterClear).trans (by rw [Dev.counterClear_fixed hff])

end Sys2Proof.Machine

namespace Sys2Proof.Proofs
open Sys2Proof.Machine

/-- Settles O56: with COUNTER = 0xFF, OP read and OP clear are both `Dev.counterFixed`, which takes the count by `Dev.rcTake` as a
register read does; a fixed counter reads its own register's word only, so it reads 0 after that. -/
theorem fixedCounterCommands : Obligations.FixedCounterCommands := by
  unfold Obligations.FixedCounterCommands
  intro s mb m hrun hff
  refine ⟨fun hask => ?_, fun op c hc hask => ?_⟩
  · exact ⟨_, exec_counterConfigSet_fixed hrun hff hask, ⟨0, .of_finish rfl mb 6 0 0 []⟩, .of_finish s mb 6 0 0 []⟩
  · have hexec := exec_counterConfig_fixed hrun hff hc hask
    refine ⟨fun hfixed => ⟨_, hexec, ?_, ?_, ?_⟩, fun hother => ⟨_, hexec, ?_, ?_⟩⟩
    · rw [Dev.counterFixed_named hfixed]
      exact .of_finish (Dev.rcTake_mbx _ _) mb 0 0 0xFFFFFFFF _
    · exact Dev.readNow_zero hfixed ((Dev.counterFixed_regs hfixed _ _ _).trans (Dev.reg_setReg_self _ _ _))
    · exact .of (Dev.counterFixed_regs hfixed mb.toNat s.fresh.dev)
        ((Dev.Keeps.fresh_setReg s _ 0).all.trans (Dev.Keeps.counterFixed hfixed _ _))
    · rw [Dev.counterFixed_unnamed hother]
      exact .of_finish rfl mb 6 0 _ []
    · rw [Dev.counterFixed_unnamed hother]
      exact .of_finish s mb 6 0 _ []

end Sys2Proof.Proofs
end

section
-- One proof after another: in parallel the proofs of this text would not fit the memory that its check allows.
set_option Elab.async false
/-!
PROOFS. The queue and mailbox memory: what each operation on the whole state does to both, and that no command of the table stops, moves
the queue or breaks memory's canonical form. Then the statements on the step, the queue and the memory, and on the state after reset.
-/
namespace Sys2Proof.Machine

/-! ### Operations on the whole state -/

/-- From s to t the queue stays, and memory in its canonical form stays in it. -/
structure State.KeepsForm (s t : State) : Prop where
  pending : t.pending = s.pending
  inv : s.Inv → t.Inv

theorem State.KeepsForm.trans {s t u : State} (h : State.KeepsForm s t) (k : State.KeepsForm t u) : State.KeepsForm s u :=
  ⟨k.pending.trans h.pending, fun hs => k.inv (h.inv hs)⟩

theorem State.KeepsForm.of_same {s t : State} (hm : t.mem = s.mem) (hp : t.pending = s.pending) : State.KeepsForm s t :=
  ⟨hp, fun hs => (congrArg Memory.wf hm).trans hs⟩

theorem State.KeepsForm.refl (s : State) : State.KeepsForm s s := .of_same rfl rfl

theorem State.KeepsForm.fresh (s : State) : State.KeepsForm s s.fresh := .of_same rfl rfl

theorem State.KeepsForm.mapDev (f : Dev → Dev) (s : State) : State.KeepsForm s (s.mapDev f) := .of_same rfl rfl

theorem State.KeepsForm.store (s : State) (d : Dev) (a : Nat) (l : List Byte) :
    State.KeepsForm s { s with mem := Memory.writeBytes s.mem a l, dev := d } :=
  ⟨rfl, fun hs => Memory.wf_writeBytes l s.mem a hs⟩

/-! ### Mailboxes -/

theorem State.KeepsForm.respond (mb st d d2 : Nat) (pl : List Byte) (s : State) : State.KeepsForm s (s.respond mb st d d2 pl) :=
  .store s _ _ _

theorem State.KeepsForm.complete (mb : Nat) (s : State) : State.KeepsForm s (s.complete mb) := by
  unfold State.complete
  split
  · split
    · exact .respond _ _ _ _ _ s
    · exact .refl s
  · exact .refl s

theorem State.KeepsForm.ring (mb : Nat) (s : State) : State.KeepsForm s (s.ring mb) := by
  unfold State.ring
  split
  · exact .mapDev _ s
  · extract_lets req off u
    have hu : State.KeepsForm s u := ⟨rfl, fun hs => Memory.wf_clear _ _ _ hs⟩
    split
    · exact hu.trans (.complete mb u)
    · exact hu

theorem State.KeepsForm.doorbell (via : Via) (mb : Nat) (s : State) : State.KeepsForm s (s.doorbell via mb) := by
  unfold State.doorbell
  dsimp only
  split
  · exact .mapDev _ s
  · exact (State.KeepsForm.mapDev _ s).trans (.ring mb _)

theorem State.KeepsForm.statusRead (via : Via) (mb : Nat) (s : State) : State.KeepsForm s (s.statusRead via mb).2 := by
  unfold State.statusRead
  dsimp only
  split
  · exact .refl s
  · split
    · exact .refl s
    · exact ⟨rfl, fun hs => Memory.wf_writeBytes _ _ _ (Memory.wf_writeBytes _ _ _ hs)⟩
    · exact .refl s

theorem State.KeepsForm.readBy (via : Via) (off : Nat) {f : State → Word × State} (hf : ∀ s, State.KeepsForm s (f s).2) (s : State) :
    State.KeepsForm s (s.readBy via off f) := by
  unfold State.readBy
  (repeat' split)
  case isFalse.isFalse.isFalse.isFalse =>
    exact ((State.KeepsForm.mapDev _ s).trans (hf _)).trans (.mapDev _ _)
  all_goals exact .of_same rfl rfl

/-! ### Restarts and host-interface resets -/

theorem State.KeepsForm.restarted (busy : List (Nat × Bool)) (s : State) : State.KeepsForm s (s.restarted busy) := by
  unfold State.restarted
  induction busy generalizing s with
  | nil => exact .refl s
  | cons x r ih =>
    rw [List.foldl_cons]
    refine State.KeepsForm.trans ?_ (ih _)
    split <;> exact .respond _ _ _ _ _ s

theorem State.KeepsForm.restart (wdog : Bool) (s : State) : State.KeepsForm s (s.restart wdog) := by
  unfold State.restart
  split
  · exact ((State.KeepsForm.mapDev _ s).trans (.restarted _ _)).trans (.mapDev _ _)
  · exact .refl s

theorem State.KeepsForm.watchdog (s : State) : State.KeepsForm s s.watchdog := by
  unfold State.watchdog
  split
  · dsimp only
    split
    · exact (State.KeepsForm.mapDev _ s).trans (.restart true _)
    · exact .mapDev _ s
  · exact .refl s

theorem State.KeepsForm.lockup (core : Nat) (s : State) : State.KeepsForm s (s.lockup core) := by
  unfold State.lockup
  split
  · exact (State.KeepsForm.mapDev _ s).trans (.restart false _)
  · exact .refl s

/-- Emptying a list of response areas keeps the form. -/
theorem Memory.wf_clearAreas (l : List Nat) (m : List Host.Cell) (h : Memory.wf m = true) :
    Memory.wf (l.foldl (fun m i => Memory.clear m (respArea i) 4096) m) = true := by
  induction l generalizing m with
  | nil => exact h
  | cons i r ih => exact ih _ (Memory.wf_clear m _ _ h)

theorem State.KeepsForm.hiReset (gone : Bool) (s : State) : State.KeepsForm s (s.hiReset gone) :=
  ⟨rfl, fun hs => Memory.wf_clearAreas _ s.mem hs⟩

theorem State.KeepsForm.hiCause (c : HiReset) (s : State) : State.KeepsForm s (s.hiCause c) := by
  have h (gone : Bool) (f : Dev → Dev) : State.KeepsForm s ((s.mapDev f).hiReset gone) :=
    (State.KeepsForm.mapDev f s).trans (.hiReset gone _)
  cases c with
  | perst => exact (h true _).trans (.mapDev (fun d => { d with pins := { d.pins with perstN := false } }) _)
  | flr | hotReset | d3hot | linkDown => exact h _ _

theorem State.KeepsForm.p3Link (s : State) : State.KeepsForm s s.p3Link := by
  unfold State.p3Link
  split
  · exact (State.KeepsForm.hiReset true s).trans (.mapDev _ _)
  · exact .refl s

theorem State.KeepsForm.resetBy (f : Dev → Dev) (s : State) : State.KeepsForm s (s.resetBy f) := ⟨rfl, fun _ => Memory.wf_nil⟩

/-! ### Register accesses -/

theorem State.KeepsForm.areaPut (off : Nat) (v : Word) (s : State) : State.KeepsForm s (s.areaPut off v) := by
  unfold State.areaPut
  split
  · exact .store s _ _ _
  · exact .refl s

theorem State.KeepsForm.areaWrite (via : Via) (off : Nat) (v : Word) (s : State) : State.KeepsForm s (s.areaWrite via off v) := by
  unfold State.areaWrite
  dsimp only
  split
  · exact .mapDev _ s
  · split
    · exact .mapDev _ s
    · exact (State.KeepsForm.mapDev _ s).trans (.areaPut off v _)

theorem State.KeepsForm.stPut (v : Word) (s : State) : State.KeepsForm s (s.stPut v) := by
  unfold State.stPut
  dsimp only
  split
  · exact (State.KeepsForm.mapDev _ s).trans (.restart false _)
  · exact .mapDev _ s

theorem State.KeepsForm.stCtl (via : Via) (v : Word) (s : State) : State.KeepsForm s (s.stCtl via v) := by
  unfold State.stCtl
  dsimp only
  split
  · exact .mapDev _ s
  · exact (State.KeepsForm.mapDev _ s).trans (.stPut v _)

theorem State.KeepsForm.write (via : Via) (off : Nat) (v : Word) (s : State) : State.KeepsForm s (s.write via off v) := by
  unfold State.write
  split
  · exact .areaWrite via off v s
  · split
    · exact .stCtl via v s
    · split
      · exact .doorbell via _ s
      · exact .mapDev _ s

theorem State.KeepsForm.areaRead (via : Via) (off : Nat) (s : State) : State.KeepsForm s (s.areaRead via off).2 := by
  unfold State.areaRead
  dsimp only
  split
  · exact .refl s
  · split
    · exact .statusRead via _ s
    · split <;> exact .refl s

theorem State.KeepsForm.read (via : Via) (off : Nat) (s : State) : State.KeepsForm s (s.read via off).2 := by
  unfold State.read
  split
  · exact .areaRead via off s
  · split
    · exact .refl s
    · exact .of_same rfl rfl

theorem State.KeepsForm.readAt (via : Via) (off : Nat) (s : State) : State.KeepsForm s (s.readAt via off) :=
  .readBy via _ (.read via _) s

theorem State.KeepsForm.t6Put (via : Via) (off : Nat) (v : Word) (s : State) : State.KeepsForm s (s.t6Put via off v) := by
  unfold State.t6Put
  (repeat' split)
  · exact .areaPut off v s
  · exact .stPut v s
  · exact .ring _ s
  all_goals exact .of_same rfl rfl

theorem State.KeepsForm.t6Act (w : BmW) (s : State) : State.KeepsForm s (s.t6Act w).2.2 := by
  unfold State.t6Act
  dsimp only
  (repeat' split)
  case isTrue.isFalse.isFalse.isFalse => exact .t6Put _ _ _ s
  case isFalse.isFalse => exact .read _ _ s
  all_goals exact .of_same rfl rfl

theorem State.KeepsForm.t6Grant (i : Nat) (w : BmW) (s : State) : State.KeepsForm s (s.t6Grant i w) := by
  unfold State.t6Grant
  extract_lets off late s1 r bytes t
  have h1 : State.KeepsForm s s1 := .mapDev _ s
  have hr : State.KeepsForm s1 r.2.2 := by
    simp only [r]
    split
    · exact .t6Act w s1
    · exact (State.KeepsForm.mapDev _ s1).trans (.t6Act w _)
  have ht : State.KeepsForm s t := (h1.trans hr).trans (.mapDev _ _)
  split
  · exact ht.trans (.mapDev _ _)
  · exact ht

theorem State.KeepsForm.bmGrant (t clocks : Nat) (s : State) : State.KeepsForm s (s.bmGrant t clocks) := by
  unfold State.bmGrant
  extract_lets r u
  have hu : State.KeepsForm s u := .mapDev _ s
  split
  · exact hu
  · split
    · exact hu.trans (.t6Grant _ _ _)
    · exact hu.trans (.mapDev _ _)

/-! ### Commands -/

/-- The commands that write or clear mailbox memory (11 R265, R268; 16 R359). -/
def reachesMem : Instr → Bool
  | .doorbell .. | .statusWordRead .. | .mailboxCompletion .. | .rcRead .. | .lowWordRead .. | .registerWrite .. => true
  | .hostInterfaceReset .. | .p3LinkDown | .stewardRestart .. | .watchdogExpiry | .lockup .. => true
  | .aonPowerOnReset | .resetN .. | .bmGrant .. | .supervisor .. => true
  | _ => false

/-- A command that reaches no mailbox memory works on the block alone. -/
theorem exec_of_not_reachesMem (c : Instr) (h : reachesMem c = false) (s : State) : ∃ d, exec c s = .next { s with dev := d } := by
  cases c <;> simp [reachesMem] at h <;> exact ⟨_, rfl⟩

/-- A command that reaches mailbox memory keeps the queue and memory's form. -/
theorem exec_of_reachesMem (c : Instr) (h : reachesMem c = true) (s : State) : ∃ t, exec c s = .next t ∧ State.KeepsForm s t := by
  have all {f : State → State} (hf : ∀ s, State.KeepsForm s (f s)) : ∃ t, s.onAll f = .next t ∧ State.KeepsForm s t := by
    refine ⟨_, rfl, ?_⟩
    split
    · exact (State.KeepsForm.fresh s).trans (hf _)
    · exact .fresh s
  cases c
  case doorbell via mb => exact all (.doorbell via _)
  case statusWordRead via mb => exact all (.readBy via _ (.statusRead via _))
  case mailboxCompletion mb => exact all (.complete _)
  case rcRead via off => exact all (.readAt via _)
  case lowWordRead via off => exact all (.readAt via _)
  case registerWrite via off v => exact all (.write via _ v)
  case hostInterfaceReset x => exact all (.hiCause x)
  case p3LinkDown => exact all .p3Link
  case stewardRestart via v => exact all (.stCtl via _)
  case watchdogExpiry => exact all .watchdog
  case lockup core => exact all (.lockup _)
  case bmGrant t n => exact all (.bmGrant _ n)
  case aonPowerOnReset => exact ⟨_, rfl, .resetBy _ s⟩
  case resetN b =>
    cases b with
    | false => exact ⟨_, rfl, .resetBy _ s⟩
    | true => exact ⟨_, rfl, .of_same rfl rfl⟩
  case supervisor b => exact ⟨_, rfl, .resetBy _ s⟩
  all_goals exact absurd h Bool.false_ne_true

/-- Every command answers a next state that keeps the queue and memory's form. -/
theorem exec_keepsForm (c : Instr) (s : State) : ∃ t, exec c s = .next t ∧ State.KeepsForm s t := by
  cases h : reachesMem c with
  | true => exact exec_of_reachesMem c h s
  | false =>
    obtain ⟨d, hd⟩ := exec_of_not_reachesMem c h s
    exact ⟨_, hd, .of_same rfl rfl⟩

theorem step_of_cons {s : State} {c : Instr} {l : List Instr} (h : s.pending = c :: l) : step s = exec c { s with pending := l } := by
  unfold step
  rw [h]

theorem step_of_nil {s : State} (h : s.pending = []) : step s = .next s := by
  unfold step
  rw [h]

end Sys2Proof.Machine

namespace Sys2Proof.Proofs
open Sys2Proof.Machine

/-- Settles O13: a step idles or runs one command on a state with the same memory, and `exec_keepsForm` covers every command. -/
theorem stepKeepsMemoryForm : Obligations.StepKeepsMemoryForm := by
  unfold Obligations.StepKeepsMemoryForm
  intro s t hs hstep
  cases hp : s.pending with
  | nil =>
    rw [step_of_nil hp, Host.Outcome.next.injEq] at hstep
    exact hstep ▸ hs
  | cons c l =>
    obtain ⟨u, hu, hform⟩ := exec_keepsForm c { s with pending := l }
    rw [step_of_cons hp, hu, Host.Outcome.next.injEq] at hstep
    exact hstep ▸ hform.inv hs

/-- Settles O12: a command outside `reachesMem` works on the block alone, and the hypotheses name those inside it. -/
theorem queueAndMemory : Obligations.QueueAndMemory := by
  unfold Obligations.QueueAndMemory
  intro c s
  obtain ⟨t, ht, hform⟩ := exec_keepsForm c s
  refine ⟨t, ht, hform.pending, ?_⟩
  intros
  have hc : reachesMem c = false := by
    unfold reachesMem
    split <;> simp_all
  obtain ⟨d, hd⟩ := exec_of_not_reachesMem c hc s
  rw [hd, Host.Outcome.next.injEq] at ht
  exact ht ▸ rfl

/-- Settles O11: `step` and `decodeTableWord` by their equations. -/
theorem stepTakesFront : Obligations.StepTakesFront := by
  unfold Obligations.StepTakesFront
  exact ⟨fun c l s h => step_of_cons h, fun s h => step_of_nil h, fun nbits w => ⟨rfl, fun s => rfl⟩⟩

/-- Settles O14: nothing is listed in the reset state, so a register reads its table's reset value. -/
theorem resetState : Obligations.ResetState := by
  unfold Obligations.ResetState
  refine ⟨rfl, rfl, rfl, fun _ => rfl, ?_, ?_, ?_, ?_, ?_, ?_, ?_, ?_, ?_, rfl⟩
  all_goals decide

end Sys2Proof.Proofs
end

section
-- One proof after another: in parallel the proofs of this text would not fit the memory that its check allows.
set_option Elab.async false
/-!
PROOFS. Frames of operations on the block, windows and parts together: a relation that composes, one law per shared operation and one
per part; then the operations that neither read nor send messages.
-/
namespace Sys2Proof.Machine

/-- From s to t registers change in the windows w only, and parts of the block in l only. -/
structure Dev.Frame (w : List Nat) (l : List Part) (s t : Dev) : Prop where
  within : Dev.Within w s t
  keeps : Dev.Keeps l s t

/-! ### Composition -/

theorem Dev.Keeps.symm {l : List Part} {s t : Dev} (h : Dev.Keeps l s t) : Dev.Keeps l t s := fun p hp => by
  have hsame := h p hp
  cases p <;> exact Eq.symm hsame

theorem Dev.Frame.refl (w : List Nat) (l : List Part) (s : Dev) : Dev.Frame w l s s := ⟨.refl w s, .refl l s⟩

theorem Dev.Frame.trans {w : List Nat} {l : List Part} {s t u : Dev} (h : Dev.Frame w l s t) (k : Dev.Frame w l t u) :
    Dev.Frame w l s u := ⟨h.within.trans k.within, h.keeps.trans k.keeps⟩

theorem Dev.Frame.mono {w w' : List Nat} {l l' : List Part} {s t : Dev} (h : Dev.Frame w l s t)
    (hw : ∀ b ∈ w, b ∈ w' := by decide) (hl : ∀ p ∈ l, p ∈ l' := by decide) : Dev.Frame w' l' s t :=
  ⟨h.within.mono hw, h.keeps.mono hl⟩

/-- An operation with a smaller frame follows. -/
theorem Dev.Frame.then {w w' : List Nat} {l l' : List Part} {s t u : Dev} (h : Dev.Frame w l s t) (k : Dev.Frame w' l' t u)
    (hw : ∀ b ∈ w', b ∈ w := by decide) (hl : ∀ p ∈ l', p ∈ l := by decide) : Dev.Frame w l s u :=
  h.trans (k.mono hw hl)

theorem Dev.Frame.each {α : Type} {w : List Nat} {l : List Part} (r : List α) (f : Dev → α → Dev) (s : Dev)
    (hf : ∀ s a, a ∈ r → Dev.Frame w l s (f s a)) : Dev.Frame w l s (Dev.each r f s) :=
  ⟨.each r f s fun s a ha => (hf s a ha).within, .each r f s fun s a ha => (hf s a ha).keeps⟩

theorem Dev.Frame.when {w : List Nat} {l : List Part} (c : Bool) (f : Dev → Dev) (s : Dev) (hf : Dev.Frame w l s (f s)) :
    Dev.Frame w l s (Dev.when c f s) := ⟨.when c f s hf.within, .when c f s hf.keeps⟩

/-- The frame of a command that works on the block alone. -/
theorem Dev.Frame.only {w : List Nat} {l : List Part} {s : State} {d : Dev} (h : Dev.Frame w l s.fresh.dev d) :
    Only w l s { s with dev := d } := .of h.within h.keeps

/-- What holds of some windows and parts reads as before elsewhere. -/
theorem Dev.Frame.rd {w : List Nat} {l : List Part} {s t : Dev} (h : Dev.Frame w l s t) (f : Fld)
    (hf : blockOf f.reg ∉ w := by decide) : t.rd f = s.rd f := h.within.rd f hf

theorem Dev.Frame.on {w : List Nat} {l : List Part} {s t : Dev} (h : Dev.Frame w l s t) (f : Fld)
    (hf : blockOf f.reg ∉ w := by decide) : t.on f = s.on f := h.within.on f hf

theorem Dev.Frame.part {w : List Nat} {l : List Part} {s t : Dev} (h : Dev.Frame w l s t) (p : Part) (hp : p ∉ l := by decide) :
    Part.Same s t p := h.keeps p hp

/-! ### Operations on registers and messages -/

section
variable {w : List Nat} {l : List Part} {s t : Dev} (h : Dev.Frame w l s t)
include h

theorem Dev.Frame.setReg (k : Nat) (v : Word) (hk : blockOf k ∈ w := by decide) : Dev.Frame w l s (t.setReg k v) :=
  h.trans ⟨.setReg t k v hk, (Dev.Keeps.setReg t k v).all⟩

theorem Dev.Frame.wr (f : Fld) (v : Nat) (hf : blockOf f.reg ∈ w := by decide) : Dev.Frame w l s (t.wr f v) :=
  h.trans ⟨.wr t f v hf, (Dev.Keeps.wr t f v).all⟩

theorem Dev.Frame.wrB (f : Fld) (b : Bool) (hf : blockOf f.reg ∈ w := by decide) : Dev.Frame w l s (t.wrB f b) :=
  h.wr f _ hf

theorem Dev.Frame.count (f : Fld) (n : Nat := 1) (hf : blockOf f.reg ∈ w := by decide) : Dev.Frame w l s (t.count f n) :=
  h.wr f _ hf

theorem Dev.Frame.wr2 (k v : Nat) (hk : blockOf k ∈ w := by decide) (hk' : blockOf (k + 4) ∈ w := by decide) :
    Dev.Frame w l s (t.wr2 k v) := h.trans ⟨.wr2 t k v hk hk', (Dev.Keeps.wr2 t k v).all⟩

theorem Dev.Frame.event (f : Fld) (hf : blockOf f.reg ∈ w := by decide) (hl : Part.evq ∈ l := by decide) :
    Dev.Frame w l s (t.event f) := h.trans ⟨.event t f hf, (Dev.Keeps.event t f).mono (by simpa using hl)⟩

theorem Dev.Frame.raise (c v : Nat) (r : BitVec 28) (i : Nat := 0) (b : Bool := true) (hl : Part.fc ∈ l := by decide) :
    Dev.Frame w l s (t.raise c v r i b) :=
  h.trans ⟨.raise t c v r i b, fun p hp => by cases p <;> first | rfl | exact absurd hl hp⟩

theorem Dev.Frame.send (m : Tx) : Dev.Frame w l s (t.send m) := h.trans ⟨.of_regs rfl, (Dev.Keeps.send t m).all⟩

theorem Dev.Frame.emit (e : Ev) (hl : Part.evq ∈ l := by decide) : Dev.Frame w l s (t.emit e) :=
  h.trans ⟨.of_regs rfl, (Dev.Keeps.emit t e).mono (by simpa using hl)⟩

theorem Dev.Frame.stewardMsg (c : Nat) (hl : Part.evq ∈ l := by decide) : Dev.Frame w l s (t.stewardMsg c) := h.emit _ hl

theorem Dev.Frame.trace (r : Trec) (hl : Part.trc ∈ l := by decide) : Dev.Frame w l s (t.trace r) :=
  h.trans ⟨.of_regs rfl, (Dev.Keeps.trace t r).mono (by simpa using hl)⟩

theorem Dev.Frame.finish (mb a b c : Nat) (r : List Byte) (hl : Part.mbx ∈ l := by decide) :
    Dev.Frame w l s (t.finish mb a b c r) :=
  h.trans ⟨.of_regs (Dev.finish_regs _ _ _ _ _ _), (Dev.Keeps.finish t mb a b c r).mono (by simpa using hl)⟩

theorem Dev.Frame.when' (c : Bool) {f : Dev → Dev} (hf : Dev.Frame w l t (f t)) : Dev.Frame w l s (Dev.when c f t) :=
  h.trans (.when c f t hf)

/-- An update of fields of the block, registers excepted. -/
theorem Dev.Frame.fields {u : Dev} (hr : u.regs = t.regs) (hk : Dev.Keeps l t u) : Dev.Frame w l s u := h.trans ⟨.of_regs hr, hk⟩

/-! ### Updates of one part -/

theorem Dev.Frame.hold (x : Tbl Word) (hl : Part.hold ∈ l := by decide) : Dev.Frame w l s { t with hold := x } :=
  h.trans ⟨.of_regs rfl, fun p hp => by cases p <;> first | rfl | exact absurd hl hp⟩

theorem Dev.Frame.tb (x : Tb) (hl : Part.tb ∈ l := by decide) : Dev.Frame w l s { t with tb := x } :=
  h.trans ⟨.of_regs rfl, fun p hp => by cases p <;> first | rfl | exact absurd hl hp⟩

theorem Dev.Frame.vl (x : Vl) (hl : Part.vl ∈ l := by decide) : Dev.Frame w l s { t with vl := x } :=
  h.trans ⟨.of_regs rfl, fun p hp => by cases p <;> first | rfl | exact absurd hl hp⟩

theorem Dev.Frame.le (x : Le) (hl : Part.le ∈ l := by decide) : Dev.Frame w l s { t with le := x } :=
  h.trans ⟨.of_regs rfl, fun p hp => by cases p <;> first | rfl | exact absurd hl hp⟩

theorem Dev.Frame.plan0 (x : Option Plan) (hl : Part.plan0 ∈ l := by decide) : Dev.Frame w l s { t with plan0 := x } :=
  h.trans ⟨.of_regs rfl, fun p hp => by cases p <;> first | rfl | exact absurd hl hp⟩

theorem Dev.Frame.plan1 (x : Option Plan) (hl : Part.plan1 ∈ l := by decide) : Dev.Frame w l s { t with plan1 := x } :=
  h.trans ⟨.of_regs rfl, fun p hp => by cases p <;> first | rfl | exact absurd hl hp⟩

theorem Dev.Frame.fs (x : Fs) (hl : Part.fs ∈ l := by decide) : Dev.Frame w l s { t with fs := x } :=
  h.trans ⟨.of_regs rfl, fun p hp => by cases p <;> first | rfl | exact absurd hl hp⟩

theorem Dev.Frame.gl (x : Gl) (hl : Part.gl ∈ l := by decide) : Dev.Frame w l s { t with gl := x } :=
  h.trans ⟨.of_regs rfl, fun p hp => by cases p <;> first | rfl | exact absurd hl hp⟩

theorem Dev.Frame.de (x : De) (hl : Part.de ∈ l := by decide) : Dev.Frame w l s { t with de := x } :=
  h.trans ⟨.of_regs rfl, fun p hp => by cases p <;> first | rfl | exact absurd hl hp⟩

theorem Dev.Frame.cal (x : Cal) (hl : Part.cal ∈ l := by decide) : Dev.Frame w l s { t with cal := x } :=
  h.trans ⟨.of_regs rfl, fun p hp => by cases p <;> first | rfl | exact absurd hl hp⟩

theorem Dev.Frame.nv (x : Nv) (hl : Part.nv ∈ l := by decide) : Dev.Frame w l s { t with nv := x } :=
  h.trans ⟨.of_regs rfl, fun p hp => by cases p <;> first | rfl | exact absurd hl hp⟩

theorem Dev.Frame.tw (x : Tw) (hl : Part.tw ∈ l := by decide) : Dev.Frame w l s { t with tw := x } :=
  h.trans ⟨.of_regs rfl, fun p hp => by cases p <;> first | rfl | exact absurd hl hp⟩

theorem Dev.Frame.mbx (x : Tbl Mbx) (hl : Part.mbx ∈ l := by decide) : Dev.Frame w l s { t with mbx := x } :=
  h.trans ⟨.of_regs rfl, fun p hp => by cases p <;> first | rfl | exact absurd hl hp⟩

theorem Dev.Frame.hif (x : Hif) (hl : Part.hif ∈ l := by decide) : Dev.Frame w l s { t with hif := x } :=
  h.trans ⟨.of_regs rfl, fun p hp => by cases p <;> first | rfl | exact absurd hl hp⟩

theorem Dev.Frame.evq (x : Evq) (hl : Part.evq ∈ l := by decide) : Dev.Frame w l s { t with evq := x } :=
  h.trans ⟨.of_regs rfl, fun p hp => by cases p <;> first | rfl | exact absurd hl hp⟩

theorem Dev.Frame.trc (x : Trc) (hl : Part.trc ∈ l := by decide) : Dev.Frame w l s { t with trc := x } :=
  h.trans ⟨.of_regs rfl, fun p hp => by cases p <;> first | rfl | exact absurd hl hp⟩

theorem Dev.Frame.st (x : St) (hl : Part.st ∈ l := by decide) : Dev.Frame w l s { t with st := x } :=
  h.trans ⟨.of_regs rfl, fun p hp => by cases p <;> first | rfl | exact absurd hl hp⟩

theorem Dev.Frame.bm (x : Bm) (hl : Part.bm ∈ l := by decide) : Dev.Frame w l s { t with bm := x } :=
  h.trans ⟨.of_regs rfl, fun p hp => by cases p <;> first | rfl | exact absurd hl hp⟩

theorem Dev.Frame.fc (x : Fc) (hl : Part.fc ∈ l := by decide) : Dev.Frame w l s { t with fc := x } :=
  h.trans ⟨.of_regs rfl, fun p hp => by cases p <;> first | rfl | exact absurd hl hp⟩

theorem Dev.Frame.pm (x : Pm) (hl : Part.pm ∈ l := by decide) : Dev.Frame w l s { t with pm := x } :=
  h.trans ⟨.of_regs rfl, fun p hp => by cases p <;> first | rfl | exact absurd hl hp⟩

theorem Dev.Frame.th (x : Th) (hl : Part.th ∈ l := by decide) : Dev.Frame w l s { t with th := x } :=
  h.trans ⟨.of_regs rfl, fun p hp => by cases p <;> first | rfl | exact absurd hl hp⟩

theorem Dev.Frame.pc (x : Pc) (hl : Part.pc ∈ l := by decide) : Dev.Frame w l s { t with pc := x } :=
  h.trans ⟨.of_regs rfl, fun p hp => by cases p <;> first | rfl | exact absurd hl hp⟩

theorem Dev.Frame.pins (x : Pins) (hl : Part.pins ∈ l := by decide) : Dev.Frame w l s { t with pins := x } :=
  h.trans ⟨.of_regs rfl, fun p hp => by cases p <;> first | rfl | exact absurd hl hp⟩

theorem Dev.Frame.freeCtr (x : Nat) (hl : Part.freeCtr ∈ l := by decide) : Dev.Frame w l s { t with freeCtr := x } :=
  h.trans ⟨.of_regs rfl, fun p hp => by cases p <;> first | rfl | exact absurd hl hp⟩

theorem Dev.Frame.tx (x : List Tx) : Dev.Frame w l s { t with tx := x } :=
  h.trans ⟨.of_regs rfl, fun p _ => by cases p <;> rfl⟩

end

/-! ### Shared operations -/

theorem Dev.t6_frame (via : Via) (off : Nat) (wr : Bool) (s : Dev) : Dev.Frame [21] [.bm] s (s.t6 via off wr) :=
  ⟨s.t6_within via off wr, .t6 via off wr s⟩

theorem Dev.glSync_frame (s : Dev) : Dev.Frame [11, 12, 13, 14, 21] cancelParts s s.glSync := ⟨s.glSync_within, .glSync s⟩

theorem Dev.pcClock_frame (s : Dev) (e n : Nat) (v : Option Nat) : Dev.Frame [21] [] s (s.pcClock e n v) :=
  ⟨s.pcClock_within e n v, .pcClock s e n v⟩

/-! ### Operations that neither read nor send messages -/

/-- The block with other messages. -/
def Dev.setTx (l : List Tx) (s : Dev) : Dev := { s with tx := l }

/-- The operation does the same whatever messages wait, and leaves them. -/
def Dev.Silent (f : Dev → Dev) : Prop := ∀ (s : Dev) (l : List Tx), f (s.setTx l) = (f s).setTx l

theorem Dev.Silent.comp {f g : Dev → Dev} (hf : Dev.Silent f) (hg : Dev.Silent g) : Dev.Silent (fun s => f (g s)) :=
  fun s l => (congrArg f (hg s l)).trans (hf _ l)

theorem Dev.Silent.each {α : Type} {f : Dev → α → Dev} (hf : ∀ a, Dev.Silent (f · a)) (r : List α) :
    Dev.Silent (Dev.each r f) := by
  induction r with
  | nil => exact fun _ _ => rfl
  | cons a r ih => exact fun s l => (congrArg (Dev.each r f) (hf a s l)).trans (ih _ l)

theorem Dev.Silent.when {f : Dev → Dev} (hf : Dev.Silent f) (c : Bool) : Dev.Silent (Dev.when c f) := by
  cases c with
  | true => exact hf
  | false => exact fun _ _ => rfl

/-- A choice that messages have no part in. -/
theorem Dev.Silent.ite {f g : Dev → Dev} (c : Dev → Prop) [DecidablePred c] (hc : ∀ s l, c (Dev.setTx l s) = c s)
    (hf : Dev.Silent f) (hg : Dev.Silent g) : Dev.Silent (fun s => if c s then f s else g s) := fun s l => by
  simp only [hc, hf s l, hg s l]
  split <;> rfl

theorem Dev.Silent.id : Dev.Silent (fun s => s) := fun _ _ => rfl

theorem Dev.Silent.bpCount (js : List Nat) (e n : Nat) : Dev.Silent (·.bpCount js e n) :=
  .each (f := fun (s : Dev) j => if s.pcRd (F.PC_BPSEL_EVENT j) = e ∧ !s.on F.PC_CTL_FREEZE then s.add64 (R.PC_BPCNT_LO j) n else s)
    (fun j => .ite (fun s => s.pcRd (F.PC_BPSEL_EVENT j) = e ∧ !s.on F.PC_CTL_FREEZE) (fun _ _ => rfl) (fun _ _ => rfl) .id) js

theorem Dev.Silent.bpBeats (w : BmW) : Dev.Silent (·.bpBeats w) :=
  Dev.Silent.comp (.bpCount _ _ _) (.comp (.bpCount _ _ _) (.bpCount _ _ _))

theorem Dev.Silent.bpGrant (w : BmW) : Dev.Silent (·.bpGrant w) := by
  intro s l
  unfold Dev.bpGrant
  split
  · exact Dev.Silent.comp (.bpBeats w) (.bpCount _ _ _) s l
  · exact Dev.Silent.bpCount _ _ _ s l

theorem Dev.Silent.t6 (via : Via) (off : Nat) (wr : Bool) : Dev.Silent (Dev.t6 via off wr) := fun s l =>
  congrArg (Dev.bmPass 6 (s.viaW via off wr).m)
    (Dev.Silent.comp (.when (.bpBeats (s.viaW via off wr)) (!wr)) (.bpGrant (s.viaW via off wr)) s l)

theorem Dev.Silent.bmAge (t n : Nat) : Dev.Silent (·.bmAge t n) := by
  intro s l
  have h := Dev.Silent.each (f := fun (d : Dev) (x : BmW × Nat) => d.bpCount x.1.raisedFor 5 (s.waited n x.2 x.1))
    (fun _ => .bpCount _ _ _) (s.bm.wait.zipIdx.filter (fun x => x.1.q.tgt.toNat == t)) s l
  show ({ Dev.each (s.bm.wait.zipIdx.filter (fun x => x.1.q.tgt.toNat == t))
    (fun d x => d.bpCount x.1.raisedFor 5 (s.waited n x.2 x.1)) (s.setTx l) with bm := _, freeCtr := _ } : Dev) = _
  rw [h]
  rfl

theorem Dev.Silent.bmSettleAt (t : Nat) : Dev.Silent (·.bmSettleAt t) :=
  .ite (fun s => s.bm.wait.any (fun w => w.q.tgt.toNat == t)) (fun _ _ => rfl) (fun s l =>
    congrArg (fun d : Dev => { d with bm := { d.bm with passed := d.bm.passed.set t (d.bm.passed.get t + s.free.toNat) } })
      (Dev.Silent.bmAge t s.free.toNat s.useFree l)) .id

theorem Dev.Silent.settleFor (off : Nat) : Dev.Silent (Dev.settleFor off) :=
  .when (.each (f := Dev.bmSettleAt) .bmSettleAt _) _

theorem Dev.RegsAs.setTx (l : List Tx) (s : Dev) : Dev.RegsAs s (s.setTx l) := .of_regs rfl

theorem Dev.Keeps.setTx (p : List Part) (l : List Tx) (s : Dev) : Dev.Keeps p s (s.setTx l) := fun p _ => by cases p <;> rfl

theorem State.fresh_dev (s : State) : s.fresh.dev = s.dev.setTx [] := rfl

/-- Messages start afresh: a silent operation leaves the registers that it leaves without that. -/
theorem Dev.Silent.regsAs {f : Dev → Dev} (h : Dev.Silent f) (s : State) : Dev.RegsAs (f s.dev) (f s.fresh.dev) := by
  rw [State.fresh_dev, h]
  exact .setTx _ _

theorem Dev.Silent.keeps {f : Dev → Dev} (h : Dev.Silent f) (p : List Part) (s : State) : Dev.Keeps p (f s.dev) (f s.fresh.dev) := by
  rw [State.fresh_dev, h]
  exact .setTx _ _ _

end Sys2Proof.Machine
end

section
-- One proof after another: in parallel the proofs of this text would not fit the memory that its check allows.
set_option Elab.async false
/-!
PROOFS. The service aperture (11 R264): a granted write, what opening, locking and missing leave, and the statement on the aperture.
-/
namespace Sys2Proof.Machine

/-! ### Granted writes -/

theorem Dev.t6Do_of_not_pc {off : Nat} (h : pcWindow off = false) (via : Via) (f : Dev → Dev) (s : Dev) :
    s.t6Do via off f = f (s.t6 via off true) := by
  have hpc : off ≠ R.PC_CTL := fun e => by simp [e, pcWindow, R.PC_CTL] at h
  simp [Dev.t6Do, Dev.settleFor, h, hpc]

/-- A granted write outside the PC window acts on the block that has counted its access. -/
theorem MayWrite.onDev {s : State} {via : Via} {off : Nat} (h : MayWrite s via off) (hr : Running s) (hpc : pcWindow off = false)
    (f : Dev → Dev) : s.onDev (Dev.writeReg via off f) = .next { s with dev := f (s.fresh.dev.t6 via off true) } := by
  rw [State.onDev_next _ _ hr, h.writeReg, Dev.t6Do_of_not_pc hpc]

/-- The frame of a granted write whose effect on the block that has counted the access is known. -/
theorem Writes.of_t6 {s : State} {via : Via} {off : Nat} {wr : Bool} {e d : Dev} {l : List Part}
    (hr : Dev.RegsAs e d) (hk : Dev.Keeps l (s.fresh.dev.t6 via off wr) d)
    (he : Dev.Keeps l e (s.dev.t6 via off wr)) : Writes e l s { s with dev := d } :=
  .of hr (he.trans ((Dev.Silent.keeps (.t6 via off wr) l s).trans hk))

theorem Dev.t6_rd (s : State) (via : Via) (off : Nat) (wr : Bool) (f : Fld) (h : blockOf f.reg ≠ 21 := by decide) :
    (s.fresh.dev.t6 via off wr).rd f = s.dev.rd f :=
  (Dev.t6_frame via off wr s.fresh.dev).rd f (by simpa using h)

theorem Dev.t6_on (s : State) (via : Via) (off : Nat) (wr : Bool) (f : Fld) (h : blockOf f.reg ≠ 21 := by decide) :
    (s.fresh.dev.t6 via off wr).on f = s.dev.on f := by simp only [Dev.on, Dev.t6_rd s via off wr f h]

theorem Dev.t6_hif (s : State) (via : Via) (off : Nat) (wr : Bool) : (s.fresh.dev.t6 via off wr).hif = s.dev.hif :=
  (Dev.t6_frame via off wr s.fresh.dev).part .hif

theorem Dev.t6_fc (s : State) (via : Via) (off : Nat) (wr : Bool) : (s.fresh.dev.t6 via off wr).fc = s.dev.fc :=
  (Dev.t6_frame via off wr s.fresh.dev).part .fc

/-- Only the power manager's part and the time base say with what sample index a line is latched. -/
theorem Dev.t6_latched (s : State) (via : Via) (off : Nat) (wr : Bool) (x : Line) :
    (s.fresh.dev.t6 via off wr).latched x = s.dev.latched x := by
  have hf := Dev.t6_frame via off wr s.fresh.dev
  have hpm : (s.fresh.dev.t6 via off wr).pm = s.dev.pm := hf.part .pm
  have htb : (s.fresh.dev.t6 via off wr).tb = s.dev.tb := hf.part .tb
  unfold Dev.latched Dev.unclocked Dev.carried
  rw [hpm, htb]

theorem Dev.RegsAs.t6 (s : State) (via : Via) (off : Nat) (wr : Bool) : Dev.RegsAs (s.dev.t6 via off wr) (s.fresh.dev.t6 via off wr) :=
  Dev.Silent.regsAs (.t6 via off wr) s

/-! ### Opening and locking -/

theorem Dev.svcOpen_hif (s : Dev) :
    s.svcOpen.hif = { s.hif with misses := 0, svcFor := s.rd F.HIF_SVC_TIME, svcRun := 0 } := by
  unfold Dev.svcOpen
  cases s.on F.HIF_STAT_SVC_OPEN <;> simp [Dev.setHif]

theorem Dev.Keeps.svcOpen (s : Dev) : Dev.Keeps [.hif, .evq] s s.svcOpen := by
  unfold Dev.svcOpen
  extract_lets was s1 s2
  have h2 : Dev.Frame [0] [.hif, .evq] s s2 := ((Dev.Frame.refl _ _ s).hif _).wrB _ _
  exact (h2.when' _ ((Dev.Frame.refl _ _ s2).event _)).keeps

theorem Dev.svcOpen_regs (s : Dev) : Dev.RegsAs
    (if s.on F.HIF_STAT_SVC_OPEN then s else (s.wr F.HIF_STAT_SVC_OPEN 1).wr F.HIF_EVT_UNLOCKED 1) s.svcOpen := by
  unfold Dev.svcOpen
  cases h : s.on F.HIF_STAT_SVC_OPEN with
  | true =>
    have h1 : 1 = s.rd F.HIF_STAT_SVC_OPEN := (eq_of_beq h).symm
    intro off
    exact (congrArg (fun v => (s.wr F.HIF_STAT_SVC_OPEN v).reg off) h1).trans (Dev.reg_wr_same s _ off)
  | false => exact ((Dev.RegsAs.of_regs (d := s) (t := s.setHif _) rfl).wr _ _).event _

theorem Dev.svcOpen_on (s : Dev) : s.svcOpen.on F.HIF_STAT_SVC_OPEN = true := by
  rw [s.svcOpen_regs.on]
  split
  · assumption
  · rw [Dev.on_wr_apart _ _ _ _ (by decide) (by decide)]
    exact Dev.on_wrB_self s _ true (by decide) rfl

theorem Dev.svcLock_of_open {s : Dev} (h : s.on F.HIF_STAT_SVC_OPEN = true) :
    s.svcLock = ((s.setHif (fun h => { h with svcFor := 0, svcRun := 0 })).wrB F.HIF_STAT_SVC_OPEN false).event F.HIF_EVT_LOCKED :=
  if_pos h

theorem Dev.svcLock_of_locked {s : Dev} (h : s.on F.HIF_STAT_SVC_OPEN = false) : s.svcLock = s := if_neg (by simp [h])

theorem Dev.Keeps.svcLock (s : Dev) : Dev.Keeps [.hif, .evq] s s.svcLock := by
  unfold Dev.svcLock
  split
  · exact (((Dev.Frame.refl [0] [.hif, .evq] s).hif _).wrB _ _ |>.event _).keeps
  · exact .refl _ s

/-- What locking the open aperture leaves. -/
theorem Dev.svcLock_locks {s : Dev} (h : s.on F.HIF_STAT_SVC_OPEN = true) :
    s.svcLock.on F.HIF_STAT_SVC_OPEN = false ∧ s.svcLock.on F.HIF_EVT_LOCKED = true ∧
      s.svcLock.hif = { s.hif with svcFor := 0, svcRun := 0 } ∧
      Dev.RegsAs ((s.wr F.HIF_STAT_SVC_OPEN 0).wr F.HIF_EVT_LOCKED 1) s.svcLock := by
  rw [Dev.svcLock_of_open h]
  refine ⟨?_, Dev.on_event_self _ _ (by decide) rfl, ?_, ?_⟩
  · rw [Dev.on, Dev.rd_event_apart _ _ _ (by decide) (by decide)]
    exact Dev.on_wrB_self _ _ false (by decide) rfl
  · exact Dev.Keeps.event _ _ .hif (by decide)
  · exact ((Dev.RegsAs.of_regs (d := s) (t := s.setHif _) rfl).wr _ _).event _

/-! ### A mismatch -/

theorem Dev.svcMiss_hif (s : Dev) :
    s.svcMiss.hif = { s.hif with misses := if s.hif.misses < 2 then s.hif.misses + 1 else 0 } := by
  unfold Dev.svcMiss
  by_cases h : s.hif.misses < 2
  · have h' : s.hif.misses + 1 < 3 := by omega
    simp [h, h', Dev.setHif]
  · have h' : ¬ s.hif.misses + 1 < 3 := by omega
    simp [h, h', Dev.setHif]

theorem Dev.svcMiss_fc (s : Dev) : s.svcMiss.fc = if s.hif.misses < 2 then s.fc
    else { s.fc with lines := s.fc.lines ++ [s.latched ⟨0x0002, 1, srcWord 0, 0, true⟩] } := by
  unfold Dev.svcMiss
  by_cases h : s.hif.misses < 2
  · have h' : s.hif.misses + 1 < 3 := by omega
    simp [h, h', Dev.setHif]
  · have h' : ¬ s.hif.misses + 1 < 3 := by omega
    simp [h, h', Dev.setHif, Dev.raise, Dev.latched, Dev.unclocked, Dev.carried]

theorem Dev.svcMiss_regs (s : Dev) : Dev.RegsAs (if s.hif.misses < 2 then s.wr F.HIF_EVT_BADCODE 1
    else ((s.wr F.HIF_EVT_BADCODE 1).wr F.HIF_STAT_LOCKOUT 1).wr F.HIF_EVT_LOCKOUT 1) s.svcMiss := by
  have h1 : Dev.RegsAs (s.wr F.HIF_EVT_BADCODE 1) ((s.setHif fun h =>
      { h with misses := if s.hif.misses + 1 < 3 then s.hif.misses + 1 else 0 }).event F.HIF_EVT_BADCODE) :=
    (Dev.RegsAs.of_regs rfl).event _
  unfold Dev.svcMiss
  by_cases h : s.hif.misses < 2
  · rw [if_pos h]
    exact (congrArg (Dev.RegsAs _) (if_pos (by omega))).mpr h1
  · rw [if_neg h]
    exact (congrArg (Dev.RegsAs _) (if_neg (by omega))).mpr (((h1.wr _ _).event _).raise _ _ _ _ _)

theorem Dev.Keeps.svcMiss (s : Dev) : Dev.Keeps [.hif, .evq, .fc] s s.svcMiss := by
  unfold Dev.svcMiss
  extract_lets n t
  have ht : Dev.Frame [0] [.hif, .evq, .fc] s t := ((Dev.Frame.refl _ _ s).hif _).event _
  split
  · exact ht.keeps
  · exact (((ht.wrB _ _).event _).raise _ _ _).keeps

/-! ### The commands of the aperture -/

/-- HIF_UNLOCK_HI takes a write through an open or a locked aperture, at PL2. -/
theorem mayWrite_unlockHi {s : State} {via : Via} (hv : via ≠ .debug) (hs : s.dev.viaShut via R.HIF_UNLOCK_HI true = false) :
    MayWrite s via R.HIF_UNLOCK_HI :=
  ⟨hs, by simp [Dev.svcShut], by cases via <;> first | decide | exact absurd rfl hv, fun h => absurd h hv⟩

theorem exec_hifUnlockHi {s : State} {via : Via} (hr : Running s) (hv : via ≠ .debug)
    (hs : s.dev.viaShut via R.HIF_UNLOCK_HI true = false) (v : Word) :
    exec (.hifUnlockHi via v) s = .next { s with dev := (s.fresh.dev.t6 via R.HIF_UNLOCK_HI true).unlockHi v } :=
  (mayWrite_unlockHi hv hs).onDev hr (by decide) _

/-- The service code is the stewards' to load. -/
theorem exec_hifSvcCodeHi {s : State} {via : Via} (hr : Running s) (hv : via = .steward)
    (hs : s.dev.viaShut via R.HIF_SVC_CODE_HI true = false) (v : Word) :
    exec (.hifSvcCodeHi via v) s = .next { s with dev := (s.fresh.dev.t6 via R.HIF_SVC_CODE_HI true).svcCodeHi v } := by
  subst hv
  exact MayWrite.onDev ⟨hs, rfl, by decide, fun h => nomatch h⟩ hr (by decide) _

theorem exec_hifSvcCtlLock {s : State} {via : Via} (hr : Running s) (hv : via ≠ .debug)
    (hs : s.dev.viaShut via R.HIF_SVC_CTL true = false) (ho : s.dev.on F.HIF_STAT_SVC_OPEN = true) (v : Word) :
    exec (.hifSvcCtlLock via v) s = .next { s with dev := (s.fresh.dev.t6 via R.HIF_SVC_CTL true).svcLock } :=
  MayWrite.onDev ⟨hs, by simp [Dev.svcShut, ho], by cases via <;> first | decide | exact absurd rfl hv, fun h => absurd h hv⟩
    hr (by decide) _

theorem Dev.unlockHi_lockout {s : Dev} (h : s.on F.HIF_STAT_LOCKOUT = true) (v : Word) : s.unlockHi v = s := if_pos h

theorem Dev.unlockHi_match {s : Dev} {v : Word} (h : s.on F.HIF_STAT_LOCKOUT = false) (hl : s.hif.codeLoaded = true)
    (hc : s.hif.code = v ++ s.hif.offerLo) : s.unlockHi v = s.svcOpen := by
  simp [Dev.unlockHi, h, hl, ← hc]

theorem Dev.unlockHi_mismatch {s : Dev} {v : Word} (h : s.on F.HIF_STAT_LOCKOUT = false)
    (hc : s.hif.codeLoaded = false ∨ s.hif.code ≠ v ++ s.hif.offerLo) : s.unlockHi v = s.svcMiss := by
  rcases hc with hl | hc
  · simp [Dev.unlockHi, h, hl]
  · simp [Dev.unlockHi, h, hc]

end Sys2Proof.Machine

namespace Sys2Proof.Proofs
open Sys2Proof.Machine

/-- Settles O1: each command is `Dev.svcOpen`, `Dev.svcMiss`, `Dev.svcLock` or one field of HIF, on the block that has counted the access. -/
theorem serviceAperture : Obligations.ServiceAperture := by
  unfold Obligations.ServiceAperture
  intro s via v hrun d
  have hregs := Dev.RegsAs.t6 s via R.HIF_UNLOCK_HI true
  have hhif := Dev.t6_hif s via R.HIF_UNLOCK_HI true
  have hfc := Dev.t6_fc s via R.HIF_UNLOCK_HI true
  have hopen := Dev.t6_on s via R.HIF_UNLOCK_HI true F.HIF_STAT_SVC_OPEN
  have hlock := Dev.t6_on s via R.HIF_UNLOCK_HI true F.HIF_STAT_LOCKOUT
  refine ⟨?_, ?_, ?_, ?_, ?_, ?_, ?_⟩
  · intro hv hs hlo hl hc
    refine ⟨_, exec_hifUnlockHi hrun hv hs v, ?_⟩
    rw [Dev.unlockHi_match (hlock.trans hlo) (hhif ▸ hl) (hhif ▸ hc)]
    refine ⟨Dev.svcOpen_on _, ?_, ?_⟩
    · rw [Dev.svcOpen_hif, hhif, hregs.rd, Dev.t6_frame via _ true s.dev |>.rd F.HIF_SVC_TIME]
    · refine .of_t6 (wr := true) ?_ (.svcOpen _) ?_
      · refine Dev.RegsAs.trans ?_ (Dev.svcOpen_regs _)
        rw [hopen]
        split
        · exact hregs
        · exact (hregs.wr _ _).wr _ _
      · split
        · exact .refl _ _
        · exact fun p _ => by cases p <;> rfl
  · intro hv hs hlo hc
    refine ⟨_, exec_hifUnlockHi hrun hv hs v, ?_⟩
    rw [Dev.unlockHi_mismatch (hlock.trans hlo) (hhif ▸ hc)]
    refine ⟨?_, ?_, ?_⟩
    · rw [Dev.svcMiss_hif, hhif]
    · rw [Dev.svcMiss_fc, hhif, hfc, Dev.t6_latched]
    · refine .of_t6 (wr := true) ?_ (.svcMiss _) ?_
      · refine Dev.RegsAs.trans ?_ (Dev.svcMiss_regs _)
        rw [hhif]
        split
        · exact hregs.wr _ _
        · exact ((hregs.wr _ _).wr _ _).wr _ _
      · split
        · exact ((Dev.Frame.refl [0] _ d).wr _ _).keeps.symm
        · exact ((((Dev.Frame.refl [0] _ d).wr _ _).wr _ _).wr _ _).keeps.symm
  · intro hv hs hlo
    refine ⟨_, exec_hifUnlockHi hrun hv hs v, ?_⟩
    rw [Dev.unlockHi_lockout (hlock.trans hlo)]
    exact .of_t6 (wr := true) hregs (.refl _ _) (.refl _ _)
  · intro hv hs
    refine ⟨_, exec_hifSvcCodeHi hrun hv hs v, ?_, ?_⟩
    · exact congrArg (fun h : Hif => { h with code := v ++ h.code.setWidth 32, codeLoaded := true }) (Dev.t6_hif s via _ true)
    · exact .of_t6 (wr := true) (.t6 s via _ true) ((Dev.Frame.refl [] _ _).hif _).keeps (.refl _ _)
  · rintro ho c e (⟨rfl, rfl⟩ | ⟨rfl, hv, hs, rfl⟩)
    · obtain ⟨h1, h2, h3, h4⟩ := Dev.svcLock_locks (s := s.fresh.dev) ho
      refine ⟨_, State.onDev_next _ _ hrun, h1, h2, h3, .of ?_ (Dev.Keeps.trans ?_ (.svcLock _))⟩
      · exact (((Dev.RegsAs.setTx [] s.dev).wr _ _).wr _ _).trans h4
      · exact fun p _ => by cases p <;> rfl
    · obtain ⟨h1, h2, h3, h4⟩ := Dev.svcLock_locks (s := s.fresh.dev.t6 via R.HIF_SVC_CTL true) ((Dev.t6_on s via _ true _).trans ho)
      refine ⟨_, exec_hifSvcCtlLock hrun hv hs ho v, h1, h2, h3.trans ?_, .of_t6 (wr := true) ?_ (.svcLock _) ?_⟩
      · rw [Dev.t6_hif]
      · exact (((Dev.RegsAs.t6 s via _ true).wr _ _).wr _ _).trans h4
      · exact fun p _ => by cases p <;> rfl
  · intro ho
    refine (State.onDev_next _ _ hrun).trans ?_
    rw [Dev.svcLock_of_locked (s := s.fresh.dev) ho]
    rfl
  · refine ⟨_, State.onDev_next _ _ hrun, Dev.on_wrB_self _ _ false (by decide) rfl, .of ?_ ?_⟩
    · exact (Dev.RegsAs.setTx [] s.dev).wr _ _
    · exact fun p _ => by cases p <;> rfl

end Sys2Proof.Proofs
end

section
-- One proof after another: in parallel the proofs of this text would not fit the memory that its check allows.
set_option Elab.async false
/-!
PROOFS. Mailboxes (11 R265 to R269): bytes read back after a store, what completing a mailbox leaves, what an accepted doorbell leaves,
and what a read of the status word gives. Then the statements on doorbells, the status word and completion.
-/
namespace Sys2Proof

/-! ### Bytes -/

theorem Memory.readBytes_congr {m m' : List Host.Cell} {a n : Nat}
    (h : ∀ x, a ≤ x → x < a + n → Memory.read m x = Memory.read m' x) : Memory.readBytes m a n = Memory.readBytes m' a n := by
  induction n generalizing a with
  | zero => rfl
  | succ n ih =>
    rw [Memory.readBytes, Memory.readBytes, h a (by omega) (by omega), ih fun x h1 h2 => h x (by omega) (by omega)]

theorem Memory.read_writeBytes_out {m : List Host.Cell} {a x : Nat} {l : List Byte} (h : x < a ∨ a + l.length ≤ x) :
    Memory.read (Memory.writeBytes m a l) x = Memory.read m x := by
  rw [Memory.read_writeBytes, if_neg (by omega)]

/-- Bytes stored read back. -/
theorem Memory.readBytes_writeBytes (l : List Byte) (m : List Host.Cell) (a : Nat) :
    Memory.readBytes (Memory.writeBytes m a l) a l.length = l := by
  induction l generalizing m a with
  | nil => rfl
  | cons b r ih =>
    rw [List.length_cons, Memory.readBytes, Memory.writeBytes, ih, Memory.read_writeBytes_out (by omega), Memory.read_write_self]

namespace Machine

theorem toLe_length (n v : Nat) : (toLe n v).length = n := by
  induction n generalizing v with
  | zero => rfl
  | succ n ih => simp [toLe, ih]

theorem leNat_lt (l : List Byte) : leNat l < 256 ^ l.length := by
  induction l with
  | nil => simp [leNat]
  | cons b r ih =>
    have hb := b.isLt
    simp only [leNat, List.length_cons, Nat.pow_succ]
    omega

theorem leAt_lt (l : List Byte) (o n : Nat) : leAt l o n < 256 ^ n :=
  Nat.lt_of_lt_of_le (leNat_lt _) (Nat.pow_le_pow_right (by omega) (by simp))

theorem leNat_toLe (n v : Nat) : leNat (toLe n v) = v % 256 ^ n := by
  induction n generalizing v with
  | zero => simp [toLe, leNat, Nat.mod_one]
  | succ n ih =>
    simp only [toLe, leNat, ih, BitVec.toNat_ofNat, Nat.reducePow, show (256 : Nat) ^ (n + 1) = 256 * 256 ^ n from Nat.pow_succ',
      Nat.mod_mul]

theorem respHeader_length (st tag len d d2 : Nat) : (respHeader st tag len d d2).length = 16 := by
  simp [respHeader, toLe_length, zeros]

/-! ### The fields of a mailbox -/

/-- The registers of mailbox i stand in block MB. -/
theorem blockOf_mbStat {i : Nat} (h : i < 8) : blockOf (0x10004 + 0x10 * i) = 1 := by
  unfold blockOf
  omega

theorem blockOf_mbCfg {i : Nat} (h : i < 8) : blockOf (0x10008 + 0x10 * i) = 1 := by
  unfold blockOf
  omega

theorem blockOf_mbCmds {i : Nat} (h : i < 8) : blockOf (0x1000c + 0x10 * i) = 1 := by
  unfold blockOf
  omega

/-! ### Completion (R268) -/

theorem Dev.msix_frame (s : Dev) {v : Nat} (h : v < 64) : Dev.Frame [0] [] s (s.msix v) := ⟨s.msix_within v h, .msix s v⟩

/-- A mailbox that is done, before its vector and its record. -/
def Dev.mbMarked (mb : Nat) (s : Dev) : Dev :=
  (({ s with mbx := s.mbx.set mb {} }).wr (F.MB_STAT_STATE mb) 2).count (F.MB_CMDS mb)

theorem Dev.mbDone_eq (mb st d : Nat) (s : Dev) : s.mbDone mb st d =
    Dev.when ((Dev.when ((s.mbMarked mb).on (F.MB_CFG_MSI_EN mb)) (·.msix (24 + mb)) (s.mbMarked mb)).on (F.MB_CFG_EVT_EN mb))
      (Dev.mbEvent mb st d) (Dev.when ((s.mbMarked mb).on (F.MB_CFG_MSI_EN mb)) (·.msix (24 + mb)) (s.mbMarked mb)) := rfl

theorem Dev.mbMarked_frame (s : Dev) {mb : Nat} (h : mb < 8) : Dev.Frame [1] [.mbx] s (s.mbMarked mb) :=
  (((Dev.Frame.refl [1] [.mbx] s).mbx _).wr (F.MB_STAT_STATE mb) 2 (List.mem_singleton.mpr (blockOf_mbStat h))).count
    (F.MB_CMDS mb) 1 (List.mem_singleton.mpr (blockOf_mbCmds h))

/-- After its marks a mailbox's vector may fire and its record go out, which leaves the marks. -/
theorem Dev.mbDone_marked (mb st d : Nat) (s : Dev) (h : mb < 8) : Dev.Frame [0] [.evq] (s.mbMarked mb) (s.mbDone mb st d) := by
  rw [Dev.mbDone_eq]
  have h1 : Dev.Frame [0] [.evq] (s.mbMarked mb) (Dev.when ((s.mbMarked mb).on (F.MB_CFG_MSI_EN mb)) (·.msix (24 + mb)) (s.mbMarked mb)) :=
    .when _ _ _ ((Dev.msix_frame _ (by omega)).mono (by simp) (by simp))
  exact h1.when' _ ((Dev.Frame.refl _ _ _).emit _)

theorem Dev.mbDone_frame (mb st d : Nat) (s : Dev) (h : mb < 8) : Dev.Frame [0, 1] [.mbx, .evq] s (s.mbDone mb st d) :=
  ((s.mbMarked_frame h).mono).trans ((s.mbDone_marked mb st d h).mono)

theorem Dev.mbMarked_state (mb : Nat) (s : Dev) : (s.mbMarked mb).rd (F.MB_STAT_STATE mb) = 2 := by
  unfold Dev.mbMarked
  rw [Dev.rd_count_apart _ _ _ _ rfl (by simp [Fld.apart, F.MB_CMDS, F.MB_STAT_STATE]), Dev.rd_wr_self _ _ _ rfl]
  rfl

theorem Dev.mbMarked_cmds (mb : Nat) (s : Dev) :
    (s.mbMarked mb).rd (F.MB_CMDS mb) = min (s.rd (F.MB_CMDS mb) + 1) 0xFFFFFFFF := by
  unfold Dev.mbMarked
  rw [Dev.rd_count_self _ _ _ rfl rfl, Dev.rd_wr_apart _ _ _ _ rfl (by simp [Fld.apart, F.MB_CMDS, F.MB_STAT_STATE])]
  rfl

theorem Dev.mbMarked_tag (mb : Nat) (s : Dev) : (s.mbMarked mb).rd (F.MB_STAT_TAG mb) = s.rd (F.MB_STAT_TAG mb) := by
  unfold Dev.mbMarked
  rw [Dev.rd_count_apart _ _ _ _ rfl (by simp [Fld.apart, F.MB_CMDS, F.MB_STAT_TAG]),
    Dev.rd_wr_apart _ _ _ _ rfl (by simp [Fld.apart, F.MB_STAT_STATE, F.MB_STAT_TAG])]
  rfl

/-- A field of mailbox mb's registers reads after completion as its marks leave it. -/
theorem Dev.mbDone_rd {mb : Nat} (h : mb < 8) (st d : Nat) (s : Dev) (f : Fld) (hf : blockOf f.reg = 1) :
    (s.mbDone mb st d).rd f = (s.mbMarked mb).rd f := (s.mbDone_marked mb st d h).rd f (by simp [hf])

theorem Dev.mbDone_mbx (mb st d : Nat) (s : Dev) (h : mb < 8) : (s.mbDone mb st d).mbx = s.mbx.set mb {} :=
  (s.mbDone_marked mb st d h).part .mbx

theorem Dev.mbDone_msix {mb : Nat} (h : mb < 8) (st d : Nat) (s : Dev) (hon : s.on (F.MB_CFG_MSI_EN mb) = true)
    (hm : bit (s.reg (0x1000 + 16 * (24 + mb) + 12)).toNat 0 = false) : .msix (24 + mb) ∈ (s.mbDone mb st d).tx := by
  have hon' : (s.mbMarked mb).on (F.MB_CFG_MSI_EN mb) = true := by
    unfold Dev.mbMarked
    rw [Dev.on, Dev.rd_count_apart _ _ _ _ rfl (by simp [Fld.apart, F.MB_CMDS, F.MB_CFG_MSI_EN]),
      Dev.rd_wr_apart _ _ _ _ rfl (by simp [Fld.apart, F.MB_STAT_STATE, F.MB_CFG_MSI_EN])]
    exact hon
  have hm' : bit ((s.mbMarked mb).reg (0x1000 + 16 * (24 + mb) + 12)).toNat 0 = false := by
    rw [(s.mbMarked_frame h).within _ (by simp [blockOf]; omega)]
    exact hm
  rw [Dev.mbDone_eq, hon', Dev.when_true, Dev.msix, if_neg (by simp [hm'])]
  cases hev : ((s.mbMarked mb).send (.msix (24 + mb))).on (F.MB_CFG_EVT_EN mb) <;> simp [Dev.mbEvent, Dev.send]

theorem Dev.mbDone_record {mb : Nat} (h : mb < 8) (st d : Nat) (s : Dev) (hon : s.on (F.MB_CFG_EVT_EN mb) = true) :
    (s.mbDone mb st d).evq.inbox.length = s.evq.inbox.length + 1 := by
  have h1 : Dev.Frame [0] [] (s.mbMarked mb) (Dev.when ((s.mbMarked mb).on (F.MB_CFG_MSI_EN mb)) (·.msix (24 + mb)) (s.mbMarked mb)) :=
    .when _ _ _ (Dev.msix_frame _ (by omega))
  have hon' : (s.mbMarked mb).on (F.MB_CFG_EVT_EN mb) = true := by
    unfold Dev.mbMarked
    rw [Dev.on, Dev.rd_count_apart _ _ _ _ rfl (by simp [Fld.apart, F.MB_CMDS, F.MB_CFG_EVT_EN]),
      Dev.rd_wr_apart _ _ _ _ rfl (by simp [Fld.apart, F.MB_STAT_STATE, F.MB_CFG_EVT_EN])]
    exact hon
  have hq : (Dev.when ((s.mbMarked mb).on (F.MB_CFG_MSI_EN mb)) (·.msix (24 + mb)) (s.mbMarked mb)).evq = s.evq := h1.part .evq
  rw [Dev.mbDone_eq, h1.on _ (by simp [F.MB_CFG_EVT_EN, blockOf_mbCfg h]),
    hon', Dev.when_true, Dev.mbEvent, Dev.emit]
  simp [hq]

/-! ### Responses -/

theorem State.complete_of_ready {s : State} {mb st d d2 : Nat} {pl : List Byte} (hb : s.dev.rd (F.MB_STAT_STATE mb) = 1)
    (hr : (s.dev.mbx.get mb).ready = some (st, d, d2, pl)) : s.complete mb = s.respond mb st d d2 pl := by
  simp [State.complete, hb, hr]

/-- The response reads back, header and payload, and the bytes outside it stay. -/
theorem State.respond_mem (mb st d d2 : Nat) (pl : List Byte) (s : State) :
    Memory.readBytes (s.respond mb st d d2 pl).mem (respArea mb) (16 + pl.length) =
        respHeader st (s.dev.rd (F.MB_STAT_TAG mb)) pl.length d d2 ++ pl ∧
      ∀ a, a < respArea mb ∨ respArea mb + 16 + pl.length ≤ a → Memory.read (s.respond mb st d d2 pl).mem a = Memory.read s.mem a := by
  have hlen : (respHeader st (s.dev.rd (F.MB_STAT_TAG mb)) pl.length d d2 ++ pl).length = 16 + pl.length := by
    rw [List.length_append, respHeader_length]
  refine ⟨?_, fun a ha => Memory.read_writeBytes_out (by omega)⟩
  rw [← hlen]
  exact Memory.readBytes_writeBytes _ _ _

/-! ### Doorbells (R267) -/

theorem Dev.exclusiveOn_congr {s t : Dev} (hm : t.mbx = s.mbx) (hr : ∀ i, i < 8 → t.rd (F.MB_STAT_STATE i) = s.rd (F.MB_STAT_STATE i)) :
    t.exclusiveOn = s.exclusiveOn := by
  unfold Dev.exclusiveOn
  rw [hm]
  refine congrArg (fun f => s.mbx.any f) (funext fun x => ?_)
  by_cases hx : x.1 < 8
  · rw [hr x.1 hx]
  · simp [show 8 ≤ x.1 by omega]

/-- The request that an accepted doorbell leaves in mailbox mb (R267, R269). -/
def Dev.mbRequest (mb : Nat) (req : List Byte) (s : Dev) : Mbx :=
  { from_ := mb, bell := s.hif.bells, cmd := leAt req 0 2, len := leAt req 4 2, req := req,
    conflict := exclusive (leAt req 0 2) && s.exclusiveOn }

/-- The status of a mailbox that takes a request with this TAG. -/
def Dev.mbTakes (mb tag : Nat) (s : Dev) : Dev :=
  ((s.wr (F.MB_STAT_TAG mb) tag).wr (F.MB_STAT_STATE mb) 1).wrB (F.MB_STAT_REFUSED mb) false

/-- Mailbox mb is BUSY with a request. -/
def Dev.mbBusy (mb : Nat) (req : List Byte) (s : Dev) : Dev :=
  let t := (s.bmWipe 7).mbTakes mb (leAt req 2 2)
  { t with mbx := t.mbx.set mb ((s.bmWipe 7).mbRequest mb req), hif := { t.hif with bells := t.hif.bells + 1 } }

theorem Dev.mbAccept_not_ready {mb : Nat} {req : List Byte} {s : Dev} (h : (s.mbBusy mb req).rd F.HIF_ST_STAT_STATE ≠ 2) :
    s.mbAccept mb req = (s.mbBusy mb req).finish mb 8 0 0xFFFFFFFF [] := if_pos h

theorem Dev.mbAccept_ready {mb : Nat} {req : List Byte} {s : Dev} (h : (s.mbBusy mb req).rd F.HIF_ST_STAT_STATE = 2) :
    s.mbAccept mb req = match ecsCheck mb ((s.bmWipe 7).mbRequest mb req) with
      | some (st, d2) => (s.mbBusy mb req).finish mb st 0 d2 []
      | none => if ((s.bmWipe 7).mbRequest mb req).cmd = 0x0501 ∧ 4 < ((s.bmWipe 7).mbRequest mb req).fld 0 1 then (s.mbBusy mb req).pmRefuse mb 1
          else s.mbBusy mb req := (if_neg (not_not_intro h)).trans rfl

theorem Dev.mbTakes_reg {mb tag off : Nat} (s : Dev) (h : off ≠ R.MB_STAT mb) : (s.mbTakes mb tag).reg off = s.reg off := by
  have hn : R.MB_STAT mb ≠ off := Ne.symm h
  rw [Dev.mbTakes, Dev.reg_wrB_ne _ hn, Dev.reg_wr_ne _ hn, Dev.reg_wr_ne _ hn]

theorem Dev.mbTakes_frame {mb : Nat} (h : mb < 8) (tag : Nat) (s : Dev) : Dev.Frame [1] [] s (s.mbTakes mb tag) := by
  have hb : blockOf (0x10004 + 0x10 * mb) ∈ [1] := List.mem_singleton.mpr (blockOf_mbStat h)
  exact (((Dev.Frame.refl _ _ s).wr _ _ hb).wr _ _ hb).wrB _ _ hb

theorem Dev.mbTakes_state (mb tag : Nat) (s : Dev) : (s.mbTakes mb tag).rd (F.MB_STAT_STATE mb) = 1 := by
  rw [Dev.mbTakes, Dev.rd_wrB_apart _ _ _ _ rfl (by simp [Fld.apart, F.MB_STAT_STATE, F.MB_STAT_REFUSED]), Dev.rd_wr_self _ _ _ rfl]
  rfl

theorem Dev.mbTakes_tag {mb tag : Nat} (s : Dev) (h : tag < 2 ^ 16) : (s.mbTakes mb tag).rd (F.MB_STAT_TAG mb) = tag := by
  rw [Dev.mbTakes, Dev.rd_wrB_apart _ _ _ _ rfl (by simp [Fld.apart, F.MB_STAT_TAG, F.MB_STAT_REFUSED]),
    Dev.rd_wr_apart _ _ _ _ rfl (by simp [Fld.apart, F.MB_STAT_TAG, F.MB_STAT_STATE]), Dev.rd_wr_self _ _ _ rfl]
  exact Nat.mod_eq_of_lt h

theorem Dev.mbTakes_refused (mb tag : Nat) (s : Dev) : (s.mbTakes mb tag).rd (F.MB_STAT_REFUSED mb) = 0 := by
  rw [Dev.mbTakes, Dev.wrB, Dev.rd_wr_self _ _ _ rfl]
  rfl

theorem Dev.bmWipe_frame (t : Nat) (s : Dev) : Dev.Frame [] [.bm] s (s.bmWipe t) := (Dev.Frame.refl _ _ s).bm _

theorem Dev.mbBusy_regsAs (mb : Nat) (req : List Byte) (s : Dev) :
    Dev.RegsAs ((s.bmWipe 7).mbTakes mb (leAt req 2 2)) (s.mbBusy mb req) := .of_regs rfl

theorem Dev.mbBusy_reg {mb : Nat} (req : List Byte) (s : Dev) (off : Nat) (h : off ≠ R.MB_STAT mb) :
    (s.mbBusy mb req).reg off = s.reg off := by
  rw [Dev.mbBusy_regsAs, Dev.mbTakes_reg _ h, Dev.RegsAs.of_regs (d := s) (t := s.bmWipe 7) rfl]

theorem Dev.mbBusy_frame {mb : Nat} (h : mb < 8) (req : List Byte) (s : Dev) :
    Dev.Frame [1] [.mbx, .hif, .bm] s (s.mbBusy mb req) := by
  unfold Dev.mbBusy
  extract_lets t
  have ht : Dev.Frame [1] [.mbx, .hif, .bm] s t := ((s.bmWipe_frame 7).mono).trans ((Dev.mbTakes_frame h _ _).mono)
  clear_value t
  exact ht.fields rfl fun p hp => by cases p <;> first | exact absurd (by decide) hp | rfl

theorem Dev.mbBusy_state (mb : Nat) (req : List Byte) (s : Dev) : (s.mbBusy mb req).rd (F.MB_STAT_STATE mb) = 1 := by
  rw [(Dev.mbBusy_regsAs mb req s).rd, Dev.mbTakes_state]

theorem Dev.mbBusy_tag (mb : Nat) (req : List Byte) (s : Dev) : (s.mbBusy mb req).rd (F.MB_STAT_TAG mb) = leAt req 2 2 := by
  rw [(Dev.mbBusy_regsAs mb req s).rd, Dev.mbTakes_tag _ (leAt_lt req 2 2)]

theorem Dev.mbBusy_refused (mb : Nat) (req : List Byte) (s : Dev) : (s.mbBusy mb req).rd (F.MB_STAT_REFUSED mb) = 0 := by
  rw [(Dev.mbBusy_regsAs mb req s).rd, Dev.mbTakes_refused]

theorem Dev.mbBusy_mbx {mb : Nat} (h : mb < 8) (req : List Byte) (s : Dev) :
    (s.mbBusy mb req).mbx = s.mbx.set mb ((s.bmWipe 7).mbRequest mb req) := by
  have ht : ((s.bmWipe 7).mbTakes mb (leAt req 2 2)).mbx = s.mbx := (Dev.mbTakes_frame h _ _).part .mbx
  unfold Dev.mbBusy
  dsimp only
  rw [ht]

theorem Dev.pmNote_one_frame (s : Dev) : Dev.Frame [19] [.evq] s (s.pmNote 1) :=
  (((Dev.Frame.refl [19] [.evq] s).count _ 1).event _).emit _

/-- The stewards READY: an accepted doorbell's request waits in its BUSY mailbox, or is answered. -/
theorem Dev.mbAccept_frame {mb : Nat} {req : List Byte} {s : Dev} (h : (s.mbBusy mb req).rd F.HIF_ST_STAT_STATE = 2) :
    Dev.Frame [19] [.mbx, .evq] (s.mbBusy mb req) (s.mbAccept mb req) := by
  rw [Dev.mbAccept_ready h]
  split
  · exact (Dev.Frame.refl _ _ _).finish _ _ _ _ _
  · split
    · exact ((Dev.pmNote_one_frame _).mono).finish _ _ _ _ _
    · exact .refl _ _ _

theorem Dev.mbAccept_other {mb k : Nat} {req : List Byte} {s : Dev} (hi : mb < 8)
    (h : (s.mbBusy mb req).rd F.HIF_ST_STAT_STATE = 2) (hk : mb ≠ k) :
    (s.mbAccept mb req).mbx.get k = s.mbx.get k := by
  have hb : (s.mbBusy mb req).mbx.get k = s.mbx.get k := by rw [Dev.mbBusy_mbx hi, Tbl.get_set_ne _ hk]
  have hn : ((s.mbBusy mb req).pmNote 1).mbx = (s.mbBusy mb req).mbx := (Dev.pmNote_one_frame _).part .mbx
  rw [Dev.mbAccept_ready h]
  split
  · rw [Dev.finish_other _ _ _ _ _ _ _ hk, hb]
  · split
    · rw [Dev.pmRefuse, Dev.finish_other _ _ _ _ _ _ _ hk, hn, hb]
    · exact hb

theorem State.doorbell_granted {s : State} {via : Via} {mb : Nat} (h1 : s.dev.viaShut via (R.MB_DB mb) true = false)
    (h2 : s.dev.svcShut via (R.MB_DB mb) = false) (h3 : viaPl via ≤ mbPl mb) :
    s.fresh.doorbell via mb = (s.fresh.mapDev (Dev.t6 via (R.MB_DB mb) true)).ring mb := by
  have h1' : s.fresh.dev.viaShut via (R.MB_DB mb) true = false := h1
  have h2' : s.fresh.dev.svcShut via (R.MB_DB mb) = false := h2
  unfold State.doorbell
  dsimp only
  rw [if_neg]
  simp [h1', h2', h3]

theorem State.ring_busy {s : State} {mb : Nat} (h : s.dev.rd (F.MB_STAT_STATE mb) = 1) :
    s.ring mb = s.mapDev (·.wrB (F.MB_STAT_REFUSED mb) true) := if_pos h

/-- The block takes a doorbell of a mailbox that is not BUSY, and its response area is emptied. -/
def State.accept (mb : Nat) (s : State) : State :=
  { s with mem := Memory.clear s.mem (respArea mb) 4096, dev := s.dev.mbAccept mb (Memory.readBytes s.mem (reqArea mb) 4096) }

theorem State.ring_ready {s : State} {mb : Nat} (h : s.dev.rd (F.MB_STAT_STATE mb) ≠ 1) (h2 : s.dev.rd F.HIF_ST_STAT_STATE = 2) :
    s.ring mb = s.accept mb := by
  simp [State.ring, State.accept, h, h2]

theorem State.ring_not_ready {s : State} {mb : Nat} (h : s.dev.rd (F.MB_STAT_STATE mb) ≠ 1) (h2 : s.dev.rd F.HIF_ST_STAT_STATE ≠ 2) :
    s.ring mb = (s.accept mb).complete mb := by
  simp [State.ring, State.accept, h, h2]

end Machine
end Sys2Proof

namespace Sys2Proof.Proofs
open Sys2Proof.Machine

/-- Settles O4: the completion of a BUSY mailbox is `State.respond`, whose marks `Dev.mbMarked` its vector and record leave. -/
theorem completion : Obligations.Completion := by
  unfold Obligations.Completion
  intro s mb st d d2 pl hrun i hbusy hready
  have hi : i < 8 := mb_lt mb
  have hexec : exec (.mailboxCompletion mb) s = .next (s.fresh.respond i st d d2 pl) :=
    (State.onAll_next s _ hrun).trans (congrArg _ (State.complete_of_ready hbusy hready))
  obtain ⟨hread, hout⟩ := s.fresh.respond_mem i st d d2 pl
  have hframe : Dev.Frame [0, 1] [.mbx, .evq] s.fresh.dev (s.fresh.respond i st d d2 pl).dev := Dev.mbDone_frame i st d _ hi
  have hmbx : (s.fresh.respond i st d d2 pl).dev.mbx = s.dev.mbx.set i {} := Dev.mbDone_mbx i st d _ hi
  refine ⟨_, hexec, ?_, ?_, hread, hout, Dev.mbDone_msix hi st d s.fresh.dev, Dev.mbDone_record hi st d s.fresh.dev, ?_, ?_, hframe.within, ?_, rfl⟩
  · exact (Dev.mbDone_rd hi st d _ _ (blockOf_mbStat hi)).trans (Dev.mbMarked_state i _)
  · exact (Dev.mbDone_rd hi st d _ _ (blockOf_mbCmds hi)).trans (Dev.mbMarked_cmds i _)
  · rw [hmbx, Tbl.get_set_self]
  · intro k hk
    rw [hmbx, Tbl.get_set_ne _ (Ne.symm hk)]
  · exact (Dev.Keeps.setTx _ [] s.dev).trans hframe.keeps

/-- Settles O2: an accepted doorbell leaves `Dev.mbBusy`, and what answers it at once changes that mailbox and, of the registers, PM's
counts alone. -/
theorem doorbell : Obligations.Doorbell := by
  unfold Obligations.Doorbell
  intro s via mb hrun hs1 hs2 hpl i req m
  have hi : i < 8 := mb_lt mb
  have hexec : exec (.doorbell via mb) s = .next ((s.fresh.mapDev (Dev.t6 via (R.MB_DB i) true)).ring i) :=
    (State.onAll_next s _ hrun).trans (congrArg _ (State.doorbell_granted hs1 hs2 hpl))
  set u : State := s.fresh.mapDev (Dev.t6 via (R.MB_DB i) true) with hu
  have ht6 : Dev.Frame [21] [.bm] s.fresh.dev u.dev := Dev.t6_frame _ _ _ _
  have hmb (j : Nat) (hj : j < 8) : u.dev.rd (F.MB_STAT_STATE j) = s.dev.rd (F.MB_STAT_STATE j) :=
    ht6.rd _ (by simp [F.MB_STAT_STATE, blockOf_mbStat hj])
  have hst : u.dev.rd F.HIF_ST_STAT_STATE = s.dev.rd F.HIF_ST_STAT_STATE := ht6.rd _
  have humbx : u.dev.mbx = s.dev.mbx := ht6.part .mbx
  have huhif : u.dev.hif = s.dev.hif := ht6.part .hif
  have hm : (u.dev.bmWipe 7).mbRequest i req = m := by
    unfold Dev.mbRequest
    rw [Dev.exclusiveOn_congr (s := s.dev) (t := u.dev.bmWipe 7) humbx hmb]
    exact congrArg (fun h : Hif => ({ from_ := i, bell := h.bells, cmd := _, len := _, req := req, conflict := _ } : Mbx)) huhif
  have hb : Dev.Frame [1] [.mbx, .hif, .bm] u.dev (u.dev.mbBusy i req) := Dev.mbBusy_frame hi req _
  have hbst : (u.dev.mbBusy i req).rd F.HIF_ST_STAT_STATE = s.dev.rd F.HIF_ST_STAT_STATE := (hb.rd _).trans hst
  have hkeep : Dev.Keeps [.mbx, .hif, .evq, .bm] s.dev (u.dev.mbBusy i req) :=
    ((Dev.Keeps.setTx _ [] s.dev).trans (ht6.keeps.mono (by decide))).trans (hb.keeps.mono (by decide))
  refine ⟨fun hbusy => ⟨_, hexec, ?_⟩, fun hidle hready => ⟨_, hexec, ?_⟩, fun hidle hoff => ⟨_, hexec, ?_⟩⟩
  · rw [State.ring_busy ((hmb i hi).trans hbusy)]
    exact .of_t6 (wr := true) ((Dev.RegsAs.t6 s via _ true).wr _ _) (Dev.Keeps.wrB _ _ _) (Dev.Keeps.wr _ _ _).symm
  · have hr2 : (u.dev.mbBusy i req).rd F.HIF_ST_STAT_STATE = 2 := hbst.trans hready
    have hacc := Dev.mbAccept_frame hr2
    have heq := Dev.mbAccept_ready hr2
    have hfld (f : Fld) (hf : blockOf f.reg = 1) : (u.dev.mbAccept i req).rd f = (u.dev.mbBusy i req).rd f :=
      hacc.rd f (by simp [hf])
    rw [State.ring_ready (by rwa [hmb i hi]) (by rwa [hst])]
    refine ⟨?_, ?_, ?_, ?_, ?_, ?_, ?_, ?_, ?_, ?_, rfl, fun a => Memory.read_clear _ _ _ _⟩
    · exact (hfld _ (blockOf_mbStat hi)).trans (Dev.mbBusy_state i req _)
    · exact (hfld _ (blockOf_mbStat hi)).trans (Dev.mbBusy_tag i req _)
    · exact (hfld _ (blockOf_mbStat hi)).trans (Dev.mbBusy_refused i req _)
    · intro hnone hcmd
      show (u.dev.mbAccept i req).mbx.get i = m
      rw [heq, hm, hnone]
      dsimp only
      rw [if_neg hcmd, Dev.mbBusy_mbx hi, Tbl.get_set_self, hm]
    · intro hnone hcmd hfar
      refine ⟨((u.dev.mbBusy i req).pmNote 1).pmResp 1, ?_⟩
      show ((u.dev.mbAccept i req).mbx.get i).ready = _
      rw [heq, hm, hnone]
      dsimp only
      rw [if_pos ⟨hcmd, hfar⟩]
      exact Dev.finish_ready _ _ _ _ _ _ hi
    · intro st d2 hsome
      show ((u.dev.mbAccept i req).mbx.get i).ready = _
      rw [heq, hm, hsome]
      exact Dev.finish_ready _ _ _ _ _ _ hi
    · intro k hk
      exact (Dev.mbAccept_other hi hr2 (Ne.symm hk)).trans (by rw [humbx])
    · intro off h1 h2 h3
      exact ((hacc.within off (by simpa using h2)).trans (Dev.mbBusy_reg req _ off h1)).trans (ht6.within off (by simpa using h3))
    · have hhif : (u.dev.mbAccept i req).hif = (u.dev.mbBusy i req).hif := hacc.part .hif
      exact hhif.trans (congrArg (fun h : Hif => { h with bells := h.bells + 1 }) huhif)
    · exact hkeep.trans (hacc.keeps.mono (by decide))
  · have hr2 : (u.dev.mbBusy i req).rd F.HIF_ST_STAT_STATE ≠ 2 := hbst ▸ hoff
    have hdev : (u.accept i).dev = (u.dev.mbBusy i req).finish i 8 0 0xFFFFFFFF [] := Dev.mbAccept_not_ready hr2
    have hcomplete : (u.accept i).complete i = (u.accept i).respond i 8 0 0xFFFFFFFF [] :=
      State.complete_of_ready (by rw [hdev, Dev.finish_rd, Dev.mbBusy_state]) (by rw [hdev]; exact Dev.finish_ready _ _ _ _ _ _ hi)
    obtain ⟨hread, hout⟩ := (u.accept i).respond_mem i 8 0 0xFFFFFFFF []
    have htag : (u.accept i).dev.rd (F.MB_STAT_TAG i) = leAt req 2 2 := by rw [hdev, Dev.finish_rd, Dev.mbBusy_tag]
    have hframe : Dev.Frame [0, 1] [.mbx, .evq] (u.dev.mbBusy i req) ((u.accept i).dev.mbDone i 8 0) :=
      (hdev ▸ (Dev.Frame.refl [0, 1] [.mbx, .evq] _).finish _ _ _ _ _).trans (Dev.mbDone_frame i 8 0 _ hi)
    have hcmds : (u.dev.mbBusy i req).rd (F.MB_CMDS i) = s.dev.rd (F.MB_CMDS i) := by
      have hne : (F.MB_CMDS i).reg ≠ R.MB_STAT i := by simp [F.MB_CMDS, R.MB_STAT]
      have hr : (u.dev.mbBusy i req).reg (F.MB_CMDS i).reg = s.dev.reg (F.MB_CMDS i).reg := (Dev.mbBusy_reg req _ _ hne).trans
        (ht6.within _ (by simp [F.MB_CMDS, blockOf_mbCmds hi]))
      rw [Dev.rd, Dev.rd, hr]
    rw [State.ring_not_ready (by rwa [hmb i hi]) (by rwa [hst]), hcomplete]
    refine ⟨?_, ?_, ?_, ?_, ?_, ?_, ?_, rfl⟩
    · exact (Dev.mbDone_rd hi 8 0 _ _ (blockOf_mbStat hi)).trans (Dev.mbMarked_state i _)
    · exact ((Dev.mbDone_rd hi 8 0 _ _ (blockOf_mbStat hi)).trans (Dev.mbMarked_tag i _)).trans htag
    · refine (Dev.mbDone_rd hi 8 0 _ _ (blockOf_mbCmds hi)).trans ((Dev.mbMarked_cmds i _).trans ?_)
      rw [hdev, Dev.finish_rd, hcmds]
    · simpa [htag] using hread
    · intro a ha
      refine (hout a (by simp; omega)).trans ((Memory.read_clear _ _ _ _).trans (if_neg (by omega)))
    · exact (ht6.within.mono (w := [21]) (by decide)).trans ((hb.within.mono (by decide)).trans (hframe.within.mono (by decide)))
    · exact hkeep.trans (hframe.keeps.mono (by decide))

end Sys2Proof.Proofs
end

section
-- One proof after another: in parallel the proofs of this text would not fit the memory that its check allows.
set_option Elab.async false
/-!
PROOFS. Accesses at T6 (00 R6 to R8, 11 R263 to R268, 12 R287 to R289): an error response, a granted read, refused writes. Then the
statements on the status word, on the holding registers and on register accesses.
-/
namespace Sys2Proof.Machine

/-! ### Error responses (12 R288) -/

theorem Dev.bmError_frame (s : Dev) (w : BmW) (code : Nat) : Dev.Frame [17] [.evq, .fc] s (s.bmError w code) := by
  unfold Dev.bmError
  extract_lets info s1 s2
  have h1 : Dev.Frame [17] [.evq, .fc] s s1 := by
    simp only [s1]
    split <;> exact ((Dev.Frame.refl _ _ s).count _ _).event _
  have h2 : Dev.Frame [17] [.evq, .fc] s s2 := h1.raise _ _ _ _ _
  clear_value s2
  split
  · exact h2.event _
  · exact ((h2.setReg _ _).wr2 _ _).wr2 _ _

theorem Dev.bpCount_frame (s : Dev) (js : List Nat) (e n : Nat) (h : ∀ j ∈ js, j < 8) : Dev.Frame [21] [] s (s.bpCount js e n) :=
  ⟨s.bpCount_within js e n h, .bpCount s js e n⟩

/-- The event bit of an error code (12 R288). -/
def bmEvt (code : Nat) : Fld :=
  match code with
  | 1 => F.BM_EVT_PRIV
  | 2 => F.BM_EVT_DECERR
  | 3 => F.BM_EVT_SLVERR
  | _ => F.BM_EVT_TOUT

/-- The counter of an error code. -/
def bmCnt (code : Nat) : Fld :=
  match code with
  | 1 => F.BM_PRIV_CNT
  | 2 => F.BM_DEC_CNT
  | 3 => F.BM_SLV_CNT
  | _ => F.BM_TOUT_CNT

/-- An error response counts, sets its event bit and raises its line; what it captures lies in other registers. -/
theorem Dev.bmError_eq (s : Dev) (w : BmW) (code : Nat) : ∃ (v : Nat) (src : BitVec 28) (i : Nat), let t := ((s.count (bmCnt code)).event (bmEvt code)).raise (0x1100 + code) v src i
    s.bmError w code = if t.on F.BM_ERR_INFO_VALID then t.event F.BM_EVT_ERR_LOST
      else ((t.setReg R.BM_ERR_INFO (BitVec.ofNat 32 i)).wr2 R.BM_ERR_ADDR_LO w.q.addr.toNat).wr2 R.BM_ERR_N_LO t.now := by
  refine ⟨if code < 3 then 0 else 1, srcWord 17, w.errInfo code ((w.q.beats.toNat + 15) % 16), ?_⟩
  unfold Dev.bmError bmCnt bmEvt
  rcases code with _ | _ | _ | _ | c <;> rfl

/-- The field is a bit or a counter of its own, that no capture of an error touches. -/
def bmApart (f : Fld) : Bool :=
  f.fits && F.BM_EVT_ERR_LOST.apart f && [R.BM_ERR_INFO, R.BM_ERR_ADDR_LO, R.BM_ERR_ADDR_LO + 4, R.BM_ERR_N_LO, R.BM_ERR_N_LO + 4].all (· != f.reg)

theorem bmApart_fits {f : Fld} (h : bmApart f = true) : f.fits = true := by
  simp only [bmApart, Bool.and_eq_true] at h
  exact h.1.1

theorem bmFields (code : Nat) : bmApart (bmEvt code) = true ∧ bmApart (bmCnt code) = true ∧ (bmEvt code).w = 1 ∧
    (bmCnt code).w = 32 ∧ (bmEvt code).apart (bmCnt code) = true := by
  match code with
  | 0 | 1 | 2 | 3 => decide
  | _ + 4 => exact (by decide : bmApart F.BM_EVT_TOUT = true ∧ bmApart F.BM_TOUT_CNT = true ∧ F.BM_EVT_TOUT.w = 1 ∧ F.BM_TOUT_CNT.w = 32 ∧
      F.BM_EVT_TOUT.apart F.BM_TOUT_CNT = true)

/-- A field that no capture touches reads after an error response as after its count, event and line. -/
theorem Dev.bmError_rd {f : Fld} (hf : bmApart f = true) (s : Dev) (w : BmW) (code : Nat) :
    (s.bmError w code).rd f = ((s.count (bmCnt code)).event (bmEvt code)).rd f := by
  obtain ⟨v, src, i, h⟩ := s.bmError_eq w code
  simp only [bmApart, List.all_cons, List.all_nil, Bool.and_eq_true, bne_iff_ne, and_true] at hf
  obtain ⟨⟨hfit, hap⟩, h0, h1, h2, h3, h4⟩ := hf
  rw [h, ← Dev.raise_rd ((s.count (bmCnt code)).event (bmEvt code)) (0x1100 + code) v src i true f]
  split
  · exact Dev.rd_event_apart _ _ _ (by decide) hap
  · rw [Dev.rd, Dev.reg_wr2_ne _ h3 h4, Dev.reg_wr2_ne _ h1 h2, Dev.reg_setReg_ne _ h0]
    rfl

theorem Dev.bmError_evt (s : Dev) (w : BmW) (code : Nat) : (s.bmError w code).on (bmEvt code) = true := by
  obtain ⟨he, hc, hw, -, -⟩ := bmFields code
  rw [Dev.on, Dev.bmError_rd he]
  exact Dev.on_event_self _ _ (bmApart_fits he) hw

theorem Dev.bmError_cnt (s : Dev) (w : BmW) (code : Nat) :
    (s.bmError w code).rd (bmCnt code) = min (s.rd (bmCnt code) + 1) 0xFFFFFFFF := by
  obtain ⟨he, hc, -, hw, hap⟩ := bmFields code
  rw [Dev.bmError_rd hc, Dev.rd_event_apart _ _ _ (bmApart_fits he) hap, Dev.rd_count_self _ _ _ (bmApart_fits hc) hw]
  rfl

/-! ### What the master of a register access does with an error (Table 12.5) -/

/-- An answer of the matrix sends its code and data, to a write of the debug tool its code. -/
theorem Dev.bmAnswer_eq (s : Dev) (w : BmW) (code : Nat) (data : List Byte) :
    s.bmAnswer w code data = s ∨ ∃ l, s.bmAnswer w code data = s.send (.busAnswer w.q.mid.toNat code l) := by
  unfold Dev.bmAnswer
  split
  · split
    · exact .inr ⟨_, rfl⟩
    · exact .inl rfl
  · exact .inr ⟨_, rfl⟩

theorem Dev.bmAnswer_frame (s : Dev) (w : BmW) (code : Nat) (data : List Byte) : Dev.Frame [] [] s (s.bmAnswer w code data) := by
  rcases s.bmAnswer_eq w code data with h | ⟨l, h⟩ <;> rw [h]
  · exact .refl _ _ s
  · exact (Dev.Frame.refl _ _ s).send _

/-- The master's number of an aperture, as the matrix takes it (Table 12.2). -/
def viaM : Via → Nat
  | .steward => 0
  | .debug => 5
  | _ => 1

theorem Dev.viaW_m (s : Dev) (via : Via) (off : Nat) (wr : Bool) : (s.viaW via off wr).m = viaM via := by
  cases via <;> rfl

/-- The host and the debug tool take an error without a change of the block but for the abort of a read that failed with code 3 or 4. -/
theorem Dev.masterFails_via {via : Via} (hv : via ≠ .steward) (s d : Dev) (off : Nat) (wr : Bool) (code : Nat) :
    d.masterFails (s.viaW via off wr) code = if viaM via = 1 ∧ wr = false ∧ 3 ≤ code
      then { d.send .pcieAbort with hif := { d.hif with aerAbort := d.hif.aerAbort + 1 } } else d := by
  cases via <;> first | exact absurd rfl hv | (cases wr <;> simp [Dev.masterFails, Dev.viaW_m, viaM] <;> simp [Dev.viaW, viaReq])

/-- Whatever its master does with an error, registers stay, and no word of a register goes out. -/
theorem Dev.masterFails_quiet (via : Via) (s d : Dev) (off : Nat) (wr : Bool) (code : Nat) :
    (d.masterFails (s.viaW via off wr) code).regs = d.regs ∧ ∀ a v, .readData a v ∈ (d.masterFails (s.viaW via off wr) code).tx → .readData a v ∈ d.tx := by
  by_cases hv : via = .steward
  · subst hv
    show (d.m0Fails code).regs = d.regs ∧ ∀ a v, .readData a v ∈ (d.m0Fails code).tx → .readData a v ∈ d.tx
    unfold Dev.m0Fails
    dsimp only
    split
    · rw [Dev.finish_regs, Dev.finish_tx]
      exact ⟨rfl, fun _ _ h => h⟩
    · exact ⟨rfl, fun _ _ h => h⟩
  · rw [Dev.masterFails_via hv]
    split
    · exact ⟨rfl, fun a v h => by simpa [Dev.send] using h⟩
    · exact ⟨rfl, fun _ _ h => h⟩

/-- An access that ends with an error code: T6's answer to it, and what its master does. -/
def Dev.accessError (via : Via) (off : Nat) (wr : Bool) (code : Nat) (s : Dev) : Dev := s.bmHandle (s.viaW via off wr) code

theorem Dev.accessError_eq (via : Via) (off : Nat) (wr : Bool) (code : Nat) (s : Dev) : s.accessError via off wr code =
    ((((s.bmError (s.viaW via off wr) code).bpCount (s.viaW via off wr).grantedFor 6 1).bmAnswer (s.viaW via off wr) code []).masterFails
      (s.viaW via off wr) code) := rfl

/-- Up to its answer, an error touches BM and PC alone. -/
theorem Dev.errorAnswered_frame (via : Via) (off : Nat) (wr : Bool) (code : Nat) (s : Dev) : Dev.Frame [17, 21] [.evq, .fc] s
    (((s.bmError (s.viaW via off wr) code).bpCount (s.viaW via off wr).grantedFor 6 1).bmAnswer (s.viaW via off wr) code []) :=
  (((s.bmError_frame _ code).mono).then (Dev.bpCount_frame _ _ 6 1 (s.viaW_lt via off wr))).then (Dev.bmAnswer_frame _ _ _ _)

theorem Dev.accessError_within (via : Via) (off : Nat) (wr : Bool) (code : Nat) (s : Dev) :
    Dev.Within [17, 21] s (s.accessError via off wr code) := by
  rw [Dev.accessError_eq]
  exact (s.errorAnswered_frame via off wr code).within.trans (.of_regs (Dev.masterFails_quiet via s _ off wr code).1)

/-- To the host and the debug tool an error's frame is that of its line, and of HIF for the abort of a read. -/
theorem Dev.accessError_frame {via : Via} (hv : via ≠ .steward) (off : Nat) (wr : Bool) (code : Nat) (s : Dev) :
    Dev.Frame [17, 21] [.evq, .fc, .hif] s (s.accessError via off wr code) := by
  have h := (s.errorAnswered_frame via off wr code).mono (w' := [17, 21]) (l' := [.evq, .fc, .hif])
  rw [Dev.accessError_eq, Dev.masterFails_via hv]
  split
  · exact (h.send _).hif _
  · exact h

theorem Dev.privError_frame {via : Via} (hv : via ≠ .steward) (off : Nat) (wr : Bool) (s : Dev) :
    Dev.Frame [17, 21] [.evq, .fc] s (s.privError via off wr) := by
  have h := s.errorAnswered_frame via off wr 1
  show Dev.Frame [17, 21] [.evq, .fc] s (s.accessError via off wr 1)
  rw [Dev.accessError_eq, Dev.masterFails_via hv, if_neg (by omega)]
  exact h

theorem Dev.accessError_rd (via : Via) (off : Nat) (wr : Bool) (code : Nat) (s : Dev) (f : Fld) (hf : blockOf f.reg ≠ 21) :
    (s.accessError via off wr code).rd f = (s.bmError (s.viaW via off wr) code).rd f := by
  rw [Dev.accessError_eq, (Dev.RegsAs.of_regs (Dev.masterFails_quiet via s _ off wr code).1).rd,
    (Dev.bmAnswer_frame _ _ code []).rd f (by simp), (Dev.bpCount_frame _ _ 6 1 (s.viaW_lt via off wr)).rd f (by simpa using hf)]

theorem Dev.accessError_evt (via : Via) (off : Nat) (wr : Bool) (code : Nat) (s : Dev) :
    (s.accessError via off wr code).on (bmEvt code) = true := by
  have hb : blockOf (bmEvt code).reg ≠ 21 := by unfold bmEvt; split <;> decide
  rw [Dev.on, Dev.accessError_rd _ _ _ _ _ _ hb]
  exact s.bmError_evt _ code

theorem Dev.accessError_cnt (via : Via) (off : Nat) (wr : Bool) (code : Nat) (s : Dev) :
    (s.accessError via off wr code).rd (bmCnt code) = min (s.rd (bmCnt code) + 1) 0xFFFFFFFF := by
  have hb : blockOf (bmCnt code).reg ≠ 21 := by unfold bmCnt; split <;> decide
  rw [Dev.accessError_rd _ _ _ _ _ _ hb, Dev.bmError_cnt]

/-- No word of a register goes out with an error. -/
theorem Dev.accessError_tx (via : Via) (off : Nat) (wr : Bool) (code : Nat) {s : Dev} (h : s.tx = []) (a : Nat) (v : Word) :
    .readData a v ∉ (s.accessError via off wr code).tx := by
  intro hmem
  rw [Dev.accessError_eq] at hmem
  have h1 := (Dev.masterFails_quiet via s _ off wr code).2 a v hmem
  have h2 : ((s.bmError (s.viaW via off wr) code).bpCount (s.viaW via off wr).grantedFor 6 1).tx = [] := by
    unfold Dev.bpCount
    rw [Dev.each_eq Dev.tx _ _ _ (fun d j => by split <;> rfl)]
    obtain ⟨v, src, i, heq⟩ := s.bmError_eq (s.viaW via off wr) code
    rw [heq]
    split <;> simp [Dev.wr2, h]
  rcases Dev.bmAnswer_eq ((s.bmError (s.viaW via off wr) code).bpCount (s.viaW via off wr).grantedFor 6 1) (s.viaW via off wr) code []
    with ha | ⟨l, ha⟩ <;> rw [ha] at h1
  · simp [h2] at h1
  · simp [Dev.send, h2] at h1

/-! ### Granted reads -/

theorem Dev.viaShut_eq_false {s : Dev} {via : Via} {off : Nat} {wr : Bool} (h : s.viaShut via off wr = false) :
    s.viaOut via = false ∧ s.t6Stalled = false ∧ s.t6Wins via off wr = true := by
  unfold Dev.viaShut at h
  simpa [and_assoc] using h

/-- A granted read acts on the block that has counted it, and the word goes out. -/
theorem State.readBy_granted {s : State} {via : Via} {off : Nat} (h : s.dev.viaShut via off false = false) (hp : readRefused via off = false)
    (f : State → Word × State) :
    s.fresh.readBy via off f = (f (s.fresh.mapDev (fun d => (d.settleFor off).t6 via off false))).2.mapDev
      (·.send (.readData off (f (s.fresh.mapDev (fun d => (d.settleFor off).t6 via off false))).1)) := by
  obtain ⟨h1, h2, h3⟩ := Dev.viaShut_eq_false (s := s.fresh.dev) h
  simp only [State.readBy, h1, h2, h3, hp, Bool.not_true, Bool.false_eq_true, if_false]

theorem State.readBy_refused {s : State} {via : Via} {off : Nat} (h : s.dev.viaShut via off false = false) (hp : readRefused via off = true)
    (f : State → Word × State) : s.fresh.readBy via off f = s.fresh.mapDev (fun d => (d.t6 via off false).privError via off false) := by
  obtain ⟨h1, h2, h3⟩ := Dev.viaShut_eq_false (s := s.fresh.dev) h
  simp only [State.readBy, h1, h2, h3, hp, Bool.not_true, Bool.false_eq_true, if_false, if_true]

theorem Dev.settleFor_of_not_pc {off : Nat} (h : pcWindow off = false) (s : Dev) : s.settleFor off = s := by
  simp [Dev.settleFor, h]

/-- The block that has counted a granted access sends nothing yet. -/
theorem Dev.t6_tx (s : State) (via : Via) (off : Nat) (wr : Bool) : (s.fresh.dev.t6 via off wr).tx = [] := by
  rw [State.fresh_dev, Dev.Silent.t6]
  rfl

/-! ### What waits at T6 counts its wait before an access of PC (12 R290, log 97) -/

theorem Dev.Keeps.bmAge (s : Dev) (t n : Nat) : Dev.Keeps [.bm, .freeCtr] s (s.bmAge t n) := by
  unfold Dev.bmAge
  extract_lets l aged d
  have h : Dev.Keeps [.bm, .freeCtr] s d := .each _ _ _ fun d wi _ => (Dev.Keeps.bpCount d wi.1.raisedFor 5 _).mono (by simp)
  clear_value d
  exact h.trans fun p hp => by cases p <;> first | exact absurd (by decide) hp | rfl

theorem Dev.Keeps.bmSettleAt (s : Dev) (t : Nat) : Dev.Keeps [.bm, .freeCtr] s (s.bmSettleAt t) := by
  unfold Dev.bmSettleAt
  split
  · extract_lets n u
    have hfree : Dev.Keeps [.bm, .freeCtr] s s.useFree := fun p hp => by cases p <;> first | exact absurd (by decide) hp | rfl
    have h : Dev.Keeps [.bm, .freeCtr] s u := hfree.trans (.bmAge s.useFree t n)
    clear_value u
    exact h.trans fun p hp => by cases p <;> first | exact absurd (by decide) hp | rfl
  · exact .refl _ s

theorem Dev.Keeps.settleFor (off : Nat) (s : Dev) : Dev.Keeps [.bm, .freeCtr] s (s.settleFor off) :=
  .when _ _ s (.each _ _ s fun d t _ => .bmSettleAt d t)

/-- The block that a read acts on, its wait counted and its grant taken. -/
theorem Dev.Keeps.granted (via : Via) (off : Nat) (wr : Bool) (s : Dev) :
    Dev.Keeps [.bm, .freeCtr] s ((s.settleFor off).t6 via off wr) :=
  (Dev.Keeps.settleFor off s).trans ((Dev.t6_frame via off wr _).mono (w' := [21])).keeps

theorem Dev.Silent.granted (via : Via) (off : Nat) (wr : Bool) : Dev.Silent (fun d => (d.settleFor off).t6 via off wr) :=
  .comp (.t6 via off wr) (.settleFor off)

theorem State.fresh_granted (s : State) (via : Via) (off : Nat) (wr : Bool) :
    (s.fresh.dev.settleFor off).t6 via off wr = ((s.dev.settleFor off).t6 via off wr).setTx [] := Dev.Silent.granted via off wr s.dev []

/-! ### The status word (R268) -/

theorem State.statusRead_operator {mb : Nat} (h : 4 ≤ mb) (s : State) : s.statusRead .operator mb = (0, s) := by
  simp [State.statusRead, h]

theorem State.statusRead_busy {s : State} {via : Via} {mb : Nat} (hv : ¬(via = .operator ∧ 4 ≤ mb)) (h : s.dev.rd (F.MB_STAT_STATE mb) = 1) :
    s.statusRead via mb = (BitVec.ofNat 32 (s.dev.rd (F.MB_STAT_TAG mb) * 65536 + 1), s) := by
  simp only [State.statusRead, hv, h, if_false]

theorem State.statusRead_idle {s : State} {via : Via} {mb : Nat} (hv : ¬(via = .operator ∧ 4 ≤ mb)) (h : s.dev.rd (F.MB_STAT_STATE mb) = 0) :
    s.statusRead via mb = (BitVec.ofNat 32 (s.dev.rd (F.MB_STAT_TAG mb) * 65536 + 9), s) := by
  simp only [State.statusRead, hv, h, if_false]

/-- The count of reads that a completed mailbox's response area holds. -/
def rcount (m : List Host.Cell) (a : Nat) : Nat := leNat (Memory.readBytes m (a + 6) 2)

/-- Memory after a read of a completed status word: REPEAT and RCOUNT. -/
def countRead (m : List Host.Cell) (a : Nat) : List Host.Cell :=
  Memory.writeBytes (Memory.writeBytes m (a + 1) [if 1 < min (rcount m a + 1) 0xFFFF then 1 else 0]) (a + 6)
    (toLe 2 (min (rcount m a + 1) 0xFFFF))

theorem State.statusRead_done {s : State} {via : Via} {mb : Nat} (hv : ¬(via = .operator ∧ 4 ≤ mb)) (h : s.dev.rd (F.MB_STAT_STATE mb) = 2) :
    s.statusRead via mb = (BitVec.ofNat 32 (leNat (Memory.readBytes (countRead s.mem (respArea mb)) (respArea mb) 4)),
      { s with mem := countRead s.mem (respArea mb) }) := by
  simp only [State.statusRead, hv, h, if_false]
  rfl

theorem countRead_rcount (m : List Host.Cell) (a : Nat) :
    Memory.readBytes (countRead m a) (a + 6) 2 = toLe 2 (min (rcount m a + 1) 0xFFFF) :=
  Memory.readBytes_writeBytes (toLe 2 _) _ _

theorem countRead_repeat (m : List Host.Cell) (a : Nat) :
    Memory.read (countRead m a) (a + 1) = if rcount m a = 0 then 0 else 1 := by
  rw [countRead, Memory.read_writeBytes_out (by omega), Memory.writeBytes, Memory.writeBytes, Memory.read_write_self]
  by_cases h : rcount m a = 0
  · simp [h]
  · rw [if_pos (by omega), if_neg h]

theorem countRead_other {m : List Host.Cell} {a b : Nat} (h1 : b ≠ a + 1) (h6 : b ≠ a + 6) (h7 : b ≠ a + 7) :
    Memory.read (countRead m a) b = Memory.read m b := by
  rw [countRead, Memory.read_writeBytes_out (by rw [toLe_length]; omega), Memory.read_writeBytes_out (by rw [List.length_singleton]; omega)]

/-- The areas of mailboxes 4 to 7 answer the debug port PRIV (12 R287). -/
theorem readRefused_respArea {i : Nat} (h : i < 8) (via : Via) : readRefused via (respArea i) = (via == .debug && decide (4 ≤ i)) := by
  have h1 : decide (0x208000 ≤ respArea i) = decide (4 ≤ i) := by rw [decide_eq_decide]; unfold respArea; omega
  have h2 : decide (respArea i < 0x210000) = true := by rw [decide_eq_true_eq]; unfold respArea; omega
  rw [readRefused, h1, h2, Bool.and_true]

theorem pcWindow_respArea (i : Nat) : pcWindow (respArea i) = false := by
  have h : ¬ respArea i < 0x160000 := by unfold respArea; omega
  simp [pcWindow, h]

end Sys2Proof.Machine

namespace Sys2Proof.Proofs
open Sys2Proof.Machine

/-- Settles O3: a granted read of the status word is `State.statusRead` on the block that has counted the access. -/
theorem statusWord : Obligations.StatusWord := by
  unfold Obligations.StatusWord
  intro s via mb hrun hs i a d sent
  have hi : i < 8 := mb_lt mb
  have hrd (f : Fld) (hf : blockOf f.reg = 1) : d.rd f = s.dev.rd f := Dev.t6_rd s via a false f (by simp [hf])
  have hfar : readRefused via a = (via == .debug && decide (4 ≤ i)) := readRefused_respArea hi via
  have hread {w : Word} {u : State} (hp : readRefused via a = false) (hw : State.statusRead via i { s with dev := d } = (w, u)) :
      exec (.statusWordRead via mb) s = .next (u.mapDev (·.send (.readData a w))) := by
    have hgrant := State.readBy_granted hs hp (State.statusRead via i)
    rw [funext fun d : Dev => congrArg (Dev.t6 via a false) (d.settleFor_of_not_pc (pcWindow_respArea i)),
      show s.fresh.mapDev (Dev.t6 via a false) = { s with dev := d } from rfl, hw] at hgrant
    exact (State.onAll_next s _ hrun).trans (congrArg _ hgrant)
  have htx : d.tx = [] := Dev.t6_tx s via a false
  have hsent (w : Nat) : ({ s with dev := d } : State).mapDev (·.send (.readData a (BitVec.ofNat 32 w))) = sent w := by
    simp only [State.mapDev, Dev.send, htx, List.nil_append, sent]
  refine ⟨?_, ?_, ?_⟩
  · rintro rfl h4
    rw [hread (by simp [hfar]) (State.statusRead_operator h4 _)]
    exact congrArg _ (hsent 0)
  · rintro rfl h4
    have hp : readRefused .debug a = true := by simp [hfar, h4]
    refine ⟨_, (State.onAll_next s _ hrun).trans (congrArg _ (State.readBy_refused hs hp _)), ?_, ?_, ?_⟩
    · exact Dev.accessError_evt .debug a false 1 _
    · exact fun w => Dev.accessError_tx .debug a false 1 htx a w
    · exact Dev.Frame.only (((Dev.t6_frame .debug a false s.fresh.dev).mono).then (Dev.privError_frame (by decide) a false _))
  · intro hv
    have hp : readRefused via a = false := by
      rw [hfar]
      rcases hv with ⟨-, hd⟩ | h4
      · simp [hd]
      · simp [show ¬ 4 ≤ i by omega]
    have hop : ¬(via = .operator ∧ 4 ≤ i) := by
      rintro ⟨hop, h4⟩
      rcases hv with ⟨h, -⟩ | h
      · exact h hop
      · omega
    have htag := hrd (F.MB_STAT_TAG i) (blockOf_mbStat hi)
    have hstate := hrd (F.MB_STAT_STATE i) (blockOf_mbStat hi)
    refine ⟨fun hb => ?_, fun hb => ?_, fun hb => ?_⟩
    · rw [hread hp (State.statusRead_busy hop (hstate.trans hb)), hsent, htag, Nat.mul_comm]
    · rw [hread hp (State.statusRead_idle hop (hstate.trans hb)), hsent, htag, Nat.mul_comm]
    · refine ⟨_, hread hp (State.statusRead_done hop (hstate.trans hb)), countRead_rcount _ _, countRead_repeat _ _,
        fun b h1 h6 h7 => countRead_other h1 h6 h7, ?_, .of_regs rfl, ?_, rfl⟩
      · simp only [State.mapDev, Dev.send, htx, List.nil_append]
        rfl
      · exact .send _ _

end Sys2Proof.Proofs

namespace Sys2Proof.Machine

/-! ### Reads of registers (00 R6 to R8) -/

/-- The offset is neither in the mailbox areas nor in the MSI-X table or PBA. -/
def plainOff (o : Nat) : Prop := inAreas o = false ∧ ¬(0x1000 ≤ o ∧ o < 0x1808)

theorem readRefused_of_plain {o : Nat} (h : inAreas o = false) (via : Via) : readRefused via o = false := by
  simp only [inAreas, Bool.and_eq_false_iff, decide_eq_false_iff_not] at h
  simp only [readRefused, Bool.and_eq_false_iff, decide_eq_false_iff_not, beq_eq_false_iff_ne]
  omega

theorem regAt_lt {o : Nat} {r : RegSpec} (h : regAt o = some r) : o < 0x160000 := by
  by_contra hlt
  have hw : windowRegs o = [] := by
    unfold windowRegs
    split <;> first | omega | rfl
  simp [regAt, hw] at h

/-- A word's reading depends on no message. -/
theorem Dev.readNow_setTx (s : Dev) (l : List Tx) (o : Nat) : (s.setTx l).readNow o = s.readNow o := rfl

theorem Dev.readReg_none {o : Nat} (h : regAt o = none) (s : Dev) : s.readReg o = (0, s) := by
  simp [Dev.readReg, h]

theorem Dev.readReg_rc {o : Nat} {r : RegSpec} (h : regAt o = some r) (hr : r.isRc = true) (s : Dev) : s.readReg o = s.rcTake o := by
  simp [Dev.readReg, h, hr]

theorem Dev.readReg_low {o : Nat} {r : RegSpec} (h : regAt o = some r) (hr : r.isRc = false) (hl : isLow o = true) (s : Dev) :
    s.readReg o = (s.readNow o, { s with hold := s.hold.put 0 o (s.readNow (o + 4)) }) := by
  simp [Dev.readReg, h, hr, hl]

theorem Dev.readReg_high {o : Nat} {r : RegSpec} (h : regAt (o + 4) = some r) (hr : r.isRc = false) (hl : isLow o = true)
    (hh : isLow (o + 4) = false) (s : Dev) : s.readReg (o + 4) = ((s.hold.look o).getD 0, s) := by
  simp [Dev.readReg, h, hr, hl, hh]

/-- A granted read of a register. -/
theorem State.readAt_granted {s : State} {via : Via} {o : Nat} (h : s.dev.viaShut via o false = false)
    (ha : inAreas o = false) (hm : ¬(0x1000 ≤ o ∧ o < 0x1808)) :
    State.readBy via o (State.read via o) s.fresh = { s with dev := ((((s.fresh.dev.settleFor o).t6 via o false).readReg o).2.send
      (.readData o (((s.fresh.dev.settleFor o).t6 via o false).readReg o).1)) } := by
  rw [State.readBy_granted h (readRefused_of_plain ha via)]
  simp only [State.read, ha, hm, Bool.false_eq_true, if_false]
  rfl

end Sys2Proof.Machine

namespace Sys2Proof.Proofs
open Sys2Proof.Machine

/-- Settles O8: a granted read of a low word copies the high word into its holding register, which a later read of the high word
returns. -/
theorem holdingRegisters : Obligations.HoldingRegisters := by
  unfold Obligations.HoldingRegisters
  intro s via off r r' hrun o d hs hr hr' hrc hrc' hlow hhigh ha hm
  have hd : (s.fresh.dev.settleFor o).t6 via o false = d.setTx [] := s.fresh_granted via o false
  have hhold : d.hold = s.dev.hold := Dev.Keeps.granted via o false s.dev .hold (by decide)
  let t : Dev := { d.setTx [.readData o (d.readNow o)] with hold := s.dev.hold.put 0 o (d.readNow (o + 4)) }
  have ht : exec (.lowWordRead via off) s = .next { s with dev := t } := by
    refine (State.onAll_next s _ hrun).trans (congrArg _ ?_)
    rw [State.readAt, State.readAt_granted hs ha hm, Dev.readReg_low hr hrc hlow, hd, Dev.readNow_setTx, Dev.readNow_setTx]
    simp only [Dev.setTx, hhold, t]
    rfl
  have hcopy : (t.hold.look o).getD 0 = d.readNow (o + 4) := (Tbl.look_put 0 s.dev.hold o o _).trans (if_pos rfl)
  refine ⟨_, ht, rfl, hcopy, fun k hk => Tbl.look_put_ne _ _ (Ne.symm hk) _, ?_, ?_⟩
  · exact .of (.of_regs rfl) ((Dev.Keeps.setTx _ _ d).trans ((Dev.Frame.refl [] [.hold] _).hold _).keeps)
  · intro u via' off' hrunu hoff hsu hlook
    have hlt := regAt_lt hr'
    have ha' : inAreas (o + 4) = false := by simp [inAreas]; omega
    have hm' : ¬(0x1000 ≤ o + 4 ∧ o + 4 < 0x1808) := by
      rintro ⟨h1, h2⟩
      have ho : o = 0xFFC := by omega
      simp [ho, isLow, pairsLo] at hlow
    let e : Dev := (u.dev.settleFor (o + 4)).t6 via' (o + 4) false
    have he : (u.fresh.dev.settleFor (o + 4)).t6 via' (o + 4) false = e.setTx [] := u.fresh_granted via' (o + 4) false
    have hehold : e.hold = u.dev.hold := Dev.Keeps.granted via' (o + 4) false u.dev .hold (by decide)
    have hword : ((e.setTx []).hold.look o).getD 0 = d.readNow (o + 4) := by
      rw [← hcopy, ← hlook]
      exact congrArg (fun x : Tbl Word => (x.look o).getD 0) hehold
    have hw : exec (.lowWordRead via' off') u = .next { u with dev := e.setTx [.readData (o + 4) (d.readNow (o + 4))] } := by
      refine (State.onAll_next u _ hrunu).trans (congrArg _ ?_)
      rw [State.readAt, hoff, State.readAt_granted hsu ha' hm', he, Dev.readReg_high hr' hrc' hlow hhigh, hword]
      rfl
    exact ⟨_, hw, rfl, .of (.of_regs rfl) (.setTx _ _ e)⟩

end Sys2Proof.Proofs
end

section
-- One proof after another: in parallel the proofs of this text would not fit the memory that its check allows.
set_option Elab.async false
/-!
PROOFS. Register accesses (00 R6, R7, 11 R263, R265, 12 R287, R289): writes that are refused, reserved offsets, granted writes; then the
statement on register accesses.
-/
namespace Sys2Proof.Machine

/-! ### Writes that reach no register -/

theorem Dev.writeAs_out {via : Via} {s : Dev} (h : s.viaOut via = true) (off need : Nat) (f : Dev → Dev) :
    s.writeAs via off need f = s := by
  simp [Dev.writeAs, h]

theorem Dev.writeAs_shut {via : Via} {off : Nat} {s : Dev} (h : s.viaOut via = false) (hv : s.svcShut via off = true) (need : Nat) (f : Dev → Dev) :
    s.writeAs via off need f = s.svcRefused off := by
  simp [Dev.writeAs, h, hv]

theorem Dev.writeAs_stalled {via : Via} {off : Nat} {s : Dev} (h : s.viaOut via = false) (hv : s.svcShut via off = false)
    (ht : s.t6Stalled = true) (need : Nat) (f : Dev → Dev) : s.writeAs via off need f = s.accessError via off true 4 := by
  simp [Dev.writeAs, h, hv, ht, Dev.stallError, Dev.accessError]

theorem Dev.writeAs_waits {via : Via} {off : Nat} {s : Dev} (h : s.viaOut via = false) (hv : s.svcShut via off = false)
    (ht : s.t6Stalled = false) (hd : via = .debug → pcWindow off = true) (hw : s.t6Wins via off true = false) (need : Nat) (f : Dev → Dev) :
    s.writeAs via off need f = s := by
  have hd' : ¬(via = .debug ∧ (!pcWindow off) = true) := fun ⟨h1, h2⟩ => by simp [hd h1] at h2
  simp only [Dev.writeAs, h, hv, ht, hw, hd', Bool.not_false, Bool.false_eq_true, if_true, if_false]

/-- A write of too little privilege earns PRIV: T6 gives it, or to the debug port outside its window the matrix. -/
theorem Dev.writeAs_priv {via : Via} {off need : Nat} {s : Dev} (h : s.viaShut via off true = false) (hv : s.svcShut via off = false)
    (hp : need < viaPl via ∨ (via = .debug ∧ pcWindow off = false)) (f : Dev → Dev) :
    s.writeAs via off need f = s.accessError via off true 1 ∨ s.writeAs via off need f = (s.t6 via off true).accessError via off true 1 := by
  obtain ⟨h1, h2, h3⟩ := Dev.viaShut_eq_false h
  by_cases hd : via = .debug ∧ pcWindow off = false
  · obtain ⟨rfl, hpc⟩ := hd
    exact .inl (by simp [Dev.writeAs, h1, hv, h2, hpc, Dev.privError, Dev.accessError])
  · have hn : need < viaPl via := hp.resolve_right hd
    have hd' : ¬(via = .debug ∧ (!pcWindow off) = true) := by simpa using hd
    right
    simp only [Dev.writeAs, h1, hv, h2, h3, hn, hd', Bool.not_true, Bool.false_eq_true, if_true, if_false]
    rfl

/-! ### A write of any offset of an aperture -/

/-- The block that a write finds: a snapshot of the time base has taken its free values. -/
def Dev.atWrite (o : Nat) (s : Dev) : Dev := if o = R.TB_SNAP_CTL then s.useFree else s

/-- What decides on a write is the same there. -/
theorem Dev.atWrite_same (o : Nat) (s : Dev) (via : Via) (off : Nat) (wr : Bool) : (s.atWrite o).viaOut via = s.viaOut via ∧
    (s.atWrite o).svcShut via off = s.svcShut via off ∧ (s.atWrite o).t6Stalled = s.t6Stalled ∧
    (s.atWrite o).viaShut via off wr = s.viaShut via off wr := by
  unfold Dev.atWrite
  split <;> exact ⟨rfl, rfl, rfl, rfl⟩

theorem Dev.atWrite_frame (o : Nat) (s : Dev) : Dev.Frame [] [.freeCtr] s (s.atWrite o) := by
  unfold Dev.atWrite
  split
  · exact (Dev.Frame.refl _ _ s).freeCtr _
  · exact .refl _ _ s

/-- Of a doorbell's offset, its mailbox. -/
def isBell (o : Nat) : Prop := o = R.MB_DB ((o - 0x10000) / 16) ∧ o < 0x10080

/-- The privilege that the write of an offset needs as T6 takes it. -/
def writeNeed (o : Nat) : Nat := if 0x1000 ≤ o ∧ o < 0x1808 then 3 else t6Need o

theorem State.write_area {o : Nat} (h : inAreas o = true) (via : Via) (v : Word) (s : State) : s.write via o v = s.areaWrite via o v := by
  simp [State.write, h]

theorem State.write_bell {o : Nat} (ha : inAreas o = false) (h : isBell o) (via : Via) (v : Word) (s : State) :
    s.write via o v = s.doorbell via ((o - 0x10000) / 16) := by
  have hc : o ≠ R.HIF_ST_CTL := by
    obtain ⟨h1, -⟩ := h
    simp only [R.MB_DB, R.HIF_ST_CTL] at *
    omega
  unfold isBell at h
  simp only [State.write, ha, hc, Bool.false_eq_true, if_false, if_pos h]

theorem State.write_stCtl (via : Via) (v : Word) (s : State) : s.write via R.HIF_ST_CTL v = s.stCtl via v := rfl

theorem State.write_reg {o : Nat} (ha : inAreas o = false) (hc : o ≠ R.HIF_ST_CTL) (hb : ¬isBell o) (via : Via) (v : Word) (s : State) :
    s.write via o v = s.mapDev (Dev.regWrite via o v.toNat) := by
  unfold isBell at hb
  simp only [State.write, ha, hc, Bool.false_eq_true, if_false, if_neg hb]

theorem writeNeed_area {o : Nat} (h : inAreas o = true) : writeNeed o = mbPl (areaMb o) := by
  have hm : ¬(0x1000 ≤ o ∧ o < 0x1808) := by
    simp [inAreas] at h
    omega
  simp [writeNeed, t6Need, hm, h]

theorem writeNeed_bell {o : Nat} (ha : inAreas o = false) (h : isBell o) : writeNeed o = mbPl ((o - 0x10000) / 16) := by
  have hm : ¬(0x1000 ≤ o ∧ o < 0x1808) := by
    obtain ⟨h1, -⟩ := h
    simp only [R.MB_DB] at h1
    omega
  unfold isBell at h
  simp only [writeNeed, t6Need, hm, ha, Bool.false_eq_true, if_false, if_pos h]

theorem writeNeed_stCtl : writeNeed R.HIF_ST_CTL = 1 := rfl

theorem writeNeed_reg {o : Nat} (ha : inAreas o = false) (hc : o ≠ R.HIF_ST_CTL) (hb : ¬isBell o) (hm : ¬(0x1000 ≤ o ∧ o < 0x1808)) :
    writeNeed o = ((regAt o).map (·.wpl)).getD 3 := by
  unfold isBell at hb
  simp only [writeNeed, t6Need, hm, ha, hc, Bool.false_eq_true, if_false, if_neg hb]

/-- A register's write is one with the privilege that it needs. -/
theorem Dev.regWrite_eq {o : Nat} (ha : inAreas o = false) (hc : o ≠ R.HIF_ST_CTL) (hb : ¬isBell o) (via : Via) (v : Nat) (s : Dev) :
    ∃ f, s.regWrite via o v = (s.atWrite o).writeAs via o (writeNeed o) f := by
  by_cases hm : 0x1000 ≤ o ∧ o < 0x1808
  · have hs : o ≠ R.TB_SNAP_CTL := by
      simp only [R.TB_SNAP_CTL]
      omega
    exact ⟨_, by simp only [Dev.regWrite, Dev.regWriteAt, Dev.atWrite, writeNeed, hs, if_false, if_pos hm]; rfl⟩
  · by_cases hs : o = R.TB_SNAP_CTL
    · subst hs
      exact ⟨_, rfl⟩
    · exact ⟨_, by simp only [Dev.regWrite, Dev.regWriteAt, Dev.atWrite, writeNeed_reg ha hc hb hm, hs, if_false, if_neg hm]; rfl⟩

/-- A write that its aperture, T6 or, outside the areas, its privilege keeps out does what a refused register write does. -/
theorem State.write_refused {s : State} {via : Via} {o : Nat} (h : s.dev.viaShut via o true = true ∨ s.dev.svcShut via o = true ∨
    (inAreas o = false ∧ (writeNeed o < viaPl via ∨ (via = .debug ∧ pcWindow o = false)))) (v : Word) :
    ∃ f, s.write via o v = s.mapDev (fun d => (d.atWrite o).writeAs via o (writeNeed o) f) := by
  cases ha : inAreas o with
  | true =>
    have hs : o ≠ R.TB_SNAP_CTL := by rintro rfl; cases ha
    have hshut : s.dev.viaShut via o true ∨ s.dev.svcShut via o ∨ via = .debug := by
      rcases h with h | h | ⟨h, -⟩
      · exact .inl h
      · exact .inr (.inl h)
      · simp [ha] at h
    exact ⟨id, by simp only [State.write_area ha, State.areaWrite, if_pos hshut, writeNeed_area ha, Dev.atWrite, hs, if_false]⟩
  | false =>
    by_cases hc : o = R.HIF_ST_CTL
    · subst hc
      have hshut : s.dev.viaShut via R.HIF_ST_CTL true ∨ s.dev.svcShut via R.HIF_ST_CTL ∨ 1 < viaPl via := by
        rcases h with h | h | ⟨-, h | ⟨rfl, -⟩⟩
        · exact .inl h
        · exact .inr (.inl h)
        · exact .inr (.inr h)
        · exact .inr (.inr (by decide))
      exact ⟨id, by rw [State.write_stCtl, State.stCtl, if_pos hshut]; rfl⟩
    · by_cases hb : isBell o
      · have hs : o ≠ R.TB_SNAP_CTL := by
          obtain ⟨-, h2⟩ := hb
          simp only [R.TB_SNAP_CTL]
          omega
        have hneed := writeNeed_bell ha hb
        obtain ⟨h1, -⟩ := id hb
        have hshut : s.dev.viaShut via o true ∨ s.dev.svcShut via o ∨ mbPl ((o - 0x10000) / 16) < viaPl via := by
          rw [← hneed]
          rcases h with h | h | ⟨-, h | ⟨rfl, -⟩⟩
          · exact .inl h
          · exact .inr (.inl h)
          · exact .inr (.inr h)
          · refine .inr (.inr ?_)
            rw [hneed]
            simp only [mbPl, viaPl]
            split <;> omega
        refine ⟨id, ?_⟩
        rw [State.write_bell ha hb]
        simp only [State.doorbell, ← h1, hneed, Dev.atWrite, hs, if_false]
        exact if_pos hshut
      · obtain ⟨f, hf⟩ := Dev.regWrite_eq ha hc hb via v.toNat s.dev
        exact ⟨f, (State.write_reg ha hc hb via v s).trans (congrArg (fun d => ({ s with dev := d } : State)) hf)⟩

/-! ### Reserved offsets (R7) -/

theorem ne_of_regAt_none {o k : Nat} (h : regAt o = none) (hk : (regAt k).isSome = true) : o ≠ k := by
  rintro rfl
  simp [h] at hk

theorem Dev.store_none {o : Nat} (h : regAt o = none) (v : Nat) (s : Dev) : s.store o v = s := by
  simp [Dev.store, h]

theorem regAt_evqCfg {r : Nat} (h : r < 16) : (regAt (R.EVQ_CFG r)).isSome = true ∧ (regAt (R.EVQ_CI r)).isSome = true := by
  interval_cases r <;> exact ⟨rfl, rfl⟩

theorem regAt_trcCfg {r : Nat} (h : r < 8) : (regAt (R.TRC_CFG r)).isSome = true ∧ (regAt (R.TRC_CI_HI r)).isSome = true := by
  interval_cases r <;> exact ⟨rfl, rfl⟩

theorem regAt_lcfg {l : Nat} (h : l < 128) : (regAt (R.VL_LCFG l)).isSome = true := by
  have hblock : R.VL_LCFG l / 0x10000 = 6 := by
    simp only [R.VL_LCFG]
    omega
  have hwin : windowRegs (R.VL_LCFG l) = regsVL := by
    unfold windowRegs
    rw [hblock]
    rfl
  rw [regAt, hwin, List.find?_isSome]
  refine ⟨⟨"VL_LCFG", 0x61000, 0x40, 128, 0x5, 1, [rf 4 4 .wo, rf 3 3 .rw, rf 2 1 .rw, rf 0 0 .rw]⟩, by simp [regsVL], ?_⟩
  simp [RegSpec.holds, R.VL_LCFG]
  omega

theorem regAt_evsel {o : Nat} (h : isSelect.isEvsel o = true) : (regAt o).isSome = true := by
  simp only [isSelect.isEvsel, Bool.and_eq_true, decide_eq_true_eq, beq_iff_eq] at h
  obtain ⟨⟨h1, h2⟩, h3⟩ := h
  obtain ⟨k, hk, rfl⟩ : ∃ k < 16, o = 0x150200 + 0x20 * k := ⟨(o - 0x150200) / 0x20, by omega, by omega⟩
  interval_cases k <;> rfl

theorem Dev.regPut_none {o : Nat} (h : regAt o = none) (v ns : Nat) (frac : Word) (s : Dev) : s.regPut o v ns frac = s := by
  have hne {k : Nat} (hk : (regAt k).isSome = true) : o ≠ k := ne_of_regAt_none h hk
  have hst : ∀ d : Dev, d.store o v = d := fun d => d.store_none h v
  unfold Dev.regPut
  split
  · simp only [Dev.putHif, hst, hne (k := R.HIF_SVC_CODE_LO) rfl, hne (k := R.HIF_SVC_CODE_HI) rfl, hne (k := R.HIF_UNLOCK_LO) rfl,
      hne (k := R.HIF_UNLOCK_HI) rfl, hne (k := R.HIF_SVC_CTL) rfl, if_false]
  · have h1 : ∀ r, ¬(o = R.EVQ_CFG r ∧ r < 16) := fun r ⟨he, hr⟩ => hne (regAt_evqCfg hr).1 he
    have h2 : ∀ r, ¬(o = R.EVQ_CI r ∧ r < 16) := fun r ⟨he, hr⟩ => hne (regAt_evqCfg hr).2 he
    simp only [Dev.putEvq, hst, h1, h2, if_false]
  · have h1 : ∀ r, ¬(o = R.TRC_CFG r ∧ r < 8) := fun r ⟨he, hr⟩ => hne (regAt_trcCfg hr).1 he
    have h2 : ∀ r, ¬(o = R.TRC_CI_HI r ∧ r < 8) := fun r ⟨he, hr⟩ => hne (regAt_trcCfg hr).2 he
    simp only [Dev.putTrc, hst, h1, h2, if_false]
  · simp only [Dev.putTb, hst, hne (k := R.TB_CFG) rfl, hne (k := R.TB_STEP_CTL) rfl, hne (k := R.TB_SNAP_CTL) rfl, if_false]
  · have h1 : ∀ l, ¬(0x61000 ≤ o ∧ o = R.VL_LCFG l ∧ l < 128) := fun l ⟨_, he, hl⟩ => hne (regAt_lcfg hl) he
    simp only [Dev.putVl, hst, hne (k := R.VL_CFG) rfl, h1, if_false]
  · rw [if_neg (hne rfl), hst]
  · rw [if_neg (hne rfl), hst]
  · rw [if_neg (hne rfl), hst]
  · simp only [Dev.putRp, hst, Bool.and_not_self, Dev.when, Bool.false_eq_true, if_false]
  · simp only [Dev.putRp, hst, Bool.and_not_self, Dev.when, Bool.false_eq_true, if_false]
  · rw [if_neg (hne rfl), hst]
  · simp only [Dev.putFc, Dev.store_none h, hne (k := R.FC_SAFE_CTL) rfl, hne (k := R.FC_CLR) rfl, if_false, ite_self]
  · simp only [Dev.putPm, hst, hne (k := R.PM_OPV_0) rfl, hne (k := R.PM_OPV_1) rfl, hne (k := R.PM_OPV_2) rfl, hne (k := R.PM_EVT) rfl,
      or_self, if_false]
  · simp only [Dev.putTh, hst, hne (k := R.TH_BOARD) rfl, hne (k := R.TH_FIT_CTL) rfl, List.contains_eq_mem, List.mem_cons,
      hne (k := R.TH_RWARN) rfl, hne (k := R.TH_RTHROT) rfl, hne (k := R.TH_RTRIP) rfl, hne (k := R.TH_ATHROT) rfl,
      hne (k := R.TH_ATRIP) rfl, List.not_mem_nil, or_self, decide_false, Bool.false_eq_true, if_false]
  · have hsel : ∀ d : Dev, d.putBpsel o v = d := fun d => by simp only [Dev.putBpsel, h]
    have hev : isSelect o = true → o < 0x150200 := fun hs => by
      simp only [isSelect, Bool.or_eq_true, Bool.and_eq_true, decide_eq_true_eq] at hs
      rcases hs with hs | hs
      · exact hs.1.2
      · exact absurd rfl (hne (regAt_evsel hs))
    simp only [Dev.putPc, hst, hne (k := R.PC_CTL) rfl, if_false]
    split
    · next hs => rw [if_pos (hev hs), hsel]
    · rfl
  · exact hst s

/-! ### Granted accesses -/

/-- A granted write of a register takes its block's effect, outside the doorbells, the restart and the snapshot of time. -/
theorem State.write_granted {s : State} {via : Via} {o : Nat} (h : MayWrite s via o) (ha : inAreas o = false) (hm : ¬(0x1000 ≤ o ∧ o < 0x1808))
    (hc : o ≠ R.HIF_ST_CTL) (hb : ¬isBell o) (hs : o ≠ R.TB_SNAP_CTL) (v : Word) :
    s.fresh.write via o v = { s with dev := s.fresh.dev.t6Do via o (Dev.regPut o v.toNat 0 0) } := by
  have hw : s.fresh.dev.regWrite via o v.toNat = s.fresh.dev.t6Do via o (Dev.regPut o v.toNat 0 0) := by
    simp only [Dev.regWrite, Dev.regWriteAt, hs, if_neg hm, if_false]
    exact h.writeReg _
  rw [State.write_reg ha hc hb, State.mapDev, hw]
  rfl

theorem not_isBell {o : Nat} (h : ∀ i, i < 8 → o ≠ R.MB_DB i) : ¬isBell o := by
  rintro ⟨h1, h2⟩
  exact h _ (by omega) h1

/-- An RC register reads as its count, and is not one of PC. -/
theorem regAt_rc {o : Nat} {r : RegSpec} (h : regAt o = some r) (hr : r.isRc = true) :
    pcWindow o = false ∧ ∀ s : Dev, s.readNow o = s.reg o &&& BitVec.ofNat 32 r.shown := by
  have hpc : pcWindow o = false := by
    by_contra hp
    simp only [pcWindow, Bool.not_eq_false, Bool.and_eq_true, decide_eq_true_eq] at hp
    have hblock : o / 0x10000 = 21 := by omega
    have hmem : r ∈ regsPC := by
      have := List.mem_of_find?_eq_some h
      unfold windowRegs at this
      rwa [hblock] at this
    have hnone : ∀ r ∈ regsPC, r.isRc = false := by decide
    simp [hnone r hmem] at hr
  refine ⟨hpc, fun s => ?_⟩
  have hne {k : Nat} (hk : (regAt k).any RegSpec.isRc = false) : o ≠ k := by
    rintro rfl
    simp [h, hr] at hk
  simp only [Dev.readNow, h, hr, hne (k := R.HIF_SVC_LEFT) rfl, hne (k := R.FC_STAT) rfl, Bool.not_true, Bool.false_eq_true, and_false,
    if_false]

/-- A write of a register whose block only stores. -/
theorem Dev.regPut_store {o : Nat} (h : o / 0x10000 ∈ [7, 8, 10, 15, 16]) (v ns : Nat) (frac : Word) (s : Dev) :
    s.regPut o v ns frac = s.store o v := by
  simp only [List.mem_cons, List.not_mem_nil, or_false] at h
  unfold Dev.regPut
  rcases h with h | h | h | h | h <;> rw [h] <;> rfl

theorem Dev.store_plain {o : Nat} {r : RegSpec} (h : regAt o = some r) {v : Nat} (hv : r.reserved v = false) (s : Dev) :
    s.store o v = s.setReg o (BitVec.ofNat 32 (r.written (s.reg o).toNat v)) := by
  simp [Dev.store, h, hv, Dev.when]

theorem Dev.rcTake_tx (s : Dev) (o : Nat) : (s.rcTake o).2.tx = s.tx := by
  unfold Dev.rcTake
  dsimp only
  split <;> rfl

/-- The line and the event of a write through the locked service aperture (R263). -/
theorem Dev.svcRefused_writes (s : State) (o : Nat) :
    let t := (s.fresh.dev.atWrite o).svcRefused o
    t.fc = { s.dev.fc with lines := s.dev.fc.lines ++ [s.dev.latched ⟨0x0001, 0, srcWord 0, BitVec.ofNat 32 o, true⟩] } ∧
      Writes (s.dev.wr F.HIF_EVT_SVC_REFUSED 1) [.evq, .fc, .freeCtr] s { s with dev := t } := by
  intro t
  have hd : Dev.Frame [] [.freeCtr] s.fresh.dev (s.fresh.dev.atWrite o) := Dev.atWrite_frame o _
  have ht : Dev.Frame [0] [.evq, .fc, .freeCtr] s.fresh.dev t := ((hd.mono).event _).raise _ _ _ _ _
  have hfc : (s.fresh.dev.atWrite o).fc = s.dev.fc := hd.part .fc
  have hpm : (s.fresh.dev.atWrite o).pm = s.dev.pm := hd.part .pm
  have htb : (s.fresh.dev.atWrite o).tb = s.dev.tb := hd.part .tb
  refine ⟨?_, .of ?_ (Dev.Keeps.trans (.symm (Dev.Keeps.wr _ _ _).all) (ht.keeps))⟩
  · simp only [t, Dev.svcRefused, Dev.raise, Dev.event_fc, Dev.latched, Dev.unclocked, Dev.carried, Dev.event_pm, Dev.event_tb, hfc, hpm, htb]
    rfl
  · exact ((Dev.RegsAs.trans (.of_regs rfl) fun off => hd.within off (by simp)).event _).raise _ _ _ _ _

end Sys2Proof.Machine

namespace Sys2Proof.Proofs
open Sys2Proof.Machine

/-- Settles O9, clause by clause: what keeps an access out is decided before the register map is looked at. -/
theorem registerAccess : Obligations.RegisterAccess := by
  unfold Obligations.RegisterAccess
  intro s via off r hrun o d
  have hread (c : Instr) (hc : c = .rcRead via off ∨ c = .lowWordRead via off) :
      exec c s = .next (State.readBy via o (State.read via o) s.fresh) := by
    rcases hc with rfl | rfl <;> exact State.onAll_next s _ hrun
  have hwrite (v : Word) : exec (.registerWrite via off v) s = .next (s.fresh.write via o v) := State.onAll_next s _ hrun
  have hrefused {v : Word} (h : s.dev.viaShut via o true = true ∨ s.dev.svcShut via o = true ∨
      (inAreas o = false ∧ (writeNeed o < viaPl via ∨ (via = .debug ∧ pcWindow o = false)))) :
      ∃ f, exec (.registerWrite via off v) s = .next (s.fresh.mapDev fun d => (d.atWrite o).writeAs via o (writeNeed o) f) := by
    obtain ⟨f, hf⟩ := State.write_refused (s := s.fresh) h v
    exact ⟨f, (hwrite v).trans (congrArg _ hf)⟩
  obtain ⟨sout, ssvc, sstall, sshut⟩ := s.fresh.dev.atWrite_same o via o true
  have hreg_o (hpc : pcWindow o = false) (wr : Bool) : (s.fresh.dev.t6 via o wr).reg o = s.dev.reg o := by
    refine (Dev.t6_frame via o wr s.fresh.dev).within o ?_
    simp only [pcWindow, Bool.and_eq_false_iff, decide_eq_false_iff_not] at hpc
    simp only [blockOf, List.mem_singleton]
    omega
  have hat : o ≠ R.TB_SNAP_CTL → s.fresh.dev.atWrite o = s.fresh.dev := fun h => if_neg h
  refine ⟨?_, ?_, ?_, ?_, ?_, ?_, ?_, ?_⟩
  · intro hout
    have hr : State.readBy via o (State.read via o) s.fresh = s.fresh := if_pos hout
    refine ⟨(hread _ (.inl rfl)).trans (congrArg _ hr), (hread _ (.inr rfl)).trans (congrArg _ hr), fun hs v => ?_⟩
    obtain ⟨f, hf⟩ := hrefused (v := v) (.inl (by simp [Dev.viaShut, hout]))
    rw [hf, State.mapDev, Dev.writeAs_out (sout.trans hout), hat hs]
  · intro hout hst hwin
    have hr : State.readBy via o (State.read via o) s.fresh = s.fresh := by
      simp only [State.readBy, show s.fresh.dev.viaOut via = false from hout, show s.fresh.dev.t6Stalled = false from hst,
        show s.fresh.dev.t6Wins via o false = false from hwin, Bool.not_false, Bool.false_eq_true, if_false, if_true]
    exact ⟨(hread _ (.inl rfl)).trans (congrArg _ hr), (hread _ (.inr rfl)).trans (congrArg _ hr)⟩
  · intro hout hst hwin hsvc hdbg hs v
    obtain ⟨f, hf⟩ := hrefused (v := v) (.inl (by simp [Dev.viaShut, hwin]))
    rw [hf, State.mapDev, hat hs, Dev.writeAs_waits (s := s.fresh.dev) hout hsvc hst hdbg hwin]
  · intro hout hst
    have hr : State.readBy via o (State.read via o) s.fresh = s.fresh.mapDev (Dev.accessError via o false 4) := by
      simp only [State.readBy, show s.fresh.dev.viaOut via = false from hout, show s.fresh.dev.t6Stalled = true from hst,
        Bool.false_eq_true, if_false, if_true]
      rfl
    refine ⟨⟨_, (hread _ (.inr rfl)).trans (congrArg _ hr), Dev.accessError_evt via o false 4 _,
      fun w => Dev.accessError_tx via o false 4 rfl o w, fun hv => (Dev.accessError_frame hv o false 4 _).only⟩, fun hsvc v => ?_⟩
    obtain ⟨f, hf⟩ := hrefused (v := v) (.inl (by simp [Dev.viaShut, hst]))
    rw [State.mapDev, Dev.writeAs_stalled (sout.trans hout) (ssvc.trans hsvc) (sstall.trans hst)] at hf
    exact ⟨_, hf, Dev.accessError_evt via o true 4 _, fun hv =>
      (((Dev.atWrite_frame o s.fresh.dev).mono).then (Dev.accessError_frame hv o true 4 _)).only⟩
  · intro hnone ha hm hmay hs
    have hne {k : Nat} (hk : (regAt k).isSome = true) : o ≠ k := ne_of_regAt_none hnone hk
    have hpc : o ≠ R.PC_CTL := hne rfl
    have hbell : ∀ i, i < 8 → o ≠ R.MB_DB i := fun i hi => hne (by interval_cases i <;> rfl)
    refine ⟨⟨_, (hread _ (.inr rfl)).trans (congrArg _ (State.readAt_granted hs ha hm)), ?_, ?_⟩, fun v =>
      ⟨_, (hwrite v).trans (congrArg _ (State.write_granted hmay ha hm (hne rfl) (not_isBell hbell) (hne rfl) v)), ?_⟩⟩
    · rw [Dev.readReg_none hnone, s.fresh_granted]
      rfl
    · rw [Dev.readReg_none hnone, s.fresh_granted]
      exact .of (.of_regs rfl) (.setTx _ _ _)
    · rw [Dev.t6Do, if_neg hpc, Dev.regPut_none hnone, s.fresh_granted]
      exact .of (.of_regs rfl) (.setTx _ _ _)
  · intro hreg ha hm
    refine ⟨?_, ?_, ?_, ?_, ?_⟩
    · intro v hmay hs hc hbell
      exact ⟨_, (hwrite v).trans (congrArg _ (State.write_granted hmay ha hm hc (not_isBell hbell) hs v)), rfl, rfl, rfl⟩
    · intro hrc hs
      obtain ⟨hpc, hnow⟩ := regAt_rc hreg hrc
      refine ⟨_, (hread _ (.inl rfl)).trans (congrArg _ (State.readAt_granted hs ha hm)), ?_, ?_⟩
      · rw [Dev.readReg_rc hreg hrc, Dev.rcTake_fst, hnow, Dev.settleFor_of_not_pc hpc, hreg_o hpc]
        simp [Dev.send, Dev.rcTake_tx, Dev.t6_tx]
      · rw [Dev.readReg_rc hreg hrc, s.fresh_granted]
        exact .of (((Dev.RegsAs.setReg (.setTx [] _) o 0).trans (Dev.rcTake_regs _ o)).trans (.of_regs rfl))
          ((((Dev.Keeps.setReg _ o 0).symm.all.trans (.setTx _ [] _)).trans (Dev.Keeps.setReg _ o 0).all).trans
            ((Dev.Keeps.rcTake _ o).trans (Dev.Keeps.send _ _).all))
    · intro v hblock hmay hres
      have hlt : 0x70000 ≤ o ∧ o < 0x110000 := by
        simp only [List.mem_cons, List.not_mem_nil, or_false] at hblock
        omega
      have hpc : pcWindow o = false := by
        simp only [pcWindow, Bool.and_eq_false_iff, decide_eq_false_iff_not]
        omega
      have hs : o ≠ R.TB_SNAP_CTL := by
        simp only [R.TB_SNAP_CTL]
        omega
      have hc : o ≠ R.HIF_ST_CTL := by
        simp only [R.HIF_ST_CTL]
        omega
      have hbell : ∀ i, i < 8 → o ≠ R.MB_DB i := fun i hi => by
        simp only [R.MB_DB]
        omega
      refine ⟨_, (hwrite v).trans (congrArg _ (State.write_granted hmay ha hm hc (not_isBell hbell) hs v)), ?_⟩
      rw [Dev.t6Do_of_not_pc hpc, Dev.regPut_store hblock, Dev.store_plain hreg hres, hreg_o hpc]
      have hd : Dev.RegsAs d (s.fresh.dev.t6 via o true) := by
        simp only [d, Dev.settleFor_of_not_pc hpc]
        exact .t6 s via o true
      exact .of (hd.setReg o _) ((Dev.Keeps.setReg d o _).symm.all.trans ((Dev.Silent.keeps (.granted via o true) [] s).trans
        (by simp only [Dev.settleFor_of_not_pc hpc]; exact (Dev.Keeps.setReg _ o _).all)))
    · intro hs hsvc hp v
      have hst : via ≠ .steward := by
        rintro rfl
        rcases hp with hp | ⟨h, -⟩
        · exact absurd hp (Nat.not_lt_zero _)
        · cases h
      have hneed : writeNeed o = t6Need o := if_neg hm
      rw [← hneed] at hp
      obtain ⟨f, hf⟩ := hrefused (v := v) (.inr (.inr ⟨ha, hp⟩))
      have hat : Dev.Frame [] [.freeCtr] s.fresh.dev (s.fresh.dev.atWrite o) := Dev.atWrite_frame o _
      have hcount {w : List Nat} {e : Dev} (h : Dev.Within w s.fresh.dev e) (hw : 17 ∉ w := by decide) :
          min (e.rd (bmCnt 1) + 1) 0xFFFFFFFF = min (s.dev.rd F.BM_PRIV_CNT + 1) 0xFFFFFFFF :=
        congrArg (fun n => min (n + 1) 0xFFFFFFFF) (h.rd F.BM_PRIV_CNT hw)
      rcases Dev.writeAs_priv (sshut.trans hs) (ssvc.trans hsvc) hp f with h | h <;> rw [State.mapDev, h] at hf
      · exact ⟨_, hf, Dev.accessError_evt via o true 1 _, (Dev.accessError_cnt via o true 1 _).trans (hcount hat.within),
          fun hv => ((hat.mono).then (Dev.privError_frame hv o true _)).only⟩
      · have ht6 : Dev.Frame [21] [.freeCtr, .bm] s.fresh.dev ((s.fresh.dev.atWrite o).t6 via o true) := (hat.mono).then (Dev.t6_frame via o true _)
        exact ⟨_, hf, Dev.accessError_evt via o true 1 _, (Dev.accessError_cnt via o true 1 _).trans (hcount ht6.within),
          fun hv => ((ht6.mono).then (Dev.privError_frame hv o true _)).only⟩
    · intro hout hsvc v
      obtain ⟨f, hf⟩ := hrefused (v := v) (.inr (.inl hsvc))
      rw [State.mapDev, Dev.writeAs_shut (sout.trans hout) (ssvc.trans hsvc)] at hf
      exact ⟨_, hf, Dev.svcRefused_writes s o⟩
  · intro v ha hv hs hmb
    have hsvc : s.dev.svcShut via o = false := by simp [Dev.svcShut, hv]
    have hshut : ¬(s.fresh.dev.viaShut via o true ∨ s.fresh.dev.svcShut via o ∨ via = .debug) := by
      rintro (h | h | h)
      · exact absurd (hs.symm.trans h) (by decide)
      · exact absurd (hsvc.symm.trans h) (by decide)
      · exact absurd (hv.symm.trans h) (by decide)
    refine (hwrite v).trans (congrArg _ ?_)
    rw [State.write_area ha, State.areaWrite, if_neg hshut]
    exact if_pos ⟨hv, hmb⟩
  · intro v ha hreq hv hs hsvc hmb
    have hshut : ¬(s.fresh.dev.viaShut via o true ∨ s.fresh.dev.svcShut via o ∨ via = .debug) := by
      rintro (h | h | h)
      · exact absurd (hs.symm.trans h) (by decide)
      · exact absurd (hsvc.symm.trans h) (by decide)
      · exact hv h
    have hw : s.fresh.write via o v = ((s.fresh.mapDev (Dev.t6 via o true)).areaPut o v) := by
      rw [State.write_area ha, State.areaWrite, if_neg hshut]
      exact if_neg fun h => absurd (hmb h.1) (by omega)
    rw [State.areaPut, if_pos hreq] at hw
    refine ⟨_, (hwrite v).trans (congrArg _ hw), rfl, rfl, fun a => ?_⟩
    exact (Memory.read_writeBytes _ _ _ _).trans (by rw [toLe_length]; rfl)

end Sys2Proof.Proofs
end

section
-- One proof after another: in parallel the proofs of this text would not fit the memory that its check allows.
set_option Elab.async false
/-!
PROOFS. Frames of what several blocks share: answers to mailboxes, the drain of a master, pages of the NV die and the record in
progress (09), lanes that leave service (03), and the ends of calibration runs and captures (09).
-/
namespace Sys2Proof.Machine

/-! ### Answers to mailboxes, parts of the link layer, the drain of a master -/

section
variable {w : List Nat} {l : List Part} {s t : Dev} (h : Dev.Frame w l s t)
include h

theorem Dev.Frame.ok (mb : Nat) (r : List Byte) (hl : Part.mbx ∈ l := by decide) : Dev.Frame w l s (t.ok mb r) := h.finish _ _ _ _ _ hl

theorem Dev.Frame.refuse (mb d : Nat) (d2 : Nat := 0xFFFFFFFF) (hl : Part.mbx ∈ l := by decide) : Dev.Frame w l s (t.refuse mb d d2) :=
  h.finish _ _ _ _ _ hl

theorem Dev.Frame.range (mb off : Nat) (hl : Part.mbx ∈ l := by decide) : Dev.Frame w l s (t.range mb off) := h.finish _ _ _ _ _ hl

theorem Dev.Frame.take (mb : Nat) (hl : Part.mbx ∈ l := by decide) : Dev.Frame w l s (t.take mb) := h.mbx _ hl

theorem Dev.Frame.modVat (v : Nat) (f : Vat → Vat) (hl : Part.vl ∈ l := by decide) : Dev.Frame w l s (t.modVat v f) := h.vl _ hl

theorem Dev.Frame.modLane (k : Nat) (f : Lane → Lane) (hl : Part.vl ∈ l := by decide) : Dev.Frame w l s (t.modLane k f) := h.vl _ hl

theorem Dev.Frame.setHeld (v : Nat) (b : Bool) (hw : 6 ∈ w := by decide) : Dev.Frame w l s (t.setHeld v b) :=
  h.wr2 _ _ hw hw

theorem Dev.Frame.bmWipe (k : Nat) (hl : Part.bm ∈ l := by decide) : Dev.Frame w l s (t.bmWipe k) := h.bm _ hl

theorem Dev.Frame.useFree (hl : Part.freeCtr ∈ l := by decide) : Dev.Frame w l s t.useFree := h.freeCtr _ hl

theorem Dev.Frame.nvLine (c v i : Nat) (hl : Part.fc ∈ l := by decide) : Dev.Frame w l s (t.nvLine c v i) := h.raise _ _ _ _ _ hl

theorem Dev.Frame.setPm (f : Pm → Pm) (hl : Part.pm ∈ l := by decide) : Dev.Frame w l s (t.setPm f) := h.pm _ hl

theorem Dev.Frame.setHif (f : Hif → Hif) (hl : Part.hif ∈ l := by decide) : Dev.Frame w l s (t.setHif f) := h.hif _ hl

end

theorem Dev.bmUnknown_frame (s : Dev) (x : BmW) : Dev.Frame [] [.bm] s (s.bmUnknown x) := by
  have h : Dev.Frame [] [.bm] s (s.bmFill x.q []) := by
    unfold Dev.bmFill
    split
    · exact (Dev.Frame.refl _ _ s).bm _
    · exact .refl _ _ s
  exact h.bm _

theorem Dev.masterReset_frame (m : Nat) (s : Dev) : Dev.Frame [17] [.bm] s (s.masterReset m) := by
  unfold Dev.masterReset
  extract_lets b t l u
  have ht : Dev.Frame [17] [.bm] s t := (Dev.Frame.refl _ _ s).bm _
  have hu : Dev.Frame [17] [.bm] s u := ht.trans (.each _ _ _ fun d x _ => (d.bmUnknown_frame x).mono)
  clear_value u
  split
  · exact hu
  · exact hu.wr _ _

theorem Dev.orphan_frame (p : Nat → Bool) (s : Dev) : Dev.Frame [] [.le, .cal, .nv, .pm, .tw] s (s.orphan p) :=
  (Dev.Frame.refl _ _ s).fields rfl fun x hx => by cases x <;> first | exact absurd (by decide) hx | rfl

/-! ### Pages of the NV die and the record in progress (09 R231, R232, R235) -/

theorem Dev.nvDepth_frame (s : Dev) : Dev.Frame [16] [] s s.nvDepth := ((Dev.Frame.refl _ _ s).wr _ _).wrB _ _

theorem Dev.setPage_frame (s : Dev) (p : Nat) (b : List Byte) : Dev.Frame [] [.nv, .bm] s (s.setPage p b) :=
  ((Dev.Frame.refl _ _ s).nv _).bmWipe _

theorem Dev.erasePage_frame (s : Dev) (p : Nat) : Dev.Frame [16] [.nv, .bm, .evq] s (s.erasePage p) := by
  unfold Dev.erasePage
  extract_lets w n t u
  have ht : Dev.Frame [16] [.nv, .bm, .evq] s t := ((Dev.Frame.refl _ _ s).nv _).bmWipe _
  have hu : Dev.Frame [16] [.nv, .bm, .evq] s u := ht.wr _ _
  clear_value u
  exact hu.when' _ ((Dev.Frame.refl _ _ u).event _)

theorem Dev.tearPage_frame (s : Dev) (p : Nat) : Dev.Frame [] [.nv, .bm, .freeCtr] s (s.tearPage p) :=
  ((s.setPage_frame p _).mono).freeCtr _

theorem Dev.journalPut_frame (s : Dev) (st ty slot key gen : Nat) :
    Dev.Frame [16] [.nv, .bm, .evq] s (s.journalPut st ty slot key gen) := by
  unfold Dev.journalPut
  extract_lets q e e' p old t u
  have ht : Dev.Frame [16] [.nv, .bm, .evq] s t := .when _ _ s (s.erasePage_frame _)
  clear_value t
  exact (((ht.then (t.setPage_frame _ _)).wr _ _).nv _)

theorem Dev.journal_frame (s : Dev) (st ty slot key gen : Nat) : Dev.Frame [16] [.nv, .bm, .evq] s (s.journal st ty slot key gen) := by
  unfold Dev.journal
  split
  · exact .refl _ _ s
  · exact s.journalPut_frame st ty slot key gen

theorem Dev.nvAbandon_frame (s : Dev) : Dev.Frame [16] [.nv, .bm, .freeCtr] s s.nvAbandon := by
  unfold Dev.nvAbandon
  split
  · exact ((((Dev.Frame.refl _ _ s).nv _).then (Dev.tearPage_frame _ _)).then (Dev.nvDepth_frame _))
  · exact .refl _ _ s

theorem Dev.nvAbandon_cur (s : Dev) : s.nvAbandon.nv.cur = none := by
  unfold Dev.nvAbandon
  split
  · exact congrArg Nv.cur (Dev.Frame.part (Dev.nvDepth_frame _) .nv)
  · assumption

theorem Dev.nvEnd_frame (s : Dev) (q : NvReq) (good : Bool) (gen : Nat) :
    Dev.Frame [15, 16] [.nv, .mbx, .evq] s (s.nvEnd q good gen) := by
  unfold Dev.nvEnd
  extract_lets n t u
  have ht : Dev.Frame [15, 16] [.nv, .mbx, .evq] s t := ((Dev.Frame.refl _ _ s).nv _).then (Dev.nvDepth_frame _)
  clear_value t
  split
  · split
    · split
      · exact ht.ok _ _
      · exact ((((((ht.wr _ _).wr _ _).wr _ _).count _).event _).finish _ _ _ _ _)
    · split
      · exact ht.refuse _ _
      · split
        · exact ht.ok _ _
        · exact ht.ok _ _
  · exact ht

/-! ### Lanes that leave service (03 Tables 3.3, 3.14) -/

/-- Parts that a lane which leaves service may reach. -/
def laneParts : List Part := [.vl, .gl, .cal, .de, .evq, .fc, .freeCtr, .trc]

/-- Windows that it may reach. -/
def laneWindows : List Nat := [6, 11, 12, 13, 14, 21]

/-- A lane's registers lie in VL. -/
theorem laneReg_mem {a k : Nat} {w : List Nat} (h1 : 0x61000 ≤ a) (h2 : a < 0x61040) (hk : k < 128) (hw : 6 ∈ w) : blockOf (a + 0x40 * k) ∈ w := by
  have h : blockOf (a + 0x40 * k) = 6 := by
    simp only [blockOf]
    omega
  rwa [h]

theorem Dev.setLane_frame (s : Dev) {k : Nat} (hk : k < 128) (st : Nat) : Dev.Frame [6] [] s (s.setLane k st) :=
  ((Dev.Frame.refl _ _ s).wr _ _ (laneReg_mem (by decide) (by decide) hk (by decide))).setReg _ _
    (by simp only [blockOf, List.mem_singleton, R.VL_LANE_UP0]; omega)

theorem Dev.regardHeld_frame (s : Dev) (v : Nat) : Dev.Frame [6] [.vl] s (s.regardHeld v) := ((Dev.Frame.refl _ _ s).modVat _ _).setHeld _ _

theorem Dev.vatLost_frame (s : Dev) (v : Nat) : Dev.Frame laneWindows laneParts s (s.vatLost v) :=
  ((((Dev.Frame.refl _ _ s).raise _ _ _ _ _).then (Dev.regardHeld_frame _ v)).modVat _ _).then (Dev.glSync_frame _)

theorem Dev.laneLeave_frame (s : Dev) {k : Nat} (hk : k < 128) (st : Nat) : Dev.Frame laneWindows laneParts s (s.laneLeave k st) := by
  unfold Dev.laneLeave
  extract_lets was t u
  have ht : Dev.Frame laneWindows laneParts s t := ((s.setLane_frame hk st).mono).modLane _ _
  clear_value t
  have hu : Dev.Frame laneWindows laneParts s u :=
    ht.when' _ ((Dev.Frame.refl _ _ t).count _ _ (laneReg_mem (by decide) (by decide) hk (by decide)))
  clear_value u
  exact hu.when' _ (u.vatLost_frame _)

theorem Dev.toDetect_frame (s : Dev) {k : Nat} (hk : k < 128) : Dev.Frame laneWindows laneParts s (s.toDetect k) := by
  unfold Dev.toDetect
  split
  · exact s.laneLeave_frame hk 1
  · exact .refl _ _ s

theorem Dev.laneFault_frame (s : Dev) {k : Nat} (hk : k < 128) (cause st : Nat) :
    Dev.Frame laneWindows laneParts s (s.laneFault k cause st) :=
  (((Dev.Frame.refl _ _ s).wr _ _ (laneReg_mem (by decide) (by decide) hk (by decide))).raise _ _ _ _ _).then (Dev.laneLeave_frame _ hk st)

/-! ### Ends of calibration runs and captures (09 R213, R219, R227) -/

theorem Dev.calStat_frame (s : Dev) : Dev.Frame [15] [] s s.calStat :=
  ((((((Dev.Frame.refl _ _ s).wr _ _).wrB _ _).wr _ _).wr _ _).wrB _ _)

/-- Windows and parts that the end of a run may reach. -/
def runWindows : List Nat := [6, 11, 12, 13, 14, 15, 17, 21]
def runParts : List Part := [.vl, .gl, .cal, .de, .evq, .fc, .freeCtr, .trc, .mbx, .bm]

theorem Dev.dropRun_frame (s : Dev) (r : CalRun) : Dev.Frame [] [.cal] s (s.dropRun r) := (Dev.Frame.refl _ _ s).cal _

theorem Dev.runRelease_frame (s : Dev) (r : CalRun) : Dev.Frame laneWindows laneParts s (s.runRelease r) := by
  unfold Dev.runRelease
  split
  · exact (Dev.Frame.refl _ _ s).modLane _ _
  · split
    · next h => exact s.toDetect_frame h.2
    · exact .refl _ _ s

theorem Dev.runOver_frame (s : Dev) (r : CalRun) (code : Nat) : Dev.Frame runWindows runParts s (s.runOver r code) := by
  unfold Dev.runOver
  extract_lets t u v
  have ht : Dev.Frame runWindows runParts s t :=
    (((s.dropRun_frame r).mono).then (Dev.runRelease_frame _ r)).then (Dev.calStat_frame _)
  clear_value t
  have hv : Dev.Frame runWindows runParts s v := (((ht.wr _ _).wr _ _).wr _ _ |>.count _).event _
  clear_value v
  exact hv.when' _ (((Dev.Frame.refl _ _ v).count _).event _)

theorem Dev.runFail_frame (code : Nat) (s : Dev) (r : CalRun) : Dev.Frame runWindows runParts s (s.runFail code r) := by
  have h : Dev.Frame runWindows runParts s ((s.runOver r code).refuse r.mb code) := (s.runOver_frame r code).refuse _ _
  unfold Dev.runFail
  dsimp only
  split
  · exact h.then (Dev.masterReset_frame 4 _)
  · exact h

theorem Dev.abortRuns_frame (p : CalRun → Bool) (s : Dev) : Dev.Frame runWindows runParts s (s.abortRuns p) :=
  .each _ _ s fun d r _ => d.runFail_frame 3 r

theorem Dev.abortCaps_frame (p : Cap → Bool) (s : Dev) : Dev.Frame [15] [.cal, .mbx] s (s.abortCaps p) :=
  (((Dev.Frame.refl _ _ s).cal _).trans (.each _ _ _ fun d c _ => (Dev.Frame.refl _ _ d).refuse _ _)).then (Dev.calStat_frame _)

end Sys2Proof.Machine
end

section
-- One proof after another: in parallel the proofs of this text would not fit the memory that its check allows.
set_option Elab.async false
/-!
PROOFS. Operations on the NV die (09 R231 to R235): what they leave of the record store and of its status, and what a scan and the
recovery leave.
-/
namespace Sys2Proof.Machine

/-- The record store with another die. -/
def Nv.ofDie (n : Nv) (p : Tbl (List Byte)) (w : Tbl Nat) (j : Nat) : Nv := { n with pages := p, wear := w, jpos := j }

/-- From s to t the die and the journal may change, and what tells of them: registers of NV but NV_STAT, events and lines. -/
structure Dev.OnDie (s t : Dev) : Prop where
  frame : Dev.Frame [16] [.nv, .bm, .evq, .fc] s t
  stat : t.reg R.NV_STAT = s.reg R.NV_STAT
  rest : ∃ p w j, t.nv = s.nv.ofDie p w j

namespace Dev.OnDie

theorem refl (s : Dev) : Dev.OnDie s s := ⟨.refl _ _ s, rfl, _, _, _, rfl⟩

theorem trans {s t u : Dev} (h : Dev.OnDie s t) (k : Dev.OnDie t u) : Dev.OnDie s u := by
  obtain ⟨p, w, j, hn⟩ := h.rest
  obtain ⟨p', w', j', hn'⟩ := k.rest
  exact ⟨h.frame.trans k.frame, k.stat.trans h.stat, p', w', j', by rw [hn', hn]; rfl⟩

theorem each {α : Type} (r : List α) (f : Dev → α → Dev) (s : Dev) (hf : ∀ s a, Dev.OnDie s (f s a)) : Dev.OnDie s (Dev.each r f s) := by
  induction r generalizing s with
  | nil => exact refl s
  | cons a r ih => exact (hf s a).trans (ih _)

theorem when (c : Bool) (f : Dev → Dev) (s : Dev) (hf : Dev.OnDie s (f s)) : Dev.OnDie s (Dev.when c f s) := by
  cases c with
  | true => exact hf
  | false => exact refl s

/-- A register of NV other than NV_STAT is written. -/
theorem wr {s t : Dev} (h : Dev.OnDie s t) (f : Fld) (v : Nat) (hf : blockOf f.reg ∈ [16] := by decide) (hs : f.reg ≠ R.NV_STAT := by decide) :
    Dev.OnDie s (t.wr f v) := by
  obtain ⟨p, w, j, hn⟩ := h.rest
  exact ⟨h.frame.wr f v hf, (Dev.reg_wr_ne t hs v).trans h.stat, p, w, j, hn⟩

theorem count {s t : Dev} (h : Dev.OnDie s t) (f : Fld) (n : Nat := 1) (hf : blockOf f.reg ∈ [16] := by decide)
    (hs : f.reg ≠ R.NV_STAT := by decide) : Dev.OnDie s (t.count f n) := h.wr f _ hf hs

theorem event {s t : Dev} (h : Dev.OnDie s t) (f : Fld) (hf : blockOf f.reg ∈ [16] := by decide) (hs : f.reg ≠ R.NV_STAT := by decide) :
    Dev.OnDie s (t.event f) := by
  obtain ⟨p, w, j, hn⟩ := h.rest
  exact ⟨h.frame.event f hf, (Dev.reg_event_ne t hs).trans h.stat, p, w, j, by rw [show (t.event f).nv = t.nv from Dev.Keeps.event t f .nv (by decide), hn]⟩

theorem nvLine {s t : Dev} (h : Dev.OnDie s t) (c v i : Nat) : Dev.OnDie s (t.nvLine c v i) := by
  obtain ⟨p, w, j, hn⟩ := h.rest
  exact ⟨h.frame.nvLine c v i, h.stat, p, w, j, hn⟩

theorem setPage (s : Dev) (p : Nat) (b : List Byte) : Dev.OnDie s (s.setPage p b) := ⟨(s.setPage_frame p b).mono, rfl, _, _, _, rfl⟩

theorem erasePage (s : Dev) (p : Nat) : Dev.OnDie s (s.erasePage p) := by
  unfold Dev.erasePage
  extract_lets w n t u
  have ht : Dev.OnDie s t := ⟨((Dev.Frame.refl _ _ s).nv _).bmWipe _, rfl, _, _, _, rfl⟩
  clear_value t
  have hu : Dev.OnDie s u := ht.wr _ _
  clear_value u
  exact hu.trans (.when _ _ u ((refl u).event _))

theorem putCopy (s : Dev) (o : Nat) (b : Bool) (c : Copy) : Dev.OnDie s (s.putCopy o b c) :=
  .each _ _ s fun d _ => (erasePage d _).trans (.setPage _ _ _)

theorem journalPut (s : Dev) (st ty slot key gen : Nat) : Dev.OnDie s (s.journalPut st ty slot key gen) := by
  unfold Dev.journalPut
  extract_lets q e e' p old t u
  have ht : Dev.OnDie s t := .when _ _ s (erasePage s _)
  clear_value t
  have hu : Dev.OnDie s u := (ht.trans (.setPage t _ _)).wr _ _
  obtain ⟨p, w, j, hn⟩ := hu.rest
  exact ⟨hu.frame.nv _, hu.stat, p, w, _, congrArg (fun n : Nv => { n with jpos := (u.nv.jpos + 1) % 8192 }) hn⟩

theorem journal (s : Dev) (st ty slot key gen : Nat) : Dev.OnDie s (s.journal st ty slot key gen) := by
  unfold Dev.journal
  split
  · exact refl s
  · exact journalPut s st ty slot key gen

theorem repair (s : Dev) (o : Nat) (b : Bool) (c : Copy) : Dev.OnDie s (s.repair o b c) := by
  unfold Dev.repair
  split
  · exact refl s
  · exact (((putCopy s o b c).count _).event _).trans (.journal _ _ _ _ _ _)

theorem resolve2 (s : Dev) (o : Nat) : Dev.OnDie s (s.resolve2 o) := by
  unfold Dev.resolve2
  dsimp only
  split
  · split
    · exact refl s
    · split
      · exact (((refl s).count _ 2).event _).nvLine _ _ _
      · exact (((refl s).count _ 2).event _).nvLine _ _ _
  · exact ((((refl s).count _).event _).nvLine _ _ _).trans (.repair _ _ _ _)
  · exact ((((refl s).count _).event _).nvLine _ _ _).trans (.repair _ _ _ _)
  · split
    · exact refl s
    · split
      · exact (((refl s).event _).nvLine _ _ _).trans (.repair _ _ _ _)
      · exact (((refl s).event _).nvLine _ _ _).trans (.repair _ _ _ _)

theorem nvCheck (s : Dev) (o : Nat) : Dev.OnDie s (s.nvCheck o) := by
  unfold Dev.nvCheck
  split
  · exact refl s
  · exact resolve2 s o

theorem nvScanAll (s : Dev) : Dev.OnDie s s.nvScanAll := .each _ _ s fun d o => nvCheck d o

theorem nvWriteNow (s : Dev) (ty key : Nat) (payload : List Byte) : Dev.OnDie s (s.nvWriteNow ty key payload) := by
  unfold Dev.nvWriteNow
  extract_lets o g st c t
  have ht : Dev.OnDie s t := ((journal s _ _ _ _ _).trans (.putCopy _ _ _ _)).trans (.journal _ _ _ _ _ _)
  clear_value t
  exact ((ht.trans (.putCopy t _ _ _)).trans (.journal _ _ _ _ _ _)).count _

theorem tripped {s t : Dev} (h : Dev.OnDie s t) : t.nv.tripped = s.nv.tripped := by
  obtain ⟨p, w, j, hn⟩ := h.rest
  rw [hn]
  rfl

end Dev.OnDie

/-- The recovery up to RECOVERED (R233). -/
theorem Dev.nvRecover_onDie (s : Dev) : ∃ t, Dev.OnDie s t ∧ s.nvRecover = Dev.when (!t.nv.tripped) (·.wrB F.NV_STAT_RECOVERED true) t := by
  unfold Dev.nvRecover
  extract_lets a b c d
  refine ⟨d, ?_, rfl⟩
  have ha : Dev.OnDie s a := by
    simp only [a]
    split
    · exact (Dev.OnDie.refl s).wr _ _
    · exact .refl s
  clear_value a
  have hb : Dev.OnDie s b := ha.wr _ _
  clear_value b
  have hc : Dev.OnDie s c := hb.trans (.nvScanAll b)
  clear_value c
  refine hc.trans (.each _ _ c fun d o => ?_)
  split
  · exact .journal _ _ _ _ _ _
  · exact .refl d

end Sys2Proof.Machine
end

section
-- One proof after another: in parallel the proofs of this text would not fit the memory that its check allows.
set_option Elab.async false
/-!
PROOFS. Frames of the power manager's step (14 R317 to R322): the point, its slices, the boot gate, and the mailbox it answers.
-/
namespace Sys2Proof.Machine

theorem Dev.slicePause_frame (s : Dev) (x : Nat) : Dev.Frame [17] [.bm] s (s.slicePause x) := by
  unfold Dev.slicePause
  split
  · exact ((Dev.Frame.refl _ _ s).bm _).wrB _ _
  · exact ((Dev.Frame.refl _ _ s).bm _).wrB _ _

theorem Dev.avsStart_frame (s : Dev) (t : Nat) : Dev.Frame [] [.pm] s (s.avsStart t) := ((Dev.Frame.refl _ _ s).setPm _).send _

theorem Dev.pmPoint_frame (s : Dev) : Dev.Frame [17] [.pm, .bm] s s.pmPoint := by
  unfold Dev.pmPoint
  extract_lets want op s1 s2
  have h1 : Dev.Frame [17] [.pm, .bm] s s1 := (s.slicePause_frame _).mono
  have h2 : Dev.Frame [17] [.pm, .bm] s s2 := h1.setPm _
  clear_value s1 s2
  split
  · exact .refl _ _ s
  · split
    · split
      · refine Dev.Frame.then (t := if s.pm.avsTgt = some want then s else s.avsStart want) ?_ (Dev.slicePause_frame _ _)
        split
        · exact .refl _ _ s
        · exact (s.avsStart_frame _).mono
      · exact ((Dev.Frame.refl _ _ s).setPm _).then (Dev.slicePause_frame _ _)
    · split
      · exact ((Dev.Frame.refl _ _ s).setPm _).then (Dev.slicePause_frame _ _)
      · split
        · exact h2.setPm _
        · split
          · exact h2
          · split
            · exact h2.then (Dev.avsStart_frame _ _)
            · exact h2.setPm _

/-- Parts that the boot gate's opening may reach. -/
def gateParts : List Part := [.vl, .st, .gl, .cal, .de, .evq, .fc, .freeCtr, .trc]

theorem Dev.trainAll_frame (s : Dev) : Dev.Frame laneWindows laneParts s s.trainAll := by
  refine .each _ _ s fun d l hl => ?_
  split
  · exact d.toDetect_frame (List.mem_range.mp hl)
  · exact .refl _ _ d

/-- The block with the boot gate open, before its lanes train. -/
def Dev.gateOpened (s : Dev) : Dev := { s with vl := { s.vl with gate := true }, st := { s.st with raising := false } }

theorem Dev.gateOpened_frame (s : Dev) : Dev.Frame [] [.vl, .st] s s.gateOpened :=
  (Dev.Frame.refl _ _ s).fields rfl fun p hp => by cases p <;> first | exact absurd (by decide) hp | rfl

theorem Dev.openGate_eq (s : Dev) : s.openGate = if s.st.raising && s.pm.opTgt.isNone then s.gateOpened.trainAll else s := rfl

theorem Dev.openGate_frame (s : Dev) : Dev.Frame laneWindows gateParts s s.openGate := by
  rw [Dev.openGate_eq]
  split
  · exact (s.gateOpened_frame.mono).then s.gateOpened.trainAll_frame
  · exact .refl _ _ s

/-- Whether an image runs is no matter of the boot gate. -/
theorem Dev.openGate_booted (s : Dev) : s.openGate.st.booted = s.st.booted := by
  rw [Dev.openGate_eq]
  split
  · have h : s.gateOpened.trainAll.st = s.gateOpened.st := s.gateOpened.trainAll_frame.part .st
    rw [h]
    rfl
  · rfl

/-- What a pm.set that waits for its state is answered with, when it is reached. -/
def Dev.pmAnswer (s : Dev) : Dev := match s.pm.mb with
  | some (mb, r) =>
    if s.pm.reqPend.isNone ∧ s.rd F.PM_STAT_REQ < 3 ∧ s.rd F.PM_STAT_STATE = s.pmGoal ∧ s.rd F.PM_STAT_OP = s.opWant then
      (s.ok mb (s.pmResp r)).setPm (fun p => { p with mb := none })
    else s
  | none => s

theorem Dev.pmCheck_eq (s : Dev) : s.pmCheck = s.openGate.pmAnswer.wrB F.PM_STAT_SEQ s.openGate.pmAnswer.pmBusy := rfl

theorem Dev.pmAnswer_frame (s : Dev) : Dev.Frame [] [.pm, .mbx] s s.pmAnswer := by
  unfold Dev.pmAnswer
  split
  · split
    · exact ((Dev.Frame.refl _ _ s).ok _ _).setPm _
    · exact .refl _ _ s
  · exact .refl _ _ s

theorem Dev.pmCheck_frame (s : Dev) : Dev.Frame pmWindows pmParts s s.pmCheck := by
  rw [Dev.pmCheck_eq]
  exact ((s.openGate_frame.mono).then (Dev.pmAnswer_frame _)).wrB _ _

theorem Dev.pmCheck_booted (s : Dev) : s.pmCheck.st.booted = s.st.booted := by
  rw [Dev.pmCheck_eq]
  exact (congrArg St.booted (s.openGate.pmAnswer_frame.part .st)).trans s.openGate_booted

theorem Dev.pmStep_frame (s : Dev) : Dev.Frame pmWindows pmParts s s.pmStep := (s.pmPoint_frame.mono).then (Dev.pmCheck_frame _)

theorem Dev.pmStep_booted (s : Dev) : s.pmStep.st.booted = s.st.booted :=
  (Dev.pmCheck_booted _).trans (congrArg St.booted (s.pmPoint_frame.part .st))

end Sys2Proof.Machine
end

section
-- One proof after another: in parallel the proofs of this text would not fit the memory that its check allows.
set_option Elab.async false
/-!
PROOFS. The host interface (11): its reset, the link that comes up, an unmasked vector.
-/
namespace Sys2Proof.Machine

/-- A block whose table of trace rings lists ring 0 twice, the entry that a read returns at its default. -/
def twiceListed : State :=
  { State.reset with dev := { State.reset.dev with trc := { State.reset.dev.trc with rings := [(0, {}), (0, { dropNoted := true })] } } }

end Sys2Proof.Machine

namespace Sys2Proof.Proofs
open Sys2Proof.Machine

/-- Refutes O5: its clause on the trace rings asks every state that DROP stands as before under each ring, and a table that lists a ring
twice loses the first entry, here the default, so that the second is read. No step of the block makes such a table. -/
theorem not_hostInterfaceReset : ¬ Obligations.HostInterfaceReset := by
  unfold Obligations.HostInterfaceReset
  intro h
  obtain ⟨t, ht, -, -, -, -, -, -, -, -, -, -, -, hrings, -⟩ := h twiceListed .flr rfl _ (.inl rfl)
  have hnoted : ((twiceListed.fresh.hiCause .flr).dev.trc.rings.get 0).dropNoted = true := by decide
  have hexec : exec (.hostInterfaceReset .flr) twiceListed = .next (twiceListed.fresh.hiCause .flr) := rfl
  cases hexec.symm.trans ht
  rw [hrings 0] at hnoted
  exact absurd hnoted (by decide)

end Sys2Proof.Proofs

namespace Sys2Proof.Machine

/-! ### Bits of a word -/

theorem clrBit_le (v b : Nat) : clrBit v b ≤ v := by
  unfold clrBit
  split
  · exact Nat.sub_le v _
  · exact le_refl v

theorem bit_clrBit_self (v b : Nat) : bit (clrBit v b) b = false := by
  unfold clrBit
  split
  · next h =>
    have hodd : v / 2 ^ b % 2 = 1 := by simpa [bit] using h
    have hdiv : (v - 2 ^ b) / 2 ^ b = v / 2 ^ b - 1 := by simpa using Nat.sub_mul_div v (2 ^ b) 1
    simp only [bit, hdiv, beq_eq_false_iff_ne]
    omega
  · next h => simpa using h

theorem bit_setBit_self (v b : Nat) : bit (setBit v b) b = true := by
  unfold setBit
  split
  · assumption
  · next h =>
    have hdiv : (v + 2 ^ b) / 2 ^ b = v / 2 ^ b + 1 := Nat.add_div_right v (Nat.two_pow_pos b)
    simp only [bit, beq_iff_eq, hdiv] at h ⊢
    omega

theorem bit_eq_testBit (v b : Nat) : bit v b = v.testBit b := by
  rw [Nat.testBit_eq_decide_div_mod_eq]
  rfl

theorem bit_ofNat (n v : Nat) {b : Nat} (h : b < n) : bit (BitVec.ofNat n v).toNat b = bit v b := by
  simp [bit_eq_testBit, BitVec.toNat_ofNat, Nat.testBit_mod_two_pow, h]

/-- The word with a bit cleared has it clear. -/
theorem bit_ofNat_clrBit (w : Word) (b : Nat) : bit (BitVec.ofNat 32 (clrBit w.toNat b)).toNat b = false := by
  have hlt : clrBit w.toNat b < 2 ^ 32 := lt_of_le_of_lt (clrBit_le _ b) w.isLt
  rw [BitVec.toNat_ofNat, Nat.mod_eq_of_lt hlt, bit_clrBit_self]

/-! ### The link comes up (14 R326) -/

/-- The pins with the link up. -/
def Pins.linked (p : Pins) : Pins := { p with perstN := true, wakeN := true }

/-- Up to its pins and the message of the one it drives, a link that comes up writes its speed and width, and the function is in D0. -/
theorem Dev.linkUp_eq {s : Dev} {speed width : Nat} (hc : s.coreUp = true) (h1 : 1 ≤ speed) (h2 : speed ≤ s.hif.fn.maxSpeed.toNat) :
    ∃ l, s.linkUp speed width = ({ (((s.dState false).wr F.HIF_STAT_LINK_SPD speed).wr F.HIF_STAT_LINK_W width) with
      pins := s.pins.linked }).setTx l := by
  have hgo : (s.coreUp && decide (1 ≤ speed) && decide (speed ≤ s.hif.fn.maxSpeed.toNat)) = true := by simp [hc, h1, h2]
  unfold Dev.linkUp
  rw [if_pos hgo]
  cases hw : s.pins.wakeN with
  | true =>
    have hp : s.pins.linked = { s.pins with perstN := true } := by
      show ({ s.pins with perstN := true, wakeN := true } : Pins) = { s.pins with perstN := true, wakeN := s.pins.wakeN }
      rw [hw]
    exact ⟨s.tx, (if_pos hw).trans (by rw [hp]; rfl)⟩
  | false => exact ⟨s.tx ++ [.pin "PCIE_WAKE_N" true], (if_neg fun h => Bool.false_ne_true (hw.symm.trans h)).trans rfl⟩

/-! ### A vector is unmasked (11 R278) -/

theorem Dev.unmask_regs (v : Nat) (s : Dev) (hv : v < 64) :
    let c := 0x1000 + 16 * v + 12
    let p := 0x1800 + 4 * (v / 32)
    bit ((s.unmask v).reg c).toNat 0 = false ∧ bit ((s.unmask v).reg p).toNat (v % 32) = false ∧
      (s.unmask v).tx = s.tx ++ (if bit (s.reg p).toNat (v % 32) then [.msix v] else []) ∧
      (∀ off, off ≠ c → off ≠ p → (s.unmask v).reg off = s.reg off) ∧ Dev.Keeps [] s (s.unmask v) := by
  intro c p
  have hcp : c ≠ p := by
    simp only [c, p]
    omega
  let u := s.setReg c (BitVec.ofNat 32 (clrBit (s.reg c).toNat 0))
  have hc : bit (u.reg c).toNat 0 = false := by rw [Dev.reg_setReg_self]; exact bit_ofNat_clrBit _ _
  have hp : u.reg p = s.reg p := Dev.reg_setReg_ne s hcp _
  cases hon : bit (s.reg p).toNat (v % 32) with
  | false =>
    have heq : s.unmask v = u := if_neg (by rw [hp, hon]; decide)
    rw [heq]
    refine ⟨hc, by rw [hp, hon], by simp [u], fun off h1 _ => Dev.reg_setReg_ne s (Ne.symm h1) _, .setReg s _ _⟩
  | true =>
    have heq : s.unmask v = (u.setReg p (BitVec.ofNat 32 (clrBit (u.reg p).toNat (v % 32)))).send (.msix v) := if_pos (by rw [hp, hon])
    rw [heq]
    refine ⟨?_, ?_, by simp [u, Dev.send], fun off h1 h2 => ?_, ((Dev.Keeps.setReg s _ _).trans (.setReg u _ _)).trans (.send _ _)⟩
    · exact (congrArg (fun w : Word => bit w.toNat 0) (Dev.reg_setReg_ne u hcp.symm _)).trans hc
    · exact (congrArg (fun w : Word => bit w.toNat (v % 32)) (Dev.reg_setReg_self u p _)).trans (bit_ofNat_clrBit _ _)
    · exact (Dev.reg_setReg_ne u (Ne.symm h2) _).trans (Dev.reg_setReg_ne s (Ne.symm h1) _)

end Sys2Proof.Machine

namespace Sys2Proof.Proofs
open Sys2Proof.Machine

/-- Settles O6: the link comes up with its speed and width; an unmasked vector fires when its PBA bit was set. -/
theorem linkAndVectors : Obligations.LinkAndVectors := by
  unfold Obligations.LinkAndVectors
  intro s hrun
  refine ⟨fun speed width hcore h1 h2 => ?_, fun vec => ?_⟩
  · obtain ⟨l, hl⟩ := Dev.linkUp_eq (s := s.fresh.dev) (width := width.toNat) hcore h1 h2
    have hexec : exec (.pcieLinkUp speed width) s = .next { s with dev := s.fresh.dev.linkUp speed.toNat width.toNat } :=
      State.onDev_next s _ hrun
    rw [hl] at hexec
    refine ⟨_, hexec, ?_, ?_, rfl, rfl, .of ?_ ?_⟩
    · show (((s.fresh.dev.dState false).wr F.HIF_STAT_LINK_SPD speed.toNat).wr F.HIF_STAT_LINK_W width.toNat).rd F.HIF_STAT_LINK_SPD = _
      rw [Dev.rd_wr_apart _ _ _ _ (by decide) (by decide), Dev.rd_wr_self _ _ _ (by decide)]
      exact Nat.mod_eq_of_lt speed.isLt
    · refine (Dev.rd_wr_self _ _ _ (by decide)).trans (Nat.mod_eq_of_lt width.isLt)
    · exact (((Dev.RegsAs.of_regs (d := s.dev) (t := s.fresh.dev.dState false) rfl).wr _ _).wr _ _).trans (.of_regs rfl)
    · exact ((Dev.Keeps.wr _ _ _).trans (.wr _ _ _)).symm.all.trans (.trans ((Dev.Frame.refl [0] [.hif, .pins] s.fresh.dev).hif _ |>.wr _ _ |>.wr _ _ |>.pins _).keeps (.setTx _ _ _))
  · have hexec : exec (.msixUnmask vec) s = .next { s with dev := s.fresh.dev.unmask vec.toNat } := State.onDev_next s _ hrun
    obtain ⟨hc, hp, htx, hreg, hkeep⟩ := s.fresh.dev.unmask_regs vec.toNat vec.isLt
    exact ⟨_, hexec, hc, hp, htx, hreg, (Dev.Keeps.setTx [] [] s.dev).trans hkeep, .onDev s _⟩

end Sys2Proof.Proofs
end

section
-- One proof after another: in parallel the proofs of this text would not fit the memory that its check allows.
set_option Elab.async false
/-!
PROOFS. The stewards (11 R280, R283, 13 R299): STATE and its vector, what a restart abandons and answers, and a start that chooses an image.
-/
namespace Sys2Proof.Machine

/-! ### STATE (R278, R283) -/

/-- Below the MSI-X table a vector changes no register. -/
theorem Dev.msix_reg (s : Dev) (v : Nat) {off : Nat} (h : off < 0x1800) : (s.msix v).reg off = s.reg off := by
  unfold Dev.msix
  split
  · exact Dev.reg_setReg_ne s (by omega) _
  · rfl

theorem Dev.msix_rd (s : Dev) (v : Nat) {f : Fld} (h : f.reg < 0x1800) : (s.msix v).rd f = s.rd f := by
  simp only [Dev.rd, s.msix_reg v h]

theorem Dev.stTo_state (s : Dev) {st : Nat} (h : st < 4) : (s.stTo st).rd F.HIF_ST_STAT_STATE = st := by
  unfold Dev.stTo
  split
  · assumption
  · rw [Dev.msix_rd _ _ (by decide), Dev.rd_wr_self _ _ _ rfl]
    exact Nat.mod_eq_of_lt h

theorem Dev.stTo_rd (s : Dev) (st : Nat) {f : Fld} (hf : F.HIF_ST_STAT_STATE.apart f = true) (h : f.reg < 0x1800) :
    (s.stTo st).rd f = s.rd f := by
  unfold Dev.stTo
  split
  · rfl
  · rw [Dev.msix_rd _ _ h, Dev.rd_wr_apart _ _ _ _ rfl hf]

theorem Dev.stTo_reg (s : Dev) (st : Nat) {off : Nat} (hf : R.HIF_ST_STAT ≠ off) (h : off < 0x1800) : (s.stTo st).reg off = s.reg off := by
  unfold Dev.stTo
  split
  · rfl
  · rw [Dev.msix_reg _ _ h, Dev.reg_wr_ne _ hf]

theorem Dev.stTo_frame (s : Dev) (st : Nat) : Dev.Frame [0] [] s (s.stTo st) := by
  unfold Dev.stTo
  split
  · exact .refl _ _ s
  · exact ((Dev.Frame.refl _ _ s).wr _ _).then (Dev.msix_frame _ (by decide))

/-! ### What a restart abandons -/

/-- Parts that a restart's abandoning may reach. -/
def abandonParts : List Part := [.vl, .gl, .cal, .de, .evq, .fc, .freeCtr, .trc, .mbx, .bm, .le, .nv, .pm, .tw]

/-- Calibration, captures and the record write are abandoned. -/
def Dev.workDropped (s : Dev) : Dev := (((s.orphan (fun _ => true)).abortRuns (fun _ => true)).abortCaps (fun _ => true)).nvAbandon

/-- The stewards' own queues are empty. -/
def Dev.queuesEmpty (s : Dev) : Dev :=
  { s with nv := { s.nv with queue := [] },
           cal := { s.cal with stints := s.cal.stints.map (fun (t : Stint) => { t with stopReq := true }) },
           fc := { s.fc with lines := s.fc.lines.filter (fun x => x.line.hw) }, mbx := [] }

theorem Dev.abandon_eq (s : Dev) : s.abandon =
    Dev.when (s.nv.cur.isSome || s.recordMb.isSome || s.mbx.any (fun x => x.2.cmd == 0x0101 && x.2.taken)) (Dev.masterReset 3)
      (s.workDropped.queuesEmpty.nvDepth.masterReset 0) := rfl

theorem Dev.workDropped_frame (s : Dev) : Dev.Frame (16 :: runWindows) abandonParts s s.workDropped :=
  ((((s.orphan_frame _).mono).then (Dev.abortRuns_frame _ _)).then (Dev.abortCaps_frame _ _)).then (Dev.nvAbandon_frame _)

theorem Dev.queuesEmpty_frame (s : Dev) : Dev.Frame [] [.nv, .cal, .fc, .mbx] s s.queuesEmpty :=
  (Dev.Frame.refl _ _ s).fields rfl fun p hp => by cases p <;> first | exact absurd (by decide) hp | rfl

/-- After the queues are emptied only the drains follow, and the depth. -/
theorem Dev.abandon_after (s : Dev) : Dev.Frame [16, 17] [.bm] s.workDropped.queuesEmpty s.abandon := by
  rw [Dev.abandon_eq]
  have h : Dev.Frame [16, 17] [.bm] s.workDropped.queuesEmpty (s.workDropped.queuesEmpty.nvDepth.masterReset 0) :=
    ((Dev.nvDepth_frame _).mono).then (Dev.masterReset_frame 0 _)
  exact h.when' _ ((Dev.masterReset_frame 3 _).mono)

theorem Dev.abandon_frame (s : Dev) : Dev.Frame (16 :: runWindows) abandonParts s s.abandon :=
  ((s.workDropped_frame).then s.workDropped.queuesEmpty_frame).then s.abandon_after

theorem Dev.abortCaps_all (s : Dev) : (s.abortCaps (fun _ => true)).cal.caps = [] := by
  have h : ∀ (l : List Cap) (d : Dev), (Dev.each l (fun s c => s.refuse c.mb 3) d).cal = d.cal := fun l d =>
    (Dev.Frame.each (w := []) (l := [.mbx]) l _ d fun e c _ => (Dev.Frame.refl _ _ e).refuse _ _).part .cal
  unfold Dev.abortCaps
  rw [(Dev.calStat_frame _).part .cal, h]
  simp

theorem Dev.abandon_caps (s : Dev) : s.abandon.cal.caps = [] := by
  have h1 : s.abandon.cal = s.workDropped.queuesEmpty.cal := s.abandon_after.part .cal
  have h2 : s.workDropped.cal = (((s.orphan (fun _ => true)).abortRuns (fun _ => true)).abortCaps (fun _ => true)).cal :=
    (Dev.nvAbandon_frame _).part .cal
  rw [h1]
  show s.workDropped.cal.caps = []
  rw [h2, Dev.abortCaps_all]

theorem Dev.abandon_nv (s : Dev) : s.abandon.nv.queue = [] ∧ s.abandon.nv.cur = none := by
  have h1 : s.abandon.nv = s.workDropped.queuesEmpty.nv := s.abandon_after.part .nv
  rw [h1]
  exact ⟨rfl, Dev.nvAbandon_cur _⟩

/-! ### What a restart answers -/

/-- The response of a mailbox whose command a restart ended: of a load, as loads tell it. -/
def restartAnswer (m : List Host.Cell) (i : Nat) (load : Bool) : Prop :=
  Memory.read m (respArea i) = 7 ∧ leNat (Memory.readBytes m (respArea i + 8) 4) = if load then 0x0A03 else 0

/-- One BUSY mailbox is answered. -/
def State.restartedOne (x : Nat × Bool) (s : State) : State :=
  if x.2 then s.respond x.1 7 0x0A03 0xFFFFFFFF (({ code := 0x0A03 } : LoadErr).bytes 0) else s.respond x.1 7 0 0xFFFFFFFF []

theorem State.restarted_cons (x : Nat × Bool) (l : List (Nat × Bool)) (s : State) :
    State.restarted (x :: l) s = State.restarted l (s.restartedOne x) := rfl

theorem State.restartedOne_eq (x : Nat × Bool) (s : State) : ∃ d pl, pl.length ≤ 16 ∧ d = (if x.2 then 0x0A03 else 0) ∧
    s.restartedOne x = s.respond x.1 7 d 0xFFFFFFFF pl := by
  unfold State.restartedOne
  split
  · exact ⟨_, _, by simp [LoadErr.bytes, toLe_length], rfl, rfl⟩
  · exact ⟨_, _, by simp, rfl, rfl⟩

/-- The header of a response as memory holds it. -/
theorem respond_header (s : State) (mb d : Nat) (pl : List Byte) (hd : d < 65536) :
    Memory.read (s.respond mb 7 d 0xFFFFFFFF pl).mem (respArea mb) = 7 ∧
      leNat (Memory.readBytes (s.respond mb 7 d 0xFFFFFFFF pl).mem (respArea mb + 8) 4) = d := by
  have hlen : (respHeader 7 (s.dev.rd (F.MB_STAT_TAG mb)) pl.length d 0xFFFFFFFF ++ pl).length = 16 + pl.length := by
    rw [List.length_append, respHeader_length]
  have hbyte (k : Nat) (hk : k < 16) : Memory.read (s.respond mb 7 d 0xFFFFFFFF pl).mem (respArea mb + k) =
      (respHeader 7 (s.dev.rd (F.MB_STAT_TAG mb)) pl.length d 0xFFFFFFFF).getD k 0 := by
    refine (Memory.read_writeBytes _ _ _ _).trans ((if_pos (by omega)).trans ?_)
    rw [Nat.add_sub_cancel_left, List.getD_append _ _ _ _ (by rw [respHeader_length]; exact hk)]
  have hword : Memory.readBytes (s.respond mb 7 d 0xFFFFFFFF pl).mem (respArea mb + 8) 4 = toLe 4 d := by
    simp only [Memory.readBytes, Nat.add_assoc, Nat.reduceAdd, hbyte 8 (by decide), hbyte 9 (by decide), hbyte 10 (by decide),
      hbyte 11 (by decide)]
    rfl
  exact ⟨hbyte 0 (by decide), by rw [hword, leNat_toLe]; exact Nat.mod_eq_of_lt (by omega)⟩

theorem State.restartedOne_frame {x : Nat × Bool} (hx : x.1 < 8) (s : State) :
    Dev.Frame [0, 1] [.mbx, .evq] s.dev (s.restartedOne x).dev := by
  obtain ⟨d, pl, -, -, h⟩ := s.restartedOne_eq x
  rw [h]
  exact Dev.mbDone_frame _ _ _ _ hx

/-- The marks of a mailbox that is done are in two registers of its own. -/
theorem Dev.mbMarked_rd {mb : Nat} (s : Dev) {f : Fld} (h1 : (F.MB_STAT_STATE mb).reg ≠ f.reg) (h2 : (F.MB_CMDS mb).reg ≠ f.reg) :
    (s.mbMarked mb).rd f = s.rd f := by
  simp only [Dev.rd, Dev.mbMarked, Dev.count, Dev.reg_wr_ne _ h1, Dev.reg_wr_ne _ h2]
  rfl

/-- HIF's own registers stay when a mailbox is done. -/
theorem Dev.mbDone_low {mb : Nat} (h : mb < 8) (st d : Nat) (s : Dev) {f : Fld} (hf : f.reg < 0x1000) : (s.mbDone mb st d).rd f = s.rd f := by
  have hm : (s.mbMarked mb).rd f = s.rd f := Dev.mbMarked_rd s (by simp only [F.MB_STAT_STATE]; omega) (by simp only [F.MB_CMDS]; omega)
  rw [Dev.mbDone_eq, ← hm]
  have hmsix : ∀ c : Bool, (Dev.when c (·.msix (24 + mb)) (s.mbMarked mb)).rd f = (s.mbMarked mb).rd f := fun c => by
    cases c
    · rfl
    · exact Dev.msix_rd _ _ (by omega)
  have hev : ∀ (c : Bool) (t : Dev), (Dev.when c (Dev.mbEvent mb st d) t).rd f = t.rd f := fun c t => by cases c <;> rfl
  rw [hev, hmsix]

/-- A mailbox that is answered is DONE, with its answer in memory; the others and memory outside its area stay. -/
theorem State.restartedOne_spec {x : Nat × Bool} (hx : x.1 < 8) (s : State) : (s.restartedOne x).dev.rd (F.MB_STAT_STATE x.1) = 2 ∧
    restartAnswer (s.restartedOne x).mem x.1 x.2 ∧ (s.restartedOne x).pending = s.pending ∧
    (∀ a, a < respArea x.1 ∨ respArea x.1 + 32 ≤ a → Memory.read (s.restartedOne x).mem a = Memory.read s.mem a) ∧
    (∀ i, i < 8 → i ≠ x.1 → (s.restartedOne x).dev.rd (F.MB_STAT_STATE i) = s.dev.rd (F.MB_STAT_STATE i)) ∧
    (∀ f : Fld, f.reg < 0x1000 → (s.restartedOne x).dev.rd f = s.dev.rd f) := by
  obtain ⟨d, pl, hpl, hd, h⟩ := s.restartedOne_eq x
  rw [h]
  have hd16 : d < 65536 := by
    rw [hd]
    split <;> decide
  obtain ⟨h7, hd4⟩ := respond_header s x.1 d pl hd16
  refine ⟨?_, ⟨h7, hd4.trans hd⟩, rfl, fun a ha => ?_, fun i hi hne => ?_, fun f hf => ?_⟩
  · exact (Dev.mbDone_rd hx _ _ _ _ (blockOf_mbStat hx)).trans (Dev.mbMarked_state _ _)
  · exact (s.respond_mem x.1 7 d 0xFFFFFFFF pl).2 a (by omega)
  · exact (Dev.mbDone_rd hx _ _ _ _ (blockOf_mbStat hi)).trans
      (Dev.mbMarked_rd _ (by simp only [F.MB_STAT_STATE]; omega) (by simp only [F.MB_STAT_STATE, F.MB_CMDS]; omega))
  · exact Dev.mbDone_low hx _ _ _ hf

theorem restartAnswer_congr {m m' : List Host.Cell} {i : Nat} {load : Bool} (h : restartAnswer m i load)
    (hm : ∀ a, respArea i ≤ a → a < respArea i + 4096 → Memory.read m' a = Memory.read m a) : restartAnswer m' i load := by
  obtain ⟨h1, h2⟩ := h
  refine ⟨(hm _ (by omega) (by omega)).trans h1, ?_⟩
  rwa [Memory.readBytes_congr (m := m') (m' := m) fun x _ _ => hm x (by omega) (by omega)]

section
variable {l : List (Nat × Bool)} (hl : ∀ x ∈ l, x.1 < 8) (s : State)
include hl

theorem State.restarted_frame : Dev.Frame [0, 1] [.mbx, .evq] s.dev (State.restarted l s).dev := by
  induction l generalizing s with
  | nil => exact .refl _ _ _
  | cons x r ih =>
    exact (State.restartedOne_frame (hl x List.mem_cons_self) s).trans (ih (fun y hy => hl y (List.mem_cons_of_mem x hy)) _)

theorem State.restarted_low : (State.restarted l s).pending = s.pending ∧
    (∀ f : Fld, f.reg < 0x1000 → (State.restarted l s).dev.rd f = s.dev.rd f) ∧
    (∀ a, (∀ i, i < 8 → a < respArea i ∨ respArea i + 4096 ≤ a) → Memory.read (State.restarted l s).mem a = Memory.read s.mem a) := by
  induction l generalizing s with
  | nil => exact ⟨rfl, fun _ _ => rfl, fun _ _ => rfl⟩
  | cons x r ih =>
    have hx := hl x List.mem_cons_self
    obtain ⟨-, -, hp, hm, -, hf⟩ := State.restartedOne_spec hx s
    obtain ⟨hp', hf', hm'⟩ := ih (fun y hy => hl y (List.mem_cons_of_mem x hy)) (s.restartedOne x)
    refine ⟨hp'.trans hp, fun f h => (hf' f h).trans (hf f h), fun a ha => (hm' a ha).trans (hm a ?_)⟩
    rcases ha x.1 hx with h | h
    · exact .inl h
    · exact .inr (by omega)

/-- A mailbox that is not answered keeps its state and its response area. -/
theorem State.restarted_other {i : Nat} (hi : i < 8) (hn : ∀ x ∈ l, x.1 ≠ i) :
    (State.restarted l s).dev.rd (F.MB_STAT_STATE i) = s.dev.rd (F.MB_STAT_STATE i) ∧
      ∀ a, respArea i ≤ a → a < respArea i + 4096 → Memory.read (State.restarted l s).mem a = Memory.read s.mem a := by
  induction l generalizing s with
  | nil => exact ⟨rfl, fun _ _ _ => rfl⟩
  | cons x r ih =>
    have hx := hl x List.mem_cons_self
    have hne := hn x List.mem_cons_self
    obtain ⟨-, -, -, hm, hst, -⟩ := State.restartedOne_spec hx s
    obtain ⟨hst', hm'⟩ := ih (fun y hy => hl y (List.mem_cons_of_mem x hy)) (s.restartedOne x)
      (fun y hy => hn y (List.mem_cons_of_mem x hy))
    refine ⟨hst'.trans (hst i hi (Ne.symm hne)), fun a h1 h2 => (hm' a h1 h2).trans (hm a ?_)⟩
    simp only [respArea] at *
    omega

theorem State.restarted_done (hnd : (l.map Prod.fst).Nodup) {x : Nat × Bool} (hx : x ∈ l) :
    (State.restarted l s).dev.rd (F.MB_STAT_STATE x.1) = 2 ∧ restartAnswer (State.restarted l s).mem x.1 x.2 := by
  induction l generalizing s with
  | nil => cases hx
  | cons y r ih =>
    have hr : ∀ z ∈ r, z.1 < 8 := fun z hz => hl z (List.mem_cons_of_mem y hz)
    rw [List.map_cons, List.nodup_cons] at hnd
    rw [State.restarted_cons]
    rcases List.mem_cons.mp hx with rfl | hx
    · obtain ⟨h2, hans, -⟩ := State.restartedOne_spec (hl x List.mem_cons_self) s
      obtain ⟨hst, hm⟩ := State.restarted_other hr (s.restartedOne x) (hl x List.mem_cons_self)
        (fun z hz he => hnd.1 (List.mem_map.mpr ⟨z, hz, he⟩))
      exact ⟨hst.trans h2, restartAnswer_congr hans hm⟩
    · exact ih hr (s.restartedOne y) hnd.2 hx

end

/-! ### The restart (R283) -/

/-- The registers and records of a restart. -/
theorem Dev.restartRegs_spec (wdog : Bool) (s : Dev) : let t := s.restartRegs wdog
    t.rd F.HIF_ST_STAT_STATE = 1 ∧ t.on F.HIF_ST_STAT_WARM = true ∧
      t.rd F.HIF_ST_STAT_RESTARTS = (s.rd F.HIF_ST_STAT_RESTARTS + 1) % 256 ∧ t.on F.HIF_EVT_ST_RESTART = true ∧
      t.on F.HIF_EVT_WDOG = s.on F.HIF_EVT_WDOG ∧ t.st.booted = false ∧ Dev.Frame [0] [.evq, .st] s t := by
  intro t
  let v := (Dev.when wdog (·.stewardMsg 4) s).stewardMsg 3
  have hv : Dev.Frame [0] [.evq, .st] s v := ((Dev.Frame.refl _ _ s).when' _ ((Dev.Frame.refl _ _ s).stewardMsg _)).stewardMsg _
  have hr : Dev.RegsAs s v := .of_regs (by simp only [v]; cases wdog <;> rfl)
  let x := ((v.stTo 1).wrB F.HIF_ST_STAT_WARM true).wr F.HIF_ST_STAT_RESTARTS (v.rd F.HIF_ST_STAT_RESTARTS + 1)
  have ht : t = ({ x with st := { x.st with booted := false } } : Dev).event F.HIF_EVT_ST_RESTART := rfl
  have hx : Dev.Frame [0] [.evq, .st] s x := ((hv.then (v.stTo_frame 1)).wrB _ _).wr _ _
  have hrd (f : Fld) (hf : F.HIF_EVT_ST_RESTART.apart f = true) : t.rd f = x.rd f := by
    rw [ht, Dev.rd_event_apart _ _ _ rfl hf]
    rfl
  refine ⟨?_, ?_, ?_, ?_, ?_, ?_, ?_⟩
  · rw [hrd _ rfl, Dev.rd_wr_apart _ _ _ _ rfl rfl, Dev.wrB, Dev.rd_wr_apart _ _ _ _ rfl rfl, Dev.stTo_state _ (by decide)]
  · rw [Dev.on, hrd _ rfl, Dev.rd_wr_apart _ _ _ _ rfl rfl, Dev.wrB, Dev.rd_wr_self _ _ _ rfl]
    rfl
  · rw [hrd _ rfl, Dev.rd_wr_self _ _ _ rfl, hr.rd]
    rfl
  · rw [ht]
    exact Dev.on_event_self _ _ rfl rfl
  · rw [Dev.on, hrd _ rfl, Dev.rd_wr_apart _ _ _ _ rfl rfl, Dev.wrB, Dev.rd_wr_apart _ _ _ _ rfl rfl, Dev.stTo_rd _ _ rfl (by decide), hr.rd]
    rfl
  · rw [ht]
    exact congrArg St.booted (Dev.Keeps.event _ _ .st (by decide))
  · rw [ht]
    exact (hx.st _).event _

/-- The mailboxes that a restart finds BUSY, each with whether a load is in progress there. -/
def Dev.busyList (s : Dev) : List (Nat × Bool) :=
  ((List.range 8).filter (fun i => s.rd (F.MB_STAT_STATE i) == 1)).map (fun i =>
    (i, (s.mbx.get i).cmd == 0x0101 && (s.mbx.get i).ready.isNone))

theorem Dev.busyList_lt (s : Dev) : ∀ x ∈ s.busyList, x.1 < 8 := by
  intro x hx
  obtain ⟨i, hi, rfl⟩ := List.mem_map.mp hx
  exact List.mem_range.mp (List.mem_of_mem_filter hi)

theorem Dev.busyList_nodup (s : Dev) : (s.busyList.map Prod.fst).Nodup := by
  have h : s.busyList.map Prod.fst = (List.range 8).filter (fun i => s.rd (F.MB_STAT_STATE i) == 1) := by
    simp [Dev.busyList, List.map_map, Function.comp_def]
  rw [h]
  exact List.nodup_range.filter _

theorem Dev.mem_busyList {s : Dev} {i : Nat} (hi : i < 8) (hb : s.rd (F.MB_STAT_STATE i) = 1) :
    (i, (s.mbx.get i).cmd == 0x0101 && (s.mbx.get i).ready.isNone) ∈ s.busyList :=
  List.mem_map.mpr ⟨i, List.mem_filter.mpr ⟨List.mem_range.mpr hi, by simp [hb]⟩, rfl⟩

theorem State.restart_eq (wdog : Bool) {u : State} (h : u.dev.rd F.HIF_ST_STAT_STATE ≠ 0) :
    u.restart wdog = (State.restarted u.dev.busyList (u.mapDev Dev.abandon)).mapDev (Dev.restartRegs wdog) :=
  if_pos (by simpa [Dev.stRuns] using h)

/-- What a restart of running stewards leaves. -/
structure Restarted (u t : State) : Prop where
  state : t.dev.rd F.HIF_ST_STAT_STATE = 1
  warm : t.dev.on F.HIF_ST_STAT_WARM = true
  restarts : t.dev.rd F.HIF_ST_STAT_RESTARTS = (u.dev.rd F.HIF_ST_STAT_RESTARTS + 1) % 256
  event : t.dev.on F.HIF_EVT_ST_RESTART = true
  wdog : t.dev.on F.HIF_EVT_WDOG = u.dev.on F.HIF_EVT_WDOG
  booted : t.dev.st.booted = false
  answers : ∀ i, i < 8 → u.dev.rd (F.MB_STAT_STATE i) = 1 → t.dev.rd (F.MB_STAT_STATE i) = 2 ∧
    restartAnswer t.mem i ((u.dev.mbx.get i).cmd == 0x0101 && (u.dev.mbx.get i).ready.isNone)
  queue : t.dev.nv.queue = []
  cur : t.dev.nv.cur = none
  caps : t.dev.cal.caps = []
  keeps : Dev.Keeps (.st :: abandonParts) u.dev t.dev
  pending : t.pending = u.pending
  mem : ∀ a, (∀ i, i < 8 → a < respArea i ∨ respArea i + 4096 ≤ a) → Memory.read t.mem a = Memory.read u.mem a

theorem State.restart_restarted (wdog : Bool) {u : State} (h : u.dev.rd F.HIF_ST_STAT_STATE ≠ 0) : Restarted u (u.restart wdog) := by
  rw [State.restart_eq wdog h]
  let a := u.mapDev Dev.abandon
  let r := State.restarted u.dev.busyList a
  have ha : Dev.Frame (16 :: runWindows) abandonParts u.dev a.dev := u.dev.abandon_frame
  have hr : Dev.Frame [0, 1] [.mbx, .evq] a.dev r.dev := State.restarted_frame u.dev.busyList_lt a
  obtain ⟨hp, hlow, hmem⟩ := State.restarted_low u.dev.busyList_lt a
  obtain ⟨h1, h2, h3, h4, h5, h6, hf⟩ := Dev.restartRegs_spec wdog r.dev
  have hcal : r.dev.cal = a.dev.cal := hr.part .cal
  have hnv : r.dev.nv = a.dev.nv := hr.part .nv
  have hcal' : (r.dev.restartRegs wdog).cal = r.dev.cal := hf.part .cal
  have hnv' : (r.dev.restartRegs wdog).nv = r.dev.nv := hf.part .nv
  obtain ⟨hq, hc⟩ := u.dev.abandon_nv
  refine ⟨h1, h2, h3.trans ?_, h4, h5.trans ?_, h6, fun i hi hb => ?_, ?_, ?_, ?_, ?_, hp, hmem⟩
  · rw [hlow _ (by decide), ha.rd F.HIF_ST_STAT_RESTARTS]
  · rw [Dev.on, hlow _ (by decide), ha.rd F.HIF_EVT_WDOG]
    rfl
  · obtain ⟨hs, hans⟩ := State.restarted_done u.dev.busyList_lt a u.dev.busyList_nodup (Dev.mem_busyList hi hb)
    exact ⟨(hf.rd (F.MB_STAT_STATE i) (by rw [show blockOf (F.MB_STAT_STATE i).reg = 1 from blockOf_mbStat hi]; decide)).trans hs, hans⟩
  · exact (congrArg Nv.queue (hnv'.trans hnv)).trans hq
  · exact (congrArg Nv.cur (hnv'.trans hnv)).trans hc
  · exact (congrArg Cal.caps (hcal'.trans hcal)).trans u.dev.abandon_caps
  · exact (ha.keeps.mono (by decide)).trans ((hr.keeps.mono (by decide)).trans (hf.keeps.mono (by decide)))

/-! ### The commands that restart the stewards -/

theorem Dev.store_frame (off v : Nat) (s : Dev) : Dev.Frame [blockOf off] [.fc] s (s.store off v) := by
  unfold Dev.store
  split
  · exact ((Dev.Frame.refl _ _ s).setReg _ _ (List.mem_singleton.mpr rfl)).when' _ ((Dev.Frame.refl _ _ _).raise _ _ _ _ _)
  · exact .refl _ _ s

theorem Dev.store_reg_ne {off k : Nat} (h : off ≠ k) (v : Nat) (s : Dev) : (s.store off v).reg k = s.reg k := by
  have hset (w : Word) (c : Bool) : (Dev.when c (Dev.reservedNote off) (s.setReg off w)).reg k = s.reg k := by
    rw [← Dev.reg_setReg_ne s h w]
    cases c <;> rfl
  unfold Dev.store
  split
  · exact hset _ _
  · rfl

/-- What a restarting command has done before the restart: counted, noted, or stored HIF_ST_CTL. -/
structure BeforeRestart (s u : State) : Prop where
  frame : Dev.Frame [0, 21] [.bm, .evq, .fc] s.fresh.dev u.dev
  stat : u.dev.reg R.HIF_ST_STAT = s.dev.reg R.HIF_ST_STAT
  mem : u.mem = s.mem
  pending : u.pending = s.pending

theorem exec_stewardRestart {s : State} {via : Via} (hrun : Running s) (v : Word) (hd : via ≠ .debug) (ho : via ≠ .operator)
    (hs : s.dev.viaShut via R.HIF_ST_CTL true = false) (hsvc : s.dev.svcShut via R.HIF_ST_CTL = false) :
    ∃ u, BeforeRestart s u ∧ exec (.stewardRestart via v) s = .next (u.restart false) := by
  let d := s.fresh.dev.t6 via R.HIF_ST_CTL true
  have hd6 : Dev.Frame [21] [.bm] s.fresh.dev d := Dev.t6_frame via _ true _
  let w : Word := BitVec.ofNat 32 (setBit v.toNat 0)
  have hbit : bit w.toNat 0 = true := (bit_ofNat 32 _ (by decide)).trans (bit_setBit_self _ 0)
  have hn : ¬(s.fresh.dev.viaShut via R.HIF_ST_CTL true ∨ s.fresh.dev.svcShut via R.HIF_ST_CTL ∨ 1 < viaPl via) := by
    rintro (h | h | h)
    · exact Bool.false_ne_true (hs.symm.trans h)
    · exact Bool.false_ne_true (hsvc.symm.trans h)
    · cases via <;> first | exact hd rfl | exact ho rfl | exact absurd h (by decide)
  have hexec : exec (.stewardRestart via v) s = .next (({ s with dev := d } : State).stPut w) :=
    (State.onAll_next s _ hrun).trans (congrArg _ (if_neg hn))
  refine ⟨{ s with dev := d.store R.HIF_ST_CTL w.toNat }, ⟨(hd6.mono).then (Dev.store_frame R.HIF_ST_CTL w.toNat d), ?_, rfl, rfl⟩, ?_⟩
  · exact (Dev.store_reg_ne (by decide) _ d).trans (hd6.within R.HIF_ST_STAT (by decide))
  · exact hexec.trans (congrArg _ (if_pos hbit))

theorem exec_lockup {s : State} (hrun : Running s) (core : BitVec 2) (h0 : s.dev.rd F.HIF_ST_STAT_STATE ≠ 0) :
    ∃ u, BeforeRestart s u ∧ exec (.lockup core) s = .next (u.restart false) :=
  ⟨s.fresh.mapDev (·.raise 0x0402 1 (srcWord 4) core.toNat), ⟨(Dev.Frame.refl _ _ _).raise _ _ _ _ _, rfl, rfl, rfl⟩,
    (State.onAll_next s _ hrun).trans (congrArg _ (if_pos (bne_iff_ne.mpr h0)))⟩

theorem exec_watchdog {s : State} (hrun : Running s) (h0 : s.dev.rd F.HIF_ST_STAT_STATE ≠ 0) (hon : s.dev.on F.HIF_ST_CTL_WDOG_RST = true) :
    ∃ u, BeforeRestart s u ∧ u.dev.on F.HIF_EVT_WDOG = true ∧ exec .watchdogExpiry s = .next (u.restart true) := by
  let u : State := s.fresh.mapDev (fun d => (d.event F.HIF_EVT_WDOG).raise 0x0401 1 (srcWord 4))
  have hu : u.dev.on F.HIF_ST_CTL_WDOG_RST = true := by
    refine (congrArg (· == 1) (Dev.rd_event_apart s.fresh.dev F.HIF_EVT_WDOG F.HIF_ST_CTL_WDOG_RST rfl rfl)).trans hon
  refine ⟨u, ⟨((Dev.Frame.refl _ _ _).event _).raise _ _ _ _ _, Dev.reg_event_ne _ (by decide), rfl, rfl⟩, Dev.on_event_self s.fresh.dev F.HIF_EVT_WDOG rfl rfl, ?_⟩
  exact (State.onAll_next s _ hrun).trans (congrArg _ ((if_pos (bne_iff_ne.mpr h0)).trans (if_pos hu)))

/-! ### A start (R280, 16 R363) -/

/-- From s to t a boot's steps may write the blocks that they load; NV_STAT stays, and the image runs as before. -/
structure Dev.Boots (s t : Dev) : Prop where
  within : Dev.Within [6, 11, 12, 13, 14, 15, 16, 17, 19, 20, 21] s t
  stat : t.reg R.NV_STAT = s.reg R.NV_STAT
  booted : t.st.booted = s.st.booted

namespace Dev.Boots

theorem trans {s t u : Dev} (h : Dev.Boots s t) (k : Dev.Boots t u) : Dev.Boots s u :=
  ⟨h.within.trans k.within, k.stat.trans h.stat, k.booted.trans h.booted⟩

/-- Registers outside NV change, the image does not. -/
theorem of_frame {w : List Nat} {l : List Part} {s t : Dev} (h : Dev.Frame w l s t)
    (hw : ∀ b ∈ w, b ∈ [6, 11, 12, 13, 14, 15, 16, 17, 19, 20, 21] := by decide) (hn : 16 ∉ w := by decide) (hl : Part.st ∉ l := by decide) :
    Dev.Boots s t := ⟨h.within.mono hw, h.within _ hn, congrArg St.booted (h.keeps .st hl)⟩

theorem refl (s : Dev) : Dev.Boots s s := ⟨.refl _ s, rfl, rfl⟩

theorem ident (l : List Byte) (s : Dev) : Dev.Boots s (s.bootIdent l) := by
  refine .of_frame (w := [13, 14]) (l := [.hif]) (((Dev.Frame.refl _ _ s).hif _).trans (.each _ _ _ fun d p _ => ?_))
  cases p
  · exact ((Dev.Frame.refl _ _ d).wr (rpFld .rpa F.RPA_MAC_LO) _).wr (rpFld .rpa F.RPA_MAC_HI) _
  · exact ((Dev.Frame.refl _ _ d).wr (rpFld .rpb F.RPA_MAC_LO) _).wr (rpFld .rpb F.RPA_MAC_HI) _

theorem isense (l : List Byte) (s : Dev) : Dev.Boots s (s.bootIsense l) := .of_frame (w := []) (l := [.cal]) ((Dev.Frame.refl _ _ s).cal _)

theorem fit (l : List Byte) (s : Dev) : Dev.Boots s (s.bootFit l) :=
  .of_frame (w := [20]) (l := []) (((Dev.Frame.refl _ _ s).wr _ _).wr _ _)

/-- The lane registers of CAL. -/
theorem calReg_mem {a k : Nat} {w : List Nat} (h1 : 0xF1000 ≤ a) (h2 : a < 0xF1010) (hk : k < 128) (hw : 15 ∈ w) : blockOf (a + 0x10 * k) ∈ w := by
  have h : blockOf (a + 0x10 * k) = 15 := by
    simp only [blockOf]
    omega
  rwa [h]

theorem ts (l : List Byte) (s : Dev) : Dev.Boots s (s.bootTs l) := by
  have h : Dev.Frame [6, 15] [] s (Dev.each (List.range 128) (fun s i =>
      ((s.wr (F.CAL_LTXLAT i) (Config.calTsField 0 i l).toNat).wr (F.CAL_LRXLAT i) (Config.calTsField 1 i l).toNat).wr (F.VL_LASYM i)
        (Config.calTsField 2 i l).toNat) s) := .each _ _ s fun d i hi => by
    have hi := List.mem_range.mp hi
    exact (((Dev.Frame.refl _ _ d).wr (F.CAL_LTXLAT i) _ (calReg_mem (by decide) (by decide) hi (by decide))).wr (F.CAL_LRXLAT i) _
      (calReg_mem (by decide) (by decide) hi (by decide))).wr (F.VL_LASYM i) _ (laneReg_mem (by decide) (by decide) hi (by decide))
  exact .of_frame ((((h.wr _ _).wr _ _).wr _ _).wr _ _)

theorem lanes (l : List Byte) (s : Dev) : Dev.Boots s (s.bootLanes l) :=
  .of_frame (w := [15]) (l := []) (.each _ _ s fun d i hi => by
    have hi := List.mem_range.mp hi
    exact ((Dev.Frame.refl _ _ d).setReg (R.CAL_LRX0 i) _ (calReg_mem (by decide) (by decide) hi (by decide))).setReg (R.CAL_LRX1 i) _
      (calReg_mem (by decide) (by decide) hi (by decide)))

theorem lost (o : Nat) (s : Dev) : Dev.Boots s (s.bootLost o) := by
  unfold Dev.bootLost
  split
  · exact ⟨((Dev.Within.event s F.NV_EVT_LOST (by decide)).trans (.of_regs rfl)), Dev.reg_event_ne s (by decide),
      congrArg St.booted (Dev.Keeps.event s F.NV_EVT_LOST .st (by decide))⟩
  · exact refl s

theorem load (o : Nat) {f : List Byte → Dev → Dev} (hf : ∀ l s, Dev.Boots s (f l s)) (s : Dev) : Dev.Boots s (s.bootLoad o f) := by
  unfold Dev.bootLoad
  split
  · exact hf _ s
  · split
    · exact refl s
    · exact lost o s

theorem cold (s : Dev) : Dev.Boots s s.bootCold := by
  unfold Dev.bootCold
  extract_lets a b st c
  have ha : Dev.Boots s a := (load _ ident s).trans (load _ isense _)
  clear_value a
  have hb : Dev.Boots s b := ((ha.trans (load _ fit a)).trans (load _ ts _)).trans (load _ lanes _)
  clear_value b
  have hc : Dev.Boots s c := hb.trans ⟨.of_regs rfl, rfl, rfl⟩
  clear_value c
  have hstep := (c.setPm (fun p => { p with opReq := 0 })).pmStep_frame
  exact hc.trans ⟨(Dev.Within.mono (.of_regs rfl) (fun _ h => h)).trans (hstep.within.mono (by decide)),
    (hstep.within R.NV_STAT (by decide)), Dev.pmStep_booted _⟩

end Dev.Boots

/-- PENDING clears. -/
def Dev.shutCleared (s : Dev) : Dev := ({ s with nv := { s.nv with aon := none } }).wrB F.NV_STAT_AON_PENDING false

theorem Dev.shutCommit_eq (s : Dev) : s.shutCommit = match s.nv.aon with
    | some l => if s.nv.tripped then s else (s.nvWriteNow 0x0020 s.nextShut l).shutCleared
    | none => s := rfl

theorem Dev.shutCleared_rd {f : Fld} (ha : F.NV_STAT_AON_PENDING.apart f = true) (s : Dev) : s.shutCleared.rd f = s.rd f := by
  rw [Dev.shutCleared, Dev.wrB, Dev.rd_wr_apart _ _ _ _ rfl ha]
  rfl

theorem Dev.OnDie.rd {s t : Dev} (h : Dev.OnDie s t) {f : Fld} (hf : f.reg = R.NV_STAT) : t.rd f = s.rd f := by
  simp only [Dev.rd, hf, h.stat]

theorem Dev.shutCommit_spec (s : Dev) : Dev.Frame [16] [.nv, .bm, .evq, .fc] s s.shutCommit ∧
    ∀ f : Fld, f.reg = R.NV_STAT → F.NV_STAT_AON_PENDING.apart f = true → s.shutCommit.rd f = s.rd f := by
  rw [Dev.shutCommit_eq]
  split
  · next l _ =>
    split
    · exact ⟨.refl _ _ s, fun _ _ _ => rfl⟩
    · have h := Dev.OnDie.nvWriteNow s 0x0020 s.nextShut l
      generalize s.nvWriteNow 0x0020 s.nextShut l = u at h ⊢
      exact ⟨(h.frame.nv _).wrB _ _, fun f hf ha => (Dev.shutCleared_rd ha u).trans (h.rd hf)⟩
  · exact ⟨.refl _ _ s, fun _ _ _ => rfl⟩

/-- The recovery and the pending shut-down record of a start. -/
theorem Dev.recovered_spec (s : Dev) : Dev.Frame [16] [.nv, .bm, .evq, .fc] s s.nvRecover.shutCommit ∧
    (s.nv.tripped = false → s.nvRecover.shutCommit.on F.NV_STAT_RECOVERED = true) ∧
    s.nvRecover.shutCommit.rd F.NV_STAT_FW_SEL = s.rd F.NV_STAT_FW_SEL := by
  obtain ⟨t, ht, heq⟩ := s.nvRecover_onDie
  obtain ⟨hf, hrd⟩ := s.nvRecover.shutCommit_spec
  have hr : Dev.Frame [16] [.nv, .bm, .evq, .fc] s s.nvRecover := by
    rw [heq]
    exact ht.frame.when' _ ((Dev.Frame.refl _ _ t).wrB _ _)
  refine ⟨hr.trans hf, fun h => ?_, ?_⟩
  · rw [Dev.on, hrd _ rfl rfl, heq, ht.tripped, h]
    exact Dev.on_wrB_self t _ true rfl rfl
  · rw [hrd _ rfl rfl, heq]
    have hstat : t.rd F.NV_STAT_FW_SEL = s.rd F.NV_STAT_FW_SEL := ht.rd rfl
    rw [← hstat]
    cases !t.nv.tripped
    · rfl
    · exact Dev.rd_wr_apart _ _ _ _ rfl rfl

/-- A start from OFF has chosen the image. -/
def Dev.imageNamed (b : Bool) (s : Dev) : Dev :=
  ((s.wrB F.HIF_ST_STAT_WARM s.vl.gate).wrB F.HIF_ST_STAT_IMAGE b).wrB F.NV_STAT_FW_SEL b

/-- Its version shows, and STATE is BOOT. -/
def Dev.imageChosen (b : Bool) (s : Dev) : Dev :=
  ((s.imageNamed b).setReg R.HIF_FW_VER (BitVec.ofNat 32 (leAt ((s.imageNamed b).fwHeader b) 4 4))).stTo 1

/-- The image runs. -/
def Dev.imageRuns (b switched : Bool) (s : Dev) : Dev :=
  Dev.when switched (·.stewardMsg 6) (({ s.imageChosen b with st := { (s.imageChosen b).st with booted := true } }).bmWipe 7)

theorem Dev.stewardStart_some {s : Dev} {b : Bool} (hc : s.coreUp = true) (h0 : s.rd F.HIF_ST_STAT_STATE = 0) (hp : s.fwPick = some b) :
    ∃ sw, s.stewardStart = if (s.imageRuns b sw).nvRecover.shutCommit.vl.gate || (s.imageRuns b sw).nvRecover.shutCommit.st.raising
      then (s.imageRuns b sw).nvRecover.shutCommit else (s.imageRuns b sw).nvRecover.shutCommit.bootCold := by
  have hgo : ¬((!s.coreUp || !(s.rd F.HIF_ST_STAT_STATE == 0 || (s.rd F.HIF_ST_STAT_STATE == 1 && !s.st.booted))) = true) := by
    simp [hc, h0]
  have hw : (s.vl.gate || s.rd F.HIF_ST_STAT_STATE == 1) = s.vl.gate := by simp [h0]
  refine ⟨(s.vl.gate || s.rd F.HIF_ST_STAT_STATE == 1) && s.on F.HIF_ST_STAT_IMAGE != b, ?_⟩
  have hnamed : ((if s.rd F.HIF_ST_STAT_STATE = 0 then s.wrB F.HIF_ST_STAT_WARM (s.vl.gate || s.rd F.HIF_ST_STAT_STATE == 1) else s).wrB
      F.HIF_ST_STAT_IMAGE b).wrB F.NV_STAT_FW_SEL b = s.imageNamed b := by rw [if_pos h0, hw]; rfl
  unfold Dev.stewardStart
  extract_lets st
  rw [if_neg hgo, hp]
  dsimp -zeta only
  extract_lets switched s2 s3 x s4 s5
  have h2 : s2 = s.imageNamed b := hnamed
  have h3 : s3 = s.imageChosen b := by simp only [s3, h2, Dev.imageChosen]
  have h4 : s4 = s.imageRuns b switched := by simp only [s4, x, h3, Dev.imageRuns]
  have h5 : s5 = (s.imageRuns b switched).nvRecover.shutCommit := by simp only [s5, h4]
  have hsw : switched = ((s.vl.gate || s.rd F.HIF_ST_STAT_STATE == 1) && s.on F.HIF_ST_STAT_IMAGE != b) := rfl
  clear_value s5 switched
  rw [h5, hsw]

theorem Dev.stewardStart_none {s : Dev} (hc : s.coreUp = true) (h0 : s.rd F.HIF_ST_STAT_STATE = 0) (hp : s.fwPick = none) :
    s.stewardStart = ((s.stTo 3).event F.HIF_EVT_BOOT_FAIL).stewardMsg 5 := by
  unfold Dev.stewardStart
  simp only [hc, h0, hp, Bool.not_true, beq_self_eq_true, Bool.true_or, Bool.or_self, Bool.false_eq_true, if_false]

/-- The image's fields as its choice leaves them. -/
theorem Dev.imageNamed_spec (b : Bool) (s : Dev) : (s.imageNamed b).on F.HIF_ST_STAT_IMAGE = b ∧
    (s.imageNamed b).on F.HIF_ST_STAT_WARM = s.vl.gate ∧ (s.imageNamed b).on F.NV_STAT_FW_SEL = b := by
  unfold Dev.imageNamed
  refine ⟨?_, ?_, Dev.on_wrB_self _ _ _ rfl rfl⟩
  · refine (Dev.on_wr_apart _ _ _ _ rfl rfl).trans ?_
    exact Dev.on_wrB_self _ _ _ rfl rfl
  · refine (Dev.on_wr_apart _ _ _ _ rfl rfl).trans ((Dev.on_wr_apart _ _ _ _ rfl rfl).trans ?_)
    exact Dev.on_wrB_self _ _ _ rfl rfl

theorem Dev.imageRuns_spec (b sw : Bool) (s : Dev) : let t := s.imageRuns b sw
    t.rd F.HIF_ST_STAT_STATE = 1 ∧ t.on F.HIF_ST_STAT_IMAGE = b ∧ t.on F.HIF_ST_STAT_WARM = s.vl.gate ∧
      t.reg R.HIF_FW_VER = BitVec.ofNat 32 (leAt (s.fwHeader b) 4 4) ∧ t.on F.NV_STAT_FW_SEL = b ∧ t.st.booted = true ∧
      t.nv = s.nv := by
  intro t
  have hreg : ∀ off, t.reg off = (s.imageChosen b).reg off := fun off => by
    simp only [t, Dev.imageRuns]
    cases sw <;> rfl
  have hon (f : Fld) (hs : F.HIF_ST_STAT_STATE.apart f = true) (hf : f.reg < 0x1800 ∨ blockOf f.reg = 16) (hv : R.HIF_FW_VER ≠ f.reg) :
      t.on f = (s.imageNamed b).on f := by
    have h1 : t.rd f = (s.imageChosen b).rd f := by simp only [Dev.rd, hreg]
    rw [Dev.on, h1, Dev.imageChosen]
    rcases hf with hf | hf
    · rw [Dev.stTo_rd _ _ hs hf, Dev.rd_setReg_ne _ hv]
      rfl
    · rw [(Dev.stTo_frame _ 1).rd f (by simp [hf]), Dev.rd_setReg_ne _ hv]
      rfl
  have hpart : t.st.booted = true ∧ t.nv = (s.imageChosen b).nv := by
    simp only [t, Dev.imageRuns]
    cases sw <;> exact ⟨rfl, rfl⟩
  obtain ⟨h1, h2, h3⟩ := s.imageNamed_spec b
  refine ⟨?_, (hon _ rfl (.inl (by decide)) (by decide)).trans h1, (hon _ rfl (.inl (by decide)) (by decide)).trans h2, ?_,
    (hon _ rfl (.inr rfl) (by decide)).trans h3, hpart.1, hpart.2.trans (Dev.Frame.part (Dev.stTo_frame _ 1) .nv)⟩
  · have hst : t.rd F.HIF_ST_STAT_STATE = (s.imageChosen b).rd F.HIF_ST_STAT_STATE := by simp only [Dev.rd, hreg]
    rw [hst, Dev.imageChosen, Dev.stTo_state _ (by decide)]
  · rw [hreg, Dev.imageChosen, Dev.stTo_reg _ _ (by decide) (by decide), Dev.reg_setReg_self]
    rfl

/-- With no image that verifies a start FAILs. -/
theorem Dev.stewardStart_fails {s : Dev} (hc : s.coreUp = true) (h0 : s.rd F.HIF_ST_STAT_STATE = 0) (hp : s.fwPick = none) :
    s.stewardStart.rd F.HIF_ST_STAT_STATE = 3 ∧ s.stewardStart.on F.HIF_EVT_BOOT_FAIL = true ∧ Dev.Frame [0] [.evq] s s.stewardStart := by
  rw [Dev.stewardStart_none hc h0 hp]
  refine ⟨?_, Dev.on_event_self (s.stTo 3) F.HIF_EVT_BOOT_FAIL rfl rfl, (((s.stTo_frame 3).mono).event _).stewardMsg _⟩
  exact (Dev.rd_event_apart (s.stTo 3) F.HIF_EVT_BOOT_FAIL F.HIF_ST_STAT_STATE rfl rfl).trans (s.stTo_state (by decide))

/-- A start from OFF with an image that verifies boots it. -/
theorem Dev.stewardStart_boots {s : Dev} {b : Bool} (hc : s.coreUp = true) (h0 : s.rd F.HIF_ST_STAT_STATE = 0) (hp : s.fwPick = some b) :
    let t := s.stewardStart
    t.rd F.HIF_ST_STAT_STATE = 1 ∧ t.on F.HIF_ST_STAT_IMAGE = b ∧ t.on F.HIF_ST_STAT_WARM = s.vl.gate ∧
      t.reg R.HIF_FW_VER = BitVec.ofNat 32 (leAt (s.fwHeader b) 4 4) ∧ t.st.booted = true ∧
      (s.nv.tripped = false → t.on F.NV_STAT_RECOVERED = true) ∧ t.on F.NV_STAT_FW_SEL = b := by
  intro t
  obtain ⟨sw, ht⟩ := Dev.stewardStart_some hc h0 hp
  obtain ⟨hst, him, hwarm, hver, hsel, hboot, hnv⟩ := s.imageRuns_spec b sw
  obtain ⟨hf, hrec, hsel'⟩ := (s.imageRuns b sw).recovered_spec
  generalize s.imageRuns b sw = r at *
  have hb : Dev.Boots r.nvRecover.shutCommit t := by
    simp only [t, ht]
    split
    · exact .refl _
    · exact .cold _
  have hlow (off : Nat) (ho : blockOf off = 0) : t.reg off = r.reg off :=
    (hb.within off (by rw [ho]; decide)).trans (hf.within off (by rw [ho]; decide))
  have hrd (f : Fld) (ho : blockOf f.reg = 0) : t.rd f = r.rd f := by simp only [Dev.rd, hlow _ ho]
  have hstat (f : Fld) (ho : f.reg = R.NV_STAT) : t.rd f = r.nvRecover.shutCommit.rd f := by simp only [Dev.rd, ho, hb.stat]
  have hst' : r.nvRecover.shutCommit.st = r.st := hf.part .st
  refine ⟨(hrd _ rfl).trans hst, (congrArg (· == 1) (hrd _ rfl)).trans him, (congrArg (· == 1) (hrd _ rfl)).trans hwarm, (hlow _ rfl).trans hver,
    hb.booted.trans ((congrArg St.booted hst').trans hboot), fun h => ?_, ?_⟩
  · exact (congrArg (· == 1) (hstat _ rfl)).trans (hrec (by rw [hnv]; exact h))
  · exact (congrArg (· == 1) ((hstat _ rfl).trans hsel')).trans hsel

/-- READY: STATE and the message of the boot. -/
theorem Dev.stewardReady_ready {s : Dev} (h1 : s.rd F.HIF_ST_STAT_STATE = 1) (hb : s.st.booted = true) (hg : s.vl.gate = true) :
    s.stewardReady.rd F.HIF_ST_STAT_STATE = 2 ∧ s.stewardReady.evq.inbox.length = s.evq.inbox.length + 1 ∧
      Dev.Frame [0] [.evq] s s.stewardReady := by
  have hgo : (s.rd F.HIF_ST_STAT_STATE == 1 && s.st.booted && s.vl.gate) = true := by simp [h1, hb, hg]
  rw [Dev.stewardReady, if_pos hgo]
  have hq : (s.stTo 2).evq = s.evq := (s.stTo_frame 2).part .evq
  refine ⟨(s.stTo_state (by decide) : (s.stTo 2).rd _ = 2), ?_, ((s.stTo_frame 2).mono).stewardMsg _⟩
  simp [Dev.stewardMsg, Dev.emit, hq]

end Sys2Proof.Machine

namespace Sys2Proof.Proofs
open Sys2Proof.Machine

/-- Settles O7: the three commands that restart the stewards come to one restart; a start names its image, and what the boot then loads
leaves that. -/
theorem stewards : Obligations.Stewards := by
  unfold Obligations.Stewards
  refine ⟨fun s via v core hrun h0 c hc => ?_, fun s hrun => ⟨fun hcore h0 => ?_, fun h1 hboot hgate => ?_⟩⟩
  · have hcmd : ∃ u wdog, BeforeRestart s u ∧ (c = .watchdogExpiry → u.dev.on F.HIF_EVT_WDOG = true) ∧ exec c s = .next (u.restart wdog) := by
      rcases hc with ⟨rfl, hd, ho, hs, hsvc⟩ | rfl | ⟨rfl, hon⟩
      · obtain ⟨u, hu, he⟩ := exec_stewardRestart hrun v hd ho hs hsvc
        exact ⟨u, false, hu, (fun h => Instr.noConfusion h), he⟩
      · obtain ⟨u, hu, he⟩ := exec_lockup hrun core h0
        exact ⟨u, false, hu, (fun h => Instr.noConfusion h), he⟩
      · obtain ⟨u, hu, hw, he⟩ := exec_watchdog hrun h0 hon
        exact ⟨u, true, hu, fun _ => hw, he⟩
    obtain ⟨u, wdog, hu, hw, he⟩ := hcmd
    have hrd (f : Fld) (hf : f.reg = R.HIF_ST_STAT) : u.dev.rd f = s.dev.rd f := by simp only [Dev.rd, hf, hu.stat]
    have hmb {i : Nat} (hi : i < 8) : u.dev.rd (F.MB_STAT_STATE i) = s.dev.rd (F.MB_STAT_STATE i) :=
      hu.frame.rd (F.MB_STAT_STATE i) (by rw [show blockOf (F.MB_STAT_STATE i).reg = 1 from blockOf_mbStat hi]; decide)
    have hmbx : u.dev.mbx = s.dev.mbx := hu.frame.part .mbx
    have hr := State.restart_restarted wdog (u := u) (by rwa [hrd _ rfl])
    have hkeep (p : Part) (hp : p ∉ [.bm, .evq, .fc] := by decide) (hp' : p ∉ .st :: abandonParts := by decide) : Part.Same s.dev (u.restart wdog).dev p := by
      have h1 := hu.frame.keeps p hp
      have h2 := hr.keeps p hp'
      exact (Dev.Keeps.setTx [] [] s.dev p (by simp)).trans (h1.trans h2)
    refine ⟨_, he, hr.state, hr.warm, hr.restarts.trans (by rw [hrd _ rfl]), hr.event, hr.booted, fun hc => hr.wdog.trans (hw hc), fun i hi hb => ?_,
      hr.queue, hr.cur, hr.caps, hkeep .plan0, hkeep .plan1, hkeep .fs, hkeep .pc, hkeep .th, hkeep .hif, hr.pending.trans hu.pending, fun a ha => ?_⟩
    · obtain ⟨h2, h7, hd⟩ := hr.answers i hi ((hmb hi).trans hb)
      refine ⟨h2, h7, hd.trans ?_⟩
      rw [hmbx]
      simp [Option.isNone_iff_eq_none]
    · rw [hr.mem a ha, hu.mem]
  · have hexec : exec .stewardStart s = .next { s with dev := s.fresh.dev.stewardStart } := State.onDev_next s _ hrun
    have hpick : s.fresh.dev.fwPick = s.dev.fwPick := rfl
    refine ⟨_, hexec, .onDev s _, ?_⟩
    cases hp : s.dev.fwPick with
    | none =>
      obtain ⟨h3, hev, hf⟩ := Dev.stewardStart_fails (s := s.fresh.dev) hcore h0 (hpick.trans hp)
      exact ⟨h3, hev, hf.only⟩
    | some b => exact Dev.stewardStart_boots (s := s.fresh.dev) hcore h0 (hpick.trans hp)
  · obtain ⟨h2, hrec, hf⟩ := Dev.stewardReady_ready (s := s.fresh.dev) h1 hboot hgate
    exact ⟨_, State.onDev_next s _ hrun, h2, hrec, hf.only⟩

end Sys2Proof.Proofs
end

section
-- One proof after another: in parallel the proofs of this text would not fit the memory that its check allows.
set_option Elab.async false
/-!
PROOFS. The resets of Table 16.6 (16 R359, R361, R362): what outlasts each, and that with RESET_N low no other command acts.
-/
namespace Sys2Proof.Machine

/-! ### Commands while RESET_N is low -/

/-- The commands that RESET_N does not mask. -/
def isReset : Instr → Bool
  | .aonPowerOnReset | .resetN .. | .supervisor .. | .dbgTrstN .. => true
  | _ => false

theorem exec_onDev (c : Instr) (hm : reachesMem c = false) (hr : isReset c = false) (s : State) : ∃ f, exec c s = s.onDev f := by
  cases c <;> first | exact absurd hm Bool.noConfusion | exact absurd hr Bool.noConfusion | exact ⟨_, rfl⟩

theorem exec_onAll (c : Instr) (hm : reachesMem c = true) (hr : isReset c = false) (s : State) : ∃ f, exec c s = s.onAll f := by
  cases c <;> first | exact absurd hm Bool.noConfusion | exact absurd hr Bool.noConfusion | exact ⟨_, rfl⟩

/-- With RESET_N low only the resets act. -/
theorem exec_low {s : State} (h : s.dev.pins.resetN = false) {c : Instr} (hr : isReset c = false) : exec c s = .next s.fresh := by
  cases hm : reachesMem c with
  | false =>
    obtain ⟨f, hf⟩ := exec_onDev c hm hr s
    have hlive : Dev.live f s.fresh.dev = s.fresh.dev := if_neg (by simp [State.fresh, h])
    rw [hf, State.onDev, hlive]
    rfl
  | true =>
    obtain ⟨f, hf⟩ := exec_onAll c hm hr s
    rw [hf, State.onAll, h]
    rfl

/-! ### What the AON domain keeps -/

theorem Dev.afterReset_reg (s : Dev) (off : Nat) : s.afterReset.reg off = regReset off := rfl

/-- A field is kept over a reset. -/
def Dev.keepFld (s : Dev) (f : Fld) (d : Dev) : Dev := d.wr f (s.rd f)

theorem Dev.keepFld_self (s d : Dev) {f : Fld} (hf : f.fits = true) : (s.keepFld f d).rd f = s.rd f := by
  rw [Dev.keepFld, Dev.rd_wr_self _ _ _ hf]
  exact Nat.mod_eq_of_lt (s.rd_lt f)

theorem Dev.keepFld_apart (s d : Dev) {f g : Fld} (hf : f.fits = true) (hg : f.apart g = true) : (s.keepFld f d).rd g = d.rd g :=
  Dev.rd_wr_apart _ _ _ _ hf hg

theorem Dev.keepFld_reg (s d : Dev) {f : Fld} {off : Nat} (h : f.reg ≠ off) : (s.keepFld f d).reg off = d.reg off := Dev.reg_wr_ne d h _

/-- The registers that RESET_N low leaves, from those before it. -/
def Dev.lowRegs (s : Dev) : Dev :=
  s.keepFld F.NV_STAT_AON_PENDING (s.keepFld F.PM_STAT_WAKEFLT (s.keepFld F.PM_EVT_WAKE_FAULT
    ((Dev.when (!(s.rd F.PM_STAT_STATE == 4)) (fun t => s.keepFld F.EVQ_PENDING (s.keepFld F.EVQ_PEND_DROP t)) s.afterReset).rolesBy
      (s.on F.TW_CFG_PREF))))

theorem Dev.rolesBy_reg (b : Bool) (s : Dev) {off : Nat} (h : off ≠ R.TW_STAT) : (s.rolesBy b).reg off = s.reg off := by
  unfold Dev.rolesBy
  split
  · rw [Dev.reg_wr_ne _ (Ne.symm h), Dev.reg_wr_ne _ (Ne.symm h)]
  · rfl

theorem Dev.lowRegs_reg (s : Dev) {off : Nat}
    (h : off ∉ [R.EVQ_PENDING, R.EVQ_PEND_DROP, R.NV_STAT, R.PM_STAT, R.PM_EVT, R.TW_STAT]) : s.lowRegs.reg off = regReset off := by
  simp only [List.mem_cons, List.not_mem_nil, or_false, not_or] at h
  obtain ⟨h1, h2, h3, h4, h5, h6⟩ := h
  rw [Dev.lowRegs, Dev.keepFld_reg _ _ (Ne.symm h3), Dev.keepFld_reg _ _ (Ne.symm h4), Dev.keepFld_reg _ _ (Ne.symm h5),
    Dev.rolesBy_reg _ _ h6, ← s.afterReset_reg off]
  cases !(s.rd F.PM_STAT_STATE == 4) with
  | false => rfl
  | true => exact (Dev.keepFld_reg _ _ (Ne.symm h1)).trans (Dev.keepFld_reg _ _ (Ne.symm h2))

theorem Dev.lowRegs_pending (s : Dev) : s.lowRegs.rd F.EVQ_PENDING = if s.rd F.PM_STAT_STATE = 4 then 0 else s.rd F.EVQ_PENDING := by
  have hroles (b : Bool) (t : Dev) : (t.rolesBy b).rd F.EVQ_PENDING = t.rd F.EVQ_PENDING := by
    simp only [Dev.rd, Dev.rolesBy_reg b t (show F.EVQ_PENDING.reg ≠ R.TW_STAT by decide)]
  rw [Dev.lowRegs, Dev.keepFld_apart _ _ rfl rfl, Dev.keepFld_apart _ _ rfl rfl, Dev.keepFld_apart _ _ rfl rfl, hroles]
  by_cases h : s.rd F.PM_STAT_STATE = 4
  · rw [if_pos h, h]
    show (regReset F.EVQ_PENDING.reg).toNat / 2 ^ F.EVQ_PENDING.lo % 2 ^ F.EVQ_PENDING.w = 0
    decide
  · rw [if_neg h, show (!(s.rd F.PM_STAT_STATE == 4)) = true by simpa using h]
    exact Dev.keepFld_self _ _ rfl

theorem Dev.lowRegs_wakeflt (s : Dev) : s.lowRegs.rd F.PM_STAT_WAKEFLT = s.rd F.PM_STAT_WAKEFLT := by
  rw [Dev.lowRegs, Dev.keepFld_apart _ _ rfl rfl, Dev.keepFld_self _ _ rfl]

/-- PREF names the active engine (10 R238). -/
theorem Dev.rolesBy_roles {s : Dev} (h : s.reg R.TW_STAT = regReset R.TW_STAT) (b : Bool) :
    (s.rolesBy b).rd F.TW_STAT_ROLE_A = (if b then 2 else 1) ∧ (s.rolesBy b).rd F.TW_STAT_ROLE_B = if b then 1 else 2 := by
  cases b with
  | true =>
    refine ⟨?_, Dev.rd_wr_self _ F.TW_STAT_ROLE_B 1 rfl⟩
    exact (Dev.rd_wr_apart _ F.TW_STAT_ROLE_B F.TW_STAT_ROLE_A 1 rfl rfl).trans (Dev.rd_wr_self _ F.TW_STAT_ROLE_A 2 rfl)
  | false =>
    show (s.reg R.TW_STAT).toNat / 2 ^ F.TW_STAT_ROLE_A.lo % 2 ^ F.TW_STAT_ROLE_A.w = 1 ∧
      (s.reg R.TW_STAT).toNat / 2 ^ F.TW_STAT_ROLE_B.lo % 2 ^ F.TW_STAT_ROLE_B.w = 2
    rw [h]
    decide

theorem Dev.lowRegs_roles (s : Dev) : s.lowRegs.rd F.TW_STAT_ROLE_A = (if s.on F.TW_CFG_PREF then 2 else 1) ∧
    s.lowRegs.rd F.TW_STAT_ROLE_B = if s.on F.TW_CFG_PREF then 1 else 2 := by
  rw [Dev.lowRegs, Dev.keepFld_apart _ _ rfl rfl, Dev.keepFld_apart _ _ rfl rfl, Dev.keepFld_apart _ _ rfl rfl,
    Dev.keepFld_apart _ _ rfl rfl, Dev.keepFld_apart _ _ rfl rfl, Dev.keepFld_apart _ _ rfl rfl]
  refine Dev.rolesBy_roles ?_ _
  cases !(s.rd F.PM_STAT_STATE == 4) with
  | false => rfl
  | true => exact (Dev.keepFld_reg _ _ (by decide)).trans (Dev.keepFld_reg _ _ (by decide))

/-- Beside the registers nothing of what a reset has made fresh changes by what the AON domain keeps. -/
theorem Dev.lowRegs_keeps (s : Dev) : Dev.Keeps [] s.afterReset s.lowRegs := by
  have hkeep (f : Fld) (d : Dev) : Dev.Keeps [] d (s.keepFld f d) := .wr d f _
  have hroles (b : Bool) (d : Dev) : Dev.Keeps [] d (d.rolesBy b) := by
    cases b
    · exact .refl [] d
    · exact (Dev.Keeps.wr d _ _).trans (.wr _ _ _)
  unfold Dev.lowRegs
  refine .trans (.trans (.trans (.trans ?_ (hroles _ _)) (hkeep _ _)) (hkeep _ _)) (hkeep _ _)
  exact .when _ _ _ (.trans (hkeep _ _) (hkeep _ _))

/-- The block with RESET_N low, from that whose page operation is abandoned. -/
def Dev.lowOf (u : Dev) : Dev :=
  ({ u.lowRegs with
    nv := { u.lowRegs.nv with aon := u.nv.aon },
    evq := if u.rd F.PM_STAT_STATE == 4 then {} else { pend := u.evq.pend, pendDrop := u.evq.pendDrop },
    fc := { lines := u.fc.lines.filter (fun x => x.at_.isSome) },
    pins := { u.lowRegs.pins with faultN := u.pins.faultN } }).send (.pin "CORE_EN" false)

theorem Dev.resetLow_eq (s : Dev) : s.resetLow = s.nvAbandon.lowOf := rfl

theorem Dev.tearPage_nv (s : Dev) (p : Nat) : ∃ l, (s.tearPage p).nv = { s.nv with pages := s.nv.pages.set p l } := ⟨_, rfl⟩

/-- What an abandoned page operation leaves of the record store. -/
theorem Dev.nvAbandon_rest (s : Dev) : s.nvAbandon.nv.fuseRb = s.nv.fuseRb ∧ s.nvAbandon.nv.wear = s.nv.wear ∧
    s.nvAbandon.nv.aon = s.nv.aon ∧ (s.nv.cur = none → s.nvAbandon.nv.pages = s.nv.pages) := by
  unfold Dev.nvAbandon
  split
  · next c hc =>
    obtain ⟨l, hl⟩ := ({ s with nv := { s.nv with cur := none } } : Dev).tearPage_nv (slotPage c.slot c.copyB + c.page)
    generalize ({ s with nv := { s.nv with cur := none } } : Dev).tearPage (slotPage c.slot c.copyB + c.page) = t at hl ⊢
    have h : t.nvDepth.nv = t.nv := t.nvDepth_frame.part .nv
    rw [h, hl]
    exact ⟨rfl, rfl, rfl, fun h => by rw [hc] at h; cases h⟩
  · exact ⟨rfl, rfl, rfl, fun _ => rfl⟩

theorem Dev.masterReset_reg (m : Nat) (s : Dev) {off : Nat} (h : off ≠ R.BM_STAT) : (s.masterReset m).reg off = s.reg off := by
  unfold Dev.masterReset
  extract_lets b t l u
  have hu : u.reg off = s.reg off :=
    (Dev.Frame.each (w := []) (l := [.bm]) l Dev.bmUnknown t fun d x _ => d.bmUnknown_frame x).within off (by simp)
  split
  · exact hu
  · exact (Dev.reg_wr_ne _ (Ne.symm h) _).trans hu

theorem Dev.bmUnknown_wait (s : Dev) (x : BmW) : (s.bmUnknown x).bm.wait = s.bm.wait := by
  simp only [Dev.bmUnknown, Dev.bmFill]
  split <;> rfl

/-- The requests of a master are withdrawn, and what it issued drains. -/
def Dev.withdrawn (m : Nat) (s : Dev) : Dev := { s with bm := { s.bm with
  wait := s.bm.wait.filter (fun w => w.m != m),
  out := s.bm.out.map (fun (w : BmW) => if w.m = m ∧ !w.late then { w with drain := true } else w) } }

theorem Dev.masterReset_eq (m : Nat) (s : Dev) : s.masterReset m =
    let t := s.withdrawn m
    let l := t.bm.out.filter (fun w => w.m == m && w.drain)
    let u := Dev.each l Dev.bmUnknown t
    if l.isEmpty then u else u.wr F.BM_STAT_DRAIN (setBit (u.rd F.BM_STAT_DRAIN) m) := rfl

/-- No request of a master that is reset waits. -/
theorem Dev.masterReset_wait (m : Nat) (s : Dev) : ∀ w, w ∈ (s.masterReset m).bm.wait → w.m ≠ m := by
  have h : (s.masterReset m).bm.wait = (s.withdrawn m).bm.wait := by
    rw [Dev.masterReset_eq]
    generalize s.withdrawn m = t
    extract_lets t' l u
    have hu : u.bm.wait = t.bm.wait := Dev.each_eq (fun d => d.bm.wait) _ _ _ Dev.bmUnknown_wait
    clear_value u
    split
    · exact hu
    · exact (congrArg Bm.wait (Dev.Keeps.wr u _ _ .bm (by simp))).trans hu
  intro w hw
  rw [h] at hw
  simpa using (List.mem_filter.mp hw).2

end Sys2Proof.Machine

namespace Sys2Proof.Proofs
open Sys2Proof.Machine

/-- Settles O10, reset by reset. -/
theorem resets : Obligations.Resets := by
  unfold Obligations.Resets
  intro s
  refine ⟨fun i hi => ?_, fun i hi => ?_, fun hlow => ?_, fun hrun => ?_, ⟨?_, ?_⟩, fun hlow i h1 h2 h3 h4 => ?_⟩
  · have hexec : exec i s = .next (s.resetBy Dev.aonReset) := by
      simp only [List.mem_cons, List.not_mem_nil, or_false] at hi
      rcases hi with rfl | rfl <;> rfl
    obtain ⟨hfuse, hwear, -, hpages⟩ := s.fresh.dev.nvAbandon_rest
    have hd : (s.resetBy Dev.aonReset).dev = s.fresh.dev.nvAbandon.afterReset.send (.pin "CORE_EN" false) := rfl
    generalize s.fresh.dev.nvAbandon = u at hfuse hwear hpages hd
    refine ⟨_, hexec, ?_⟩
    rw [hd]
    exact ⟨u.afterReset_reg, rfl, rfl, hfuse, hwear, hpages, rfl, rfl, rfl, rfl, rfl, rfl, rfl⟩
  · have hexec : exec i s = .next (s.resetBy Dev.resetLow) := by
      simp only [List.mem_cons, List.not_mem_nil, or_false] at hi
      rcases hi with rfl | rfl <;> rfl
    have hu : Dev.Frame [16] [.nv, .bm, .freeCtr] s.fresh.dev s.fresh.dev.nvAbandon := Dev.nvAbandon_frame _
    obtain ⟨hfuse, -, haon, -⟩ := s.fresh.dev.nvAbandon_rest
    have hd : (s.resetBy Dev.resetLow).dev = s.fresh.dev.nvAbandon.lowOf := s.fresh.dev.resetLow_eq
    generalize s.fresh.dev.nvAbandon = u at hu hfuse haon hd
    have hrd (f : Fld) (hf : blockOf f.reg ∉ [16] := by decide) : u.rd f = s.dev.rd f := hu.rd f hf
    have hevq : u.evq = s.dev.evq := hu.part .evq
    have hfc : u.fc = s.dev.fc := hu.part .fc
    have hpins : u.pins = s.dev.pins := hu.part .pins
    have hpref : u.on F.TW_CFG_PREF = s.dev.on F.TW_CFG_PREF := congrArg (· == 1) (hrd F.TW_CFG_PREF)
    obtain ⟨hra, hrb⟩ := u.lowRegs_roles
    have hlow := u.lowRegs_keeps
    have hnv : u.lowRegs.nv = u.afterReset.nv := hlow .nv (by simp)
    have hgl : u.lowRegs.gl = u.afterReset.gl := hlow .gl (by simp)
    have hle : u.lowRegs.le = u.afterReset.le := hlow .le (by simp)
    have hpin : u.lowRegs.pins = u.afterReset.pins := hlow .pins (by simp)
    have hstate := hrd F.PM_STAT_STATE
    refine ⟨_, hexec, ?_⟩
    rw [hd]
    refine ⟨fun off h => u.lowRegs_reg h, u.lowRegs_pending.trans ?_, ?_, ?_, hra.trans ?_, hrb.trans ?_, ?_, haon, ?_, ?_,
      (congrArg Pins.faultN hpins :), ?_, hgl, hle, rfl, rfl⟩
    · rw [hstate, hrd F.EVQ_PENDING]
    · exact congrArg (· == 1) (u.lowRegs_wakeflt.trans (hrd F.PM_STAT_WAKEFLT))
    · simp only [Dev.lowOf, Dev.send, hstate, hevq, beq_iff_eq]
      split <;> rfl
    · rw [hpref]
    · rw [hpref]
    · simp only [Dev.lowOf, Dev.send]
      split <;> rfl
    · exact (congrArg Nv.fuseRb hnv).trans hfuse
    · exact congrArg Pins.resetN hpin
    · simp only [Dev.lowOf, Dev.send, hfc]
  · let d : Dev := { s.fresh.dev with pins := { s.fresh.dev.pins with resetN := true, coreEn := true },
                                      pm := { s.fresh.dev.pm with p3 := .boot, wake := .supply, avsTgt := some 2, avsLast := 2 } }
    have hhigh : s.fresh.dev.resetHigh = d.setTx [.pin "CORE_EN" true, .avsWrite (s.dev.opv 2)] := (if_neg (by simp [State.fresh, hlow])).trans rfl
    have hexec : exec (.resetN true) s = .next { s with dev := d.setTx [.pin "CORE_EN" true, .avsWrite (s.dev.opv 2)] } :=
      congrArg (fun e : Dev => (.next { s with dev := e } : Host.Outcome State Fault Refusal)) hhigh
    have hd : Dev.Keeps [.pins, .pm] s.fresh.dev d := fun p hp => by cases p <;> first | exact absurd (by decide) hp | rfl
    exact ⟨_, hexec, rfl, rfl, rfl, rfl, .of (.of_regs rfl) (((Dev.Keeps.setTx _ [] s.dev).trans hd).trans (.setTx _ _ d))⟩
  · have h : s.fresh.dev.resetHigh = s.fresh.dev := if_pos hrun
    exact congrArg (fun d => Host.Outcome.next { s.fresh with dev := d }) h
  · exact ⟨_, rfl, rfl, .of (.of_regs rfl) (.trans (.setTx _ [] _) ((Dev.Frame.refl [] [.pins] s.fresh.dev).pins _).keeps)⟩
  · let d : Dev := { s.fresh.dev with pins := { s.fresh.dev.pins with trstN := false } }
    have htrst : Dev.trst true s.fresh.dev = d.masterReset 5 := Dev.when_true _ _
    have hexec : exec (.dbgTrstN true) s = .next { s with dev := d.masterReset 5 } :=
      congrArg (fun e : Dev => (.next { s with dev := e } : Host.Outcome State Fault Refusal)) htrst
    have hf : Dev.Frame [17] [.pins, .bm] s.fresh.dev (d.masterReset 5) := ((Dev.Frame.refl _ _ _).pins _).then (Dev.masterReset_frame 5 d)
    refine ⟨_, hexec, (Dev.masterReset_frame 5 d).part .pins, d.masterReset_wait 5, fun off h => ?_, ?_, .onDev s _⟩
    · exact (d.masterReset_reg 5 h).trans rfl
    · exact (Dev.Keeps.setTx _ [] s.dev).trans hf.keeps
  · refine exec_low hlow ?_
    cases i <;> first | rfl | exact absurd rfl h1 | exact absurd rfl (h2 _) | exact absurd rfl (h3 _) | exact absurd rfl (h4 _)

end Sys2Proof.Proofs
end

section
-- One proof after another: in parallel the proofs of this text would not fit the memory that its check allows.
set_option Elab.async false
/-!
PROOFS. Record writes, the record scan and nv.record (09 R231, R232, R234, R236).
-/
namespace Sys2Proof.Machine

/-! ### What operations on pages leave (R230 to R232) -/

theorem Dev.nvCopy_congr {s t : Dev} (h : t.nv.pages = s.nv.pages) (o : Nat) (b : Bool) : t.nvCopy o b = s.nvCopy o b := by
  have hp (p : Nat) : t.nvPage p = s.nvPage p := congrArg (fun x : Tbl (List Byte) => x.get p) h
  have hs (p n : Nat) : t.nvSpan p n = s.nvSpan p n := by simp only [Dev.nvSpan, hp]
  simp only [Dev.nvCopy, hp, hs]

theorem Dev.nvWin_congr {s t : Dev} (h : t.nv.pages = s.nv.pages) (o : Nat) : t.nvWin o = s.nvWin o := by
  simp only [Dev.nvWin, Dev.nvCopy_congr h]

theorem Dev.nvSlotFor_congr {s t : Dev} (h : t.nv.pages = s.nv.pages) (ty key : Nat) : t.nvSlotFor ty key = s.nvSlotFor ty key := by
  simp only [Dev.nvSlotFor, Dev.nvWin_congr h]

theorem Dev.nvDepth_nv (s : Dev) : s.nvDepth.nv = s.nv := s.nvDepth_frame.part .nv

theorem Dev.nvDepth_qdepth (s : Dev) : s.nvDepth.rd F.NV_STAT_QDEPTH = min 255 s.nv.queue.length := by
  rw [Dev.nvDepth, Dev.rd_wrB_apart _ _ _ _ (by decide) (by decide), Dev.rd_wr_self _ _ _ (by decide)]
  exact Nat.mod_eq_of_lt (by show min 255 _ < 2 ^ 8; omega)

theorem Dev.nvDepth_busy (s : Dev) : s.nvDepth.on F.NV_STAT_BUSY = s.nv.cur.isSome := Dev.on_wrB_self _ _ _ (by decide) rfl

/-- The record store with another write in progress. -/
def Dev.withCur (c : Option NvCur) (s : Dev) : Dev := { s with nv := { s.nv with cur := c } }

/-- What the end of a write leaves, up to its answer. -/
theorem Dev.nvEnd_from (s : Dev) (q : NvReq) (good : Bool) (gen : Nat) :
    Dev.Frame [15] [.mbx, .evq] (s.withCur none).nvDepth (s.nvEnd q good gen) := by
  unfold Dev.nvEnd
  extract_lets n t u
  have ht : Dev.Frame [15] [.mbx, .evq] (s.withCur none).nvDepth t := .refl _ _ _
  clear_value t
  split
  · split
    · split
      · exact ht.ok _ _
      · exact ((((((ht.wr _ _).wr _ _).wr _ _).count _).event _).finish _ _ _ _ _)
    · split
      · exact ht.refuse _ _
      · split
        · exact ht.ok _ _
        · exact ht.ok _ _
  · exact ht

theorem Dev.nvEnd_nv (s : Dev) (q : NvReq) (good : Bool) (gen : Nat) : (s.nvEnd q good gen).nv = { s.nv with cur := none } :=
  ((s.nvEnd_from q good gen).part .nv).trans (Dev.nvDepth_nv _)

theorem Dev.nvEnd_qdepth (s : Dev) (q : NvReq) (good : Bool) (gen : Nat) :
    (s.nvEnd q good gen).rd F.NV_STAT_QDEPTH = min 255 s.nv.queue.length :=
  ((s.nvEnd_from q good gen).rd _).trans (Dev.nvDepth_qdepth _)

theorem Dev.nvEnd_busy (s : Dev) (q : NvReq) (good : Bool) (gen : Nat) : (s.nvEnd q good gen).on F.NV_STAT_BUSY = false :=
  ((s.nvEnd_from q good gen).on _).trans (Dev.nvDepth_busy _)

/-- A write for a mailbox answers with its generation, or is refused. -/
theorem Dev.nvEnd_write (s : Dev) {q : NvReq} {i : Nat} (hi : i < 8) (hmb : q.mb = some i) (hcal : q.cal = false) (good : Bool) (gen : Nat)
    (he : q.erase = false) :
    ((s.nvEnd q good gen).mbx.get i).ready = if good then some (0, 0, 0xFFFFFFFF, toLe 4 gen) else some (2, 0, 0xFFFFFFFF, []) := by
  unfold Dev.nvEnd
  rw [hmb]
  cases good with
  | true =>
    simp only [hcal, he]
    exact Dev.finish_ready _ _ _ _ _ _ hi
  | false =>
    simp only [hcal]
    exact Dev.finish_ready _ _ _ _ _ _ hi

/-- An erase leaves its page erased and counts its wear. -/
theorem Dev.erasePage_nv (s : Dev) (p : Nat) :
    (s.erasePage p).nv = { s.nv with pages := s.nv.pages.set p [], wear := s.nv.wear.set p (s.nv.wear.get p + 1) } := by
  unfold Dev.erasePage
  extract_lets w n t u
  have ht : t.nv = { s.nv with pages := s.nv.pages.set p [], wear := s.nv.wear.set p (s.nv.wear.get p + 1) } := rfl
  clear_value t
  have hu : u.nv = t.nv := Dev.Keeps.wr t _ _ .nv (by simp)
  clear_value u
  have h : Dev.Frame [16] [.evq] u (Dev.when (decide (90000 < w)) (·.event F.NV_EVT_WEAR) u) := .when _ _ u ((Dev.Frame.refl _ _ u).event _)
  have hk : (Dev.when (decide (90000 < w)) (·.event F.NV_EVT_WEAR) u).nv = u.nv := h.part .nv
  exact hk.trans (hu.trans ht)

theorem Dev.erasePage_reg (s : Dev) (p : Nat) {off : Nat} (h : off ∉ [R.NV_WEAR_MAX, R.NV_EVT]) : (s.erasePage p).reg off = s.reg off := by
  simp only [List.mem_cons, List.not_mem_nil, or_false, not_or] at h
  unfold Dev.erasePage
  extract_lets w n t u
  have hu : u.reg off = s.reg off := Dev.reg_wr_ne t (Ne.symm h.1) _
  clear_value u
  refine Eq.trans ?_ hu
  cases decide (90000 < w) with
  | true => exact Dev.reg_event_ne u (Ne.symm h.2)
  | false => rfl

/-- An entry is appended to the journal. -/
theorem Dev.journalPut_nv (s : Dev) (st ty slot key gen : Nat) :
    (s.journalPut st ty slot key gen).nv.cur = s.nv.cur ∧ (s.journalPut st ty slot key gen).nv.queue = s.nv.queue ∧
    (s.journalPut st ty slot key gen).nv.jpos = (s.nv.jpos + 1) % 8192 := by
  unfold Dev.journalPut
  extract_lets q e e' p old t u
  have ht : t.nv.cur = s.nv.cur ∧ t.nv.queue = s.nv.queue ∧ t.nv.jpos = s.nv.jpos := by
    simp only [t]
    cases s.nv.jpos % 128 == 0 with
    | true =>
      rw [Dev.when_true, Dev.erasePage_nv]
      exact ⟨rfl, rfl, rfl⟩
    | false => exact ⟨rfl, rfl, rfl⟩
  clear_value t
  have hu : u.nv = { t.nv with pages := t.nv.pages.set p (old ++ e') } := (Dev.Keeps.wr (t.setPage p (old ++ e')) F.NV_JSEQ q .nv (by simp)).trans rfl
  clear_value u
  obtain ⟨h1, h2, h3⟩ := ht
  have hj : u.nv.jpos = s.nv.jpos := (congrArg Nv.jpos hu).trans h3
  exact ⟨(congrArg Nv.cur hu).trans h1, (congrArg Nv.queue hu).trans h2, congrArg (fun j => (j + 1) % 8192) hj⟩

theorem Dev.journalPut_jseq (s : Dev) (st ty slot key gen : Nat) :
    (s.journalPut st ty slot key gen).rd F.NV_JSEQ = (s.rd F.NV_JSEQ + 1) % 2 ^ 32 := Dev.rd_wr_self _ F.NV_JSEQ _ (by decide)

theorem Dev.journalPut_reg (s : Dev) (st ty slot key gen : Nat) {off : Nat} (h : off ∉ [R.NV_WEAR_MAX, R.NV_EVT, R.NV_JSEQ]) :
    (s.journalPut st ty slot key gen).reg off = s.reg off := by
  simp only [List.mem_cons, List.not_mem_nil, or_false, not_or] at h
  unfold Dev.journalPut
  extract_lets q e e' p old t u
  have ht : t.reg off = s.reg off := by
    simp only [t]
    cases s.nv.jpos % 128 == 0 with
    | true => exact s.erasePage_reg _ (by simp [h])
    | false => rfl
  clear_value t
  exact (Dev.reg_wr_ne (t.setPage p (old ++ e')) (Ne.symm h.2.2) q).trans ht

/-! ### The next write starts (09 R231, R232) -/

/-- The record store with another queue. -/
def Dev.withQueue (l : List NvReq) (s : Dev) : Dev := { s with nv := { s.nv with queue := l } }

/-- The record of a request as it stands: the intact copy that wins in its slot, when it has the request's key. -/
def Dev.nvHeld (s : Dev) (q : NvReq) : Option Copy := (s.nvWin (s.nvSlotFor q.ty q.key).1).filter (fun c => c.key == q.key)

/-- A rewrite takes the content that its record has. -/
def Dev.nvAsked (s : Dev) (q : NvReq) : NvReq := if q.refresh then { q with payload := ((s.nvHeld q).map (·.payload)).getD [] } else q

/-- The generation of a slot's next copies. -/
def Dev.nvNextGen (s : Dev) (o : Nat) : Nat := 1 + (([s.nvCopy o false, s.nvCopy o true].filterMap (Option.map (·.gen))).foldl max 0)

theorem Dev.nvAsked_erase (s : Dev) (q : NvReq) : (s.nvAsked q).erase = q.erase := by
  unfold Dev.nvAsked
  split <;> rfl

theorem Dev.nvAsked_refresh (s : Dev) (q : NvReq) : (s.nvAsked q).refresh = q.refresh := by
  unfold Dev.nvAsked
  split <;> rfl

/-- The line of a record that the write evicts (R231). -/
def Dev.nvEvict (s : Dev) (q : NvReq) (t : Dev) : Dev :=
  Dev.when (s.nvSlotFor q.ty q.key).2 (·.nvLine 0x1005 0 (s.nvSlotFor q.ty q.key).1) t

/-- The write that starts, before the erase of copy A's first page. -/
def Dev.nvFirst (s : Dev) (q : NvReq) : NvCur :=
  { req := s.nvAsked q, slot := (s.nvSlotFor q.ty q.key).1, gen := s.nvNextGen (s.nvSlotFor q.ty q.key).1, stamp := s.now,
    tvalid := s.rd F.TB_STAT_STATE == 2 || s.rd F.TB_STAT_STATE == 3 || s.rd F.TB_STAT_STATE == 4 }

theorem Dev.nvStart_eq {s : Dev} {q : NvReq} {rest : List NvReq} (hcur : s.nv.cur = none) (hq : s.nv.queue = q :: rest)
    (htrip : s.nv.tripped = false) (hrec : s.on F.NV_STAT_RECOVERED = true) (hst : s.rd F.HIF_ST_STAT_STATE = 2) :
    s.nvStart =
      if (q.erase || q.refresh) && (s.nvHeld q).isNone then (s.withQueue rest).nvEnd (s.nvAsked q) false 0
      else if q.erase then
        ((s.withQueue rest).withCur (some { req := s.nvAsked q, slot := (s.nvSlotFor q.ty q.key).1, copyB := true })).nvDepth
      else if s.nvNextGen (s.nvSlotFor q.ty q.key).1 = 0xFFFFFFFF then (s.withQueue rest).nvEnd (s.nvAsked q) false 0
      else ((((s.nvEvict q (s.withQueue rest)).withCur (some (s.nvFirst q))).journalPut 1 q.ty
        (if (s.nvSlotFor q.ty q.key).1 = identSlot then 0 else (s.nvSlotFor q.ty q.key).1) q.key
        (s.nvNextGen (s.nvSlotFor q.ty q.key).1)).nvDepth) := by
  have hgo : ¬ (s.nv.tripped || !s.on F.NV_STAT_RECOVERED || s.rd F.HIF_ST_STAT_STATE != 2) = true := by simp [htrip, hrec, hst]
  unfold Dev.nvStart
  rw [hcur, hq]
  dsimp -zeta only
  rw [if_neg hgo]
  extract_lets n t key sl held r gens g u e m c x
  have hpages : t.nv.pages = s.nv.pages := rfl
  have hsl : sl = s.nvSlotFor q.ty q.key := Dev.nvSlotFor_congr hpages _ _
  have hheld : held = s.nvHeld q := by
    simp only [held, Dev.nvWin_congr hpages, hsl]
    rfl
  have hr : r = s.nvAsked q := by
    simp only [r, hheld]
    rfl
  have hg : g = s.nvNextGen sl.1 := by
    simp only [g, gens, Dev.nvCopy_congr hpages]
    rfl
  have he : e = s.nvEvict q t := by
    simp only [e, hsl]
    rfl
  have hregs : e.regs = s.regs := by
    simp only [e]
    cases sl.2 <;> rfl
  have htrip' : e.nv.tripped = false := by
    simp only [e]
    cases sl.2 <;> exact htrip
  have hm : m = s.rd F.TB_STAT_STATE := congrArg (fun l : Tbl Word => (({ s with regs := l } : Dev).rd F.TB_STAT_STATE)) hregs
  have hc : c = s.nvFirst q := by
    have hnow : e.now = s.now := congrArg (fun l : Tbl Word => (({ s with regs := l } : Dev).now)) hregs
    simp only [c, hr, hg, hnow, hm, hsl]
    rfl
  have hty : r.ty = q.ty := by
    simp only [r]
    split <;> rfl
  have hj : ∀ a b k l, (e.withCur (some c)).journal a b k l g = (e.withCur (some c)).journalPut a b k l g :=
    fun _ _ _ _ => if_neg (by simp [Dev.withCur, htrip'])
  have ht : t = s.withQueue rest := rfl
  clear_value e c r g m held sl t
  subst hc hr hg he hm hheld hsl ht
  rw [Dev.nvAsked_erase, Dev.nvAsked_refresh, hty, ← hj]
  rfl

theorem Dev.nvEvict_frame (s : Dev) (q : NvReq) (t : Dev) : Dev.Frame [] [.fc] t (s.nvEvict q t) :=
  .when _ _ t ((Dev.Frame.refl _ _ t).nvLine _ _ _)

/-- A write that stands before its first erase. -/
theorem Dev.nvFirst_spec (t : Dev) (c : NvCur) (ty slot key gen : Nat) :
    let u := ((t.withCur (some c)).journalPut 1 ty slot key gen).nvDepth
    u.nv.cur = some c ∧ u.nv.queue = t.nv.queue ∧ u.nv.jpos = (t.nv.jpos + 1) % 8192 ∧ u.rd F.NV_JSEQ = (t.rd F.NV_JSEQ + 1) % 2 ^ 32 ∧
      u.rd F.NV_STAT_QDEPTH = min 255 t.nv.queue.length ∧ u.on F.NV_STAT_BUSY = true := by
  intro u
  obtain ⟨h1, h2, h3⟩ := (t.withCur (some c)).journalPut_nv 1 ty slot key gen
  have h4 := (t.withCur (some c)).journalPut_jseq 1 ty slot key gen
  simp only [u]
  generalize (t.withCur (some c)).journalPut 1 ty slot key gen = e at h1 h2 h3 h4 ⊢
  rw [Dev.nvDepth_qdepth, Dev.nvDepth_busy, Dev.nvDepth_nv, h1, h2]
  refine ⟨rfl, rfl, h3, ?_, rfl, rfl⟩
  rw [Dev.nvDepth, Dev.rd_wrB_apart _ _ _ _ (by decide) (by decide), Dev.rd_wr_apart _ _ _ _ (by decide) (by decide)]
  exact h4

theorem Dev.withCur_frame (c : Option NvCur) (s : Dev) : Dev.Frame [] [.nv] s (s.withCur c) := (Dev.Frame.refl _ _ s).nv _

/-- The parts that the start of a write reaches. -/
theorem Dev.nvStart_frame {s : Dev} {q : NvReq} {rest : List NvReq} (hcur : s.nv.cur = none) (hq : s.nv.queue = q :: rest)
    (htrip : s.nv.tripped = false) (hrec : s.on F.NV_STAT_RECOVERED = true) (hst : s.rd F.HIF_ST_STAT_STATE = 2) :
    Dev.Frame [15, 16] [.nv, .bm, .evq, .fc, .freeCtr, .mbx] s s.nvStart := by
  have hqueue : Dev.Frame [15, 16] [.nv, .bm, .evq, .fc, .freeCtr, .mbx] s (s.withQueue rest) := (Dev.Frame.refl _ _ s).nv _
  rw [Dev.nvStart_eq hcur hq htrip hrec hst]
  split
  · exact hqueue.then (Dev.nvEnd_frame _ _ _ _)
  · split
    · exact (hqueue.then (Dev.withCur_frame _ _)).then (Dev.nvDepth_frame _)
    · split
      · exact hqueue.then (Dev.nvEnd_frame _ _ _ _)
      · exact (((hqueue.then (Dev.nvEvict_frame _ _ _)).then (Dev.withCur_frame _ _)).then (Dev.journalPut_frame _ _ _ _ _ _)).then
          (Dev.nvDepth_frame _)

/-! ### A page operation ends (09 R232) -/

/-- The page under the operation in progress. -/
def NvCur.at (c : NvCur) : Nat := slotPage c.slot c.copyB + c.page

/-- The block with the page under way programmed. -/
def Dev.programmed (s : Dev) (c : NvCur) : Dev := s.setPage c.at ((c.bytes.drop (4096 * c.page)).take 4096)

/-- The slot that a journal entry of this write names. -/
def NvCur.jslot (c : NvCur) : Nat := if c.slot = identSlot then 0 else c.slot

theorem Dev.nvPageDone_eq {s : Dev} {c : NvCur} (hc : s.nv.cur = some c) (verify : Bool) : s.nvPageDone verify =
    if c.req.erase then
      if c.copyB then (s.erasePage c.at).withCur (some { c with copyB := false }) else (s.erasePage c.at).nvEnd c.req true 0
    else if c.erasing then (s.erasePage c.at).withCur (some { c with erasing := false })
    else if (s.programmed c).nv.tripped then ((s.programmed c).withCur none).nvDepth
    else if c.page + 1 < c.pages then (s.programmed c).withCur (some { c with page := c.page + 1, erasing := true })
    else if !verify then (s.programmed c).nvEnd c.req false 0
    else if c.copyB then
      ((((s.programmed c).journal 3 c.req.ty c.jslot c.req.key c.gen).count F.NV_WRITES).nvEnd c.req true c.gen)
    else ((s.programmed c).journal 2 c.req.ty c.jslot c.req.key c.gen).withCur (some { c with copyB := true, page := 0, erasing := true }) := by
  unfold Dev.nvPageDone
  rw [hc]
  rfl

theorem Dev.nvPageDone_frame (verify : Bool) (s : Dev) : Dev.Frame [15, 16] [.nv, .bm, .evq, .mbx] s (s.nvPageDone verify) := by
  cases hc : s.nv.cur with
  | none =>
    unfold Dev.nvPageDone
    rw [hc]
    exact .refl _ _ s
  | some c =>
    have her : Dev.Frame [15, 16] [.nv, .bm, .evq, .mbx] s (s.erasePage c.at) := (s.erasePage_frame _).mono
    have hpr : Dev.Frame [15, 16] [.nv, .bm, .evq, .mbx] s (s.programmed c) := (s.setPage_frame _ _).mono
    rw [Dev.nvPageDone_eq hc]
    generalize s.erasePage c.at = e at her
    generalize s.programmed c = u at hpr
    split
    · split
      · exact her.then (Dev.withCur_frame _ _)
      · exact her.then (Dev.nvEnd_frame _ _ _ _)
    · split
      · exact her.then (Dev.withCur_frame _ _)
      · split
        · exact (hpr.then (Dev.withCur_frame _ _)).then (Dev.nvDepth_frame _)
        · split
          · exact hpr.then (Dev.withCur_frame _ _)
          · split
            · exact hpr.then (Dev.nvEnd_frame _ _ _ _)
            · split
              · exact ((hpr.then (u.journal_frame _ _ _ _ _)).count _).then (Dev.nvEnd_frame _ _ _ _)
              · exact (hpr.then (u.journal_frame _ _ _ _ _)).then (Dev.withCur_frame _ _)

/-- A write that is committed (R232). -/
theorem Dev.nvCommit_spec (s : Dev) (ty slot key gen : Nat) (q : NvReq) :
    let t := (((s.journalPut 3 ty slot key gen).count F.NV_WRITES).nvEnd q true gen)
    t.nv.cur = none ∧ t.nv.queue = s.nv.queue ∧ t.nv.jpos = (s.nv.jpos + 1) % 8192 ∧
      t.rd F.NV_WRITES = min (s.rd F.NV_WRITES + 1) 0xFFFFFFFF := by
  intro t
  obtain ⟨h1, h2, h3⟩ := s.journalPut_nv 3 ty slot key gen
  have hw : (s.journalPut 3 ty slot key gen).rd F.NV_WRITES = s.rd F.NV_WRITES := by
    simp only [Dev.rd, s.journalPut_reg 3 ty slot key gen (show F.NV_WRITES.reg ∉ [R.NV_WEAR_MAX, R.NV_EVT, R.NV_JSEQ] by decide)]
  simp only [t]
  generalize s.journalPut 3 ty slot key gen = u at h1 h2 h3 hw ⊢
  have hu : (u.count F.NV_WRITES).nv = u.nv := Dev.Keeps.wr u _ _ .nv (by simp)
  have hn := (u.count F.NV_WRITES).nvEnd_nv q true gen
  have hd : ((u.count F.NV_WRITES).withCur none).nvDepth.rd F.NV_WRITES = (u.count F.NV_WRITES).rd F.NV_WRITES :=
    (Dev.rd_wrB_apart _ _ _ _ (by decide) (by decide)).trans (Dev.rd_wr_apart _ _ _ _ (by decide) (by decide))
  have hr : (u.count F.NV_WRITES).rd F.NV_WRITES = min (u.rd F.NV_WRITES + 1) 0xFFFFFFFF := Dev.rd_count_self _ _ _ (by decide) rfl
  rw [hn, hu]
  refine ⟨rfl, h2, h3, ?_⟩
  rw [((u.count F.NV_WRITES).nvEnd_from q true gen).rd F.NV_WRITES, hd, hr, hw]

/-! ### The record scan and nv.record (09 R234, R236) -/

theorem Dev.nvQueue_frame (s : Dev) (r : NvReq) : Dev.Frame [16] [.nv] s (s.nvQueue r) := ((Dev.Frame.refl _ _ s).nv _).then (Dev.nvDepth_frame _)

theorem Dev.nvQueue_nv (s : Dev) (r : NvReq) : (s.nvQueue r).nv = { s.nv with queue := s.nv.queue ++ [r] } := Dev.nvDepth_nv _

/-- The rewrite that the record of a slot needs, when it is older than that age. -/
def Dev.nvOld (s : Dev) (age o : Nat) : Option NvReq := (s.nvWin o).bind fun c =>
  if c.stamp + age < s.now then some { ty := slotType o, key := c.key, refresh := true } else none

/-- A slot's record is queued for its rewrite when it needs one. -/
def Dev.nvRenew (age : Nat) (s : Dev) (o : Nat) : Dev := match s.nvWin o with
  | some c => if c.stamp + age < s.now then s.nvQueue { ty := slotType o, key := c.key, refresh := true } else s
  | none => s

theorem Dev.nvRenew_frame (age : Nat) (s : Dev) (o : Nat) : Dev.Frame [16] [.nv] s (s.nvRenew age o) := by
  unfold Dev.nvRenew
  split
  · split
    · exact s.nvQueue_frame _
    · exact .refl _ _ s
  · exact .refl _ _ s

theorem Dev.nvRenew_nv (age : Nat) (s : Dev) (o : Nat) :
    (s.nvRenew age o).nv = { s.nv with queue := s.nv.queue ++ (s.nvOld age o).toList } := by
  unfold Dev.nvRenew Dev.nvOld
  cases s.nvWin o with
  | none => simp
  | some c =>
    dsimp only [Option.bind]
    by_cases h : c.stamp + age < s.now
    · rw [if_pos h, if_pos h, s.nvQueue_nv]
      rfl
    · rw [if_neg h, if_neg h, Option.toList_none, List.append_nil]

/-- The scan queues the rewrites that are needed in the order of the slots; its own writes to the queue make none needed. -/
theorem Dev.nvRenew_each (age : Nat) (l : List Nat) (s : Dev) :
    (Dev.each l (Dev.nvRenew age) s).nv = { s.nv with queue := s.nv.queue ++ l.filterMap (s.nvOld age) } := by
  induction l generalizing s with
  | nil => simp
  | cons o l ih =>
    have hold (x : Nat) : (s.nvRenew age o).nvOld age x = s.nvOld age x := by
      have hnow : (s.nvRenew age o).now = s.now := (s.nvRenew_frame age o).within.rd2 _ (by decide) (by decide)
      have hpages : (s.nvRenew age o).nv.pages = s.nv.pages := by rw [s.nvRenew_nv]
      rw [Dev.nvOld, Dev.nvOld, hnow, Dev.nvWin_congr hpages]
    show (Dev.each l (Dev.nvRenew age) (s.nvRenew age o)).nv = _
    rw [ih, funext hold, s.nvRenew_nv, List.filterMap_cons]
    cases s.nvOld age o <;> simp

/-- The record store after the scans since the last refresh have been counted. -/
def Dev.withDays (n : Nat) (s : Dev) : Dev := { s with nv := { s.nv with days := n } }

theorem Dev.nvScan_eq (s : Dev) : s.nvScan =
    if s.nvScanAll.nv.days + 1 < s.nvScanAll.rd F.NV_REFRESH_DAYS then s.nvScanAll.withDays (s.nvScanAll.nv.days + 1)
    else Dev.each nvSlots (Dev.nvRenew (s.nvScanAll.rd F.NV_REFRESH_DAYS * 86400000000)) (s.nvScanAll.withDays 0) := rfl

theorem Dev.nvScan_frame (s : Dev) : Dev.Frame [16] [.nv, .bm, .evq, .fc] s s.nvScan := by
  have hs := (Dev.OnDie.nvScanAll s).frame
  rw [Dev.nvScan_eq]
  split
  · exact hs.nv _
  · exact (hs.nv _).trans (.each _ _ _ fun d o _ => (d.nvRenew_frame _ o).mono)

theorem UnderWay.of_take (s : State) (mb : BitVec 3) {d : Dev} (h : d.mbx = s.dev.mbx.mod mb.toNat (fun m => { m with taken := true })) :
    UnderWay s { s with dev := d } mb := by
  refine ⟨?_, fun k hk => ?_⟩
  · rw [show ({ s with dev := d } : State).dev.mbx = _ from h]
    exact Tbl.get_mod_self _ _ _
  · rw [show ({ s with dev := d } : State).dev.mbx = _ from h]
    exact Tbl.get_mod_ne _ hk.symm _

theorem Dev.nvQueue_tx (s : Dev) (r : NvReq) : (s.nvQueue r).tx = s.tx := rfl

theorem Dev.nvQueue_mbx (s : Dev) (r : NvReq) : (s.nvQueue r).mbx = s.mbx := (s.nvQueue_frame r).part .mbx

theorem Dev.nvQueue_qdepth (s : Dev) (r : NvReq) : (s.nvQueue r).rd F.NV_STAT_QDEPTH = min 255 (s.nv.queue.length + 1) :=
  (Dev.nvDepth_qdepth _).trans (by rw [List.length_append]; rfl)

/-- A WRITE whose request is in range waits for its data, or is refused when they cannot be read. -/
theorem Dev.nvWrite_go {m : Mbx} (mb : Nat) (h : (m.nvTy = 0x30 ∧ m.nvKey = 0 ∧ m.fld 16 4 ≤ 0x017FFFC0) ∨
    (0x100 ≤ m.nvTy ∧ m.nvTy ≤ 0x13F ∧ m.fld 16 4 ≤ 4032)) (halign : m.fld 20 8 % 64 = 0) (s : Dev) :
    (∀ l, s.nvWrite mb m (some l) = ((s.take mb).send (.hostRead (BitVec.ofNat 64 (m.fld 20 8)) (m.fld 16 4))).nvQueue
      { mb := some mb, ty := m.nvTy, key := m.nvKey, payload := fit (m.fld 16 4) l }) ∧ s.nvWrite mb m none = s.refuse mb 0x0C03 := by
  have hty : (!nvTypeOk m.nvTy) = false := by
    simp only [nvTypeOk, Bool.not_eq_false', Bool.or_eq_true, Bool.and_eq_true, decide_eq_true_eq, beq_iff_eq]
    omega
  have h4 : ¬ (m.nvTy = 0x30 ∧ m.nvKey ≠ 0) := by omega
  have h16 : ¬ ((m.nvTy = 0x30 ∧ 0x017FFFC0 < m.fld 16 4) ∨ ((decide (0x100 ≤ m.nvTy) && decide (m.nvTy ≤ 0x13F)) = true ∧ 4032 < m.fld 16 4)) := by
    simp only [Bool.and_eq_true, decide_eq_true_eq]
    omega
  have hkept : (!(m.nvTy == 0x30 || (decide (0x100 ≤ m.nvTy) && decide (m.nvTy ≤ 0x13F)))) = false := by
    simp only [Bool.not_eq_false', Bool.or_eq_true, Bool.and_eq_true, decide_eq_true_eq, beq_iff_eq]
    omega
  have hgo (data : Option (List Byte)) : s.nvWrite mb m data = data.elim (s.refuse mb 0x0C03) fun l =>
      ((s.take mb).send (.hostRead (BitVec.ofNat 64 (m.fld 20 8)) (m.fld 16 4))).nvQueue
        { mb := some mb, ty := m.nvTy, key := m.nvKey, payload := fit (m.fld 16 4) l } := by
    unfold Dev.nvWrite
    dsimp only
    rw [if_neg (by rw [hty]; exact Bool.false_ne_true), if_neg h4, if_neg h16, if_neg (not_not.mpr halign),
      if_neg (by rw [hkept]; exact Bool.false_ne_true)]
    cases data <;> rfl
  exact ⟨fun l => hgo (some l), hgo none⟩

end Sys2Proof.Machine

namespace Sys2Proof.Proofs
open Sys2Proof.Machine

/-- Settles O15, by the four ways that a start takes: no record to work on, an erase, the last generation used, a first erase. -/
theorem recordWriteStart : Obligations.RecordWriteStart := by
  unfold Obligations.RecordWriteStart
  intro s q rest hrun hcur hq htrip hrec hst o held q' gen
  have hexec : exec .nvWriteStart s = .next { s with dev := s.fresh.dev.nvStart } := State.onDev_next s _ hrun
  have heq := Dev.nvStart_eq (s := s.fresh.dev) hcur hq htrip hrec hst
  have hframe := Dev.nvStart_frame (s := s.fresh.dev) hcur hq htrip hrec hst
  have hheld : s.fresh.dev.nvHeld q = held := rfl
  have hgen : s.fresh.dev.nvNextGen (s.fresh.dev.nvSlotFor q.ty q.key).1 = gen := rfl
  rw [hheld, hgen] at heq
  refine ⟨_, hexec, ?_⟩
  by_cases hnone : ((q.erase || q.refresh) && held.isNone) = true
  · rw [if_pos hnone] at heq
    rw [heq] at hframe ⊢
    obtain ⟨hop, hno⟩ : (q.erase = true ∨ q.refresh = true) ∧ held = none := by simpa using hnone
    have hnv := (s.fresh.dev.withQueue rest).nvEnd_nv (s.fresh.dev.nvAsked q) false 0
    dsimp only
    rw [Dev.nvEnd_qdepth, Dev.nvEnd_busy, hnv]
    refine ⟨rfl, fun _ _ => ⟨rfl, rfl⟩, fun _ h => absurd hno h, fun he h => ?_, fun _ _ => rfl, rfl, rfl, hframe.only⟩
    rw [he] at hop
    exact absurd hno (h (hop.resolve_left Bool.false_ne_true))
  rw [if_neg hnone] at heq
  have hsome : (q.erase = true ∨ q.refresh = true) → held ≠ none := by simpa [Option.isNone_iff_eq_none] using hnone
  by_cases he : q.erase = true
  · rw [if_pos he] at heq
    rw [heq] at hframe ⊢
    dsimp only
    rw [Dev.nvDepth_qdepth, Dev.nvDepth_busy, Dev.nvDepth_nv]
    exact ⟨rfl, fun h h' => absurd h' (hsome h), fun _ _ => ⟨rfl, rfl⟩, fun h => absurd he (by simp [h]), fun h => absurd he (by simp [h]),
      rfl, rfl, hframe.only⟩
  rw [if_neg he] at heq
  by_cases hlast : gen = 0xFFFFFFFF
  · rw [if_pos hlast] at heq
    rw [heq] at hframe ⊢
    have hnv := (s.fresh.dev.withQueue rest).nvEnd_nv (s.fresh.dev.nvAsked q) false 0
    dsimp only
    rw [Dev.nvEnd_qdepth, Dev.nvEnd_busy, hnv]
    exact ⟨rfl, fun h h' => absurd h' (hsome h), fun h => absurd h he, fun _ _ h => absurd hlast h, fun _ _ => rfl, rfl, rfl, hframe.only⟩
  · rw [if_neg hlast] at heq
    rw [heq] at hframe ⊢
    have hev := s.fresh.dev.nvEvict_frame q (s.fresh.dev.withQueue rest)
    have hnv : (s.fresh.dev.nvEvict q (s.fresh.dev.withQueue rest)).nv = { s.dev.nv with queue := rest } := hev.part .nv
    have hseq := hev.rd F.NV_JSEQ
    generalize s.fresh.dev.nvEvict q (s.fresh.dev.withQueue rest) = e at hframe hnv hseq ⊢
    obtain ⟨h1, h2, h3, h4, h5, h6⟩ := e.nvFirst_spec (s.fresh.dev.nvFirst q) q.ty (if o = identSlot then 0 else o) q.key gen
    have h1' := congrArg Option.isSome h1
    rw [hnv] at h2 h3 h5
    rw [hseq] at h4
    exact ⟨h2, fun h h' => absurd h' (hsome h), fun h => absurd h he, fun _ _ _ => ⟨_, h1, rfl, rfl, hgen, rfl, rfl, rfl, rfl, h3, h4⟩,
      fun _ h => absurd h hlast, h5, h6.trans h1'.symm, hframe.only⟩

/-- Settles O16, stage by stage of the write in progress. -/
theorem recordPages : Obligations.RecordPages := by
  unfold Obligations.RecordPages
  intro s verify c hrun hc p
  have hexec : exec (.nvPageOpDone verify) s = .next { s with dev := s.fresh.dev.nvPageDone verify } := State.onDev_next s _ hrun
  have heq := Dev.nvPageDone_eq (s := s.fresh.dev) hc verify
  have hframe := s.fresh.dev.nvPageDone_frame verify
  have her : (s.fresh.dev.erasePage c.at).nv =
      { s.dev.nv with pages := s.dev.nv.pages.set p [], wear := s.dev.nv.wear.set p (s.dev.nv.wear.get p + 1) } := s.fresh.dev.erasePage_nv c.at
  have hget := Tbl.get_set_self s.dev.nv.pages p ([] : List Byte)
  have hwear := Tbl.get_set_self s.dev.nv.wear p (s.dev.nv.wear.get p + 1)
  have hne (k : Nat) (hk : k ≠ p) : (s.dev.nv.pages.set p []).get k = s.dev.nv.pages.get k := Tbl.get_set_ne _ hk.symm _
  have hpr : (s.fresh.dev.programmed c).nv = { s.dev.nv with pages := s.dev.nv.pages.set p ((c.bytes.drop (4096 * c.page)).take 4096) } := rfl
  have hprw : (s.fresh.dev.programmed c).rd F.NV_WRITES = s.dev.rd F.NV_WRITES := rfl
  have hprget := Tbl.get_set_self s.dev.nv.pages p ((c.bytes.drop (4096 * c.page)).take 4096)
  generalize s.fresh.dev.erasePage c.at = e at heq her
  generalize s.fresh.dev.programmed c = u at heq hpr hprw
  have honly := hframe.only
  refine ⟨_, hexec, ?_⟩
  generalize s.fresh.dev.nvPageDone verify = t at heq honly ⊢
  clear hframe hexec
  by_cases hop : c.req.erase = true
  · rw [if_pos hop] at heq
    by_cases hb : c.copyB = true
    · rw [if_pos hb] at heq
      have ht : t.nv = { e.nv with cur := some { c with copyB := false } } := by rw [heq]; rfl
      simpa [honly, hop, hb, ht, her, hget, hwear] using hne
    · rw [if_neg hb] at heq
      have ht : t.nv = { e.nv with cur := none } := by rw [heq, Dev.nvEnd_nv]
      simpa [honly, hop, hb, ht, her, hget, hwear] using hne
  rw [if_neg hop] at heq
  by_cases herasing : c.erasing = true
  · rw [if_pos herasing] at heq
    have ht : t.nv = { e.nv with cur := some { c with erasing := false } } := by rw [heq]; rfl
    simpa [honly, hop, herasing, ht, her, hget, hwear] using hne
  rw [if_neg herasing] at heq
  by_cases htrip : s.dev.nv.tripped = true
  · rw [if_pos (by rw [hpr]; exact htrip)] at heq
    have ht : t.nv = { u.nv with cur := none } := by rw [heq, Dev.nvDepth_nv]; rfl
    simp [honly, hop, herasing, htrip, ht, hpr, hprget]
  rw [if_neg (by rw [hpr]; exact htrip)] at heq
  by_cases hlast : c.page + 1 < c.pages
  · rw [if_pos hlast] at heq
    have ht : t.nv = { u.nv with cur := some { c with page := c.page + 1, erasing := true } } := by rw [heq]; rfl
    simp [honly, hop, herasing, htrip, hlast, ht, hpr, hprget]
  rw [if_neg hlast] at heq
  have hj (st : Nat) : u.journal st c.req.ty c.jslot c.req.key c.gen = u.journalPut st c.req.ty c.jslot c.req.key c.gen :=
    if_neg (by rw [hpr]; exact htrip)
  rw [hj 3, hj 2] at heq
  have hmb (d : Dev) (good : Bool) (gen i : Nat) (hi : i < 8) (hm : c.req.mb = some i) (hcal : c.req.cal = false) :=
    d.nvEnd_write hi hm hcal good gen (by simpa using hop)
  cases verify with
  | false =>
    rw [if_pos (show (!false) = true from rfl)] at heq
    have ht : t.nv = { u.nv with cur := none } := by rw [heq, Dev.nvEnd_nv]
    have hans := hmb u false 0
    rw [← heq] at hans
    simpa [honly, hop, herasing, htrip, hlast, ht, hpr] using hans
  | true =>
    rw [if_neg (show ¬ (!true) = true from Bool.false_ne_true)] at heq
    by_cases hb : c.copyB = true
    · rw [if_pos hb] at heq
      obtain ⟨h1, h2, h3, h4⟩ := u.nvCommit_spec c.req.ty c.jslot c.req.key c.gen c.req
      rw [← heq] at h1 h2 h3 h4
      rw [hprw] at h4
      have hans := hmb ((u.journalPut 3 c.req.ty c.jslot c.req.key c.gen).count F.NV_WRITES) true c.gen
      rw [← heq] at hans
      simpa [honly, hop, herasing, htrip, hlast, hb, h1, h2, h3, h4, hpr] using hans
    · rw [if_neg hb] at heq
      obtain ⟨-, h2, h3⟩ := u.journalPut_nv 2 c.req.ty c.jslot c.req.key c.gen
      have h1 : t.nv.cur = some { c with copyB := true, page := 0, erasing := true } := by rw [heq]; rfl
      have h2' : t.nv.queue = u.nv.queue := by rw [heq]; exact h2
      have h3' : t.nv.jpos = (u.nv.jpos + 1) % 8192 := by rw [heq]; exact h3
      simp [honly, hop, herasing, htrip, hlast, hb, h1, h2', h3', hpr]

/-- Settles O17: the scan repairs; it queues what is old when the interval has passed. -/
theorem recordScan : Obligations.RecordScan := by
  unfold Obligations.RecordScan
  intro s hrun hst hrec
  have hexec : exec .nvRecordScan s = .next { s with dev := s.fresh.dev.nvScan } :=
    (State.onDev_next s _ hrun).trans (congrArg (fun e : Dev => (.next { s with dev := e } : Host.Outcome State Fault Refusal)) (if_pos ⟨hst, hrec⟩))
  have honly : Only [16] [.nv, .bm, .evq, .fc, .freeCtr] s { s with dev := s.fresh.dev.nvScan } := (s.fresh.dev.nvScan_frame.mono).only
  have heq := s.fresh.dev.nvScan_eq
  obtain ⟨p, w, j, hd⟩ : ∃ p w j, s.fresh.dev.nvScanAll.nv = s.dev.nv.ofDie p w j := (Dev.OnDie.nvScanAll s.fresh.dev).rest
  dsimp only
  generalize s.fresh.dev.nvScanAll = d at heq hd ⊢
  have hdays : d.nv.days = s.dev.nv.days := by rw [hd]; rfl
  have hqueue : d.nv.queue = s.dev.nv.queue := by rw [hd]; rfl
  refine ⟨_, hexec, ?_⟩
  rw [heq, hdays] at honly ⊢
  have hold : (fun o => (d.nvWin o).bind fun c => if c.stamp + d.rd F.NV_REFRESH_DAYS * 86400000000 < d.now then
      some { ty := slotType o, key := c.key, refresh := true } else none) = d.nvOld (d.rd F.NV_REFRESH_DAYS * 86400000000) := rfl
  rw [hold]
  generalize d.rd F.NV_REFRESH_DAYS * 86400000000 = age at honly ⊢
  by_cases hlt : s.dev.nv.days + 1 < d.rd F.NV_REFRESH_DAYS
  · rw [if_pos hlt] at honly ⊢
    exact ⟨rfl, fun _ => ⟨rfl, hqueue⟩, fun h => absurd hlt h, honly⟩
  · rw [if_neg hlt] at honly ⊢
    have hnv := Dev.nvRenew_each age nvSlots (d.withDays 0)
    have hq : (Dev.each nvSlots (Dev.nvRenew age) (d.withDays 0)).nv.queue = d.nv.queue ++ nvSlots.filterMap (d.nvOld age) := by
      rw [hnv]
      rfl
    generalize Dev.each nvSlots (Dev.nvRenew age) (d.withDays 0) = t at hnv hq honly ⊢
    exact ⟨by rw [hnv]; rfl, fun h => absurd h hlt, fun _ => ⟨by rw [hnv]; rfl, by rw [← hqueue]; exact hq⟩, honly⟩

/-- Settles O18, operation by operation. -/
theorem recordCommands : Obligations.RecordCommands := by
  unfold Obligations.RecordCommands
  intro s mb m hrun
  refine ⟨fun hask => ?_, fun hask hty hlen => ?_, fun hask hty halign => ⟨fun l => ?_, ?_⟩, fun hask hty => ?_⟩
  · have hexec : exec (.nvRecordList mb) s = .next { s with dev := s.fresh.dev.nvList mb.toNat m } := hask.run hrun _
    have hdie := Dev.OnDie.nvScanAll s.fresh.dev
    refine ⟨_, hexec, .of_finish (hdie.frame.part .mbx) _ _ _ _ _, ?_, ((hdie.frame.mono).ok _ _).only⟩
    obtain ⟨p, w, j, hnv⟩ := hdie.rest
    show (s.fresh.dev.nvScanAll.ok _ _).nv.queue = _
    rw [Dev.ok, Dev.finish_nv, hnv]
    rfl
  · have hexec : exec (.nvRecordRead mb) s = .next { s with dev := s.fresh.dev.nvRead mb.toNat m } := hask.run hrun _
    let o := (s.dev.nvSlotFor m.nvTy m.nvKey).1
    have hdie := (Dev.OnDie.nvCheck s.fresh.dev o).frame
    have heq : s.fresh.dev.nvRead mb.toNat m = match ((s.fresh.dev.nvCheck o).nvWin o).filter (fun c => c.key == m.nvKey) with
        | some c => if c.payload.length < m.fld 12 4 then (s.fresh.dev.nvCheck o).range mb.toNat 12
            else (s.fresh.dev.nvCheck o).ok mb.toNat (toLe 4 c.payload.length ++ zeros 4 ++ (c.payload.drop (m.fld 12 4)).take (m.fld 16 4))
        | none => (s.fresh.dev.nvCheck o).refuse mb.toNat 0 := by
      rw [Dev.nvRead, if_neg (by simp [hty]), if_neg (by omega)]
      rfl
    have hfold : s.fresh.dev.nvCheck (s.dev.nvSlotFor m.nvTy m.nvKey).1 = s.fresh.dev.nvCheck o := rfl
    refine ⟨_, hexec, ?_⟩
    rw [heq, hfold]
    have hmbx : (s.fresh.dev.nvCheck o).mbx = s.dev.mbx := hdie.part .mbx
    generalize s.fresh.dev.nvCheck o = d at hdie hmbx ⊢
    cases (d.nvWin o).filter (fun c => c.key == m.nvKey) with
    | none => exact ⟨.of_finish hmbx _ _ _ _ _, ((hdie.mono).refuse _ _).only⟩
    | some c =>
      dsimp only
      split
      · exact ⟨fun h => by omega, ((hdie.mono).range _ _).only⟩
      · exact ⟨fun _ => .of_finish hmbx _ _ _ _ _, ((hdie.mono).ok _ _).only⟩
  · have hgo := (Dev.nvWrite_go mb.toNat hty halign s.fresh.dev).1 l
    have hexec : exec (.nvRecordWrite mb (some l)) s = .next { s with dev := s.fresh.dev.nvWrite mb.toNat m (some l) } := hask.run hrun _
    rw [hgo] at hexec
    have hf : Dev.Frame [16] [.nv, .mbx] s.fresh.dev ((s.fresh.dev.take mb.toNat).send (.hostRead (BitVec.ofNat 64 (m.fld 20 8)) (m.fld 16 4))) :=
      ((Dev.Frame.refl _ _ _).take _).send _
    exact ⟨_, hexec, .of_take s mb (Dev.nvQueue_mbx _ _), Dev.nvQueue_tx _ _, Dev.nvQueue_nv _ _, Dev.nvQueue_qdepth _ _,
      (hf.then (Dev.nvQueue_frame _ _)).only⟩
  · have hexec : exec (.nvRecordWrite mb none) s = .next { s with dev := s.fresh.dev.nvWrite mb.toNat m none } := hask.run hrun _
    rw [(Dev.nvWrite_go mb.toNat hty halign s.fresh.dev).2] at hexec
    exact ⟨_, hexec, .of_finish rfl _ _ _ _ _, .of_finish s mb _ _ _ _⟩
  · have hexec : exec (.nvRecordErase mb) s = .next { s with dev := s.fresh.dev.nvErase mb.toNat m } := hask.run hrun _
    by_cases h : m.nvTy < 0x100
    · have heq : s.fresh.dev.nvErase mb.toNat m = s.fresh.dev.refuse mb.toNat 0 := by
        rw [Dev.nvErase, if_neg (by simp [hty]), if_pos h]
      rw [heq] at hexec
      exact ⟨_, hexec, fun h' => by omega, fun _ => .of_finish rfl _ _ _ _ _, ((Dev.Frame.refl _ _ _).refuse _ _).only⟩
    · have heq : s.fresh.dev.nvErase mb.toNat m =
          (s.fresh.dev.take mb.toNat).nvQueue { mb := some mb.toNat, ty := m.nvTy, key := m.nvKey, erase := true } := by
        rw [Dev.nvErase, if_neg (by simp [hty]), if_neg h]
      rw [heq] at hexec
      have hf : Dev.Frame [16] [.nv, .mbx] s.fresh.dev (s.fresh.dev.take mb.toNat) := (Dev.Frame.refl _ _ _).take _
      exact ⟨_, hexec, fun _ => ⟨.of_take s mb (Dev.nvQueue_mbx _ _), Dev.nvQueue_nv _ _⟩, fun h' => absurd h' h,
        (hf.then (Dev.nvQueue_frame _ _)).only⟩

end Sys2Proof.Proofs
end

section
-- One proof after another: in parallel the proofs of this text would not fit the memory that its check allows.
set_option Elab.async false
/-!
PROOFS. The end of a calibration run (09 R215, R219): a LANE run of a target that is no lane.
-/
namespace Sys2Proof.Proofs
open Sys2Proof.Machine

/-- A LANE run whose target lies past the 128 lanes, and whose registers would lie past the block CAL. -/
def farRun : CalRun := { kind := 1, target := 65536 }

/-- The state after reset with that run, and its target in TRAIN. -/
def farRunning : State :=
  { State.reset with dev := ({ State.reset.dev with cal := { State.reset.dev.cal with runs := [farRun] } }).wr (F.VL_LSTAT_STATE 65536) 2 }

/-- Refutes O19: a LANE run sets its target's CAL_LRX0 and changes registers of CAL and TH only, the statement says, of every run that
stands; but CAL_LRX0 of a target that is no lane lies in another block. No cal.run starts such a run. -/
theorem not_calibrationRuns : ¬ Obligations.CalibrationRuns := by
  unfold Obligations.CalibrationRuns
  rintro ⟨-, h⟩
  have hready : farRunning.dev.calReady 1 65536 = true := by
    have hst : farRunning.dev.rd (F.VL_LSTAT_STATE 65536) = 2 := Dev.rd_wr_self _ _ _ (by decide)
    simp [Dev.calReady, hst]
  obtain ⟨t, resp, -, -, -, -, -, -, -, -, -, hlane, -, -, -, honly⟩ :=
    (h farRunning 65536 (List.replicate 6 ⟨3, 3, 3⟩) true farRun rfl rfl (by decide) (by decide) (by decide)).2.2
      (List.replicate 6 3) (by decide) hready (fun _ => rfl) (fun _ => by decide) (by decide) (by decide) (by decide)
  obtain ⟨hwithin, -⟩ := honly rfl (by decide)
  have hset : t.dev.rd (F.CAL_LRX0_RXDLY 65536) = 3 := (hlane rfl).1
  have hkept : t.dev.rd (F.CAL_LRX0_RXDLY 65536) = farRunning.dev.rd (F.CAL_LRX0_RXDLY 65536) := hwithin.rd _ (by decide)
  have hzero : farRunning.dev.rd (F.CAL_LRX0_RXDLY 65536) = 0 := by
    refine (Dev.rd_wr_apart _ _ _ _ (by decide) (by decide)).trans ?_
    decide
  omega

end Sys2Proof.Proofs
end

section
-- One proof after another: in parallel the proofs of this text would not fit the memory that its check allows.
set_option Elab.async false
/-!
PROOFS. Stints, injections and captures (09 R220, R224 to R228): their requests that are in order, and their ends.
-/
namespace Sys2Proof.Machine

theorem Dev.calStat_cal (s : Dev) : s.calStat.cal = s.cal := s.calStat_frame.part .cal

theorem Dev.calStat_mbx (s : Dev) : s.calStat.mbx = s.mbx := s.calStat_frame.part .mbx

theorem Dev.calStat_reg (s : Dev) {off : Nat} (h : off ≠ R.CAL_STAT) : s.calStat.reg off = s.reg off := by
  unfold Dev.calStat
  dsimp only
  rw [Dev.reg_wrB_ne _ (Ne.symm h), Dev.reg_wr_ne _ (Ne.symm h), Dev.reg_wr_ne _ (Ne.symm h), Dev.reg_wrB_ne _ (Ne.symm h),
    Dev.reg_wr_ne _ (Ne.symm h)]

theorem Dev.calStat_capture (s : Dev) : s.calStat.on F.CAL_STAT_CAPTURE = !s.cal.caps.isEmpty := Dev.on_wrB_self _ _ _ (by decide) rfl

/-- The block with other stints, injections or captures. -/
def Dev.withStints (l : List Stint) (s : Dev) : Dev := { s with cal := { s.cal with stints := l } }
def Dev.withInj (l : Tbl (Option Inj)) (s : Dev) : Dev := { s with cal := { s.cal with inj := l } }
def Dev.withCaps (l : List Cap) (no : Nat) (s : Dev) : Dev := { s with cal := { s.cal with caps := l, capNo := no } }

theorem Dev.withStints_frame (l : List Stint) (s : Dev) : Dev.Frame [] [.cal] s (s.withStints l) := (Dev.Frame.refl _ _ s).cal _
theorem Dev.withInj_frame (l : Tbl (Option Inj)) (s : Dev) : Dev.Frame [] [.cal] s (s.withInj l) := (Dev.Frame.refl _ _ s).cal _
theorem Dev.withCaps_frame (l : List Cap) (no : Nat) (s : Dev) : Dev.Frame [] [.cal] s (s.withCaps l no) := (Dev.Frame.refl _ _ s).cal _

/-! ### Stints -/

/-- The stint that a char.sweep asks for. -/
def sweepStint (mb : Nat) (m : Mbx) : Stint :=
  let w (o : Nat) : BitVec 16 := BitVec.ofNat 16 (m.fld o 2)
  { mb := mb, vat := m.fld 0 1, cells := mapBits ((m.req.drop 28).take 32), sweep := bit (m.fld 1 1) 0, tstate := bit (m.fld 1 1) 1,
    probe := m.fld 2 2, plevel := w 4, idle := mapBits ((m.req.drop 60).take 512), maxdur := m.fld 16 4, start := w 6,
    stop := w 8, step := w 10, dwell := m.fld 12 2, ring := m.fld 14 1 }

theorem Dev.sweepStart_go {s : Dev} {m : Mbx} (mb : Nat) (hbad : sweepBad m = none) (hplan : s.on F.GL_STAT_PLAN = true)
    (hcells : (mapBits ((m.req.drop 28).take 32)).all (s.cellLoop (m.fld 0 1)) = true)
    (hprobe : m.fld 2 2 ≠ 0x3FF → s.chUsed (m.fld 0 1) (m.fld 2 2) = false ∧ m.fld 2 2 < s.ndrvOf (m.fld 0 1))
    (hfree : (mapBits ((m.req.drop 28).take 32)).any (fun l => s.cal.stints.any (fun t => t.vat == m.fld 0 1 && t.cells.contains l) ||
      s.liveInj.any (fun j => j.vat == m.fld 0 1 && j.loops.contains l)) = false) :
    s.sweepStart mb m = ((s.take mb).withStints (s.cal.stints ++ [sweepStint mb m])).calStat := by
  have hbad4 : ¬ ((!(mapBits ((m.req.drop 28).take 32)).all (s.cellLoop (m.fld 0 1))) = true ∧ s.on F.GL_STAT_PLAN = true ∨
      (m.fld 2 2 ≠ 0x3FF ∧ (s.chUsed (m.fld 0 1) (m.fld 2 2) = true ∨ s.ndrvOf (m.fld 0 1) ≤ m.fld 2 2) ∧ s.on F.GL_STAT_PLAN = true)) := by
    rintro (⟨h, -⟩ | ⟨h, h' | h', -⟩)
    · rw [hcells] at h
      exact Bool.noConfusion h
    · rw [(hprobe h).1] at h'
      exact Bool.noConfusion h'
    · exact absurd (hprobe h).2 (by omega)
  unfold Dev.sweepStart
  rw [hbad]
  dsimp only
  rw [if_neg hbad4, if_neg (by rw [hfree]; exact Bool.false_ne_true), if_neg (by rw [hplan]; exact Bool.false_ne_true)]
  rfl

theorem Dev.stintOver_frame (s : Dev) (t : Stint) : Dev.Frame [15] [.cal, .mbx] s (s.stintOver t) := by
  unfold Dev.stintOver
  extract_lets c u
  have hu : Dev.Frame [15] [.cal, .mbx] s u := ((Dev.Frame.refl _ _ s).cal _).then (Dev.calStat_frame _)
  clear_value u
  split
  · exact hu.finish _ _ _ _ _
  · exact hu.ok _ _

theorem Dev.stintOver_stints (s : Dev) (t : Stint) : (s.stintOver t).cal.stints = s.cal.stints.filter (· != t) := by
  unfold Dev.stintOver
  extract_lets c u
  have hu : u.cal.stints = s.cal.stints.filter (· != t) := congrArg Cal.stints (Dev.calStat_cal _)
  clear_value u
  split
  · rw [Dev.finish_cal, hu]
  · rw [Dev.ok, Dev.finish_cal, hu]

/-- Stints that end leave the others. -/
theorem Dev.stintOver_each (l : List Stint) (s : Dev) :
    (Dev.each l Dev.stintOver s).cal.stints = s.cal.stints.filter (fun t => !l.contains t) := by
  induction l generalizing s with
  | nil => simp
  | cons t l ih =>
    show (Dev.each l Dev.stintOver (s.stintOver t)).cal.stints = _
    rw [ih, Dev.stintOver_stints, List.filter_filter]
    refine List.filter_congr fun u _ => ?_
    rw [List.contains_cons, Bool.not_or]
    exact Bool.and_comm _ _

/-- Every stint of the vat is asked to stop. -/
def stopAll (v : Nat) (l : List Stint) : List Stint := l.map fun t => if t.vat = v then { t with stopReq := true } else t

/-- A stint of the list that is of the vat has been asked to stop. -/
theorem stopReq_of_stopAll {v : Nat} {l : List Stint} {u : Stint} (h : u ∈ stopAll v l) (hv : u.vat = v) : u.stopReq = true := by
  obtain ⟨t, -, rfl⟩ := List.mem_map.mp h
  by_cases ht : t.vat = v
  · rw [if_pos ht]
  · rw [if_neg ht] at hv
    exact absurd hv ht

/-- Stints of the vat that have not entered. -/
def unentered (v : Nat) (l : List Stint) : List Stint := l.filter fun t => t.vat == v && t.entered.isNone

theorem Dev.charStop_go {s : Dev} {m : Mbx} (mb : Nat) (hv : m.fld 0 1 ≤ 63) (hany : s.cal.stints.any (fun t => t.vat == m.fld 0 1) = true) :
    s.charStop mb m = (Dev.each (unentered (m.fld 0 1) (stopAll (m.fld 0 1) s.cal.stints)) Dev.stintOver
      (s.withStints (stopAll (m.fld 0 1) s.cal.stints))).ok mb [] := by
  unfold Dev.charStop
  have hmine : (s.cal.stints.filter (fun t => t.vat == m.fld 0 1)).isEmpty = false := by
    simpa [List.isEmpty_eq_false_iff, List.filter_eq_nil_iff] using hany
  dsimp only
  rw [if_neg (by omega), if_neg (by rw [hmine]; exact Bool.false_ne_true)]
  rfl

/-! ### Injections -/

/-- The injection that an inject.start asks for. -/
def askedInj (m : Mbx) : Inj :=
  { vat := m.fld 0 1, ty := m.fld 1 1, openMode := m.fld 2 1 == 1, w := BitVec.ofNat 4 (m.fld 3 1), amp := BitVec.ofNat 16 (m.fld 4 2),
    per := m.fld 6 2, ns := m.fld 8 4, s0 := m.fld 12 8, loops := ((injElems m).filter (!·.1)).map (·.2),
    aux := ((injElems m).filter (·.1)).map (·.2) }

/-- The loop or channel that an element names takes the injection's operation. -/
def Dev.injTakes (s : Dev) (m : Mbx) (x : Bool × Nat) : Prop :=
  (x.1 = false → let d := s.descs.get (loopKey (m.fld 0 1) x.2)
    if m.fld 1 1 = 4 then d.isPort = true else d.used = true) ∧
  (x.1 = true → m.fld 1 1 ≠ 4 ∧ s.chUsed (m.fld 0 1) x.2 = false ∧ x.2 < s.ndrvOf (m.fld 0 1))

/-- No stint or injection has the loop or channel that an element names. -/
def Dev.injApart (s : Dev) (m : Mbx) (x : Bool × Nat) : Prop :=
  s.cal.stints.any (fun t => t.vat == m.fld 0 1 && (if x.1 then t.probe == x.2 else t.cells.contains x.2)) = false ∧
  s.liveInj.any (fun j => j.vat == m.fld 0 1 && (if x.1 then j.aux else j.loops).contains x.2) = false

theorem mem_injLoops {m : Mbx} {l : Nat} : l ∈ ((injElems m).filter (!·.1)).map (·.2) ↔ (false, l) ∈ injElems m := by
  simp [List.mem_map, List.mem_filter]

theorem mem_injAux {m : Mbx} {c : Nat} : c ∈ ((injElems m).filter (·.1)).map (·.2) ↔ (true, c) ∈ injElems m := by
  simp [List.mem_map, List.mem_filter]

/-- An injection is set, and CAL_STAT follows. -/
def Dev.injSet (s : Dev) (id : Nat) (x : Option Inj) : Dev := (s.withInj (s.cal.inj.set id x)).calStat

theorem Dev.injSet_get (s : Dev) (id : Nat) (x : Option Inj) : (s.injSet id x).cal.inj.get id = x := by
  rw [Dev.injSet, Dev.calStat_cal]
  show (s.cal.inj.set id x).get id = x
  exact Tbl.get_set_self _ _ _

theorem Dev.injSet_frame (s : Dev) (id : Nat) (x : Option Inj) : Dev.Frame [15] [.cal] s (s.injSet id x) :=
  (s.withInj_frame _).mono.then (Dev.calStat_frame _)

theorem Dev.injStart_go {s : Dev} {m : Mbx} (mb : Nat) {e : VatEntry} {id : Nat} (hbad : s.injBad m = none) (hplan : s.on F.GL_STAT_PLAN = true)
    (hvat : s.vatEntry (m.fld 0 1) = some e) (hid : s.injFree = some id) (hapart : ∀ x ∈ injElems m, s.injApart m x)
    (htakes : ∀ x ∈ injElems m, s.injTakes m x) :
    s.injStart mb m = (s.injSet id (some (askedInj m))).ok mb [BitVec.ofNat 8 id] := by
  unfold Dev.injStart
  rw [hbad]
  dsimp only
  rw [if_neg ?_, if_neg ?_, if_neg (by rw [hplan]; exact Bool.false_ne_true), hid]
  · rfl
  · rw [hid]
    simp only [List.any_eq_true, not_or]
    refine ⟨?_, ?_, ?_, by simp⟩
    · rintro ⟨l, hl, h⟩
      have hno := (hapart _ (mem_injLoops.mp hl)).1
      exact absurd h (by simpa using hno)
    · rintro ⟨c, hc, h⟩
      have hno := (hapart _ (mem_injAux.mp hc)).1
      exact absurd h (by simpa using hno)
    · rintro ⟨j, hj, h⟩
      simp only [Bool.and_eq_true, Bool.or_eq_true, List.any_eq_true] at h
      obtain ⟨hv, ⟨l, hl, h⟩ | ⟨c, hc, h⟩⟩ := h
      · have hno := (hapart _ (mem_injLoops.mp hl)).2
        exact absurd hno (by simpa using ⟨j, hj, by simpa using hv, by simpa using h⟩)
      · have hno := (hapart _ (mem_injAux.mp hc)).2
        exact absurd hno (by simpa using ⟨j, hj, by simpa using hv, by simpa using h⟩)
  · rintro ⟨-, h⟩
    rw [hvat, Bool.not_eq_true', Bool.and_eq_false_iff, Bool.and_eq_false_iff] at h
    obtain (h | h) | h := h
    · exact Bool.noConfusion h
    · rw [List.all_eq_false] at h
      obtain ⟨l, hl, h⟩ := h
      have hok := (htakes _ (mem_injLoops.mp hl)).1 rfl
      refine h ?_
      by_cases h4 : m.fld 1 1 = 4
      · simpa [h4] using hok
      · simpa [h4] using hok
    · rw [List.all_eq_false] at h
      obtain ⟨c, hc, h⟩ := h
      obtain ⟨h4, hused, hlt⟩ := (htakes _ (mem_injAux.mp hc)).2 rfl
      exact h (by simp [h4, hused, hlt])

/-- The injection as it stands once it has been cut short at the next opening. -/
def Dev.cutInj (s : Dev) (j : Inj) : Inj := { j with ns := min j.ns (s.le.frame + 2 - j.s0), stopped := true }

theorem Dev.injCut_go {s : Dev} {id : Nat} {j : Inj} (hj : s.cal.inj.get id = some j) (hstop : j.stopped = false) :
    s.injCut id = (s.injSet id (some (s.cutInj j))).event F.CAL_EVT_INJ_END := by
  unfold Dev.injCut
  rw [hj]
  dsimp only
  rw [if_neg (by rw [hstop]; exact Bool.false_ne_true)]
  rfl

theorem Dev.injStop_go {s : Dev} {m : Mbx} {j : Inj} (mb : Nat) (hid : m.fld 0 1 ≤ 7) (hj : s.cal.inj.get (m.fld 0 1) = some j)
    (hstop : j.stopped = false) : s.injStop mb m =
      (s.injCut (m.fld 0 1)).ok mb (toLe 8 (if (s.cutInj j).ns = 0 then 0 else j.s0 + (s.cutInj j).ns - 1)) := by
  unfold Dev.injStop
  dsimp only
  rw [if_neg (by omega), hj, show (some j).filter (fun j => !j.stopped) = some j by simp [hstop]]
  rfl

theorem Dev.injEnd_frame (id : Nat) (s : Dev) : Dev.Frame [15] [.cal, .evq] s (s.injEnd id) := by
  unfold Dev.injEnd
  split
  · split
    · have h := (s.injSet_frame id none).mono (w' := [15]) (l' := [.cal, .evq])
      exact h.when' _ ((Dev.Frame.refl _ _ _).event _)
    · exact .refl _ _ s
  · exact .refl _ _ s

theorem Dev.injEnd_go {s : Dev} {id : Nat} {j : Inj} (hj : s.cal.inj.get id = some j) (hover : j.over s.le.frame = true) :
    s.injEnd id = Dev.when (!j.stopped) (·.event F.CAL_EVT_INJ_END) (s.injSet id none) := by
  unfold Dev.injEnd
  rw [hj]
  exact if_pos hover

theorem Dev.when_event_cal (c : Bool) (f : Fld) (u : Dev) : (Dev.when c (·.event f) u).cal = u.cal :=
  Dev.when_eq Dev.cal _ _ u (Dev.Keeps.event u _ .cal (by decide))

theorem Dev.injEnd_get {s : Dev} {id : Nat} {j : Inj} (hj : s.cal.inj.get id = some j) (hover : j.over s.le.frame = true) :
    (s.injEnd id).cal.inj.get id = none := by
  rw [Dev.injEnd_go hj hover, Dev.when_event_cal, Dev.injSet_get]

theorem Dev.injEnd_event {s : Dev} {id : Nat} {j : Inj} (hj : s.cal.inj.get id = some j) (hover : j.over s.le.frame = true)
    (hstop : j.stopped = false) : (s.injEnd id).on F.CAL_EVT_INJ_END = true := by
  rw [Dev.injEnd_go hj hover, hstop, Bool.not_false, Dev.when_true]
  exact Dev.on_event_self _ F.CAL_EVT_INJ_END (by decide) rfl

/-! ### Captures -/

/-- The capture that a capture.start asks for. -/
def Dev.askedCap (s : Dev) (mb start : Nat) (m : Mbx) : Cap :=
  { id := s.cal.capNo + 1, mb := mb, vat := m.fld 0 1, ring := m.fld 1 1, items := capItems m, ns := m.fld 4 4, start := start }

theorem Dev.capStart_go {s : Dev} {m : Mbx} (mb : Nat) {j : Inj} (hbad : s.capBad m = none)
    (hj : m.fld 3 1 = 1 → s.cal.inj.get (m.fld 8 8) = some j ∧ j.stopped = false) (hplan : s.on F.GL_STAT_PLAN = true)
    (hvat : (s.vatEntry (m.fld 0 1)).isSome = true) (hitems : (capItems m).all (s.capHas (m.fld 0 1)) = true) :
    s.capStart mb m = ((s.take mb).withCaps (s.cal.caps ++ [s.askedCap mb (if m.fld 3 1 = 1 then j.s0 else m.fld 8 8) m])
      (s.cal.capNo + 1)).calStat := by
  unfold Dev.capStart
  rw [hbad]
  dsimp only
  have hitem : ¬ (s.on F.GL_STAT_PLAN = true ∧ (!((s.vatEntry (m.fld 0 1)).isSome && (capItems m).all (s.capHas (m.fld 0 1)))) = true) := by
    simp [hvat, hitems]
  have hnone : (!s.on F.GL_STAT_PLAN) ≠ true := by simp [hplan]
  by_cases h : m.fld 3 1 = 1
  · obtain ⟨hget, hstop⟩ := hj h
    have hfilter : (s.cal.inj.get (m.fld 8 8)).filter (fun j => !j.stopped) = some j := by rw [hget]; simp [hstop]
    rw [if_pos h, hfilter, if_neg (by simp), if_neg hitem, if_neg hnone, if_pos h]
    rfl
  · rw [if_neg h, if_neg (by simp [h]), if_neg hitem, if_neg hnone, if_neg h]
    rfl

/-- The result of one item, after those before it. -/
def Dev.capStat (c : Cap) (a : Dev × List Byte) (q : Nat) : Dev × List Byte :=
  let x := c.stats.getD q (0, 0, 0, 0)
  if x.2.2.2 = 0 then (a.1.useFree, a.2 ++ toLe 8 a.1.free.toNat)
  else (a.1, a.2 ++ toLe 2 (uns 16 x.1) ++ toLe 2 (uns 16 x.2.1) ++ toLe 4 (uns 32 (divRne (16 * x.2.2.1) x.2.2.2)))

theorem Dev.capResp_eq (s : Dev) (c : Cap) : s.capResp c =
    (((List.range c.items.length).foldl (Dev.capStat c) (s, [])).1,
      toLe 8 c.start ++ toLe 4 (c.done - c.dropped) ++ toLe 4 c.dropped ++ ((List.range c.items.length).foldl (Dev.capStat c) (s, [])).2) := rfl

theorem Dev.capItem_frame (c : Cap) (a : Dev × List Byte) (q : Nat) : Dev.Frame [] [.freeCtr] a.1 (Dev.capStat c a q).1 := by
  unfold Dev.capStat
  dsimp only
  split
  · exact (Dev.Frame.refl _ _ a.1).useFree
  · exact .refl _ _ a.1

theorem Dev.capItems_frame (c : Cap) (l : List Nat) (a : Dev × List Byte) : Dev.Frame [] [.freeCtr] a.1 (l.foldl (Dev.capStat c) a).1 := by
  induction l generalizing a with
  | nil => exact .refl _ _ a.1
  | cons q l ih => exact (Dev.capItem_frame c a q).trans (ih _)

/-- The results of a capture depend on its samples and on the free values alone. -/
theorem Dev.capItems_congr (c : Cap) (l : List Nat) (a b : Dev × List Byte) (hf : a.1.freeCtr = b.1.freeCtr) (hr : a.2 = b.2) :
    (l.foldl (Dev.capStat c) a).2 = (l.foldl (Dev.capStat c) b).2 := by
  induction l generalizing a b with
  | nil => exact hr
  | cons q l ih =>
    refine ih _ _ ?_ ?_
    · unfold Dev.capStat
      dsimp only
      split
      · exact congrArg (· + 1) hf
      · exact hf
    · unfold Dev.capStat Dev.free
      dsimp only
      rw [hf, hr]
      split <;> rfl

theorem Dev.capResp_congr {s t : Dev} (h : s.freeCtr = t.freeCtr) (c : Cap) : (s.capResp c).2 = (t.capResp c).2 := by
  rw [Dev.capResp_eq, Dev.capResp_eq, Dev.capItems_congr c _ (s, []) (t, []) h rfl]

theorem Dev.capResp_frame (s : Dev) (c : Cap) : Dev.Frame [] [.freeCtr] s (s.capResp c).1 := Dev.capItems_frame c _ (s, [])

theorem Dev.capEnd_go {s : Dev} {c : Cap} (hcaps : s.cal.caps = [c]) (hdone : c.ns ≤ c.done) (hwait : s.capWaiting c = false) :
    s.capEnd = ((((s.withCaps [] s.cal.capNo).capResp c).1.ok c.mb (s.capResp c).2).event F.CAL_EVT_CAP_DONE).calStat := by
  have hfin : [c].filter (fun c => (decide (c.ns ≤ c.done) || decide (c.start + c.ns ≤ s.le.frame)) && !s.capWaiting c) = [c] := by
    simp [hdone, hwait]
  have hrest : [c].filter (fun x => !([c].contains x)) = [] := by simp
  unfold Dev.capEnd
  dsimp only
  rw [hcaps, hfin, hrest, Dev.capResp_congr (s := s) (t := s.withCaps [] s.cal.capNo) rfl c]
  rfl

end Sys2Proof.Machine

namespace Sys2Proof.Proofs
open Sys2Proof.Machine

/-- Settles O20, request by request and end by end. -/
theorem stintsInjectionsCaptures : Obligations.StintsInjectionsCaptures := by
  unfold Obligations.StintsInjectionsCaptures
  intro s mb m hrun
  refine ⟨?_, fun hask hv hany => ?_, fun hask hbad hplan e id hvat hid hapart htakes => ?_, ?_, fun id j hj hover => ?_,
    fun hask hbad j hj hplan hvat hitems => ?_, fun c hcaps hdone hwait hmb => ?_⟩
  · intro hask hbad hplan v cells probe hcells hprobe hfree
    have hexec : exec (.charSweep mb) s = .next { s with dev := s.fresh.dev.sweepStart mb.toNat m } := hask.run hrun _
    rw [Dev.sweepStart_go (s := s.fresh.dev) mb.toNat hbad hplan hcells hprobe hfree] at hexec
    refine ⟨_, sweepStint mb.toNat m, hexec, ?_, rfl, rfl, rfl, rfl, rfl, .of_take s mb (Dev.calStat_mbx _), ?_⟩
    · exact congrArg Cal.stints (Dev.calStat_cal _)
    · exact ((((Dev.Frame.refl _ _ _).take _).then (Dev.withStints_frame _ _)).then (Dev.calStat_frame _)).only
  · have hexec : exec (.charStop mb) s = .next { s with dev := s.fresh.dev.charStop mb.toNat m } := hask.run hrun _
    rw [Dev.charStop_go (s := s.fresh.dev) mb.toNat hv hany] at hexec
    refine ⟨_, hexec, Dev.finish_ready _ _ _ _ _ _ (mb_lt mb), fun u hu huv => ?_, ?_⟩
    · have hu' : u ∈ (stopAll (m.fld 0 1) s.dev.cal.stints).filter
          (fun t => !(unentered (m.fld 0 1) (stopAll (m.fld 0 1) s.dev.cal.stints)).contains t) := by
        have h := (Dev.finish_cal (Dev.each (unentered (m.fld 0 1) (stopAll (m.fld 0 1) s.dev.cal.stints)) Dev.stintOver
          (s.fresh.dev.withStints (stopAll (m.fld 0 1) s.dev.cal.stints))) mb.toNat 0 0 0xFFFFFFFF [])
        have h' := (congrArg Cal.stints h).trans (Dev.stintOver_each _ _)
        exact h' ▸ hu
      obtain ⟨hmem, hleft⟩ := List.mem_filter.mp hu'
      refine ⟨stopReq_of_stopAll hmem huv, fun hent => ?_⟩
      have hin : u ∈ unentered (m.fld 0 1) (stopAll (m.fld 0 1) s.dev.cal.stints) := List.mem_filter.mpr ⟨hmem, by simp [huv, hent]⟩
      rw [List.contains_iff_mem.mpr hin] at hleft
      exact Bool.noConfusion hleft
    · exact (((((s.fresh.dev.withStints_frame _).mono).trans (.each _ _ _ fun d t _ => d.stintOver_frame t)).ok _ _)).only
  · have hexec : exec (.injectStart mb) s = .next { s with dev := s.fresh.dev.injStart mb.toNat m } := hask.run hrun _
    rw [Dev.injStart_go (s := s.fresh.dev) mb.toNat hbad hplan hvat hid hapart htakes] at hexec
    have hf := s.fresh.dev.injSet_frame id (some (askedInj m))
    have hget := s.fresh.dev.injSet_get id (some (askedInj m))
    generalize s.fresh.dev.injSet id (some (askedInj m)) = u at hexec hf hget
    exact ⟨_, askedInj m, hexec, (congrArg (fun x : Cal => x.inj.get id) (Dev.finish_cal _ _ _ _ _ _)).trans hget, rfl, rfl, rfl,
      .of_finish (hf.part .mbx) _ _ _ _ _, (hf.mono.ok _ _).only⟩
  · intro hask j hid hj hstop n
    have hexec : exec (.injectStop mb) s = .next { s with dev := s.fresh.dev.injStop mb.toNat m } := hask.run hrun _
    rw [Dev.injStop_go (s := s.fresh.dev) mb.toNat hid hj hstop, Dev.injCut_go (s := s.fresh.dev) hj hstop] at hexec
    have hf := s.fresh.dev.injSet_frame (m.fld 0 1) (some (s.fresh.dev.cutInj j))
    have hget := s.fresh.dev.injSet_get (m.fld 0 1) (some (s.fresh.dev.cutInj j))
    generalize s.fresh.dev.injSet (m.fld 0 1) (some (s.fresh.dev.cutInj j)) = u at hexec hf hget
    have hev : Dev.Frame [15] [.cal, .evq] s.fresh.dev (u.event F.CAL_EVT_INJ_END) := hf.mono.event _
    have hon := Dev.on_event_self u F.CAL_EVT_INJ_END (by decide) rfl
    rw [← show (u.event F.CAL_EVT_INJ_END).cal = u.cal from Dev.Keeps.event u _ .cal (by decide)] at hget
    generalize u.event F.CAL_EVT_INJ_END = u at hexec hev hon hget
    exact ⟨_, hexec, (congrArg (fun x : Cal => x.inj.get (m.fld 0 1)) (Dev.finish_cal _ _ _ _ _ _)).trans hget,
      (Dev.finish_on _ _ _ _ _ _ _).trans hon, .of_finish (hev.part .mbx) _ _ _ _ _, ((hev.mono).ok _ _).only⟩
  · have hexec : exec (.injectionEnd id) s = .next { s with dev := s.fresh.dev.injEnd id.toNat } := State.onDev_next s _ hrun
    exact ⟨_, hexec, Dev.injEnd_get (s := s.fresh.dev) hj hover, Dev.injEnd_event (s := s.fresh.dev) hj hover, (s.fresh.dev.injEnd_frame id.toNat).only⟩
  · have hexec : exec (.captureStart mb) s = .next { s with dev := s.fresh.dev.capStart mb.toNat m } := hask.run hrun _
    rw [Dev.capStart_go (s := s.fresh.dev) mb.toNat hbad hj hplan hvat hitems] at hexec
    have hf : Dev.Frame [15] [.cal, .mbx] s.fresh.dev (s.fresh.dev.take mb.toNat) := (Dev.Frame.refl _ _ _).take _
    refine ⟨_, s.fresh.dev.askedCap mb.toNat _ m, hexec, congrArg Cal.caps (Dev.calStat_cal _), rfl, rfl, rfl, rfl, rfl, rfl, rfl,
      (Dev.calStat_capture _).trans ?_, .of_take s mb (Dev.calStat_mbx _),
      ((hf.then (Dev.withCaps_frame _ _ _)).then (Dev.calStat_frame _)).only⟩
    simp [Dev.withCaps]
  · have hexec : exec .captureEnd s = .next { s with dev := s.fresh.dev.capEnd } := State.onDev_next s _ hrun
    rw [Dev.capEnd_go (s := s.fresh.dev) hcaps hdone hwait] at hexec
    have hf : Dev.Frame [15] [.cal, .mbx, .freeCtr] s.fresh.dev ((((s.fresh.dev.withCaps [] s.fresh.dev.cal.capNo).capResp c).1.ok c.mb (s.fresh.dev.capResp c).2)) :=
      ((s.fresh.dev.withCaps_frame _ _).mono.then (Dev.capResp_frame _ c)).ok _ _
    have hcal : (((s.fresh.dev.withCaps [] s.fresh.dev.cal.capNo).capResp c).1.ok c.mb (s.fresh.dev.capResp c).2).cal.caps = [] :=
      congrArg Cal.caps ((Dev.finish_cal _ _ _ _ _ _).trans ((Dev.capResp_frame _ c).part .cal))
    have hready : ((((s.fresh.dev.withCaps [] s.fresh.dev.cal.capNo).capResp c).1.ok c.mb (s.fresh.dev.capResp c).2).mbx.get c.mb).ready =
        some (0, 0, 0xFFFFFFFF, (s.fresh.dev.capResp c).2) := Dev.finish_ready _ _ _ _ _ _ hmb
    generalize ((s.fresh.dev.withCaps [] s.fresh.dev.cal.capNo).capResp c).1.ok c.mb (s.fresh.dev.capResp c).2 = u at hexec hf hcal hready
    have hon := Dev.on_event_self u F.CAL_EVT_CAP_DONE (by decide) rfl
    have hev : Dev.Frame [15] [.cal, .evq, .mbx, .freeCtr] s.fresh.dev (u.event F.CAL_EVT_CAP_DONE) := hf.mono.event _
    rw [← show (u.event F.CAL_EVT_CAP_DONE).cal = u.cal from Dev.Keeps.event u _ .cal (by decide)] at hcal
    rw [← show (u.event F.CAL_EVT_CAP_DONE).mbx = u.mbx from Dev.Keeps.event u _ .mbx (by decide)] at hready
    generalize u.event F.CAL_EVT_CAP_DONE = u at hexec hev hon hcal hready
    have hrest : u.calStat.on F.CAL_EVT_CAP_DONE = u.on F.CAL_EVT_CAP_DONE := by
      simp only [Dev.on, Dev.rd, Dev.calStat_reg u (show F.CAL_EVT_CAP_DONE.reg ≠ R.CAL_STAT by decide)]
    have hcapture := u.calStat_capture
    rw [hcal] at hcapture
    exact ⟨_, hexec, (congrArg Cal.caps u.calStat_cal).trans hcal, hcapture, hrest.trans hon,
      (congrArg (fun x : Tbl Mbx => (x.get c.mb).ready) u.calStat_mbx).trans hready, (hev.then u.calStat_frame).only⟩

end Sys2Proof.Proofs
end

section
-- One proof after another: in parallel the proofs of this text would not fit the memory that its check allows.
set_option Elab.async false
/-!
PROOFS. The demand engine: the bead banks (07 R168 to R172), meters and rods (R164, R167, R169), and the chooser (R173 to R176).
-/
namespace Sys2Proof.Machine

/-! ### Bank operations -/

/-- The demand engine with other beads, ages and drained amounts. -/
def De.withBanks (d : De) (b : Tbl Word) (a : Tbl Byte) (l : List (Nat × Nat × Nat × Nat)) : De :=
  { d with beads := b, age := a, drained := l }

theorem Dev.bankApply_frame (s : Dev) (op : BankOp) : Dev.Frame [12, 21] [.de, .evq, .fc, .freeCtr] s (s.bankApply op) :=
  ⟨s.bankApply_within op, .bankApply s op⟩

theorem Dev.bankOp_frame (s : Dev) (op : BankOp) : Dev.Frame [12, 21] [.de, .evq, .fc, .freeCtr] s (s.bankOp op) :=
  ⟨s.bankOp_within op, .bankOp s op⟩

/-- What saturates, and is told of, when a bead is at its maximum. -/
def Dev.beadSat (s : Dev) (i : Nat) : Dev :=
  Dev.when (!s.on F.DE_EVT_BEAD_SAT) (·.raise 0x0C07 0 (srcWord 12) i) ((s.count F.DE_BEAD_SAT).event F.DE_EVT_BEAD_SAT)

theorem Dev.bankApply_add (s : Dev) (i o inc : Nat) : s.bankApply (.add i o inc) =
    if 0xFFFFFFFF < s.bead i o + inc then (s.setBead i o (min (s.bead i o + inc) 0xFFFFFFFF)).beadSat i
    else s.setBead i o (min (s.bead i o + inc) 0xFFFFFFFF) := rfl

/-- A drained amount goes back to its bead. -/
def Dev.refundOne (s : Dev) (d : Nat × Nat × Nat × Nat) : Dev := s.setBead d.2.1 d.2.2.1 (satAdd 32 (s.bead d.2.1 d.2.2.1) d.2.2.2)

theorem Dev.bankApply_refund (s : Dev) (k : Nat) : s.bankApply (.refund k) = Dev.each (s.de.drained.filter (fun d => d.1 == k)) Dev.refundOne
    { s with de := { s.de with drained := s.de.drained.filter (fun d => d.1 != k) } } := rfl

theorem Dev.beadSat_de (s : Dev) (i : Nat) : (s.beadSat i).de = s.de := by
  have h : Dev.Frame [12] [.evq, .fc] s (s.beadSat i) :=
    (((Dev.Frame.refl _ _ s).count F.DE_BEAD_SAT).event F.DE_EVT_BEAD_SAT).when' _ ((Dev.Frame.refl _ _ _).raise _ _ _ _ _)
  exact h.part .de

theorem Dev.beadSat_rd (s : Dev) (i : Nat) (f : Fld) (h1 : f.reg ≠ R.DE_BEAD_SAT) (h2 : f.reg ≠ R.DE_EVT) : (s.beadSat i).rd f = s.rd f := by
  have h : (s.beadSat i).reg f.reg = s.reg f.reg := by
    have hev : ((s.count F.DE_BEAD_SAT).event F.DE_EVT_BEAD_SAT).reg f.reg = s.reg f.reg :=
      (Dev.reg_event_ne _ (Ne.symm h2)).trans (Dev.reg_wr_ne s (Ne.symm h1) _)
    unfold Dev.beadSat
    cases !s.on F.DE_EVT_BEAD_SAT with
    | true => exact hev
    | false => exact hev
  simp only [Dev.rd, h]

theorem Dev.setBead_bead (s : Dev) (i o v : Nat) : (s.setBead i o v).bead i o = v % 2 ^ 32 := by
  simp [Dev.setBead, Dev.bead]

theorem Dev.bankApply_add_bead (s : Dev) (i o inc : Nat) : (s.bankApply (.add i o inc)).bead i o = min (s.bead i o + inc) 0xFFFFFFFF := by
  have hset : (s.setBead i o (min (s.bead i o + inc) 0xFFFFFFFF)).bead i o = min (s.bead i o + inc) 0xFFFFFFFF :=
    (s.setBead_bead i o _).trans (Nat.mod_eq_of_lt (by omega))
  rw [Dev.bankApply_add]
  split
  · exact (congrArg (fun d : De => (d.beads.get (beadKey i o)).toNat) (Dev.beadSat_de _ i)).trans hset
  · exact hset

/-- A bank operation reaches beads, ages and drained amounts alone of the demand engine. -/
theorem Dev.bankApply_de (s : Dev) (op : BankOp) : ∃ b a l, (s.bankApply op).de = s.de.withBanks b a l := by
  cases op with
  | add i o inc =>
    rw [Dev.bankApply_add]
    split
    · rw [Dev.beadSat_de]
      exact ⟨_, _, _, rfl⟩
    · exact ⟨_, _, _, rfl⟩
  | drain k i o dr =>
    unfold Dev.bankApply
    dsimp only
    split
    · exact ⟨_, _, _, rfl⟩
    · rw [Dev.pcClock_de]
      exact ⟨_, _, _, rfl⟩
  | refund k =>
    have heach (l : List (Nat × Nat × Nat × Nat)) (t : Dev) : ∃ b a m, (Dev.each l Dev.refundOne t).de = t.de.withBanks b a m := by
      induction l generalizing t with
      | nil => exact ⟨_, _, _, rfl⟩
      | cons d l ih =>
        obtain ⟨b, a, m, h⟩ := ih (t.refundOne d)
        exact ⟨b, a, m, h.trans rfl⟩
    rw [Dev.bankApply_refund]
    obtain ⟨b, a, m, h⟩ := heach (s.de.drained.filter (fun d => d.1 == k)) { s with de := { s.de with drained := s.de.drained.filter (fun d => d.1 != k) } }
    exact ⟨b, a, m, h.trans rfl⟩
  | age i o => exact ⟨_, _, _, rfl⟩

theorem Dev.bankApply_each_de (l : List BankOp) (s : Dev) : ∃ b a m, (Dev.each l Dev.bankApply s).de = s.de.withBanks b a m := by
  induction l generalizing s with
  | nil => exact ⟨_, _, _, rfl⟩
  | cons op l ih =>
    obtain ⟨b, a, m, h⟩ := ih (s.bankApply op)
    obtain ⟨b', a', m', h'⟩ := s.bankApply_de op
    exact ⟨b, a, m, by rw [show Dev.each (op :: l) Dev.bankApply s = Dev.each l Dev.bankApply (s.bankApply op) from rfl, h, h']; rfl⟩

theorem Dev.bead_le (s : Dev) (i o : Nat) : s.bead i o ≤ 0xFFFFFFFF := by
  have h := (s.de.beads.get (beadKey i o)).isLt
  unfold Dev.bead
  omega

/-! ### The highest score (07 R174) -/

/-- The pick among forms by their scores: the first of the highest, when that is more than the one it starts from. -/
def pickBest (score : Nat × List Byte → Nat) (a : Nat × Nat) (f : Nat × List Byte) : Nat × Nat :=
  if a.1 < score f then (score f, f.1) else a

/-- The pick stays where it started, or is the first form of the highest score. -/
theorem foldl_pickBest (score : Nat × List Byte → Nat) (l : List (Nat × List Byte)) (a : Nat × Nat) :
    (∀ f ∈ l, score f ≤ (l.foldl (pickBest score) a).1) ∧ a.1 ≤ (l.foldl (pickBest score) a).1 ∧
    (l.foldl (pickBest score) a = a ∨ a.1 < (l.foldl (pickBest score) a).1 ∧ ∃ m f n, l = m ++ f :: n ∧ f.1 = (l.foldl (pickBest score) a).2 ∧
      score f = (l.foldl (pickBest score) a).1 ∧ ∀ g ∈ m, score g < (l.foldl (pickBest score) a).1) := by
  induction l generalizing a with
  | nil => exact ⟨fun _ h => absurd h List.not_mem_nil, le_refl _, .inl rfl⟩
  | cons f l ih =>
    obtain ⟨hall, hle, hpick⟩ := ih (pickBest score a f)
    rw [List.foldl_cons]
    generalize hb : l.foldl (pickBest score) (pickBest score a f) = b at hall hle hpick
    by_cases hlt : a.1 < score f
    · have hp : pickBest score a f = (score f, f.1) := if_pos hlt
      rw [hp] at hle hpick
      refine ⟨fun g hg => ?_, by omega, .inr ⟨by omega, ?_⟩⟩
      · obtain rfl | hg := List.mem_cons.mp hg
        · exact hle
        · exact hall g hg
      · obtain rfl | ⟨hmore, m, g, n, rfl, hnum, hscore, hless⟩ := hpick
        · exact ⟨[], f, l, rfl, rfl, rfl, fun _ h => absurd h List.not_mem_nil⟩
        · refine ⟨f :: m, g, n, rfl, hnum, hscore, fun x hx => ?_⟩
          obtain rfl | hx := List.mem_cons.mp hx
          · exact hmore
          · exact hless x hx
    · have hp : pickBest score a f = a := if_neg hlt
      rw [hp] at hle hpick
      refine ⟨fun g hg => ?_, hle, ?_⟩
      · obtain rfl | hg := List.mem_cons.mp hg
        · omega
        · exact hall g hg
      · obtain hsame | ⟨hmore, m, g, n, rfl, hnum, hscore, hless⟩ := hpick
        · exact .inl hsame
        · refine .inr ⟨hmore, f :: m, g, n, rfl, hnum, hscore, fun x hx => ?_⟩
          obtain rfl | hx := List.mem_cons.mp hx
          · omega
          · exact hless x hx

/-! ### A meter and its entry (07 R167 to R169) -/

/-- The colour of an entry and what it takes from buckets that stand at tc and tp. -/
def meterPick (oct n : Nat) (m : Meter) (tc tp : Nat) : Meter × Colour :=
  let put (x y : Nat) : Meter := { m with tc := BitVec.ofNat 40 x, tp := BitVec.ofNat 40 y, tlast := BitVec.ofNat 32 n }
  let add (x : BitVec 64) : BitVec 64 := BitVec.ofNat 64 (satAdd 64 x.toNat oct)
  if tp < 256 * oct then ({ put tc tp with red := add m.red }, .red)
  else if tc < 256 * oct then ({ put tc (tp - 256 * oct) with yellow := add m.yellow }, .yellow)
  else ({ put (tc - 256 * oct) (tp - 256 * oct) with green := add m.green }, .green)

/-- Meter counts over the interval since the latest entry. -/
def meterRun (n : Nat) (m : Meter) (count rate : Nat) : Nat := count + rate * min ((n + 2 ^ 32 - m.tlast.toNat) % 2 ^ 32) (2 ^ 24)

theorem meterStep_eq (c : Svc) (oct n : Nat) (m : Meter) : meterStep c oct n m = meterPick oct n m
    (min (meterRun n m m.tc.toNat c.cir.toNat) (256 * c.cbs.toNat)) (min (meterRun n m m.tp.toNat c.pir.toNat) (256 * c.pbs.toNat)) := rfl

theorem toNat_ofNat_le (w : Nat) {x b : Nat} (h : x ≤ b) : (BitVec.ofNat w x).toNat ≤ b := by
  rw [BitVec.toNat_ofNat]
  exact (Nat.mod_le _ _).trans h

/-- Counts of octets saturate. -/
theorem toNat_satAdd64 (x : BitVec 64) (n : Nat) : (BitVec.ofNat 64 (satAdd 64 x.toNat n)).toNat = min (x.toNat + n) (2 ^ 64 - 1) := by
  rw [BitVec.toNat_ofNat, satAdd]
  omega

/-- A meter's buckets never stand above its bursts; an entry is covered by the buckets of its colour and counted under it alone. -/
theorem meterPick_spec (oct n : Nat) (m : Meter) {tc tp cbs pbs : Nat} (htc : tc ≤ cbs) (htp : tp ≤ pbs) :
    let r := meterPick oct n m tc tp
    r.1.tc.toNat ≤ cbs ∧ r.1.tp.toNat ≤ pbs ∧
    (r.2 = .green → 256 * oct ≤ cbs ∧ 256 * oct ≤ pbs ∧
      r.1.green.toNat = min (m.green.toNat + oct) (2 ^ 64 - 1) ∧ r.1.yellow = m.yellow ∧ r.1.red = m.red) ∧
    (r.2 = .yellow → 256 * oct ≤ pbs ∧ r.1.yellow.toNat = min (m.yellow.toNat + oct) (2 ^ 64 - 1) ∧
      r.1.green = m.green ∧ r.1.red = m.red) ∧
    (r.2 = .red → r.1.red.toNat = min (m.red.toNat + oct) (2 ^ 64 - 1) ∧ r.1.green = m.green ∧ r.1.yellow = m.yellow) := by
  have hpc : tc - 256 * oct ≤ cbs := by omega
  have hpp : tp - 256 * oct ≤ pbs := by omega
  unfold meterPick
  dsimp only
  by_cases hred : tp < 256 * oct
  · rw [if_pos hred]
    exact ⟨toNat_ofNat_le _ htc, toNat_ofNat_le _ htp, nofun, nofun, fun _ => ⟨toNat_satAdd64 _ _, rfl, rfl⟩⟩
  rw [if_neg hred]
  by_cases hyellow : tc < 256 * oct
  · rw [if_pos hyellow]
    exact ⟨toNat_ofNat_le _ htc, toNat_ofNat_le _ hpp, nofun, fun _ => ⟨by omega, toNat_satAdd64 _ _, rfl, rfl⟩, nofun⟩
  · rw [if_neg hyellow]
    exact ⟨toNat_ofNat_le _ hpc, toNat_ofNat_le _ hpp, fun _ => ⟨by omega, by omega, toNat_satAdd64 _ _, rfl, rfl⟩, nofun, nofun⟩

/-- The meter block once its oldest entry has left its queue and passed its meter. -/
def Dev.metered (s : Dev) (g : Nat) (rest : List QEnt) (key : Nat) (m : Meter) : Dev := { s with de := { s.de with
  queue := s.de.queue.set g rest, qNoted := if rest.isEmpty then s.de.qNoted.filter (· != g) else s.de.qNoted,
  meters := s.de.meters.set key m } }

theorem Dev.metered_frame (s : Dev) (g : Nat) (rest : List QEnt) (key : Nat) (m : Meter) :
    Dev.Frame [12, 21] [.de, .evq, .fc, .freeCtr] s (s.metered g rest key m) := (Dev.Frame.refl _ _ s).de _

theorem Dev.pcClock_rd (s : Dev) (e n : Nat) (v : Option Nat) (f : Fld) (hf : blockOf f.reg ∉ [21] := by decide) : (s.pcClock e n v).rd f = s.rd f :=
  (s.pcClock_frame e n v).rd f hf

/-- What the entry's meter answers. -/
def De.meterOf (d : De) (e : QEnt) : Meter × Colour :=
  let c := (d.dem.subs.get e.sub).svc.getD e.svc {}
  meterStep c e.oct.toNat e.n ((d.meters.get (8 * e.sub + e.svc)).open_ d.t0 c)

/-- What an entry of that colour adds to its bead. -/
def De.incOf (d : De) (e : QEnt) (col : Colour) : Nat := beadInc d.dem (d.dem.subs.get e.sub).sw e.svc e.oct.toNat (col == .green)

section
/-! The meter's arithmetic and the counters' loop stand behind names here: spelt out, the kernel would compute with them to compare the
two sides of these equations. -/
variable {step : Svc → Nat → Nat → Meter → Meter × Colour} {clock : Dev → Nat → Nat → Option Nat → Dev} (hstep : meterStep = step)
  (hclock : @Dev.pcClock = clock) {s : Dev} {g : Nat} {e : QEnt} {rest : List QEnt} (hq : s.de.queue.get g = e :: rest) {r : Meter × Colour}
  (hr : r = step (s.svcCfg e.sub e.svc) e.oct.toNat e.n ((s.de.meters.get (8 * e.sub + e.svc)).open_ s.de.t0 (s.svcCfg e.sub e.svc)))
include hstep hclock hq hr

theorem Dev.meterEntry_red_by (hcol : r.2 = .red) : s.meterEntry g =
    clock ((clock (s.metered g rest (8 * e.sub + e.svc) r.1) 0x0C02 1 none).count F.DE_RED) 0x0C05 1 none := by
  unfold Dev.meterEntry
  rw [hstep, hclock, hq]
  dsimp -zeta only
  extract_lets d1 t1 key c r' d2 t2 t3
  have hr' : r' = r := hr.symm
  have ht3 : t3 = clock (s.metered g rest (8 * e.sub + e.svc) r.1) 0x0C02 1 none := by rw [← hr']; rfl
  rw [hr', hcol, ht3]

theorem Dev.meterEntry_other_by (hcol : r.2 ≠ .red) (hde : ∀ t c, (clock t c 1 none).de = t.de) {inc : Nat}
    (hinc : inc = beadInc s.de.dem (s.de.dem.subs.get e.sub).sw e.svc e.oct.toNat (r.2 == .green)) :
    ∃ c, s.meterEntry g = if inc = 0 then clock (clock (s.metered g rest (8 * e.sub + e.svc) r.1) 0x0C02 1 none) c 1 none
      else (clock (clock (s.metered g rest (8 * e.sub + e.svc) r.1) 0x0C02 1 none) c 1 none).bankOp (.add e.rod e.dst inc) := by
  unfold Dev.meterEntry
  rw [hstep, hclock, hq]
  dsimp -zeta only
  extract_lets d1 t1 key c r' d2 t2 t3
  have hr' : r' = r := hr.symm
  have ht3 : t3 = clock (s.metered g rest (8 * e.sub + e.svc) r.1) 0x0C02 1 none := by rw [← hr']; rfl
  have hde3 (c : Nat) : (clock t3 c 1 none).de.dem = s.de.dem := by rw [hde, ht3, hde]; rfl
  rw [hr']
  rw [← ht3]
  clear_value t3 r'
  cases hc : r.2 with
  | red => exact absurd hc hcol
  | green => exact ⟨0x0C03, by rw [hinc, hc]; simp [hde3]⟩
  | yellow => exact ⟨0x0C04, by rw [hinc, hc]; simp [hde3]⟩

end

/-- The meter block's state once its oldest entry has passed its meter, which then stands at m. -/
def Dev.afterMeter (s : Dev) (g : Nat) (rest : List QEnt) (e : QEnt) (m : Meter) : Dev :=
  (s.metered g rest (8 * e.sub + e.svc) m).pcClock 0x0C02

theorem Dev.afterMeter_frame (s : Dev) (g : Nat) (rest : List QEnt) (e : QEnt) (m : Meter) :
    Dev.Frame [12, 21] [.de, .evq, .fc, .freeCtr] s (s.afterMeter g rest e m) := (s.metered_frame _ _ _ _).then (Dev.pcClock_frame _ _ _ _)

theorem Dev.afterMeter_de (s : Dev) (g : Nat) (rest : List QEnt) (e : QEnt) (m : Meter) :
    (s.afterMeter g rest e m).de = (s.metered g rest (8 * e.sub + e.svc) m).de := Dev.pcClock_de _ _ _ _

theorem Dev.afterMeter_red (s : Dev) (g : Nat) (rest : List QEnt) (e : QEnt) (m : Meter) :
    (s.afterMeter g rest e m).rd F.DE_RED = s.rd F.DE_RED :=
  (Dev.pcClock_rd _ _ _ _ _).trans ((Dev.RegsAs.of_regs (d := s) (t := s.metered g rest (8 * e.sub + e.svc) m) rfl).rd _)

theorem Dev.meterEntry_red {s : Dev} {g : Nat} {e : QEnt} {rest : List QEnt} (hq : s.de.queue.get g = e :: rest) {r : Meter × Colour}
    (hr : s.de.meterOf e = r) (hcol : r.2 = .red) :
    s.meterEntry g = ((s.afterMeter g rest e r.1).count F.DE_RED).pcClock 0x0C05 := Dev.meterEntry_red_by rfl rfl hq hr.symm hcol

theorem Dev.meterEntry_other {s : Dev} {g : Nat} {e : QEnt} {rest : List QEnt} (hq : s.de.queue.get g = e :: rest) {r : Meter × Colour}
    (hr : s.de.meterOf e = r) (hcol : r.2 ≠ .red) {inc : Nat} (hinc : s.de.incOf e r.2 = inc) :
    ∃ c, s.meterEntry g = if inc = 0 then (s.afterMeter g rest e r.1).pcClock c
      else ((s.afterMeter g rest e r.1).pcClock c).bankOp (.add e.rod e.dst inc) :=
  Dev.meterEntry_other_by rfl rfl hq hr.symm hcol (fun _ _ => Dev.pcClock_de _ _ _ _) hinc.symm

/-- A bank operation writes DE_BEAD_SAT, DE_EVT and PC's counters alone. -/
theorem Dev.bankApply_rd (s : Dev) (op : BankOp) (f : Fld) (h1 : f.reg ≠ R.DE_BEAD_SAT := by decide) (h2 : f.reg ≠ R.DE_EVT := by decide)
    (h3 : blockOf f.reg ∉ [21] := by decide) : (s.bankApply op).rd f = s.rd f := by
  have hset (t : Dev) (i o v : Nat) : (t.setBead i o v).rd f = t.rd f := (Dev.RegsAs.of_regs rfl).rd f
  have hdrained (t : Dev) (l : List (Nat × Nat × Nat × Nat)) : ({ t with de := { t.de with drained := l } } : Dev).rd f = t.rd f :=
    (Dev.RegsAs.of_regs rfl).rd f
  cases op with
  | add i o inc =>
    rw [Dev.bankApply_add]
    split
    · exact (Dev.beadSat_rd _ _ _ h1 h2).trans (hset _ _ _ _)
    · exact hset _ _ _ _
  | drain k i o dr =>
    unfold Dev.bankApply
    dsimp only
    split
    · exact hset _ _ _ _
    · exact (Dev.pcClock_rd _ _ _ _ _ h3).trans ((hdrained _ _).trans (hset _ _ _ _))
  | refund k =>
    rw [Dev.bankApply_refund]
    exact (Dev.each_eq (fun d => d.rd f) _ Dev.refundOne _ fun _ _ => hset _ _ _ _).trans (hdrained _ _)
  | age i o => exact (Dev.RegsAs.of_regs (d := s) (t := s.bankApply (.age i o)) rfl).rd f

/-- What an operation that a bank takes or holds leaves: queues, meters and the count of red entries. -/
theorem Dev.bankOp_add_rest (s : Dev) (i o inc : Nat) :
    (s.bankOp (.add i o inc)).de.queue = s.de.queue ∧ (s.bankOp (.add i o inc)).de.meters = s.de.meters ∧
    (s.bankOp (.add i o inc)).rd F.DE_RED = s.rd F.DE_RED := by
  obtain ⟨b, a, l, h⟩ := s.bankApply_de (.add i o inc)
  have happly : (s.bankApply (.add i o inc)).de.queue = s.de.queue ∧ (s.bankApply (.add i o inc)).de.meters = s.de.meters ∧
      (s.bankApply (.add i o inc)).rd F.DE_RED = s.rd F.DE_RED := ⟨by rw [h]; rfl, by rw [h]; rfl, s.bankApply_rd _ _⟩
  unfold Dev.bankOp
  split
  · split
    · exact happly
    · exact ⟨rfl, rfl, rfl⟩
  · exact happly

theorem Dev.bankOp_idle {s : Dev} (h : s.de.run = none) (op : BankOp) : s.bankOp op = s.bankApply op := by
  unfold Dev.bankOp
  rw [h]

theorem Dev.bankOp_held {s : Dev} {r : Run} (h : s.de.run = some r) (hr : r.released = false) (op : BankOp) :
    (s.bankOp op).de.held = s.de.held ++ [op] := by
  unfold Dev.bankOp
  rw [h]
  dsimp only
  rw [if_neg (by rw [hr]; exact Bool.false_ne_true)]

/-- An entry passes its meter: a red one is counted, any other adds to its bead, at once or behind the run in progress. -/
theorem Dev.meterEntry_spec {s : Dev} {g : Nat} {e : QEnt} {rest : List QEnt} (hq : s.de.queue.get g = e :: rest) {r : Meter × Colour}
    (hr : s.de.meterOf e = r) {inc : Nat} (hinc : s.de.incOf e r.2 = inc) :
    let t := s.meterEntry g
    t.de.queue.get g = rest ∧ t.de.meters.get (8 * e.sub + e.svc) = r.1 ∧
    (r.2 = .red → t.rd F.DE_RED = min (s.rd F.DE_RED + 1) 0xFFFFFFFF ∧ t.de.beads = s.de.beads) ∧
    (r.2 ≠ .red → t.rd F.DE_RED = s.rd F.DE_RED ∧
      (s.de.run = none → t.bead e.rod e.dst = min (s.bead e.rod e.dst + inc) 0xFFFFFFFF) ∧
      (∀ k, s.de.run = some k → k.released = false → 0 < inc → t.de.held = s.de.held ++ [.add e.rod e.dst inc])) ∧
    Dev.Frame [12, 21] [.de, .evq, .fc, .freeCtr] s t := by
  intro t
  have hf := s.afterMeter_frame g rest e r.1
  have hde := s.afterMeter_de g rest e r.1
  have hred := s.afterMeter_red g rest e r.1
  have hqueue : (s.afterMeter g rest e r.1).de.queue.get g = rest := by rw [hde]; exact Tbl.get_set_self _ _ _
  have hmeter : (s.afterMeter g rest e r.1).de.meters.get (8 * e.sub + e.svc) = r.1 := by rw [hde]; exact Tbl.get_set_self _ _ _
  have hbeads : (s.afterMeter g rest e r.1).de.beads = s.de.beads := by rw [hde]; rfl
  have hrunning : (s.afterMeter g rest e r.1).de.run = s.de.run := by rw [hde]; rfl
  have hheld : (s.afterMeter g rest e r.1).de.held = s.de.held := by rw [hde]; rfl
  by_cases hcol : r.2 = .red
  · have heq : t = _ := Dev.meterEntry_red hq hr hcol
    have hde' : t.de = (s.afterMeter g rest e r.1).de := by
      rw [heq, Dev.pcClock_de]
      exact Dev.Keeps.count _ _ _ .de List.not_mem_nil
    have hred' : t.rd F.DE_RED = min (s.rd F.DE_RED + 1) 0xFFFFFFFF := by
      rw [heq, Dev.pcClock_rd _ _ _ _ _, Dev.rd_count_self _ _ _ (by decide) rfl, hred, show (2 ^ 32 - 1 : Nat) = 0xFFFFFFFF from rfl]
    have hft := (hf.count F.DE_RED).then (Dev.pcClock_frame _ 0x0C05 1 none)
    rw [← heq] at hft
    exact ⟨by rw [hde']; exact hqueue, by rw [hde']; exact hmeter, fun _ => ⟨hred', by rw [hde']; exact hbeads⟩, fun h => absurd hcol h, hft⟩
  · obtain ⟨cl, heq⟩ : ∃ c, t = _ := Dev.meterEntry_other hq hr hcol hinc
    have hf' := hf.then (Dev.pcClock_frame _ cl 1 none)
    have hde' : ((s.afterMeter g rest e r.1).pcClock cl).de = (s.afterMeter g rest e r.1).de := Dev.pcClock_de _ _ _ _
    have hred' : ((s.afterMeter g rest e r.1).pcClock cl).rd F.DE_RED = s.rd F.DE_RED := (Dev.pcClock_rd _ _ _ _ _).trans hred
    generalize (s.afterMeter g rest e r.1).pcClock cl = w at heq hf' hde' hred'
    rw [← hde'] at hqueue hmeter hbeads hrunning hheld
    have hbead : w.bead e.rod e.dst = s.bead e.rod e.dst := by simp only [Dev.bead, hbeads]
    by_cases h0 : inc = 0
    · rw [if_pos h0] at heq
      rw [heq]
      refine ⟨hqueue, hmeter, fun h => absurd h hcol, fun _ => ⟨hred', fun _ => ?_, fun _ _ _ h => by omega⟩, hf'⟩
      have hle := s.bead_le e.rod e.dst
      rw [hbead, h0]
      omega
    · rw [if_neg h0] at heq
      obtain ⟨h1, h2, h3⟩ := w.bankOp_add_rest e.rod e.dst inc
      rw [heq]
      refine ⟨by rw [h1]; exact hqueue, by rw [h2]; exact hmeter, fun h => absurd h hcol, fun _ => ⟨h3.trans hred', fun hidle => ?_, fun k hk hrel _ => ?_⟩,
        hf'.then (w.bankOp_frame (.add e.rod e.dst inc))⟩
      · rw [Dev.bankOp_idle (hrunning.trans hidle), Dev.bankApply_add_bead, hbead]
      · rw [Dev.bankOp_held (hrunning.trans hk) hrel, hheld]

/-! ### Rods (07 R164) -/

/-- A rod's window has passed. -/
def Dev.rodPassed (s : Dev) (i : Nat) : Dev :=
  { s with de := { s.de with rods := s.de.rods.set i { s.de.rods.get i with stale := true, have_ := false } } }

theorem Dev.rodPassed_frame (s : Dev) (i : Nat) : Dev.Frame [12] [.de, .evq, .fc, .freeCtr] s (s.rodPassed i) := (Dev.Frame.refl _ _ s).de _

theorem Dev.staleSync_frame (s : Dev) : Dev.Frame [12] [.evq, .fc] s s.staleSync := by
  unfold Dev.staleSync
  extract_lets n stale beyond was t
  have ht : Dev.Frame [12] [.evq, .fc] s t := ((Dev.Frame.refl _ _ s).wr _ _).wrB _ _
  clear_value t
  split
  · exact (ht.event _).raise _ _ _ _ _
  · exact ht

theorem Dev.rodStale_go {s : Dev} {i : Nat} (hhave : (s.de.rods.get i).have_ = true) (hi : i < s.rodsInUse)
    (hlate : (s.de.rods.get i).lastacc + s.rd F.DE_STALE_US < s.now) : s.rodStale i = (s.rodPassed i).staleSync :=
  if_pos (by simp [hhave, hi, hlate])

/-! ### The walk through the gate list (06 R137 to R139) -/

section
variable {s t : Dev} (hr : t.regs = s.regs) (h0 : t.plan0 = s.plan0) (h1 : t.plan1 = s.plan1) (hg : t.gl = s.gl)

theorem Dev.planBank_congr (h0 : t.plan0 = s.plan0) (h1 : t.plan1 = s.plan1) (b : Bool) : t.planBank b = s.planBank b := by
  simp only [Dev.planBank, h0, h1]

theorem Dev.gate_congr (h0 : t.plan0 = s.plan0) (h1 : t.plan1 = s.plan1) (p : Pos) : t.gate p = s.gate p := by
  simp only [Dev.gate, Dev.planBank_congr h0 h1]

include hr in
theorem Dev.resolve_congr (p : Pos) : t.resolve p = s.resolve p := by
  have h : Dev.RegsAs s t := .of_regs hr
  simp only [Dev.resolve, Dev.stagedBank, h.on, h.rd, h.rd2]

include hr h0 h1 in
theorem Dev.succ_congr (p : Pos) : t.succ p = s.succ p := by
  simp only [Dev.succ, Dev.planBank_congr h0 h1, Dev.gate_congr h0 h1, Dev.resolve_congr hr]

include hr h0 h1 in
theorem Dev.ahead_congr (n : Nat) (p : Pos) : t.ahead n p = s.ahead n p := by
  induction n generalizing p with
  | zero => rfl
  | succ n ih => rw [Dev.ahead, Dev.ahead, Dev.succ_congr hr h0 h1, ih]

include hr h0 h1 hg in
theorem Dev.decideAt_congr (p : Nat → Bool) : t.decideAt p = s.decideAt p := by
  have h : Dev.RegsAs s t := .of_regs hr
  have hnext : t.nextPos = s.nextPos := by simp only [Dev.nextPos, h.rd2, h.on, hg, Dev.resolve_congr hr]
  have hsucc : t.succ = s.succ := funext (Dev.succ_congr hr h0 h1)
  rw [Dev.decideAt, Dev.decideAt, hnext, hsucc, Dev.ahead_congr hr h0 h1]

end

/-! ### A chooser run (07 R173 to R176) -/

/-- The block with a run under way, its comparator spent. -/
def Dev.runStarted (s : Dev) (r : Run) : Dev :=
  let t := { s.setCmp 2 {} with de := { s.de with run := some r } }
  (((t.count F.DE_RUNS).pcClock 0x0C06).wrB F.DE_STAT_RUNNING true).wrB F.DE_STAT_MAP r.bank

theorem Dev.chooserStart_go {s : Dev} {q : Pos} {p : Plan} (hfire : s.fires 2 = true) (hp0 : s.rd F.PM_STAT_STATE = 0) (hinh : s.rd glInh = 0)
    (hwalk : s.gl.walking = true) (hidle : s.de.run = none) (hq : s.decideAt (fun b => b == s.now + s.chooserLead) = some q)
    (hplan : s.planBank q.bank = some p) (hdem : (s.gate q).demand = true) :
    ∃ r, s.chooserStart = s.runStarted r ∧ r.k = q.k ∧ r.bank = q.bank ∧ r.cset = (s.gate q).cset ∧ r.dflt = (s.gate q).form ∧
      r.beads = s.de.beads ∧ r.age = s.de.age ∧ r.released = false := by
  have hregs : Dev.RegsAs s (s.setCmp 2 {}) := .of_regs rfl
  have hnow : (s.setCmp 2 {}).now = s.now := hregs.rd2 _
  have hlead : (s.setCmp 2 {}).chooserLead = s.chooserLead := by simp only [Dev.chooserLead, hregs.rd]
  have hcmp : (s.setCmp 2 {}).decideAt (fun b => b == (s.setCmp 2 {}).now + (s.setCmp 2 {}).chooserLead) = some q := by
    rw [hnow, hlead, Dev.decideAt_congr (s := s) (t := s.setCmp 2 {}) rfl rfl rfl rfl]
    exact hq
  have hgate : (s.setCmp 2 {}).gate q = s.gate q := Dev.gate_congr rfl rfl q
  have hbank : (s.setCmp 2 {}).planBank q.bank = some p := hplan
  have hgo : ¬ ((s.setCmp 2 {}).rd F.PM_STAT_STATE ≠ 0 ∨ (s.setCmp 2 {}).rd glInh ≠ 0 ∨ (!(s.setCmp 2 {}).gl.walking) = true ∨
      (s.setCmp 2 {}).de.run.isSome = true) := by
    rintro (h | h | h | h)
    · exact h hp0
    · exact h hinh
    · rw [show (s.setCmp 2 {}).gl.walking = true from hwalk] at h
      exact Bool.noConfusion h
    · rw [show (s.setCmp 2 {}).de.run = none from hidle] at h
      exact Bool.noConfusion h
  unfold Dev.chooserStart
  rw [if_neg (by rw [hfire]; exact Bool.false_ne_true)]
  extract_lets t
  have ht : t = s.setCmp 2 {} := rfl
  clear_value t
  subst ht
  rw [if_neg hgo, hcmp]
  dsimp -zeta only
  extract_lets x
  rw [hbank]
  dsimp -zeta only
  rw [if_neg (by rw [show x.demand = true from (congrArg GateEntry.demand hgate).trans hdem]; exact Bool.false_ne_true)]
  extract_lets stale code r d
  exact ⟨r, rfl, rfl, rfl, congrArg GateEntry.cset hgate, congrArg GateEntry.form hgate, rfl, rfl, rfl⟩

/-- What a run that starts leaves. -/
theorem Dev.runStarted_spec (s : Dev) (r : Run) : (s.runStarted r).de = { s.de with run := some r } ∧ (s.runStarted r).on F.DE_STAT_RUNNING = true ∧
    (s.runStarted r).rd F.DE_RUNS = min (s.rd F.DE_RUNS + 1) 0xFFFFFFFF ∧ Dev.Frame [12, 21] [.de, .tb] s (s.runStarted r) := by
  have hregs : Dev.RegsAs s { s.setCmp 2 {} with de := { s.de with run := some r } } := .of_regs rfl
  have hde : ({ s.setCmp 2 {} with de := { s.de with run := some r } } : Dev).de = { s.de with run := some r } := rfl
  have hf : Dev.Frame [12, 21] [.de, .tb] s { s.setCmp 2 {} with de := { s.de with run := some r } } := ((Dev.Frame.refl _ _ s).tb _).de _
  unfold Dev.runStarted
  dsimp only
  generalize ({ s.setCmp 2 {} with de := { s.de with run := some r } } : Dev) = u at hregs hde hf ⊢
  have hc : Dev.Frame [12, 21] [] (u.count F.DE_RUNS) ((u.count F.DE_RUNS).pcClock 0x0C06) := (Dev.pcClock_frame _ _ _ _).mono
  have hruns : ((u.count F.DE_RUNS).pcClock 0x0C06).rd F.DE_RUNS = min (s.rd F.DE_RUNS + 1) 0xFFFFFFFF := by
    rw [Dev.pcClock_rd _ _ _ _ F.DE_RUNS, Dev.rd_count_self _ _ _ (by decide) rfl, hregs.rd, show (2 ^ 32 - 1 : Nat) = 0xFFFFFFFF from rfl]
  have hcount : Dev.Frame [12, 21] [] u ((u.count F.DE_RUNS).pcClock 0x0C06) := ((Dev.Frame.refl _ _ u).count _).trans hc
  generalize (u.count F.DE_RUNS).pcClock 0x0C06 = v at hruns hcount ⊢
  have hall : Dev.Frame [12, 21] [] v ((v.wrB F.DE_STAT_RUNNING true).wrB F.DE_STAT_MAP r.bank) := ((Dev.Frame.refl _ _ v).wrB _ _).wrB _ _
  have hde1 : v.de = u.de := hcount.part .de
  have hde2 : ((v.wrB F.DE_STAT_RUNNING true).wrB F.DE_STAT_MAP r.bank).de = v.de := hall.part .de
  refine ⟨hde2.trans (hde1.trans hde), ?_, ?_, (hf.then hcount).then hall⟩
  · exact (Dev.on_wr_apart _ _ _ _ (by decide) (by decide)).trans (Dev.on_wrB_self _ _ _ (by decide) rfl)
  · rw [Dev.rd_wrB_apart _ _ _ _ (by decide) (by decide), Dev.rd_wrB_apart _ _ _ _ (by decide) (by decide), hruns]

/-- The held updates apply in their order. -/
theorem Dev.release_eq {s : Dev} {r : Run} (h : s.de.run = some r) : s.release = Dev.each s.de.held Dev.bankApply
    { s with de := { s.de with run := some { r with released := true }, held := [] } } := by
  unfold Dev.release
  rw [h]

theorem Dev.release_frame (s : Dev) : Dev.Frame [12, 21] [.de, .evq, .fc, .freeCtr] s s.release := by
  cases h : s.de.run with
  | none =>
    have heq : s.release = s := by
      unfold Dev.release
      rw [h]
    rw [heq]
    exact .refl _ _ s
  | some r =>
    rw [Dev.release_eq h]
    exact ((Dev.Frame.refl _ _ s).de _).trans (.each _ _ _ fun d op _ => d.bankApply_frame op)

/-- A run that has released its updates goes on as it was, and holds none. -/
theorem Dev.release_de {s : Dev} {r : Run} (h : s.de.run = some r) :
    ∃ b a l, s.release.de = ({ s.de with run := some { r with released := true }, held := [] } : De).withBanks b a l := by
  rw [Dev.release_eq h]
  exact Dev.bankApply_each_de _ _

theorem Dev.release_rd (s : Dev) (f : Fld) (h1 : f.reg ≠ R.DE_BEAD_SAT := by decide) (h2 : f.reg ≠ R.DE_EVT := by decide)
    (h3 : blockOf f.reg ∉ [21] := by decide) : s.release.rd f = s.rd f := by
  unfold Dev.release
  split
  · exact (Dev.each_eq (fun d => d.rd f) _ Dev.bankApply _ fun d op => d.bankApply_rd op f h1 h2 h3).trans ((Dev.RegsAs.of_regs rfl).rd f)
  · rfl

theorem Dev.release_bead {s : Dev} {r : Run} (h : s.de.run = some r) {i o inc : Nat} (hheld : s.de.held = [.add i o inc]) :
    s.release.bead i o = min (s.bead i o + inc) 0xFFFFFFFF := by
  rw [Dev.release_eq h, hheld]
  exact Dev.bankApply_add_bead _ i o inc

/-! ### The result of a run (07 R176) -/

theorem Dev.formRead_frame (slot : Nat) (r : Ecc) (s : Dev) : Dev.Frame [10] [.fs, .fc] s (s.formRead slot r) := by
  have hbad (t : Dev) : Dev.Frame [10] [.fs, .fc] t (t.markBad slot) := by
    unfold Dev.markBad
    split
    · exact .refl _ _ t
    · exact (((((Dev.Frame.refl _ _ t).fs _).wr _ _).wr _ _).raise _ _ _ _ _)
  cases r with
  | ok => exact .refl _ _ s
  | corrected => exact (Dev.Frame.refl _ _ s).count _
  | uncorrectable => exact ((Dev.Frame.refl _ _ s).count _).trans (hbad _)
  | checkFails => exact hbad s

/-- The registers that show a run's result, its flags apart. -/
def Dev.runWritten (s : Dev) (code cset : Nat) (best : Nat × Nat) : Dev :=
  ((((s.wrB F.DE_STAT_RUNNING false).wr F.DE_LASTRUN_RESULT code).wr F.DE_LASTRUN_CSET cset).wr F.DE_LASTRUN_FORM best.2).wr2 R.DE_SCORE_LO best.1

/-- The counts of a run without a score, or invalid. -/
def Dev.runCounted (s : Dev) (code : Nat) : Dev :=
  Dev.when (!decide (code ≤ 1)) (fun s => (s.count F.DE_INVALID).event F.DE_EVT_RUN_INVALID) (Dev.when (code == 1) (·.count F.DE_IDLE) s)

theorem Dev.runWritten_reg (s : Dev) (code cset : Nat) (best : Nat × Nat) {off : Nat} (h1 : off ≠ R.DE_LASTRUN) (h2 : off ≠ R.DE_SCORE_LO)
    (h3 : off ≠ R.DE_SCORE_LO + 4) : (s.runWritten code cset best).reg off = (s.wrB F.DE_STAT_RUNNING false).reg off := by
  rw [Dev.runWritten, Dev.reg_wr2_ne _ (Ne.symm h2) (Ne.symm h3), Dev.reg_wr_ne _ (Ne.symm h1), Dev.reg_wr_ne _ (Ne.symm h1),
    Dev.reg_wr_ne _ (Ne.symm h1)]

theorem Dev.runWritten_frame (s : Dev) (code cset : Nat) (best : Nat × Nat) : Dev.Frame [12] [] s (s.runWritten code cset best) :=
  (((((Dev.Frame.refl _ _ s).wrB _ _).wr _ _).wr _ _).wr _ _).wr2 _ _

theorem Dev.runCounted_frame (s : Dev) (code : Nat) : Dev.Frame [12] [.evq] s (s.runCounted code) := by
  have h : Dev.Frame [12] [.evq] s (Dev.when (code == 1) (·.count F.DE_IDLE) s) := .when _ _ s ((Dev.Frame.refl _ _ s).count _)
  exact h.when' _ (((Dev.Frame.refl _ _ _).count _).event _)

theorem Dev.runCounted_stat (s : Dev) (code : Nat) : (s.runCounted code).reg R.DE_STAT = s.reg R.DE_STAT :=
  (Dev.when_eq (fun d => d.reg R.DE_STAT) _ (fun d => (d.count F.DE_INVALID).event F.DE_EVT_RUN_INVALID) _
    ((Dev.reg_event_ne _ (by decide)).trans (Dev.reg_wr_ne _ (by decide) _))).trans
    (Dev.when_eq (fun d => d.reg R.DE_STAT) _ (·.count F.DE_IDLE) s (Dev.reg_wr_ne _ (by decide) _))

theorem Dev.runCounted_invalid (s : Dev) {code : Nat} (h : 1 < code) :
    (s.runCounted code).rd F.DE_INVALID = min (s.rd F.DE_INVALID + 1) 0xFFFFFFFF := by
  have h1 : (code == 1) = false := by simp; omega
  have h2 : (!decide (code ≤ 1)) = true := by simp; omega
  rw [Dev.runCounted, h1, h2, Dev.when_false, Dev.when_true, Dev.rd_event_apart _ _ _ (by decide) (by decide),
    Dev.rd_count_self _ _ _ (by decide) rfl]
  rfl

theorem Dev.runShown_running (s : Dev) (code cset : Nat) (best : Nat × Nat) : ((s.runWritten code cset best).runCounted code).on F.DE_STAT_RUNNING = false := by
  have h : ((s.runWritten code cset best).runCounted code).reg R.DE_STAT = (s.wrB F.DE_STAT_RUNNING false).reg R.DE_STAT :=
    (Dev.runCounted_stat _ _).trans (s.runWritten_reg code cset best (by decide) (by decide) (by decide))
  exact (congrArg (fun w : Word => w.toNat / 2 ^ F.DE_STAT_RUNNING.lo % 2 ^ F.DE_STAT_RUNNING.w == 1) h).trans
    (Dev.on_wrB_self s F.DE_STAT_RUNNING false (by decide) rfl)

theorem Dev.runShown_invalid (s : Dev) {code : Nat} (cset : Nat) (best : Nat × Nat) (h : 1 < code) :
    ((s.runWritten code cset best).runCounted code).rd F.DE_INVALID = min (s.rd F.DE_INVALID + 1) 0xFFFFFFFF := by
  have hreg : (s.runWritten code cset best).reg R.DE_INVALID = s.reg R.DE_INVALID :=
    (s.runWritten_reg code cset best (by decide) (by decide) (by decide)).trans (Dev.reg_wrB_ne _ (by decide) _)
  rw [Dev.runCounted_invalid _ h]
  exact congrArg (fun w : Word => min (w.toNat / 2 ^ F.DE_INVALID.lo % 2 ^ F.DE_INVALID.w + 1) 0xFFFFFFFF) hreg

/-- The code and pick of a run that ends. -/
def Dev.runCode (s : Dev) (r : Run) (p : Plan) (sram : Bool) : Nat :=
  if r.code ≠ 0 then r.code else if sram then 4 else if (s.bestForm r p).1 = 0 then 1 else 0

def Dev.runBest (s : Dev) (r : Run) (p : Plan) (sram : Bool) : Nat × Nat := if r.code = 0 ∧ sram = false then s.bestForm r p else (0, r.dflt)

/-- The result of a run handed to GL: the registers, the trace record, and the form read from its store. -/
def Dev.runTold (s : Dev) (r : Run) (p : Plan) (sram : Bool) (ecc : Ecc) : Dev :=
  let code := s.runCode r p sram
  let best := s.runBest r p sram
  let pl := toLe 8 r.k ++ toLe 2 best.2 ++ [BitVec.ofNat 8 code, BitVec.ofNat 8 r.cset] ++ toLe 6 best.1 ++ toLe 2 r.stale.length
  let t := ((s.runWritten code r.cset best).runCounted code).trace { ty := 3, blk := 12, payload := pl }
  (if code = 0 then t.fs.map r.bank best.2 else none).elim t fun slot => t.formRead slot ecc

/-- The block with another run, or with another choice for GL. -/
def Dev.withRun (x : Option Run) (s : Dev) : Dev := { s with de := { s.de with run := x } }
def Dev.withChoice (c : Choice) (s : Dev) : Dev := { s with gl := { s.gl with choice := some c } }

theorem Dev.chooserResult_go {s : Dev} {r : Run} {p : Plan} (hrun : s.release.de.run = some r) (hplan : s.release.planBank r.bank = some p)
    (sram : Bool) (ecc : Ecc) : s.chooserResult sram ecc = ((s.release.withRun none).runTold r p sram ecc).withChoice
      { k := r.k, form := ((s.release.withRun none).runBest r p sram).2, valid := decide ((s.release.withRun none).runCode r p sram ≤ 1),
        idle := (s.release.withRun none).runCode r p sram == 1 } := by
  unfold Dev.chooserResult
  generalize s.release = v at *
  extract_lets d0 dd t1 t2
  rw [show d0.de.run = some r from hrun]
  dsimp -zeta only
  rw [show t1.planBank r.bank = some p from hplan]
  dsimp -zeta only
  have ht1 : t1 = v.withRun none := rfl
  rw [← ht1]
  extract_lets code0 best code valid w1 w2 w3 w4 pl w5 u g
  have hpair : code = t1.runCode r p sram ∧ best = t1.runBest r p sram := by
    simp only [code, best, code0, Dev.runCode, Dev.runBest]
    by_cases hr : r.code = 0
    · cases sram <;> simp [hr]
    · simp [hr]
  obtain ⟨hcode, hbest⟩ := hpair
  have hu : u = t1.runTold r p sram ecc := by
    unfold Dev.runTold
    rw [← hcode, ← hbest]
    simp only [u]
    show _ = (if code = 0 then w5.fs.map r.bank best.2 else none).elim w5 fun slot => w5.formRead slot ecc
    cases (if code = 0 then w5.fs.map r.bank best.2 else none) <;> rfl
  rw [← hcode, ← hbest, ← hu]
  rfl

/-- What the result of a run leaves. -/
theorem Dev.runTold_spec (s : Dev) (r : Run) (p : Plan) (sram : Bool) (ecc : Ecc) :
    (s.runTold r p sram ecc).on F.DE_STAT_RUNNING = false ∧
    (1 < s.runCode r p sram → (s.runTold r p sram ecc).rd F.DE_INVALID = min (s.rd F.DE_INVALID + 1) 0xFFFFFFFF) ∧
    (ecc = .ok → (s.runTold r p sram ecc).fs = s.fs) ∧ Dev.Frame [10, 12, 21] [.trc, .evq, .fs, .fc] s (s.runTold r p sram ecc) := by
  have h1 := s.runShown_running (s.runCode r p sram) r.cset (s.runBest r p sram)
  have h2 := s.runShown_invalid (code := s.runCode r p sram) r.cset (s.runBest r p sram)
  have hw : Dev.Frame [12] [.evq] s ((s.runWritten (s.runCode r p sram) r.cset (s.runBest r p sram)).runCounted (s.runCode r p sram)) :=
    ((s.runWritten_frame _ _ _).mono).then (Dev.runCounted_frame _ _)
  have h3 := hw.mono (w' := [10, 12, 21]) (l' := [.trc, .evq, .fs, .fc])
  have h4 : ((s.runWritten (s.runCode r p sram) r.cset (s.runBest r p sram)).runCounted (s.runCode r p sram)).fs = s.fs := hw.part .fs
  unfold Dev.runTold
  dsimp only
  generalize (s.runWritten (s.runCode r p sram) r.cset (s.runBest r p sram)).runCounted (s.runCode r p sram) = u at h1 h2 h3 h4 ⊢
  generalize htr : u.trace _ = t
  have ht : Dev.RegsAs u t := by rw [← htr]; exact .of_regs rfl
  have hf : Dev.Frame [10, 12, 21] [.trc, .evq, .fs, .fc] s t := by rw [← htr]; exact h3.trace _
  have hfs : t.fs = s.fs := by rw [← htr]; exact h4
  clear htr
  generalize (if s.runCode r p sram = 0 then t.fs.map r.bank (s.runBest r p sram).2 else none) = o
  cases o with
  | none => exact ⟨(ht.on _).trans h1, fun h => (ht.rd _).trans (h2 h), fun _ => hfs, hf⟩
  | some slot =>
    have hread := Dev.formRead_frame slot ecc t
    refine ⟨(hread.on _).trans ((ht.on _).trans h1), fun h => (hread.rd _).trans ((ht.rd _).trans (h2 h)), fun h => ?_, hf.then hread⟩
    rw [h]
    exact hfs

theorem Dev.bestForm_congr {s t : Dev} {r : Run} (hfs : t.fs = s.fs) (hbad : t.de.badMap = s.de.badMap) (p : Plan) :
    t.bestForm { r with released := true } p = s.bestForm r p := by
  have he : t.eligible r.bank r.cset = s.eligible r.bank r.cset := by simp only [Dev.eligible, hfs, hbad]
  show (t.eligible r.bank r.cset).foldl _ _ = (s.eligible r.bank r.cset).foldl _ _
  rw [he]
  rfl

end Sys2Proof.Machine

namespace Sys2Proof.Proofs
open Sys2Proof.Machine

/-- Settles O26: the run's result is a pick of the first form of the highest score, from 0. -/
theorem highestScore : Obligations.HighestScore := by
  unfold Obligations.HighestScore
  intro s r p b score
  obtain ⟨hall, -, hpick⟩ := foldl_pickBest score (s.eligible r.bank r.cset) (0, r.dflt)
  have hb : (s.eligible r.bank r.cset).foldl (pickBest score) (0, r.dflt) = b := rfl
  rw [hb] at hall hpick
  refine ⟨hall, fun h0 => ?_, fun hpos => ?_⟩
  · obtain h | ⟨hmore, -⟩ := hpick
    · rw [h]
    · omega
  · obtain h | ⟨-, m, f, n, hl, hnum, hscore, hless⟩ := hpick
    · rw [h] at hpos
      exact absurd hpos (Nat.lt_irrefl 0)
    · exact ⟨m, f, n, hl, hnum, hscore, hless⟩

/-- Settles O23: an entry by its colour, a rod whose window has passed, and the meter's own bounds. -/
theorem metersAndWindows : Obligations.MetersAndWindows := by
  unfold Obligations.MetersAndWindows
  refine ⟨fun s hrun => ⟨?_, fun i hhave hi hlate => ?_⟩, fun c oct n m => meterStep_eq c oct n m ▸
    meterPick_spec oct n m (Nat.min_le_right _ _) (Nat.min_le_right _ _)⟩
  · intro g e rest hq c r inc
    have hexec : exec (.meterEntry g) s = .next { s with dev := s.fresh.dev.meterEntry g.toNat } := State.onDev_next s _ hrun
    obtain ⟨h1, h2, h3, h4, h5⟩ := Dev.meterEntry_spec (s := s.fresh.dev) hq (r := r) rfl (inc := inc) rfl
    exact ⟨_, hexec, h1, h2, h3, h4, h5.only⟩
  · have hexec : exec (.rodStale i) s = .next { s with dev := s.fresh.dev.rodStale i.toNat } := State.onDev_next s _ hrun
    rw [Dev.rodStale_go (s := s.fresh.dev) hhave hi hlate] at hexec
    have hst := (s.fresh.dev.rodPassed i.toNat).staleSync_frame
    refine ⟨_, hexec, ?_, ((s.fresh.dev.rodPassed_frame _).then hst).only⟩
    have hde : (s.fresh.dev.rodPassed i.toNat).staleSync.de = (s.fresh.dev.rodPassed i.toNat).de := hst.part .de
    rw [show ({ s with dev := (s.fresh.dev.rodPassed i.toNat).staleSync } : State).dev.de = _ from hde]
    exact Tbl.get_set_self _ _ _

/-- Settles O25: a run's start, the release of what it holds, and its result. -/
theorem chooserRun : Obligations.ChooserRun := by
  unfold Obligations.ChooserRun
  intro s hrun
  refine ⟨fun q p hfire hp0 hinh hwalk hidle hq hplan hdem => ?_, fun r hr => ?_, fun r p hr hplan sram ecc => ?_⟩
  · have hexec : exec .chooserStart s = .next { s with dev := s.fresh.dev.chooserStart } := State.onDev_next s _ hrun
    have hq' : s.fresh.dev.decideAt (fun b => b == s.fresh.dev.now + s.fresh.dev.chooserLead) = some q :=
      (Dev.decideAt_congr (s := s.dev) (t := s.fresh.dev) rfl rfl rfl rfl _).trans hq
    have hgate : s.fresh.dev.gate q = s.dev.gate q := Dev.gate_congr rfl rfl q
    obtain ⟨r, heq, h1, h2, h3, h4, h5, h6, h7⟩ := Dev.chooserStart_go (s := s.fresh.dev) hfire hp0 hinh hwalk hidle hq' hplan (hgate ▸ hdem)
    obtain ⟨hde, hon, hruns, hf⟩ := s.fresh.dev.runStarted_spec r
    rw [heq] at hexec
    rw [hgate] at h3 h4
    exact ⟨_, r, hexec, congrArg De.run hde, h1, h2, h3, h4, h5, h6, h7, hon, hruns, hf.only⟩
  · have hexec : exec .updatesReleased s = .next { s with dev := s.fresh.dev.release } := State.onDev_next s _ hrun
    obtain ⟨b, a, l, hde⟩ := Dev.release_de (s := s.fresh.dev) hr
    exact ⟨_, hexec, congrArg De.run hde, congrArg De.held hde, fun i o inc h => Dev.release_bead (s := s.fresh.dev) hr h,
      s.fresh.dev.release_frame.only⟩
  · intro best code form
    have hexec : exec (.chooserResult sram ecc) s = .next { s with dev := s.fresh.dev.chooserResult sram ecc } := State.onDev_next s _ hrun
    obtain ⟨b, a, l, hde⟩ := Dev.release_de (s := s.fresh.dev) hr
    have hrel := s.fresh.dev.release_frame
    have hinv := s.fresh.dev.release_rd F.DE_INVALID
    have hplan' : s.fresh.dev.release.planBank r.bank = some p := (Dev.planBank_congr (hrel.part .plan0) (hrel.part .plan1) _).trans hplan
    have heq := Dev.chooserResult_go (s := s.fresh.dev) (r := { r with released := true }) (congrArg De.run hde) hplan' sram ecc
    generalize s.fresh.dev.release = d at hde hrel hinv heq
    have hfs : d.fs = s.dev.fs := hrel.part .fs
    have hgl : d.gl = s.dev.gl := hrel.part .gl
    have hu : Dev.Frame [12, 21] [.de, .evq, .fc, .freeCtr] s.fresh.dev (d.withRun none) := hrel.de _
    have hbad : d.de.badMap = s.dev.de.badMap := by
      rw [hde]
      rfl
    have hbest : (d.withRun none).bestForm { r with released := true } p = best := Dev.bestForm_congr (s := s.dev) hfs hbad p
    have hcode : (d.withRun none).runCode { r with released := true } p sram = code := by rw [Dev.runCode, hbest]
    have hform : ((d.withRun none).runBest { r with released := true } p sram).2 = form := by
      rw [Dev.runBest, hbest]
      show (if r.code = 0 ∧ sram = false then best else (0, r.dflt)).2 = if r.code = 0 ∧ sram = false then best.2 else r.dflt
      split <;> rfl
    obtain ⟨h1, h2, h3, h4⟩ := (d.withRun none).runTold_spec { r with released := true } p sram ecc
    rw [hcode] at h2 heq
    rw [hform] at heq
    have hde' : ((d.withRun none).runTold { r with released := true } p sram ecc).de = (d.withRun none).de := h4.part .de
    have hgl' : ((d.withRun none).runTold { r with released := true } p sram ecc).gl = s.dev.gl :=
      (show _ = (d.withRun none).gl from h4.part .gl).trans hgl
    have hall : Dev.Frame [10, 12, 21] [.de, .gl, .trc, .evq, .fs, .fc, .freeCtr] s.fresh.dev _ := hu.mono.then h4
    generalize (d.withRun none).runTold { r with released := true } p sram ecc = t at heq h1 h2 h3 hde' hgl' hall
    rw [heq] at hexec
    refine ⟨_, hexec, congrArg De.run hde', h1, ?_, fun h => (h2 h).trans ?_, fun h => (h3 h).trans hfs, ?_, (hall.gl _).only⟩
    · exact congrArg (fun g : Gl => { g with choice := some { k := r.k, form := form, valid := decide (code ≤ 1), idle := code == 1 } }) hgl'
    · exact congrArg (fun n => min (n + 1) 0xFFFFFFFF) hinv
    · exact (congrArg De.held hde').trans (congrArg De.held hde)

end Sys2Proof.Proofs
end

section
-- One proof after another: in parallel the proofs of this text would not fit the memory that its check allows.
set_option Elab.async false
/-!
PROOFS. Statements that fail in a state which no run reaches: the tables and lists of the state may name a thing twice, or hold what
only another moment could have left, and the statement speaks of every state.
-/
namespace Sys2Proof.Proofs
open Sys2Proof.Machine

/-- The state after reset with a change of the block. -/
def resetWith (f : Dev → Dev) : State := { State.reset with dev := f State.reset.dev }

/-- What a command on the block leaves of it. -/
theorem dev_of_onDev {s t : State} {f : Dev → Dev} (h : s.onDev f = .next t) (hrun : Running s) : t.dev = f s.fresh.dev := by
  rw [State.onDev_next s f hrun] at h
  exact (congrArg State.dev (Host.Outcome.next.inj h)).symm

/-! ### Decision: two decided slots of one number -/

/-- Slot 1 stands twice in GL's list, decided for sample 3 and for sample 5. -/
def twiceDecided : State := resetWith (fun d => { d with gl := { d.gl with dec := [{ k := 1, m := 3 }, { k := 1, m := 5 }] } })

theorem twiceDecided_forced :
    ∀ y ∈ (Dev.regWrite .steward R.FC_SAFE_CTL (setBit (0 : Word).toNat 0) twiceDecided.fresh.dev).gl.dec, y.m = 5 := by decide +kernel

/-- Refutes O27: cancelling a slot rewrites every entry of its number, so of a slot decided twice only the later sample is left. -/
theorem not_decision : ¬ Obligations.Decision := by
  unfold Obligations.Decision
  rintro ⟨-, h⟩
  obtain ⟨t, hexec, -, -, hslots⟩ :=
    h twiceDecided .steward 0 rfl (by unfold MayWrite; decide) (by decide) (by decide) (by decide) (by decide)
  have hdev := dev_of_onDev (f := Dev.regWrite .steward R.FC_SAFE_CTL (setBit (0 : Word).toNat 0)) hexec rfl
  obtain ⟨⟨y, hy, -, hm, -⟩, -⟩ := hslots { k := 1, m := 3 } List.mem_cons_self rfl rfl
  have h5 : y.m = 5 := twiceDecided_forced y (hdev ▸ hy)
  simp [h5] at hm

/-! ### Strobes: a slot that was cancelled with its changed cells kept -/

/-- Slot 1 for the frame at hand was cancelled, yet lists a changed cell. -/
def cancelledChanged : Slot := { k := 1, m := 3, cancelled := true, changed := [(0, true)] }

def cancelledDue : State := resetWith (fun d => { d with gl := { d.gl with dec := [cancelledChanged] } })

theorem cancelledDue_frame : (Dev.frameStrobe cancelledDue.fresh.dev).gl.dec = [cancelledChanged] := by decide +kernel

/-- Refutes O33: under a hard inhibit the frame strobe passes over a slot cancelled before, whatever cells that one lists. -/
theorem not_strobes : ¬ Obligations.Strobes := by
  unfold Obligations.Strobes
  intro h
  obtain ⟨hstrobe, -⟩ := h cancelledDue rfl
  obtain ⟨t, hexec, -, -, -, -, -, -, -, hhard, -⟩ := hstrobe (by decide)
  have hdev := dev_of_onDev (f := Dev.frameStrobe) hexec rfl
  obtain ⟨y, hy, -, -, -, -, hnone⟩ :=
    hhard (by decide) (by decide) (by decide) cancelledChanged List.mem_cons_self (by decide) rfl rfl
  have hdec : y ∈ [cancelledChanged] := cancelledDue_frame ▸ hdev ▸ hy
  obtain rfl := List.mem_singleton.mp hdec
  exact absurd hnone (by decide)

/-! ### Activation: slots of an old plan kept for a plan that is staged -/

/-- A plan is staged, and the form store still keeps a slot of the plan it replaced. -/
def keptSlots : State := resetWith (fun d =>
  ({ d with gl := { d.gl with retireAt := some 0 }, fs := { d.fs with kept := [7] } }).wr F.GL_STAT_STAGED 1)

/-- Refutes O29: what was kept of the retired plan's slots goes although a plan is staged, so the form store is not the same. -/
theorem not_activation : ¬ Obligations.Activation := by
  unfold Obligations.Activation
  intro h
  obtain ⟨-, -, -, hretire⟩ := h keptSlots rfl
  obtain ⟨t, hexec, -, -, -, hstaged, -⟩ := hretire 0 rfl (by decide) (by decide)
  have hdev := dev_of_onDev (f := Dev.retirePlan) hexec rfl
  obtain ⟨hfs, -⟩ := hstaged (by decide)
  rw [hdev] at hfs
  have hkept : (Dev.retirePlan keptSlots.fresh.dev).fs.kept = keptSlots.dev.fs.kept := congrArg Fs.kept hfs
  exact absurd hkept (by decide +kernel)

/-! ### HealthWords: two release states of one vat -/

/-- Vat 1 has a frame that is complete, and behind it one that ended with ABORT. -/
def twoFrames : State := resetWith (fun d => { d with tw := { d.tw with rel := [(1, { closed := true }), (1, { aborted := true })] } })

/-- Refutes O41: the release state of a vat is its first entry, and the complete frame there is not ended with ABORT. -/
theorem not_healthWords : ¬ Obligations.HealthWords := by
  unfold Obligations.HealthWords
  intro h
  obtain ⟨-, -, -, -, -, -, harb⟩ := h twoFrames .lea 0 rfl
  obtain ⟨t, hexec, -, -, habort, -⟩ := harb 0 (by decide)
  have hdev := dev_of_onDev (f := Dev.arbFault (0 : BitVec 2).toNat) hexec rfl
  have hended := habort (1, { aborted := true }) (List.mem_cons_of_mem _ List.mem_cons_self) rfl
  rw [hdev] at hended
  exact absurd hended (by decide +kernel)

/-! ### TimeBase: a fault remembered by its sample index -/

/-- Mismatches counted at sample 5, and an offset of one microsecond to step by. -/
def countedBefore : State := resetWith (fun d =>
  ({ d with tw := { d.tw with mis := [5] } }).wr F.TB_OFFSET (2 ^ 32 - 16000))

/-- Refutes O58: a step of the time base moves the sample indexes of the mismatch window with it, which is a part of TW. -/
theorem not_timeBase : ¬ Obligations.TimeBase := by
  unfold Obligations.TimeBase
  intro h
  obtain ⟨-, -, -, -, hstep, -⟩ := h countedBefore rfl
  obtain ⟨-, hmay⟩ := hstep .steward 0 (by unfold MayWrite; decide)
  obtain ⟨hptp, -⟩ := hmay (.inl (by decide))
  obtain ⟨t, hexec, -, -, -, -, hkeeps, -⟩ := hptp (by decide)
  have hdev := dev_of_onDev (f := Dev.regWrite .steward R.TB_STEP_CTL (setBit (0 : Word).toNat 0)) hexec rfl
  have hmis : t.dev.tw.mis = countedBefore.dev.tw.mis := congrArg Tw.mis (hkeeps .tw (by decide))
  rw [hdev] at hmis
  exact absurd hmis (by decide +kernel)

/-! ### PlanActivate: a pm.set in the mailbox of the cancel -/

/-- A cancel of the activation at sample 100 in mailbox 0. -/
def cancelMbx : Mbx := { cmd := 0x0102, req := zeros 8 ++ [1] }

/-- An activation is pending, and mailbox 0 holds its cancel; the power manager has a pm.set to answer in the same mailbox. -/
def cancelAnswered : State := resetWith (fun d =>
  ((({ d with mbx := [(0, cancelMbx)], pm := { d.pm with mb := some (0, 0) } }).wr (F.MB_STAT_STATE 0) 1).wr
    F.GL_STAT_ACT_PEND 1).wr2 R.GL_ACT_LO 100)

/-- The answers that the cancel and the pm.set give differ in length; the pm.set's comes last. -/
theorem cancelAnswered_length :
    (((Dev.ecs (0 : BitVec 3).toNat 0x0102 (some 1) Dev.planCancel cancelAnswered.fresh.dev).mbx.get (0 : BitVec 3).toNat).ready.map
      (fun r => r.2.2.2.length)) = some 16 := by decide +kernel

/-- Refutes O31: the cancel ends with a step of the power manager, which answers the pm.set that it holds for the same mailbox. -/
theorem not_planActivate : ¬ Obligations.PlanActivate := by
  unfold Obligations.PlanActivate
  intro h
  obtain ⟨-, hcancel⟩ := h cancelAnswered 0 cancelMbx rfl
  obtain ⟨hok, -⟩ := hcancel (by unfold Asked; decide +kernel) (by decide) rfl
  obtain ⟨t, hexec, -, -, -, hready, -⟩ := hok (by decide +kernel)
  have hdev := dev_of_onDev (f := Dev.ecs (0 : BitVec 3).toNat 0x0102 (some 1) Dev.planCancel) hexec rfl
  have hlen := cancelAnswered_length
  rw [← hdev, hready] at hlen
  simp [toLe] at hlen

/-! ### EventRings: a ring of 2^32 records -/

/-- Ring 0 has 2^32 records, one free place and two records to write. -/
def widestRing : State := resetWith (fun d =>
  (({ d with evq := { d.evq with rings := [(0, { todo := [{}, {}] })] } }).wr (F.EVQ_CFG_SIZE 0) 32).wr (F.EVQ_PI 0) 0xFFFFFFFF)

/-- Refutes O53: on a ring of 2^32 records the indices, of 32 bits, read as those of an empty ring once the last place is filled, and the
second record goes out as well; only a write of EVQ_CFG keeps SIZE below. -/
theorem not_eventRings : ¬ Obligations.EventRings := by
  unfold Obligations.EventRings
  intro h
  obtain ⟨-, hbatch, -⟩ := h widestRing rfl
  obtain ⟨⟨t, hexec, -, -, hpi, -⟩, -⟩ := hbatch 0
  rw [dev_of_onDev (f := Dev.evqWrite (0 : BitVec 4).toNat true) hexec rfl] at hpi
  exact absurd hpi (by decide +kernel)

end Sys2Proof.Proofs
end

section
-- One proof after another: in parallel the proofs of this text would not fit the memory that its check allows.
set_option Elab.async false
/-!
PROOFS. The limits that the normal update keeps (05 R107, R109).
-/
namespace Sys2Proof.Proofs
open Sys2Proof.Machine

/-! ### The output word -/

/-- What out answers lies within UMIN and UMAX: a word that nq15 narrows is the rounded sum itself or 16 bits wide like the limits. -/
theorem outp_bounds (d : Desc) (th : Int) (st : Bool) (i p : Int) (h : d.umin.toInt ≤ d.umax.toInt) :
    d.umin.toInt ≤ (outp d th st i p).u ∧ (outp d th st i p).u ≤ d.umax.toInt := by
  have hmin := BitVec.le_toInt d.umin
  have hmax := BitVec.toInt_lt (x := d.umax)
  unfold outp
  simp only [nq15, sat16]
  split
  · exact ⟨h, le_refl _⟩
  · split
    · exact ⟨le_refl _, h⟩
    · split_ifs <;> simp only <;> omega

theorem ofInt_outp (d : Desc) (th : Int) (st : Bool) (i p : Int) (h : d.umin.toInt ≤ d.umax.toInt) :
    (BitVec.ofInt 16 (outp d th st i p).u).toInt = (outp d th st i p).u := by
  obtain ⟨hlo, hhi⟩ := outp_bounds d th st i p h
  have hmin := BitVec.le_toInt d.umin
  have hmax := BitVec.toInt_lt (x := d.umax)
  rw [BitVec.toInt_ofInt, Int.bmod_eq_of_le] <;> omega

/-! ### The state -/

/-- Two states that agree but in flags and in the fields an update writes. -/
structure SameLoop (s t : LoopSt) : Prop where
  ib : t.ib = s.ib
  ix : t.ix = s.ix
  th : t.th = s.th
  st : t.st = s.st
  mode : t.mode = s.mode
  uhold : t.uhold = s.uhold

theorem SameLoop.refl (s : LoopSt) : SameLoop s s := ⟨rfl, rfl, rfl, rfl, rfl, rfl⟩

theorem SameLoop.trans {s t u : LoopSt} (h : SameLoop s t) (k : SameLoop t u) : SameLoop s u :=
  ⟨k.ib.trans h.ib, k.ix.trans h.ix, k.th.trans h.th, k.st.trans h.st, k.mode.trans h.mode, k.uhold.trans h.uhold⟩

theorem SameLoop.i {s t : LoopSt} (h : SameLoop s t) (b : Bool) : t.i b = s.i b := by
  unfold LoopSt.i
  rw [h.ib, h.ix]

theorem aFlag_same (b : Nat) (c : Bool) (s : LoopSt) : SameLoop s (s.aFlag b c) := by
  unfold LoopSt.aFlag
  split <;> exact ⟨rfl, rfl, rfl, rfl, rfl, rfl⟩

theorem lFlag_same (b : Nat) (c : Bool) (s : LoopSt) : SameLoop s (s.lFlag b c) := by
  unfold LoopSt.lFlag
  split <;> exact ⟨rfl, rfl, rfl, rfl, rfl, rfl⟩

theorem outFlags_same (o : OutR) (s : LoopSt) : SameLoop s (s.outFlags o) :=
  ((aFlag_same 3 o.acc s).trans (aFlag_same 2 o.nq _)).trans (lFlag_same 0 o.us _)

theorem i_setI_other (s : LoopSt) (b : Bool) (v : Int) : (s.setI b v).i (!b) = s.i (!b) := by
  cases b <;> simp [LoopSt.i, LoopSt.setI]

theorem i_setI_same (s : LoopSt) (b : Bool) (v : Int) : (s.setI b v).i b = (BitVec.ofInt 40 v).toInt := by
  cases b <;> simp [LoopSt.i, LoopSt.setI]

/-- The clamp keeps within ILIM, of 32 bits, which a word of 40 bits holds. -/
theorem ofInt_iclamp (d : Desc) (i : Int) : ((BitVec.ofInt 40 (iclamp d i).1).toInt.natAbs : Int) ≤ a16 d.ilim.toNat := by
  have hlim := d.ilim.isLt
  have hbound : -(a16 d.ilim.toNat) ≤ (iclamp d i).1 ∧ (iclamp d i).1 ≤ a16 d.ilim.toNat := by
    unfold iclamp a16
    dsimp only
    split
    · constructor <;> dsimp only <;> omega
    · split <;> constructor <;> dsimp only <;> omega
  unfold a16 at *
  rw [BitVec.toInt_ofInt, Int.bmod_eq_of_le] <;> omega

/-! ### The update -/

/-- The integrator after the update's integration, and the rest as it was. -/
structure Integrated (d : Desc) (s t : LoopSt) : Prop where
  st : t.st = s.st
  th : t.th = s.th
  mode : t.mode = s.mode
  other : t.i (!s.st) = s.i (!s.st)
  within : ((s.i s.st).natAbs : Int) ≤ a16 d.ilim.toNat → ((t.i s.st).natAbs : Int) ≤ a16 d.ilim.toNat

theorem Integrated.of_same {d : Desc} {s t u : LoopSt} (h : Integrated d s t) (k : SameLoop t u) : Integrated d s u :=
  ⟨k.st.trans h.st, k.th.trans h.th, k.mode.trans h.mode, (k.i _).trans h.other, fun w => (k.i s.st) ▸ h.within w⟩

/-- Either the integration is skipped, or the sum is clamped and stored. -/
theorem integrated (d : Desc) (s : LoopSt) (skip : Bool) (a : Int) (f g : Bool) :
    Integrated d s (if skip then s else ((s.setI s.st (iclamp d a).1).aFlag 3 f).lFlag 1 g) := by
  split
  · exact ⟨rfl, rfl, rfl, rfl, id⟩
  · refine Integrated.of_same ?_ ((aFlag_same 3 f _).trans (lFlag_same 1 g _))
    exact ⟨by cases h : s.st <;> simp [LoopSt.setI, h], by cases h : s.st <;> simp [LoopSt.setI],
      by cases h : s.st <;> simp [LoopSt.setI], i_setI_other s _ _, fun _ => (i_setI_same s _ _).symm ▸ ofInt_iclamp d a⟩

/-- The normal update from the integrated state: the output word of some sum is held, and flags alone change beside. -/
theorem updNormal_spec (d : Desc) (f : Front) (j : Nat) (s : LoopSt) :
    ∃ t i p, Integrated d s t ∧ (updNormal d f j s).st.uhold = BitVec.ofInt 16 (outp d t.th.toInt t.st i p).u ∧
      Integrated d s (updNormal d f j s).st := by
  have hfirst : ∀ c : Bool, SameLoop s (if c then { s with sp := BitVec.ofInt 16 f.lvl, spv := true } else s) := by
    intro c
    split <;> exact ⟨rfl, rfl, rfl, rfl, rfl, rfl⟩
  unfold updNormal
  extract_lets first e s1 di skip a c s2 o flagged s3 w
  have h1 : SameLoop s s1 := hfirst first
  have h2 : Integrated d s s2 := by
    have := integrated d s1 skip a.1 a.2 c.2
    exact ⟨this.st.trans h1.st, this.th.trans h1.th, this.mode.trans h1.mode, h1.st ▸ this.other.trans (h1.i _),
      fun hw => h1.st ▸ this.within (by rw [h1.st, h1.i]; exact hw)⟩
  refine ⟨s2, s2.i s2.st, mulc e d.kp.toInt d.kpSh.toNat, h2, (aFlag_same 4 w.2 s3).uhold, ?_⟩
  have hout : Integrated d s flagged := h2.of_same (outFlags_same o s2)
  have h3 : Integrated d s s3 := ⟨hout.st, hout.th, hout.mode, hout.other, hout.within⟩
  exact h3.of_same (aFlag_same 4 w.2 s3)

/-- Settles O36. -/
theorem loopLimits : Obligations.LoopLimits := by
  unfold Obligations.LoopLimits
  intro d f j s h
  obtain ⟨t, i, p, -, hu, hst⟩ := updNormal_spec d f j s
  obtain ⟨hlo, hhi⟩ := outp_bounds d t.th.toInt t.st i p h
  have hval := ofInt_outp d t.th.toInt t.st i p h
  exact ⟨by rw [hu, hval]; exact hlo, by rw [hu, hval]; exact hhi, hst.st, hst.other, hst.th, hst.mode, hst.within⟩

end Sys2Proof.Proofs
end

section
-- One proof after another: in parallel the proofs of this text would not fit the memory that its check allows.
set_option Elab.async false
/-!
PROOFS. twin.status (10 R259) and what it passes on to the arbiter; loop.tune and loop.read (05 R125, R126).
-/
namespace Sys2Proof.Machine

/-! ### Requests of the arbiter -/

/-- The block with other accepted requests. -/
def Dev.withReqs (l : List TwReq) (s : Dev) : Dev := { s with tw := { s.tw with reqs := l } }

theorem Dev.twRemove_eq (s : Dev) (e : Eng) : s.twRemove e = (s.applyReqs.removeWhy e).elim
    (s.withReqs (s.tw.reqs ++ [.remove e]), none) fun w => (s.event F.TW_EVT_REFUSED, some w) := by
  unfold Dev.twRemove
  cases s.applyReqs.removeWhy e <;> rfl

theorem Dev.twSwap_eq (s : Dev) : s.twSwap = s.applyReqs.swapWhy.elim
    (s.withReqs (s.tw.reqs ++ [.swap]), none) fun w => (s.event F.TW_EVT_REFUSED, some w) := by
  unfold Dev.twSwap
  cases s.applyReqs.swapWhy <;> rfl

theorem Dev.twRestore_eq (s : Dev) (e : Eng) (mb : Option Nat) : s.twRestore e mb = (s.applyReqs.restoreWhy e).elim
    (s.restoreBegin e mb, none) fun w => (s.event F.TW_EVT_REFUSED, some w) := by
  unfold Dev.twRestore
  cases s.applyReqs.restoreWhy e <;> rfl

theorem blockOf_healthFld (e : Eng) {f : Fld} (hf : blockOf f.reg = 9) (hb : blockOf (f.reg + (R.TW_HEALTH_B - R.TW_HEALTH_A)) = 9) :
    blockOf (healthFld e f).reg ∈ [9] := by
  cases e
  · exact List.mem_singleton.mpr hf
  · exact List.mem_singleton.mpr hb

theorem Dev.restoreBegin_frame (s : Dev) (e : Eng) (mb : Option Nat) : Dev.Frame [9] [.tw, .le] s (s.restoreBegin e mb) := by
  have h0 := Dev.Frame.refl [9] [.tw, .le] s
  have h1 := h0.wr (healthFld e F.TW_HEALTH_A_CHECKS) 0 (blockOf_healthFld e (by decide) (by decide))
  have h2 := h1.wrB (healthFld e F.TW_HEALTH_A_FAULT) false (blockOf_healthFld e (by decide) (by decide))
  have h3 := h2.wrB (healthFld e F.TW_HEALTH_A_STARVED) false (blockOf_healthFld e (by decide) (by decide))
  unfold Dev.restoreBegin
  cases e
  · exact (h3.le _).tw _
  · exact (h3.le _).tw _

/-- A request that is not in order: its event, and no other effect. -/
theorem Dev.twRefused_frame (s : Dev) : Dev.Frame [9] [.evq] s (s.event F.TW_EVT_REFUSED) := (Dev.Frame.refl _ _ s).event _

/-! ### twin.status -/

theorem Dev.twStRestore_range {s : Dev} {m : Mbx} (mb : Nat) (h : 1 < m.fld 1 1) : s.twStRestore mb m = s.range mb 1 := if_pos h

theorem Dev.twStRestore_go {s : Dev} {m : Mbx} (mb : Nat) (h : m.fld 1 1 ≤ 1) (hwhy : s.applyReqs.restoreWhy m.twEng = none) :
    s.twStRestore mb m = (s.restoreBegin m.twEng (some mb)).take mb := by
  unfold Dev.twStRestore
  rw [if_neg (by omega), Dev.twRestore_eq, hwhy]
  rfl

theorem Dev.twStRestore_refused {s : Dev} {m : Mbx} (mb : Nat) {w : Nat} (h : m.fld 1 1 ≤ 1) (hwhy : s.applyReqs.restoreWhy m.twEng = some w) :
    s.twStRestore mb m = (s.event F.TW_EVT_REFUSED).refuse mb 0x0C04 (0x0900 + w) := by
  unfold Dev.twStRestore
  rw [if_neg (by omega), Dev.twRestore_eq, hwhy]
  rfl

theorem Dev.twAnswer_none (mb : Nat) (d : Dev) : Dev.twAnswer mb (d, none) = d.ok mb (toLe 8 d.nextOpen) := rfl

theorem Dev.twAnswer_some (mb : Nat) (d : Dev) (w : Nat) : Dev.twAnswer mb (d, some w) = d.refuse mb 0x0C04 (0x0900 + w) := rfl

theorem Dev.withReqs_nextOpen (l : List TwReq) (s : Dev) : (s.withReqs l).nextOpen = s.nextOpen := rfl

theorem Dev.withReqs_frame (l : List TwReq) (s : Dev) : Dev.Frame [] [.tw] s (s.withReqs l) := (Dev.Frame.refl _ _ s).tw _

/-- REMOVE or SWAP that is accepted joins the requests and names the next opening. -/
theorem twAccepted {s : State} {mb : BitVec 3} (l : List TwReq) :
    let t : State := { s with dev := Dev.twAnswer mb.toNat (s.fresh.dev.withReqs l, none) }
    t.dev.tw.reqs = l ∧ Answered s t mb 0 0 0xFFFFFFFF (toLe 8 s.dev.nextOpen) ∧ Only [] [.tw, .mbx] s t := by
  intro t
  refine ⟨congrArg Tw.reqs (Dev.finish_tw _ _ _ _ _ _), ?_, ?_⟩
  · exact .of_finish (d := s.fresh.dev.withReqs l) rfl mb _ _ _ _
  · exact ((s.fresh.dev.withReqs_frame l).mono.ok _ _).only

/-- A request that is refused: the answer, and its event. -/
theorem twRefused {s : State} {mb : BitVec 3} (w : Nat) :
    let t : State := { s with dev := (s.fresh.dev.event F.TW_EVT_REFUSED).refuse mb.toNat 0x0C04 (0x0900 + w) }
    Answered s t mb 2 0x0C04 (0x0900 + w) [] ∧ t.dev.on F.TW_EVT_REFUSED = true ∧ Only [9] [.evq, .mbx] s t :=
  ⟨.of_finish (Dev.event_mbx _ _) mb _ _ _ _,
    (Dev.finish_on _ _ _ _ _ _ _).trans (Dev.on_event_self _ F.TW_EVT_REFUSED (by decide) rfl),
    (s.fresh.dev.twRefused_frame.mono.refuse _ _ _).only⟩

/-! ### loop.tune and loop.read -/

theorem Dev.tuneOp_go {s : Dev} {m : Mbx} {p : Plan} {ve : VatEntry} (mb : Nat) (act : Plan → VatEntry → Dev → Dev)
    (h : s.tuneVat m = .inr (.inl (p, ve))) : s.tuneOp mb m act = act p ve s := by
  unfold Dev.tuneOp
  rw [h]

/-- A write of the tuning shadow that a loop.tune asks for. -/
def tuneAsked (mb : Nat) (m : Mbx) (ve : VatEntry) : Tune :=
  { kind := .write, mb := mb, vat := ve.vat, loops := tuneLoops m, fmask := BitVec.ofNat 32 (m.fld 4 4), img := parseDesc m.payload 40 }

theorem Dev.tuneWrite_go {s : Dev} {m : Mbx} {p : Plan} {ve : VatEntry} (mb : Nat) (h : s.tuneVat m = .inr (.inl (p, ve)))
    (hok : ∀ l ∈ tuneLoops m, tuneCode p ve ((tuneAsked mb m ve).descs s.descsAhead) (tuneLoops m) l = 0) :
    s.tuneWrite mb m = (s.take mb).shadow (tuneAsked mb m ve) := by
  have hbad : ((tuneLoops m).map (fun l => (tuneCode p ve ((tuneAsked mb m ve).descs s.descsAhead) (tuneLoops m) l, l))).filter
      (fun c => c.1 != 0) = [] := by
    rw [List.filter_eq_nil_iff]
    intro c hc
    obtain ⟨l, hl, rfl⟩ := List.mem_map.mp hc
    simp [hok l hl]
  unfold Dev.tuneWrite
  rw [Dev.tuneOp_go mb _ h]
  dsimp only
  erw [hbad]
  rfl

/-- The first loop that a preset may not take: no cell, or in that state already. -/
def Dev.presetBad (s : Dev) (m : Mbx) (ve : VatEntry) : Option Nat :=
  (tuneLoops m).find? (fun l => !(s.descsAhead.get (loopKey ve.vat l)).isCell ||
    ((s.eng s.active).loops.get (loopKey ve.vat l)).st == bit (m.fld 2 1) 0)

/-- A preset of the tuning shadow that a loop.tune asks for. -/
def presetAsked (mb : Nat) (m : Mbx) (ve : VatEntry) : Tune :=
  { kind := .preset, mb := mb, vat := ve.vat, loops := tuneLoops m, st := bit (m.fld 2 1) 0, val := BitVec.ofNat 40 (m.fld 40 5) }

theorem Dev.tunePreset_eq {s : Dev} {m : Mbx} {p : Plan} {ve : VatEntry} (mb : Nat) (h : s.tuneVat m = .inr (.inl (p, ve))) :
    s.tunePreset mb m = (s.presetBad m ve).elim ((s.take mb).shadow (presetAsked mb m ve)) fun l => s.refuse mb 0x0C05 l := by
  unfold Dev.tunePreset
  rw [Dev.tuneOp_go mb _ h]
  unfold Dev.presetBad
  dsimp only
  generalize (tuneLoops m).find? _ = x
  cases x <;> rfl

theorem Dev.tuneReseed_go {s : Dev} {m : Mbx} {p : Plan} {ve : VatEntry} (mb : Nat) (h : s.tuneVat m = .inr (.inl (p, ve))) :
    s.tuneReseed mb m = (s.take mb).shadow { kind := .reseed, mb := mb, vat := ve.vat, loops := tuneLoops m } := by
  unfold Dev.tuneReseed
  rw [Dev.tuneOp_go mb _ h]

theorem Dev.shadow_frame (s : Dev) (t : Tune) : Dev.Frame [] [.le] s (s.shadow t) := (Dev.Frame.refl _ _ s).le _

/-- A request that waits in the tuning shadow. -/
theorem tuneWaiting (s : State) (mb : BitVec 3) (w : Tune) :
    let t : State := { s with dev := (s.fresh.dev.take mb.toNat).shadow w }
    UnderWay s t mb ∧ t.dev.le = { s.dev.le with tune := s.dev.le.tune ++ [w] } ∧ Writes s.dev [.le, .mbx] s t := by
  have hf : Dev.Frame [] [.le, .mbx] s.fresh.dev ((s.fresh.dev.take mb.toNat).shadow w) :=
    ((Dev.Frame.refl _ _ _).take _).then (Dev.shadow_frame _ w)
  exact ⟨.of_take s mb rfl, rfl, .of (fun off => hf.within off List.not_mem_nil) hf.keeps⟩

/-- What loop.read answers of the vat's loops, as of the last frame close. -/
def Dev.readOut (s : Dev) (m : Mbx) : List Byte :=
  ((List.range (m.fld 4 2)).map (fun q => m.fld 2 2 + q)).flatMap
    (fun l => descBytes (s.le.closedDescs.get (loopKey (m.fld 0 1) l)) ++ stateBytes (s.le.closed.get (loopKey (m.fld 0 1) l)))

/-- The clear that loop.read asks for beside its answer. -/
def readClear (m : Mbx) : Tune :=
  { kind := .clear, mb := 8, vat := m.fld 0 1, loops := (List.range (m.fld 4 2)).map (fun q => m.fld 2 2 + q) }

theorem Dev.loopRead_go {s : Dev} {m : Mbx} (mb : Nat) (hbad : readBad m = none) (hplan : s.on F.GL_STAT_PLAN = true)
    (hvat : s.planVats.contains (m.fld 0 1) = true) :
    s.loopRead mb m = (Dev.when (m.fld 1 1 == 1) (·.shadow (readClear m)) s).ok mb (toLe 8 s.le.closedN ++ s.readOut m) := by
  unfold Dev.loopRead
  rw [hbad]
  dsimp only
  rw [if_neg (by rw [hplan]; exact Bool.false_ne_true), if_neg (by rw [hvat]; exact Bool.false_ne_true)]
  have hle : (Dev.when (m.fld 1 1 == 1) (·.shadow (readClear m)) s).le.closedN = s.le.closedN := by
    cases m.fld 1 1 == 1 <;> rfl
  rw [← hle]
  rfl

end Sys2Proof.Machine

namespace Sys2Proof.Proofs
open Sys2Proof.Machine

/-- Settles O43, operation by operation. -/
theorem twinStatus : Obligations.TwinStatus := by
  unfold Obligations.TwinStatus
  intro s mb m hrun a r
  refine ⟨fun hask => ?_, fun hask => ⟨fun h hwhy => ?_, fun w h hwhy => ?_, fun h => ?_⟩, fun hask h => ⟨fun hwhy => ?_, fun w hwhy => ?_⟩,
    fun hask => ⟨fun hwhy => ?_, fun w hwhy => ?_⟩⟩
  · have hexec : exec (.twinStatusRead mb) s = .next { s with dev := s.fresh.dev.twStatus mb.toNat m } := hask.run hrun _
    exact ⟨_, hexec, .of_finish (d := s.fresh.dev) rfl mb _ _ _ _, .of_finish s mb _ _ _ _⟩
  · have hexec : exec (.twinStatusRestore mb) s = .next { s with dev := s.fresh.dev.twStRestore mb.toNat m } := hask.run hrun _
    rw [Dev.twStRestore_go mb.toNat h hwhy] at hexec
    have hf := s.fresh.dev.restoreBegin_frame m.twEng (some mb.toNat)
    have hmbx : (s.fresh.dev.restoreBegin m.twEng (some mb.toNat)).mbx = s.dev.mbx := hf.part .mbx
    exact ⟨_, hexec, .of_take s mb (congrArg (fun x : Tbl Mbx => x.mod mb.toNat (fun m => { m with taken := true })) hmbx), rfl, rfl,
      (hf.mono.take _).only⟩
  · have hexec : exec (.twinStatusRestore mb) s = .next { s with dev := s.fresh.dev.twStRestore mb.toNat m } := hask.run hrun _
    rw [Dev.twStRestore_refused mb.toNat h hwhy] at hexec
    exact ⟨_, hexec, twRefused w⟩
  · have hexec : exec (.twinStatusRestore mb) s = .next { s with dev := s.fresh.dev.twStRestore mb.toNat m } := hask.run hrun _
    rw [Dev.twStRestore_range mb.toNat h] at hexec
    exact ⟨_, hexec, .of_finish (d := s.fresh.dev) rfl mb _ _ _ _, .of_finish s mb _ _ _ _⟩
  · have hexec : exec (.twinStatusRemove mb) s = .next { s with dev := s.fresh.dev.twStRemove mb.toNat m } := hask.run hrun _
    rw [Dev.twStRemove, if_neg (by omega), Dev.twRemove_eq, hwhy] at hexec
    exact ⟨_, hexec, twAccepted _⟩
  · have hexec : exec (.twinStatusRemove mb) s = .next { s with dev := s.fresh.dev.twStRemove mb.toNat m } := hask.run hrun _
    rw [Dev.twStRemove, if_neg (by omega), Dev.twRemove_eq, hwhy] at hexec
    obtain ⟨hans, -, honly⟩ := twRefused (s := s) (mb := mb) w
    exact ⟨_, hexec, hans, honly⟩
  · have hexec : exec (.twinStatusSwap mb) s = .next { s with dev := s.fresh.dev.twStSwap mb.toNat m } := hask.run hrun _
    rw [Dev.twStSwap, Dev.twSwap_eq, hwhy] at hexec
    exact ⟨_, hexec, twAccepted _⟩
  · have hexec : exec (.twinStatusSwap mb) s = .next { s with dev := s.fresh.dev.twStSwap mb.toNat m } := hask.run hrun _
    rw [Dev.twStSwap, Dev.twSwap_eq, hwhy] at hexec
    obtain ⟨hans, -, honly⟩ := twRefused (s := s) (mb := mb) w
    exact ⟨_, hexec, hans, honly⟩

/-- Settles O59, request by request. -/
theorem tuning : Obligations.Tuning := by
  unfold Obligations.Tuning
  intro s mb m hrun
  refine ⟨fun p ve hvat => ⟨?_, fun hask => ?_, fun hask => ?_⟩, fun hask hbad hplan hvat => ?_⟩
  · intro hask w hok
    have hexec : exec (.loopTuneWrite mb) s = .next { s with dev := s.fresh.dev.tuneWrite mb.toNat m } := hask.run hrun _
    rw [Dev.tuneWrite_go (s := s.fresh.dev) mb.toNat hvat hok] at hexec
    exact ⟨_, hexec, tuneWaiting s mb _⟩
  · have hexec : exec (.loopTunePreset mb) s = .next { s with dev := s.fresh.dev.tunePreset mb.toNat m } := hask.run hrun _
    rw [Dev.tunePreset_eq (s := s.fresh.dev) mb.toNat hvat] at hexec
    refine ⟨fun hnone => ?_, fun l hl => ?_⟩
    · rw [show s.fresh.dev.presetBad m ve = none from hnone] at hexec
      exact ⟨_, hexec, tuneWaiting s mb _⟩
    · rw [show s.fresh.dev.presetBad m ve = some l from hl] at hexec
      exact ⟨_, hexec, .of_finish (d := s.fresh.dev) rfl mb _ _ _ _, .of_finish s mb _ _ _ _⟩
  · have hexec : exec (.loopTuneReseed mb) s = .next { s with dev := s.fresh.dev.tuneReseed mb.toNat m } := hask.run hrun _
    rw [Dev.tuneReseed_go (s := s.fresh.dev) mb.toNat hvat] at hexec
    exact ⟨_, hexec, tuneWaiting s mb _⟩
  · have hexec : exec (.loopRead mb) s = .next { s with dev := s.fresh.dev.loopRead mb.toNat m } := hask.run hrun _
    rw [Dev.loopRead_go (s := s.fresh.dev) mb.toNat hbad hplan hvat] at hexec
    have hf : Dev.Frame [] [.le] s.fresh.dev (Dev.when (m.fld 1 1 == 1) (·.shadow (readClear m)) s.fresh.dev) :=
      .when _ _ _ (Dev.shadow_frame _ _)
    have hfin := hf.mono (w' := []) (l' := [.le, .mbx]) |>.ok mb.toNat (toLe 8 s.fresh.dev.le.closedN ++ s.fresh.dev.readOut m)
    refine ⟨_, hexec, .of_finish (hf.part .mbx) mb _ _ _ _, fun h0 => ?_, .of (fun off => hfin.within off List.not_mem_nil) hfin.keeps⟩
    refine (Dev.finish_le _ _ _ _ _ _).trans ?_
    rw [h0]
    rfl

end Sys2Proof.Proofs
end

section
-- One proof after another: in parallel the proofs of this text would not fit the memory that its check allows.
set_option Elab.async false
/-!
PROOFS. Trace records on their rings, their consumer indices and the enabling of a ring (11 R276, R277).
-/
namespace Sys2Proof.Machine

theorem Dev.pcClock_tx (s : Dev) (e n : Nat) (v : Option Nat) : (s.pcClock e n v).tx = s.tx :=
  Dev.each_eq (·.tx) _ _ s fun s j => by
    split <;> rfl

theorem Dev.msix_sends (s : Dev) (v : Nat) : ∃ l, (s.msix v).tx = s.tx ++ l := by
  unfold Dev.msix
  split
  · exact ⟨[], (List.append_nil _).symm⟩
  · exact ⟨_, rfl⟩

theorem blockOf_trc {r k : Nat} (hr : r < 8) (hk : k < 0x40) : blockOf (0x30000 + k + 0x40 * r) = 3 := by
  unfold blockOf
  omega

theorem pcWindow_trc (r : BitVec 3) {k : Nat} (hk : k < 0x40) : pcWindow (0x30000 + k + 0x40 * r.toNat) = false := by
  have := r.isLt
  simp only [pcWindow, Bool.and_eq_false_iff, decide_eq_false_iff_not]
  omega

theorem blockOf_trcPi {r : Nat} (hr : r < 8) : blockOf (R.TRC_PI_LO r) = 3 ∧ blockOf (R.TRC_PI_LO r + 4) = 3 := by
  simp only [blockOf, R.TRC_PI_LO]
  omega

theorem blockOf_trcDrop {r : Nat} (hr : r < 8) : blockOf (F.TRC_DROP r).reg = 3 := blockOf_trc (k := 0x28) hr (by decide)

/-- What changes no register of TRC leaves PI. -/
theorem Dev.Within.trcPi {w : List Nat} {s t : Dev} (h : Dev.Within w s t) {r : Nat} (hr : r < 8) (hw : 3 ∉ w := by decide) :
    t.rd2 (R.TRC_PI_LO r) = s.rd2 (R.TRC_PI_LO r) :=
  h.rd2 _ ((blockOf_trcPi hr).1.symm ▸ hw) ((blockOf_trcPi hr).2.symm ▸ hw)

theorem Dev.modTRing_frame (r : Nat) (f : TRing → TRing) (s : Dev) : Dev.Frame [] [.trc] s (s.modTRing r f) := (Dev.Frame.refl _ _ s).trc _

theorem Dev.modTRing_get (r : Nat) (f : TRing → TRing) (s : Dev) : (s.modTRing r f).trc.rings.get r = f (s.trc.rings.get r) :=
  Tbl.get_mod_self _ _ _

/-- The ring with the loss of one more record, counted before it is reported. -/
def Dev.trLost (r n : Nat) (s : Dev) : Dev :=
  ((s.count (F.TRC_DROP r) n).modTRing r (fun x => { x with lost := x.lost + n, dropNoted := true })).pcClock 0x0302 n

/-- The first loss on a ring is reported. -/
def Dev.trReport (r : Nat) (s : Dev) : Dev :=
  ({ s with evq := { s.evq with inbox := s.evq.inbox ++ [s.ringEv 0 r (s.rd (F.TRC_DROP r))] } }).msix (16 + r)

theorem Dev.trDrops_eq (r n : Nat) (s : Dev) :
    s.trDrops r n = if (s.trc.rings.get r).dropNoted then s.trLost r n else (s.trLost r n).trReport r := by
  unfold Dev.trDrops Dev.trReport Dev.trLost
  cases (s.trc.rings.get r).dropNoted <;> simp

theorem Dev.trReport_frame {r : Nat} (hr : r < 8) (s : Dev) : Dev.Frame [0] [.evq] s (s.trReport r) := by
  have h : Dev.Frame [] [.evq] s { s with evq := { s.evq with inbox := s.evq.inbox ++ [s.ringEv 0 r (s.rd (F.TRC_DROP r))] } } :=
    (Dev.Frame.refl _ _ s).evq _
  exact h.mono.then (Dev.msix_frame _ (by omega))

theorem Dev.trLost_frame {r : Nat} (hr : r < 8) (n : Nat) (s : Dev) : Dev.Frame [3, 21] [.trc] s (s.trLost r n) := by
  have hb : blockOf (F.TRC_DROP r).reg ∈ [3, 21] := by
    rw [blockOf_trcDrop hr]
    decide
  unfold Dev.trLost
  have h := ((Dev.Frame.refl [3, 21] [.trc] s).count (F.TRC_DROP r) n hb).then (Dev.modTRing_frame r (fun x => { x with lost := x.lost + n, dropNoted := true }) _)
  exact h.then (Dev.pcClock_frame _ 0x0302 n none)

theorem Dev.trDrops_frame {r : Nat} (hr : r < 8) (n : Nat) (s : Dev) : Dev.Frame [0, 3, 21] [.trc, .evq] s (s.trDrops r n) := by
  have h : Dev.Frame [0, 3, 21] [.trc, .evq] s (s.trLost r n) := (Dev.trLost_frame hr n s).mono
  rw [Dev.trDrops_eq]
  split
  · exact h
  · exact h.then (Dev.trReport_frame hr (s.trLost r n))

theorem Dev.capDrop_frame (p : Cap → Bool) (s : Dev) : Dev.Frame [15] [.cal, .evq] s (s.capDrop p) := by
  unfold Dev.capDrop
  extract_lets c t
  have ht : Dev.Frame [15] [.cal, .evq] s t := (Dev.Frame.refl _ _ s).cal _
  clear_value t
  exact (ht.count F.CAL_CAP_DROP).event F.CAL_EVT_CAP_DROP

/-- What a loss leaves of its ring. -/
theorem Dev.trDrops_spec {r : Nat} (hr : r < 8) (n : Nat) (s : Dev) :
    (s.trDrops r n).rd (F.TRC_DROP r) = min (s.rd (F.TRC_DROP r) + n) 0xFFFFFFFF ∧
      (s.trDrops r n).trc.inbox = s.trc.inbox ∧ ((s.trDrops r n).trc.rings.get r).lost = (s.trc.rings.get r).lost + n ∧
      (s.trDrops r n).rd2 (R.TRC_PI_LO r) = s.rd2 (R.TRC_PI_LO r) := by
  have hrest : Dev.Frame [0, 21] [.evq] ((s.count (F.TRC_DROP r) n).modTRing r (fun x => { x with lost := x.lost + n, dropNoted := true }))
      (s.trDrops r n) := by
    rw [Dev.trDrops_eq]
    have hclock := Dev.pcClock_frame ((s.count (F.TRC_DROP r) n).modTRing r
      (fun x => { x with lost := x.lost + n, dropNoted := true })) 0x0302 n none
    split
    · exact hclock.mono
    · exact hclock.mono.then (Dev.trReport_frame hr _)
  have hmod : Dev.RegsAs (s.count (F.TRC_DROP r) n) ((s.count (F.TRC_DROP r) n).modTRing r
    (fun x => { x with lost := x.lost + n, dropNoted := true })) := .of_regs rfl
  have htrc : (s.trDrops r n).trc = ((s.count (F.TRC_DROP r) n).modTRing r (fun x => { x with lost := x.lost + n, dropNoted := true })).trc :=
    hrest.part .trc
  refine ⟨?_, by rw [htrc]; rfl, ?_, ?_⟩
  · rw [hrest.rd _ (by rw [blockOf_trcDrop hr]; decide), hmod.rd, Dev.rd_count_self _ _ _ rfl rfl, show (2 ^ 32 - 1 : Nat) = 0xFFFFFFFF from rfl]
  · rw [htrc, Dev.modTRing_get]
    rfl
  · rw [hrest.within.trcPi hr, hmod.rd2]
    show Dev.rd2 (s.wr _ _) _ = _
    unfold Dev.rd2
    rw [Dev.reg_wr_ne, Dev.reg_wr_ne]
    · simp only [F.TRC_DROP, R.TRC_PI_LO]; omega
    · simp only [F.TRC_DROP, R.TRC_PI_LO]; omega

/-! ### A record goes to its ring -/

/-- The block without the oldest trace record. -/
def Dev.withTrcInbox (l : List Trec) (s : Dev) : Dev := { s with trc := { s.trc with inbox := l } }

theorem Dev.traceWrite_one {s : Dev} {a : Trec} {l : List Trec} {r : Nat} (busOk : Bool) (hin : s.trc.inbox = a :: l) (hr : s.trRings a = [r]) :
    s.traceWrite busOk = (s.withTrcInbox l).trPut busOk a r := by
  unfold Dev.traceWrite
  rw [hin]
  dsimp only
  rw [hr]
  rfl

/-- The records of ring r. -/
def Dev.trSize (r : Nat) (s : Dev) : Nat := 2 ^ (s.rd (F.TRC_CFG_SIZE r) - 6)

/-- The record at PI goes out, and PI moves past it. -/
def Dev.trSent (t : Trec) (r : Nat) (s : Dev) : Dev :=
  let pi := s.rd2 (R.TRC_PI_LO r)
  let x := s.trc.rings.get r
  ((s.send (.hostWrite (BitVec.ofNat 64 (s.rd2 (R.TRC_BASE_LO r) + 64 * (pi % s.trSize r)))
    (trBytes t x.seq x.lost (phaseOf pi (s.trSize r))))).wr2 (R.TRC_PI_LO r) (pi + 1)).pcClock 0x0301

/-- The index goes out after the record, and the ring counts it. -/
def Dev.trNoted (r pi : Nat) (late half : Bool) (s : Dev) : Dev :=
  let s := s.send (.hostWrite (BitVec.ofNat 64 (s.rd2 (R.TRC_WB_LO r))) (toLe 8 (pi + 1)))
  let s := s.modTRing r (fun x => { x with seq := x.seq + 1, lost := 0, half := x.half || late })
  Dev.when (late && !half) (·.msix (16 + r)) s

theorem Dev.trPut_room {s : Dev} {r : Nat} (t : Trec) (hen : s.on (F.TRC_CFG_EN r) = true)
    (hroom : s.rd2 (R.TRC_PI_LO r) - (s.trc.rings.get r).ci < s.trSize r) :
    s.trPut true t r = (s.trSent t r).trNoted r (s.rd2 (R.TRC_PI_LO r))
      (decide (s.trSize r < 2 * (s.rd2 (R.TRC_PI_LO r) + 1 - (s.trc.rings.get r).ci))) (s.trc.rings.get r).half := by
  have hfull : ¬ s.trSize r ≤ s.rd2 (R.TRC_PI_LO r) - (s.trc.rings.get r).ci := by omega
  unfold Dev.trPut
  dsimp only
  erw [if_neg (by simp [hen]; exact hroom)]
  rfl

theorem Dev.trPut_lost {s : Dev} {r : Nat} (busOk : Bool) (t : Trec) (h : busOk = false ∨ s.on (F.TRC_CFG_EN r) = false ∨
    s.trSize r ≤ s.rd2 (R.TRC_PI_LO r) - (s.trc.rings.get r).ci) : s.trPut busOk t r = s.trDrop r t := by
  unfold Dev.trPut
  dsimp only
  exact if_pos (by rcases h with h | h | h <;> simp [h]; exact .inr h)

theorem Dev.trNoted_frame {r : Nat} (hr : r < 8) (pi : Nat) (late half : Bool) (s : Dev) :
    Dev.Frame [0] [.trc] s (s.trNoted r pi late half) := by
  unfold Dev.trNoted
  exact (((Dev.Frame.refl _ _ s).send _).then (Dev.modTRing_frame _ _ _)).when' _ ((Dev.msix_frame _ (by omega)).mono)

theorem Dev.trSent_frame {r : Nat} (hr : r < 8) (t : Trec) (s : Dev) : Dev.Frame [3, 21] [] s (s.trSent t r) := by
  have hlo : blockOf (R.TRC_PI_LO r) ∈ [3, 21] := by
    rw [(blockOf_trcPi hr).1]
    decide
  have hhi : blockOf (R.TRC_PI_LO r + 4) ∈ [3, 21] := by
    rw [(blockOf_trcPi hr).2]
    decide
  unfold Dev.trSent
  have h := ((Dev.Frame.refl [3, 21] [] s).send (.hostWrite (BitVec.ofNat 64 (s.rd2 (R.TRC_BASE_LO r) + 64 * (s.rd2 (R.TRC_PI_LO r) % s.trSize r)))
    (trBytes t (s.trc.rings.get r).seq (s.trc.rings.get r).lost (phaseOf (s.rd2 (R.TRC_PI_LO r)) (s.trSize r))))).wr2
      (R.TRC_PI_LO r) (s.rd2 (R.TRC_PI_LO r) + 1) hlo hhi
  exact h.then (Dev.pcClock_frame _ 0x0301 1 none)

/-- What a record sent leaves of its ring, and the first message. -/
theorem Dev.trSent_spec {r : Nat} (hr : r < 8) (t : Trec) {s : Dev} (htx : s.tx = []) :
    (s.trSent t r).tx = [.hostWrite (BitVec.ofNat 64 (s.rd2 (R.TRC_BASE_LO r) + 64 * (s.rd2 (R.TRC_PI_LO r) % s.trSize r)))
        (trBytes t (s.trc.rings.get r).seq (s.trc.rings.get r).lost (phaseOf (s.rd2 (R.TRC_PI_LO r)) (s.trSize r)))] ∧
      (s.trSent t r).rd2 (R.TRC_PI_LO r) = (s.rd2 (R.TRC_PI_LO r) + 1) % 2 ^ 64 := by
  unfold Dev.trSent
  refine ⟨?_, ?_⟩
  · rw [Dev.pcClock_tx, Dev.wr2_tx]
    show s.tx ++ _ = _
    rw [htx]
    rfl
  · rw [(Dev.pcClock_within _ _ _ _).trcPi hr, Dev.rd2_wr2_self]

theorem Dev.trNoted_spec {r : Nat} (hr : r < 8) (pi : Nat) (late half : Bool) (s : Dev) :
    (s.trNoted r pi late half).trc.inbox = s.trc.inbox ∧ ((s.trNoted r pi late half).trc.rings.get r).seq = (s.trc.rings.get r).seq + 1 ∧
      ((s.trNoted r pi late half).trc.rings.get r).lost = 0 ∧
      ∃ l, (s.trNoted r pi late half).tx = s.tx ++ l := by
  unfold Dev.trNoted
  dsimp only
  have hmsix (u : Dev) : Dev.Frame [0] [] u (Dev.when (late && !half) (·.msix (16 + r)) u) := .when _ _ _ (Dev.msix_frame _ (by omega))
  have htrc (u : Dev) : (Dev.when (late && !half) (·.msix (16 + r)) u).trc = u.trc := (hmsix u).part .trc
  refine ⟨by rw [htrc]; rfl, by rw [htrc, Dev.modTRing_get]; rfl, by rw [htrc, Dev.modTRing_get], ?_⟩
  cases late && !half
  · exact ⟨_, rfl⟩
  · obtain ⟨l, hl⟩ := Dev.msix_sends ((s.send (.hostWrite (BitVec.ofNat 64 (s.rd2 (R.TRC_WB_LO r))) (toLe 8 (pi + 1)))).modTRing r
      (fun x => { x with seq := x.seq + 1, lost := 0, half := x.half || late })) (16 + r)
    exact ⟨_, hl.trans (List.append_assoc _ _ _)⟩

/-! ### Consumer indices and the enabling of a ring -/

/-- The consumer index that a write of TRC_CI_HI_r completes. -/
def Dev.trcIndex (r : Nat) (v : Word) (s : Dev) : Nat := s.rd (F.TRC_CI_LO r) + 2 ^ 32 * v.toNat

theorem Dev.trcCi_good {r : Nat} {v : Word} {s : Dev} (h : (s.trc.rings.get r).ci ≤ s.trcIndex r v) (h' : s.trcIndex r v ≤ s.rd2 (R.TRC_PI_LO r)) :
    s.trcCi r v = (s.wr2 (R.TRC_CI_LO r) (s.trcIndex r v)).modTRing r (fun x =>
      { x with ci := s.trcIndex r v, half := x.half && decide (s.trSize r < 2 * (s.rd2 (R.TRC_PI_LO r) - s.trcIndex r v)) }) := by
  unfold Dev.trcCi
  exact if_pos ⟨h, h'⟩

theorem Dev.trcCi_bad {r : Nat} {v : Word} {s : Dev} (h : ¬((s.trc.rings.get r).ci ≤ s.trcIndex r v ∧ s.trcIndex r v ≤ s.rd2 (R.TRC_PI_LO r))) :
    s.trcCi r v = (s.wr2 (R.TRC_CI_LO r) (s.trc.rings.get r).ci).raise 0x0201 0 (srcWord 2) r := by
  unfold Dev.trcCi
  exact if_neg h

/-- TRC_CFG_r in the table of registers. -/
def trcCfgSpec : RegSpec := ⟨"TRC_CFG", 0x30008, 0x40, 8, 0x20, 2, [rf 21 19 .rw, rg 6 1 .rw 16 39, rf 0 0 .rw]⟩

theorem regAt_trcCfg_eq {r : Nat} (h : r < 8) : regAt (R.TRC_CFG r) = some trcCfgSpec := by
  interval_cases r <;> rfl

/-- A field of bit 0 takes what is written of it. -/
theorem rf00_written (v o : Nat) : (rf 0 0 .rw).written v o % 2 = v % 2 := by
  have hself := setField_get_self o 0 1 ((rf 0 0 .rw).take v)
  have htake : (rf 0 0 .rw).take v = v % 2 := by simp [FieldSpec.take, rf]
  have hadm : (rf 0 0 .rw).admits v = true := by
    rw [FieldSpec.admits, htake, Bool.and_eq_true, decide_eq_true_eq, decide_eq_true_eq]
    exact ⟨Nat.zero_le _, le_trans (Nat.mod_lt v Nat.two_pos).le (by decide)⟩
  have hw : (rf 0 0 .rw).written v o = setField o 0 1 ((rf 0 0 .rw).take v) := if_pos hadm
  rw [pow_zero, Nat.div_one, pow_one, htake, Nat.mod_mod] at hself
  rw [hw, htake, hself]

/-- EN is the last field that a write of TRC_CFG stores. -/
theorem trcCfgSpec_en (old v : Nat) : trcCfgSpec.written old v % 2 = v % 2 := rf00_written v _

theorem Dev.reg_reservedNote (c : Bool) (off k : Nat) (s : Dev) : (Dev.when c (Dev.reservedNote off) s).reg k = s.reg k := by
  cases c <;> rfl

/-- The word that a write leaves in its register. -/
theorem Dev.store_reg_self {off : Nat} {r : RegSpec} (h : regAt off = some r) (v : Nat) (s : Dev) :
    (s.store off v).reg off = BitVec.ofNat 32 (r.written (s.reg off).toNat v) := by
  unfold Dev.store
  rw [h]
  dsimp only
  rw [Dev.reg_reservedNote, Dev.reg_setReg, if_pos rfl]

theorem Dev.store_bit0 {off : Nat} {r : RegSpec} (h : regAt off = some r) (hw : ∀ o v, r.written o v % 2 = v % 2) {f : Fld}
    (hf : f = ⟨off, 0, 1⟩) (v : Nat) (s : Dev) : (s.store off v).on f = bit v 0 := by
  subst hf
  have hrd : (s.store off v).rd ⟨off, 0, 1⟩ = v % 2 := by
    rw [Dev.rd, Dev.store_reg_self h]
    show _ / 2 ^ 0 % 2 ^ 1 = _
    have hen := hw (s.reg off).toNat v
    rw [BitVec.toNat_ofNat, pow_zero, Nat.div_one, pow_one]
    omega
  rw [Dev.on, hrd]
  simp [bit]

theorem Dev.store_trcEn {r : Nat} (hr : r < 8) (v : Nat) (s : Dev) : (s.store (R.TRC_CFG r) v).on (F.TRC_CFG_EN r) = bit v 0 :=
  Dev.store_bit0 (regAt_trcCfg_eq hr) trcCfgSpec_en rfl v s

/-- A ring that becomes enabled starts over. -/
def Dev.trcStart (r : Nat) (s : Dev) : Dev :=
  ((s.wr2 (R.TRC_PI_LO r) 0).wr2 (R.TRC_CI_LO r) 0).modTRing r (fun x => { dropNoted := x.dropNoted })

theorem Dev.trcCfg_enables {r v : Nat} {s : Dev} (hr : r < 8) (hoff : s.on (F.TRC_CFG_EN r) = false) (hv : bit v 0 = true) :
    s.trcCfg r v = (s.store (R.TRC_CFG r) v).trcStart r := by
  unfold Dev.trcCfg
  dsimp only
  exact if_pos (by rw [hoff, Dev.store_trcEn hr, hv]; rfl)

theorem Dev.trcStart_frame {r : Nat} (hr : r < 8) (s : Dev) : Dev.Frame [3] [.trc] s (s.trcStart r) := by
  have hb (k : Nat) (hk : k < 0x40) (o : Nat) (ho : o = 0x30000 + k + 0x40 * r) : blockOf o ∈ [3] := by
    rw [ho, blockOf_trc hr hk]
    decide
  have h := ((Dev.Frame.refl [3] [.trc] s).wr2 (R.TRC_PI_LO r) 0 (hb 0x10 (by decide) _ rfl)
    (hb 0x14 (by decide) _ (by simp only [R.TRC_PI_LO]; omega))).wr2 (R.TRC_CI_LO r) 0 (hb 0x18 (by decide) _ rfl)
    (hb 0x1c (by decide) _ (by simp only [R.TRC_CI_LO]; omega))
  exact h.then (Dev.modTRing_frame r _ _)

theorem Dev.trcStart_spec (r : Nat) (s : Dev) : (s.trcStart r).on (F.TRC_CFG_EN r) = s.on (F.TRC_CFG_EN r) ∧
    (s.trcStart r).rd2 (R.TRC_PI_LO r) = 0 ∧ (s.trcStart r).rd2 (R.TRC_CI_LO r) = 0 ∧ ((s.trcStart r).trc.rings.get r).ci = 0 ∧
    ((s.trcStart r).trc.rings.get r).seq = 0 := by
  have hregs : Dev.RegsAs ((s.wr2 (R.TRC_PI_LO r) 0).wr2 (R.TRC_CI_LO r) 0) (s.trcStart r) := .of_regs rfl
  have hring : (s.trcStart r).trc.rings.get r = { dropNoted := (s.trc.rings.get r).dropNoted } := Dev.modTRing_get _ _ _
  refine ⟨?_, ?_, ?_, by rw [hring], by rw [hring]⟩
  · rw [hregs.on, Dev.on, Dev.rd, Dev.reg_wr2_ne, Dev.reg_wr2_ne]
    · rfl
    all_goals simp only [R.TRC_PI_LO, R.TRC_CI_LO, F.TRC_CFG_EN]; omega
  · rw [hregs.rd2, Dev.rd2_wr2_ne, Dev.rd2_wr2_self]
    · rfl
    all_goals simp only [R.TRC_PI_LO, R.TRC_CI_LO]; omega
  · rw [hregs.rd2, Dev.rd2_wr2_self]
    rfl

end Sys2Proof.Machine

namespace Sys2Proof.Proofs
open Sys2Proof.Machine

/-- Settles O54: a record sent, a record lost, an index taken or refused, and a ring enabled. -/
theorem traceRings : Obligations.TraceRings := by
  unfold Obligations.TraceRings
  intro s hrun
  refine ⟨fun busOk a l r hin hrings hr => ?_, fun via r v hmay => ?_, fun via r v hmay hoff hbit => ?_⟩
  · intro x n pi
    have hexec : exec (.traceRecordWrite busOk) s = .next { s with dev := s.fresh.dev.traceWrite busOk } := State.onDev_next s _ hrun
    rw [Dev.traceWrite_one (s := s.fresh.dev) busOk hin hrings] at hexec
    have hin0 : Dev.Frame [] [.trc] s.fresh.dev (s.fresh.dev.withTrcInbox l) := (Dev.Frame.refl _ _ _).trc _
    refine ⟨fun hok hen hroom => ?_, fun hlost => ?_⟩
    · subst hok
      rw [Dev.trPut_room (s := s.fresh.dev.withTrcInbox l) a hen hroom] at hexec
      have hsent := Dev.trSent_frame hr a (s.fresh.dev.withTrcInbox l)
      obtain ⟨htx, hpi⟩ := Dev.trSent_spec (s := s.fresh.dev.withTrcInbox l) hr a rfl
      have htrc : ((s.fresh.dev.withTrcInbox l).trSent a r).trc = (s.fresh.dev.withTrcInbox l).trc := hsent.part .trc
      generalize (s.fresh.dev.withTrcInbox l).trSent a r = u at hexec hsent htx hpi htrc
      have hnf := Dev.trNoted_frame hr pi (decide (n < 2 * (pi + 1 - x.ci))) x.half u
      obtain ⟨hinb, hseq, hlost, m, hm⟩ := Dev.trNoted_spec hr pi (decide (n < 2 * (pi + 1 - x.ci))) x.half u
      refine ⟨_, hexec, ?_, ?_, ?_, ?_, hlost, ?_⟩
      · exact hinb.trans (congrArg Trc.inbox htrc)
      · exact (congrArg List.head? (hm.trans (congrArg (· ++ m) htx)))
      · exact (hnf.within.trcPi hr).trans hpi
      · exact hseq.trans (by rw [htrc]; rfl)
      · exact (((hin0.mono (w' := [0, 3, 21]) (l' := [.trc])).then hsent).then hnf).only
    · rw [Dev.trPut_lost (s := s.fresh.dev.withTrcInbox l) busOk a hlost] at hexec
      obtain ⟨hdrop, hinb, hring, hpi⟩ := Dev.trDrops_spec hr 1 (s.fresh.dev.withTrcInbox l)
      have hf := Dev.trDrops_frame hr 1 (s.fresh.dev.withTrcInbox l)
      have hcap : Dev.Frame [15] [.cal, .evq] ((s.fresh.dev.withTrcInbox l).trDrops r 1) ((s.fresh.dev.withTrcInbox l).trDrop r a) :=
        .when _ _ _ (Dev.capDrop_frame _ _)
      generalize (s.fresh.dev.withTrcInbox l).trDrops r 1 = u at hdrop hinb hring hpi hf hcap
      have hsame : ((s.fresh.dev.withTrcInbox l).trDrop r a).trc = u.trc := hcap.part .trc
      refine ⟨_, hexec, (congrArg Trc.inbox hsame).trans hinb, ?_, ?_, ?_, ?_⟩
      · exact (hcap.rd _ (by rw [blockOf_trcDrop hr]; decide)).trans hdrop
      · exact (congrArg (fun y : Trc => (y.rings.get r).lost) hsame).trans hring
      · exact (hcap.within.trcPi hr).trans hpi
      · exact (((hin0.mono (w' := [0, 3, 15, 21]) (l' := [.trc, .evq, .cal])).then hf).then hcap).only
  · intro c x d
    have hne : pcWindow (R.TRC_CI_HI r.toNat) = false := pcWindow_trc r (k := 0x1c) (by decide)
    have hexec : exec (.trcCiHiWrite via r v) s = .next { s with dev := (s.fresh.dev.t6 via (R.TRC_CI_HI r.toNat) true).trcCi r.toNat v } :=
      hmay.onDev hrun hne _
    have ht6 := Dev.t6_frame via (R.TRC_CI_HI r.toNat) true s.fresh.dev
    have hregs : Dev.RegsAs d (s.fresh.dev.t6 via (R.TRC_CI_HI r.toNat) true) := .t6 s _ _ _
    have hkeeps : Dev.Keeps [] d (s.fresh.dev.t6 via (R.TRC_CI_HI r.toNat) true) := Dev.Silent.keeps (.t6 via _ true) [] s
    have htrc : (s.fresh.dev.t6 via (R.TRC_CI_HI r.toNat) true).trc = s.dev.trc := ht6.part .trc
    have hfc := Dev.t6_fc s via (R.TRC_CI_HI r.toNat) true
    have hlat := Dev.t6_latched s via (R.TRC_CI_HI r.toNat) true
    have hc : (s.fresh.dev.t6 via (R.TRC_CI_HI r.toNat) true).trcIndex r.toNat v = c := by
      have h : (s.fresh.dev.t6 via (R.TRC_CI_HI r.toNat) true).rd (F.TRC_CI_LO r.toNat) = s.dev.rd (F.TRC_CI_LO r.toNat) :=
        ht6.rd _ (by rw [show (F.TRC_CI_LO r.toNat).reg = 0x30000 + 0x18 + 0x40 * r.toNat from rfl, blockOf_trc r.isLt (by decide)]; decide)
      exact congrArg (· + 2 ^ 32 * v.toNat) h
    have hpi : (s.fresh.dev.t6 via (R.TRC_CI_HI r.toNat) true).rd2 (R.TRC_PI_LO r.toNat) = s.dev.rd2 (R.TRC_PI_LO r.toNat) :=
      ht6.within.trcPi r.isLt
    generalize s.fresh.dev.t6 via (R.TRC_CI_HI r.toNat) true = u at hexec hregs hkeeps htrc hfc hlat hc hpi
    have hx : u.trc.rings.get r.toNat = x := congrArg (fun y : Trc => y.rings.get r.toNat) htrc
    refine ⟨fun hlo hhi => ?_, fun hbad => ?_⟩
    · rw [Dev.trcCi_good (by rw [hx, hc]; exact hlo) (by rw [hc, hpi]; exact hhi), hc] at hexec
      exact ⟨_, hexec, congrArg TRing.ci (Dev.modTRing_get _ _ _),
        .of ((hregs.wr2 _ _).trans (.of_regs rfl)) (((Dev.Keeps.wr2 d (R.TRC_CI_LO r.toNat) c).symm.all.trans
          (hkeeps.all.trans (Dev.Keeps.wr2 u (R.TRC_CI_LO r.toNat) c).all)).trans (Dev.modTRing_frame _ _ _).keeps)⟩
    · rw [Dev.trcCi_bad (by rw [hx, hc, hpi]; exact hbad), hx] at hexec
      refine ⟨_, hexec, ?_, .of ((hregs.wr2 _ _).raise _ _ _ _ _) ?_⟩
      · rw [← hfc, ← hlat]
        rfl
      · exact ((Dev.Keeps.wr2 d (R.TRC_CI_LO r.toNat) x.ci).symm.all.trans
          (hkeeps.all.trans (Dev.Keeps.wr2 u (R.TRC_CI_LO r.toNat) x.ci).all)).trans ((Dev.Frame.refl [] [.fc] _).raise _ _ _ _ _).keeps
  · have hne : pcWindow (R.TRC_CFG r.toNat) = false := pcWindow_trc r (k := 0x08) (by decide)
    have hexec : exec (.trcRingEnable via r v) s = .next { s with dev := (s.fresh.dev.t6 via (R.TRC_CFG r.toNat) true).trcCfg r.toNat v.toNat } :=
      hmay.onDev hrun hne _
    have ht6 := Dev.t6_frame via (R.TRC_CFG r.toNat) true s.fresh.dev
    have hen : (s.fresh.dev.t6 via (R.TRC_CFG r.toNat) true).on (F.TRC_CFG_EN r.toNat) = false :=
      (ht6.on _ (by rw [show (F.TRC_CFG_EN r.toNat).reg = 0x30000 + 0x08 + 0x40 * r.toNat from rfl, blockOf_trc r.isLt (by decide)]; decide)).trans hoff
    rw [Dev.trcCfg_enables r.isLt hen hbit] at hexec
    have hst := Dev.store_frame (R.TRC_CFG r.toNat) v.toNat (s.fresh.dev.t6 via (R.TRC_CFG r.toNat) true)
    have hon := Dev.store_trcEn r.isLt v.toNat (s.fresh.dev.t6 via (R.TRC_CFG r.toNat) true)
    rw [show blockOf (R.TRC_CFG r.toNat) = 3 from blockOf_trc (k := 0x08) r.isLt (by decide)] at hst
    generalize (s.fresh.dev.t6 via (R.TRC_CFG r.toNat) true).store (R.TRC_CFG r.toNat) v.toNat = u at hexec hst hon
    obtain ⟨hkeep, hpi, hci, hring, hseq⟩ := Dev.trcStart_spec r.toNat u
    exact ⟨_, hexec, hkeep.trans (hon.trans hbit), hpi, hci, hring, hseq,
      (((ht6.mono (w' := [3, 21]) (l' := [.bm, .trc, .fc, .freeCtr])).then hst).then (Dev.trcStart_frame r.isLt u)).only⟩

end Sys2Proof.Proofs
end

section
-- One proof after another: in parallel the proofs of this text would not fit the memory that its check allows.
set_option Elab.async false
/-!
PROOFS. Drive frames between the engines and the lanes (01 R17, 10 R239 to R241, 08 R209): parts handed over, released, withheld, late.
-/
namespace Sys2Proof.Machine

/-! ### Counters of a frame, blocks that wait, and what goes out on the lanes -/

theorem Dev.vat_of_vl {s t : Dev} (h : t.vl = s.vl) (v : Nat) : t.vat v = s.vat v := by rw [Dev.vat, Dev.vat, h]

theorem Dev.modVat_self (v : Nat) (f : Vat → Vat) (s : Dev) : (s.modVat v f).vat v = f (s.vat v) := Tbl.get_mod_self _ _ _

theorem Dev.pcFrame_same {α : Type} (g : Dev → α) (h : ∀ (s : Dev) (x : Pc), g { s with pc := x } = g s) (s : Dev) (e n : Nat) (v : Option Nat) :
    g (s.pcFrame e n v) = g s :=
  Dev.each_eq g _ _ s fun s j => by
    split
    · exact h s _
    · rfl

theorem Dev.pcFrame_regs (s : Dev) (e n : Nat) (v : Option Nat) : (s.pcFrame e n v).regs = s.regs := Dev.pcFrame_same (·.regs) (fun _ _ => rfl) s e n v

theorem Dev.pcFrame_tx (s : Dev) (e n : Nat) (v : Option Nat) : (s.pcFrame e n v).tx = s.tx := Dev.pcFrame_same (·.tx) (fun _ _ => rfl) s e n v

theorem Dev.pcFrame_frame (s : Dev) (e n : Nat) (v : Option Nat) : Dev.Frame [] [.pc] s (s.pcFrame e n v) :=
  ⟨.of_regs (s.pcFrame_regs e n v), .pcFrame s e n v⟩

theorem Dev.blkFlush_frame (s : Dev) (v : Nat) : Dev.Frame [] [.vl] s (s.blkFlush v) := ⟨.of_regs (s.blkFlush_regs v), .blkFlush s v⟩

theorem Dev.blkFlush_nil {s : Dev} {v : Nat} (h : (s.vat v).blks = []) : s.blkFlush v = s := by
  unfold Dev.blkFlush
  rw [h]

theorem Dev.fourCopies_each (v : Nat) (l : List LinkBlk) (s : Dev) :
    (Dev.each l (Dev.fourCopies v) s).vl = s.vl ∧ ∃ m, (Dev.each l (Dev.fourCopies v) s).tx = s.tx ++ m := by
  induction l generalizing s with
  | nil => exact ⟨rfl, [], (List.append_nil _).symm⟩
  | cons b l ih =>
    obtain ⟨hvl, m, hm⟩ := ih (s.fourCopies v b)
    exact ⟨hvl, _, hm.trans (List.append_assoc _ _ _)⟩

/-- Blocks that wait go out behind what has gone, and the rest of the vat stays. -/
theorem Dev.blkFlush_spec (s : Dev) (v : Nat) : ((s.blkFlush v).vat v).lostFrame = (s.vat v).lostFrame ∧ ∃ m, (s.blkFlush v).tx = s.tx ++ m := by
  unfold Dev.blkFlush
  split
  · exact ⟨rfl, [], (List.append_nil _).symm⟩
  · obtain ⟨hvl, m, hm⟩ := Dev.fourCopies_each v (s.vat v).blks s
    refine ⟨?_, m, hm⟩
    rw [Dev.modVat_self, Dev.vat_of_vl hvl]
  · split
    · exact ⟨rfl, [], (List.append_nil _).symm⟩
    · refine ⟨?_, _, rfl⟩
      rw [Dev.modVat_self]
      rfl

theorem Dev.onLanes_frame (s : Dev) (v : Nat) (f : Bool → Tx) : Dev.Frame [] [] s (s.onLanes v f) := by
  unfold Dev.onLanes
  dsimp only
  split <;> split
  · exact ((Dev.Frame.refl _ _ s).send _).send _
  · exact (Dev.Frame.refl _ _ s).send _
  · exact (Dev.Frame.refl _ _ s).send _
  · exact .refl _ _ s

theorem Dev.onLanes_tx (s : Dev) (v : Nat) (f : Bool → Tx) : (s.onLanes v f).tx =
    s.tx ++ ((if s.laneActive (2 * v) then [f false] else []) ++ (if s.laneActive (2 * v + 1) then [f true] else [])) := by
  unfold Dev.onLanes
  cases h : s.laneActive (2 * v) with
  | true =>
    have h1 : (s.send (f false)).laneActive (2 * v + 1) = s.laneActive (2 * v + 1) := rfl
    simp only [if_true, h1]
    cases s.laneActive (2 * v + 1) <;> simp [Dev.send]
  | false =>
    simp only [Bool.false_eq_true, if_false, List.nil_append]
    cases s.laneActive (2 * v + 1) <;> simp [Dev.send]

/-- What goes out on the lanes hangs on the registers and on what has gone. -/
theorem Dev.onLanes_congr {s t : Dev} (hregs : Dev.RegsAs s t) (htx : t.tx = s.tx) (v : Nat) {f g : Bool → Tx} (hf : ∀ b, f b = g b) :
    (t.onLanes v f).tx = (s.onLanes v g).tx := by
  have hl (l : Nat) : t.laneActive l = s.laneActive l := by rw [Dev.laneActive, Dev.laneActive, hregs.rd]
  rw [Dev.onLanes_tx, Dev.onLanes_tx, htx, hl, hl, hf, hf]

theorem Dev.modRel_frame (v : Nat) (f : Rel → Rel) (s : Dev) : Dev.Frame [] [.tw] s (s.modRel v f) := (Dev.Frame.refl _ _ s).tw _

theorem Dev.modRel_rel (v : Nat) (f : Rel → Rel) (s : Dev) : (s.modRel v f).rel v = f (s.rel v) := Tbl.get_mod_self _ _ _

theorem Dev.rel_of_tw {s t : Dev} (h : t.tw = s.tw) (v : Nat) : t.rel v = s.rel v := by rw [Dev.rel, Dev.rel, h]

/-! ### Release -/

/-- The frame is open on the wire, and closed after its TERM. -/
def Dev.relOpened (v k : Nat) (s : Dev) : Dev := s.modRel v (fun r => { r with opened := true, closed := k == 31 })

/-- What each lane carries of a part. -/
def partTx (v k : Nat) (a b : List Byte) (lb : Bool) : Tx := if k = 31 then .term v lb else .drive v lb k (if lb then b else a)

theorem Dev.releasePart_eq (s : Dev) (v k : Nat) (a b : List Byte) : s.releasePart v k a b =
    if k = 31 then (((s.onLanes v (partTx v k a b)).relOpened v k).pcFrame 0x0605 1 (some v)).blkFlush v
    else (s.onLanes v (partTx v k a b)).relOpened v k := rfl

/-- A part is released: the frame on the wire, the messages, and what stays. -/
structure Released (v k : Nat) (tx : List Tx) (d t : Dev) : Prop where
  opened : (t.rel v).opened = true
  closed : (t.rel v).closed = (k == 31)
  sends : t.tx.take tx.length = tx
  plain : k ≠ 31 ∨ (d.vat v).blks = [] → t.tx = tx ∧ t.vl = d.vl
  frame : Dev.Frame [] [.tw, .pc, .vl] d t
  resyncs : t.tw.vres = d.tw.vres ∧ t.tw.wres = d.tw.wres

theorem Dev.releasePart_spec (s : Dev) (v k : Nat) (a b : List Byte) :
    Released v k (s.onLanes v (partTx v k a b)).tx s (s.releasePart v k a b) := by
  rw [Dev.releasePart_eq]
  have hout := s.onLanes_frame v (partTx v k a b)
  have hrel : ((s.onLanes v (partTx v k a b)).relOpened v k).rel v =
    { ((s.onLanes v (partTx v k a b)).rel v) with opened := true, closed := k == 31 } := Dev.modRel_rel _ _ _
  have hopen : Dev.Frame [] [.tw] s ((s.onLanes v (partTx v k a b)).relOpened v k) := hout.mono.then (Dev.modRel_frame _ _ _)
  have htx : ((s.onLanes v (partTx v k a b)).relOpened v k).tx = (s.onLanes v (partTx v k a b)).tx := rfl
  have hres : ((s.onLanes v (partTx v k a b)).relOpened v k).tw.vres = s.tw.vres ∧
      ((s.onLanes v (partTx v k a b)).relOpened v k).tw.wres = s.tw.wres := by
    have htw : (s.onLanes v (partTx v k a b)).tw = s.tw := hout.part .tw
    rw [← htw]
    exact ⟨rfl, rfl⟩
  generalize (s.onLanes v (partTx v k a b)).tx = tx at htx ⊢
  generalize (s.onLanes v (partTx v k a b)).relOpened v k = u at hrel hopen htx hres ⊢
  have hvl : u.vl = s.vl := hopen.part .vl
  split
  · have hc := u.pcFrame_frame 0x0605 1 (some v)
    have hctx := u.pcFrame_tx 0x0605 1 (some v)
    generalize u.pcFrame 0x0605 1 (some v) = w at hc hctx ⊢
    have hf := w.blkFlush_frame v
    have hwtw : w.tw = u.tw := hc.part .tw
    have hwvl : w.vl = u.vl := hc.part .vl
    have hftw : (w.blkFlush v).tw = w.tw := hf.part .tw
    have hr : (w.blkFlush v).rel v = u.rel v := Dev.rel_of_tw (hftw.trans hwtw) v
    obtain ⟨-, m, hm⟩ := w.blkFlush_spec v
    refine ⟨by rw [hr, hrel], by rw [hr, hrel], ?_, fun hblks => ?_, ((hopen.mono).then hc).then hf, ?_⟩
    · rw [hm, hctx, htx, List.take_left]
    · have hnil : (w.vat v).blks = [] := by
        rw [Dev.vat_of_vl (hwvl.trans hvl)]
        exact hblks.resolve_left (by omega)
      rw [Dev.blkFlush_nil hnil]
      exact ⟨hctx.trans htx, hwvl.trans hvl⟩
    · rw [hftw, hwtw]
      exact hres
  · refine ⟨by rw [hrel], by rw [hrel], by rw [htx, List.take_length], fun _ => ⟨htx, hvl⟩, hopen.mono, hres⟩

/-! ### An open frame ends, and a part is withheld -/

/-- The frame of vat v is withheld from here on. -/
def Dev.relAborted (v : Nat) (s : Dev) : Dev :=
  (s.modRel v (fun r => { r with aborted := true, wait := [] })).modVat v (fun x => { x with lostFrame := some s.le.frame })

theorem Dev.relAborted_spec (v : Nat) (s : Dev) : Dev.Frame [] [.tw, .vl] s (s.relAborted v) ∧ ((s.relAborted v).rel v).aborted = true ∧
    ((s.relAborted v).vat v).lostFrame = some s.le.frame := by
  refine ⟨((Dev.modRel_frame _ _ s).mono).modVat _ _, ?_, ?_⟩
  · have h : (s.relAborted v).rel v = (s.modRel v (fun r => { r with aborted := true, wait := [] })).rel v := rfl
    rw [h, Dev.modRel_rel]
  · rw [Dev.relAborted, Dev.modVat_self]

/-- An open frame ends with ABORT: its rest is withheld, and the frame is lost. -/
structure Aborted (v : Nat) (s t : Dev) : Prop where
  frame : Dev.Frame [] [.tw, .vl, .pc] s t
  aborted : (t.rel v).aborted = true
  lost : (t.vat v).lostFrame = some s.le.frame

theorem Dev.abortFrame_spec (s : Dev) (v : Nat) : Aborted v s (s.abortFrame v) := by
  unfold Dev.abortFrame
  extract_lets r u
  have hu : Dev.Frame [] [.pc] s u := by
    show Dev.Frame [] [.pc] s (if _ then _ else _)
    split
    · exact (s.onLanes_frame v _).mono.then (Dev.pcFrame_frame _ _ _ _)
    · exact .refl _ _ s
  have hle : u.le = s.le := hu.part .le
  clear_value u
  obtain ⟨hf, hrel, hlost⟩ := u.relAborted_spec v
  show Aborted v s ((u.relAborted v).blkFlush v)
  generalize u.relAborted v = w at hf hrel hlost
  have hb := w.blkFlush_frame v
  have htw : (w.blkFlush v).tw = w.tw := hb.part .tw
  exact ⟨((hu.mono (w' := []) (l' := [.tw, .vl, .pc])).then hf).then hb, by rw [Dev.rel_of_tw htw, hrel],
    ((w.blkFlush_spec v).1.trans hlost).trans (by rw [hle])⟩

theorem Dev.noteDiff_frame (s : Dev) (v w : Nat) : Dev.Frame [] [.tw] s (s.noteDiff v w) := by
  unfold Dev.noteDiff
  split
  · exact .refl _ _ s
  · exact (Dev.Frame.refl _ _ s).tw _

theorem Dev.noteDiff_rel (s : Dev) (v w u : Nat) : (s.noteDiff v w).rel u = s.rel u := by
  unfold Dev.noteDiff
  split <;> rfl

/-- The record of a mismatch. -/
def misRecord (v n i w : Nat) (a b : List Byte) : Trec :=
  { ty := 5, blk := 9, vat := v, payload := toLe 8 n ++ toLe 4 w ++ zeros 4 ++ fit 16 (a.drop i) ++ fit 16 (b.drop i) }

/-- The record of a mismatch goes out before the frame ends. -/
def Dev.misTraced (v k i w : Nat) (a b : List Byte) (s : Dev) : Dev :=
  (if k = 31 then s.useFree else s).trace (misRecord v (if k = 31 then s.useFree else s).le.frame i w a b)

theorem Dev.misTraced_frame (v k i w : Nat) (a b : List Byte) (s : Dev) : Dev.Frame [] [.trc, .freeCtr] s (s.misTraced v k i w a b) := by
  unfold Dev.misTraced
  split
  · exact ((Dev.Frame.refl _ _ s).useFree).trace _
  · exact (Dev.Frame.refl _ _ s).trace _

theorem Dev.withhold_eq (s : Dev) (v k i : Nat) (a b : List Byte) : s.withhold v k i a b =
    (((((s.misTraced v k i (misWord v k i s.free.toNat) a b).abortFrame v).count F.TW_MISMATCH).event F.TW_EVT_MISMATCH).noteDiff v
      (misWord v k i s.free.toNat)) := rfl

/-- A mismatch: the frame is withheld, counted and reported. -/
structure Withheld (v : Nat) (s t : Dev) : Prop where
  frame : Dev.Frame [9] [.tw, .pc, .vl, .evq, .trc, .freeCtr] s t
  aborted : (t.rel v).aborted = true
  lost : (t.vat v).lostFrame = some s.le.frame
  counts : t.rd F.TW_MISMATCH = min (s.rd F.TW_MISMATCH + 1) 0xFFFFFFFF
  event : t.on F.TW_EVT_MISMATCH = true
  others : ∀ off, off ≠ F.TW_MISMATCH.reg → off ≠ F.TW_EVT_MISMATCH.reg → t.reg off = s.reg off

theorem Dev.withhold_spec (s : Dev) (v k i : Nat) (a b : List Byte) : Withheld v s (s.withhold v k i a b) := by
  rw [Dev.withhold_eq]
  generalize misWord v k i s.free.toNat = w
  have ht := s.misTraced_frame v k i w a b
  generalize s.misTraced v k i w a b = x at ht ⊢
  have hle : x.le = s.le := ht.part .le
  obtain ⟨hf, habort, hlost⟩ := x.abortFrame_spec v
  generalize x.abortFrame v = y at hf habort hlost ⊢
  have hn := ((y.count F.TW_MISMATCH).event F.TW_EVT_MISMATCH).noteDiff_frame v w
  have hev : Dev.Frame [9] [.evq] y ((y.count F.TW_MISMATCH).event F.TW_EVT_MISMATCH) := ((Dev.Frame.refl _ _ y).count _).event _
  have hxy : Dev.Frame [] [.tw, .pc, .vl, .trc, .freeCtr] s y := (ht.mono).then hf
  have hrel : ((((y.count F.TW_MISMATCH).event F.TW_EVT_MISMATCH).noteDiff v w).rel v) = y.rel v :=
    (Dev.noteDiff_rel _ _ _ _).trans (Dev.rel_of_tw (hev.part .tw) v)
  have hvat : ((((y.count F.TW_MISMATCH).event F.TW_EVT_MISMATCH).noteDiff v w).vat v) = y.vat v :=
    (Dev.vat_of_vl (hn.part .vl) v).trans (Dev.vat_of_vl (hev.part .vl) v)
  refine ⟨((hxy.mono).then hev).then hn, by rw [hrel, habort], by rw [hvat, hlost, hle], ?_, ?_, fun off h1 h2 => ?_⟩
  · rw [hn.rd _ List.not_mem_nil, Dev.rd_event_apart _ _ _ (by decide) (by decide), Dev.rd_count_self _ _ _ (by decide) rfl,
      hxy.rd _ List.not_mem_nil]
    rfl
  · rw [hn.on _ List.not_mem_nil]
    exact Dev.on_event_self _ _ (by decide) rfl
  · rw [hn.within off List.not_mem_nil, Dev.reg_event_ne _ (Ne.symm h2)]
    exact (Dev.reg_wr_ne y (Ne.symm h1) _).trans (hxy.within off List.not_mem_nil)

/-! ### A part is handed over -/

/-- The operations that an engine has issued change no register, and leave the frame open. -/
structure Issued (s t : Dev) : Prop where
  regs : t.regs = s.regs
  isOpen : t.le.isOpen = s.le.isOpen

theorem Issued.refl (s : Dev) : Issued s s := ⟨rfl, rfl⟩

theorem Issued.trans {s t u : Dev} (h : Issued s t) (k : Issued t u) : Issued s u := ⟨k.regs.trans h.regs, k.isOpen.trans h.isOpen⟩

theorem Issued.each {α : Type} (l : List α) (f : Dev → α → Dev) (s : Dev) (hf : ∀ s a, Issued s (f s a)) : Issued s (Dev.each l f s) :=
  ⟨Dev.each_eq (·.regs) _ _ s fun s a => (hf s a).regs, Dev.each_eq (·.le.isOpen) _ _ s fun s a => (hf s a).isOpen⟩

theorem Issued.modEng (s : Dev) (e : Eng) (f : EngSt → EngSt) : Issued s (s.modEng e f) := by
  cases e
  · exact ⟨rfl, rfl⟩
  · exact ⟨rfl, rfl⟩

theorem Issued.pcFrame (s : Dev) (e n : Nat) (v : Option Nat) : Issued s (s.pcFrame e n v) :=
  ⟨s.pcFrame_regs e n v, congrArg Le.isOpen ((s.pcFrame_frame e n v).part .le)⟩

theorem Issued.satCount (s : Dev) (e : Eng) (v k : Nat) : Issued s (s.satCount e v k) := by
  unfold Dev.satCount
  split
  · exact .refl s
  · exact .pcFrame s _ _ _

theorem Issued.front1 (e : Eng) (n v : Nat) (s : Dev) (ld : Nat × Desc) : Issued s (s.front1 e n v ld) := by
  unfold Dev.front1
  extract_lets
  split
  · exact .refl s
  · exact .modEng s _ _

theorem Issued.upd1 (e : Eng) (n v : Nat) (s : Dev) (ld : Nat × Desc) : Issued s (s.upd1 e n v ld) := by
  unfold Dev.upd1
  extract_lets k d g st m2 m1 m0 stint inj sweep x f o und y z
  have hy : Issued s y := .modEng s _ _
  have hz : Issued y z := by
    show Issued y (if _ then _ else _)
    split
    · exact .refl y
    · split
      · exact .pcFrame y _ _ _
      · split
        · exact .refl y
        · exact .pcFrame y _ _ _
  exact (hy.trans hz).trans (.satCount z _ _ _)

theorem Issued.phead (e : Eng) (n v : Nat) (s : Dev) : Issued s (s.phead e n v) := by
  unfold Dev.phead
  extract_lets
  split
  · exact .refl s
  · exact .modEng s _ _

theorem Issued.pseg (e : Eng) (n v q : Nat) (s : Dev) : Issued s (s.pseg e n v q) := by
  unfold Dev.pseg
  extract_lets
  split
  · exact .refl s
  · exact .modEng s _ _

theorem Issued.dseg (e : Eng) (n v q m : Nat) (s : Dev) : Issued s (s.dseg e n v q m) := by
  unfold Dev.dseg
  extract_lets w ws stale j u
  have hu : Issued s u := .modEng s _ _
  split
  · exact hu
  · exact hu.trans (.modEng u _ _)

theorem Issued.captures (e : Eng) (n v : Nat) (s : Dev) : Issued s (s.captures e n v) :=
  (⟨rfl, rfl⟩ : Issued s { s with cal := { s.cal with caps := (s.cal.caps.map (s.capture1 e n v)).map (·.1) } }).trans
    (.each _ _ _ fun _ _ => ⟨rfl, rfl⟩)

theorem Issued.sweep1 (e : Eng) (n v : Nat) (s : Dev) (t : Stint) : Issued s (s.sweep1 e n v t) := by
  unfold Dev.sweep1
  extract_lets
  split
  · exact .refl s
  · split
    · exact ⟨rfl, rfl⟩
    · exact ⟨rfl, rfl⟩

theorem Issued.pressCheck (e : Eng) (n v : Nat) (s : Dev) : Issued s (s.pressCheck e n v) := by
  unfold Dev.pressCheck
  extract_lets
  split
  · exact .refl s
  · exact ⟨rfl, rfl⟩

theorem Issued.vclose (e : Eng) (n v : Nat) (s : Dev) : Issued s (s.vclose e n v) := by
  unfold Dev.vclose
  split
  · exact ((Issued.captures e n v s).trans (.each _ _ _ fun u t => .sweep1 e n v u t)).trans (.pressCheck e n v _)
  · exact .refl s

theorem Issued.issue (e : Eng) (n : Nat) (ve : VatEntry) (s : Dev) (i : PInst) : Issued s (s.issue e n ve i) := by
  unfold Dev.issue
  dsimp only
  split
  · exact .each _ _ _ fun u ld => .front1 e n ve.vat u ld
  · exact .each _ _ _ fun u ld => .front1 e n ve.vat u ld
  · exact .each _ _ _ fun u ld => .upd1 e n ve.vat u ld
  · exact .phead e n ve.vat s
  · exact .pseg e n ve.vat _ s
  · exact .dseg e n ve.vat _ _ s
  · exact .vclose e n ve.vat s
  · exact .refl s

theorem Issued.issueTo (k : Nat) (ve : VatEntry) (s : Dev) (e : Eng) : Issued s (Dev.issueTo k ve s e) := by
  unfold Dev.issueTo
  split
  · exact .refl s
  · exact (Issued.each _ _ _ fun u i => .issue e _ ve u i).trans (.modEng _ e _)

theorem Issued.issueFor (ve : VatEntry) (k : Nat) (s : Dev) : Issued s (s.issueFor ve k) := by
  unfold Dev.issueFor
  split
  · exact .refl s
  · exact .each _ _ _ fun u e => .issueTo _ ve u e

/-- An engine's part has come: what the arbiter does with its bytes l. -/
def Dev.partCame (e : Eng) (v k : Nat) (l : List Byte) (d : Dev) : Dev :=
  let s := d.modRel v (·.took e k)
  let s := if d.crossFed v && e == s.active then s.releasePart v k l l else s
  if d.crossFed v && !s.runs s.partner v then s
  else
    match (d.rel v).wait.find? (fun w => w.1 == other e && w.2.1 == k) with
    | some w =>
      let s := s.modRel v (fun r => { r with wait := r.wait.filter (fun x => x.2.1 != k) })
      if e = .lea then s.comparePart v k (d.crossFed v) l w.2.2 else s.comparePart v k (d.crossFed v) w.2.2 l
    | none => s.modRel v (fun r => { r with wait := r.wait ++ [(e, k, l)] })

/-- A hand-over that is due: nothing of the arbiter is against it. -/
structure Due (e : Eng) (v k : Nat) (ve : VatEntry) (d : Dev) : Prop where
  runs : d.unitRuns e v = true
  going : (d.rel v).aborted = false
  rest : (d.rel v).whole e = false
  bytes : d.part e d.le.frame ve k ≠ []
  next : k = nextPart (d.bodies ve) ((d.rel v).handed e)

theorem Dev.handover_go {s : Dev} {e : Eng} {v : Nat} {g : Seg} (flips : List Flip) {ve : VatEntry}
    (hve : ((s.framePlan.map (·.vats)).getD []).find? (·.vat == v) = some ve) (hopen : s.le.isOpen = true)
    (harb : s.on F.TW_STAT_ARB_FLT = false) (hdue : Due e v (segNo g) ve (s.issueFor ve (segNo g))) :
    s.handover e v g flips = (s.issueFor ve (segNo g)).partCame e v (segNo g)
      (flipBytes flips ((s.issueFor ve (segNo g)).part e (s.issueFor ve (segNo g)).le.frame ve (segNo g))) := by
  obtain ⟨hregs, hiss⟩ := Issued.issueFor ve (segNo g) s
  obtain ⟨hruns, hgoing, hrest, hbytes, hnext⟩ := hdue
  have harb' : (s.issueFor ve (segNo g)).on F.TW_STAT_ARB_FLT = false := ((Dev.RegsAs.of_regs hregs).on _).trans harb
  unfold Dev.handover
  rw [hve]
  dsimp only
  rw [if_pos hopen]
  generalize s.issueFor ve (segNo g) = d at *
  rw [if_neg]
  · rfl
  · have hne : (d.part e d.le.frame ve (segNo g)).isEmpty = false := by rwa [List.isEmpty_eq_false_iff]
    simp only [hiss.trans hopen, hruns, harb', hgoing, hrest, hne, ← hnext, bne_self_eq_false, Bool.not_true, Bool.or_self, Bool.false_eq_true,
      not_false_eq_true]

theorem Dev.partCame_alone {e : Eng} {v k : Nat} (l : List Byte) {d : Dev} (hxf : d.crossFed v = false)
    (hw : (d.rel v).wait.find? (fun w => w.1 == other e && w.2.1 == k) = none) :
    d.partCame e v k l = (d.modRel v (·.took e k)).modRel v (fun r => { r with wait := r.wait ++ [(e, k, l)] }) := by
  unfold Dev.partCame
  rw [hw]
  simp [hxf]

theorem Dev.role_congr {s t : Dev} (h : Dev.RegsAs s t) (e : Eng) : t.role e = s.role e := by rw [Dev.role, Dev.role, h.rd, h.rd]

theorem Dev.active_congr {s t : Dev} (h : Dev.RegsAs s t) : t.active = s.active := by rw [Dev.active, Dev.active, Dev.role_congr h]

theorem Dev.partner_congr {s t : Dev} (h : Dev.RegsAs s t) : t.partner = s.partner := by rw [Dev.partner, Dev.partner, Dev.active_congr h]

theorem Dev.runs_congr {s t : Dev} (h : Dev.RegsAs s t) (hv : t.tw.vres = s.tw.vres) (hw : t.tw.wres = s.tw.wres) (e : Eng) (v : Nat) :
    t.runs e v = s.runs e v := by
  unfold Dev.runs
  rw [Dev.role_congr h, hv, hw]

/-- The frame with one more part of an engine, its other copy no longer waiting. -/
def Dev.relPaired (e : Eng) (v k : Nat) (d : Dev) : Dev :=
  (d.modRel v (·.took e k)).modRel v (fun r => { r with wait := r.wait.filter (fun x => x.2.1 != k) })

theorem Dev.partCame_paired {e : Eng} {v k : Nat} (l : List Byte) {d : Dev} {w : Eng × Nat × List Byte} (hxf : d.crossFed v = false)
    (hw : (d.rel v).wait.find? (fun w => w.1 == other e && w.2.1 == k) = some w) :
    d.partCame e v k l = (d.relPaired e v k).comparePart v k false (if e = .lea then l else w.2.2) (if e = .lea then w.2.2 else l) := by
  unfold Dev.partCame Dev.relPaired
  rw [hw]
  cases e <;> simp [hxf]

theorem Dev.partCame_crossFed {e : Eng} {v k : Nat} (l : List Byte) {d : Dev} (hxf : d.crossFed v = true) (he : e = d.active)
    (hruns : d.runs d.partner v = false) : d.partCame e v k l = (d.modRel v (·.took e k)).releasePart v k l l := by
  have hspec := (d.modRel v (·.took e k)).releasePart_spec v k l l
  have hact : e == (d.modRel v (·.took e k)).active := beq_iff_eq.mpr he
  unfold Dev.partCame
  dsimp only
  rw [hxf, hact]
  simp only [Bool.and_self, if_true, Bool.true_and]
  have hregs : Dev.RegsAs (d.modRel v (·.took e k)) ((d.modRel v (·.took e k)).releasePart v k l l) :=
    fun off => hspec.frame.within off List.not_mem_nil
  have hpartner : ((d.modRel v (·.took e k)).releasePart v k l l).partner = d.partner := Dev.partner_congr hregs
  rw [if_pos]
  rw [hpartner, Dev.runs_congr hregs hspec.resyncs.1 hspec.resyncs.2]
  exact (congrArg (fun b => !b) hruns)

theorem Dev.comparePart_equal {v k : Nat} {a b : List Byte} (h : firstDiff (maskSof k a) (maskSof k b) 0 = none) (s : Dev) :
    s.comparePart v k false a b = (s.pcFrame 0x0901 1 (some v)).releasePart v k a b := by
  unfold Dev.comparePart
  rw [h]
  rfl

theorem Dev.comparePart_differ {v k i : Nat} {a b : List Byte} (h : firstDiff (maskSof k a) (maskSof k b) 0 = some i) (s : Dev) :
    s.comparePart v k false a b = (s.pcFrame 0x0901 1 (some v)).withhold v k i a b := by
  unfold Dev.comparePart
  rw [h]
  rfl

end Sys2Proof.Machine

namespace Sys2Proof.Proofs
open Sys2Proof.Machine

/-- Settles O34: a copy that waits, two that agree, two that differ, and a cross-fed vat. -/
theorem handover : Obligations.Handover := by
  unfold Obligations.Handover
  intro s e v g flips ve hrun hve hopen harb k d r l hruns hgoing hrest hbytes hnext
  have hexec : exec (.segmentHandover e v g flips) s = .next { s with dev := s.fresh.dev.handover e v.toNat g flips } := State.onDev_next s _ hrun
  rw [Dev.handover_go (s := s.fresh.dev) flips hve hopen harb ⟨hruns, hgoing, hrest, hbytes, hnext⟩] at hexec
  change exec _ s = .next { s with dev := d.partCame e v.toNat k l } at hexec
  clear_value d
  have hmem (u : Dev) : KeepsMem s { s with dev := u } := ⟨fun _ => rfl, rfl⟩
  refine ⟨fun hxf => ⟨fun hw => ?_, fun w hw => ?_⟩, fun hxf he hpart => ?_⟩
  · rw [Dev.partCame_alone l hxf hw] at hexec
    refine ⟨_, hexec, ?_, rfl, .of_regs rfl, (((Dev.modRel_frame v.toNat (·.took e k) d)).then (Dev.modRel_frame _ _ _)).keeps, hmem _⟩
    rw [Dev.modRel_rel, Dev.modRel_rel]
    cases e <;> rfl
  · intro a b
    rw [Dev.partCame_paired l hxf hw] at hexec
    have hpair : Dev.Frame [] [.tw] d (d.relPaired e v.toNat k) := (Dev.modRel_frame _ _ _).then (Dev.modRel_frame _ _ _)
    have hc := (d.relPaired e v.toNat k).pcFrame_frame 0x0901 1 (some v.toNat)
    have hf : Dev.Frame [] [.tw, .pc] d ((d.relPaired e v.toNat k).pcFrame 0x0901 1 (some v.toNat)) := hpair.mono.then hc
    have htx : ((d.relPaired e v.toNat k).pcFrame 0x0901 1 (some v.toNat)).tx = d.tx := Dev.pcFrame_tx _ _ _ _
    refine ⟨fun hsame => ?_, fun i hdiff => ?_⟩
    · rw [Dev.comparePart_equal (by exact hsame)] at hexec
      generalize (d.relPaired e v.toNat k).pcFrame 0x0901 1 (some v.toNat) = u at hexec hf htx
      have hregs : Dev.RegsAs d u := fun off => hf.within off List.not_mem_nil
      have hrel := u.releasePart_spec v.toNat k a b
      have hsent : (u.onLanes v.toNat (partTx v.toNat k a b)).tx = (d.onLanes v.toNat (partTx v.toNat k a b)).tx :=
        Dev.onLanes_congr hregs htx v.toNat fun _ => rfl
      have hall := (hf.mono (w' := []) (l' := [.tw, .pc, .vl])).then hrel.frame
      have hvl : u.vl = d.vl := hf.part .vl
      refine ⟨_, hexec, hrel.opened, hrel.closed, ⟨?_, fun h => ?_⟩, fun off => hall.within off List.not_mem_nil, hall.keeps, hmem _⟩
      · exact hsent ▸ hrel.sends
      · obtain ⟨hplain, hsamevl⟩ := hrel.plain (h.imp_right fun h => by rwa [Dev.vat_of_vl hvl])
        exact ⟨hplain.trans hsent, hsamevl.trans hvl⟩
    · rw [Dev.comparePart_differ (by exact hdiff)] at hexec
      generalize (d.relPaired e v.toNat k).pcFrame 0x0901 1 (some v.toNat) = u at hexec hf htx
      have hwith := u.withhold_spec v.toNat k i a b
      have hall := (hf.mono (w' := [9]) (l' := [.tw, .pc, .vl, .evq, .trc, .freeCtr])).then hwith.frame
      have hle : u.le = d.le := hf.part .le
      refine ⟨_, hexec, hwith.aborted, hwith.counts.trans ?_, hwith.event, hwith.lost.trans ?_, hall.within, hall.keeps, hmem _⟩
      · rw [hf.rd _ List.not_mem_nil]
      · rw [hle]
  · rw [Dev.partCame_crossFed l hxf he hpart] at hexec
    have hf := Dev.modRel_frame v.toNat (·.took e k) d
    have htx : (d.modRel v.toNat (·.took e k)).tx = d.tx := rfl
    generalize d.modRel v.toNat (·.took e k) = u at hexec hf htx
    have hregs : Dev.RegsAs d u := fun off => hf.within off List.not_mem_nil
    have hrel := u.releasePart_spec v.toNat k l l
    have hsent : (u.onLanes v.toNat (partTx v.toNat k l l)).tx =
        (d.onLanes v.toNat (fun lb => if k = 31 then .term v.toNat lb else .drive v.toNat lb k l)).tx :=
      Dev.onLanes_congr hregs htx v.toNat fun b => by simp [partTx]
    have hall := (hf.mono (w' := []) (l' := [.tw, .pc, .vl])).then hrel.frame
    have hvl : u.vl = d.vl := hf.part .vl
    refine ⟨_, hexec, hrel.closed, ⟨?_, fun h => ?_⟩, fun off => hall.within off List.not_mem_nil, hall.keeps, hmem _⟩
    · exact hsent ▸ hrel.sends
    · obtain ⟨hplain, hsamevl⟩ := hrel.plain (h.imp_right fun h => by rwa [Dev.vat_of_vl hvl])
      exact ⟨hplain.trans hsent, hsamevl.trans hvl⟩

end Sys2Proof.Proofs
end

section
-- One proof after another: in parallel the proofs of this text would not fit the memory that its check allows.
set_option Elab.async false
/-!
PROOFS. Copies that are late and frames that miss their deadline (10 R240, R241, 08 R209): what goes to the engines' health words.
-/
namespace Sys2Proof.Machine

/-! ### A check that fails -/

theorem healthFld_fits (e : Eng) {f : Fld} (h : f.fits = true) : (healthFld e f).fits = true := by
  cases e
  · exact h
  · exact h

theorem healthFld_apart (e : Eng) {f g : Fld} (h : (decide (f.lo + f.w ≤ g.lo) || decide (g.lo + g.w ≤ f.lo)) = true) :
    (healthFld e f).apart (healthFld e g) = true := by
  cases e <;> simp only [healthFld, Fld.apart, Bool.or_assoc, h, Bool.or_true, reduceCtorEq, if_true, if_false]

/-- The fault of an engine as its first failed check leaves it. -/
def Dev.faultAt (e : Eng) (v : Nat) (s : Dev) : Dev :=
  if s.faulty e then s else (s.wr (healthFld e F.TW_HEALTH_A_FVAT) v).wrB (healthFld e F.TW_HEALTH_A_FAULT) true

theorem Dev.faultAt_faulty (e : Eng) (v : Nat) (s : Dev) : (s.faultAt e v).faulty e = true := by
  unfold Dev.faultAt
  split
  · assumption
  · exact Dev.on_wrB_self _ _ true (healthFld_fits e (by decide)) (by cases e <;> rfl)

theorem Dev.flag_eq (e : Eng) (b v : Nat) (s : Dev) : s.flag e b v =
    (s.faultAt e v).wr (healthFld e F.TW_HEALTH_A_CHECKS) (setBit ((s.faultAt e v).rd (healthFld e F.TW_HEALTH_A_CHECKS)) b) := rfl

/-- A failed check: fault and bit stand in the engine's word, and nothing else changes. -/
structure Flagged (e : Eng) (b : Nat) (s t : Dev) : Prop where
  frame : Dev.Frame [9] [] s t
  faulty : t.faulty e = true
  check : bit (t.rd (healthFld e F.TW_HEALTH_A_CHECKS)) b = true
  others : ∀ off, off ≠ R.TW_HEALTH_A → off ≠ R.TW_HEALTH_B → t.reg off = s.reg off

theorem healthFld_reg (e : Eng) (f : Fld) (hf : f.reg = R.TW_HEALTH_A) {off : Nat} (ha : off ≠ R.TW_HEALTH_A) (hb : off ≠ R.TW_HEALTH_B) :
    (healthFld e f).reg ≠ off := by
  cases e
  · exact fun h => ha (h.symm.trans hf)
  · refine fun h => hb (h.symm.trans ?_)
    show f.reg + _ = _
    rw [hf]
    rfl

theorem Dev.flag_spec (e : Eng) {b : Nat} (hb : b < 7) (v : Nat) (s : Dev) : Flagged e b s (s.flag e b v) := by
  rw [Dev.flag_eq]
  have hfault := s.faultAt_faulty e v
  have hf : Dev.Frame [9] [] s (s.faultAt e v) := by
    unfold Dev.faultAt
    split
    · exact .refl _ _ s
    · exact ((Dev.Frame.refl [9] [] s).wr _ v (blockOf_healthFld e (by decide) (by decide))).wrB _ true (blockOf_healthFld e (by decide) (by decide))
  have hothers (off : Nat) (h1 : off ≠ R.TW_HEALTH_A) (h2 : off ≠ R.TW_HEALTH_B) : (s.faultAt e v).reg off = s.reg off := by
    unfold Dev.faultAt
    split
    · rfl
    · rw [Dev.reg_wrB_ne _ (healthFld_reg e _ rfl h1 h2), Dev.reg_wr_ne _ (healthFld_reg e _ rfl h1 h2)]
  generalize s.faultAt e v = u at *
  refine ⟨hf.wr _ _ (blockOf_healthFld e (by decide) (by decide)), ?_, ?_, fun off h1 h2 => ?_⟩
  · rw [Dev.faulty, Dev.on_wr_apart _ _ _ _ (healthFld_fits e (by decide)) (healthFld_apart e (by decide))]
    exact hfault
  · rw [Dev.rd_wr_self _ _ _ (healthFld_fits e (by decide)), show (healthFld e F.TW_HEALTH_A_CHECKS).w = 7 by cases e <;> rfl,
      bit_eq_testBit, Nat.testBit_mod_two_pow, ← bit_eq_testBit, bit_setBit_self]
    simp [hb]
  · rw [Dev.reg_wr_ne _ (healthFld_reg e _ rfl h1 h2), hothers off h1 h2]

/-- What leaves an engine's word leaves what stands in it. -/
theorem Dev.faulty_of_reg {e : Eng} {s t : Dev} (h : ∀ off, off = R.TW_HEALTH_A ∨ off = R.TW_HEALTH_B → t.reg off = s.reg off) (f : Fld)
    (hf : f.reg = R.TW_HEALTH_A) : t.rd (healthFld e f) = s.rd (healthFld e f) := by
  have hreg : (healthFld e f).reg = R.TW_HEALTH_A ∨ (healthFld e f).reg = R.TW_HEALTH_B := by
    cases e
    · exact .inl hf
    · right
      show f.reg + _ = _
      rw [hf]
      rfl
  simp only [Dev.rd, h _ hreg]

/-! ### A copy that is late -/

theorem Dev.noseg_go {s : Dev} {late : Eng} {v : Nat} {g : Seg} {w : Eng × Nat × List Byte}
    (hw : (s.rel v).wait.find? (fun w => w.1 == other late && w.2.1 == segNo g) = some w) (hgoing : (s.rel v).aborted = false)
    (hopen : s.le.isOpen = true) (hruns : s.runs late v = true) (hxf : (s.flag late 5 v).crossFed v = false) :
    s.noseg late v g = ((s.flag late 5 v).modRel v (fun r => { r with wait := r.wait.filter (fun x => x.2.1 != segNo g) })).withhold v (segNo g) 0
      (if late = .lea then [] else w.2.2) (if late = .lea then w.2.2 else []) := by
  have hcross : ((s.flag late 5 v).modRel v (fun r => { r with wait := r.wait.filter (fun x => x.2.1 != segNo g) })).crossFed v = false := hxf
  unfold Dev.noseg
  dsimp only
  rw [hw]
  simp only [hgoing, hopen, hruns, Bool.not_true, Bool.or_self, Bool.false_eq_true, if_false, hcross]
  split <;> rfl

/-! ### A frame's deadline -/

/-- The frame that closed last is judged. -/
def Dev.lastOff (v : Nat) (s : Dev) : Dev := { s with tw := { s.tw with lastRel := s.tw.lastRel.filter (·.1 != v) } }

theorem Tbl.look_filter_ne {α : Type} (t : Tbl α) (v : Nat) : Tbl.look (List.filter (fun kv => kv.1 != v) t) v = none := by
  induction t with
  | nil => rfl
  | cons kv t ih =>
    by_cases h : kv.1 = v
    · rw [List.filter_cons_of_neg (by simpa using h)]
      exact ih
    · rw [List.filter_cons_of_pos (by simpa using h)]
      obtain ⟨k, x⟩ := kv
      rw [Tbl.look, if_neg h]
      exact ih

/-- The frame of the vat that closed last ends with ABORT where it was open, and counts. -/
def Dev.lastAbort (v : Nat) (r : Rel) (bad : List Eng) (s : Dev) : Dev :=
  let s := if r.opened then (s.onLanes v (fun lb => .abort v lb)).pcFrame 0x0606 1 (some v) else s
  let s := if bad.isEmpty then s else s.pcFrame 0x0902 1 (some v)
  s.modVat v (fun x => { x with lostFrame := some s.le.closedN })

theorem Dev.deadline_closed {s : Dev} {v : Nat} {r : Rel} (hlook : s.tw.lastRel.look v = some r) (hclosed : r.closed = true) :
    s.deadline v = s.lastOff v := by
  unfold Dev.deadline
  rw [hlook]
  dsimp only
  rw [hclosed]
  rfl

theorem Dev.deadline_late {s : Dev} {v : Nat} {r : Rel} (hlook : s.tw.lastRel.look v = some r) (hclosed : r.closed = false) (hgoing : r.aborted = false)
    (harb : s.on F.TW_STAT_ARB_FLT = false) : s.deadline v = (((s.lastOff v).lastAbort v r
      ((s.inServiceOf v).filter (fun e => !r.whole e))).blkFlush v).overrun v 2 ((s.inServiceOf v).filter (fun e => !r.whole e)) := by
  unfold Dev.deadline
  rw [hlook]
  dsimp only
  have harb' : (s.lastOff v).on F.TW_STAT_ARB_FLT = false := harb
  have hc : ¬(r.closed || r.aborted || (s.lastOff v).on F.TW_STAT_ARB_FLT) = true := by
    rw [hclosed, hgoing, harb']
    exact Bool.false_ne_true
  have hsvc : (s.lastOff v).inServiceOf v = s.inServiceOf v := rfl
  rw [← hsvc]
  exact if_neg hc

/-- What the end of a frame that missed its deadline leaves: the loss, and ABORT on the lanes where it was open. -/
structure LastLost (v : Nat) (r : Rel) (s t : Dev) : Prop where
  frame : Dev.Frame [] [.vl, .pc] s t
  lost : (t.vat v).lostFrame = some s.le.closedN
  blks : (t.vat v).blks = (s.vat v).blks
  sends : r.opened = true → t.tx = (s.onLanes v (fun lb => .abort v lb)).tx

theorem Dev.lastAbort_spec (v : Nat) (r : Rel) (bad : List Eng) (s : Dev) : LastLost v r s (s.lastAbort v r bad) := by
  unfold Dev.lastAbort
  extract_lets x y
  have hx : Dev.Frame [] [.pc] s x ∧ (r.opened = true → x.tx = (s.onLanes v (fun lb => .abort v lb)).tx) := by
    show Dev.Frame [] [.pc] s (if _ then _ else _) ∧ _
    split
    · exact ⟨(s.onLanes_frame v _).mono.then (Dev.pcFrame_frame _ _ _ _), fun _ => (congrArg Dev.tx (if_pos ‹_›)).trans (Dev.pcFrame_tx _ _ _ _)⟩
    · exact ⟨.refl _ _ s, fun h => absurd h ‹_›⟩
  have hy : Dev.Frame [] [.pc] x y ∧ y.tx = x.tx := by
    show Dev.Frame [] [.pc] x (if _ then _ else _) ∧ Dev.tx (if _ then _ else _) = _
    split
    · exact ⟨.refl _ _ x, rfl⟩
    · exact ⟨Dev.pcFrame_frame _ _ _ _, Dev.pcFrame_tx _ _ _ _⟩
  obtain ⟨hxf, hxtx⟩ := hx
  obtain ⟨hyf, hytx⟩ := hy
  clear_value x y
  have hxy := hxf.trans hyf
  have hle : y.le = s.le := hxy.part .le
  have hvl : y.vl = s.vl := hxy.part .vl
  refine ⟨(hxy.mono).modVat _ _, ?_, ?_, fun h => hytx.trans (hxtx h)⟩
  · rw [Dev.modVat_self, hle]
  · rw [Dev.modVat_self, ← Dev.vat_of_vl hvl v]

theorem Dev.overrun_frame (s : Dev) (v info : Nat) (es : List Eng) : Dev.Frame [9] [.fc] s (s.overrun v info es) := by
  unfold Dev.overrun
  split
  · exact .refl _ _ s
  · exact (s.flag_spec _ (by decide) v).frame.mono
  · exact (Dev.Frame.refl _ _ s).raise _ _ _ _ _

theorem Dev.overrun_tx (s : Dev) (v info : Nat) (es : List Eng) : (s.overrun v info es).tx = s.tx := by
  unfold Dev.overrun
  split
  · rfl
  · rw [Dev.flag_eq]
    show (s.faultAt _ v).tx = _
    unfold Dev.faultAt
    split <;> rfl
  · rfl

/-- Only the power manager's part and the time base say with what sample index a line is latched. -/
theorem Dev.latched_congr {s t : Dev} (hpm : t.pm = s.pm) (htb : t.tb = s.tb) (x : Line) : t.latched x = s.latched x := by
  unfold Dev.latched Dev.unclocked Dev.carried
  rw [hpm, htb]

end Sys2Proof.Machine

namespace Sys2Proof.Proofs
open Sys2Proof.Machine

/-- Settles O35: a late copy, and the deadline of a frame that is complete or is not. -/
theorem lateCopies : Obligations.LateCopies := by
  unfold Obligations.LateCopies
  intro s v hrun
  refine ⟨fun late g w hw hgoing hopen hruns hxf => ?_, fun r hlook hclosed => ?_, fun r hlook hclosed hgoing harb => ?_⟩
  · have hexec : exec (.noseg late v g) s = .next { s with dev := s.fresh.dev.noseg late v.toNat g } := State.onDev_next s _ hrun
    have hflag := s.fresh.dev.flag_spec late (b := 5) (by decide) v.toNat
    have hxf' : (s.fresh.dev.flag late 5 v.toNat).crossFed v.toNat = false := by
      rw [Dev.crossFed, Dev.rd2, hflag.others _ (by decide) (by decide), hflag.others _ (by decide) (by decide)]
      exact hxf
    rw [Dev.noseg_go (s := s.fresh.dev) hw hgoing hopen hruns hxf'] at hexec
    have hmod := Dev.modRel_frame v.toNat (fun r => { r with wait := r.wait.filter (fun x => x.2.1 != segNo g) }) (s.fresh.dev.flag late 5 v.toNat)
    generalize (s.fresh.dev.flag late 5 v.toNat) = u at hexec hflag hmod
    generalize u.modRel v.toNat (fun r => { r with wait := r.wait.filter (fun x => x.2.1 != segNo g) }) = x at hexec hmod
    have hwith := x.withhold_spec v.toNat (segNo g) 0 (if late = .lea then [] else w.2.2) (if late = .lea then w.2.2 else [])
    have hword (f : Fld) (hf : f.reg = R.TW_HEALTH_A) : Dev.rd _ (healthFld late f) = u.rd (healthFld late f) :=
      Dev.faulty_of_reg (e := late) (s := u) (fun off h => (hwith.others off (by rcases h with rfl | rfl <;> decide)
        (by rcases h with rfl | rfl <;> decide)).trans (hmod.within off List.not_mem_nil)) f hf
    refine ⟨_, hexec, ?_, ?_, hwith.aborted, hwith.counts.trans ?_,
      (((hflag.frame.mono (w' := [9]) (l' := [.tw, .pc, .vl, .evq, .trc, .freeCtr])).then hmod).then hwith.frame).only⟩
    · rw [Dev.faulty, Dev.on, hword _ rfl]
      exact hflag.faulty
    · rw [hword _ rfl]
      exact hflag.check
    · rw [hmod.rd _ List.not_mem_nil, Dev.rd, hflag.others _ (by decide) (by decide)]
      rfl
  · have hexec : exec (.driveFrameDeadline v) s = .next { s with dev := s.fresh.dev.deadline v.toNat } := State.onDev_next s _ hrun
    rw [Dev.deadline_closed (s := s.fresh.dev) hlook hclosed] at hexec
    have hf : Dev.Frame [] [.tw] s.fresh.dev (s.fresh.dev.lastOff v.toNat) := (Dev.Frame.refl _ _ _).tw _
    exact ⟨_, hexec, Tbl.look_filter_ne _ _, rfl, .of (fun off => hf.within off List.not_mem_nil) hf.keeps⟩
  · have hexec : exec (.driveFrameDeadline v) s = .next { s with dev := s.fresh.dev.deadline v.toNat } := State.onDev_next s _ hrun
    rw [Dev.deadline_late (s := s.fresh.dev) hlook hclosed hgoing harb] at hexec
    have hlast : Dev.Frame [] [.tw] s.fresh.dev (s.fresh.dev.lastOff v.toNat) := (Dev.Frame.refl _ _ _).tw _
    have hbad : s.fresh.dev.inServiceOf v.toNat = s.dev.inServiceOf v.toNat := rfl
    rw [hbad] at hexec
    generalize (s.dev.inServiceOf v.toNat).filter (fun e => !r.whole e) = bad at *
    have hlost := (s.fresh.dev.lastOff v.toNat).lastAbort_spec v.toNat r bad
    have htx : ((s.fresh.dev.lastOff v.toNat).onLanes v.toNat (fun lb => .abort v.toNat lb)).tx =
        (s.fresh.dev.onLanes v.toNat (fun lb => .abort v.toNat lb)).tx := Dev.onLanes_congr (s := s.fresh.dev) (t := s.fresh.dev.lastOff v.toNat)
      (fun off => hlast.within off List.not_mem_nil) rfl v.toNat fun _ => rfl
    have hblks0 : ((s.fresh.dev.lastOff v.toNat).vat v.toNat).blks = (s.dev.vat v.toNat).blks := rfl
    have hn : (s.fresh.dev.lastOff v.toNat).le.closedN = s.dev.le.closedN := rfl
    generalize (s.fresh.dev.lastOff v.toNat) = x at hexec hlost hlast htx hblks0 hn
    generalize x.lastAbort v.toNat r bad = y at hexec hlost
    have hflush := y.blkFlush_frame v.toNat
    obtain ⟨hkeep, m, hm⟩ := y.blkFlush_spec v.toNat
    have hnil : (s.dev.vat v.toNat).blks = [] → y.blkFlush v.toNat = y := fun h => Dev.blkFlush_nil (hlost.blks.trans (hblks0.trans h))
    have hlast0 : Dev.Frame [] [.tw, .vl, .pc] s.fresh.dev x := hlast.mono
    have hbefore : Dev.Frame [] [.tw, .vl, .pc] s.fresh.dev (y.blkFlush v.toNat) := (hlast0.then hlost.frame).then hflush
    generalize y.blkFlush v.toNat = z at hexec hkeep hm hflush hnil hbefore
    have hover := z.overrun_frame v.toNat 2 bad
    have hotx := z.overrun_tx v.toNat 2 bad
    have hfc : z.fc = s.dev.fc := hbefore.part .fc
    have hvl : (z.overrun v.toNat 2 bad).vl = z.vl := hover.part .vl
    refine ⟨_, hexec, ?_, fun hop => ⟨?_, fun h => ?_⟩, fun e he => ?_, fun hboth => ?_, ((hbefore.mono).then hover).only⟩
    · exact (congrArg Vat.lostFrame (Dev.vat_of_vl hvl v.toNat)).trans ((hkeep.trans hlost.lost).trans (congrArg some hn))
    · rw [← htx, ← hlost.sends hop, hotx, hm, List.take_left]
    · rw [← htx, ← hlost.sends hop, hotx, hnil h]
    · subst he
      have hflag := z.flag_spec e (b := 4) (by decide) v.toNat
      have hsame : (z.flag e 4 v.toNat).fc = z.fc := hflag.frame.part .fc
      exact ⟨hflag.faulty, hflag.check, hsame.trans hfc⟩
    · subst hboth
      have hlat := Dev.latched_congr (s := s.dev) (t := z) (hbefore.part .pm) (hbefore.part .tb) ⟨0x0704, 3, srcWord 7 v.toNat, 2, true⟩
      rw [← hlat, ← hfc]
      rfl

end Sys2Proof.Proofs
end

section
-- One proof after another: in parallel the proofs of this text would not fit the memory that its check allows.
set_option Elab.async false
/-!
PROOFS. Requests of TW_CTL (10 R253, R254), judged on the roles as the requests before them will leave them.
-/
namespace Sys2Proof.Machine

/-- A granted write of a register outside the MSI-X table, the PC window and the snapshot of time. -/
theorem MayWrite.writes {s : State} {via : Via} {off : Nat} (h : MayWrite s via off) (hr : Running s) (v : Nat)
    (hm : ¬(0x1000 ≤ off ∧ off < 0x1808) := by decide) (hs : off ≠ R.TB_SNAP_CTL := by decide) (hpc : pcWindow off = false := by decide) :
    s.writes via off v = .next { s with dev := Dev.regPut off v 0 0 (s.fresh.dev.t6 via off true) } := by
  have hw : Dev.regWrite via off v = Dev.writeReg via off (Dev.regPut off v 0 0) := by
    funext d
    rw [Dev.regWrite, if_neg hs, Dev.regWriteAt, if_neg hm]
  rw [State.writes, hw, h.onDev hr hpc]

/-! ### What judges a request -/

/-- The two blocks have the same TW: its registers and its part. -/
structure TwSame (s t : Dev) : Prop where
  reg : ∀ off, blockOf off = 9 → t.reg off = s.reg off
  tw : t.tw = s.tw

section
variable {s t : Dev} (h : TwSame s t)
include h

theorem TwSame.rd (f : Fld) (hf : blockOf f.reg = 9 := by decide) : t.rd f = s.rd f := by rw [Dev.rd, Dev.rd, h.reg _ hf]

theorem TwSame.on (f : Fld) (hf : blockOf f.reg = 9 := by decide) : t.on f = s.on f := by rw [Dev.on, Dev.on, h.rd f hf]

theorem TwSame.role (e : Eng) : t.role e = s.role e := by
  rw [Dev.role, Dev.role, h.rd F.TW_STAT_ROLE_A, h.rd F.TW_STAT_ROLE_B]

theorem TwSame.active : t.active = s.active := by rw [Dev.active, Dev.active, h.role]

theorem TwSame.partner : t.partner = s.partner := by rw [Dev.partner, Dev.partner, h.active]

theorem TwSame.faulty (e : Eng) : t.faulty e = s.faulty e :=
  h.on _ (List.mem_singleton.mp (blockOf_healthFld e (by decide) (by decide)))

theorem TwSame.swapWhy : t.swapWhy = s.swapWhy := by
  unfold Dev.swapWhy Dev.vatResync
  rw [h.partner, h.role, h.tw, h.on F.TW_STAT_SUSPECT, h.faulty, h.faulty]

theorem TwSame.removeWhy (e : Eng) : t.removeWhy e = s.removeWhy e := by
  unfold Dev.removeWhy Dev.serves
  simp only [h.role, h.active, h.swapWhy]

theorem TwSame.restoreWhy (e : Eng) : t.restoreWhy e = s.restoreWhy e := by
  unfold Dev.restoreWhy
  rw [h.role, h.tw]

theorem TwSame.setReg (k : Nat) (v : Word) : TwSame (s.setReg k v) (t.setReg k v) :=
  ⟨fun off ho => by rw [Dev.reg_setReg, Dev.reg_setReg, h.reg off ho], h.tw⟩

theorem TwSame.wr (f : Fld) (v : Nat) (hf : blockOf f.reg = 9 := by decide) : TwSame (s.wr f v) (t.wr f v) :=
  ⟨fun off ho => by rw [Dev.reg_wr, Dev.reg_wr, h.reg off ho, h.reg _ hf], h.tw⟩

theorem TwSame.wrB (f : Fld) (b : Bool) (hf : blockOf f.reg = 9 := by decide) : TwSame (s.wrB f b) (t.wrB f b) := h.wr f _ hf

theorem TwSame.wr2 (k v : Nat) : TwSame (s.wr2 k v) (t.wr2 k v) := (h.setReg _ _).setReg _ _

theorem TwSame.count (f : Fld) (hf : blockOf f.reg = 9 := by decide) : TwSame (s.count f) (t.count f) := by
  have hw := h.wr f (satAdd 32 (s.rd f) 1) hf
  exact ⟨fun off ho => (congrArg (fun n => (t.wr f (satAdd 32 n 1)).reg off) (h.rd f hf)).trans (hw.reg off ho), hw.tw⟩

theorem TwSame.event (f : Fld) (hf : blockOf f.reg = 9 := by decide) : TwSame (s.event f) (t.event f) :=
  ⟨fun off ho => by rw [Dev.reg_event, Dev.reg_event, (h.wr f 1 hf).reg off ho], by rw [Dev.event_tw, Dev.event_tw, h.tw]⟩

theorem TwSame.withTw (f : Tw → Tw) : TwSame { s with tw := f s.tw } { t with tw := f t.tw } := ⟨h.reg, congrArg f h.tw⟩

/-- An operation on each block that changes neither its registers in TW nor that part. -/
theorem TwSame.apart {s' t' : Dev} (hs : Dev.Within [] s s') (hs' : s'.tw = s.tw) (ht : Dev.Within [] t t') (ht' : t'.tw = t.tw) :
    TwSame s' t' :=
  ⟨fun off ho => ((ht off List.not_mem_nil).trans (h.reg off ho)).trans (hs off List.not_mem_nil).symm, (ht'.trans h.tw).trans hs'.symm⟩

theorem TwSame.raise (c v : Nat) (r : BitVec 28) (i : Nat) : TwSame (s.raise c v r i) (t.raise c v r i) :=
  h.apart (.of_regs (Dev.raise_regs _ _ _ _ _ _)) rfl (.of_regs (Dev.raise_regs _ _ _ _ _ _)) rfl

theorem TwSame.misClear : TwSame s.misClear t.misClear := by
  have h1 := (h.withTw fun x => { x with mis := [] }).wr F.TW_MISWIN 0
  exact h1.wr F.TW_STAT_SUSPECT 0

theorem TwSame.resyncEnd : TwSame s.resyncEnd t.resyncEnd :=
  ((h.withTw fun x => { x with vres := [], wres := none }).wr2 R.TW_VRESYNC_LO 0).wr F.TW_STAT_TRY 0

end

theorem Dev.restoreEnd_tw (s : Dev) (e : Eng) (n : Nat) : (s.restoreEnd e n).regs = s.regs ∧ (s.restoreEnd e n).tw = { s.tw with restoreMb := none } := by
  unfold Dev.restoreEnd
  cases s.tw.restoreMb with
  | none => exact ⟨rfl, rfl⟩
  | some mb => exact ⟨Dev.finish_regs _ _ _ _ _ _, Dev.finish_tw _ _ _ _ _ _⟩

theorem TwSame.restoreEnd {s t : Dev} (h : TwSame s t) (e : Eng) (n : Nat) : TwSame (s.restoreEnd e n) (t.restoreEnd e n) := by
  obtain ⟨hsr, hst⟩ := s.restoreEnd_tw e n
  obtain ⟨htr, htt⟩ := t.restoreEnd_tw e n
  refine ⟨fun off ho => ?_, by rw [hst, htt, h.tw]⟩
  simp only [Dev.reg, hsr, htr]
  exact h.reg off ho

theorem TwSame.when {s t : Dev} (h : TwSame s t) (c : Bool) {f g : Dev → Dev} (hf : TwSame (f s) (g t)) : TwSame (Dev.when c f s) (Dev.when c g t) := by
  cases c
  · exact h
  · exact hf

theorem blockOf_roleFld (e : Eng) : blockOf (roleFld e).reg = 9 := by cases e <;> decide

theorem blockOf_causeFld (e : Eng) : blockOf (causeFld e).reg = 9 := by cases e <;> decide

theorem TwSame.removeEng {s t : Dev} (h : TwSame s t) (e : Eng) (c : Nat) : TwSame (s.removeEng e c) (t.removeEng e c) := by
  unfold Dev.removeEng
  dsimp only
  rw [h.role]
  have h1 : TwSame (Dev.when (s.role e != 1) (·.misClear) s) (Dev.when (s.role e != 1) (·.misClear) t) := h.when _ h.misClear
  have h2 := (((((h1.wr _ 0 (blockOf_roleFld e)).wr _ c (blockOf_causeFld e)).resyncEnd).count F.TW_REMOVALS).event F.TW_EVT_REMOVED).raise
    (256 * engBlock e + 5) 1 (engSrc e) c
  exact h2.when _ (h2.restoreEnd e 0)

theorem TwSame.failover {s t : Dev} (h : TwSame s t) (c : Nat) : TwSame (s.failover c) (t.failover c) := by
  unfold Dev.failover
  dsimp only
  rw [h.active]
  exact ((((h.wr _ 1 (blockOf_roleFld _)).count F.TW_FAILOVER).event F.TW_EVT_FAILOVER)).removeEng _ c

theorem TwSame.applyReq {s t : Dev} (h : TwSame s t) (r : TwReq) : TwSame (s.applyReq r) (t.applyReq r) := by
  unfold Dev.applyReq
  cases r with
  | swap =>
    dsimp only
    rw [h.swapWhy, h.active]
    cases s.swapWhy with
    | some w => exact h.event F.TW_EVT_REFUSED
    | none => exact ((h.wr _ 2 (blockOf_roleFld _)).wr _ 1 (blockOf_roleFld _)).event F.TW_EVT_SWAP
  | remove e =>
    dsimp only
    rw [h.removeWhy, h.active]
    cases s.removeWhy e with
    | some w => exact h.event F.TW_EVT_REFUSED
    | none =>
      dsimp only
      split
      · exact h.failover 4
      · exact h.removeEng e 4

theorem TwSame.each {α : Type} (f : Dev → α → Dev) (hf : ∀ s t a, TwSame s t → TwSame (f s a) (f t a)) (l : List α) :
    ∀ {s t : Dev}, TwSame s t → TwSame (Dev.each l f s) (Dev.each l f t) := by
  induction l with
  | nil => exact fun h => h
  | cons a l ih => exact fun h => ih (hf _ _ a h)

theorem TwSame.applyReqs {s t : Dev} (h : TwSame s t) : TwSame s.applyReqs t.applyReqs := by
  unfold Dev.applyReqs
  rw [h.tw]
  exact TwSame.each Dev.applyReq (fun _ _ r h => h.applyReq r) _ ⟨h.reg, rfl⟩

theorem TwSame.t6 (s : State) (via : Via) (off : Nat) (wr : Bool) : TwSame s.fresh.dev (s.fresh.dev.t6 via off wr) :=
  ⟨fun o ho => (Dev.t6_frame via off wr s.fresh.dev).within o (by rw [ho]; decide), (Dev.t6_frame via off wr s.fresh.dev).part .tw⟩

/-! ### One bit of TW_CTL -/

theorem bit_mod (v : Nat) {n b : Nat} (h : b < n) : bit (v % 2 ^ n) b = bit v b := by
  rw [bit_eq_testBit, bit_eq_testBit, Nat.testBit_mod_two_pow]
  simp [h]

/-- A write that has just one of the five bits set. -/
theorem bit_of_one {v b : Nat} (hv : v % 32 = 2 ^ b) (i : Nat) (hi : i < 5) : bit v i = decide (b = i) := by
  rw [← bit_mod v hi, show (2 : Nat) ^ 5 = 32 from rfl, hv, bit_eq_testBit, Nat.testBit_two_pow]

theorem Dev.twCtl_restore {v : Nat} (e : Eng) (hv : v % 32 = 2 ^ (if e = .lea then 0 else 1)) (s : Dev) : s.twCtl v = (s.twRestore e none).1 := by
  have hbit := bit_of_one hv
  unfold Dev.twCtl
  cases e <;> simp [hbit]

theorem Dev.twCtl_remove {v : Nat} (e : Eng) (hv : v % 32 = 2 ^ (if e = .lea then 2 else 3)) (s : Dev) : s.twCtl v = (s.twRemove e).1 := by
  have hbit := bit_of_one hv
  unfold Dev.twCtl
  cases e <;> simp [hbit]

theorem Dev.twCtl_swap {v : Nat} (hv : v % 32 = 2 ^ 4) (s : Dev) : s.twCtl v = s.twSwap.1 := by
  have hbit := bit_of_one hv
  unfold Dev.twCtl
  simp [hbit]

/-! ### The restore begins -/

/-- Fault bits and STARVED of an engine's word are clear. -/
def Dev.healthCleared (e : Eng) (s : Dev) : Dev :=
  ((s.wr (healthFld e F.TW_HEALTH_A_CHECKS) 0).wrB (healthFld e F.TW_HEALTH_A_FAULT) false).wrB (healthFld e F.TW_HEALTH_A_STARVED) false

theorem Dev.healthCleared_spec (e : Eng) (s : Dev) : (s.healthCleared e).faulty e = false ∧
    (s.healthCleared e).rd (healthFld e F.TW_HEALTH_A_CHECKS) = 0 ∧ (s.healthCleared e).on (healthFld e F.TW_HEALTH_A_STARVED) = false ∧
    ∀ off, off ≠ R.TW_HEALTH_A → off ≠ R.TW_HEALTH_B → (s.healthCleared e).reg off = s.reg off := by
  have hfit {f : Fld} (h : f.fits = true) := healthFld_fits e h
  refine ⟨?_, ?_, ?_, fun off h1 h2 => ?_⟩
  · rw [Dev.healthCleared, Dev.faulty, Dev.wrB, Dev.on_wr_apart _ _ _ _ (hfit (by decide)) (healthFld_apart e (by decide))]
    exact Dev.on_wrB_self _ _ false (hfit (by decide)) (by cases e <;> rfl)
  · rw [Dev.healthCleared, Dev.rd_wrB_apart _ _ _ _ (hfit (by decide)) (healthFld_apart e (by decide)),
      Dev.rd_wrB_apart _ _ _ _ (hfit (by decide)) (healthFld_apart e (by decide)), Dev.rd_wr_self _ _ _ (hfit (by decide)), Nat.zero_mod]
  · exact Dev.on_wrB_self _ _ false (hfit (by decide)) (by cases e <;> rfl)
  · rw [Dev.healthCleared, Dev.reg_wrB_ne _ (healthFld_reg e _ rfl h1 h2), Dev.reg_wrB_ne _ (healthFld_reg e _ rfl h1 h2),
      Dev.reg_wr_ne _ (healthFld_reg e _ rfl h1 h2)]

theorem Dev.restoreBegin_regs (s : Dev) (e : Eng) (mb : Option Nat) : Dev.RegsAs (s.healthCleared e) (s.restoreBegin e mb) := by
  unfold Dev.restoreBegin
  cases e <;> exact .of_regs rfl

theorem Dev.restoreBegin_dead (s : Dev) (e : Eng) (mb : Option Nat) : ((s.restoreBegin e mb).eng e).dead = [] := by
  cases e <;> rfl

/-- What the beginning of a restore leaves of its engine. -/
theorem Dev.restoreBegin_spec (s : Dev) (e : Eng) (mb : Option Nat) : (s.restoreBegin e mb).faulty e = false ∧
    (s.restoreBegin e mb).rd (healthFld e F.TW_HEALTH_A_CHECKS) = 0 ∧ (s.restoreBegin e mb).on (healthFld e F.TW_HEALTH_A_STARVED) = false ∧
    (s.restoreBegin e mb).tw.restoring = some e ∧ ∀ f : Fld, f.reg ≠ R.TW_HEALTH_A → f.reg ≠ R.TW_HEALTH_B → (s.restoreBegin e mb).rd f = s.rd f := by
  have hregs := s.restoreBegin_regs e mb
  obtain ⟨hfault, hchecks, hstarved, hothers⟩ := s.healthCleared_spec e
  refine ⟨(hregs.on _).trans hfault, (hregs.rd _).trans hchecks, (hregs.on _).trans hstarved, by cases e <;> rfl, fun f h1 h2 => ?_⟩
  rw [hregs.rd, Dev.rd, hothers _ h1 h2]
  rfl

end Sys2Proof.Machine

namespace Sys2Proof.Proofs
open Sys2Proof.Machine

/-- Settles O40, request by request. -/
theorem twinRequests : Obligations.TwinRequests := by
  unfold Obligations.TwinRequests
  intro s via v hrun hmay a d
  have hexec (x : Nat) : s.writes via R.TW_CTL x = .next { s with dev := (s.fresh.dev.t6 via R.TW_CTL true).twCtl x } := hmay.writes hrun x
  have hsame := (TwSame.t6 s via R.TW_CTL true).applyReqs
  have hframe := Dev.t6_frame via R.TW_CTL true s.fresh.dev
  have hregs : Dev.RegsAs d (s.fresh.dev.t6 via R.TW_CTL true) := .t6 s _ _ _
  have hkeeps : Dev.Keeps [] d (s.fresh.dev.t6 via R.TW_CTL true) := Dev.Silent.keeps (.t6 via _ true) [] s
  have htw : (s.fresh.dev.t6 via R.TW_CTL true).tw = s.dev.tw := hframe.part .tw
  have hrole (e : Eng) : (s.fresh.dev.t6 via R.TW_CTL true).role e = s.dev.role e := (TwSame.t6 s via R.TW_CTL true).role e
  generalize s.fresh.dev.t6 via R.TW_CTL true = u at *
  have hrefused : Writes (d.wr F.TW_EVT_REFUSED 1) [.evq] s { s with dev := u.event F.TW_EVT_REFUSED } :=
    .of (hregs.event _) (((Dev.Keeps.wr d _ _).symm.all.trans hkeeps.all).trans (Dev.Keeps.event u _))
  have hqueued (l : List TwReq) : (u.withReqs l).tw = { s.dev.tw with reqs := l } ∧ Writes d [.tw] s { s with dev := u.withReqs l } :=
    ⟨by rw [← htw]; rfl, .of (hregs.trans (.of_regs rfl)) (hkeeps.all.trans (Dev.withReqs_frame l u).keeps)⟩
  refine ⟨fun e hv => ⟨fun hwhy => ?_, fun w hwhy => ?_⟩, fun hv => ⟨fun hwhy => ?_, fun w hwhy => ?_⟩,
    fun e hv => ⟨fun w hwhy => ?_, fun hwhy => ?_⟩⟩
  · have hex := hexec (setBit v.toNat (if e = .lea then 2 else 3))
    rw [Dev.twCtl_remove e hv, Dev.twRemove_eq, hsame.removeWhy, hwhy, htw] at hex
    exact ⟨_, hex, hqueued _⟩
  · have hex := hexec (setBit v.toNat (if e = .lea then 2 else 3))
    rw [Dev.twCtl_remove e hv, Dev.twRemove_eq, hsame.removeWhy, hwhy] at hex
    exact ⟨_, hex, Dev.on_event_self _ _ (by decide) rfl, hrefused⟩
  · have hex := hexec (setBit v.toNat 4)
    rw [Dev.twCtl_swap hv, Dev.twSwap_eq, hsame.swapWhy, hwhy, htw] at hex
    exact ⟨_, hex, hqueued _⟩
  · have hex := hexec (setBit v.toNat 4)
    rw [Dev.twCtl_swap hv, Dev.twSwap_eq, hsame.swapWhy, hwhy] at hex
    exact ⟨_, hex, hrefused⟩
  · have hex := hexec (setBit v.toNat (if e = .lea then 0 else 1))
    rw [Dev.twCtl_restore e hv, Dev.twRestore_eq, hsame.restoreWhy, hwhy] at hex
    exact ⟨_, hex, hrefused⟩
  · have hex := hexec (setBit v.toNat (if e = .lea then 0 else 1))
    rw [Dev.twCtl_restore e hv, Dev.twRestore_eq, hsame.restoreWhy, hwhy] at hex
    obtain ⟨hfault, hchecks, hstarved, hrest, hothers⟩ := u.restoreBegin_spec e none
    refine ⟨_, hex, hrest, hfault, hchecks, hstarved, (?_ : (u.restoreBegin e none).role e = _), u.restoreBegin_dead e none,
      ((hframe.mono (w' := [9, 21]) (l' := [.tw, .le, .bm])).then (u.restoreBegin_frame e none)).only⟩
    rw [← hrole, Dev.role, Dev.role, hothers _ (by decide) (by decide), hothers _ (by decide) (by decide)]

end Sys2Proof.Proofs
end

section
-- One proof after another: in parallel the proofs of this text would not fit the memory that its check allows.
set_option Elab.async false
/-!
PROOFS. Resynchronisations, the mismatch window, the end of a restore's test, automatic restores (10 R243, R250, R251, R253), and the scrub
of DE's words (07 R183).
-/
namespace Sys2Proof.Machine

/-! ### The copy of a resynchronisation -/

/-- The resynchronisation has begun and its copy is not in. -/
def Resync.copying (r : Resync) : Bool := decide (0 < r.k) && !r.copied

/-- The copy is in. -/
def Resync.copyIn (r : Resync) : Resync := if r.copying then { r with copied := true } else r

theorem Resync.copyIn_of {r : Resync} (hk : 0 < r.k) (hc : r.copied = false) : r.copyIn = { r with copied := true } := by
  simp [Resync.copyIn, Resync.copying, hk, hc]

/-- Vats whose single resynchronisation copies now. -/
def Dev.copyVats (s : Dev) : List Nat := s.tw.vres.filterMap (fun vr => (vr.2.filter Resync.copying).map (fun _ => vr.1))

/-- The copies of single vats. -/
def Dev.vatsCopied (s : Dev) : Dev := Dev.each s.copyVats (fun s v => s.copyUnit (some v)) s

/-- The copy of the whole engine. -/
def Dev.engineCopied (s : Dev) : Dev := if (s.tw.wres.filter Resync.copying).isSome then s.copyUnit none else s

/-- Every resynchronisation that copied notes it. -/
def Dev.copiesNoted (s : Dev) : Dev :=
  { s with tw := { s.tw with vres := s.tw.vres.map (fun vr => (vr.1, vr.2.map Resync.copyIn)), wres := s.tw.wres.map Resync.copyIn } }

theorem Dev.copyDone_eq (s : Dev) : s.copyDone = s.vatsCopied.engineCopied.copiesNoted := rfl

/-- What a copy keeps: the registers, TW, the source, and what the joining engine does not take over. -/
structure Copied (s t : Dev) : Prop where
  frame : Dev.Frame [] [.le] s t
  source : t.eng s.active = s.eng s.active
  aNote : (t.eng s.partner).aNote = (s.eng s.partner).aNote
  lNote : (t.eng s.partner).lNote = (s.eng s.partner).lNote
  dead : (t.eng s.partner).dead = (s.eng s.partner).dead

theorem Copied.refl (s : Dev) : Copied s s := ⟨.refl _ _ s, rfl, rfl, rfl, rfl⟩

theorem Copied.regs {s t : Dev} (h : Copied s t) : Dev.RegsAs s t := fun off => h.frame.within off List.not_mem_nil

theorem Copied.trans {s t u : Dev} (h : Copied s t) (k : Copied t u) : Copied s u := by
  have ha : t.active = s.active := Dev.active_congr h.regs
  have hp : t.partner = s.partner := Dev.partner_congr h.regs
  obtain ⟨kf, ks, k1, k2, k3⟩ := k
  rw [ha] at ks
  rw [hp] at k1 k2 k3
  exact ⟨h.frame.trans kf, ks.trans h.source, k1.trans h.aNote, k2.trans h.lNote, k3.trans h.dead⟩

theorem Dev.modEng_frame (e : Eng) (f : EngSt → EngSt) (s : Dev) : Dev.Frame [] [.le] s (s.modEng e f) := by
  cases e
  · exact (Dev.Frame.refl _ _ s).le _
  · exact (Dev.Frame.refl _ _ s).le _

theorem Dev.modEng_self (e : Eng) (f : EngSt → EngSt) (s : Dev) : (s.modEng e f).eng e = f (s.eng e) := by cases e <;> rfl

theorem Dev.modEng_other {e e' : Eng} (h : e ≠ e') (f : EngSt → EngSt) (s : Dev) : (s.modEng e f).eng e' = s.eng e' := by
  cases e <;> cases e' <;> first | rfl | exact absurd rfl h

theorem other_ne (e : Eng) : other e ≠ e := by cases e <;> decide

theorem copyEng_keeps (src dst : EngSt) (v : Option Nat) : (copyEng src dst v).aNote = dst.aNote ∧ (copyEng src dst v).lNote = dst.lNote ∧
    (copyEng src dst v).dead = dst.dead := by
  cases v <;> exact ⟨rfl, rfl, rfl⟩

theorem Dev.copyUnit_eng (s : Dev) (v : Option Nat) : (s.copyUnit v).eng s.partner = copyEng (s.eng s.active) (s.eng s.partner) v :=
  s.modEng_self _ _

theorem Copied.copyUnit (s : Dev) (v : Option Nat) : Copied s (s.copyUnit v) := by
  obtain ⟨h1, h2, h3⟩ := copyEng_keeps (s.eng s.active) (s.eng s.partner) v
  refine ⟨Dev.modEng_frame s.partner (fun dst => copyEng (s.eng s.active) dst v) s, Dev.modEng_other (other_ne s.active) _ s, ?_, ?_, ?_⟩
  · rw [Dev.copyUnit_eng, h1]
  · rw [Dev.copyUnit_eng, h2]
  · rw [Dev.copyUnit_eng, h3]

theorem Copied.each (l : List Nat) : ∀ s : Dev, Copied s (Dev.each l (fun s v => s.copyUnit (some v)) s) := by
  induction l with
  | nil => exact fun s => .refl s
  | cons v l ih => exact fun s => (Copied.copyUnit s (some v)).trans (ih _)

theorem Copied.vats (s : Dev) : Copied s s.vatsCopied := .each _ s

theorem Copied.engine (s : Dev) : Copied s s.engineCopied := by
  unfold Dev.engineCopied
  split
  · exact .copyUnit s none
  · exact .refl s

theorem copyEng_none_congr {src a b : EngSt} (h1 : a.aNote = b.aNote) (h2 : a.lNote = b.lNote) (h3 : a.dead = b.dead) :
    copyEng src a none = copyEng src b none := by
  simp [copyEng, h1, h2, h3]

theorem Tbl.look_map_snd {α : Type} (f : α → α) (t : Tbl α) (k : Nat) : Tbl.look (List.map (fun kv : Nat × α => (kv.1, f kv.2)) t) k = (t.look k).map f := by
  induction t with
  | nil => rfl
  | cons kv t ih =>
    obtain ⟨j, x⟩ := kv
    simp only [List.map_cons, Tbl.look]
    split
    · rfl
    · exact ih

theorem copied_vres {t : Tbl (Option Resync)} {v : Nat} {r : Resync} (h : t.get v = some r) (hk : 0 < r.k) (hc : r.copied = false) :
    Tbl.get (List.map (fun vr : Nat × Option Resync => (vr.1, vr.2.map Resync.copyIn)) t) v = some { r with copied := true } := by
  have hlook : t.look v = some (some r) := by
    rw [Tbl.get] at h
    cases hl : t.look v with
    | none =>
      rw [hl] at h
      exact absurd h (by simp)
    | some x =>
      rw [hl] at h
      exact congrArg some h
  rw [Tbl.get, Tbl.look_map_snd (Option.map Resync.copyIn), hlook]
  exact congrArg some (Resync.copyIn_of hk hc)

/-! ### The mismatch window -/

/-- The block with other counts in its mismatch window. -/
def Dev.withMis (l : List Nat) (s : Dev) : Dev := { s with tw := { s.tw with mis := l } }

theorem Dev.misAge_eq (s : Dev) : s.misAge = (s.withMis (s.tw.mis.filter (fun n => decide (s.now < n + 100000 * s.rd F.TW_CFG_MIS_WIN)))).misSync := rfl

theorem Dev.misSync_spec (l : List Nat) (s : Dev) : (s.withMis l).misSync.tw = { s.tw with mis := l } ∧
    Dev.RegsAs ((s.wr F.TW_MISWIN (min 15 l.length)).wrB F.TW_STAT_SUSPECT (!l.isEmpty)) (s.withMis l).misSync ∧
    Dev.Frame [9] [.tw] s (s.withMis l).misSync := by
  have h : Dev.RegsAs s (s.withMis l) := .of_regs rfl
  refine ⟨rfl, (h.wr _ _).wrB _ _, ?_⟩
  have hf : Dev.Frame [9] [.tw] s (s.withMis l) := (Dev.Frame.refl _ _ s).tw _
  exact (hf.wr F.TW_MISWIN _).wrB F.TW_STAT_SUSPECT _

/-! ### The test of a restore ends -/

/-- No engine is in test. -/
def Dev.noTest (s : Dev) : Dev := { s with tw := { s.tw with restoring := none } }

/-- The test's passes are counted, and the engine is no longer in test. -/
def Dev.testOver (e : Eng) (s : Dev) : Dev :=
  (s.noTest.wr (healthFld e F.TW_HEALTH_A_PASSES) (s.noTest.rd (healthFld e F.TW_HEALTH_A_PASSES) + 64)).pcClock 0x0904 64

/-- The checks that failed in the test. -/
def Dev.testChecks (e : Eng) (checks v : Nat) (s : Dev) : Dev := Dev.each (bitsOf 7 checks) (fun s b => s.flag e b v) s

/-- The test has failed: the engine stays out, with its cause. -/
def Dev.testFailed (e : Eng) (s : Dev) : Dev :=
  ((((s.wr (causeFld e) 5).event F.TW_EVT_RESTORE_FAIL).raise (256 * engBlock e + 6) 1 (engSrc e) 1)).restoreEnd e 0

/-- The test has passed: the engine resynchronises. -/
def Dev.testPassed (e : Eng) (s : Dev) : Dev :=
  let s := ((s.wr (roleFld e) 3).withMis []).misSync
  ({ s with tw := { s.tw with wres := some { s := s.le.frame + 2 } } }).wr F.TW_STAT_TRY 1

theorem Dev.restoreDone_eq {s : Dev} {e : Eng} (checks v : Nat) (h : s.tw.restoring = some e) :
    s.restoreDone e checks v = if ((s.testOver e).testChecks e checks v).faulty e then ((s.testOver e).testChecks e checks v).testFailed e
      else ((s.testOver e).testChecks e checks v).testPassed e := by
  unfold Dev.restoreDone
  exact if_neg (not_not_intro h)

theorem blockOf_health (e : Eng) {f : Fld} (hf : f.reg = R.TW_HEALTH_A) : blockOf (healthFld e f).reg = 9 :=
  List.mem_singleton.mp (blockOf_healthFld e (by rw [hf]; decide) (by rw [hf]; decide))

theorem Dev.testOver_spec (e : Eng) (s : Dev) : Dev.Frame [9, 21] [.tw] s (s.testOver e) ∧
    (s.testOver e).tw = { s.tw with restoring := none } ∧ (s.testOver e).faulty e = s.faulty e ∧ (s.testOver e).role e = s.role e := by
  have h0 : Dev.Frame [9, 21] [.tw] s s.noTest := (Dev.Frame.refl _ _ s).tw _
  have hregs : Dev.RegsAs s s.noTest := .of_regs rfl
  unfold Dev.testOver
  have hw := h0.wr (healthFld e F.TW_HEALTH_A_PASSES) (s.noTest.rd (healthFld e F.TW_HEALTH_A_PASSES) + 64) (by rw [blockOf_health e rfl]; decide)
  have hclock := Dev.pcClock_frame (s.noTest.wr (healthFld e F.TW_HEALTH_A_PASSES) (s.noTest.rd (healthFld e F.TW_HEALTH_A_PASSES) + 64)) 0x0904 64 none
  refine ⟨hw.then hclock, hclock.part .tw, ?_, ?_⟩
  · rw [Dev.faulty, Dev.on, hclock.rd _ (by rw [blockOf_health e rfl]; decide),
      Dev.rd_wr_apart _ _ _ _ (healthFld_fits e (by decide)) (healthFld_apart e (by decide)), hregs.rd]
    rfl
  · have hstat (f : Fld) (hf : f.reg = R.TW_STAT) : Dev.rd ((s.noTest.wr (healthFld e F.TW_HEALTH_A_PASSES)
        (s.noTest.rd (healthFld e F.TW_HEALTH_A_PASSES) + 64)).pcClock 0x0904 64) f = s.rd f := by
      rw [hclock.rd _ (by rw [hf]; decide), Dev.rd, Dev.reg_wr_ne _ (by rw [hf]; cases e <;> decide), hregs]
      rfl
    rw [Dev.role, Dev.role, hstat _ rfl, hstat _ rfl]

/-- Checks that fail one after another. -/
theorem Dev.flags_spec (e : Eng) (v : Nat) (l : List Nat) : ∀ s : Dev, (∀ b ∈ l, b < 7) →
    Dev.Frame [9] [] s (Dev.each l (fun s b => s.flag e b v) s) ∧
      (Dev.each l (fun s b => s.flag e b v) s).faulty e = (s.faulty e || !l.isEmpty) ∧
      ∀ off, off ≠ R.TW_HEALTH_A → off ≠ R.TW_HEALTH_B → (Dev.each l (fun s b => s.flag e b v) s).reg off = s.reg off := by
  induction l with
  | nil => exact fun s _ => ⟨.refl _ _ s, (Bool.or_false _).symm, fun _ _ _ => rfl⟩
  | cons b l ih =>
    intro s hl
    have hflag := s.flag_spec e (hl b (List.mem_cons_self ..)) v
    obtain ⟨hf, hfault, hothers⟩ := ih (s.flag e b v) fun c hc => hl c (List.mem_cons_of_mem _ hc)
    refine ⟨hflag.frame.trans hf, ?_, fun off h1 h2 => (hothers off h1 h2).trans (hflag.others off h1 h2)⟩
    rw [hflag.faulty, Bool.true_or] at hfault
    exact hfault.trans (Bool.or_true _).symm

theorem bitsOf_eq_nil {n v : Nat} (h : v < 2 ^ n) : bitsOf n v = [] ↔ v = 0 := by
  rw [bitsOf, List.filter_eq_nil_iff]
  refine ⟨fun hb => Nat.eq_of_testBit_eq fun i => ?_, ?_⟩
  · rw [Nat.zero_testBit]
    by_cases hi : i < n
    · rw [← bit_eq_testBit]
      exact Bool.eq_false_iff.mpr (hb i (List.mem_range.mpr hi))
    · exact Nat.testBit_lt_two_pow (lt_of_lt_of_le h (Nat.pow_le_pow_right (by decide) (Nat.le_of_not_lt hi)))
  · rintro rfl i -
    simp [bit]

theorem roleFld_spec (e : Eng) : (roleFld e).reg = R.TW_STAT ∧ (roleFld e).fits = true ∧ (roleFld e).w = 2 := by cases e <;> decide

theorem causeFld_spec (e : Eng) : (causeFld e).reg = R.TW_STAT ∧ (causeFld e).fits = true ∧ (causeFld e).w = 4 := by cases e <;> decide

theorem Dev.role_eq (s : Dev) (e : Eng) : s.role e = s.rd (roleFld e) := by cases e <;> rfl

theorem Dev.testFailed_spec (e : Eng) (s : Dev) : Dev.Frame [9] [.tw, .evq, .fc, .mbx] s (s.testFailed e) ∧
    (s.testFailed e).tw = { s.tw with restoreMb := none } ∧ (s.testFailed e).faulty e = s.faulty e ∧ (s.testFailed e).role e = s.role e ∧
    (s.testFailed e).rd (causeFld e) = 5 ∧ (s.testFailed e).on F.TW_EVT_RESTORE_FAIL = true := by
  obtain ⟨hreg, hfits, hw⟩ := causeFld_spec e
  unfold Dev.testFailed
  have hc : Dev.Frame [9] [.tw, .evq, .fc, .mbx] s (s.wr (causeFld e) 5) := (Dev.Frame.refl _ _ s).wr _ _ (by rw [hreg]; decide)
  have hcause : (s.wr (causeFld e) 5).rd (causeFld e) = 5 := by rw [Dev.rd_wr_self _ _ _ hfits, hw]; rfl
  have hrole : (s.wr (causeFld e) 5).role e = s.role e := by
    rw [Dev.role_eq, Dev.role_eq]
    exact Dev.rd_wr_apart _ _ _ _ hfits (by cases e <;> decide)
  have hfault : (s.wr (causeFld e) 5).faulty e = s.faulty e := by
    rw [Dev.faulty, Dev.on, Dev.rd_wr_apart _ _ _ _ hfits (by cases e <;> decide)]
    rfl
  have htw : (s.wr (causeFld e) 5).tw = s.tw := rfl
  generalize s.wr (causeFld e) 5 = u at *
  have hev := hc.event F.TW_EVT_RESTORE_FAIL
  have hon := Dev.on_event_self u F.TW_EVT_RESTORE_FAIL (by decide) rfl
  have hrest (off : Nat) (h : F.TW_EVT_RESTORE_FAIL.reg ≠ off) := Dev.reg_event_ne u h
  have htw' : (u.event F.TW_EVT_RESTORE_FAIL).tw = s.tw := (Dev.event_tw _ _).trans htw
  generalize u.event F.TW_EVT_RESTORE_FAIL = x at *
  have hraise := hev.raise (256 * engBlock e + 6) 1 (engSrc e) 1
  have hxr : Dev.RegsAs x (x.raise (256 * engBlock e + 6) 1 (engSrc e) 1) := .of_regs (Dev.raise_regs _ _ _ _ _ _)
  have htwr : (x.raise (256 * engBlock e + 6) 1 (engSrc e) 1).tw = s.tw := htw'
  generalize x.raise (256 * engBlock e + 6) 1 (engSrc e) 1 = y at *
  obtain ⟨hyr, hyt⟩ := y.restoreEnd_tw e 0
  have hend : Dev.Frame [9] [.tw, .evq, .fc, .mbx] y (y.restoreEnd e 0) := by
    unfold Dev.restoreEnd
    dsimp only
    split
    · exact ((Dev.Frame.refl _ _ y).tw _).ok _ _
    · exact (Dev.Frame.refl _ _ y).tw _
  have hall : Dev.RegsAs x (y.restoreEnd e 0) := hxr.trans (.of_regs hyr)
  refine ⟨hraise.trans hend, hyt.trans (by rw [htwr]), ?_, ?_, ?_, (hall.on _).trans hon⟩
  · rw [← hfault, Dev.faulty, Dev.faulty, hall.on, Dev.on, Dev.rd, hrest _ (by cases e <;> decide)]
    rfl
  · rw [← hrole, Dev.role_congr hall, Dev.role_eq, Dev.role_eq, Dev.rd, hrest _ (by cases e <;> decide)]
    rfl
  · rw [← hcause, hall.rd, Dev.rd, hrest _ (by cases e <;> decide)]
    rfl

theorem Dev.testPassed_spec (e : Eng) (s : Dev) : Dev.Frame [9] [.tw] s (s.testPassed e) ∧
    (s.testPassed e).tw = { s.tw with mis := [], wres := some { s := s.le.frame + 2 } } ∧ (s.testPassed e).role e = 3 ∧
    (s.testPassed e).rd F.TW_STAT_TRY = 1 := by
  obtain ⟨hreg, hfits, hw⟩ := roleFld_spec e
  have hr : Dev.Frame [9] [.tw] s (s.wr (roleFld e) 3) := (Dev.Frame.refl _ _ s).wr _ _ (by rw [hreg]; decide)
  have hrole : (s.wr (roleFld e) 3).rd (roleFld e) = 3 := by rw [Dev.rd_wr_self _ _ _ hfits, hw]; rfl
  have htw : (s.wr (roleFld e) 3).tw = s.tw := rfl
  have hle : (s.wr (roleFld e) 3).le = s.le := rfl
  unfold Dev.testPassed
  generalize s.wr (roleFld e) 3 = u at *
  obtain ⟨hstw, hsregs, hsf⟩ := u.misSync_spec []
  have hsle : (u.withMis []).misSync.le = s.le := (show _ = u.le from hsf.part .le).trans hle
  have hstat : (u.withMis []).misSync.rd (roleFld e) = 3 := by
    rw [hsregs.rd, Dev.rd_wrB_apart _ _ _ _ (by decide) (by cases e <;> decide), Dev.rd_wr_apart _ _ _ _ (by decide) (by cases e <;> decide), hrole]
  generalize (u.withMis []).misSync = x at *
  have hx : Dev.Frame [9] [.tw] x { x with tw := { x.tw with wres := some { s := x.le.frame + 2 } } } := (Dev.Frame.refl _ _ x).tw _
  have hxr : Dev.RegsAs x { x with tw := { x.tw with wres := some { s := x.le.frame + 2 } } } := .of_regs rfl
  refine ⟨((hr.then hsf).then hx).wr _ _, ?_, ?_, Dev.rd_wr_self _ _ _ (by decide)⟩
  · show { x.tw with wres := some { s := x.le.frame + 2 } } = _
    rw [hstw, hsle, htw]
  · rw [Dev.role_eq, Dev.rd_wr_apart _ _ _ _ (by decide) (by cases e <;> decide), hxr.rd]
    exact hstat

/-! ### Automatic restores, and the scrub of DE's words -/

theorem Dev.autoRestore_go {s : Dev} {e : Eng} (hcfg : s.on F.TW_CFG_AUTO_RST = true) (hcause : s.rd (causeFld e) = 2)
    (hauto : s.on (autoFld e) = false) (hwhy : s.restoreWhy e = none) : s.autoRestore e = (s.wrB (autoFld e) true).restoreBegin e none := by
  unfold Dev.autoRestore
  rw [if_pos]
  rw [hcfg, hcause, hauto, hwhy]
  rfl

/-- An error of DE that is counted and reported. -/
def Dev.deErr (s : Dev) : Dev := (s.count F.DE_UE).event F.DE_EVT_UE

theorem Dev.deErr_spec (s : Dev) : Dev.Frame [12] [.evq] s s.deErr ∧ s.deErr.rd F.DE_UE = min (s.rd F.DE_UE + 1) 0xFFFFFFFF ∧
    s.deErr.on F.DE_EVT_UE = true := by
  refine ⟨((Dev.Frame.refl _ _ s).count _).event _, ?_, Dev.on_event_self _ _ (by decide) rfl⟩
  rw [Dev.deErr, Dev.rd_event_apart _ _ _ (by decide) (by decide), Dev.rd_count_self _ _ _ (by decide) rfl]
  rfl

theorem Dev.deUe_frame (w : DeWord) (s : Dev) : Dev.Frame [] [.de, .fc] s.deErr (s.deUe w) := by
  have h := Dev.Frame.refl [] [.de, .fc] s.deErr
  cases w with
  | bead i o => exact (h.de _).raise _ _ _ _ _
  | mirror b f i => exact (h.de _).raise _ _ _ _ _
  | elig b f => exact (h.de _).raise _ _ _ _ _
  | meter sub v => exact (h.de _).raise _ _ _ _ _

end Sys2Proof.Machine

namespace Sys2Proof.Proofs
open Sys2Proof.Machine

/-- Settles O42, command by command. -/
theorem resynchronisation : Obligations.Resynchronisation := by
  unfold Obligations.Resynchronisation
  intro s hrun
  refine ⟨?_, ?_, fun e checks v hrest => ?_, fun e hcfg hcause hauto hwhy => ?_, fun e => ?_, fun w => ⟨?_, ?_, ?_⟩⟩
  · have hexec : exec .resyncCopyDone s = .next { s with dev := s.fresh.dev.copyDone } := State.onDev_next s _ hrun
    rw [Dev.copyDone_eq] at hexec
    have hv := Copied.vats s.fresh.dev
    have he := Copied.engine s.fresh.dev.vatsCopied
    have heng : ∀ r : Resync, s.dev.tw.wres = some r → 0 < r.k → r.copied = false →
        s.fresh.dev.vatsCopied.engineCopied = s.fresh.dev.vatsCopied.copyUnit none := fun r hr hk hc => by
      have htw : s.fresh.dev.vatsCopied.tw = s.dev.tw := hv.frame.part .tw
      rw [Dev.engineCopied, htw, hr]
      exact if_pos (by simp [Option.filter, Resync.copying, hk, hc])
    have hall := hv.trans he
    have htw : s.fresh.dev.vatsCopied.engineCopied.tw = s.dev.tw := hall.frame.part .tw
    have hnote : Dev.Frame [] [.tw] s.fresh.dev.vatsCopied.engineCopied s.fresh.dev.vatsCopied.engineCopied.copiesNoted := (Dev.Frame.refl _ _ _).tw _
    have hf : Dev.Frame [] [.le, .tw] s.fresh.dev s.fresh.dev.vatsCopied.engineCopied.copiesNoted := (hall.frame.mono).then hnote
    refine ⟨_, hexec, .of (fun off => hf.within off List.not_mem_nil) hf.keeps, fun r hr hk hc => ⟨?_, ?_⟩, fun v r hr hk hc => ?_⟩
    · show s.fresh.dev.vatsCopied.engineCopied.tw.wres.map Resync.copyIn = _
      rw [htw, hr]
      exact congrArg some (Resync.copyIn_of hk hc)
    · show s.fresh.dev.vatsCopied.engineCopied.eng s.dev.partner = _
      rw [heng r hr hk hc]
      have hp : s.fresh.dev.vatsCopied.partner = s.dev.partner := Dev.partner_congr hv.regs
      have ha : s.fresh.dev.vatsCopied.active = s.dev.active := Dev.active_congr hv.regs
      rw [← hp, Dev.copyUnit_eng, hp, ha]
      have hsrc : s.fresh.dev.vatsCopied.eng s.dev.active = s.dev.eng s.dev.active := hv.source
      rw [hsrc]
      exact copyEng_none_congr hv.aNote hv.lNote hv.dead
    · show Tbl.get (List.map _ s.fresh.dev.vatsCopied.engineCopied.tw.vres) v = _
      rw [htw]
      exact copied_vres hr hk hc
  · have hexec : exec .miswinAgeOut s = .next { s with dev := s.fresh.dev.misAge } := State.onDev_next s _ hrun
    rw [Dev.misAge_eq] at hexec
    obtain ⟨htw, hregs, hf⟩ := s.fresh.dev.misSync_spec (s.fresh.dev.tw.mis.filter (fun n =>
      decide (s.fresh.dev.now < n + 100000 * s.fresh.dev.rd F.TW_CFG_MIS_WIN)))
    exact ⟨_, hexec, htw, .of hregs hf.keeps⟩
  · have hexec : exec (.restoreTestDone e checks v) s = .next { s with dev := s.fresh.dev.restoreDone e checks.toNat v.toNat } := State.onDev_next s _ hrun
    rw [Dev.restoreDone_eq (s := s.fresh.dev) checks.toNat v.toNat hrest] at hexec
    obtain ⟨hf, htw, hfault, hrole⟩ := s.fresh.dev.testOver_spec e
    have hle : (s.fresh.dev.testOver e).le = s.dev.le := hf.part .le
    generalize s.fresh.dev.testOver e = x at *
    obtain ⟨hcf, hcfault, hcothers⟩ := x.flags_spec e v.toNat (bitsOf 7 checks.toNat) fun b hb => List.mem_range.mp (List.mem_filter.mp hb).1
    change Dev.Frame [9] [] x (x.testChecks e checks.toNat v.toNat) at hcf
    change (x.testChecks e checks.toNat v.toNat).faulty e = _ at hcfault
    have hcrole : (x.testChecks e checks.toNat v.toNat).role e = s.dev.role e := by
      rw [← show s.fresh.dev.role e = s.dev.role e from rfl, ← hrole, Dev.role_eq, Dev.role_eq, Dev.rd, Dev.rd]
      exact congrArg (fun w : Word => w.toNat / _ % _) (hcothers _ (by cases e <;> decide) (by cases e <;> decide))
    have hctw : (x.testChecks e checks.toNat v.toNat).tw = { s.dev.tw with restoring := none } := (show _ = x.tw from hcf.part .tw).trans htw
    have hcle : (x.testChecks e checks.toNat v.toNat).le = s.dev.le := (show _ = x.le from hcf.part .le).trans hle
    rw [hfault] at hcfault
    have hboth : Dev.Frame [9, 21] [.tw, .evq, .fc, .freeCtr, .mbx] s.fresh.dev (x.testChecks e checks.toNat v.toNat) := (hf.mono).then hcf
    generalize x.testChecks e checks.toNat v.toNat = y at *
    have hchecks : (bitsOf 7 checks.toNat).isEmpty = true ↔ checks = 0 := by
      rw [List.isEmpty_iff, bitsOf_eq_nil checks.isLt]
      exact ⟨fun h => BitVec.eq_of_toNat_eq h, fun h => by rw [h]; rfl⟩
    by_cases hbad : y.faulty e = true
    · rw [if_pos hbad] at hexec
      obtain ⟨hff, hft, hff', hfr, hfc, hfe⟩ := y.testFailed_spec e
      refine ⟨_, hexec, by rw [hft, hctw], fun h1 h2 => ?_, fun _ => ⟨hff'.trans hbad, hfr.trans hcrole, hfc, hfe⟩, (hboth.then hff).only⟩
      have hcalm : s.fresh.dev.faulty e = false := h1
      rw [hcfault, hchecks.mpr h2, hcalm] at hbad
      exact absurd hbad (by decide)
    · rw [if_neg hbad] at hexec
      obtain ⟨hpf, hpt, hpr, hptry⟩ := y.testPassed_spec e
      refine ⟨_, hexec, by rw [hpt, hctw], fun _ _ => ⟨hpr, hptry, by rw [hpt], by rw [hpt, hcle]⟩, fun h => absurd ?_ hbad, (hboth.then hpf).only⟩
      rw [hcfault]
      rcases h with h | h
      · have hsick : s.fresh.dev.faulty e = true := h
        rw [hsick, Bool.true_or]
      · have hsome : (bitsOf 7 checks.toNat).isEmpty = false := Bool.eq_false_iff.mpr fun hc => h (hchecks.mp hc)
        rw [hsome, Bool.not_false, Bool.or_true]
  · have hexec : exec (.autoRestore e) s = .next { s with dev := s.fresh.dev.autoRestore e } := State.onDev_next s _ hrun
    rw [Dev.autoRestore_go (s := s.fresh.dev) hcfg hcause hauto hwhy] at hexec
    have hfit : (autoFld e).fits = true ∧ (autoFld e).w = 1 ∧ (autoFld e).reg = R.TW_STAT := by cases e <;> decide
    have hon := Dev.on_wrB_self s.fresh.dev (autoFld e) true hfit.1 hfit.2.1
    have hf : Dev.Frame [9] [.tw, .le] s.fresh.dev (s.fresh.dev.wrB (autoFld e) true) := (Dev.Frame.refl _ _ _).wrB _ _ (by rw [hfit.2.2]; decide)
    generalize s.fresh.dev.wrB (autoFld e) true = u at *
    obtain ⟨hfault, -, -, hrest, hothers⟩ := u.restoreBegin_spec e none
    refine ⟨_, hexec, ?_, hrest, hfault, (hf.then (u.restoreBegin_frame e none)).only⟩
    rw [Dev.on, hothers _ (by rw [hfit.2.2]; decide) (by rw [hfit.2.2]; decide)]
    exact hon
  · have hexec : exec (.autoRestoreWindowEnd e) s = .next { s with dev := s.fresh.dev.wrB (autoFld e) false } := State.onDev_next s _ hrun
    exact ⟨_, hexec, .of ((Dev.RegsAs.setTx [] s.dev).wrB _ _) ((Dev.Keeps.wr _ _ _).symm.all.trans ((Dev.Keeps.setTx [] [] s.dev).trans (Dev.Keeps.wr _ _ _)))⟩
  · exact State.onDev_next s _ hrun
  · have hexec : exec (.deScrub w .corrected) s = .next { s with dev := s.fresh.dev.count F.DE_CE } := State.onDev_next s _ hrun
    exact ⟨_, hexec, .of ((Dev.RegsAs.setTx [] s.dev).count _ _) ((Dev.Keeps.count _ _ _).symm.all.trans ((Dev.Keeps.setTx [] [] s.dev).trans (Dev.Keeps.count _ _ _)))⟩
  · have hexec : exec (.deScrub w .uncorrectable) s = .next { s with dev := s.fresh.dev.deUe w } := State.onDev_next s _ hrun
    obtain ⟨hf, hcount, hon⟩ := s.fresh.dev.deErr_spec
    have hu := s.fresh.dev.deUe_frame w
    refine ⟨_, hexec, (hu.rd _ List.not_mem_nil).trans hcount, (hu.on _ List.not_mem_nil).trans hon, fun i o hw => ?_,
      ((hf.mono (w' := [12]) (l' := [.de, .evq, .fc, .freeCtr])).then hu).only⟩
    subst hw
    exact (Dev.setBead_bead _ _ _ 0)

end Sys2Proof.Proofs
end

section
-- One proof after another: in parallel the proofs of this text would not fit the memory that its check allows.
set_option Elab.async false
/-!
PROOFS. The inhibits after they are taken up (06 R141, R142), and operations that change nothing of the fault collector but the lines that
wait for it (13 R298).
-/
namespace Sys2Proof.Machine

/-! ### Only lines are raised -/

/-- From s to t nothing of FC changes but the lines that wait. -/
def Dev.Lines (s t : Dev) : Prop := ∃ l, t.fc = { s.fc with lines := l }

theorem Dev.Lines.of_fc {s t : Dev} (h : t.fc = s.fc) : Dev.Lines s t := ⟨s.fc.lines, h⟩

theorem Dev.Lines.refl (s : Dev) : Dev.Lines s s := .of_fc rfl

theorem Dev.Lines.trans {s t u : Dev} (h : Dev.Lines s t) (k : Dev.Lines t u) : Dev.Lines s u := by
  obtain ⟨l, hl⟩ := h
  obtain ⟨m, hm⟩ := k
  exact ⟨m, by rw [hm, hl]⟩

theorem Dev.Lines.latch {s t : Dev} (h : Dev.Lines s t) : t.fc.latch = s.fc.latch := by
  obtain ⟨l, hl⟩ := h
  rw [hl]

theorem Dev.Frame.lines {w : List Nat} {l : List Part} {s t : Dev} (h : Dev.Frame w l s t) (hl : Part.fc ∉ l := by decide) : Dev.Lines s t :=
  .of_fc (h.part .fc hl)

theorem Dev.Lines.raise (s : Dev) (c v : Nat) (r : BitVec 28) (i : Nat) (b : Bool) : Dev.Lines s (s.raise c v r i b) := ⟨_, rfl⟩

theorem Dev.Lines.each {α : Type} (r : List α) (f : Dev → α → Dev) (hf : ∀ s, ∀ a ∈ r, Dev.Lines s (f s a)) :
    ∀ s, Dev.Lines s (Dev.each r f s) := by
  induction r with
  | nil => exact fun s => .refl s
  | cons a r ih => exact fun s => (hf s a (List.mem_cons_self ..)).trans (ih (fun u b hb => hf u b (List.mem_cons_of_mem _ hb)) _)

theorem Dev.Lines.when {f : Dev → Dev} (c : Bool) (s : Dev) (hf : Dev.Lines s (f s)) : Dev.Lines s (Dev.when c f s) := by
  cases c
  · exact .refl s
  · exact hf

theorem Dev.Lines.bankApply (s : Dev) (o : BankOp) : Dev.Lines s (s.bankApply o) := by
  cases o with
  | add i o inc =>
    rw [Dev.bankApply.eq_def]
    dsimp -zeta only
    extract_lets t s1 first s2
    have h2 : Dev.Lines s s2 := .of_fc (Dev.event_fc _ _)
    clear_value s2
    split
    · exact h2.trans (.when _ s2 (.raise _ _ _ _ _ _))
    · exact .of_fc rfl
  | drain k i o dr =>
    rw [Dev.bankApply.eq_def]
    dsimp -zeta only
    extract_lets b d s1 s2
    split
    · exact .of_fc rfl
    · exact .of_fc (Dev.Keeps.pcClock _ 0x0C07 d none .fc List.not_mem_nil)
  | refund k =>
    rw [Dev.bankApply.eq_def]
    dsimp -zeta only
    extract_lets mine
    exact .of_fc (Dev.each_eq (·.fc) mine _ _ fun _ _ => rfl)
  | age i o => exact .of_fc rfl

theorem Dev.Lines.bankOp (s : Dev) (o : BankOp) : Dev.Lines s (s.bankOp o) := by
  unfold Dev.bankOp
  split
  · split
    · exact .bankApply s o
    · exact .of_fc rfl
  · exact .bankApply s o

/-! ### A slot is cancelled -/

/-- The slot leaves the list's pressed ones, and stints with it (06 R142, 09 R224). -/
def Dev.slotCut (s : Dev) (x : Slot) : Dev :=
  let y := { x with cancelled := true, committed := false, nochg := true, changed := [] }
  let dec := reImg s.gl.last (s.gl.dec.map (fun (z : Slot) => if z.k = x.k then y else z))
  { s with gl := { s.gl with dec := dec }, cal := { s.cal with stints := s.cal.stints.map (Stint.pressCancelled x.m) } }

/-- What goes out and is counted of a cancelled slot. -/
def Dev.slotTold (s : Dev) (b : Bool) (pdu : List Byte) : Dev :=
  Dev.when b (·.rpSend F.RPA_TX_REVOKE pdu) ((s.count F.GL_REVOKE).event F.GL_EVT_REVOKE)

theorem Dev.cancelSlot_eq (r : Nat) (s : Dev) (x : Slot) : ∃ pdu y, s.cancelSlot r x =
    ((((s.slotCut x).slotTold x.announced pdu).refund x.k).formNext).pressTrace y true 0 := ⟨_, _, rfl⟩

theorem Dev.rpSend_frame (s : Dev) (c : Fld) (l : List Byte) (h : c.reg < 0xe0000 ∧ 0xd0000 ≤ c.reg) : Dev.Frame [13, 14] [] s (s.rpSend c l) :=
  ⟨s.rpSend_within c l (by simp only [blockOf]; omega), .rpSend s c l⟩

theorem Dev.slotTold_frame (s : Dev) (b : Bool) (pdu : List Byte) : Dev.Frame [11, 13, 14] [.evq] s (s.slotTold b pdu) :=
  (((Dev.Frame.refl _ _ s).count _).event _).when' _ ((Dev.rpSend_frame _ _ _ (by decide)).mono)

theorem Dev.formNext_frame (s : Dev) : Dev.Frame [11] [] s s.formNext := ⟨s.formNext_within, .formNext s⟩

theorem Dev.Lines.cancelSlot (r : Nat) (s : Dev) (x : Slot) : Dev.Lines s (s.cancelSlot r x) := by
  obtain ⟨pdu, y, h⟩ := s.cancelSlot_eq r x
  rw [h]
  have hcut : Dev.Lines s (s.slotCut x) := .of_fc rfl
  exact (((hcut.trans (Dev.slotTold_frame _ _ _).lines).trans (.bankOp _ _)).trans (Dev.formNext_frame _).lines).trans (.of_fc rfl)

/-- Of GL's registers a cancelled slot reaches the count and the event of revocations and the form that is shown next. -/
theorem Dev.cancelSlot_reg (r : Nat) (s : Dev) (x : Slot) {off : Nat} (hb : blockOf off = 11) (h1 : off ≠ R.GL_REVOKE) (h2 : off ≠ R.GL_EVT)
    (h3 : off ≠ R.GL_FORM) : (s.cancelSlot r x).reg off = s.reg off := by
  obtain ⟨pdu, y, h⟩ := s.cancelSlot_eq r x
  rw [h]
  have hnext (u : Dev) : u.formNext.reg off = u.reg off := by
    unfold Dev.formNext
    split
    · rw [Dev.reg_wrB_ne _ (Ne.symm h3), Dev.reg_wr_ne _ (Ne.symm h3)]
    · rfl
  have htold (u : Dev) : (u.slotTold x.announced pdu).reg off = u.reg off := by
    have hsend : Dev.Frame [13, 14] [] ((u.count F.GL_REVOKE).event F.GL_EVT_REVOKE) (u.slotTold x.announced pdu) :=
      .when _ _ _ (Dev.rpSend_frame _ _ _ (by decide))
    rw [hsend.within off (by rw [hb]; decide), Dev.reg_event_ne _ (Ne.symm h2)]
    exact Dev.reg_wr_ne u (Ne.symm h1) _
  show (((s.slotCut x).slotTold x.announced pdu).refund x.k).formNext.reg off = _
  rw [hnext, Dev.refund_within _ _ off (by rw [hb]; decide), htold]
  rfl

theorem Dev.Lines.cancelAll (r : Nat) (s : Dev) : Dev.Lines s (s.cancelAll r) := .each _ _ (fun u x _ => .cancelSlot r u x) s

theorem Dev.cancelAll_reg (r : Nat) (s : Dev) {off : Nat} (hb : blockOf off = 11) (h1 : off ≠ R.GL_REVOKE) (h2 : off ≠ R.GL_EVT)
    (h3 : off ≠ R.GL_FORM) : (s.cancelAll r).reg off = s.reg off :=
  Dev.each_eq (·.reg off) _ _ s fun u x => u.cancelSlot_reg r x hb h1 h2 h3

/-! ### The inhibits as their conditions stand -/

/-- The registers of the inhibits as their conditions stand. -/
def Dev.inhShown (s : Dev) : Dev := ((s.wr glInh s.inhNow).wrB F.GL_STAT_INH (s.inhNow != 0)).wrB F.GL_STAT_HARD (hardBits s.inhNow)

theorem Dev.inhShown_frame (s : Dev) : Dev.Frame [11] [] s s.inhShown := (((Dev.Frame.refl _ _ s).wr _ _).wrB _ _).wrB _ _

/-- What a change of the inhibits to n reports and cancels. -/
def Dev.inhTaken (old new : Nat) (s : Dev) : Dev :=
  let fresh := (List.range 8).filter (fun b => bit new b && !bit old b)
  let s := Dev.when (!fresh.isEmpty) (·.event F.GL_EVT_INH_ON) s
  let s := Dev.when (new == 0) (·.event F.GL_EVT_INH_OFF) s
  match fresh.filter (fun b => decide (2 ≤ b)) with
  | b :: _ => s.cancelAll b
  | [] => s

theorem Dev.glSync_eq (s : Dev) : s.glSync = if s.inhNow = s.rd glInh then s.inhShown else s.inhShown.inhTaken (s.rd glInh) s.inhNow := rfl

theorem Dev.Lines.inhTaken (old new : Nat) (s : Dev) : Dev.Lines s (s.inhTaken old new) := by
  unfold Dev.inhTaken
  extract_lets fresh t u
  have ht : Dev.Lines s t := .when _ s (.of_fc (Dev.event_fc _ _))
  have hu : Dev.Lines t u := .when _ t (.of_fc (Dev.event_fc _ _))
  clear_value t u
  split
  · exact (ht.trans hu).trans (.cancelAll _ _)
  · exact ht.trans hu

theorem Dev.inhTaken_reg (old new : Nat) (s : Dev) {off : Nat} (hb : blockOf off = 11) (h1 : off ≠ R.GL_REVOKE) (h2 : off ≠ R.GL_EVT)
    (h3 : off ≠ R.GL_FORM) : (s.inhTaken old new).reg off = s.reg off := by
  have hev (c : Bool) (f : Fld) (hf : f.reg = R.GL_EVT) (u : Dev) : (Dev.when c (·.event f) u).reg off = u.reg off := by
    cases c
    · rfl
    · exact Dev.reg_event_ne u (fun h => h2 (h.symm.trans hf))
  unfold Dev.inhTaken
  extract_lets fresh t u
  have hu : u.reg off = s.reg off := (hev _ _ rfl t).trans (hev _ _ rfl s)
  clear_value t u
  split
  · rw [Dev.cancelAll_reg _ _ hb h1 h2 h3, hu]
  · exact hu

theorem Dev.Lines.glSync (s : Dev) : Dev.Lines s s.glSync := by
  rw [Dev.glSync_eq]
  split
  · exact s.inhShown_frame.lines
  · exact s.inhShown_frame.lines.trans (.inhTaken _ _ _)

theorem setBit_lt {v b n : Nat} (hv : v < 2 ^ n) (hb : b < n) : setBit v b < 2 ^ n := by
  unfold setBit
  split
  · exact hv
  · next h =>
    have hsplit : 2 ^ n = 2 ^ (n - b) * 2 ^ b := by rw [← pow_add, Nat.sub_add_cancel hb.le]
    have hdiv : (v + 2 ^ b) / 2 ^ b = v / 2 ^ b + 1 := Nat.add_div_right v (Nat.two_pow_pos b)
    have hlt : v / 2 ^ b < 2 ^ (n - b) := (Nat.div_lt_iff_lt_mul (Nat.two_pow_pos b)).mpr (hsplit ▸ hv)
    have heven : 2 ^ (n - b) = 2 * 2 ^ (n - b - 1) := by rw [← pow_succ', Nat.sub_add_cancel (by omega)]
    simp only [bit, beq_iff_eq] at h
    rw [hsplit, ← Nat.div_lt_iff_lt_mul (Nat.two_pow_pos b), hdiv]
    omega

theorem maskOf_lt {l : List Nat} {n : Nat} (h : ∀ b ∈ l, b < n) : maskOf l < 2 ^ n := by
  unfold maskOf
  have hgen : ∀ (m : List Nat) (v : Nat), (∀ b ∈ m, b < n) → v < 2 ^ n → m.foldl setBit v < 2 ^ n := by
    intro m
    induction m with
    | nil => exact fun v _ hv => hv
    | cons b m ih => exact fun v hm hv => ih _ (fun c hc => hm c (List.mem_cons_of_mem _ hc)) (setBit_lt hv (hm b (List.mem_cons_self ..)))
  exact hgen l 0 h (Nat.two_pow_pos n)


theorem Dev.plan_congr {s t : Dev} (hp : t.on F.GL_STAT_PLAN = s.on F.GL_STAT_PLAN) (hb : t.on F.GL_STAT_BANK = s.on F.GL_STAT_BANK)
    (h0 : t.plan0 = s.plan0) (h1 : t.plan1 = s.plan1) : t.plan = s.plan := by
  simp only [Dev.plan, Dev.planBank, hp, hb, h0, h1]

theorem Dev.inhNow_congr {s t : Dev}
    (hr : ∀ f ∈ [F.PM_STAT_STATE, F.PM_STAT_REQ, F.GL_CTL_PAUSE, F.GL_STAT_PLAN, F.GL_STAT_BANK], t.rd f = s.rd f)
    (h2 : ∀ lo ∈ [R.VL_VAT_HELD_LO, R.FC_EICT_LO, R.FC_NOPRESS_LO, R.FC_EICNA_LO], t.rd2 lo = s.rd2 lo)
    (hl : t.fc.latch = s.fc.latch) (h0 : t.plan0 = s.plan0) (h1 : t.plan1 = s.plan1) : t.inhNow = s.inhNow := by
  simp only [List.forall_mem_cons] at hr h2
  obtain ⟨hstate, hreq, hpause, hplan, hbank, -⟩ := hr
  obtain ⟨hheld, heict, hnopress, heicna, -⟩ := h2
  have hp : t.planVats = s.planVats := by
    rw [Dev.planVats, Dev.planVats, Dev.plan_congr (congrArg (· == 1) hplan) (congrArg (· == 1) hbank) h0 h1]
  have hh : t.held = s.held := funext fun v => by rw [Dev.held, Dev.held, hheld]
  have hctl : t.on F.GL_CTL_PAUSE = s.on F.GL_CTL_PAUSE := congrArg (· == 1) hpause
  have hstat : t.on F.GL_STAT_PLAN = s.on F.GL_STAT_PLAN := congrArg (· == 1) hplan
  rw [Dev.inhNow, Dev.inhNow, hstate, hreq, hctl, hl, hp, hh, heict, hnopress, heicna, hstat]

theorem Dev.inhNow_lt (s : Dev) : s.inhNow < 2 ^ 8 := by
  have hite {c : Prop} [Decidable c] {l m : List Nat} (hl : ∀ b ∈ l, b < 8) (hm : ∀ b ∈ m, b < 8) : ∀ b ∈ (if c then l else m), b < 8 := by
    split
    · exact hl
    · exact hm
  refine maskOf_lt ?_
  simp only [List.forall_mem_append]
  refine ⟨⟨⟨⟨⟨⟨⟨?_, ?_⟩, ?_⟩, ?_⟩, ?_⟩, ?_⟩, ?_⟩, ?_⟩
  all_goals exact hite (by decide) (by decide)

theorem Dev.inhShown_inh (s : Dev) : s.inhShown.rd glInh = s.inhNow := by
  unfold Dev.inhShown
  rw [Dev.rd_wrB_apart _ _ _ _ (by decide) (by decide), Dev.rd_wrB_apart _ _ _ _ (by decide) (by decide), Dev.rd_wr_self _ _ _ (by decide)]
  exact Nat.mod_eq_of_lt s.inhNow_lt

/-- Operations in GL and DE that leave GL_CTL and GL_STAT's PLAN and BANK leave the conditions of the inhibits. -/
theorem Dev.inhNow_of_within {s t : Dev} (hw : Dev.Within [11, 12, 13, 14, 21] s t)
    (hgl : ∀ f ∈ [F.GL_CTL_PAUSE, F.GL_STAT_PLAN, F.GL_STAT_BANK], t.rd f = s.rd f)
    (hl : t.fc.latch = s.fc.latch) (h0 : t.plan0 = s.plan0) (h1 : t.plan1 = s.plan1) : t.inhNow = s.inhNow := by
  refine Dev.inhNow_congr ?_ ?_ hl h0 h1
  · intro f hf
    simp only [List.mem_cons, List.not_mem_nil, or_false] at hf
    obtain rfl | rfl | rfl | rfl | rfl := hf
    · exact hw.rd _ (by decide)
    · exact hw.rd _ (by decide)
    · exact hgl _ (by decide)
    · exact hgl _ (by decide)
    · exact hgl _ (by decide)
  · intro lo hlo
    simp only [List.mem_cons, List.not_mem_nil, or_false] at hlo
    obtain rfl | rfl | rfl | rfl := hlo
    all_goals exact hw.rd2 _ (by decide) (by decide)

theorem Dev.glSync_reg (s : Dev) {off : Nat} (hb : blockOf off = 11) (h1 : off ≠ R.GL_REVOKE) (h2 : off ≠ R.GL_EVT) (h3 : off ≠ R.GL_FORM) :
    s.glSync.reg off = s.inhShown.reg off := by
  rw [Dev.glSync_eq]
  split
  · rfl
  · exact Dev.inhTaken_reg _ _ _ hb h1 h2 h3

theorem Dev.glSync_rd (s : Dev) (f : Fld) (hb : blockOf f.reg = 11 := by decide) (h1 : f.reg ≠ R.GL_REVOKE := by decide)
    (h2 : f.reg ≠ R.GL_EVT := by decide) (h3 : f.reg ≠ R.GL_FORM := by decide) : s.glSync.rd f = s.inhShown.rd f := by
  rw [Dev.rd, Dev.rd, s.glSync_reg hb h1 h2 h3]

theorem Dev.inhShown_rd (s : Dev) (f : Fld) (hi : glInh.apart f = true := by decide) (hs : F.GL_STAT_INH.apart f = true := by decide)
    (hh : F.GL_STAT_HARD.apart f = true := by decide) : s.inhShown.rd f = s.rd f := by
  unfold Dev.inhShown
  rw [Dev.rd_wrB_apart _ _ _ _ (by decide) hh, Dev.rd_wrB_apart _ _ _ _ (by decide) hs, Dev.rd_wr_apart _ _ _ _ (by decide) hi]

theorem Dev.glSync_inhNow (s : Dev) : s.glSync.inhNow = s.inhNow := by
  refine Dev.inhNow_of_within s.glSync_within ?_ (Dev.Lines.glSync s).latch (s.glSync_frame.part .plan0) (s.glSync_frame.part .plan1)
  intro f hf
  simp only [List.mem_cons, List.not_mem_nil, or_false] at hf
  obtain rfl | rfl | rfl := hf
  · exact (s.glSync_rd _).trans (s.inhShown_rd _)
  · exact (s.glSync_rd _).trans (s.inhShown_rd _)
  · exact (s.glSync_rd _).trans (s.inhShown_rd _)

/-- What a step of the inhibits shows is how their conditions stand after it. -/
theorem Dev.glSync_inh (s : Dev) : s.glSync.rd glInh = s.glSync.inhNow := by
  rw [s.glSync_inhNow, s.glSync_rd glInh, s.inhShown_inh]

end Sys2Proof.Machine
end

section
-- One proof after another: in parallel the proofs of this text would not fit the memory that its check allows.
set_option Elab.async false
/-!
PROOFS. What the host asks of the fault collector (13 R302, R303, R308, R309, R314): a forced entry into the safe state, an exit, and the
clears and the snapshot of FC_CLR.
-/
namespace Sys2Proof.Machine

/-! ### Runs and injections that end raise no more than lines -/

theorem Dev.Lines.vatLost (s : Dev) (v : Nat) : Dev.Lines s (s.vatLost v) := by
  have hraise : Dev.Lines s (s.raise 0x0612 2 (srcWord 6 v)) := .raise s _ _ _ _ _
  unfold Dev.vatLost
  exact (hraise.trans (((Dev.regardHeld_frame _ v).modVat v _).lines)).trans (.glSync _)

theorem Dev.Lines.laneLeave (s : Dev) (l st : Nat) : Dev.Lines s (s.laneLeave l st) := by
  unfold Dev.laneLeave
  extract_lets was t u
  have ht : Dev.Lines s t := .of_fc rfl
  have hu : Dev.Lines t u := .when _ t (.of_fc rfl)
  exact (ht.trans hu).trans (.when _ u (.vatLost u _))

theorem Dev.Lines.toDetect (s : Dev) (l : Nat) : Dev.Lines s (s.toDetect l) := by
  unfold Dev.toDetect
  split
  · exact .laneLeave s l 1
  · exact .refl s

theorem Dev.Lines.runRelease (s : Dev) (r : CalRun) : Dev.Lines s (s.runRelease r) := by
  unfold Dev.runRelease
  split
  · exact .of_fc rfl
  · split
    · exact .toDetect s _
    · exact .refl s

theorem Dev.Lines.runOver (s : Dev) (r : CalRun) (code : Nat) : Dev.Lines s (s.runOver r code) := by
  unfold Dev.runOver
  extract_lets t u v
  have ht : Dev.Lines s t := ((s.dropRun_frame r).lines.trans (.runRelease _ r)).trans (Dev.calStat_frame _).lines
  have hv : Dev.Lines t v := (((((Dev.Frame.refl [15] [.evq] t).wr _ _).wr _ _).wr _ _ |>.count _).event _).lines
  clear_value v
  exact (ht.trans hv).trans (.when _ v (((Dev.Frame.refl [15] [.evq] v).count _).event _).lines)

theorem Dev.Lines.runFail (code : Nat) (s : Dev) (r : CalRun) : Dev.Lines s (s.runFail code r) := by
  have h : Dev.Lines s ((s.runOver r code).refuse r.mb code) :=
    (Dev.Lines.runOver s r code).trans ((Dev.Frame.refl [] [.mbx] _).refuse _ _).lines
  unfold Dev.runFail
  dsimp only
  split
  · exact h.trans (Dev.masterReset_frame 4 _).lines
  · exact h

theorem Dev.Lines.abortRuns (p : CalRun → Bool) (s : Dev) : Dev.Lines s (s.abortRuns p) := .each _ _ (fun d r _ => .runFail 3 d r) s

theorem Dev.injCut_frame (s : Dev) (id : Nat) : Dev.Frame [15] [.cal, .evq] s (s.injCut id) := by
  unfold Dev.injCut
  split
  · next j _ =>
    dsimp only
    split
    · exact .refl _ _ s
    · exact ((((Dev.Frame.refl [15] [.cal, .evq] s).cal _).then (Dev.calStat_frame _))).event _
  · exact .refl _ _ s

theorem Dev.abortInj_frame (s : Dev) : Dev.Frame [15, 17] [.cal, .evq, .bm] s s.abortInj :=
  (Dev.Frame.each _ _ s fun d i _ => (d.injCut_frame i).mono).when' _ ((Dev.masterReset_frame 4 _).mono)

theorem Dev.setCmp_frame (s : Dev) (i : Nat) (x : Cmp) : Dev.Frame [] [.tb] s (s.setCmp i x) := (Dev.Frame.refl _ _ s).tb _

theorem Dev.cmpLoad_frame (s : Dev) : Dev.Frame [] [.tb] s s.cmpLoad := by
  unfold Dev.cmpLoad
  extract_lets k j w t u v
  have ht : Dev.Frame [] [.tb] s t := s.setCmp_frame _ _
  clear_value t
  have hu : Dev.Frame [] [.tb] t u := by
    show Dev.Frame [] [.tb] t (if _ then _ else if _ then _ else _)
    split
    · exact t.setCmp_frame _ _
    · split
      · exact t.setCmp_frame _ _
      · exact .refl _ _ t
  clear_value u
  have hv : Dev.Frame [] [.tb] u v := by
    show Dev.Frame [] [.tb] u (if _ then _ else _)
    split
    · exact .refl _ _ u
    · exact u.setCmp_frame _ _
  clear_value v
  have hsuv : Dev.Frame [] [.tb] s v := (ht.trans hu).trans hv
  split
  · exact hsuv
  · split
    · exact hsuv.then (v.setCmp_frame _ _)
    · split
      · exact hsuv.then (v.setCmp_frame _ _)
      · exact hsuv.then (v.setCmp_frame _ _)

theorem Dev.standStill_frame (s : Dev) : Dev.Frame [] [.gl, .tb] s s.standStill :=
  ((Dev.Frame.refl [] [.gl, .tb] s).gl _).then (Dev.cmpLoad_frame _)

theorem Dev.sendFour_frame (s : Dev) (v : Nat) (b : LinkBlk) : Dev.Frame [] [.vl] s (s.sendFour v b) := by
  refine ⟨.of_regs (s.sendFour_regs v b), ?_⟩
  unfold Dev.sendFour
  split
  · exact (Dev.Keeps.modVat s v _).trans (.blkFlush _ v)
  · exact .refl _ s

/-! ### The latch sets (13 R309, R310) -/

/-- Windows and parts that a HOLD of the safe state may reach. -/
def holdParts : List Part := [.vl, .gl, .cal, .de, .evq, .fc, .freeCtr, .trc]

theorem Dev.cancelSlot_frame (r : Nat) (s : Dev) (x : Slot) : Dev.Frame [11, 12, 13, 14, 21] cancelParts s (s.cancelSlot r x) :=
  ⟨s.cancelSlot_within r x, .cancelSlot r s x⟩

theorem Dev.vatHeld_frame (s : Dev) (v eff : Nat) :
    Dev.Frame [6] [.vl] s (((s.modVat v (fun x => { x with holds := x.holds ||| 2 })).holdBlocks v 1 eff).regardHeld v) :=
  (((Dev.Frame.refl [6] [.vl] s).modVat v _).then (Dev.sendFour_frame _ v _)).then (Dev.regardHeld_frame _ v)

theorem Dev.safeHold_frame (s : Dev) : Dev.Frame [6, 11, 12, 13, 14, 21] holdParts s s.safeHold :=
  (((Dev.Frame.refl [6, 11, 12, 13, 14, 21] holdParts s).useFree).trans
    (.each _ _ _ fun d x _ => (Dev.cancelSlot_frame 2 d x).mono)).trans (.each _ _ _ fun d v _ => (d.vatHeld_frame v _).mono)

theorem Dev.Lines.safeHold (s : Dev) : Dev.Lines s s.safeHold := by
  unfold Dev.safeHold
  extract_lets eff t u
  have ht : Dev.Lines s t := .of_fc rfl
  have hu : Dev.Lines t u := .each _ _ (fun d x _ => .cancelSlot 2 d x) t
  exact (ht.trans hu).trans (.each _ _ (fun d v _ => (d.vatHeld_frame v eff).lines) u)


/-! ### One record keeps the latch (13 R302 to R304) -/

theorem mem_insertBy {α : Type} {le : α → α → Bool} {x y : α} : ∀ {l : List α}, y ∈ insertBy le x l ↔ y = x ∨ y ∈ l
  | [] => by simp [insertBy]
  | z :: r => by
    unfold insertBy
    split
    · simp
    · simp only [List.mem_cons, mem_insertBy (l := r)]
      exact or_left_comm

theorem mem_sortBy {α : Type} {le : α → α → Bool} {y : α} : ∀ {l : List α}, y ∈ sortBy le l ↔ y ∈ l
  | [] => Iff.rfl
  | x :: r => by simp only [sortBy, mem_insertBy, List.mem_cons, mem_sortBy (l := r)]

theorem Dev.histPut_latch (s : Dev) (r : Rec) : (s.histPut r).fc.latch = s.fc.latch := by
  have hlost (u : Dev) : ((u.count F.FC_HIST_LOST).event F.FC_EVT_HIST_LOST).fc = u.fc :=
    (((Dev.Frame.refl [18] [.evq] u).count _).event _).part .fc
  unfold Dev.histPut
  dsimp only
  split
  · rfl
  · split
    · rw [hlost]
    · split
      · rw [hlost]
      · rfl

theorem Dev.faultEvent_latch (s : Dev) (r : Rec) (first : Bool) (a : Nat) : (s.faultEvent r first a).fc.latch = s.fc.latch := by
  unfold Dev.faultEvent
  extract_lets l b k old rest held
  split
  · rfl
  · clear_value held old
    cases held
    · rfl
    · cases old
      · rfl
      · rfl

theorem Dev.latchMarks_latch (ls : List Line) (s : Dev) : (s.latchMarks ls).fc.latch = s.fc.latch := by
  have h : (Dev.when (ls.any (fun l => holdOnly l.code.toNat)) (·.wrB F.FC_STAT_RESET_ONLY true) s).fc = s.fc :=
    ((Dev.Frame.refl [18] [] s).when' _ ((Dev.Frame.refl [18] [] s).wrB _ _)).part .fc
  have hlatch := congrArg Fc.latch h
  unfold Dev.latchMarks
  extract_lets t
  split <;> exact hlatch

theorem blockOf_fcCnt (i : Nat) (hi : i < 4) : blockOf (F.FC_CNT_S i).reg ∈ [18] := by
  simp only [F.FC_CNT_S, blockOf, List.mem_singleton]
  omega

theorem Dev.record_latch (s : Dev) (r : Rec) (a : Nat) : (s.record r a).fc.latch = s.fc.latch := by
  unfold Dev.record
  extract_lets l first s1 s2 s3 s4 s5 s6
  have h3 : Dev.Frame [18] [] s s3 := by
    dsimp only [s3]
    split
    · have h1 : Dev.Frame [18] [] s s1 := ((Dev.Frame.refl [18] [] s).wrB _ _).wr _ _ |>.wr _ _
      have h2 : Dev.Frame [18] [] s1 s2 := ((Dev.Frame.refl [18] [] s1).wrB _ _).wrB _ _ |>.wr _ _
      exact (((h1.trans h2).wr _ _).wr2 _ _)
    · exact .refl _ _ s
  have h7 : Dev.Frame [18] [] (s3.histPut r) s6 := (((Dev.Frame.refl [18] [] _).count _ _ (blockOf_fcCnt _ l.sev.isLt)).wr _ _).wr _ _
  clear_value s6 s3
  rw [Dev.faultEvent_latch, Dev.latchMarks_latch, h7.part .fc, Dev.histPut_latch, h3.part .fc]

/-! ### The latch sets (13 R309, R310) -/

/-- The latch itself. -/
def Dev.latchOn (logged : Bool) (s : Dev) : Dev := { s with fc := { s.fc with latch := true, latchLogged := logged, actSince := false } }

/-- What a set of the latch leaves in FC (R309, R310). -/
def Dev.latchSet (hold logged : Bool) (l : Line) (s : Dev) : Dev :=
  let s := ((s.latchOn logged).wr F.FC_STAT_SAFE (if hold then 1 else 2)).wr F.FC_SAFE_SRC l.src.toNat
  ((s.wr F.FC_SAFE_CODE l.code.toNat).wr2 R.FC_SAFE_N_LO s.now).event F.FC_EVT_SAFE_IN

/-- A DARK ramp begins (R311). -/
def Dev.darkBegun (s : Dev) : Dev := { s with le := { s.le with darkN := 0, darkDone := none } }

/-- The outputs of a safe state: injections and runs end, and the vats are held or ramp down (R310, R311). -/
def Dev.safeActs (hold : Bool) (s : Dev) : Dev :=
  let s := (s.abortInj).abortRuns (fun _ => true)
  let s := if hold then s.safeHold else s.darkBegun
  (s.glSync).standStill

/-- A cause while the latch is set; one that asks for HOLD ends a DARK ramp. -/
def Dev.safeAgain (hold logged : Bool) (s : Dev) : Dev :=
  let s := { s with fc := { s.fc with latchLogged := s.fc.latchLogged || logged } }
  if hold && s.rd F.FC_STAT_SAFE == 2 then ({ s.wr F.FC_STAT_SAFE 1 with le := { s.le with darkDone := none } }).safeHold else s

theorem Dev.safeEnter_latched {s : Dev} (h : s.fc.latch = true) (hold logged : Bool) (l : Line) :
    s.safeEnter hold logged l = (s.safeAgain hold logged).glSync := by
  unfold Dev.safeEnter
  rw [h]
  rfl

theorem Dev.safeEnter_unlatched {s : Dev} (h : s.fc.latch = false) (hold logged : Bool) (l : Line) :
    s.safeEnter hold logged l = (s.latchSet hold logged l).safeActs hold := by
  unfold Dev.safeEnter
  rw [h]
  rfl

theorem Dev.latchSet_latch (hold logged : Bool) (l : Line) (s : Dev) : (s.latchSet hold logged l).fc.latch = true := by
  have h : (s.latchSet hold logged l).fc = (s.latchOn logged).fc :=
    (((((Dev.Frame.refl [18] [.evq] (s.latchOn logged)).wr _ _).wr _ _).wr _ _).wr2 _ _ |>.event _).part .fc
  rw [h]
  rfl

theorem Dev.latchSet_safe (hold logged : Bool) (l : Line) (s : Dev) :
    (s.latchSet hold logged l).rd F.FC_STAT_SAFE = if hold then 1 else 2 := by
  have hwr : ((s.latchOn logged).wr F.FC_STAT_SAFE (if hold then 1 else 2)).rd F.FC_STAT_SAFE = if hold then 1 else 2 := by
    rw [Dev.rd_wr_self _ _ _ (by decide)]
    cases hold <;> rfl
  unfold Dev.latchSet
  extract_lets u
  have hu : u.rd F.FC_STAT_SAFE = if hold then 1 else 2 := (Dev.rd_wr_apart _ _ _ _ (by decide) (by decide)).trans hwr
  clear_value u
  have hwr2 (x : Dev) (n : Nat) : (x.wr2 R.FC_SAFE_N_LO n).rd F.FC_STAT_SAFE = x.rd F.FC_STAT_SAFE :=
    congrArg (fun w => w.toNat / 2 ^ 12 % 2 ^ 2) (Dev.reg_wr2_ne x (lo := R.FC_SAFE_N_LO) (j := F.FC_STAT_SAFE.reg) (by decide) (by decide) n)
  rw [Dev.rd_event_apart _ _ _ (by decide) (by decide), hwr2, Dev.rd_wr_apart _ _ _ _ (by decide) (by decide), hu]

theorem Dev.safeActs_lines (hold : Bool) (s : Dev) : Dev.Lines s (s.safeActs hold) := by
  unfold Dev.safeActs
  extract_lets t u
  have ht : Dev.Lines s t := s.abortInj_frame.lines.trans (.abortRuns _ _)
  have hu : Dev.Lines t u := by
    dsimp only [u]
    split
    · exact .safeHold t
    · exact .of_fc rfl
  exact ((ht.trans hu).trans (.glSync u)).trans (Dev.standStill_frame _).lines

theorem Dev.safeActs_within (hold : Bool) (s : Dev) : Dev.Within runWindows s (s.safeActs hold) := by
  unfold Dev.safeActs
  extract_lets t u
  have ht : Dev.Within runWindows s t := (s.abortInj_frame.within.mono (by decide)).trans (Dev.abortRuns_frame _ _).within
  have hu : Dev.Within runWindows t u := by
    dsimp only [u]
    split
    · exact t.safeHold_frame.within.mono (by decide)
    · exact .of_regs rfl
  exact ((ht.trans hu).trans (u.glSync_within.mono (by decide))).trans ((Dev.standStill_frame _).within.mono (by decide))

theorem Dev.safeAgain_latch (hold logged : Bool) (s : Dev) : (s.safeAgain hold logged).fc.latch = s.fc.latch := by
  unfold Dev.safeAgain
  dsimp only
  split
  · rw [(Dev.Lines.safeHold _).latch]
    rfl
  · rfl

theorem Dev.safeEnter_latch (hold logged : Bool) (l : Line) (s : Dev) : (s.safeEnter hold logged l).fc.latch = true := by
  cases h : s.fc.latch with
  | false => rw [Dev.safeEnter_unlatched h, (Dev.safeActs_lines _ _).latch, Dev.latchSet_latch]
  | true =>
    rw [Dev.safeEnter_latched h, (Dev.Lines.glSync _).latch, Dev.safeAgain_latch, h]

theorem Dev.safeEnter_hold {s : Dev} (h : s.fc.latch = false) (logged : Bool) (l : Line) : (s.safeEnter true logged l).rd F.FC_STAT_SAFE = 1 := by
  rw [Dev.safeEnter_unlatched h, (Dev.safeActs_within _ _).rd _ (by decide), Dev.latchSet_safe]
  rfl

/-! ### A forced entry (13 R309) -/

theorem Dev.recordAll_latch (hold : Bool) (ls : List Raised) (s : Dev) : (s.recordAll hold ls).fc.latch = s.fc.latch := by
  unfold Dev.recordAll
  extract_lets grp gid t safe act
  have ht : t.fc = s.fc := ((Dev.Frame.refl [18] [] s).when' _ ((Dev.Frame.refl [18] [] s).wr _ _)).part .fc
  rw [Dev.each_eq (·.fc.latch) ls _ t fun _ _ => Dev.record_latch _ _ _, ht]

theorem Dev.collect_forced {s : Dev} (hclk : s.unclocked = false) {c : Raised} (hc : c ∈ s.fc.lines) (hcode : c.line.code = 0x1202) :
    ∃ u hold logged l, s.collect [] 0 = Dev.safeEnter hold logged l u ∧ u.fc.latch = s.fc.latch ∧ (c.line.info = 1 → hold = true) := by
  unfold Dev.collect
  rw [if_neg (by rw [hclk]; decide)]
  extract_lets ls f t u causes hold v
  have hmem : c ∈ ls := by
    dsimp only [ls]
    rw [List.map_nil, List.append_nil]
    exact mem_sortBy.mpr hc
  have hcause : c ∈ causes := List.mem_filter.mpr ⟨hmem, by simp [Dev.asksSafe, hcode]⟩
  have hhold (h : c.line.info = 1) : hold = true := List.any_eq_true.mpr ⟨c, hcause, by simp [Dev.asksHold, hcode, h]⟩
  have hu : u.fc.latch = s.fc.latch := by
    have hprot : u.fc = t.fc := ((Dev.Frame.refl [18] [] t).when' _ (((Dev.Frame.refl [18] [] t).wrB _ _).wrB _ _)).part .fc
    rw [hprot]
    rfl
  have hv : v.fc.latch = s.fc.latch := (Dev.recordAll_latch _ _ _).trans hu
  clear_value causes v
  cases causes with
  | nil => exact absurd hcause List.not_mem_nil
  | cons x r => exact ⟨v, hold, _, x.line, rfl, hv, hhold⟩

/-- A forced entry sets the latch, and one for HOLD enters it. -/
theorem Dev.force_spec {s : Dev} (hclk : s.unclocked = false) (b : Bool) :
    (s.force b).fc.latch = true ∧ (s.fc.latch = false → b = true → (s.force b).rd F.FC_STAT_SAFE = 1) := by
  obtain ⟨u, hold, logged, l, he, hu, hhold⟩ := Dev.collect_forced (s := s.raise 0x1202 2 (srcWord 18) (if b then 1 else 0)) hclk
    (List.mem_append_right _ (List.mem_singleton_self _)) rfl
  have hforce : s.force b = Dev.safeEnter hold logged l u := he
  rw [hforce]
  refine ⟨Dev.safeEnter_latch _ _ _ _, fun hl hb => ?_⟩
  subst hb
  rw [hhold rfl]
  exact Dev.safeEnter_hold (hu.trans hl) _ _

/-! ### GL takes up its position (06 R138, R140) -/

/-- Windows and parts that GL's walk may reach. -/
def walkWindows : List Nat := [11, 12, 13, 14, 21]
def walkParts : List Part := [.tb, .gl, .cal, .de, .evq, .fc, .freeCtr]

theorem Dev.decisionNotes_frame (s : Dev) (x : Slot) (b : Bool) (f : Option Nat) : Dev.Frame [11, 21] [.evq, .fc] s (s.decisionNotes x b f) := by
  unfold Dev.decisionNotes
  extract_lets t u v w
  have ht : Dev.Frame [11, 21] [.evq, .fc] s t := (s.pcClock_frame _ _ _).mono
  have hu : Dev.Frame [11, 21] [.evq, .fc] t u :=
    .when _ _ t ((((Dev.Frame.refl [11, 21] [.evq, .fc] t).count _).event _).then (Dev.pcClock_frame _ _ _ _))
  have hv : Dev.Frame [11, 21] [.evq, .fc] u v := .when _ _ u ((Dev.Frame.refl _ _ u).event _)
  have hw : Dev.Frame [11, 21] [.evq, .fc] v w := by
    cases f with
    | some n => exact (Dev.Frame.refl _ _ v).raise _ _ _ _ _
    | none => exact .refl _ _ v
  exact (((ht.trans hu).trans hv).trans hw).when' _
    (((Dev.Frame.refl [11, 21] [.evq, .fc] w).count _).then (Dev.pcClock_frame _ _ _ _))

theorem Dev.decisionNotes_lines (s : Dev) (x : Slot) (b : Bool) (f : Option Nat) : Dev.Lines s (s.decisionNotes x b f) := by
  unfold Dev.decisionNotes
  extract_lets t u v w
  have ht : Dev.Lines s t := (s.pcClock_frame _ _ _).lines
  have hu : Dev.Lines t u :=
    .when _ t ((((Dev.Frame.refl [11, 21] [.evq] t).count _).event _).then (Dev.pcClock_frame _ _ _ _)).lines
  have hv : Dev.Lines u v := .when _ u ((Dev.Frame.refl [11] [.evq] u).event _).lines
  have hw : Dev.Lines v w := by
    cases f with
    | some n => exact .raise v _ _ _ _ _
    | none => exact .refl v
  exact (((ht.trans hu).trans hv).trans hw).trans (.when _ w (((Dev.Frame.refl [11, 21] [.evq] w).count _).then (Dev.pcClock_frame _ _ _ _)).lines)

theorem Dev.drainSlot_each (s : Dev) (p : Plan) (x : Slot) {P : Dev → Dev → Prop} (hrefl : ∀ u, P u u)
    (htrans : ∀ {u v w}, P u v → P v w → P u w) (hop : ∀ u o, P u (Dev.bankOp u o)) : P s (s.drainSlot p x) := by
  have heach {α : Type} (r : List α) (f : Dev → α → Dev) (hf : ∀ u a, P u (f u a)) : ∀ u, P u (Dev.each r f u) := by
    induction r with
    | nil => exact hrefl
    | cons a r ih => exact fun u => htrans (hf u a) (ih _)
  unfold Dev.drainSlot
  split
  · exact hrefl s
  · refine heach _ _ (fun u oi => ?_) s
    extract_lets d
    have hd : P u d := by
      dsimp only [d]
      split
      · exact hrefl u
      · exact hop u _
    clear_value d
    split
    · exact htrans hd (hop d _)
    · exact hd

theorem Dev.announce_frame (s : Dev) (x : Slot) (n : Nat) : Dev.Frame [13, 14] [] s (s.announce x n) := by
  unfold Dev.announce
  extract_lets wire achk parts
  split
  · exact .refl _ _ s
  · exact .each _ _ s fun d i _ => Dev.rpSend_frame d _ _ (by decide)

/-- Slot k stands decided, and the next one is due after it. -/
def Dev.slotQueued (s : Dev) (q nx : Pos) (x : Slot) : Dev :=
  { s with gl := { s.gl with dec := s.gl.dec ++ [x], decK := nx.k, decEntry := nx.entry, decM := nx.b,
                             decBank := nx.bank, choice := none, annEp := if x.announced then some x.epoch else s.gl.annEp,
                             voidRun := if s.gl.voidRun = some q.k then none else s.gl.voidRun } }
def Dev.slotListed (s : Dev) (q nx : Pos) (x : Slot) (st : List Stint) : Dev :=
  { s.slotQueued q nx x with cal := { s.cal with stints := st } }

theorem Dev.decidePos_eq (late : Bool) (q : Pos) (p : Plan) (s : Dev) : ∃ x b f nx st,
    s.decidePos late q p = (((((s.decisionNotes x b f).slotListed q nx x st).drainSlot p x).announce x p.nin).formNext) := ⟨_, _, _, _, _, rfl⟩

theorem Dev.decidePos_frame (late : Bool) (q : Pos) (p : Plan) (s : Dev) : Dev.Frame walkWindows walkParts s (s.decidePos late q p) := by
  obtain ⟨x, b, f, nx, st, h⟩ := Dev.decidePos_eq late q p s
  rw [h]
  have hlist (u : Dev) : Dev.Frame walkWindows walkParts u (u.slotListed q nx x st) :=
    .cal (t := u.slotQueued q nx x) ((Dev.Frame.refl walkWindows walkParts u).gl _) _
  have hdrain (u : Dev) : Dev.Frame walkWindows walkParts u (u.drainSlot p x) :=
    Dev.drainSlot_each u p x (.refl _ _) .trans fun v o => (Dev.bankOp_frame v o).mono
  exact ((((s.decisionNotes_frame x b f).mono.trans (hlist _)).trans (hdrain _)).then (Dev.announce_frame _ _ _)).then (Dev.formNext_frame _)

theorem Dev.decidePos_lines (late : Bool) (q : Pos) (p : Plan) (s : Dev) : Dev.Lines s (s.decidePos late q p) := by
  obtain ⟨x, b, f, nx, st, h⟩ := Dev.decidePos_eq late q p s
  rw [h]
  have hlist (u : Dev) : Dev.Lines u (u.slotListed q nx x st) := .of_fc rfl
  have hdrain (u : Dev) : Dev.Lines u (u.drainSlot p x) := Dev.drainSlot_each u p x .refl .trans .bankOp
  exact ((((s.decisionNotes_lines x b f).trans (hlist _)).trans (hdrain _)).trans (Dev.announce_frame _ _ _).lines).trans (Dev.formNext_frame _).lines

theorem Dev.decideLate_frame (s : Dev) : Dev.Frame walkWindows walkParts s s.decideLate := by
  unfold Dev.decideLate
  extract_lets q
  split
  · exact .refl _ _ s
  · exact Dev.decidePos_frame _ _ _ s

theorem Dev.decideLate_lines (s : Dev) : Dev.Lines s s.decideLate := by
  unfold Dev.decideLate
  extract_lets q
  split
  · exact .refl s
  · exact Dev.decidePos_lines _ _ _ s

/-- GL walks from entry e, whose boundary is at sample b, and the next slot to decide is q. -/
def Dev.walkFrom (s : Dev) (e b : Nat) : Dev := { s with gl := { s.gl with walking := true, entry := e, nextB := b, owed := 0 } }
def Dev.dueAt (s : Dev) (q : Pos) : Dev :=
  { s with gl := { s.gl with decK := q.k, decEntry := q.entry, decM := q.b, decBank := q.bank, choice := none } }

theorem Dev.resume_eq (n : Nat) (s : Dev) : s.resume n = s ∨ ∃ k e m c q atB x y t, Dev.Frame [11] [] s t ∧
    t = Dev.when c (·.wrB F.GL_FORM_CUR_NOCHG true) (((s.wr2 R.GL_SLOT_LO k).wr F.GL_STAT_ENTRY e).wr2 R.GL_NEXTB_LO m) ∧
    s.resume n = Dev.when atB (·.setCmp 1 y) (Dev.when (!atB) Dev.decideLate ((t.walkFrom x m).dueAt q).decideLate).cmpLoad := by
  unfold Dev.resume
  split
  · split
    · exact .inl rfl
    · exact .inr ⟨_, _, _, _, _, _, _, _, _, ((((Dev.Frame.refl [11] [] s).wr2 _ _).wr _ _).wr2 _ _).when' _ ((Dev.Frame.refl [11] [] _).wrB _ _), rfl, rfl⟩
  · exact .inl rfl

theorem Dev.resume_frame (n : Nat) (s : Dev) : Dev.Frame walkWindows walkParts s (s.resume n) := by
  obtain h | ⟨k, e, m, c, q, atB, x, y, t, ht, -, h⟩ := s.resume_eq n
  · rw [h]
    exact .refl _ _ s
  · rw [h]
    have hdue : Dev.Frame walkWindows walkParts t ((t.walkFrom x m).dueAt q) := ((Dev.Frame.refl _ _ t).gl _).gl _
    have hlate := ((ht.mono).trans hdue).trans (Dev.decideLate_frame _)
    exact ((hlate.when' _ (Dev.decideLate_frame _)).then (Dev.cmpLoad_frame _)).when' _ ((Dev.setCmp_frame _ _ _).mono)

theorem Dev.resume_lines (n : Nat) (s : Dev) : Dev.Lines s (s.resume n) := by
  obtain h | ⟨k, e, m, c, q, atB, x, y, t, ht, -, h⟩ := s.resume_eq n
  · rw [h]
    exact .refl s
  · rw [h]
    have hdue : Dev.Lines t ((t.walkFrom x m).dueAt q) := .of_fc rfl
    have hlate := (ht.lines.trans hdue).trans (Dev.decideLate_lines _)
    exact ((hlate.trans (.when _ _ (Dev.decideLate_lines _))).trans (Dev.cmpLoad_frame _).lines).trans (.when _ _ (Dev.setCmp_frame _ _ _).lines)

/-! ### An exit (13 R314) -/

/-- What one of the steps sets, and every step keeps, holds after all of them. -/
theorem Dev.each_mem {α : Type} {Q P : Dev → Prop} {f : Dev → α → Dev} (hQ : ∀ s a, Q s → Q (f s a)) (hkeep : ∀ s a, Q s → P s → P (f s a))
    {x : α} (hset : ∀ s, Q s → P (f s x)) (l : List α) : ∀ {s : Dev}, Q s → x ∈ l → P (Dev.each l f s) := by
  have hrest (m : List α) : ∀ (u : Dev), Q u → P u → P (Dev.each m f u) := by
    induction m with
    | nil => exact fun u _ hp => hp
    | cons b m ih => exact fun u hq hp => ih _ (hQ u b hq) (hkeep u b hq hp)
  induction l with
  | nil => exact fun _ h => absurd h List.not_mem_nil
  | cons a l ih =>
    intro s hs hx
    obtain rfl | hmem := List.mem_cons.mp hx
    · exact hrest l _ (hQ s _ hs) (hset s hs)
    · exact ih (hQ s a hs) hmem

theorem Dev.modVat_other {u v : Nat} (h : u ≠ v) (f : Vat → Vat) (s : Dev) : (s.modVat v f).vat u = s.vat u :=
  Tbl.get_mod_ne _ (Ne.symm h) _

theorem unhold_bit (x : BitVec 4) : bit (x &&& ~~~(BitVec.ofNat 4 (2 ^ 1))).toNat 1 = false := by
  revert x
  decide

theorem Dev.unholdAll_bit (s : Dev) {u : Nat} (hu : u < 64) :
    bit ((Dev.each (List.range 64) (fun s v => s.unhold 1 v) s).vat u).holds.toNat 1 = false := by
  have hself (d : Dev) : bit ((d.unhold 1 u).vat u).holds.toNat 1 = false := by
    rw [Dev.unhold, Dev.modVat_self]
    exact unhold_bit _
  refine Dev.each_mem (Q := fun _ => True) (P := fun d => bit (d.vat u).holds.toNat 1 = false) (fun _ _ _ => trivial) ?_ (x := u)
    (fun d _ => hself d) _ trivial (List.mem_range.mpr hu)
  intro d v _ hd
  by_cases hv : v = u
  · subst hv
    exact hself d
  · rw [Dev.unhold, Dev.modVat_other (Ne.symm hv)]
    exact hd

/-- The latch and what it had marked are clear. -/
def Dev.latchOff (s : Dev) : Dev :=
  { s with fc := { s.fc with latch := false, latchLogged := false, overrun := false }, le := { s.le with darkDone := none } }

/-- The safe state is left, before GL takes up its position again. -/
def Dev.safeLeft (s : Dev) : Dev :=
  ((Dev.each (List.range 64) (fun s v => s.unhold 1 v) ((s.wr F.FC_STAT_SAFE 0).wrB F.FC_STAT_DIRECT false).latchOff).glSync).event F.FC_EVT_SAFE_OUT

theorem Dev.safeExit_eq (s : Dev) : s.safeExit = if !s.exitOk then s.event F.FC_EVT_EXIT_REFUSED else
    if s.safeLeft.coreUp && s.safeLeft.pm.p3 != .woken then s.safeLeft.resume s.safeLeft.now else s.safeLeft := rfl

/-- What an exit leaves of PM is what it found: the core keeps its clock. -/
theorem Dev.safeLeft_spec (s : Dev) : s.safeLeft.rd F.FC_STAT_SAFE = 0 ∧ s.safeLeft.fc.latch = false ∧ s.safeLeft.on F.FC_EVT_SAFE_OUT = true ∧
    (∀ u, u < 64 → bit (s.safeLeft.vat u).holds.toNat 1 = false) ∧ s.safeLeft.pm = s.pm := by
  have hpm : ((s.wr F.FC_STAT_SAFE 0).wrB F.FC_STAT_DIRECT false).latchOff.pm = s.pm := rfl
  have hsafe : ((s.wr F.FC_STAT_SAFE 0).wrB F.FC_STAT_DIRECT false).latchOff.rd F.FC_STAT_SAFE = 0 :=
    (Dev.rd_wrB_apart _ _ _ _ (by decide) (by decide)).trans (Dev.rd_wr_self _ _ _ (by decide))
  have hlatch : ((s.wr F.FC_STAT_SAFE 0).wrB F.FC_STAT_DIRECT false).latchOff.fc.latch = false := rfl
  unfold Dev.safeLeft
  generalize ((s.wr F.FC_STAT_SAFE 0).wrB F.FC_STAT_DIRECT false).latchOff = a at hpm hsafe hlatch
  have hf1 : Dev.Frame [] [.vl] a (Dev.each (List.range 64) (fun s v => s.unhold 1 v) a) :=
    .each _ _ a fun d v _ => (Dev.Frame.refl _ _ d).modVat v _
  have hbits {u : Nat} (hu : u < 64) := a.unholdAll_bit hu
  generalize Dev.each (List.range 64) (fun s v => s.unhold 1 v) a = b at hf1 hbits
  have hf2 := b.glSync_frame
  have hev : (b.glSync.event F.FC_EVT_SAFE_OUT).fc = b.glSync.fc := Dev.event_fc _ _
  have hl2 := (Dev.Lines.glSync b).latch
  refine ⟨?_, ?_, Dev.on_event_self _ _ (by decide) rfl, fun u hu => ?_, ?_⟩
  · rw [Dev.rd_event_apart _ _ _ (by decide) (by decide), hf2.rd _, hf1.rd _, hsafe]
  · rw [hev, hl2, hf1.part .fc, hlatch]
  · rw [Dev.vat_of_vl (Dev.event_vl _ _), Dev.vat_of_vl (hf2.part .vl)]
    exact hbits hu
  · rw [Dev.event_pm, hf2.part .pm, hf1.part .pm, hpm]

theorem Dev.safeExit_spec {s : Dev} (h : s.exitOk = true) : s.safeExit.rd F.FC_STAT_SAFE = 0 ∧ s.safeExit.fc.latch = false ∧
    s.safeExit.on F.FC_EVT_SAFE_OUT = true ∧ ∀ u, u < 64 → bit (s.safeExit.vat u).holds.toNat 1 = false := by
  obtain ⟨hsafe, hlatch, hout, hvats, -⟩ := s.safeLeft_spec
  rw [Dev.safeExit_eq, h]
  simp only [Bool.not_true, Bool.false_eq_true, if_false]
  split
  · have hf := s.safeLeft.resume_frame s.safeLeft.now
    exact ⟨(hf.rd _).trans hsafe, (s.safeLeft.resume_lines _).latch.trans hlatch, (hf.on _).trans hout,
      fun u hu => by rw [Dev.vat_of_vl (hf.part .vl)]; exact hvats u hu⟩
  · exact ⟨hsafe, hlatch, hout, hvats⟩

theorem Dev.safeExit_pm (s : Dev) : s.safeExit.pm = s.pm := by
  obtain ⟨-, -, -, -, hpm⟩ := s.safeLeft_spec
  have hresume : (s.safeLeft.resume s.safeLeft.now).pm = s.safeLeft.pm := (s.safeLeft.resume_frame _).part .pm
  rw [Dev.safeExit_eq]
  split
  · exact Dev.event_pm s _
  · split
    · exact hresume.trans hpm
    · exact hpm

theorem Dev.bpCount_reg (s : Dev) (js : List Nat) (e n : Nat) {off : Nat} (h : off % 32 ≠ 16) (h' : off % 32 ≠ 20) :
    (s.bpCount js e n).reg off = s.reg off := by
  refine Dev.each_eq (·.reg off) js _ s fun d j => ?_
  have hlo : R.PC_BPCNT_LO j ≠ off := by simp only [R.PC_BPCNT_LO]; omega
  have hhi : R.PC_BPCNT_LO j + 4 ≠ off := by simp only [R.PC_BPCNT_LO]; omega
  split
  · exact Dev.reg_wr2_ne d hlo hhi _
  · rfl

/-- A granted access counts in the bus-port counters, whose words are the only registers it reaches. -/
theorem Dev.t6_reg (s : Dev) (via : Via) (o : Nat) (wr : Bool) {off : Nat} (h : off % 32 ≠ 16) (h' : off % 32 ≠ 20) :
    (s.t6 via o wr).reg off = s.reg off := by
  have hbeats (d : Dev) (w : BmW) : (d.bpBeats w).reg off = d.reg off := by
    unfold Dev.bpBeats
    dsimp only
    rw [Dev.bpCount_reg _ _ _ _ h h', Dev.bpCount_reg _ _ _ _ h h', Dev.bpCount_reg _ _ _ _ h h']
  have hgrant (d : Dev) (w : BmW) : (d.bpGrant w).reg off = d.reg off := by
    unfold Dev.bpGrant
    dsimp only
    split
    · rw [hbeats, Dev.bpCount_reg _ _ _ _ h h']
    · rw [Dev.bpCount_reg _ _ _ _ h h']
  show (Dev.when (!wr) (·.bpBeats (s.viaW via o wr)) (s.bpGrant (s.viaW via o wr))).reg off = s.reg off
  cases wr
  · exact (hbeats _ _).trans (hgrant _ _)
  · simp only [Dev.when, Bool.not_true, Bool.false_eq_true, if_false]
    exact hgrant s _

/-- What judges an exit is the same once a write has been granted. -/
theorem Dev.exitOk_t6 (s : Dev) (via : Via) (off : Nat) (wr : Bool) : (s.t6 via off wr).exitOk = s.exitOk := by
  have h := Dev.t6_frame via off wr s
  have hplan : (s.t6 via off wr).planVats = s.planVats := by
    rw [Dev.planVats, Dev.planVats, Dev.plan_congr (h.on _) (h.on _) (h.part .plan0) (h.part .plan1)]
  have hlane : (s.t6 via off wr).laneActive = s.laneActive := by
    funext k
    have hreg : (s.t6 via off wr).reg (F.VL_LSTAT_STATE k).reg = s.reg (F.VL_LSTAT_STATE k).reg :=
      s.t6_reg via off wr (by simp only [F.VL_LSTAT_STATE]; omega) (by simp only [F.VL_LSTAT_STATE]; omega)
    rw [Dev.laneActive, Dev.laneActive, Dev.rd, Dev.rd, hreg]
  have hvats : (s.t6 via off wr).vatActive = s.vatActive := by
    funext v
    rw [Dev.vatActive, Dev.vatActive, hlane]
  unfold Dev.exitOk
  rw [h.rd F.FC_STAT_SAFE, h.on F.FC_STAT_RESET_ONLY, h.on F.PM_STAT_WAKEFLT, h.on F.TH_STAT_TRIP, h.part .fc, h.on F.FC_CFG_S2_SAFE,
    h.on F.TB_REF_STAT_A_OK, h.on F.TB_REF_STAT_B_OK, h.on F.TB_STAT_HO_EXCEED, hplan, hvats, h.within.rd2 R.FC_EICT_LO (by decide) (by decide),
    h.within.rd2 R.FC_NOPRESS_LO (by decide) (by decide),
    h.on F.DE_STAT_PORTS_DOWN]

/-! ### The snapshot and the clears (13 R302, R303, R308) -/

theorem Dev.clrFirst_frame (s : Dev) : Dev.Frame [18] [] s s.clrFirst :=
  ((((((Dev.Frame.refl [18] [] s).wrB _ _).setReg _ _).setReg _ _).setReg _ _)).wr2 _ _

theorem Dev.clrFirst_spec (s : Dev) : s.clrFirst.on F.FC_STAT_FIRST_VALID = false ∧ s.clrFirst.reg R.FC_FIRST_CODE = 0 ∧
    s.clrFirst.reg R.FC_FIRST_SRC = 0 ∧ s.clrFirst.reg R.FC_FIRST_INFO = 0 ∧ s.clrFirst.rd2 R.FC_FIRST_N_LO = 0 := by
  have hreg (off : Nat) (h : R.FC_FIRST_N_LO ≠ off) (h' : R.FC_FIRST_N_LO + 4 ≠ off) : s.clrFirst.reg off =
      ((((s.wrB F.FC_STAT_FIRST_VALID false).setReg R.FC_FIRST_CODE 0).setReg R.FC_FIRST_SRC 0).setReg R.FC_FIRST_INFO 0).reg off :=
    Dev.reg_wr2_ne _ h h' _
  refine ⟨?_, ?_, ?_, ?_, Dev.rd2_wr2_self _ _ _⟩
  · rw [Dev.on, Dev.rd, hreg _ (by decide) (by decide), Dev.reg_setReg_ne _ (by decide), Dev.reg_setReg_ne _ (by decide),
      Dev.reg_setReg_ne _ (by decide)]
    exact Dev.on_wrB_self s _ false (by decide) rfl
  · rw [hreg _ (by decide) (by decide), Dev.reg_setReg_ne _ (by decide), Dev.reg_setReg_ne _ (by decide), Dev.reg_setReg_self]
  · rw [hreg _ (by decide) (by decide), Dev.reg_setReg_ne _ (by decide), Dev.reg_setReg_self]
  · rw [hreg _ (by decide) (by decide), Dev.reg_setReg_self]

/-- What none of the steps changes is the same after all of them. -/
theorem Dev.each_same {α β : Type} (g : Dev → β) (f : Dev → α → Dev) {l : List α} (h : ∀ s, ∀ a ∈ l, g (f s a) = g s) :
    ∀ s, g (Dev.each l f s) = g s := by
  induction l with
  | nil => exact fun _ => rfl
  | cons a l ih => exact fun s => (ih (fun u b hb => h u b (List.mem_cons_of_mem _ hb)) _).trans (h s a (List.mem_cons_self ..))

/-- Eight words from one address on. -/
def Dev.rowPut (base : Nat) (ws : List Nat) (s : Dev) : Dev :=
  Dev.each (List.range 8) (fun s w => s.setReg (base + 4 * w) (BitVec.ofNat 32 (ws.getD w 0))) s

theorem Dev.rowPut_frame (base : Nat) (ws : List Nat) (s : Dev) (hb : ∀ w, w < 8 → blockOf (base + 4 * w) = 18) :
    Dev.Frame [18] [] s (s.rowPut base ws) :=
  .each _ _ s fun d w hw => (Dev.Frame.refl [18] [] d).setReg _ _ (List.mem_singleton.mpr (hb w (List.mem_range.mp hw)))

theorem Dev.rowPut_fc (base : Nat) (ws : List Nat) (s : Dev) : (s.rowPut base ws).fc = s.fc := by
  refine Dev.each_same (·.fc) _ ?_ s
  exact fun _ _ _ => rfl

theorem Dev.rowPut_self (base : Nat) (ws : List Nat) (s : Dev) {w : Nat} (hw : w < 8) :
    (s.rowPut base ws).reg (base + 4 * w) = BitVec.ofNat 32 (ws.getD w 0) := by
  refine Dev.each_mem (Q := fun _ => True) (P := fun d => d.reg (base + 4 * w) = BitVec.ofNat 32 (ws.getD w 0)) (fun _ _ _ => trivial) ?_ (x := w)
    (fun d _ => Dev.reg_setReg_self _ _ _) _ trivial (List.mem_range.mpr hw)
  intro d x _ hd
  by_cases h : x = w
  · rw [h]
    exact Dev.reg_setReg_self _ _ _
  · rw [Dev.reg_setReg_ne _ (by omega)]
    exact hd

theorem Dev.rowPut_other (base : Nat) (ws : List Nat) (s : Dev) {off : Nat} (h : ∀ w, w < 8 → base + 4 * w ≠ off) :
    (s.rowPut base ws).reg off = s.reg off :=
  Dev.each_same (·.reg off) _ (fun d w hw => Dev.reg_setReg_ne d (h w (List.mem_range.mp hw)) _) s

/-- The words that the snapshot shows of entry i of the queue. -/
def histWords (h : List Rec) (i : Nat) : List Nat :=
  match h[i]? with
  | some r => r.words
  | none => []

def Dev.hsnapRow (s : Dev) (i : Nat) : Dev := s.rowPut (R.FC_HIST_0 i) (histWords s.fc.hist i)

theorem Dev.hsnap_spec (s : Dev) {i w : Nat} (hi : i < 32) (hw : w < 8) :
    s.hsnap.reg (R.FC_HIST_0 i + 4 * w) = BitVec.ofNat 32 ((histWords s.fc.hist i).getD w 0) := by
  have heq (d : Dev) (hd : d.fc.hist = s.fc.hist) : d.hsnapRow i = d.rowPut (R.FC_HIST_0 i) (histWords s.fc.hist i) := by
    rw [Dev.hsnapRow, hd]
  refine Dev.each_mem (f := Dev.hsnapRow) (Q := fun d => d.fc.hist = s.fc.hist)
    (P := fun d => d.reg (R.FC_HIST_0 i + 4 * w) = BitVec.ofNat 32 ((histWords s.fc.hist i).getD w 0)) ?_ ?_ (x := i) ?_ _ rfl (List.mem_range.mpr hi)
  · intro d j hd
    rw [Dev.hsnapRow, Dev.rowPut_fc]
    exact hd
  · intro d j hd hp
    by_cases hj : j = i
    · rw [hj, heq d hd, Dev.rowPut_self _ _ _ hw]
    · refine (Dev.rowPut_other _ _ d fun x hx => ?_).trans hp
      simp only [R.FC_HIST_0]
      omega
  · intro d hd
    rw [heq d hd, Dev.rowPut_self _ _ _ hw]

theorem Dev.hsnap_frame (s : Dev) : Dev.Frame [18] [] s s.hsnap :=
  .each _ _ s fun d i hi => Dev.rowPut_frame _ _ d fun w hw => by
    have hi := List.mem_range.mp hi
    simp only [R.FC_HIST_0, blockOf]
    omega

theorem Dev.clrNopress_frame (s : Dev) : Dev.Frame [11, 12, 13, 14, 18, 21] cancelParts s s.clrNopress :=
  ((Dev.Frame.refl _ _ s).wr2 _ _).then (Dev.glSync_frame _)

theorem Dev.clrNopress_spec (s : Dev) : s.clrNopress.rd2 R.FC_NOPRESS_LO = 0 ∧ s.clrNopress.rd glInh = s.clrNopress.inhNow :=
  ⟨((Dev.glSync_within _).rd2 _ (by decide) (by decide)).trans (Dev.rd2_wr2_self _ _ _), Dev.glSync_inh _⟩

theorem foldl_clrBit_le (l : List Nat) : ∀ v, l.foldl clrBit v ≤ v := by
  induction l with
  | nil => exact fun v => le_refl v
  | cons b l ih =>
    intro v
    refine (ih _).trans ?_
    unfold clrBit
    split
    · exact Nat.sub_le _ _
    · exact le_refl _

/-- The clearable bits of EIC_TIME are clear, before GL looks at them. -/
def Dev.eictClear (s : Dev) : Dev :=
  { s.wr2 R.FC_EICT_LO (s.fc.eictClr.foldl clrBit (s.rd2 R.FC_EICT_LO)) with fc := { s.fc with eictClr := [] } }

theorem Dev.clrEict_eq (s : Dev) : s.clrEict = s.eictClear.glSync := rfl

theorem Dev.eictClear_frame (s : Dev) : Dev.Frame [18] [.fc] s s.eictClear := ((Dev.Frame.refl _ _ s).wr2 _ _).fc _

theorem Dev.clrEict_frame (s : Dev) : Dev.Frame [11, 12, 13, 14, 18, 21] cancelParts s s.clrEict :=
  (s.eictClear_frame.mono (w' := [11, 12, 13, 14, 18, 21]) (l' := cancelParts)).then (Dev.glSync_frame _)

theorem Dev.clrEict_spec (s : Dev) : s.clrEict.rd2 R.FC_EICT_LO = s.fc.eictClr.foldl clrBit (s.rd2 R.FC_EICT_LO) ∧ s.clrEict.fc.eictClr = [] ∧
    s.clrEict.rd glInh = s.clrEict.inhNow := by
  obtain ⟨l, hl⟩ := Dev.Lines.glSync s.eictClear
  refine ⟨?_, ?_, Dev.glSync_inh _⟩
  · have hlt : s.rd2 R.FC_EICT_LO < 2 ^ 64 := by
      have h0 := (s.reg R.FC_EICT_LO).isLt
      have h1 := (s.reg (R.FC_EICT_LO + 4)).isLt
      simp only [Dev.rd2]
      omega
    have hself : s.eictClear.rd2 R.FC_EICT_LO = s.fc.eictClr.foldl clrBit (s.rd2 R.FC_EICT_LO) % 2 ^ 64 := Dev.rd2_wr2_self _ _ _
    rw [Dev.clrEict_eq, (Dev.glSync_within _).rd2 _ (by decide) (by decide), hself]
    exact Nat.mod_eq_of_lt (lt_of_le_of_lt (foldl_clrBit_le _ _) hlt)
  · rw [Dev.clrEict_eq, hl]
    rfl

/-! ### One bit of FC_CLR -/

theorem bit_setBit_other (v : Nat) {b c : Nat} (h : b ≠ c) : bit (setBit v b) c = bit v c := by
  unfold setBit
  split
  · rfl
  · next hb =>
    have hp : 0 < 2 ^ b := Nat.two_pow_pos b
    simp only [bit, beq_iff_eq] at hb
    obtain hlt | hgt := Nat.lt_or_gt_of_ne h
    · have hhalf : (v + 2 ^ b) / 2 ^ (b + 1) = v / 2 ^ (b + 1) := by
        rw [pow_succ, ← Nat.div_div_eq_div_mul, ← Nat.div_div_eq_div_mul, Nat.add_div_right v hp]
        omega
      have hc : 2 ^ c = 2 ^ (b + 1) * 2 ^ (c - (b + 1)) := by rw [← pow_add, Nat.add_sub_cancel' hlt]
      simp only [bit, hc, ← Nat.div_div_eq_div_mul, hhalf]
    · rw [bit_eq_testBit, bit_eq_testBit, Nat.add_comm, Nat.testBit_two_pow_add_gt hgt]

theorem Dev.safeCtl_exit {v : Nat} (h : bit v 0 = false) (s : Dev) : s.safeCtl (setBit v 1) = s.safeExit := by
  rw [Dev.safeCtl, bit_setBit_self, bit_setBit_other _ (by decide), h]
  rfl

theorem Dev.fcClr_clrFirst {v : Nat} (hv : v % 32 = 2 ^ 0) (s : Dev) : s.fcClr v = s.clrFirst := by
  have hbit := bit_of_one hv
  unfold Dev.fcClr
  simp [hbit, Dev.when]

theorem Dev.fcClr_hsnap {v : Nat} (hv : v % 32 = 2 ^ 1) (s : Dev) : s.fcClr v = s.hsnap := by
  have hbit := bit_of_one hv
  unfold Dev.fcClr
  simp [hbit, Dev.when]

theorem Dev.fcClr_hclr {v : Nat} (hv : v % 32 = 2 ^ 2) (s : Dev) : s.fcClr v = s.hclr := by
  have hbit := bit_of_one hv
  unfold Dev.fcClr
  simp [hbit, Dev.when]

theorem Dev.fcClr_clrNopress {v : Nat} (hv : v % 32 = 2 ^ 3) (s : Dev) : s.fcClr v = s.clrNopress := by
  have hbit := bit_of_one hv
  unfold Dev.fcClr
  simp [hbit, Dev.when]

theorem Dev.fcClr_clrEict {v : Nat} (hv : v % 32 = 2 ^ 4) (s : Dev) : s.fcClr v = s.clrEict := by
  have hbit := bit_of_one hv
  unfold Dev.fcClr
  simp [hbit, Dev.when]

end Sys2Proof.Machine

namespace Sys2Proof.Proofs
open Sys2Proof.Machine

/-- Settles O52: a forced entry sets the latch of whatever the collector samples, since its own line is among the causes; nothing that an
entry does then reaches the latch or FC_STAT again. An exit holds no vat and only GL's walk follows it, which leaves FC as it is. -/
theorem faultControl : Obligations.FaultControl := by
  unfold Obligations.FaultControl
  intro s via v hrun
  have hframe (off : Nat) : Dev.Frame [21] [.bm] s.fresh.dev (s.fresh.dev.t6 via off true) := Dev.t6_frame via off true s.fresh.dev
  have hregs (off : Nat) : Dev.RegsAs (s.dev.t6 via off true) (s.fresh.dev.t6 via off true) := .t6 s _ _ _
  have hkeeps (off : Nat) : Dev.Keeps [] (s.dev.t6 via off true) (s.fresh.dev.t6 via off true) := Dev.Silent.keeps (.t6 via _ true) [] s
  refine ⟨fun hmay => ⟨fun hclk => ?_, fun hbit => ⟨fun hok => ?_, fun hok => ?_⟩⟩,
    fun hmay => ⟨fun hv => ?_, fun hv => ?_, fun hv => ?_, fun hv => ?_, fun hv => ?_⟩⟩
  · have hexec : exec (.force via v) s = .next { s with dev := (s.fresh.dev.t6 via R.FC_SAFE_CTL true).safeCtl (setBit v.toNat 0) } :=
      hmay.writes hrun _
    have hclk' : (s.fresh.dev.t6 via R.FC_SAFE_CTL true).unclocked = false := by
      rw [Dev.unclocked, (hframe _).part .pm]
      exact hclk
    have hfc : (s.fresh.dev.t6 via R.FC_SAFE_CTL true).fc = s.dev.fc := (hframe _).part .fc
    generalize s.fresh.dev.t6 via R.FC_SAFE_CTL true = u at hexec hclk' hfc
    rw [Dev.safeCtl, bit_setBit_self, bit_setBit_other _ (by decide), bit_setBit_other _ (by decide)] at hexec
    have hexit : (Dev.when (bit v.toNat 1) Dev.safeExit u).unclocked = false := by
      rw [Dev.unclocked, Dev.when_eq (·.pm) _ _ u u.safeExit_pm]
      exact hclk'
    obtain ⟨hlatch, hhold⟩ := Dev.force_spec hexit (bit v.toNat 2)
    refine ⟨_, hexec, hlatch, fun h1 h0 h2 => hhold ?_ h2, KeepsMem.onDev s _⟩
    rw [h1]
    exact (congrArg Fc.latch hfc).trans h0
  · have hexec : exec (.exit via v) s = .next { s with dev := (s.fresh.dev.t6 via R.FC_SAFE_CTL true).safeCtl (setBit v.toNat 1) } :=
      hmay.writes hrun _
    rw [Dev.safeCtl_exit hbit] at hexec
    have hok' : (s.fresh.dev.t6 via R.FC_SAFE_CTL true).exitOk = true := by
      rw [Dev.exitOk_t6]
      exact hok
    obtain ⟨h1, h2, h3, h4⟩ := Dev.safeExit_spec hok'
    exact ⟨_, hexec, h1, h2, h3, h4, KeepsMem.onDev s _⟩
  · have hexec : exec (.exit via v) s = .next { s with dev := (s.fresh.dev.t6 via R.FC_SAFE_CTL true).safeCtl (setBit v.toNat 1) } :=
      hmay.writes hrun _
    have hok' : (s.fresh.dev.t6 via R.FC_SAFE_CTL true).exitOk = false := by
      rw [Dev.exitOk_t6]
      exact hok
    rw [Dev.safeCtl_exit hbit, Dev.safeExit_eq, hok'] at hexec
    exact ⟨_, hexec, .of ((hregs _).event _)
      (((Dev.Keeps.wr _ _ _).symm.all.trans (hkeeps _).all).trans (Dev.Keeps.event _ _))⟩
  · have hexec : exec (.clrFirst via v) s = .next { s with dev := (s.fresh.dev.t6 via R.FC_CLR true).fcClr (setBit v.toNat 0) } := hmay.writes hrun _
    rw [Dev.fcClr_clrFirst hv] at hexec
    obtain ⟨h1, h2, h3, h4, h5⟩ := (s.fresh.dev.t6 via R.FC_CLR true).clrFirst_spec
    exact ⟨_, hexec, h1, h2, h3, h4, h5, ((hframe _).mono.then (Dev.clrFirst_frame _)).only⟩
  · have hexec : exec (.hsnap via v) s = .next { s with dev := (s.fresh.dev.t6 via R.FC_CLR true).fcClr (setBit v.toNat 1) } := hmay.writes hrun _
    rw [Dev.fcClr_hsnap hv] at hexec
    have hfc : (s.fresh.dev.t6 via R.FC_CLR true).fc = s.dev.fc := (hframe _).part .fc
    have hword {i w : Nat} (hi : i < 32) (hw : w < 8) := (s.fresh.dev.t6 via R.FC_CLR true).hsnap_spec hi hw
    rw [hfc] at hword
    refine ⟨_, hexec, fun i r w hi hw hr => ?_, fun i w hi hw hlen => ?_, ((hframe _).mono.then (Dev.hsnap_frame _)).only⟩
    · rw [hword hi hw, histWords, hr]
    · rw [hword hi hw, histWords, List.getElem?_eq_none hlen]
      rfl
  · have hexec : exec (.hclr via v) s = .next { s with dev := (s.fresh.dev.t6 via R.FC_CLR true).fcClr (setBit v.toNat 2) } := hmay.writes hrun _
    rw [Dev.fcClr_hclr hv] at hexec
    have hfc : (s.fresh.dev.t6 via R.FC_CLR true).fc = s.dev.fc := (hframe _).part .fc
    have hclr : (s.fresh.dev.t6 via R.FC_CLR true).hclr.fc = { (s.fresh.dev.t6 via R.FC_CLR true).fc with hist := [] } := rfl
    rw [hfc] at hclr
    refine ⟨_, hexec, hclr, .of ((hregs _).wr _ _) (((Dev.Keeps.wr _ _ _).symm.all.trans (hkeeps _).all).trans ?_)⟩
    exact (((Dev.Frame.refl [18] [.fc] _).fc _).wr _ _).keeps
  · have hexec : exec (.clrNopress via v) s = .next { s with dev := (s.fresh.dev.t6 via R.FC_CLR true).fcClr (setBit v.toNat 3) } := hmay.writes hrun _
    rw [Dev.fcClr_clrNopress hv] at hexec
    obtain ⟨h1, h2⟩ := (s.fresh.dev.t6 via R.FC_CLR true).clrNopress_spec
    exact ⟨_, hexec, h1, h2, ((hframe _).mono.then (Dev.clrNopress_frame _)).only⟩
  · have hexec : exec (.clrEict via v) s = .next { s with dev := (s.fresh.dev.t6 via R.FC_CLR true).fcClr (setBit v.toNat 4) } := hmay.writes hrun _
    rw [Dev.fcClr_clrEict hv] at hexec
    have hfc : (s.fresh.dev.t6 via R.FC_CLR true).fc = s.dev.fc := (hframe _).part .fc
    have hrd : (s.fresh.dev.t6 via R.FC_CLR true).rd2 R.FC_EICT_LO = s.dev.rd2 R.FC_EICT_LO := (hframe _).within.rd2 _ (by decide) (by decide)
    have hf := hframe R.FC_CLR
    generalize s.fresh.dev.t6 via R.FC_CLR true = u at hexec hfc hrd hf
    obtain ⟨h1, h2, h3⟩ := u.clrEict_spec
    have hall : Dev.Frame [11, 12, 13, 14, 18, 21] (.bm :: cancelParts) s.fresh.dev u.clrEict := hf.mono.then u.clrEict_frame
    rw [hfc, hrd] at h1
    generalize u.clrEict = d at hexec h1 h2 h3 hall
    exact ⟨_, hexec, h1, h2, h3, hall.only⟩

end Sys2Proof.Proofs
end

section
-- One proof after another: in parallel the proofs of this text would not fit the memory that its check allows.
set_option Elab.async false
/-!
PROOFS. The boundaries of slots, the reads of the form store and the pause (06 R134, R139, R141).
-/
namespace Sys2Proof.Machine

/-! ### A boundary (06 R139) -/

/-- The slot index and the entry advance, and the next boundary is one duration on. -/
def Dev.slotOn (s : Dev) (p : Plan) : Dev :=
  let e := s.gl.entry
  let nb := s.gl.nextB + (p.gate.getD e {}).dur
  let t := ((s.wr2 R.GL_SLOT_LO (s.rd2 R.GL_SLOT_LO + 1)).wr F.GL_STAT_ENTRY e).wr2 R.GL_NEXTB_LO nb
  { t with gl := { t.gl with entry := if e + 1 < p.gate.length then e + 1 else 0, nextB := nb } }

/-- The drains of slot k stand no longer (07 R172). -/
def Dev.drainsDone (s : Dev) (k : Nat) : Dev := { s with de := { s.de with drained := s.de.drained.filter (fun d => d.1 != k) } }

/-- A slot becomes the current one. -/
def Dev.slotShown (s : Dev) (k : Nat) (x : Slot) : Dev :=
  let t := ((s.wr F.GL_FORM_CUR x.img.fnum).wrB F.GL_FORM_CUR_NOCHG x.nochg).drainsDone k
  if x.committed && !x.nochg then (t.count F.GL_PRESSES).wr F.GL_LASTCHG x.changed.length else t

theorem Dev.boundary_go {s : Dev} {p : Plan} (hp : s.plan = some p) (hw : s.gl.walking = true ∨ s.pressDue = true) (hf : s.fires 0 = true) :
    s.boundary = ((s.gl.slotOf (s.rd2 R.GL_SLOT_LO + 1)).elim ((s.slotOn p).wrB F.GL_FORM_CUR_NOCHG true)
      ((s.slotOn p).slotShown (s.rd2 R.GL_SLOT_LO + 1))).formNext.cmpLoad := by
  have hgo : ¬ ((!(s.gl.walking || s.pressDue) || !s.fires 0) = true) := by
    rw [hf]
    obtain h | h := hw <;> simp [h]
  unfold Dev.boundary
  rw [hp]
  dsimp -zeta only
  rw [if_neg hgo]
  extract_lets k e nb t f u v
  have hslot : u.gl.slotOf k = s.gl.slotOf (s.rd2 R.GL_SLOT_LO + 1) := rfl
  have hv : v = (s.gl.slotOf (s.rd2 R.GL_SLOT_LO + 1)).elim ((s.slotOn p).wrB F.GL_FORM_CUR_NOCHG true)
      ((s.slotOn p).slotShown (s.rd2 R.GL_SLOT_LO + 1)) := by
    dsimp only [v]
    rw [hslot]
    cases s.gl.slotOf (s.rd2 R.GL_SLOT_LO + 1) <;> rfl
  rw [hv]

theorem Dev.slotOn_spec (s : Dev) (p : Plan) : (s.slotOn p).rd2 R.GL_SLOT_LO = (s.rd2 R.GL_SLOT_LO + 1) % 2 ^ 64 ∧
    (s.slotOn p).rd F.GL_STAT_ENTRY = s.gl.entry % 4096 ∧ (s.slotOn p).rd F.GL_PRESSES = s.rd F.GL_PRESSES ∧
    Dev.Frame [11] [.gl] s (s.slotOn p) := by
  have h2 {f : Fld} {lo : Nat} (h : lo ≠ f.reg) (h' : lo + 4 ≠ f.reg) (u : Dev) (v : Nat) : (u.wr2 lo v).rd f = u.rd f := by
    rw [Dev.rd, Dev.rd, Dev.reg_wr2_ne u h h']
  have hregs : Dev.RegsAs _ (s.slotOn p) := .of_regs (d := ((s.wr2 R.GL_SLOT_LO (s.rd2 R.GL_SLOT_LO + 1)).wr F.GL_STAT_ENTRY s.gl.entry).wr2 R.GL_NEXTB_LO
    (s.gl.nextB + (p.gate.getD s.gl.entry {}).dur)) rfl
  refine ⟨?_, ?_, ?_, (((Dev.Frame.refl [11] [.gl] s).wr2 _ _).wr _ _ |>.wr2 _ _).gl _⟩
  · rw [hregs.rd2, Dev.rd2_wr2_ne _ (by decide) (by decide) (by decide), ← Dev.rd2_wr2_self s R.GL_SLOT_LO]
    simp only [Dev.rd2, Dev.reg_wr_ne _ (show F.GL_STAT_ENTRY.reg ≠ R.GL_SLOT_LO by decide), Dev.reg_wr_ne _ (show F.GL_STAT_ENTRY.reg ≠ R.GL_SLOT_LO + 4 by decide)]
  · rw [hregs.rd, h2 (by decide) (by decide), Dev.rd_wr_self _ _ _ (by decide)]
    rfl
  · rw [hregs.rd, h2 (by decide) (by decide), Dev.rd_wr_apart _ _ _ _ (by decide) (by decide), h2 (by decide) (by decide)]

/-- What stays of a current slot's registers after the next slot's form is shown. -/
theorem Dev.formNext_rd (s : Dev) (f : Fld) (h : F.GL_FORM_NEXT.apart f = true := by decide) (h' : F.GL_FORM_NEXT_NOCHG.apart f = true := by decide) :
    s.formNext.rd f = s.rd f := by
  unfold Dev.formNext
  split
  · rw [Dev.rd_wrB_apart _ _ _ _ (by decide) h', Dev.rd_wr_apart _ _ _ _ (by decide) h]
  · rfl

theorem Dev.formNext_reg (s : Dev) {off : Nat} (h : off ≠ R.GL_FORM) : s.formNext.reg off = s.reg off := by
  unfold Dev.formNext
  split
  · exact (Dev.reg_wrB_ne _ (Ne.symm h) _).trans (Dev.reg_wr_ne s (Ne.symm h) _)
  · rfl

/-- The count of presses, which takes the slot in. -/
def Dev.pressCounted (s : Dev) (x : Slot) : Dev :=
  if x.committed && !x.nochg then (s.count F.GL_PRESSES).wr F.GL_LASTCHG x.changed.length else s

theorem Dev.pressCounted_spec (s : Dev) (x : Slot) :
    (s.pressCounted x).rd F.GL_PRESSES = (if x.committed && !x.nochg then min (s.rd F.GL_PRESSES + 1) 0xFFFFFFFF else s.rd F.GL_PRESSES) ∧
    Dev.Frame [11] [] s (s.pressCounted x) ∧ ∀ off, off ≠ R.GL_PRESSES → off ≠ R.GL_LASTCHG → (s.pressCounted x).reg off = s.reg off := by
  unfold Dev.pressCounted
  split
  · next h =>
    refine ⟨?_, ((Dev.Frame.refl [11] [] s).count _).wr _ _, fun off h1 h2 => ?_⟩
    · rw [Dev.rd_wr_apart _ _ _ _ (by decide) (by decide), show 0xFFFFFFFF = 2 ^ 32 - 1 from rfl, ← Dev.rd_count_self s F.GL_PRESSES 1 (by decide) (by decide)]
    · rw [Dev.reg_wr_ne _ (Ne.symm h2)]
      exact Dev.reg_wr_ne s (Ne.symm h1) _
  · exact ⟨rfl, .refl _ _ s, fun _ _ _ => rfl⟩

theorem Dev.slotShown_spec (s : Dev) (k : Nat) (x : Slot) :
    (s.slotShown k x).rd F.GL_FORM_CUR = x.img.fnum % 4096 ∧ (s.slotShown k x).on F.GL_FORM_CUR_NOCHG = x.nochg ∧
    (s.slotShown k x).rd F.GL_PRESSES = (if x.committed && !x.nochg then min (s.rd F.GL_PRESSES + 1) 0xFFFFFFFF else s.rd F.GL_PRESSES) ∧
    Dev.Frame [11] [.de] s (s.slotShown k x) ∧
    ∀ off, off ≠ R.GL_FORM → off ≠ R.GL_PRESSES → off ≠ R.GL_LASTCHG → (s.slotShown k x).reg off = s.reg off := by
  have heq : s.slotShown k x = (((s.wr F.GL_FORM_CUR x.img.fnum).wrB F.GL_FORM_CUR_NOCHG x.nochg).drainsDone k).pressCounted x := rfl
  obtain ⟨hcount, hframe, hreg⟩ := (((s.wr F.GL_FORM_CUR x.img.fnum).wrB F.GL_FORM_CUR_NOCHG x.nochg).drainsDone k).pressCounted_spec x
  have hregs : Dev.RegsAs ((s.wr F.GL_FORM_CUR x.img.fnum).wrB F.GL_FORM_CUR_NOCHG x.nochg)
    (((s.wr F.GL_FORM_CUR x.img.fnum).wrB F.GL_FORM_CUR_NOCHG x.nochg).drainsDone k) := .of_regs rfl
  have hform := hreg R.GL_FORM (by decide) (by decide)
  rw [heq]
  refine ⟨?_, ?_, ?_, ?_, fun off h1 h2 h3 => ?_⟩
  · rw [Dev.rd, show F.GL_FORM_CUR.reg = R.GL_FORM from rfl, hform]
    exact (hregs.rd F.GL_FORM_CUR).trans ((Dev.rd_wrB_apart _ _ _ _ (by decide) (by decide)).trans (Dev.rd_wr_self _ _ _ (by decide)))
  · rw [Dev.on, Dev.rd, show F.GL_FORM_CUR_NOCHG.reg = R.GL_FORM from rfl, hform]
    exact (hregs.on F.GL_FORM_CUR_NOCHG).trans (Dev.on_wrB_self _ _ _ (by decide) rfl)
  · rw [hcount, hregs.rd, Dev.rd_wrB_apart _ _ _ _ (by decide) (by decide), Dev.rd_wr_apart _ _ _ _ (by decide) (by decide)]
  · exact ((((Dev.Frame.refl [11] [.de] s).wr _ _).wrB _ _).de _).then hframe
  · rw [hreg off h2 h3, hregs off, Dev.reg_wrB_ne _ (Ne.symm h1), Dev.reg_wr_ne _ (Ne.symm h1)]

/-- A slot becomes the current one, or none that is decided. -/
theorem Dev.becomes_spec (s : Dev) (k : Nat) (o : Option Slot) : ∃ d, o.elim (s.wrB F.GL_FORM_CUR_NOCHG true) (s.slotShown k) = d ∧
    Dev.Frame [11] [.de] s d ∧ (∀ off, off ≠ R.GL_FORM → off ≠ R.GL_PRESSES → off ≠ R.GL_LASTCHG → d.reg off = s.reg off) ∧
    ∀ x, o = some x → d.rd F.GL_FORM_CUR = x.img.fnum % 4096 ∧ d.on F.GL_FORM_CUR_NOCHG = x.nochg ∧
      d.rd F.GL_PRESSES = if x.committed && !x.nochg then min (s.rd F.GL_PRESSES + 1) 0xFFFFFFFF else s.rd F.GL_PRESSES := by
  cases o with
  | none =>
    exact ⟨_, rfl, (Dev.Frame.refl [11] [.de] s).wrB _ _, fun off h1 _ _ => Dev.reg_wrB_ne s (Ne.symm h1) _, fun x hx => by cases hx⟩
  | some y =>
    obtain ⟨hcur, hnochg, hpresses, hframe, hreg⟩ := s.slotShown_spec k y
    refine ⟨_, rfl, hframe, hreg, fun x hx => ?_⟩
    cases hx
    exact ⟨hcur, hnochg, hpresses⟩

/-! ### Reads of the form store (06 R134) -/

theorem Dev.markBad_spec (s : Dev) (slot : Nat) : ((s.markBad slot).fs.slots.get slot).bad = true ∧ (s.markBad slot).rd F.FS_UE_CNT = s.rd F.FS_UE_CNT := by
  unfold Dev.markBad
  split
  · next h => exact ⟨h, rfl⟩
  · extract_lets x t
    refine ⟨?_, ?_⟩
    · show ((s.fs.slots.mod slot (fun x => { x with bad := true })).get slot).bad = true
      rw [Tbl.get_mod_self]
    · rw [(Dev.RegsAs.of_regs (Dev.raise_regs _ _ _ _ _ _)).rd, Dev.fsStat, Dev.rd_wr_apart _ _ _ _ (by decide) (by decide),
        Dev.rd_wr_apart _ _ _ _ (by decide) (by decide)]
      rfl

theorem Dev.formRead_bad (slot : Nat) (s : Dev) : ((s.formRead slot .uncorrectable).fs.slots.get slot).bad = true ∧
    (s.formRead slot .uncorrectable).rd F.FS_UE_CNT = min (s.rd F.FS_UE_CNT + 1) 0xFFFFFFFF := by
  obtain ⟨hbad, hcnt⟩ := (s.count F.FS_UE_CNT).markBad_spec slot
  exact ⟨hbad, hcnt.trans (Dev.rd_count_self _ _ _ (by decide) (by decide))⟩

theorem Dev.defaultRead_go {s : Dev} {q : Pos} {slot : Nat} (hq : s.decideAt (fun b => decide (s.now ≤ b) && decide (b ≤ s.now + 2)) = some q)
    (hslot : s.fs.map q.bank (s.gate q).form = some slot) (r : Ecc) : s.defaultRead r = s.formRead slot r := by
  unfold Dev.defaultRead
  rw [hq]
  dsimp only
  rw [hslot]

/-- A pass of the scrub that has ended is counted. -/
def Dev.scrubPassed (pass : Bool) (s : Dev) : Dev := if pass then s.wr F.FS_SCRUB_PASS (s.rd F.FS_SCRUB_PASS + 1) else s

theorem Dev.fsScrub_eq {r : Ecc} (h : r ≠ .checkFails) (slot : Nat) (pass : Bool) (s : Dev) :
    s.fsScrub slot r pass = (s.formRead slot r).scrubPassed pass := by
  unfold Dev.fsScrub
  rw [if_neg h]
  rfl

theorem Dev.scrubPassed_frame (s : Dev) (pass : Bool) : Dev.Frame [10] [] s (s.scrubPassed pass) := by
  unfold Dev.scrubPassed
  split
  · exact (Dev.Frame.refl _ _ s).wr _ _
  · exact .refl _ _ s

theorem Dev.scrubPassed_fs (s : Dev) (pass : Bool) : (s.scrubPassed pass).fs = s.fs := (s.scrubPassed_frame pass).part .fs

theorem Dev.scrubPassed_ue (s : Dev) (pass : Bool) : (s.scrubPassed pass).rd F.FS_UE_CNT = s.rd F.FS_UE_CNT := by
  unfold Dev.scrubPassed
  split
  · exact Dev.rd_wr_apart _ _ _ _ (by decide) (by decide)
  · rfl

/-! ### The pause (06 R141) -/

/-- GL_CTL in the table of registers. -/
def glCtlSpec : RegSpec := ⟨"GL_CTL", 0xb0000, 0x0, 1, 0x0, 2, [rf 0 0 .rw]⟩

theorem Dev.store_glPause (v : Nat) (s : Dev) : (s.store R.GL_CTL v).on F.GL_CTL_PAUSE = bit v 0 :=
  Dev.store_bit0 (r := glCtlSpec) rfl (fun o v => rf00_written v o) rfl v s

theorem bit_maskOf (l : List Nat) (b : Nat) : bit (maskOf l) b = decide (b ∈ l) := by
  have hgen : ∀ (m : List Nat) (v : Nat), bit (m.foldl setBit v) b = (decide (b ∈ m) || bit v b) := by
    intro m
    induction m with
    | nil => exact fun v => rfl
    | cons c m ih =>
      intro v
      rw [List.foldl_cons, ih]
      by_cases h : c = b
      · subst h
        simp [bit_setBit_self]
      · simp [bit_setBit_other v h, Ne.symm h]
  rw [maskOf, hgen]
  simp [bit]

theorem Dev.on_inhPause (s : Dev) : s.on F.GL_INH_PAUSE = bit (s.rd glInh) 1 := by
  show ((s.reg R.GL_INH).toNat / 2 ^ 1 % 2 ^ 1 == 1) = ((s.reg R.GL_INH).toNat / 2 ^ 0 % 2 ^ 8 / 2 ^ 1 % 2 == 1)
  have h : (s.reg R.GL_INH).toNat / 2 ^ 1 % 2 ^ 1 = (s.reg R.GL_INH).toNat / 2 ^ 0 % 2 ^ 8 / 2 ^ 1 % 2 := by omega
  rw [h]

theorem Dev.inhNow_pause (s : Dev) : bit s.inhNow 1 = s.on F.GL_CTL_PAUSE := by
  have hite {c : Prop} [Decidable c] {n : Nat} : 1 ∈ (if c then [n] else []) ↔ c ∧ n = 1 := by
    split
    · next h => simp [h, eq_comm]
    · next h => simp [h]
  have hplan : 1 ∉ (if s.on F.GL_STAT_PLAN = true then [] else [7]) := by split <;> decide
  rw [Dev.inhNow, bit_maskOf]
  simp only [List.mem_append, hite, hplan, or_false, OfNat.ofNat_ne_one, and_false, and_true, false_or, zero_ne_one]
  exact Bool.decide_coe _

end Sys2Proof.Machine

namespace Sys2Proof.Proofs
open Sys2Proof.Machine

/-- Settles O28: what a boundary shows is written before the next slot's form and the comparators, which reach neither; the inhibits follow
the pause because GL_INH after a write of GL_CTL is the word of their conditions, whose bit 1 is PAUSE. -/
theorem boundaries : Obligations.Boundaries := by
  unfold Obligations.Boundaries
  intro s hrun
  have hcorrected : Writes (s.dev.count F.FS_CE_CNT) [] s { s with dev := s.fresh.dev.count F.FS_CE_CNT } :=
    .of ((Dev.RegsAs.setTx [] s.dev).count _ _)
      ((Dev.Keeps.count _ _ _).symm.all.trans ((Dev.Keeps.setTx [] [] s.dev).trans (Dev.Keeps.count _ _ _)))
  refine ⟨fun p hp hw hf => ?_, fun q slot hq hslot => ?_, fun via v hmay => ?_, fun slot done => ?_, fun slot done r hr => ?_⟩
  · have hexec : exec .slotBoundary s = .next { s with dev := s.fresh.dev.boundary } := State.onDev_next s _ hrun
    rw [Dev.boundary_go (s := s.fresh.dev) hp hw hf] at hexec
    obtain ⟨hslot, hentry, hpresses, hon⟩ := s.fresh.dev.slotOn_spec p
    have hnext : (s.fresh.dev.slotOn p).gl = { s.dev.gl with
        entry := if s.dev.gl.entry + 1 < p.gate.length then s.dev.gl.entry + 1 else 0, nextB := s.dev.gl.nextB + (p.gate.getD s.dev.gl.entry {}).dur } := rfl
    obtain ⟨d, hd, hframe, hreg, hshown⟩ := (s.fresh.dev.slotOn p).becomes_spec (s.dev.rd2 R.GL_SLOT_LO + 1) (s.dev.gl.slotOf (s.dev.rd2 R.GL_SLOT_LO + 1))
    have hd' : (s.fresh.dev.gl.slotOf (s.fresh.dev.rd2 R.GL_SLOT_LO + 1)).elim ((s.fresh.dev.slotOn p).wrB F.GL_FORM_CUR_NOCHG true)
      ((s.fresh.dev.slotOn p).slotShown (s.fresh.dev.rd2 R.GL_SLOT_LO + 1)) = d := hd
    rw [hd'] at hexec
    generalize s.fresh.dev.slotOn p = u at *
    have hload := Dev.cmpLoad_frame d.formNext
    have hall : Dev.Frame [11] [.gl, .de, .tb] s.fresh.dev d.formNext.cmpLoad :=
      ((hon.mono.then hframe).then d.formNext_frame).then hload
    have hgl : d.formNext.cmpLoad.gl = u.gl := by rw [hload.part .gl, d.formNext_frame.part .gl, hframe.part .gl]
    have hnextRd2 : d.formNext.rd2 R.GL_SLOT_LO = u.rd2 R.GL_SLOT_LO := by
      simp only [Dev.rd2, d.formNext_reg (show R.GL_SLOT_LO ≠ R.GL_FORM by decide), d.formNext_reg (show R.GL_SLOT_LO + 4 ≠ R.GL_FORM by decide),
        hreg R.GL_SLOT_LO (by decide) (by decide) (by decide), hreg (R.GL_SLOT_LO + 4) (by decide) (by decide) (by decide)]
    refine ⟨_, hexec, ?_, ?_, ?_, ?_, fun x hx => ?_, ?_, hall.only⟩
    · exact ((hload.within.rd2 _ (by decide) (by decide)).trans hnextRd2).trans hslot
    · rw [hload.rd F.GL_STAT_ENTRY, d.formNext_rd F.GL_STAT_ENTRY, Dev.rd, hreg F.GL_STAT_ENTRY.reg (by decide) (by decide) (by decide)]
      exact hentry
    · rw [hgl, hnext]
    · rw [hgl, hnext]
    · obtain ⟨hcur, hnochg, hcount⟩ := hshown x hx
      rw [hpresses] at hcount
      exact ⟨(hload.rd _).trans ((d.formNext_rd _).trans hcur), (hload.on _).trans ((congrArg (· == 1) (d.formNext_rd F.GL_FORM_CUR_NOCHG)).trans hnochg),
        (hload.rd _).trans ((d.formNext_rd _).trans hcount)⟩
    · rw [hgl, hnext]
  · have hgate : s.fresh.dev.gate q = s.dev.gate q := Dev.gate_congr rfl rfl q
    have hq' : s.fresh.dev.decideAt (fun b => decide (s.fresh.dev.now ≤ b) && decide (b ≤ s.fresh.dev.now + 2)) = some q :=
      (Dev.decideAt_congr (s := s.dev) (t := s.fresh.dev) rfl rfl rfl rfl _).trans hq
    have hread (r : Ecc) : exec (.defaultRead r) s = .next { s with dev := s.fresh.dev.formRead slot r } :=
      (State.onDev_next s _ hrun).trans (by rw [Dev.defaultRead_go hq' (hgate ▸ hslot)])
    obtain ⟨hbad, hcnt⟩ := s.fresh.dev.markBad_spec slot
    obtain ⟨hbad', hcnt'⟩ := s.fresh.dev.formRead_bad slot
    exact ⟨hread .ok, ⟨_, hread .corrected, hcorrected⟩, ⟨_, hread .checkFails, hbad, hcnt, (Dev.formRead_frame slot .checkFails s.fresh.dev).mono.only⟩,
      _, hread .uncorrectable, hbad', hcnt', (Dev.formRead_frame slot .uncorrectable s.fresh.dev).mono.only⟩
  · have hexec : exec (.glPauseWrite via v) s = .next { s with dev := ((s.fresh.dev.t6 via R.GL_CTL true).store R.GL_CTL v.toNat).glSync } :=
      hmay.writes hrun _
    have hframe := Dev.t6_frame via R.GL_CTL true s.fresh.dev
    generalize s.fresh.dev.t6 via R.GL_CTL true = u at hexec hframe
    have hstore := Dev.store_frame R.GL_CTL v.toNat u
    have hpause := Dev.store_glPause v.toNat u
    generalize u.store R.GL_CTL v.toNat = d at hexec hstore hpause
    have hon : d.glSync.on F.GL_CTL_PAUSE = bit v.toNat 0 := by
      rw [Dev.on, d.glSync_rd F.GL_CTL_PAUSE, d.inhShown_rd F.GL_CTL_PAUSE]
      exact hpause
    have hall : Dev.Frame [11, 12, 13, 14, 21] (.bm :: cancelParts) s.fresh.dev d.glSync :=
      ((hframe.mono.then hstore).then d.glSync_frame)
    refine ⟨_, hexec, hon, ?_, d.glSync_inh, hall.only⟩
    rw [Dev.on_inhPause, d.glSync_inh, Dev.inhNow_pause, hon]
  · have hexec : exec (.fsScrub slot .uncorrectable done) s = .next { s with dev := s.fresh.dev.fsScrub slot.toNat .uncorrectable done } :=
      State.onDev_next s _ hrun
    obtain ⟨hbad, hcnt⟩ := s.fresh.dev.formRead_bad slot.toNat
    have hread := Dev.formRead_frame slot.toNat .uncorrectable s.fresh.dev
    rw [Dev.fsScrub_eq (by decide)] at hexec
    generalize s.fresh.dev.formRead slot.toNat .uncorrectable = d at *
    exact ⟨_, hexec, by rw [d.scrubPassed_fs]; exact hbad, (d.scrubPassed_ue done).trans hcnt, (hread.mono.then (d.scrubPassed_frame done)).only⟩
  · have hexec : exec (.fsScrub slot r done) s = .next { s with dev := s.fresh.dev.fsScrub slot.toNat r done } :=
      State.onDev_next s _ hrun
    have hput {a u : Dev} (hr : Dev.RegsAs a u) (hk : Dev.Keeps [] a u) (hn : a.rd F.FS_SCRUB_PASS = s.dev.rd F.FS_SCRUB_PASS) :
        Writes (if done then a.wr F.FS_SCRUB_PASS (s.dev.rd F.FS_SCRUB_PASS + 1) else a) [] s { s with dev := u.scrubPassed done } := by
      rw [← hn, ← hr.rd]
      cases done
      · exact .of hr hk
      · exact .of (hr.wr _ _) (((Dev.Keeps.wr a _ _).symm.trans hk).trans (Dev.Keeps.wr u _ _))
    have hsame : Dev.RegsAs s.dev s.fresh.dev := .setTx [] s.dev
    have hkeep : Dev.Keeps [] s.dev s.fresh.dev := .setTx [] [] s.dev
    cases r with
    | uncorrectable => exact absurd rfl hr
    | ok => exact ⟨_, hexec, hput hsame hkeep rfl⟩
    | checkFails => exact ⟨_, hexec, hput hsame hkeep rfl⟩
    | corrected =>
      exact ⟨_, hexec, hput (hsame.count _ _) (((Dev.Keeps.count _ _ _).symm.trans hkeep).trans (Dev.Keeps.count _ _ _))
        (Dev.rd_wr_apart _ _ _ _ (by decide) (by decide))⟩

end Sys2Proof.Proofs
end

section
-- One proof after another: in parallel the proofs of this text would not fit the memory that its check allows.
set_option Elab.async false
/-!
PROOFS. Voltages that are confirmed, refused and retried, and the divider's switch (14 R320 to R322).
-/
namespace Sys2Proof.Machine

/-! ### What the power manager's step leaves -/

theorem Dev.pmCheck_rd (s : Dev) (f : Fld) (h : F.PM_STAT_SEQ.apart f = true := by decide) (hw : blockOf f.reg ∉ laneWindows := by decide) :
    s.pmCheck.rd f = s.rd f := by
  rw [Dev.pmCheck_eq, Dev.rd_wrB_apart _ _ _ _ (by decide) h]
  exact (s.openGate.pmAnswer_frame.rd f List.not_mem_nil).trans (s.openGate_frame.rd f hw)

theorem Dev.pmCheck_on (s : Dev) (f : Fld) (h : F.PM_STAT_SEQ.apart f = true := by decide) (hw : blockOf f.reg ∉ laneWindows := by decide) :
    s.pmCheck.on f = s.on f := congrArg (· == 1) (s.pmCheck_rd f h hw)

theorem Dev.pmAnswer_pm (s : Dev) : ∃ m, s.pmAnswer.pm = { s.pm with mb := m } := by
  unfold Dev.pmAnswer
  split
  · split
    · exact ⟨none, congrArg (fun x : Pm => { x with mb := none }) (((Dev.Frame.refl [] [.mbx] s).ok _ _).part .pm)⟩
    · exact ⟨s.pm.mb, rfl⟩
  · exact ⟨s.pm.mb, rfl⟩

theorem Dev.pmAnswer_tx (s : Dev) : s.pmAnswer.tx = s.tx := by
  unfold Dev.pmAnswer
  split
  · split
    · exact Dev.finish_tx _ _ _ _ _ _
    · rfl
  · rfl

/-- Of the power manager's own state a check changes whose command waits, and nothing else. -/
theorem Dev.pmCheck_pm (s : Dev) : ∃ m, s.pmCheck.pm = { s.pm with mb := m } := by
  obtain ⟨m, hm⟩ := s.openGate.pmAnswer_pm
  rw [s.openGate_frame.part .pm] at hm
  exact ⟨m, hm⟩

/-- A pm.set that no longer waits is answered no more. -/
theorem Dev.pmCheck_mbx {s : Dev} (h : s.pm.mb = none) : s.pmCheck.mbx = s.mbx := by
  have hpm : s.openGate.pm = s.pm := s.openGate_frame.part .pm
  have hself : s.openGate.pmAnswer = s.openGate := by
    unfold Dev.pmAnswer
    rw [hpm, h]
  rw [Dev.pmCheck_eq, hself]
  exact s.openGate_frame.part .mbx

theorem Dev.pmPoint_reqPend (s : Dev) : s.pmPoint.pm.reqPend = s.pm.reqPend := by
  have hslice (u : Dev) (n : Nat) : (u.slicePause n).pm = u.pm := (u.slicePause_frame n).part .pm
  unfold Dev.pmPoint
  extract_lets want op s1 s2
  have h1 : s1.pm.reqPend = s.pm.reqPend := congrArg Pm.reqPend (hslice s _)
  have h2 : s2.pm.reqPend = s.pm.reqPend := h1
  clear_value s1 s2
  split
  · rfl
  · split
    · split
      · rw [hslice]
        split <;> rfl
      · rw [hslice]
        rfl
    · split
      · rw [hslice]
        rfl
      · split
        · exact h2
        · split
          · exact h2
          · split
            · exact h2
            · exact h2

theorem Dev.pmStep_reqPend (s : Dev) : s.pmStep.pm.reqPend = s.pm.reqPend := by
  obtain ⟨m, hm⟩ := s.pmPoint.pmCheck_pm
  rw [Dev.pmStep, hm]
  exact s.pmPoint_reqPend

theorem Dev.pmStep_rd (s : Dev) (f : Fld) (h : F.PM_STAT_SEQ.apart f = true := by decide) (hw : blockOf f.reg ∉ laneWindows := by decide)
    (h17 : blockOf f.reg ∉ [17] := by decide) : s.pmStep.rd f = s.rd f :=
  (s.pmPoint.pmCheck_rd f h hw).trans (s.pmPoint_frame.rd f h17)

/-! ### A voltage read (14 R322) -/

theorem Dev.opv_wr (s : Dev) (f : Fld) (v p : Nat) (h : ∀ g ∈ [F.PM_OPV_0, F.PM_OPV_1, F.PM_OPV_2], f.reg ≠ g.reg := by decide) :
    (s.wr f v).opv p = s.opv p := by
  have hrd (g : Fld) (hg : g ∈ [F.PM_OPV_0, F.PM_OPV_1, F.PM_OPV_2]) : (s.wr f v).rd g = s.rd g := by
    rw [Dev.rd, Dev.rd, Dev.reg_wr_ne s (h g hg)]
  unfold Dev.opv
  split
  · exact hrd _ (by decide)
  · exact hrd _ (by decide)
  · exact hrd _ (by decide)

/-- The voltage read confirms point p. -/
def Dev.voltsRead (s : Dev) (p : Nat) : Dev := (s.wr F.PM_STAT_VOP p).setPm (fun x => { x with avsTgt := none })

theorem Dev.avsPoll_confirms {s : Dev} {p mv : Nat} (ht : s.pm.avsTgt = some p) (hv : mv ≤ s.opv p + 10 ∧ s.opv p ≤ mv + 10) :
    s.avsPoll mv = ((s.wr F.PM_AVS_VOUT mv).voltsRead p).pmStep := by
  have ht' : (s.wr F.PM_AVS_VOUT mv).pm.avsTgt = some p := ht
  unfold Dev.avsPoll
  extract_lets t
  rw [ht']
  exact if_pos (by rw [show t.opv p = s.opv p from s.opv_wr _ _ _]; exact hv)

theorem Dev.avsPoll_not {s : Dev} {mv : Nat} (h : ∀ p, s.pm.avsTgt = some p → ¬(mv ≤ s.opv p + 10 ∧ s.opv p ≤ mv + 10)) :
    s.avsPoll mv = s.wr F.PM_AVS_VOUT mv := by
  unfold Dev.avsPoll
  extract_lets t
  split
  · next p hp => exact if_neg (by rw [show t.opv p = s.opv p from s.opv_wr _ _ _]; exact h p hp)
  · rfl

theorem Dev.voltsRead_spec (s : Dev) (p : Nat) (hp : p ≤ 2) : (s.voltsRead p).pmStep.rd F.PM_STAT_VOP = p ∧
    (s.voltsRead p).pmStep.rd F.PM_AVS_VOUT = s.rd F.PM_AVS_VOUT ∧ Dev.Frame pmWindows pmParts s (s.voltsRead p).pmStep := by
  have hregs : Dev.RegsAs (s.wr F.PM_STAT_VOP p) (s.voltsRead p) := .of_regs rfl
  refine ⟨?_, ?_, (((Dev.Frame.refl _ _ s).wr _ _).setPm _).then (Dev.pmStep_frame _)⟩
  · rw [Dev.pmStep_rd _ F.PM_STAT_VOP, hregs.rd, Dev.rd_wr_self _ _ _ (by decide)]
    exact Nat.mod_eq_of_lt (show p < 4 by omega)
  · rw [Dev.pmStep_rd _ F.PM_AVS_VOUT, hregs.rd, Dev.rd_wr_apart _ _ _ _ (by decide) (by decide)]

/-! ### A voltage that is not confirmed (14 R322) -/

/-- The line and the event of a voltage that is not confirmed. -/
def Dev.avsTold (s : Dev) (p : Nat) : Dev := (s.raise 0x1301 1 (srcWord 19) (s.opv p)).event F.PM_EVT_AVS_FAIL

/-- What a raise that is given up leaves to the power manager. -/
def Pm.gaveUp (op : Nat) (p : Pm) : Pm :=
  { p with opTgt := none, avsTgt := none, avsLast := op, reqPend := none, mb := none, opReq := if p.mb.isSome then p.undoOp else p.opReq }

/-- A slower point's voltage is to be written again. -/
def Pm.retries (p : Pm) : Pm := { p with opTgt := none, avsTgt := none, avsRetry := true }

/-- A raise is given up: the slices follow the point in force, and a pm.set that waits for it is refused. -/
def Dev.raiseGivenUp (s : Dev) : Dev :=
  let t := s.slicePause (s.sliceFor (s.rd F.PM_STAT_OP))
  let u := t.setPm (Pm.gaveUp (t.rd F.PM_STAT_OP))
  match t.pm.mb with
  | some (m, _) => (u.pmRefuse m 6).pmCheck
  | none => u.pmCheck

theorem Dev.avsFailed_eq {s : Dev} {p : Nat} (ht : s.pm.avsTgt = some p) : s.avsFailed =
    if (s.avsTold p).unclocked then s.avsTold p
    else if p < (s.avsTold p).rd F.PM_STAT_OP then (s.avsTold p).raiseGivenUp else ((s.avsTold p).setPm Pm.retries).pmCheck := by
  unfold Dev.avsFailed
  rw [ht]
  rfl

theorem Dev.avsTold_rd (s : Dev) (p : Nat) (f : Fld) (h : F.PM_EVT_AVS_FAIL.apart f = true := by decide) : (s.avsTold p).rd f = s.rd f := by
  rw [Dev.avsTold, Dev.rd_event_apart _ _ _ (by decide) h]
  exact (Dev.RegsAs.of_regs (Dev.raise_regs _ _ _ _ _ _)).rd f

theorem Dev.avsTold_on (s : Dev) (p : Nat) : (s.avsTold p).on F.PM_EVT_AVS_FAIL = true := Dev.on_event_self _ _ (by decide) rfl

theorem Dev.avsTold_frame (s : Dev) (p : Nat) : Dev.Frame [19] [.evq, .fc] s (s.avsTold p) := ((Dev.Frame.refl _ _ s).raise _ _ _ _ _).event _

theorem Dev.pmNote_frame (s : Dev) {r : Nat} (h : r ≤ 7) : Dev.Frame [19] [.evq] s (s.pmNote r) := by
  have hb : blockOf (F.PM_REFUSE (r - 1)).reg ∈ [19] := by
    simp only [F.PM_REFUSE, blockOf, List.mem_singleton]
    omega
  exact (((Dev.Frame.refl _ _ s).count _ _ hb).event _).emit _

theorem Dev.pmRefuse_frame (mb : Nat) (s : Dev) {r : Nat} (h : r ≤ 7) : Dev.Frame [19] [.evq, .mbx] s (s.pmRefuse mb r) :=
  ((s.pmNote_frame h).mono (w' := [19]) (l' := [.evq, .mbx])).finish _ _ _ _ _

theorem Dev.pmRefuse_ready (s : Dev) {mb : Nat} (h : mb < 8) (r : Nat) :
    ∃ pl, ((s.pmRefuse mb r).mbx.get mb).ready = some (2, 0x0C04, 0x1300 + r, pl) := ⟨_, Dev.finish_ready _ _ _ _ _ _ h⟩

theorem Dev.pmRefuse_avsFail (s : Dev) (mb r : Nat) : (s.pmRefuse mb r).on F.PM_EVT_AVS_FAIL = s.on F.PM_EVT_AVS_FAIL := by
  have hne : (F.PM_REFUSE (r - 1)).reg ≠ F.PM_EVT_AVS_FAIL.reg := by
    simp only [F.PM_REFUSE, F.PM_EVT_AVS_FAIL]
    omega
  have hcount : (s.count (F.PM_REFUSE (r - 1))).rd F.PM_EVT_AVS_FAIL = s.rd F.PM_EVT_AVS_FAIL := by
    rw [Dev.rd, Dev.rd]
    exact congrArg (fun w : Word => w.toNat / 2 ^ 6 % 2 ^ 1) (Dev.reg_wr_ne s hne _)
  have hnote : (s.pmNote r).on F.PM_EVT_AVS_FAIL = ((s.count (F.PM_REFUSE (r - 1))).event F.PM_EVT_REFUSED).on F.PM_EVT_AVS_FAIL := rfl
  show ((s.pmNote r).finish mb 2 0x0C04 (0x1300 + r) ((s.pmNote r).pmResp r)).on F.PM_EVT_AVS_FAIL = _
  rw [Dev.finish_on, hnote, Dev.on, Dev.rd_event_apart _ _ _ (by decide) (by decide), hcount]
  rfl

theorem Dev.raiseGivenUp_frame (s : Dev) : Dev.Frame pmWindows pmParts s s.raiseGivenUp := by
  unfold Dev.raiseGivenUp
  extract_lets t u
  have hu : Dev.Frame pmWindows pmParts s u := (s.slicePause_frame _).mono.setPm _
  split
  · exact (hu.then (Dev.pmRefuse_frame _ u (by decide))).then (Dev.pmCheck_frame _)
  · exact hu.then (Dev.pmCheck_frame _)

theorem Dev.raiseGivenUp_spec (s : Dev) : s.raiseGivenUp.on F.PM_EVT_AVS_FAIL = s.on F.PM_EVT_AVS_FAIL ∧
    (∃ op m, s.raiseGivenUp.pm = { s.pm.gaveUp op with mb := m }) ∧
    ∀ m r, s.pm.mb = some (m, r) → m < 8 → ∃ pl, (s.raiseGivenUp.mbx.get m).ready = some (2, 0x0C04, 0x1306, pl) := by
  unfold Dev.raiseGivenUp
  extract_lets t u
  have ht : t.pm = s.pm := (s.slicePause_frame _).part .pm
  have hu : u.pm = s.pm.gaveUp (t.rd F.PM_STAT_OP) := congrArg (Pm.gaveUp (t.rd F.PM_STAT_OP)) ht
  have huon : u.on F.PM_EVT_AVS_FAIL = s.on F.PM_EVT_AVS_FAIL :=
    ((Dev.RegsAs.of_regs rfl).on _).trans ((s.slicePause_frame _).on _)
  rw [ht]
  clear_value u t
  cases h : s.pm.mb with
  | none =>
    obtain ⟨m, hm⟩ := u.pmCheck_pm
    rw [hu] at hm
    exact ⟨(u.pmCheck_on _).trans huon, ⟨_, m, hm⟩, fun m r hmr => by cases hmr⟩
  | some x =>
    obtain ⟨m, hm⟩ := (u.pmRefuse x.1 6).pmCheck_pm
    have hpm : (u.pmRefuse x.1 6).pm = u.pm := (u.pmRefuse_frame x.1 (by decide)).part .pm
    rw [hpm, hu] at hm
    refine ⟨((u.pmRefuse x.1 6).pmCheck_on _).trans ((u.pmRefuse_avsFail x.1 6).trans huon), ⟨_, m, hm⟩, fun a r har hlt => ?_⟩
    obtain rfl := Option.some.inj har
    have hnone : (u.pmRefuse a 6).pm.mb = none := by
      rw [hpm, hu]
      rfl
    show ∃ pl, ((u.pmRefuse a 6).pmCheck.mbx.get a).ready = _
    rw [Dev.pmCheck_mbx hnone]
    exact u.pmRefuse_ready hlt 6

/-! ### The voltage is written again; the divider switches (14 R320, R322) -/

theorem Dev.avsAgain_spec {s : Dev} (h : s.pm.avsRetry = true) : s.avsAgain.tx = s.tx ++ [.avsWrite (s.opv (s.rd F.PM_STAT_OP))] ∧
    s.avsAgain.pm.avsTgt = some (s.rd F.PM_STAT_OP) ∧ s.avsAgain.pm.avsRetry = false ∧ s.avsAgain.on F.PM_STAT_SEQ = true ∧
    Dev.Frame [19] [.pm, .mbx] s s.avsAgain := by
  have hstart := s.avsStart_frame (s.rd F.PM_STAT_OP)
  have heq : s.avsAgain = (s.avsStart (s.rd F.PM_STAT_OP)).pmCheck := if_pos h
  have htx : (s.avsStart (s.rd F.PM_STAT_OP)).tx = s.tx ++ [.avsWrite (s.opv (s.rd F.PM_STAT_OP))] := rfl
  have htgt : (s.avsStart (s.rd F.PM_STAT_OP)).pm.avsTgt = some (s.rd F.PM_STAT_OP) := rfl
  have hretry : (s.avsStart (s.rd F.PM_STAT_OP)).pm.avsRetry = false := rfl
  have hop : (s.avsStart (s.rd F.PM_STAT_OP)).pm.opTgt = some (s.rd F.PM_STAT_OP) := rfl
  rw [heq]
  generalize s.avsStart (s.rd F.PM_STAT_OP) = t at *
  have hgate : t.openGate = t := by
    rw [Dev.openGate_eq, hop, Option.isNone_some, Bool.and_false]
    rfl
  obtain ⟨m, hm⟩ := t.pmAnswer_pm
  have hbusy : t.pmAnswer.pmBusy = true := by
    rw [Dev.pmBusy, hm, show ({ t.pm with mb := m } : Pm).opTgt = _ from hop]
    rfl
  have hall : Dev.Frame [19] [.pm, .mbx] s t.pmAnswer := hstart.mono.then t.pmAnswer_frame
  rw [Dev.pmCheck_eq, hgate, hbusy]
  refine ⟨?_, ?_, ?_, Dev.on_wrB_self _ _ true (by decide) rfl, hall.wrB _ _⟩
  · rw [Dev.wrB_tx, t.pmAnswer_tx, htx]
  · exact (congrArg Pm.avsTgt hm).trans htgt
  · exact (congrArg Pm.avsRetry hm).trans hretry

theorem Dev.setPm_rd (f : Pm → Pm) (s : Dev) (g : Fld) : (s.setPm f).rd g = s.rd g := rfl

theorem Dev.setPm_on (f : Pm → Pm) (s : Dev) (g : Fld) : (s.setPm f).on g = s.on g := rfl

/-- The divider switches, and a state that waited for its point is requested. -/
def Dev.pointReached (s : Dev) : Dev :=
  match s.pm.reqPend with
  | some r => ((s.wr F.PM_STAT_REQ r).setPm (fun p => { p with reqPend := none })).glSync
  | none => s

def Dev.dividerSet (s : Dev) : Dev := s.setPm (fun p => { p with divider := false })

theorem Dev.dividerSwitch_go {s : Dev} {p : Nat} (ht : s.pm.opTgt = some p) (hd : s.pm.divider = true) (hs : s.bm.sliceTo = none)
    (hv : s.rd F.PM_STAT_VOP ≤ p) (hc : s.chooserBlocks = false) : s.dividerSwitch = ((s.opTo p).pointReached.dividerSet).pmStep := by
  unfold Dev.dividerSwitch
  rw [ht]
  exact if_pos (by simp [hd, hs, hv, hc])

theorem Dev.opSet_frame (o : Nat) (s : Dev) : Dev.Frame [19] [.evq, .th] s (s.opSet o) := by
  have hfit (u : Dev) : Dev.Frame [19] [.evq, .th] u u.fitTouch := by
    unfold Dev.fitTouch
    split
    · exact (Dev.Frame.refl _ _ u).th _
    · exact .refl _ _ u
  unfold Dev.opSet
  split
  · exact .refl _ _ s
  · exact (((Dev.Frame.refl [19] [.evq, .th] s).wr _ _).event _ |>.emit _).trans (hfit _)

theorem Dev.opTo_frame (o : Nat) (s : Dev) : Dev.Frame [19, 21] [.evq, .th] s (s.opTo o) :=
  (Dev.Frame.when _ _ s ((Dev.pcClock_frame s _ _ _).mono)).then (Dev.opSet_frame o _)

theorem Dev.opSet_spec (s : Dev) {o : Nat} (ho : o ≤ 2) : (s.opSet o).rd F.PM_STAT_OP = o ∧
    (s.rd F.PM_STAT_OP ≠ o → (s.opSet o).on F.PM_EVT_OP_CHG = true) := by
  have hfit (u : Dev) : u.fitTouch.regs = u.regs := by
    unfold Dev.fitTouch
    split <;> rfl
  unfold Dev.opSet
  split
  · next h => exact ⟨h, fun hne => absurd h hne⟩
  · have hregs : Dev.RegsAs ((s.wr F.PM_STAT_OP o).event F.PM_EVT_OP_CHG) (((s.wr F.PM_STAT_OP o).event F.PM_EVT_OP_CHG).powerEv 2 0).fitTouch :=
      .of_regs (hfit _)
    refine ⟨?_, fun _ => (hregs.on _).trans (Dev.on_event_self _ _ (by decide) rfl)⟩
    rw [hregs.rd, Dev.rd_event_apart _ _ _ (by decide) (by decide), Dev.rd_wr_self _ _ _ (by decide)]
    exact Nat.mod_eq_of_lt (show o < 4 by omega)

theorem Dev.opTo_spec (s : Dev) {o : Nat} (ho : o ≤ 2) : (s.opTo o).rd F.PM_STAT_OP = o ∧
    (s.rd F.PM_STAT_OP ≠ o → (s.opTo o).on F.PM_EVT_OP_CHG = true) := by
  have hf : Dev.Frame [21] [] s (Dev.when (s.rd F.PM_STAT_OP != o) (·.pcClock 0x1302) s) := .when _ _ s (Dev.pcClock_frame s _ _ _)
  obtain ⟨hop, hev⟩ := (Dev.when (s.rd F.PM_STAT_OP != o) (·.pcClock 0x1302) s).opSet_spec ho
  rw [hf.rd F.PM_STAT_OP] at hev
  exact ⟨hop, hev⟩

theorem Dev.pointReached_frame (s : Dev) : Dev.Frame [11, 12, 13, 14, 19, 21] (.pm :: cancelParts) s s.pointReached := by
  unfold Dev.pointReached
  split
  · exact (((Dev.Frame.refl _ _ s).wr _ _).setPm _).then (Dev.glSync_frame _)
  · exact .refl _ _ s

theorem Dev.pointReached_reqPend (s : Dev) : s.pointReached.pm.reqPend = none := by
  unfold Dev.pointReached
  split
  · rw [(Dev.glSync_frame _).part .pm]
    rfl
  · next h => exact h

theorem Dev.pointReached_rd (s : Dev) (f : Fld) (h : F.PM_STAT_REQ.apart f = true := by decide) (hw : blockOf f.reg ∉ [11, 12, 13, 14, 21] := by decide) :
    s.pointReached.rd f = s.rd f := by
  unfold Dev.pointReached
  split
  · rw [(Dev.glSync_frame _).rd f hw, Dev.setPm_rd, Dev.rd_wr_apart _ _ _ _ (by decide) h]
  · rfl

end Sys2Proof.Machine

namespace Sys2Proof.Proofs
open Sys2Proof.Machine

/-- Settles O44: what a confirmed, refused or retried voltage writes is out of reach of the power manager's step, which moves slices, the
boot gate, SEQ and whose command waits. -/
theorem operatingPoint : Obligations.OperatingPoint := by
  unfold Obligations.OperatingPoint
  intro s hrun
  have hvout (mv : BitVec 10) : Writes (s.dev.wr F.PM_AVS_VOUT mv.toNat) [] s { s with dev := s.fresh.dev.wr F.PM_AVS_VOUT mv.toNat } :=
    .of ((Dev.RegsAs.setTx [] s.dev).wr _ _) ((Dev.Keeps.wr _ _ _).symm.trans ((Dev.Keeps.setTx [] [] s.dev).trans (Dev.Keeps.wr _ _ _)))
  refine ⟨fun mv => ⟨fun ht => ?_, fun p ht hp h1 h2 => ?_, fun p ht hno => ?_⟩, fun p ht hu => ?_, fun p ht hu => ?_, fun hr => ?_, fun status => ?_,
    fun p ht hp hd hs hv hc => ?_⟩
  · have hexec : exec (.avsPoll mv) s = .next { s with dev := s.fresh.dev.avsPoll mv.toNat } := State.onDev_next s _ hrun
    rw [Dev.avsPoll_not (s := s.fresh.dev) (fun p hp => by cases ht.symm.trans hp)] at hexec
    exact ⟨_, hexec, hvout mv⟩
  · have hexec : exec (.avsPoll mv) s = .next { s with dev := s.fresh.dev.avsPoll mv.toNat } := State.onDev_next s _ hrun
    rw [Dev.avsPoll_confirms (s := s.fresh.dev) ht ⟨h1, h2⟩] at hexec
    obtain ⟨hvop, hread, hf⟩ := (s.fresh.dev.wr F.PM_AVS_VOUT mv.toNat).voltsRead_spec p hp
    have hself : (s.fresh.dev.wr F.PM_AVS_VOUT mv.toNat).rd F.PM_AVS_VOUT = mv.toNat :=
      (Dev.rd_wr_self _ _ _ (by decide)).trans (Nat.mod_eq_of_lt mv.isLt)
    exact ⟨_, hexec, hread.trans hself, hvop, (((Dev.Frame.refl _ _ s.fresh.dev).wr _ _).trans hf).only⟩
  · have hexec : exec (.avsPoll mv) s = .next { s with dev := s.fresh.dev.avsPoll mv.toNat } := State.onDev_next s _ hrun
    rw [Dev.avsPoll_not (s := s.fresh.dev) (fun q hq => by obtain rfl := Option.some.inj (ht.symm.trans hq); exact hno)] at hexec
    exact ⟨_, hexec, hvout mv⟩
  · have hexec : exec .avsFail s = .next { s with dev := s.fresh.dev.avsFailed } := State.onDev_next s _ hrun
    have hf := s.fresh.dev.avsTold_frame p
    have hclk : (s.fresh.dev.avsTold p).unclocked = true := by
      rw [Dev.unclocked, hf.part .pm]
      exact hu
    rw [Dev.avsFailed_eq (s := s.fresh.dev) ht, if_pos hclk] at hexec
    exact ⟨_, hexec, s.fresh.dev.avsTold_on p, hf.only⟩
  · have hexec : exec .avsFail s = .next { s with dev := s.fresh.dev.avsFailed } := State.onDev_next s _ hrun
    have hf := s.fresh.dev.avsTold_frame p
    have hon := s.fresh.dev.avsTold_on p
    have hop : (s.fresh.dev.avsTold p).rd F.PM_STAT_OP = s.dev.rd F.PM_STAT_OP := s.fresh.dev.avsTold_rd p _
    have hpm : (s.fresh.dev.avsTold p).pm = s.dev.pm := hf.part .pm
    have hclk : ¬ (s.fresh.dev.avsTold p).unclocked = true := by
      rw [Dev.unclocked, hpm]
      exact Bool.eq_false_iff.mp hu
    rw [Dev.avsFailed_eq (s := s.fresh.dev) ht, if_neg hclk, hop] at hexec
    generalize s.fresh.dev.avsTold p = d at *
    by_cases hlt : p < s.dev.rd F.PM_STAT_OP
    · rw [if_pos hlt] at hexec
      obtain ⟨hfail, ⟨op, m, hgave⟩, hready⟩ := d.raiseGivenUp_spec
      rw [hpm] at hgave hready
      refine ⟨_, hexec, hfail.trans hon, congrArg Pm.avsTgt hgave, fun _ => ⟨(congrArg Pm.avsRetry hgave).trans rfl, congrArg Pm.reqPend hgave, fun m r hm h8 => ⟨?_, hready m r hm h8⟩⟩,
        fun hge => absurd hlt (by omega), (hf.mono.then d.raiseGivenUp_frame).only⟩
      refine (congrArg Pm.opReq hgave).trans ?_
      show (if s.dev.pm.mb.isSome then s.dev.pm.undoOp else s.dev.pm.opReq) = _
      rw [hm]
      rfl
    · rw [if_neg hlt] at hexec
      obtain ⟨m, hm⟩ := (d.setPm Pm.retries).pmCheck_pm
      have hall : Dev.Frame pmWindows pmParts s.fresh.dev (d.setPm Pm.retries).pmCheck := (hf.mono.setPm _).then (Dev.pmCheck_frame _)
      exact ⟨_, hexec, ((d.setPm Pm.retries).pmCheck_on _).trans hon, congrArg Pm.avsTgt hm, fun h => absurd h hlt, fun _ => congrArg Pm.avsRetry hm,
        hall.only⟩
  · have hexec : exec .avsRetry s = .next { s with dev := s.fresh.dev.avsAgain } := State.onDev_next s _ hrun
    obtain ⟨htx, htgt, hretry, hseq, hf⟩ := Dev.avsAgain_spec (s := s.fresh.dev) hr
    exact ⟨_, hexec, htx, htgt, hretry, hseq, hf.only⟩
  · have hexec : exec (.avsAlert status) s = .next { s with dev := s.fresh.dev.avsAlerted status.toNat } := State.onDev_next s _ hrun
    have hregs : Dev.RegsAs s.dev (s.fresh.dev.raise 0x1302 1 (srcWord 19) status.toNat) := .of_regs (Dev.raise_regs _ _ _ _ _ _)
    refine ⟨_, hexec, Dev.on_event_self _ _ (by decide) rfl, ?_, .of (hregs.event _) ?_⟩
    · refine (Dev.event_fc _ _).trans ?_
      show ({ s.dev.fc with lines := s.dev.fc.lines ++ [s.dev.latched ⟨0x1302, 1, srcWord 19, BitVec.ofNat 32 status.toNat, true⟩] } : Fc) = _
      rw [BitVec.ofNat_toNat, BitVec.setWidth_eq]
    · exact ((Dev.Keeps.wr _ _ _).symm.all.trans (Dev.Keeps.setTx [] [] s.dev).all).trans
        (((Dev.Frame.refl [19] [.evq, .fc] _).raise _ _ _ _ _).event _).keeps
  · have hexec : exec .dividerSwitch s = .next { s with dev := s.fresh.dev.dividerSwitch } := State.onDev_next s _ hrun
    rw [Dev.dividerSwitch_go (s := s.fresh.dev) ht hd hs hv hc] at hexec
    obtain ⟨hop, hev⟩ := s.fresh.dev.opTo_spec hp
    have hf := s.fresh.dev.opTo_frame p
    generalize s.fresh.dev.opTo p = d at *
    have hall : Dev.Frame pmWindows (.th :: pmParts) s.fresh.dev d.pointReached.dividerSet.pmStep :=
      ((hf.mono.then d.pointReached_frame).setPm _).then (Dev.pmStep_frame _)
    have hrd (f : Fld) (h : F.PM_STAT_SEQ.apart f = true := by decide) (h' : F.PM_STAT_REQ.apart f = true := by decide)
        (hw : blockOf f.reg = 19 := by decide) : d.pointReached.dividerSet.pmStep.rd f = d.rd f := by
      rw [Dev.pmStep_rd _ f h (by rw [hw]; decide) (by rw [hw]; decide), Dev.dividerSet, Dev.setPm_rd, d.pointReached_rd f h' (by rw [hw]; decide)]
    refine ⟨_, hexec, (hrd F.PM_STAT_OP).trans hop, fun hne => (congrArg (· == 1) (hrd F.PM_EVT_OP_CHG)).trans (hev hne), ?_, hall.only⟩
    rw [Dev.pmStep_reqPend]
    exact d.pointReached_reqPend

end Sys2Proof.Proofs
end

section
-- One proof after another: in parallel the proofs of this text would not fit the memory that its check allows.
set_option Elab.async false
/-!
PROOFS. Transactions that name a bus-port counter which does not exist (12 R288, R296; 15 R348): the statements speak of every state, and a
count of such a transaction falls outside the windows that they let change.
-/
namespace Sys2Proof.Proofs
open Sys2Proof.Machine

/-- A read of T0 by M0 that passed the filter of counter 2048, whose registers would lie past the last window. -/
def strayRead : BmW := { q := { (default : BmReq) with beats := 1 }, grantedFor := [2048] }

/-- That read stands outstanding, and the word where counter 2048 would be selected asks for beats. -/
def strayOut (w : BmW) : State :=
  resetWith (fun d => ({ d with bm := { d.bm with out := [w] } }).setReg (R.PC_BPSEL 2048) 0x20)

theorem blockOf_stray : blockOf (R.PC_BPCNT_LO 2048) ∉ [17, 21] := by decide

theorem strayOut_count (w : BmW) : (strayOut w).dev.reg (R.PC_BPCNT_LO 2048) = 0 := rfl

/-- The last answer of the drain counts the read's beat in that counter. -/
theorem strayDrain_count :
    (Dev.rstMid 0 0 0 (strayOut { strayRead with drain := true }).fresh.dev).reg (R.PC_BPCNT_LO 2048) = 1 := by decide +kernel

/-- The answer counts it too. -/
theorem strayAnswer_count : (Dev.bmResponse 0 0 false 0 [] (strayOut strayRead).fresh.dev).reg (R.PC_BPCNT_LO 2048) = 1 := by decide +kernel

/-- Refutes O49: the beats of a drain's last answer pass for the counters that took its grant, whichever numbers those are. -/
theorem not_busSlicesAndDrains : ¬ Obligations.BusSlicesAndDrains := by
  unfold Obligations.BusSlicesAndDrains
  intro h
  obtain ⟨-, -, -, hrst⟩ := h (strayOut { strayRead with drain := true }) rfl
  obtain ⟨t, hexec, -, -, -, -, -, hwithin, -⟩ := hrst 0 0 0 { strayRead with drain := true } (by decide) (by decide) (by decide)
  have hdev := dev_of_onDev (f := Dev.rstMid 0 0 0) hexec rfl
  have hcount := strayDrain_count
  rw [← hdev, hwithin _ blockOf_stray, strayOut_count] at hcount
  exact absurd hcount (by decide)

/-- Refutes O48: the beats of an answered read pass for the counters that took its grant, whichever numbers those are. -/
theorem not_busGrantAndAnswer : ¬ Obligations.BusGrantAndAnswer := by
  unfold Obligations.BusGrantAndAnswer
  intro h
  obtain ⟨-, hanswer, -⟩ := h (strayOut strayRead) 0 rfl
  obtain ⟨t, hexec, -, -, hzero, -⟩ := hanswer 0 false 0 [] 0 strayRead (by decide) (by decide) rfl rfl
  have hdev := dev_of_onDev (f := Dev.bmResponse 0 0 false 0 []) hexec rfl
  obtain ⟨-, hwithin, -⟩ := hzero rfl
  have hcount := strayAnswer_count
  rw [← hdev, hwithin _ blockOf_stray, strayOut_count] at hcount
  exact absurd hcount (by decide)

end Sys2Proof.Proofs
end

section
-- One proof after another: in parallel the proofs of this text would not fit the memory that its check allows.
set_option Elab.async false
/-!
PROOFS. Lanes that leave service, faults of lanes, retrains and enables (03 R82, R83, Tables 3.3 and 3.14).
-/
namespace Sys2Proof.Machine

/-! ### Lanes and their vats -/

/-- The other lane of the vat. -/
def mate (k : Nat) : Nat := 2 * (k / 2) + (1 - k % 2)

theorem mate_ne (k : Nat) : mate k ≠ k := by
  unfold mate
  omega

theorem mate_lt {k : Nat} (h : k < 128) : mate k < 128 := by
  unfold mate
  omega

theorem Dev.vatActive_eq (s : Dev) (k : Nat) : s.vatActive (k / 2) = (s.laneActive k || s.laneActive (mate k)) := by
  unfold Dev.vatActive mate
  obtain h | h := Nat.mod_two_eq_zero_or_one k
  · rw [h, Nat.sub_zero, show 2 * (k / 2) = k by omega]
  · rw [h, Nat.sub_self, Nat.add_zero, show 2 * (k / 2) + 1 = k by omega, Bool.or_comm, Nat.add_zero]

theorem Dev.laneActive_of_rd {s t : Dev} {k : Nat} (h : t.rd (F.VL_LSTAT_STATE k) = s.rd (F.VL_LSTAT_STATE k)) :
    t.laneActive k = s.laneActive k := congrArg (· == 6) h

theorem Dev.laneActive_false {s : Dev} {k : Nat} (h : s.rd (F.VL_LSTAT_STATE k) ≠ 6) : s.laneActive k = false := by
  simpa [Dev.laneActive] using h

/-! ### A lane changes its state -/

/-- What a lane that has left service for state st leaves: of its status word only STATE changes, of the lanes' registers only that word
and RETRAIN. -/
structure Dev.LaneLeft (k st : Nat) (s t : Dev) : Prop where
  state : t.rd (F.VL_LSTAT_STATE k) = st
  status : ∀ f, f.reg = R.VL_LSTAT k → 4 ≤ f.lo → t.rd f = s.rd f
  regs : ∀ off, 0x61000 ≤ off → off ≠ R.VL_LSTAT k → off ≠ R.VL_RETRAIN k → blockOf off = 6 → t.reg off = s.reg off

theorem Dev.LaneLeft.mateState {k st : Nat} {s t : Dev} (h : Dev.LaneLeft k st s t) (hk : k < 128) : t.laneActive (mate k) = s.laneActive (mate k) := by
  have hm := mate_lt hk
  have hne := mate_ne k
  refine Dev.laneActive_of_rd ?_
  rw [Dev.rd, Dev.rd]
  rw [h.regs _ (by simp only [F.VL_LSTAT_STATE]; omega) (by simp only [F.VL_LSTAT_STATE, R.VL_LSTAT]; omega)
    (by simp only [F.VL_LSTAT_STATE, R.VL_RETRAIN]; omega) (by simp only [F.VL_LSTAT_STATE, blockOf]; omega)]

theorem Dev.setLane_left (s : Dev) {k st : Nat} (hk : k < 128) (hst : st < 16) : Dev.LaneLeft k st s (s.setLane k st) := by
  have hup {off : Nat} (h : 0x61000 ≤ off) : (s.setLane k st).reg off = (s.wr (F.VL_LSTAT_STATE k) st).reg off :=
    Dev.reg_setReg_ne _ (by simp only [R.VL_LANE_UP0]; omega) _
  have hlstat : 0x61000 ≤ R.VL_LSTAT k := by simp only [R.VL_LSTAT]; omega
  refine ⟨?_, fun f hf hlo => ?_, fun off h1 h2 _ _ => ?_⟩
  · rw [Dev.rd, show (F.VL_LSTAT_STATE k).reg = R.VL_LSTAT k from rfl, hup hlstat]
    exact (Dev.rd_wr_self s (F.VL_LSTAT_STATE k) st rfl).trans (Nat.mod_eq_of_lt hst)
  · rw [Dev.rd, hf, hup hlstat, ← hf]
    exact Dev.rd_wr_apart s _ f st rfl (by simp [Fld.apart, F.VL_LSTAT_STATE, hlo])
  · rw [hup h1]
    exact Dev.reg_wr_ne s (Ne.symm h2) st

/-- What a training collects starts over. -/
def Lane.left (x : Lane) : Lane :=
  { x with trnGood := 0, exch := [], nDelay := 0, dreq := none, locked := false, doubt := none, seqRej := 0, fails := [], toffBad := 0,
           dreqAt := none, runLost := false }

/-- A lane leaves service, before its vat is judged. -/
def Dev.laneMoved (s : Dev) (k st : Nat) : Dev := Dev.when (st == 1) (·.count (F.VL_RETRAIN k)) ((s.setLane k st).modLane k Lane.left)

theorem Dev.laneLeave_eq (s : Dev) (k st : Nat) : s.laneLeave k st =
    Dev.when (s.vatActive (k / 2) && !(s.laneMoved k st).vatActive (k / 2)) (·.vatLost (k / 2)) (s.laneMoved k st) := rfl

theorem Dev.laneMoved_frame (s : Dev) {k : Nat} (hk : k < 128) (st : Nat) : Dev.Frame [6] [.vl] s (s.laneMoved k st) :=
  (((s.setLane_frame hk st).mono (w' := [6]) (l' := [.vl])).modLane k Lane.left).when' _
    ((Dev.Frame.refl _ _ _).count _ _ (laneReg_mem (by decide) (by decide) hk (by decide)))

theorem Dev.laneMoved_left (s : Dev) {k st : Nat} (hk : k < 128) (hst : st < 16) : Dev.LaneLeft k st s (s.laneMoved k st) := by
  obtain ⟨hstate, hstatus, hregs⟩ := s.setLane_left hk hst
  have hkeep {off : Nat} (h : off ≠ R.VL_RETRAIN k) : (s.laneMoved k st).reg off = (s.setLane k st).reg off := by
    unfold Dev.laneMoved Dev.when
    split
    · exact Dev.reg_count_ne _ (Ne.symm h) 1
    · rfl
  have hlstat : R.VL_LSTAT k ≠ R.VL_RETRAIN k := by simp only [R.VL_LSTAT, R.VL_RETRAIN]; omega
  refine ⟨?_, fun f hf hlo => ?_, fun off h1 h2 h3 h4 => (hkeep h3).trans (hregs off h1 h2 h3 h4)⟩
  · rw [Dev.rd, show (F.VL_LSTAT_STATE k).reg = R.VL_LSTAT k from rfl, hkeep hlstat]
    exact hstate
  · rw [← hstatus f hf hlo, Dev.rd, Dev.rd, hf, hkeep hlstat]

theorem Dev.laneMoved_retrain (s : Dev) {k : Nat} : (s.laneMoved k 1).rd (F.VL_RETRAIN k) = min (s.rd (F.VL_RETRAIN k) + 1) 0xFFFFFFFF := by
  have h : (s.setLane k 1).rd (F.VL_RETRAIN k) = s.rd (F.VL_RETRAIN k) := by
    rw [Dev.rd, Dev.rd, Dev.setLane, Dev.reg_setReg_ne _ (by simp only [R.VL_LANE_UP0, F.VL_RETRAIN]; omega),
      Dev.reg_wr_ne s (by simp only [F.VL_LSTAT_STATE, F.VL_RETRAIN]; omega)]
  rw [← h]
  exact Dev.rd_count_self _ _ 1 rfl rfl

theorem Dev.vatLost_reg (s : Dev) (v : Nat) {off : Nat} (h : 0x61000 ≤ off) (hb : blockOf off = 6) : (s.vatLost v).reg off = s.reg off := by
  have hheld : (((s.raise 0x0612 2 (srcWord 6 v)).regardHeld v).accZero v).reg off = s.reg off :=
    Dev.reg_wr2_ne _ (by simp only [R.VL_VAT_HELD_LO]; omega) (by simp only [R.VL_VAT_HELD_LO]; omega) _
  rw [← hheld]
  exact (Dev.glSync_frame _).within off (by rw [hb]; decide)

theorem Dev.held_setHeld (s : Dev) {v : Nat} (h : v < 64) : (s.setHeld v true).held v = true := by
  rw [Dev.held, Dev.setHeld, if_pos rfl, Dev.rd2_wr2_self, bit_mod _ h, bit_setBit_self]

theorem Dev.vatLost_held (s : Dev) {v : Nat} (h : v < 64) : (s.vatLost v).held v = true := by
  have hset : (((s.raise 0x0612 2 (srcWord 6 v)).regardHeld v).accZero v).held v = true := Dev.held_setHeld _ h
  rw [← hset, Dev.held, Dev.held]
  exact congrArg (bit · v) ((Dev.glSync_frame _).within.rd2 R.VL_VAT_HELD_LO (by decide) (by decide))

theorem Dev.LaneLeft.when_vatLost {k st : Nat} {s t : Dev} (h : Dev.LaneLeft k st s t) (c : Bool) (v : Nat) (hk : k < 128) :
    Dev.LaneLeft k st s (Dev.when c (·.vatLost v) t) := by
  have hkeep {off : Nat} (h1 : 0x61000 ≤ off) (h2 : blockOf off = 6) : (Dev.when c (·.vatLost v) t).reg off = t.reg off := by
    cases c with
    | true => exact t.vatLost_reg v h1 h2
    | false => rfl
  have h1 : 0x61000 ≤ R.VL_LSTAT k := by simp only [R.VL_LSTAT]; omega
  have h2 : blockOf (R.VL_LSTAT k) = 6 := by simp only [R.VL_LSTAT, blockOf]; omega
  refine ⟨?_, fun f hf hlo => ?_, fun off h3 h4 h5 h6 => (hkeep h3 h6).trans (h.regs off h3 h4 h5 h6)⟩
  · rw [← h.state, Dev.rd, Dev.rd, show (F.VL_LSTAT_STATE k).reg = R.VL_LSTAT k from rfl, hkeep h1 h2]
  · rw [← h.status f hf hlo, Dev.rd, Dev.rd, hf, hkeep h1 h2]

theorem Dev.laneLeave_left (s : Dev) {k st : Nat} (hk : k < 128) (hst : st < 16) : Dev.LaneLeft k st s (s.laneLeave k st) :=
  (s.laneMoved_left hk hst).when_vatLost _ _ hk

/-- A lane that was not ACTIVE takes no vat out of service. -/
theorem Dev.laneLeave_inactive {s : Dev} {k st : Nat} (hk : k < 128) (hst : st < 16) (hs : s.rd (F.VL_LSTAT_STATE k) ≠ 6) :
    s.laneLeave k st = s.laneMoved k st := by
  have hl := s.laneMoved_left hk hst
  rw [Dev.laneLeave_eq, Dev.vatActive_eq, Dev.vatActive_eq, hl.mateState hk, Dev.laneActive_false hs]
  have hc : ((false || s.laneActive (mate k)) && !((s.laneMoved k st).laneActive k || s.laneActive (mate k))) = false := by
    cases s.laneActive (mate k) <;> simp
  rw [hc]
  rfl

/-- A vat whose last ACTIVE lane leaves service is held. -/
theorem Dev.laneLeave_held {s : Dev} {k st : Nat} (hk : k < 128) (hst : st < 16) (hne : st ≠ 6) (hv : s.vatActive (k / 2) = true)
    (hm : s.laneActive (mate k) = false) : (s.laneLeave k st).held (k / 2) = true := by
  have hl := s.laneMoved_left hk hst
  have hself : (s.laneMoved k st).laneActive k = false := Dev.laneActive_false (by rw [hl.state]; exact hne)
  rw [Dev.laneLeave_eq, hv, Dev.vatActive_eq, hl.mateState hk, hm, hself]
  exact Dev.vatLost_held _ (by omega)

/-! ### A lane fault -/

/-- The cause of a lane's fault and its line. -/
def Dev.faultTold (s : Dev) (k cause : Nat) : Dev := (s.wr (F.VL_LSTAT_CAUSE k) cause).raise (0x0600 + cause) 1 (laneSrc k) cause

theorem Dev.laneFault_eq (s : Dev) (k cause st : Nat) : s.laneFault k cause st = (s.faultTold k cause).laneLeave k st := rfl

theorem Dev.faultTold_regs (s : Dev) (k cause : Nat) : Dev.RegsAs (s.wr (F.VL_LSTAT_CAUSE k) cause) (s.faultTold k cause) :=
  .of_regs (Dev.raise_regs _ _ _ _ _ _)

theorem Dev.faultTold_frame (s : Dev) {k : Nat} (hk : k < 128) (cause : Nat) : Dev.Frame [6] [.fc] s (s.faultTold k cause) :=
  ((Dev.Frame.refl _ _ s).wr _ _ (laneReg_mem (by decide) (by decide) hk (by decide))).raise _ _ _ _ _

theorem Dev.faultTold_rd (s : Dev) (k cause : Nat) {f : Fld} (h : (F.VL_LSTAT_CAUSE k).apart f = true) : (s.faultTold k cause).rd f = s.rd f := by
  rw [(s.faultTold_regs k cause).rd, Dev.rd_wr_apart _ _ _ _ rfl h]

theorem Dev.faultTold_state (s : Dev) (k cause j : Nat) : (s.faultTold k cause).rd (F.VL_LSTAT_STATE j) = s.rd (F.VL_LSTAT_STATE j) :=
  s.faultTold_rd k cause (by simp [Fld.apart, F.VL_LSTAT_STATE, F.VL_LSTAT_CAUSE])

theorem Dev.faultTold_vatActive (s : Dev) (k cause v : Nat) : (s.faultTold k cause).vatActive v = s.vatActive v := by
  simp only [Dev.vatActive, Dev.laneActive, Dev.faultTold_state]

theorem Dev.laneFault_state (s : Dev) {k cause st : Nat} (hk : k < 128) (hst : st < 16) : (s.laneFault k cause st).rd (F.VL_LSTAT_STATE k) = st :=
  ((s.faultTold k cause).laneLeave_left hk hst).state

theorem Dev.laneFault_cause (s : Dev) {k cause st : Nat} (hk : k < 128) (hst : st < 16) (hc : cause < 16) :
    (s.laneFault k cause st).rd (F.VL_LSTAT_CAUSE k) = cause := by
  rw [Dev.laneFault_eq, ((s.faultTold k cause).laneLeave_left hk hst).status _ rfl (le_refl 4), (s.faultTold_regs k cause).rd,
    Dev.rd_wr_self _ _ _ rfl]
  exact Nat.mod_eq_of_lt hc

/-- A fault leaves what else the status word shows. -/
theorem Dev.laneFault_status (s : Dev) {k cause st : Nat} (hk : k < 128) (hst : st < 16) {f : Fld} (hf : f.reg = R.VL_LSTAT k) (hlo : 8 ≤ f.lo) :
    (s.laneFault k cause st).rd f = s.rd f := by
  rw [Dev.laneFault_eq, ((s.faultTold k cause).laneLeave_left hk hst).status f hf (by omega)]
  exact s.faultTold_rd k cause (by simp [Fld.apart, F.VL_LSTAT_CAUSE, hlo])

theorem Dev.laneFault_reg (s : Dev) {k cause st off : Nat} (hk : k < 128) (hst : st < 16) (h1 : 0x61000 ≤ off) (h2 : off ≠ R.VL_LSTAT k)
    (h3 : off ≠ R.VL_RETRAIN k) (h4 : blockOf off = 6) : (s.laneFault k cause st).reg off = s.reg off := by
  rw [Dev.laneFault_eq, ((s.faultTold k cause).laneLeave_left hk hst).regs off h1 h2 h3 h4, s.faultTold_regs k cause off]
  exact Dev.reg_wr_ne s (Ne.symm h2) _

theorem Dev.laneFault_inactive_frame {s : Dev} {k cause st : Nat} (hk : k < 128) (hst : st < 16) (hs : s.rd (F.VL_LSTAT_STATE k) ≠ 6) :
    Dev.Frame [6] [.vl, .fc, .freeCtr] s (s.laneFault k cause st) := by
  rw [Dev.laneFault_eq, Dev.laneLeave_inactive hk hst (by rwa [s.faultTold_state])]
  exact ((s.faultTold_frame hk cause).mono).then ((s.faultTold k cause).laneMoved_frame hk st)

theorem Dev.laneFault_held {s : Dev} {k cause st : Nat} (hk : k < 128) (hst : st < 16) (hne : st ≠ 6) (hv : s.vatActive (k / 2) = true)
    (hm : s.laneActive (mate k) = false) : (s.laneFault k cause st).held (k / 2) = true := by
  rw [Dev.laneFault_eq]
  exact Dev.laneLeave_held hk hst hne (by rw [s.faultTold_vatActive, hv]) (by rw [← hm]; exact Dev.laneActive_of_rd (s.faultTold_state _ _ _))

/-! ### Block lock is lost (03 R61) -/

/-- A loss of block lock is counted, unless it was before. -/
def Dev.lossCounted (s : Dev) (k : Nat) : Dev := Dev.when (!(s.lane k).runLost) (·.count (F.VL_LOCK_LOSS k)) s

theorem Dev.lossCounted_rd (s : Dev) (k : Nat) : (s.lossCounted k).rd (F.VL_LOCK_LOSS k) =
    if (s.lane k).runLost then s.rd (F.VL_LOCK_LOSS k) else min (s.rd (F.VL_LOCK_LOSS k) + 1) 0xFFFFFFFF := by
  unfold Dev.lossCounted Dev.when
  cases (s.lane k).runLost with
  | true => rfl
  | false => exact Dev.rd_count_self s _ 1 rfl rfl

theorem Dev.lossCounted_frame (s : Dev) {k : Nat} (hk : k < 128) : Dev.Frame [6] [] s (s.lossCounted k) :=
  .when _ _ s ((Dev.Frame.refl _ _ s).count _ _ (laneReg_mem (by decide) (by decide) hk (by decide)))

theorem Dev.lossCounted_state (s : Dev) (k j : Nat) : (s.lossCounted k).rd (F.VL_LSTAT_STATE j) = s.rd (F.VL_LSTAT_STATE j) := by
  unfold Dev.lossCounted Dev.when
  split
  · exact Dev.rd_count_apart s _ _ 1 rfl 
      (by simp only [Fld.apart, F.VL_LSTAT_STATE, F.VL_LOCK_LOSS, Bool.or_eq_true]; exact .inl (.inl (decide_eq_true (by omega))))
  · rfl

/-! ### A write of a lane's configuration (03 R83) -/

/-- VL_LCFG in the table of registers. -/
def lcfgSpec : RegSpec := ⟨"VL_LCFG", 0x61000, 0x40, 128, 0x5, 1, [rf 4 4 .wo, rf 3 3 .rw, rf 2 1 .rw, rf 0 0 .rw]⟩

theorem regAt_lcfg_eq {k : Nat} (h : k < 128) : regAt (R.VL_LCFG k) = some lcfgSpec := by
  interval_cases k <;> rfl

theorem Dev.store_lcfgEn {k : Nat} (hk : k < 128) (v : Nat) (s : Dev) : (s.store (R.VL_LCFG k) v).on (F.VL_LCFG_EN k) = bit v 0 :=
  Dev.store_bit0 (regAt_lcfg_eq hk) (fun _ v => rf00_written v _) rfl v s

theorem Dev.regPut_lcfg {k : Nat} (hk : k < 128) (v : Nat) (s : Dev) :
    s.regPut (R.VL_LCFG k) v 0 0 = (s.store (R.VL_LCFG k) v).lcfgWritten k (s.on (F.VL_LCFG_EN k)) (bit v 4) := by
  have hb : R.VL_LCFG k / 0x10000 = 6 := by simp only [R.VL_LCFG]; omega
  have hl : (R.VL_LCFG k - 0x61000) / 0x40 = k := by simp only [R.VL_LCFG]; omega
  have hc : R.VL_LCFG k ≠ R.VL_CFG := by simp only [R.VL_LCFG, R.VL_CFG]; omega
  unfold Dev.regPut
  rw [hb]
  show Dev.putVl (R.VL_LCFG k) v s = _
  unfold Dev.putVl
  dsimp only
  rw [hl, if_neg hc, if_pos ⟨by simp only [R.VL_LCFG]; omega, rfl, hk⟩]

/-- The state of the lane after it has been told to train. -/
theorem Dev.toDetect_spec {s : Dev} {k : Nat} (hk : k < 128) :
    (s.toDetect k).rd (F.VL_LSTAT_STATE k) = (if s.mayTrain k then 1 else s.rd (F.VL_LSTAT_STATE k)) ∧
    (s.toDetect k).on (F.VL_LCFG_EN k) = s.on (F.VL_LCFG_EN k) := by
  unfold Dev.toDetect
  split
  · have h := s.laneLeave_left hk (show 1 < 16 by decide)
    refine ⟨h.state, ?_⟩
    rw [Dev.on, Dev.rd, h.regs _ (by simp only [F.VL_LCFG_EN]; omega) (by simp only [F.VL_LCFG_EN, R.VL_LSTAT]; omega)
      (by simp only [F.VL_LCFG_EN, R.VL_RETRAIN]; omega) (by simp only [F.VL_LCFG_EN, blockOf]; omega)]
    rfl
  · exact ⟨rfl, rfl⟩

theorem Dev.lcfgWritten_train {s : Dev} {k : Nat} {was retrain : Bool} (hen : s.on (F.VL_LCFG_EN k) = true)
    (h : retrain = true ∨ was = false ∧ s.on F.VL_CFG_AUTO_TRAIN = true) : s.lcfgWritten k was retrain = s.toDetect k := by
  unfold Dev.lcfgWritten
  dsimp only
  rw [hen]
  obtain rfl | ⟨rfl, hauto⟩ := h
  · simp
  · simp [hauto]

theorem Dev.lcfgWritten_off {s : Dev} {k : Nat} {retrain : Bool} (hen : s.on (F.VL_LCFG_EN k) = false) :
    s.lcfgWritten k true retrain = (s.wr (F.VL_LSTAT_CAUSE k) 12).laneLeave k 0 := by
  unfold Dev.lcfgWritten
  dsimp only
  rw [hen]
  rfl

theorem Dev.setLegs_frame (s : Dev) {k : Nat} (hk : k < 128) (a b c : Bool) : Dev.Frame [6] [] s (s.setLegs k a b c) :=
  (((Dev.Frame.refl _ _ s).wrB _ _ (laneReg_mem (by decide) (by decide) hk (by decide))).wrB _ _
    (laneReg_mem (by decide) (by decide) hk (by decide))).wrB _ _ (laneReg_mem (by decide) (by decide) hk (by decide))

theorem Dev.setLegs_spec (s : Dev) (k : Nat) (a b c : Bool) : (s.setLegs k a b c).on (F.VL_LSTAT_OPEN_P k) = a ∧
    (s.setLegs k a b c).on (F.VL_LSTAT_OPEN_N k) = b ∧ (s.setLegs k a b c).on (F.VL_LSTAT_SHORT k) = c ∧
    (s.setLegs k a b c).rd (F.VL_LSTAT_STATE k) = s.rd (F.VL_LSTAT_STATE k) := by
  have hPN : (F.VL_LSTAT_OPEN_N k).apart (F.VL_LSTAT_OPEN_P k) = true := by simp [Fld.apart, F.VL_LSTAT_OPEN_N, F.VL_LSTAT_OPEN_P]
  have hPS : (F.VL_LSTAT_SHORT k).apart (F.VL_LSTAT_OPEN_P k) = true := by simp [Fld.apart, F.VL_LSTAT_SHORT, F.VL_LSTAT_OPEN_P]
  have hNS : (F.VL_LSTAT_SHORT k).apart (F.VL_LSTAT_OPEN_N k) = true := by simp [Fld.apart, F.VL_LSTAT_SHORT, F.VL_LSTAT_OPEN_N]
  have hst (f : Fld) (h : 4 ≤ f.lo) : f.apart (F.VL_LSTAT_STATE k) = true := by simp [Fld.apart, F.VL_LSTAT_STATE, h]
  refine ⟨?_, ?_, Dev.on_wrB_self _ _ _ rfl rfl, ?_⟩
  · rw [Dev.setLegs, Dev.on, Dev.rd_wrB_apart _ _ _ _ rfl hPS, Dev.rd_wrB_apart _ _ _ _ rfl hPN]
    exact Dev.on_wrB_self _ _ _ rfl rfl
  · rw [Dev.setLegs, Dev.on, Dev.rd_wrB_apart _ _ _ _ rfl hNS]
    exact Dev.on_wrB_self _ _ _ rfl rfl
  · rw [Dev.setLegs, Dev.rd_wrB_apart _ _ _ _ rfl (hst _ (Nat.le_of_ble_eq_true rfl)), Dev.rd_wrB_apart _ _ _ _ rfl (hst _ (Nat.le_of_ble_eq_true rfl)),
      Dev.rd_wrB_apart _ _ _ _ rfl (hst _ (Nat.le_of_ble_eq_true rfl))]

theorem Dev.openShort_faults {s : Dev} {k : Nat} {a b c : Bool} (h1 : 1 ≤ s.rd (F.VL_LSTAT_STATE k)) (h6 : s.rd (F.VL_LSTAT_STATE k) ≤ 6)
    (h : a = true ∨ b = true ∨ c = true) : s.openShort k a b c = (s.setLegs k a b c).laneFault k (if a || b then 1 else 2) 8 := by
  unfold Dev.openShort
  dsimp only
  rw [if_neg (by omega)]
  cases hab : a || b with
  | true => rfl
  | false =>
    obtain rfl : c = true := by simpa [Bool.or_eq_false_iff.mp hab] using h
    rfl

/-! ### A loss of block lock -/

/-- What a lane whose LANE run lost it its lock remembers. -/
def Lane.unlocked (x : Lane) : Lane := { x with locked := false, runLost := true }

theorem Dev.lockLost_held {s : Dev} {k : Nat} (h : s.rd (F.VL_LSTAT_STATE k) = 6) (hc : (s.lane k).calHold = true) :
    s.lockLost k = (s.lossCounted k).modLane k Lane.unlocked := by
  unfold Dev.lockLost Dev.lossCounted Dev.when
  dsimp only
  rw [if_pos h, if_pos hc]
  split <;> rfl

theorem Dev.lockLost_fault {s : Dev} {k : Nat} (h : s.rd (F.VL_LSTAT_STATE k) = 6) (hc : (s.lane k).calHold = false) :
    s.lockLost k = (s.lossCounted k).laneFault k 8 1 := by
  unfold Dev.lockLost
  dsimp only
  rw [if_pos h, hc]
  rfl

theorem Dev.lockLost_training {s : Dev} {k : Nat} (h : s.rd (F.VL_LSTAT_STATE k) ≠ 6) :
    s.lockLost k = s.modLane k (fun x => { x with locked := false, trnGood := 0 }) := if_neg h

theorem Dev.lane_modLane_self (s : Dev) (k : Nat) (f : Lane → Lane) : (s.modLane k f).lane k = f (s.lane k) := Tbl.get_mod_self _ _ _

end Sys2Proof.Machine

namespace Sys2Proof.Proofs
open Sys2Proof.Machine

/-- The statement of O39 on the steps of training: a lane that is not ACTIVE takes no vat out of service. -/
theorem trainingTimeout_faults {s : State} {lane : BitVec 7} (hrun : Running s) {c : Nat}
    (h : (s.dev.rd (F.VL_LSTAT_STATE lane.toNat), c) ∈ [(2, 3), (3, 4), (4, 6), (5, 7)]) :
    ∃ t, exec (.trainingTimeout lane) s = .next t ∧ t.dev.rd (F.VL_LSTAT_STATE lane.toNat) = 8 ∧
      t.dev.rd (F.VL_LSTAT_CAUSE lane.toNat) = c ∧ Only [6] [.vl, .fc, .freeCtr] s t := by
  have hk : lane.toNat < 128 := lane.isLt
  have hc : c < 16 ∧ s.dev.rd (F.VL_LSTAT_STATE lane.toNat) ≠ 6 ∧
      s.fresh.dev.trainTimeout lane.toNat = s.fresh.dev.laneFault lane.toNat c 8 := by
    have hst : s.fresh.dev.rd (F.VL_LSTAT_STATE lane.toNat) = s.dev.rd (F.VL_LSTAT_STATE lane.toNat) := rfl
    unfold Dev.trainTimeout
    rw [hst]
    simp only [List.mem_cons, Prod.mk.injEq, List.not_mem_nil, or_false] at h
    rcases h with ⟨h, rfl⟩ | ⟨h, rfl⟩ | ⟨h, rfl⟩ | ⟨h, rfl⟩ <;> rw [h] <;> exact ⟨by decide, by decide, rfl⟩
  obtain ⟨hc, hne, heq⟩ := hc
  have hexec : exec (.trainingTimeout lane) s = .next { s with dev := s.fresh.dev.trainTimeout lane.toNat } := State.onDev_next s _ hrun
  rw [heq] at hexec
  exact ⟨_, hexec, Dev.laneFault_state _ hk (by decide), Dev.laneFault_cause _ hk (by decide) hc,
    (Dev.laneFault_inactive_frame (s := s.fresh.dev) hk (by decide) hne).only⟩

/-- The statement of O39 on a loss of block lock in ACTIVE under a LANE run of the lane's own. -/
theorem lockLost_underRun {s : State} {lane : BitVec 7} (hrun : Running s) (hst : s.dev.rd (F.VL_LSTAT_STATE lane.toNat) = 6)
    (hc : (s.dev.lane lane.toNat).calHold = true) : ∃ t, exec (.lockLost lane) s = .next t ∧ t.dev.rd (F.VL_LSTAT_STATE lane.toNat) = 6 ∧
      (t.dev.lane lane.toNat).locked = false ∧ (t.dev.lane lane.toNat).runLost = true ∧
      t.dev.rd (F.VL_LOCK_LOSS lane.toNat) = (s.dev.lossCounted lane.toNat).rd (F.VL_LOCK_LOSS lane.toNat) ∧ Only [6] [.vl] s t := by
  have hexec : exec (.lockLost lane) s = .next { s with dev := s.fresh.dev.lockLost lane.toNat } := State.onDev_next s _ hrun
  rw [Dev.lockLost_held (s := s.fresh.dev) hst hc] at hexec
  have hlane := (s.fresh.dev.lossCounted lane.toNat).lane_modLane_self lane.toNat Lane.unlocked
  have hloss := (s.dev.lossCounted_rd lane.toNat).trans (s.fresh.dev.lossCounted_rd lane.toNat).symm
  exact ⟨_, hexec, (s.fresh.dev.lossCounted_state _ _).trans hst, congrArg Lane.locked hlane, congrArg Lane.runLost hlane, hloss.symm,
    (((s.fresh.dev.lossCounted_frame lane.isLt).mono (w' := [6]) (l' := [.vl])).modLane _ _).only⟩

/-- The statement of O39 on a loss of block lock in ACTIVE under no such run. -/
theorem lockLost_faults {s : State} {lane : BitVec 7} (hrun : Running s) (hst : s.dev.rd (F.VL_LSTAT_STATE lane.toNat) = 6)
    (hc : (s.dev.lane lane.toNat).calHold = false) : ∃ t, exec (.lockLost lane) s = .next t ∧ t.dev.rd (F.VL_LSTAT_STATE lane.toNat) = 1 ∧
      t.dev.rd (F.VL_LSTAT_CAUSE lane.toNat) = 8 ∧
      t.dev.rd (F.VL_LOCK_LOSS lane.toNat) = (s.dev.lossCounted lane.toNat).rd (F.VL_LOCK_LOSS lane.toNat) ∧
      (s.dev.vatActive (lane.toNat / 2) = true → s.dev.laneActive (mate lane.toNat) = false → t.dev.held (lane.toNat / 2) = true) ∧
      Only laneWindows laneParts s t := by
  have hk : lane.toNat < 128 := lane.isLt
  have hexec : exec (.lockLost lane) s = .next { s with dev := s.fresh.dev.lockLost lane.toNat } := State.onDev_next s _ hrun
  rw [Dev.lockLost_fault (s := s.fresh.dev) hst hc] at hexec
  have hloss := (s.dev.lossCounted_rd lane.toNat).trans (s.fresh.dev.lossCounted_rd lane.toNat).symm
  have hstate (j : Nat) : (s.fresh.dev.lossCounted lane.toNat).laneActive j = s.dev.laneActive j :=
    Dev.laneActive_of_rd (s.fresh.dev.lossCounted_state lane.toNat j)
  have hframe : Dev.Frame laneWindows laneParts s.fresh.dev ((s.fresh.dev.lossCounted lane.toNat).laneFault lane.toNat 8 1) :=
    ((s.fresh.dev.lossCounted_frame hk).mono).then (Dev.laneFault_frame _ hk 8 1)
  refine ⟨_, hexec, Dev.laneFault_state _ hk (by decide), Dev.laneFault_cause _ hk (by decide) (by decide), ?_, fun hv hm => ?_, hframe.only⟩
  · rw [hloss, Dev.rd, Dev.rd]
    rw [Dev.laneFault_reg _ hk (by decide) (by simp only [F.VL_LOCK_LOSS]; omega) (by simp only [F.VL_LOCK_LOSS, R.VL_LSTAT]; omega)
      (by simp only [F.VL_LOCK_LOSS, R.VL_RETRAIN]; omega) (by simp only [F.VL_LOCK_LOSS, blockOf]; omega)]
  · refine Dev.laneFault_held hk (by decide) (by decide) ?_ ((hstate _).trans hm)
    rw [Dev.vatActive, hstate, hstate]
    exact hv

/-- What a granted write of VL_LCFG finds once its fields are in. -/
theorem lcfg_stored {s : State} {via : Via} {k : Nat} (v : Nat) (hk : k < 128) {w : Dev}
    (hw : w = (s.fresh.dev.t6 via (R.VL_LCFG k) true).store (R.VL_LCFG k) v) :
    Dev.Frame [6, 21] [.bm, .fc] s.fresh.dev w ∧ w.on (F.VL_LCFG_EN k) = bit v 0 ∧
      w.rd (F.VL_LSTAT_STATE k) = s.dev.rd (F.VL_LSTAT_STATE k) ∧ w.on F.VL_CFG_AUTO_TRAIN = s.dev.on F.VL_CFG_AUTO_TRAIN ∧
      w.vl = s.dev.vl ∧ w.laneInCal k = s.dev.laneInCal k := by
  have hb : blockOf (R.VL_LCFG k) = 6 := by simp only [blockOf, R.VL_LCFG]; omega
  have hlow (f : Fld) (hf : R.VL_LCFG k ≠ f.reg) (h6 : blockOf f.reg = 6) : w.rd f = s.dev.rd f := by
    rw [hw, Dev.rd, Dev.store_reg_ne hf]
    exact Dev.t6_rd s via _ true f (by rw [h6]; decide)
  have hstore : Dev.Frame [6] [.fc] (s.fresh.dev.t6 via (R.VL_LCFG k) true) w := hw ▸ hb ▸ Dev.store_frame _ v _
  have hall : Dev.Frame [6, 21] [.bm, .fc] s.fresh.dev w := ((Dev.t6_frame via _ true s.fresh.dev).mono).then hstore
  have hcal : w.cal = s.dev.cal := hall.part .cal
  refine ⟨hall, hw ▸ Dev.store_lcfgEn hk v _, hlow _ ?_ ?_, congrArg (· == 1) (hlow F.VL_CFG_AUTO_TRAIN ?_ rfl), hall.part .vl, ?_⟩
  · simp only [F.VL_LSTAT_STATE, R.VL_LCFG]; omega
  · simp only [F.VL_LSTAT_STATE, blockOf]; omega
  · simp only [F.VL_CFG_AUTO_TRAIN, R.VL_LCFG]; omega
  · rw [Dev.laneInCal, hcal]
    rfl

/-- A write of VL_LCFG that sends the lane to DETECT. -/
theorem lcfg_trains {s : State} (via : Via) {k v : Nat} (hk : k < 128) (hgate : s.dev.vl.gate = true) (hv : bit v 0 = true)
    (h : bit v 4 = true ∨ s.dev.on (F.VL_LCFG_EN k) = false ∧ s.dev.on F.VL_CFG_AUTO_TRAIN = true) :
    ∃ d, Dev.regPut (R.VL_LCFG k) v 0 0 (s.fresh.dev.t6 via (R.VL_LCFG k) true) = d ∧ d.on (F.VL_LCFG_EN k) = true ∧
      d.rd (F.VL_LSTAT_STATE k) = (if s.dev.laneInCal k then s.dev.rd (F.VL_LSTAT_STATE k) else 1) ∧
      Dev.Frame laneWindows (.bm :: laneParts) s.fresh.dev d := by
  have hwas := Dev.t6_on s via (R.VL_LCFG k) true (F.VL_LCFG_EN k) (by simp only [F.VL_LCFG_EN, blockOf]; omega)
  rw [Dev.regPut_lcfg hk, hwas]
  obtain ⟨hframe, hen, hst, hauto, hvl, hcal⟩ := lcfg_stored (via := via) v hk rfl
  generalize (s.fresh.dev.t6 via (R.VL_LCFG k) true).store (R.VL_LCFG k) v = w at *
  have hmay : w.mayTrain k = !s.dev.laneInCal k := by
    rw [Dev.mayTrain, hvl, hgate, hen, hv, hcal]
    rfl
  obtain ⟨hdet, hon⟩ := w.toDetect_spec hk
  refine ⟨w.toDetect k, Dev.lcfgWritten_train (hen.trans hv) (h.imp_right fun ⟨ha, hb⟩ => ⟨ha, hauto.trans hb⟩), hon.trans (hen.trans hv), ?_,
    (hframe.mono).then (w.toDetect_frame hk)⟩
  rw [hdet, hmay, hst]
  cases s.dev.laneInCal k <;> rfl

/-- A write of VL_LCFG that disables the lane. -/
theorem lcfg_disables {s : State} (via : Via) {k v : Nat} (hk : k < 128) (hv : bit v 0 = false) (h : s.dev.on (F.VL_LCFG_EN k) = true) :
    ∃ d, Dev.regPut (R.VL_LCFG k) v 0 0 (s.fresh.dev.t6 via (R.VL_LCFG k) true) = d ∧ d.on (F.VL_LCFG_EN k) = false ∧
      d.rd (F.VL_LSTAT_STATE k) = 0 ∧ d.rd (F.VL_LSTAT_CAUSE k) = 12 ∧ Dev.Frame laneWindows (.bm :: laneParts) s.fresh.dev d := by
  have hwas := Dev.t6_on s via (R.VL_LCFG k) true (F.VL_LCFG_EN k) (by simp only [F.VL_LCFG_EN, blockOf]; omega)
  rw [Dev.regPut_lcfg hk, hwas, h]
  obtain ⟨hframe, hen, -, -, -, -⟩ := lcfg_stored (via := via) v hk rfl
  generalize (s.fresh.dev.t6 via (R.VL_LCFG k) true).store (R.VL_LCFG k) v = w at *
  have hleft := (w.wr (F.VL_LSTAT_CAUSE k) 12).laneLeave_left hk (show 0 < 16 by decide)
  have hcause : Dev.Frame laneWindows (.bm :: laneParts) s.fresh.dev (w.wr (F.VL_LSTAT_CAUSE k) 12) :=
    (hframe.mono).wr _ _ (laneReg_mem (by decide) (by decide) hk (by decide))
  refine ⟨_, Dev.lcfgWritten_off (hen.trans hv), ?_, hleft.state, (hleft.status _ rfl (le_refl 4)).trans (Dev.rd_wr_self _ _ _ rfl),
    hcause.then (Dev.laneLeave_frame _ hk 0)⟩
  rw [← hv, ← hen, Dev.on, Dev.on, Dev.rd, Dev.rd, hleft.regs _ (by simp only [F.VL_LCFG_EN]; omega) (by simp only [F.VL_LCFG_EN, R.VL_LSTAT]; omega)
    (by simp only [F.VL_LCFG_EN, R.VL_RETRAIN]; omega) (by simp only [F.VL_LCFG_EN, blockOf]; omega),
    Dev.reg_wr_ne _ (by simp only [F.VL_LSTAT_CAUSE, F.VL_LCFG_EN]; omega)]

/-- Settles O39: whatever else a lane does that leaves service, of its status word only STATE changes after CAUSE is written. -/
theorem laneFaults : Obligations.LaneFaults := by
  unfold Obligations.LaneFaults
  intro s lane hrun
  have hk : lane.toNat < 128 := lane.isLt
  have hloss := s.dev.lossCounted_rd lane.toNat
  have hlcfg (via : Via) (v : Nat) (hmay : MayWrite s via (R.VL_LCFG lane.toNat)) :=
    hmay.writes hrun v (by simp only [R.VL_LCFG]; omega) (by simp only [R.VL_LCFG, R.TB_SNAP_CTL]; omega)
      (by rw [pcWindow, Bool.and_eq_false_iff, decide_eq_false_iff_not]; exact .inl (by simp only [R.VL_LCFG]; omega))
  have hset4 (v : Nat) (b : Nat) (hb : b ≠ 4) : bit (setBit v 4) b = bit v b := bit_setBit_other v (Ne.symm hb)
  refine ⟨fun c hc => trainingTimeout_faults hrun hc, fun hst hmay => ?_, ⟨fun hst hc => ?_, fun hst hc => ?_⟩, fun hst => ?_,
    fun openP openN short h1 h6 h => ?_, fun via v hmay hgate hv => ⟨?_, fun hen hauto hcal => ?_⟩, fun via v hmay hen hv => ?_⟩
  · have hexec : exec (.faultRetry lane) s = .next { s with
        dev := if s.fresh.dev.rd (F.VL_LSTAT_STATE lane.toNat) = 8 then s.fresh.dev.toDetect lane.toNat else s.fresh.dev } := State.onDev_next s _ hrun
    have hleave : s.fresh.dev.toDetect lane.toNat = s.fresh.dev.laneMoved lane.toNat 1 := (if_pos hmay).trans
      (Dev.laneLeave_inactive (s := s.fresh.dev) hk (by decide) (by rw [show s.fresh.dev.rd _ = 8 from hst]; decide))
    rw [if_pos (show s.fresh.dev.rd _ = 8 from hst), hleave] at hexec
    exact ⟨_, hexec, (s.fresh.dev.laneMoved_left hk (by decide)).state, s.fresh.dev.laneMoved_retrain, (s.fresh.dev.laneMoved_frame hk 1).only⟩
  · rw [← hloss]
    exact lockLost_underRun hrun hst hc
  · rw [← hloss]
    obtain ⟨t, h1, h2, h3, h4, h5, h6, h7, h8⟩ := lockLost_faults hrun hst hc
    exact ⟨t, h1, h2, h3, h4, h5, h6, h7.mono (by decide), h8⟩
  · have hexec : exec (.lockLost lane) s = .next { s with dev := s.fresh.dev.lockLost lane.toNat } := State.onDev_next s _ hrun
    rw [Dev.lockLost_training (s := s.fresh.dev) hst] at hexec
    exact ⟨_, hexec, congrArg Lane.locked (s.fresh.dev.lane_modLane_self _ _), ((Dev.Frame.refl [] [.vl] s.fresh.dev).modLane _ _).only⟩
  · have hexec : exec (.openShortDetect lane openP openN short) s = .next { s with dev := s.fresh.dev.openShort lane.toNat openP openN short } :=
      State.onDev_next s _ hrun
    rw [Dev.openShort_faults (s := s.fresh.dev) h1 h6 h] at hexec
    obtain ⟨hp, hn, hs, -⟩ := s.fresh.dev.setLegs_spec lane.toNat openP openN short
    have hframe := s.fresh.dev.setLegs_frame hk openP openN short
    generalize s.fresh.dev.setLegs lane.toNat openP openN short = u at *
    have hstatus {f : Fld} (hf : f.reg = R.VL_LSTAT lane.toNat) (hlo : 8 ≤ f.lo) :=
      congrArg (· == 1) (u.laneFault_status (cause := if openP || openN then 1 else 2) (st := 8) hk (by decide) hf hlo)
    have hall : Dev.Frame laneWindows laneParts s.fresh.dev (u.laneFault lane.toNat (if openP || openN then 1 else 2) 8) :=
      hframe.mono.then (u.laneFault_frame hk _ 8)
    exact ⟨_, hexec, u.laneFault_state hk (by decide), u.laneFault_cause hk (by decide) (by split <;> decide),
      (hstatus rfl (Nat.le_of_ble_eq_true rfl)).trans hp, (hstatus rfl (Nat.le_of_ble_eq_true rfl)).trans hn,
      (hstatus rfl (Nat.le_of_ble_eq_true rfl)).trans hs, (hall.mono (by decide) (by decide)).only⟩
  · obtain ⟨d, hd, hon, hst, hframe⟩ := lcfg_trains via hk hgate ((hset4 _ 0 (by decide)).trans hv) (.inl (bit_setBit_self v.toNat 4))
    exact ⟨_, (hlcfg via _ hmay).trans (by rw [hd]), hon, hst, (hframe.mono (by decide) (by decide)).only⟩
  · obtain ⟨d, hd, hon, hst, hframe⟩ := lcfg_trains via hk hgate hv (.inr ⟨hen, hauto⟩)
    rw [hcal] at hst
    exact ⟨_, (hlcfg via _ hmay).trans (by rw [hd]), hon, hst, (hframe.mono (by decide) (by decide)).only⟩
  · obtain ⟨d, hd, hoff, hst, hcause, hframe⟩ := lcfg_disables via hk hv hen
    exact ⟨_, (hlcfg via _ hmay).trans (by rw [hd]), hoff, hst, hcause, (hframe.mono (by decide) (by decide)).only⟩

end Sys2Proof.Proofs
end

section
-- One proof after another: in parallel the proofs of this text would not fit the memory that its check allows.
set_option Elab.async false
/-!
PROOFS. Sense frames: copies of SOF_S, sense segments, and the release of a held vat (03 R58, R64, R65, R77, R364).
-/
namespace Sys2Proof.Machine

/-! ### RELEASE goes out (03 R77) -/

/-- The blocks that wait go out as the same messages, and the vat keeps all but them. -/
theorem Dev.fourCopies_tx {s t : Dev} (hregs : Dev.RegsAs s t) (htx : t.tx = s.tx) (v : Nat) (b : LinkBlk) :
    (t.fourCopies v b).tx = (s.fourCopies v b).tx := by
  have hl : t.laneActive = s.laneActive := funext fun l => by rw [Dev.laneActive, Dev.laneActive, hregs.rd]
  unfold Dev.fourCopies
  rw [htx, hl]

theorem Dev.fourCopies_each_tx (v : Nat) (l : List LinkBlk) : ∀ {s t : Dev}, Dev.RegsAs s t → t.tx = s.tx →
    (Dev.each l (Dev.fourCopies v) t).tx = (Dev.each l (Dev.fourCopies v) s).tx := by
  induction l with
  | nil => exact fun _ h => h
  | cons b l ih => exact fun hregs htx => ih (fun off => hregs off) (Dev.fourCopies_tx hregs htx v b)

/-- Which release a vat waits for has no part in what goes out to it. -/
def Vat.releasedAt (eff : Nat) (x : Vat) : Vat := { x with relEff := some eff }

theorem Dev.blkFlush_released {s t : Dev} (hregs : Dev.RegsAs s t) (htx : t.tx = s.tx) (v : Nat) (htw : t.tw = s.tw) (hle : t.le = s.le)
    (hb : (t.vat v).blks = (s.vat v).blks) (ha : (t.vat v).blkAt = (s.vat v).blkAt) :
    (t.blkFlush v).tx = (s.blkFlush v).tx ∧ ((t.blkFlush v).vat v).relEff = (t.vat v).relEff := by
  have hwire : t.wireFrame v = s.wireFrame v := by rw [Dev.wireFrame, Dev.wireFrame, htw, hle]
  unfold Dev.blkFlush
  rw [hwire, hb, ha]
  cases s.wireFrame v with
  | none =>
    cases (s.vat v).blks with
    | nil => exact ⟨htx, rfl⟩
    | cons b r =>
      refine ⟨Dev.fourCopies_each_tx v (b :: r) hregs htx, ?_⟩
      dsimp only
      rw [Dev.modVat_self, Dev.vat_of_vl (Dev.fourCopies_each v (b :: r) t).1]
  | some n =>
    cases (s.vat v).blks with
    | nil => exact ⟨htx, rfl⟩
    | cons b r =>
      dsimp only
      split
      · exact ⟨htx, rfl⟩
      · refine ⟨Dev.fourCopies_tx hregs htx v b, ?_⟩
        rw [Dev.modVat_self]
        rfl

theorem Dev.sendFour_released (s : Dev) (v : Nat) (b : LinkBlk) (eff : Nat) :
    ((s.modVat v (Vat.releasedAt eff)).sendFour v b).tx = (s.sendFour v b).tx ∧
    (((s.modVat v (Vat.releasedAt eff)).sendFour v b).vat v).relEff = some eff := by
  have hself := s.modVat_self v (Vat.releasedAt eff)
  have hact : (s.modVat v (Vat.releasedAt eff)).vatActive v = s.vatActive v := rfl
  unfold Dev.sendFour
  rw [hact]
  split
  · have h1 := (s.modVat v (Vat.releasedAt eff)).modVat_self v (fun x => { x with blks := x.blks ++ [b] })
    have h2 := s.modVat_self v (fun x => { x with blks := x.blks ++ [b] })
    rw [hself] at h1
    obtain ⟨htx, hrel⟩ := Dev.blkFlush_released (s := s.modVat v (fun x => { x with blks := x.blks ++ [b] }))
      (t := (s.modVat v (Vat.releasedAt eff)).modVat v (fun x => { x with blks := x.blks ++ [b] })) (fun _ => rfl) rfl v rfl rfl
      (by rw [h1, h2]; rfl) (by rw [h1, h2]; rfl)
    exact ⟨htx, hrel.trans (by rw [h1]; rfl)⟩
  · exact ⟨rfl, by rw [hself]; rfl⟩

theorem Dev.releaseSend_go {s : Dev} {v : Nat} (hh : s.held v = true) (h0 : (s.vat v).holds = 0) (ha : s.vatActive v = true)
    (hacc : 16 ≤ (s.vat v).acc) (hr : (s.vat v).relEff = none) : s.releaseSend v =
      (s.modVat v (Vat.releasedAt (s.nextFrame (max s.le.frame s.now) + 1))).sendFour v (.release (s.nextFrame (max s.le.frame s.now) + 1)) := by
  unfold Dev.releaseSend
  dsimp only
  rw [if_pos (by simp [hh, h0, ha, hacc, hr])]
  rfl

/-! ### A block with an invalid sync header (03 R58) -/

theorem Dev.blkBad_spec (s : Dev) {k : Nat} (hk : k < 128) : (s.blkBad k).rd (F.VL_BLK_ERR k) = min (s.rd (F.VL_BLK_ERR k) + 1) 0xFFFFFFFF ∧
    ((s.blkBad k).vat (k / 2)).copies.contains (k % 2 == 1) = false ∧ Dev.Frame [6] [.vl] s (s.blkBad k) := by
  refine ⟨Dev.rd_count_self s _ 1 rfl rfl, ?_, ?_⟩
  · have h := ((s.count (F.VL_BLK_ERR k)).modLane k (fun x => { x with trnGood := 0 })).modVat_self (k / 2)
      (fun x => { x with copies := x.copies.filter (· != (k % 2 == 1)) })
    rw [Dev.blkBad, h]
    simp
  · exact (((Dev.Frame.refl [6] [.vl] s).count _ _ (laneReg_mem (by decide) (by decide) hk (by decide))).modLane _ _).modVat _ _

/-! ### What the first accepted copy sets off leaves (03 R25, R65, R72, R308) -/

/-- The parts that an accepted copy may reach. -/
def sofWindows : List Nat := [6, 11, 12, 13, 14, 18, 21]
def sofParts : List Part := [.gl, .cal, .de, .evq, .fc, .freeCtr, .trc, .vl, .pc]

/-- The vat's sense frame and its copies, the lanes and their registers stay. -/
structure Dev.SofKept (v : Nat) (s t : Dev) : Prop where
  sof : (t.vat v).sof = (s.vat v).sof
  sofN : (t.vat v).sofN = (s.vat v).sofN
  copies : (t.vat v).copies = (s.vat v).copies
  lanes : t.vl.lanes = s.vl.lanes
  regs : ∀ off, 0x61000 ≤ off → blockOf off = 6 → t.reg off = s.reg off
  frame : Dev.Frame sofWindows sofParts s t

theorem Dev.SofKept.refl (v : Nat) (s : Dev) : Dev.SofKept v s s := ⟨rfl, rfl, rfl, rfl, fun _ _ _ => rfl, .refl _ _ s⟩

theorem Dev.SofKept.trans {v : Nat} {s t u : Dev} (h : Dev.SofKept v s t) (k : Dev.SofKept v t u) : Dev.SofKept v s u :=
  ⟨k.sof.trans h.sof, k.sofN.trans h.sofN, k.copies.trans h.copies, k.lanes.trans h.lanes,
    fun off h1 h2 => (k.regs off h1 h2).trans (h.regs off h1 h2), h.frame.trans k.frame⟩

theorem Dev.SofKept.modVat {v : Nat} (s : Dev) {f : Vat → Vat} (hsof : ∀ x, (f x).sof = x.sof) (hn : ∀ x, (f x).sofN = x.sofN)
    (hc : ∀ x, (f x).copies = x.copies) : Dev.SofKept v s (s.modVat v f) := by
  have h := s.modVat_self v f
  exact ⟨by rw [h, hsof], by rw [h, hn], by rw [h, hc], rfl, fun _ _ _ => rfl, (Dev.Frame.refl _ _ s).modVat v f⟩

/-- An operation that leaves VL alone. -/
theorem Dev.SofKept.of_vl {v : Nat} {s t : Dev} (hvl : t.vl = s.vl) (hf : Dev.Frame sofWindows sofParts s t)
    (hregs : ∀ off, 0x61000 ≤ off → blockOf off = 6 → t.reg off = s.reg off) : Dev.SofKept v s t := by
  have h := Dev.vat_of_vl (v := v) hvl
  exact ⟨by rw [h], by rw [h], by rw [h], by rw [hvl], hregs, hf⟩

theorem Dev.SofKept.of_frame {v : Nat} {s t : Dev} {w : List Nat} {l : List Part} (hf : Dev.Frame w l s t) (hw : ∀ b ∈ w, b ∈ sofWindows := by decide)
    (hl : ∀ p ∈ l, p ∈ sofParts := by decide) (h6 : 6 ∉ w := by decide) (hvl : Part.vl ∉ l := by decide) : Dev.SofKept v s t :=
  .of_vl (hf.part .vl hvl) (hf.mono hw hl) fun off _ hb => hf.within off (hb ▸ h6)

theorem Dev.raiseCond_frame (s : Dev) (lo code v info : Nat) (h : blockOf lo = 18) (h' : blockOf (lo + 4) = 18) :
    Dev.Frame [11, 12, 13, 14, 18, 21] cancelParts s (s.raiseCond lo code v info) :=
  (((Dev.Frame.refl _ _ s).raise _ _ _ _ _).wr2 _ _ (by rw [h]; decide) (by rw [h']; decide)).then (Dev.glSync_frame _)

theorem Dev.SofKept.regardHeld (v : Nat) (s : Dev) : Dev.SofKept v s (s.regardHeld v) := by
  have hset (u : Dev) : Dev.SofKept v u (u.setHeld v true) := .of_vl rfl ((Dev.Frame.refl _ _ u).setHeld v true) fun off h1 _ =>
    Dev.reg_wr2_ne _ (by simp only [R.VL_VAT_HELD_LO]; omega) (by simp only [R.VL_VAT_HELD_LO]; omega) _
  exact (Dev.SofKept.modVat (f := fun x => { x with relEff := none, holdEff := some 0 }) s (fun _ => rfl) (fun _ => rfl) (fun _ => rfl)).trans
    (hset _)

theorem Dev.SofKept.paCheck (v : Nat) (pa : Bool) (s : Dev) : Dev.SofKept v s (s.paCheck v pa) := by
  unfold Dev.paCheck
  split
  · have h : Dev.SofKept v s (s.modVat v (fun x => { x with checkPa := none })) := .modVat s (fun _ => rfl) (fun _ => rfl) (fun _ => rfl)
    dsimp only
    split
    · exact h
    · exact h.trans (.of_frame (Dev.raiseCond_frame _ R.FC_NOPRESS_LO _ _ _ (by decide) (by decide)))
  · exact .refl v s

theorem Dev.SofKept.heldRun (v n : Nat) (held : Bool) (s : Dev) : Dev.SofKept v s (s.heldRun v n held) := by
  have hmod (u : Dev) (m : Nat) : Dev.SofKept v u (u.modVat v (fun x => { x with heldRun := m })) :=
    .modVat u (fun _ => rfl) (fun _ => rfl) (fun _ => rfl)
  unfold Dev.heldRun
  extract_lets x prev t
  split
  · have h : Dev.SofKept v s t := .modVat s (fun _ => rfl) (fun _ => rfl) (fun _ => rfl)
    split
    · exact h
    · exact ((h.trans (hmod _ 0)).trans (.regardHeld v _)).trans (.of_frame (Dev.raiseCond_frame _ R.FC_EICNA_LO _ _ _ (by decide) (by decide)))
  · exact hmod s 0

theorem Dev.SofKept.eicnaClear (v : Nat) (held : Bool) (s : Dev) : Dev.SofKept v s (s.eicnaClear v held) := by
  unfold Dev.eicnaClear
  split
  · have h : Dev.SofKept v s (s.modVat v (fun x => { x with relDone := false })) := .modVat s (fun _ => rfl) (fun _ => rfl) (fun _ => rfl)
    dsimp only
    split
    · exact h
    · have hw (u : Dev) (m : Nat) : Dev.SofKept v u (u.wr2 R.FC_EICNA_LO m) := .of_frame ((Dev.Frame.refl [18] [] u).wr2 _ _)
      exact (h.trans (hw _ _)).trans (.of_frame (Dev.glSync_frame _))
  · exact .refl v s

/-! ### A copy of SOF_S is accepted (03 R65) -/

/-- What the first accepted copy brings to its vat. -/
def Vat.sofTaken (n : Nat) (b : SofS) (rise : Bool) (x : Vat) : Vat :=
  { x with sof := some b, sofN := n, acc := min 0xFFFF (x.acc + 1), eflt := b.eflt, efltPend := rise, copies := [], segs := [], status := none }

theorem Dev.sofFirst_spec (s : Dev) (v n : Nat) (b : SofS) : ((s.sofFirst v n b).vat v).sof = some b ∧ ((s.sofFirst v n b).vat v).sofN = n ∧
    ((s.sofFirst v n b).vat v).copies = [] ∧ (s.sofFirst v n b).vl.lanes = s.vl.lanes ∧
    (∀ off, 0x61000 ≤ off → blockOf off = 6 → (s.sofFirst v n b).reg off = s.reg off) ∧ Dev.Frame sofWindows sofParts s (s.sofFirst v n b) := by
  have hself := s.modVat_self v (Vat.sofTaken n b (b.eflt && !(s.vat v).eflt))
  have heq : s.sofFirst v n b = (((s.modVat v (Vat.sofTaken n b (b.eflt && !(s.vat v).eflt))).paCheck v b.pa).heldRun v n b.held).eicnaClear v b.held := rfl
  have hlanes : (s.modVat v (Vat.sofTaken n b (b.eflt && !(s.vat v).eflt))).vl.lanes = s.vl.lanes := rfl
  have hregs : Dev.RegsAs s (s.modVat v (Vat.sofTaken n b (b.eflt && !(s.vat v).eflt))) := fun _ => rfl
  have hframe : Dev.Frame sofWindows sofParts s (s.modVat v (Vat.sofTaken n b (b.eflt && !(s.vat v).eflt))) := (Dev.Frame.refl _ _ s).modVat _ _
  rw [heq]
  generalize s.modVat v (Vat.sofTaken n b (b.eflt && !(s.vat v).eflt)) = u at *
  have hk : Dev.SofKept v u (((u.paCheck v b.pa).heldRun v n b.held).eicnaClear v b.held) :=
    ((Dev.SofKept.paCheck v b.pa u).trans (.heldRun v n b.held _)).trans (.eicnaClear v b.held _)
  exact ⟨hk.sof.trans (by rw [hself]; rfl), hk.sofN.trans (by rw [hself]; rfl), hk.copies.trans (by rw [hself]; rfl), hk.lanes.trans hlanes,
    fun off h1 h2 => (hk.regs off h1 h2).trans (hregs off), hframe.trans hk.frame⟩

/-- A lane's copies are no longer rejected. -/
def Lane.sofTaken (x : Lane) : Lane := { x with seqRej := 0, doubt := none }

/-- The block as an accepted copy finds it: the frame is counted. -/
def Dev.sofCounted (s : Dev) (k : Nat) : Dev := (s.modLane k Lane.sofTaken).pcFrame 0x0601 1 (some (k / 2))

theorem Dev.sofCounted_frame (s : Dev) (k : Nat) : Dev.Frame [] [.vl, .pc] s (s.sofCounted k) :=
  ((Dev.Frame.refl _ _ s).modLane _ _).then (Dev.pcFrame_frame _ _ _ _)

theorem Dev.sofCounted_vl (s : Dev) (k : Nat) : (s.sofCounted k).vl = { s.vl with lanes := s.vl.lanes.mod k Lane.sofTaken } :=
  (Dev.pcFrame_frame (s.modLane k Lane.sofTaken) 0x0601 1 (some (k / 2))).part .vl

/-- The copy of a lane, after what the vat's first one sets off. -/
theorem Dev.sofAccept_eq (s : Dev) (k n : Nat) (b : SofS) : s.sofAccept k n b =
    (if ((s.sofCounted k).vat (k / 2)).sofN = n ∧ ((s.sofCounted k).vat (k / 2)).sof.isSome then s.sofCounted k
      else (s.sofCounted k).sofFirst (k / 2) n b).modVat (k / 2) (fun x => { x with copies := x.copies ++ [k % 2 == 1] }) := rfl

theorem Dev.sofAccept_spec (s : Dev) {k : Nat} (n : Nat) (b : SofS) : ∃ d, s.sofAccept k n b = d ∧ (d.vat (k / 2)).sofN = n ∧
    (¬((s.vat (k / 2)).sofN = n ∧ (s.vat (k / 2)).sof.isSome = true) → (d.vat (k / 2)).sof = some b) ∧
    ((s.vat (k / 2)).sofN = n ∧ (s.vat (k / 2)).sof.isSome = true → (d.vat (k / 2)).sof = (s.vat (k / 2)).sof) ∧
    (d.vat (k / 2)).copies = (if (s.vat (k / 2)).sofN = n ∧ (s.vat (k / 2)).sof.isSome = true then (s.vat (k / 2)).copies else []) ++ [k % 2 == 1] ∧
    (d.lane k).seqRej = 0 ∧ (∀ off, 0x61000 ≤ off → blockOf off = 6 → d.reg off = s.reg off) ∧ Dev.Frame sofWindows sofParts s d := by
  have hcount := s.sofCounted_frame k
  have hvl := s.sofCounted_vl k
  have hvat : (s.sofCounted k).vat (k / 2) = s.vat (k / 2) := by
    rw [Dev.vat, hvl]
    rfl
  have hlane : (s.sofCounted k).vl.lanes.get k = Lane.sofTaken (s.lane k) := by
    rw [hvl]
    exact Tbl.get_mod_self _ _ _
  obtain ⟨h1, h2, h3, h4, h5, h6⟩ := (s.sofCounted k).sofFirst_spec (k / 2) n b
  rw [Dev.sofAccept_eq, hvat]
  generalize s.sofCounted k = u at *
  by_cases hagain : (s.vat (k / 2)).sofN = n ∧ (s.vat (k / 2)).sof.isSome = true
  · rw [if_pos hagain]
    have hself := u.modVat_self (k / 2) (fun x => { x with copies := x.copies ++ [k % 2 == 1] })
    rw [hvat] at hself
    refine ⟨_, rfl, ?_, fun h => absurd hagain h, fun _ => ?_, ?_, ?_, fun off _ hb => hcount.within off (by simp), (hcount.mono (w' := sofWindows)
      (l' := sofParts)).modVat _ _⟩
    · rw [hself]
      exact hagain.1
    · rw [hself]
    · rw [hself, if_pos hagain]
    · exact congrArg Lane.seqRej hlane
  · rw [if_neg hagain]
    have hself := (u.sofFirst (k / 2) n b).modVat_self (k / 2) (fun x => { x with copies := x.copies ++ [k % 2 == 1] })
    refine ⟨_, rfl, ?_, fun _ => ?_, fun h => absurd h hagain, ?_, ?_, fun off ha hb => (h5 off ha hb).trans (hcount.within off (by simp)),
      ((hcount.mono (w' := sofWindows) (l' := sofParts)).trans h6).modVat _ _⟩
    · rw [hself]
      exact h2
    · rw [hself]
      exact h1
    · rw [hself, if_neg hagain, ← h3]
    · exact congrArg Lane.seqRej ((congrArg (Tbl.get · k) h4).trans hlane)

/-! ### A copy of SOF_S is judged -/

/-- TLOCK is taken from a copy that passes its CRC. -/
def Dev.tlockTaken (s : Dev) (k : Nat) (b : Bool) : Dev := s.wrB (F.VL_LSTAT_TLOCK k) b

theorem Dev.tlockTaken_frame (s : Dev) {k : Nat} (hk : k < 128) (b : Bool) : Dev.Frame [6] [] s (s.tlockTaken k b) :=
  (Dev.Frame.refl _ _ s).wrB _ _ (laneReg_mem (by decide) (by decide) hk (by decide))

theorem Dev.tlockTaken_on (s : Dev) (k : Nat) (b : Bool) : (s.tlockTaken k b).on (F.VL_LSTAT_TLOCK k) = b := Dev.on_wrB_self _ _ _ rfl rfl

theorem Dev.tlockTaken_held (s : Dev) (k : Nat) (b : Bool) (v : Nat) : (s.tlockTaken k b).held v = s.held v := by
  simp only [Dev.held, Dev.rd2, Dev.tlockTaken]
  rw [Dev.reg_wrB_ne s (by simp only [F.VL_LSTAT_TLOCK, R.VL_VAT_HELD_LO]; omega), Dev.reg_wrB_ne s (by simp only [F.VL_LSTAT_TLOCK, R.VL_VAT_HELD_LO]; omega)]

theorem Dev.tlockTaken_now (s : Dev) {k : Nat} (hk : k < 128) (b : Bool) : (s.tlockTaken k b).now = s.now :=
  (s.tlockTaken_frame hk b).within.rd2 R.TB_SAMPLE_LO (by decide) (by decide)

theorem Dev.tlockTaken_liveEpoch (s : Dev) {k : Nat} (hk : k < 128) (b : Bool) (e : Byte) : (s.tlockTaken k b).liveEpoch e = s.liveEpoch e := by
  have hrd := (s.tlockTaken_frame hk b).rd F.GL_STAT_EPOCH
  unfold Dev.liveEpoch
  dsimp only
  rw [hrd]
  rfl

theorem Dev.tlockTaken_vatEntry (s : Dev) {k : Nat} (hk : k < 128) (b : Bool) (v : Nat) : (s.tlockTaken k b).vatEntry v = s.vatEntry v := by
  have hf := s.tlockTaken_frame hk b
  have hplan : (s.tlockTaken k b).plan = s.plan := Dev.plan_congr (hf.on F.GL_STAT_PLAN) (hf.on F.GL_STAT_BANK) rfl rfl
  have hframe : (s.tlockTaken k b).framePlan = s.framePlan := rfl
  unfold Dev.vatEntry
  rw [hplan, hframe]

/-- The copy names the latest sample, and its vat's sense frame. -/
def sofNames (b : SofS) (n ntap : Nat) : Bool := b.seq.toNat == n % 65536 && stampOk b.stamp.toNat n && b.ntap.toNat == ntap

theorem Dev.sofS_judged {s : Dev} {k : Nat} {b : SofS} {e : VatEntry} (hk : k < 128) (ha : s.laneActive k = true) (hd : (s.lane k).doubt = none)
    (hc : (s.lane k).calHold = false) (hh : b.hdrOk = true) (hcrc : b.crcOk = true) (he : s.vatEntry (k / 2) = some e) :
    s.sofS k b = if sofNames b s.now e.ntap then
        if s.held (k / 2) then (s.tlockTaken k b.tlock).sofAccept k s.now { b with epoch := s.le.epoch }
        else if s.liveEpoch b.epoch then (s.tlockTaken k b.tlock).sofAccept k s.now b
        else (s.tlockTaken k b.tlock).modLane k (fun x => { x with doubt := some b })
      else (s.tlockTaken k b.tlock).sofReject k := by
  have hheld := s.tlockTaken_held k b.tlock (k / 2)
  have hnow := s.tlockTaken_now hk b.tlock
  have hlive := s.tlockTaken_liveEpoch hk b.tlock b.epoch
  have hent := (s.tlockTaken_vatEntry hk b.tlock (k / 2)).trans he
  have hle : (s.tlockTaken k b.tlock).le = s.le := rfl
  have heq : s.sofS k b = match (s.tlockTaken k b.tlock).vatEntry (k / 2) with
      | none => s.tlockTaken k b.tlock
      | some e => if sofNames b (s.tlockTaken k b.tlock).now e.ntap then
          if (s.tlockTaken k b.tlock).held (k / 2) then
            (s.tlockTaken k b.tlock).sofAccept k (s.tlockTaken k b.tlock).now { b with epoch := (s.tlockTaken k b.tlock).le.epoch }
          else if (s.tlockTaken k b.tlock).liveEpoch b.epoch then (s.tlockTaken k b.tlock).sofAccept k (s.tlockTaken k b.tlock).now b
          else (s.tlockTaken k b.tlock).modLane k (fun x => { x with doubt := some b })
        else (s.tlockTaken k b.tlock).sofReject k := by
    unfold Dev.sofS
    simp only [hd, ha, hh, hc, hcrc, Option.isSome_none, Bool.false_eq_true, if_false, Bool.not_true]
    rfl
  rw [heq, hent]
  dsimp only
  rw [hheld, hnow, hlive, hle]

theorem Dev.sofS_bad {s : Dev} {k : Nat} {b : SofS} (ha : s.laneActive k = true) (hd : (s.lane k).doubt = none) (hh : b.hdrOk = false) :
    s.sofS k b = s.blkBad k := by
  unfold Dev.sofS
  simp [hd, ha, hh]

/-- A lane's copy is rejected once more. -/
def Lane.sofRejected (x : Lane) : Lane := { x with seqRej := x.seqRej + 1, doubt := none }

/-- A rejected copy before the sixteenth in a row. -/
theorem Dev.sofReject_few {s : Dev} {k : Nat} (h : (s.lane k).seqRej < 15) :
    s.sofReject k = (s.count (F.VL_SEQ_ERR k)).modLane k Lane.sofRejected := by
  have hself := (s.count (F.VL_SEQ_ERR k)).lane_modLane_self k Lane.sofRejected
  refine if_neg ?_
  show ¬ 16 ≤ (((s.count (F.VL_SEQ_ERR k)).modLane k Lane.sofRejected).lane k).seqRej
  rw [hself]
  show ¬ 16 ≤ (s.lane k).seqRej + 1
  omega

/-! ### Sense segments (03 R16, R64, R364) -/

/-- The codes of a segment as tap codes. -/
def tapsOf (v j : Nat) (codes : List (BitVec 16)) (t : Tbl (BitVec 16)) : Tbl (BitVec 16) :=
  (List.range codes.length).foldl (fun t i => Tbl.set t (chKey v (segFirst j + i)) (codes.getD i 0)) t

theorem tapsOf_get (v j : Nat) (codes : List (BitVec 16)) (t : Tbl (BitVec 16)) {i : Nat} (h : i < codes.length) :
    (tapsOf v j codes t).get (chKey v (segFirst j + i)) = codes.getD i 0 := by
  have hgen (n : Nat) : i < n → ((List.range n).foldl (fun t i => Tbl.set t (chKey v (segFirst j + i)) (codes.getD i 0)) t).get
      (chKey v (segFirst j + i)) = codes.getD i 0 := by
    induction n with
    | zero => exact fun h => absurd h (Nat.not_lt_zero i)
    | succ n ih =>
      intro hlt
      rw [List.range_succ, List.foldl_append, List.foldl_cons, List.foldl_nil]
      by_cases hn : i = n
      · subst hn
        rw [Tbl.get_set_self]
      · rw [Tbl.get_set_ne _ (by simp only [chKey]; omega)]
        exact ih (by omega)
  exact hgen _ h

/-- A segment is admitted. -/
def Dev.segTaken (s : Dev) (v j : Nat) (codes : List (BitVec 16)) : Dev :=
  let t := s.modVat v (fun x => { x with segs := x.segs ++ [j] })
  { t with vl := { t.vl with taps := tapsOf v j codes t.vl.taps } }

theorem Dev.segTaken_vat (s : Dev) (v j : Nat) (codes : List (BitVec 16)) :
    (s.segTaken v j codes).vat v = { s.vat v with segs := (s.vat v).segs ++ [j] } :=
  s.modVat_self v (fun x => { x with segs := x.segs ++ [j] })

theorem Dev.segTaken_frame (s : Dev) (v j : Nat) (codes : List (BitVec 16)) : Dev.Frame [] [.vl] s (s.segTaken v j codes) :=
  ((Dev.Frame.refl [] [.vl] s).modVat _ _).vl _

theorem Dev.senseSeg_go {s : Dev} {k j : Nat} {d : SenseSeg} (ha : s.laneActive k = true) (hd : (s.lane k).doubt = none)
    (hc : (s.lane k).calHold = false) (hh : d.hdrOk = true) (hcrc : d.crcOk = true) (hn : (s.vat (k / 2)).sofN = s.now)
    (hsof : (s.vat (k / 2)).sof.isSome = true) (hcopy : (s.vat (k / 2)).copies.contains (k % 2 == 1) = true)
    (hseg : (s.vat (k / 2)).segs.contains j = false) : s.senseSeg k j d =
      if j = 0 then (s.segTaken (k / 2) j d.codes).statusIn k d.status else s.segTaken (k / 2) j d.codes := by
  have hno : ¬((s.vat (k / 2)).sofN ≠ s.now ∨ (s.vat (k / 2)).sof.isNone ∨ !(s.vat (k / 2)).copies.contains (k % 2 == 1) ∨
      (s.vat (k / 2)).segs.contains j) := by
    rw [hn, hcopy, hseg]
    simpa using Option.isSome_iff_ne_none.mp hsof
  unfold Dev.senseSeg
  simp only [ha, hd, hh, hc, hcrc, Bool.not_true, Bool.false_eq_true, if_false]
  rw [if_neg hno]
  rfl

theorem Dev.senseSeg_bad {s : Dev} {k j : Nat} {d : SenseSeg} (ha : s.laneActive k = true) (hd : (s.lane k).doubt = none) (hh : d.hdrOk = false) :
    s.senseSeg k j d = s.blkBad k := by
  unfold Dev.senseSeg
  simp [hd, ha, hh]

/-- The status word of a vat's sense frame. -/
def Vat.statusTaken (w : Status) (sof : Option SofS) (x : Vat) : Vat := { x with status := some w, never := w.never, aseq := w.aseq, sof := sof }

/-- The counts of a status word in both lanes of the vat. -/
def Dev.cerrTaken (s : Dev) (v : Nat) (c : Word) : Dev := (s.setReg (R.VL_EIC_CERR (2 * v)) c).setReg (R.VL_EIC_CERR (2 * v + 1)) c

/-- UAPP follows the frame that a status word names. -/
def Dev.aseqTaken (s : Dev) (v : Nat) (w : Status) : Dev :=
  if w.never then s else { s with le := { s.le with a := aseqApp v w.aseq s.le.a, b := aseqApp v w.aseq s.le.b } }

/-- An error that a sense frame reported is told with its status word. -/
def Dev.efltTold (s : Dev) (v info : Nat) : Dev :=
  if (s.vat v).efltPend then (s.modVat v (fun x => { x with efltPend := false })).raise 0x0616 1 (srcWord 6 v) info else s

theorem Dev.statusIn_eq (s : Dev) (k : Nat) (w : Status) : ∃ sof, s.statusIn k w =
    (((s.modVat (k / 2) (Vat.statusTaken w sof)).cerrTaken (k / 2) (BitVec.ofNat 32 (w.cerr0.toNat + 256 * w.cerr1.toNat))).aseqTaken (k / 2) w).efltTold
      (k / 2) w.efc.toNat := ⟨_, rfl⟩

theorem Dev.aseqTaken_frame (s : Dev) (v : Nat) (w : Status) : Dev.Frame [] [.le] s (s.aseqTaken v w) := by
  unfold Dev.aseqTaken
  split
  · exact .refl _ _ s
  · exact (Dev.Frame.refl _ _ s).le _

theorem Dev.efltTold_spec (s : Dev) (v info : Nat) : (∃ b, (s.efltTold v info).vat v = { s.vat v with efltPend := b }) ∧
    (s.efltTold v info).vl.taps = s.vl.taps ∧ Dev.Frame [] [.vl, .fc] s (s.efltTold v info) := by
  unfold Dev.efltTold
  split
  · exact ⟨⟨false, s.modVat_self v _⟩, rfl, ((Dev.Frame.refl [] [.vl, .fc] s).modVat _ _).raise _ _ _ _ _⟩
  · exact ⟨⟨_, rfl⟩, rfl, .refl _ _ s⟩

theorem Dev.statusIn_spec (s : Dev) {k : Nat} (hk : k < 128) (w : Status) : ∃ d, s.statusIn k w = d ∧ (d.vat (k / 2)).segs = (s.vat (k / 2)).segs ∧
    (d.vat (k / 2)).status = some w ∧ (d.vat (k / 2)).never = w.never ∧ (d.vat (k / 2)).aseq = w.aseq ∧ d.vl.taps = s.vl.taps ∧
    Dev.Frame [6] [.vl, .le, .fc, .freeCtr] s d := by
  obtain ⟨sof, heq⟩ := s.statusIn_eq k w
  have hself := s.modVat_self (k / 2) (Vat.statusTaken w sof)
  have htaps : (s.modVat (k / 2) (Vat.statusTaken w sof)).vl.taps = s.vl.taps := rfl
  have hframe : Dev.Frame [6] [.vl, .le, .fc, .freeCtr] s
      ((s.modVat (k / 2) (Vat.statusTaken w sof)).cerrTaken (k / 2) (BitVec.ofNat 32 (w.cerr0.toNat + 256 * w.cerr1.toNat))) :=
    (((Dev.Frame.refl _ _ s).modVat _ _).setReg _ _ (laneReg_mem (by decide) (by decide) (by omega) (by decide))).setReg _ _
      (laneReg_mem (by decide) (by decide) (by omega) (by decide))
  have hvl : ((s.modVat (k / 2) (Vat.statusTaken w sof)).cerrTaken (k / 2) (BitVec.ofNat 32 (w.cerr0.toNat + 256 * w.cerr1.toNat))).vl =
    (s.modVat (k / 2) (Vat.statusTaken w sof)).vl := rfl
  rw [heq]
  generalize (s.modVat (k / 2) (Vat.statusTaken w sof)).cerrTaken (k / 2) (BitVec.ofNat 32 (w.cerr0.toNat + 256 * w.cerr1.toNat)) = u at *
  have haseq := u.aseqTaken_frame (k / 2) w
  have hvl' : (u.aseqTaken (k / 2) w).vl = (s.modVat (k / 2) (Vat.statusTaken w sof)).vl := by rw [haseq.part .vl, hvl]
  obtain ⟨⟨b, hb⟩, ht, hf⟩ := (u.aseqTaken (k / 2) w).efltTold_spec (k / 2) w.efc.toNat
  rw [Dev.vat_of_vl hvl', hself] at hb
  rw [hvl', htaps] at ht
  generalize (u.aseqTaken (k / 2) w).efltTold (k / 2) w.efc.toNat = d at *
  exact ⟨d, rfl, by rw [hb]; rfl, by rw [hb]; rfl, by rw [hb]; rfl, by rw [hb]; rfl, ht, (hframe.then haseq).then hf⟩

end Sys2Proof.Machine

namespace Sys2Proof.Proofs
open Sys2Proof.Machine

/-- The statement of O37 on an accepted copy and on one that waits for its status word. -/
theorem sofS_named {s : State} {lane : BitVec 7} (hrun : Running s) (ha : s.dev.laneActive lane.toNat = true)
    (hd : (s.dev.lane lane.toNat).doubt = none) (hc : (s.dev.lane lane.toNat).calHold = false) {b : SofS} {e : VatEntry} (hh : b.hdrOk = true)
    (hcrc : b.crcOk = true) (he : s.dev.vatEntry (lane.toNat / 2) = some e) (hnames : sofNames b s.dev.now e.ntap = true) :
    (s.dev.held (lane.toNat / 2) = true ∨ s.dev.liveEpoch b.epoch = true →
      ∃ t, exec (.sofS lane b) s = .next t ∧ (t.dev.vat (lane.toNat / 2)).sofN = s.dev.now ∧
        (¬((s.dev.vat (lane.toNat / 2)).sofN = s.dev.now ∧ (s.dev.vat (lane.toNat / 2)).sof.isSome = true) →
          (t.dev.vat (lane.toNat / 2)).sof = some (if s.dev.held (lane.toNat / 2) then { b with epoch := s.dev.le.epoch } else b)) ∧
        ((s.dev.vat (lane.toNat / 2)).sofN = s.dev.now ∧ (s.dev.vat (lane.toNat / 2)).sof.isSome = true →
          (t.dev.vat (lane.toNat / 2)).sof = (s.dev.vat (lane.toNat / 2)).sof) ∧
        (t.dev.vat (lane.toNat / 2)).copies = (if (s.dev.vat (lane.toNat / 2)).sofN = s.dev.now ∧ (s.dev.vat (lane.toNat / 2)).sof.isSome = true
          then (s.dev.vat (lane.toNat / 2)).copies else []) ++ [lane.toNat % 2 == 1] ∧
        (t.dev.lane lane.toNat).seqRej = 0 ∧ t.dev.on (F.VL_LSTAT_TLOCK lane.toNat) = b.tlock ∧ Only sofWindows sofParts s t) ∧
    (s.dev.held (lane.toNat / 2) = false → s.dev.liveEpoch b.epoch = false →
      ∃ t, exec (.sofS lane b) s = .next t ∧ (t.dev.lane lane.toNat).doubt = some b ∧ t.dev.on (F.VL_LSTAT_TLOCK lane.toNat) = b.tlock ∧
        Only [6] [.vl] s t) := by
  have hk : lane.toNat < 128 := lane.isLt
  have hexec : exec (.sofS lane b) s = .next { s with dev := s.fresh.dev.sofS lane.toNat b } := State.onDev_next s _ hrun
  rw [Dev.sofS_judged (s := s.fresh.dev) hk ha hd hc hh hcrc ((show s.fresh.dev.vatEntry _ = s.dev.vatEntry _ from rfl).trans he)] at hexec
  have hnow : s.fresh.dev.now = s.dev.now := rfl
  have hheld : s.fresh.dev.held (lane.toNat / 2) = s.dev.held (lane.toNat / 2) := rfl
  have hlive : s.fresh.dev.liveEpoch b.epoch = s.dev.liveEpoch b.epoch := rfl
  have hle : s.fresh.dev.le = s.dev.le := rfl
  rw [hnow, hheld, hlive, hle, if_pos hnames] at hexec
  have hon := s.fresh.dev.tlockTaken_on lane.toNat b.tlock
  have hframe := s.fresh.dev.tlockTaken_frame hk b.tlock
  have hvat : (s.fresh.dev.tlockTaken lane.toNat b.tlock).vat (lane.toNat / 2) = s.dev.vat (lane.toNat / 2) := rfl
  generalize s.fresh.dev.tlockTaken lane.toNat b.tlock = u at *
  refine ⟨fun h => ?_, fun h1 h2 => ?_⟩
  · have hacc : (if s.dev.held (lane.toNat / 2) then u.sofAccept lane.toNat s.dev.now { b with epoch := s.dev.le.epoch }
        else if s.dev.liveEpoch b.epoch then u.sofAccept lane.toNat s.dev.now b else u.modLane lane.toNat (fun x => { x with doubt := some b })) =
        u.sofAccept lane.toNat s.dev.now (if s.dev.held (lane.toNat / 2) then { b with epoch := s.dev.le.epoch } else b) := by
      cases hh : s.dev.held (lane.toNat / 2) with
      | true => rw [if_pos rfl, if_pos rfl]
      | false =>
        rw [hh] at h
        simp [show s.dev.liveEpoch b.epoch = true by simpa using h]
    rw [hacc] at hexec
    obtain ⟨d, hd, h1, h2, h3, h4, h5, h6, h7⟩ := u.sofAccept_spec (k := lane.toNat) s.dev.now
      (if s.dev.held (lane.toNat / 2) then { b with epoch := s.dev.le.epoch } else b)
    rw [hvat] at h2 h3 h4
    rw [hd] at hexec
    refine ⟨_, hexec, h1, h2, h3, h4, h5, ?_, ((hframe.mono (w' := sofWindows) (l' := sofParts)).trans h7).only⟩
    rw [← hon, Dev.on, Dev.on, Dev.rd, Dev.rd, h6 _ (by simp only [F.VL_LSTAT_TLOCK]; omega) (by simp only [F.VL_LSTAT_TLOCK, blockOf]; omega)]
  · rw [h1, h2] at hexec
    exact ⟨_, hexec, congrArg Lane.doubt (u.lane_modLane_self lane.toNat _), hon, ((hframe.mono (w' := [6]) (l' := [.vl])).modLane _ _).only⟩

/-- Settles O37: what an accepted copy sets off leaves its vat's frame, its lanes and their registers. -/
theorem senseFrames : Obligations.SenseFrames := by
  unfold Obligations.SenseFrames
  intro s hrun
  refine ⟨fun u hh h0 ha hacc hr => ?_, fun lane => ?_⟩
  · have hexec : exec (.releaseSend u) s = .next { s with dev := s.fresh.dev.releaseSend u.toNat } := State.onDev_next s _ hrun
    rw [Dev.releaseSend_go (s := s.fresh.dev) hh h0 ha hacc hr] at hexec
    obtain ⟨htx, hrel⟩ := s.fresh.dev.sendFour_released u.toNat (.release (s.dev.nextFrame (max s.dev.le.frame s.dev.now) + 1))
      (s.dev.nextFrame (max s.dev.le.frame s.dev.now) + 1)
    exact ⟨_, hexec, hrel, htx, (((Dev.Frame.refl [] [.vl] s.fresh.dev).modVat _ _).then (Dev.sendFour_frame _ _ _)).only⟩
  have hk : lane.toNat < 128 := lane.isLt
  intro l v x again ha hd
  refine ⟨fun b d j hb hdh => ?_, fun hc b e hh hcrc he => ⟨fun hseq hstamp hntap => ?_, fun hseq hfew => ?_⟩,
    fun j d hc hh hcrc hagain hcopy hseg => ?_⟩
  · obtain ⟨h1, h2, h3⟩ := s.fresh.dev.blkBad_spec hk
    have hsof : exec (.sofS lane b) s = .next { s with dev := s.fresh.dev.sofS lane.toNat b } := State.onDev_next s _ hrun
    have hss : exec (.senseSegment lane j d) s = .next { s with dev := s.fresh.dev.senseSeg lane.toNat j.toNat d } := State.onDev_next s _ hrun
    rw [Dev.sofS_bad (s := s.fresh.dev) ha hd hb] at hsof
    rw [Dev.senseSeg_bad (s := s.fresh.dev) ha hd hdh] at hss
    exact ⟨⟨_, hsof, h1, h3.only⟩, _, hss, h1, h2, h3.only⟩
  · have hnames : sofNames b s.dev.now e.ntap = true := by simp [sofNames, hseq, hstamp, hntap]
    obtain ⟨htaken, hwait⟩ := sofS_named hrun ha hd hc hh hcrc he hnames
    exact ⟨htaken, hwait⟩
  · have hexec : exec (.sofS lane b) s = .next { s with dev := s.fresh.dev.sofS lane.toNat b } := State.onDev_next s _ hrun
    have hnames : sofNames b s.fresh.dev.now e.ntap = false := by
      have h : (b.seq.toNat == s.fresh.dev.now % 65536) = false := beq_false_of_ne hseq
      rw [sofNames, h]
      rfl
    have hframe := s.fresh.dev.tlockTaken_frame hk b.tlock
    have herr : (s.fresh.dev.tlockTaken lane.toNat b.tlock).rd (F.VL_SEQ_ERR lane.toNat) = s.dev.rd (F.VL_SEQ_ERR lane.toNat) :=
      Dev.rd_wrB_apart s.fresh.dev _ _ _ rfl (by
        simp only [Fld.apart, F.VL_LSTAT_TLOCK, F.VL_SEQ_ERR, Bool.or_eq_true]
        exact .inl (.inl (decide_eq_true (by omega))))
    have hlane : (s.fresh.dev.tlockTaken lane.toNat b.tlock).lane lane.toNat = s.dev.lane lane.toNat := rfl
    rw [Dev.sofS_judged (s := s.fresh.dev) hk ha hd hc hh hcrc ((show s.fresh.dev.vatEntry _ = s.dev.vatEntry _ from rfl).trans he), hnames,
      if_neg Bool.false_ne_true, Dev.sofReject_few (by rw [hlane]; exact hfew)] at hexec
    generalize s.fresh.dev.tlockTaken lane.toNat b.tlock = u at *
    have hall : Dev.Frame [6] [.vl] s.fresh.dev ((u.count (F.VL_SEQ_ERR lane.toNat)).modLane lane.toNat Lane.sofRejected) :=
      ((hframe.mono (w' := [6]) (l' := [.vl])).count _ _ (laneReg_mem (by decide) (by decide) hk (by decide))).modLane _ _
    refine ⟨_, hexec, ?_, ?_, hall.part .le, hall.only⟩
    · show (u.count (F.VL_SEQ_ERR lane.toNat)).rd (F.VL_SEQ_ERR lane.toNat) = _
      rw [← herr]
      exact Dev.rd_count_self u _ 1 rfl rfl
    · rw [← hlane]
      exact congrArg Lane.seqRej ((u.count (F.VL_SEQ_ERR lane.toNat)).lane_modLane_self lane.toNat Lane.sofRejected)
  · have hexec : exec (.senseSegment lane j d) s = .next { s with dev := s.fresh.dev.senseSeg lane.toNat j.toNat d } := State.onDev_next s _ hrun
    rw [Dev.senseSeg_go (s := s.fresh.dev) ha hd hc hh hcrc hagain.1 hagain.2 hcopy hseg] at hexec
    have hvat := s.fresh.dev.segTaken_vat (lane.toNat / 2) j.toNat d.codes
    have hframe := s.fresh.dev.segTaken_frame (lane.toNat / 2) j.toNat d.codes
    have htaps (i : Nat) (hi : i < d.codes.length) : (s.fresh.dev.segTaken (lane.toNat / 2) j.toNat d.codes).vl.taps.get
        (chKey (lane.toNat / 2) (segFirst j.toNat + i)) = d.codes.getD i 0 := tapsOf_get _ _ _ _ hi
    generalize s.fresh.dev.segTaken (lane.toNat / 2) j.toNat d.codes = u at *
    by_cases hj : j.toNat = 0
    · rw [if_pos hj] at hexec
      obtain ⟨y, hy, h1, h2, h3, h4, h5, h6⟩ := u.statusIn_spec hk d.status
      rw [hy] at hexec
      refine ⟨_, hexec, h1.trans (by rw [hvat]; rfl), fun i hi => ?_, fun _ => ⟨h2, h3, h4⟩, ((hframe.mono (w' := [6]) (l' := [.vl, .le, .fc, .freeCtr])).trans h6).only⟩
      rw [← htaps i hi]
      exact congrArg (Tbl.get · _) h5
    · rw [if_neg hj] at hexec
      exact ⟨_, hexec, by rw [hvat]; rfl, htaps, fun h => absurd (by rw [h]; rfl) hj, (hframe.mono (w' := [6]) (l' := [.vl, .le, .fc, .freeCtr])).only⟩

end Sys2Proof.Proofs
end

section
-- One proof after another: in parallel the proofs of this text would not fit the memory that its check allows.
set_option Elab.async false
/-!
PROOFS. A lane trains from DETECT to ACTIVE, and its delay exchanges (03 R56, R57, R61 to R63, R74; 09 R215, R216).
-/
namespace Sys2Proof.Machine

/-! ### Fields of a lane's status word, and of its other registers -/

theorem Fld.apart_of_lo {f g : Fld} (h : f.lo + f.w ≤ g.lo ∨ g.lo + g.w ≤ f.lo) : f.apart g = true := by
  rw [Fld.apart, Bool.or_eq_true, Bool.or_eq_true]
  exact h.elim (fun h => .inl (.inr (decide_eq_true h))) fun h => .inr (decide_eq_true h)

theorem Fld.apart_of_reg {f g : Fld} (h : f.reg ≠ g.reg) : f.apart g = true := by
  rw [Fld.apart, decide_eq_true h]
  rfl

/-- A register of lane k other than its status word and RETRAIN stays when the lane leaves service. -/
theorem Dev.LaneLeft.own {k st a : Nat} {s t : Dev} (h : Dev.LaneLeft k st s t) (hk : k < 128) (h1 : 0x61000 ≤ a) (h2 : a < 0x61040)
    (h3 : a ≠ 0x61004) (h4 : a ≠ 0x61030) : t.reg (a + 0x40 * k) = s.reg (a + 0x40 * k) :=
  h.regs _ (by omega) (by simp only [R.VL_LSTAT]; omega) (by simp only [R.VL_RETRAIN]; omega) (by simp only [blockOf]; omega)

theorem Dev.setLane_state (s : Dev) {k st : Nat} (hk : k < 128) (hst : st < 16) : (s.setLane k st).rd (F.VL_LSTAT_STATE k) = st :=
  (s.setLane_left hk hst).state

/-- VL_LANE_UP shows a lane that goes to ACTIVE. -/
theorem Dev.setLane_up (s : Dev) (k : Nat) : bit ((s.setLane k 6).reg (R.VL_LANE_UP0 + 4 * (k / 32))).toNat (k % 32) = true := by
  rw [Dev.setLane, Dev.reg_setReg_self, if_pos rfl, BitVec.toNat_ofNat, bit_mod _ (Nat.mod_lt k (by decide)), bit_setBit_self]

/-! ### DETECT ends (03 R56, R57, Table 3.3) -/

/-- The lane goes on to LOCK with a new nonce. -/
def Lane.toLock (nonce : BitVec 16) (slew : BitVec 2) (x : Lane) : Lane := { x with nonceTx := nonce, trnGood := 0, locked := false, slew := slew }

theorem Dev.detectDone_eq {s : Dev} {k : Nat} (h : s.rd (F.VL_LSTAT_STATE k) = 1) (a b c : Bool) : s.detectDone k a b c =
    if a || b then (s.setLegs k a b c).laneFault k 1 8 else if c then (s.setLegs k a b c).laneFault k 2 8 else
      ((((s.setLegs k a b c).useFree.modLane k (Lane.toLock ((s.setLegs k a b c).free.setWidth 16)
        (BitVec.ofNat 2 ((s.setLegs k a b c).rd (F.VL_LCFG_SLEW k))))).setLane k 2)).sendTrn k := if_neg (fun hn => hn h)

theorem Dev.sendTrn_frame (s : Dev) (k : Nat) : Dev.Frame [] [] s (s.sendTrn k) := (Dev.Frame.refl _ _ s).send _

/-- The end of DETECT with the legs that were found. -/
theorem Dev.detectDone_spec {s : Dev} {k : Nat} (hk : k < 128) (h : s.rd (F.VL_LSTAT_STATE k) = 1) (a b c : Bool) : ∃ d, s.detectDone k a b c = d ∧
    d.on (F.VL_LSTAT_OPEN_P k) = a ∧ d.on (F.VL_LSTAT_OPEN_N k) = b ∧ d.on (F.VL_LSTAT_SHORT k) = c ∧
    (a = true ∨ b = true → d.rd (F.VL_LSTAT_STATE k) = 8 ∧ d.rd (F.VL_LSTAT_CAUSE k) = 1) ∧
    (a = false → b = false → c = true → d.rd (F.VL_LSTAT_STATE k) = 8 ∧ d.rd (F.VL_LSTAT_CAUSE k) = 2) ∧
    (a = false → b = false → c = false → d.rd (F.VL_LSTAT_STATE k) = 2 ∧ (d.lane k).nonceTx = s.free.setWidth 16 ∧ d.fc = s.fc) ∧
    Dev.Frame [6] [.vl, .fc, .freeCtr] s d := by
  rw [Dev.detectDone_eq h]
  obtain ⟨hp, hn, hs, hst⟩ := s.setLegs_spec k a b c
  have hframe := s.setLegs_frame hk a b c
  have hfree : (s.setLegs k a b c).free = s.free := rfl
  have hfc : (s.setLegs k a b c).fc = s.fc := rfl
  generalize s.setLegs k a b c = u at *
  have hne : u.rd (F.VL_LSTAT_STATE k) ≠ 6 := by rw [hst, h]; decide
  have hfault (cause : Nat) (hc : cause < 16) : (u.laneFault k cause 8).on (F.VL_LSTAT_OPEN_P k) = a ∧ (u.laneFault k cause 8).on (F.VL_LSTAT_OPEN_N k) = b ∧
      (u.laneFault k cause 8).on (F.VL_LSTAT_SHORT k) = c ∧ (u.laneFault k cause 8).rd (F.VL_LSTAT_STATE k) = 8 ∧
      (u.laneFault k cause 8).rd (F.VL_LSTAT_CAUSE k) = cause ∧ Dev.Frame [6] [.vl, .fc, .freeCtr] s (u.laneFault k cause 8) := by
    have hstatus {f : Fld} (hf : f.reg = R.VL_LSTAT k) (hlo : 8 ≤ f.lo) :=
      congrArg (· == 1) (u.laneFault_status (cause := cause) (st := 8) hk (by decide) hf hlo)
    exact ⟨(hstatus rfl (Nat.le_of_ble_eq_true rfl)).trans hp, (hstatus rfl (Nat.le_of_ble_eq_true rfl)).trans hn,
      (hstatus rfl (Nat.le_of_ble_eq_true rfl)).trans hs, u.laneFault_state hk (by decide), u.laneFault_cause hk (by decide) hc,
      hframe.mono.then (Dev.laneFault_inactive_frame hk (by decide) hne)⟩
  cases hab : a || b with
  | true =>
    obtain ⟨h1, h2, h3, h4, h5, h6⟩ := hfault 1 (by decide)
    rw [if_pos rfl]
    refine ⟨_, rfl, h1, h2, h3, fun _ => ⟨h4, h5⟩, fun ha hb => ?_, fun ha hb => ?_, h6⟩ <;> simp [ha, hb] at hab
  | false =>
    obtain ⟨rfl, rfl⟩ := Bool.or_eq_false_iff.mp hab
    rw [if_neg Bool.false_ne_true]
    cases c with
    | true =>
      obtain ⟨h1, h2, h3, h4, h5, h6⟩ := hfault 2 (by decide)
      rw [if_pos rfl]
      exact ⟨_, rfl, h1, h2, h3, fun h => by simp at h, fun _ _ _ => ⟨h4, h5⟩, fun _ _ h => by simp at h, h6⟩
    | false =>
      rw [if_neg Bool.false_ne_true]
      have hl := (u.useFree.modLane k (Lane.toLock (u.free.setWidth 16) (BitVec.ofNat 2 (u.rd (F.VL_LCFG_SLEW k))))).setLane_left hk (show 2 < 16 by decide)
      have hlane := u.useFree.lane_modLane_self k (Lane.toLock (u.free.setWidth 16) (BitVec.ofNat 2 (u.rd (F.VL_LCFG_SLEW k))))
      have hnew : Dev.Frame [6] [.vl, .freeCtr] u (u.useFree.modLane k (Lane.toLock (u.free.setWidth 16) (BitVec.ofNat 2 (u.rd (F.VL_LCFG_SLEW k))))) :=
        (Dev.Frame.refl _ _ u).useFree.modLane _ _
      have hregs : Dev.RegsAs u (u.useFree.modLane k (Lane.toLock (u.free.setWidth 16) (BitVec.ofNat 2 (u.rd (F.VL_LCFG_SLEW k))))) := fun _ => rfl
      generalize u.useFree.modLane k (Lane.toLock (u.free.setWidth 16) (BitVec.ofNat 2 (u.rd (F.VL_LCFG_SLEW k)))) = w at *
      have hfc' : ((w.setLane k 2).sendTrn k).fc = s.fc := by
        rw [(Dev.sendTrn_frame _ k).part .fc, (w.setLane_frame hk 2).part .fc, hnew.part .fc, hfc]
      have hstatus (f : Fld) (hf : f.reg = R.VL_LSTAT k) (hlo : 4 ≤ f.lo) : ((w.setLane k 2).sendTrn k).on f = u.on f :=
        congrArg (· == 1) ((hl.status f hf hlo).trans (hregs.rd f))
      refine ⟨_, rfl, (hstatus _ rfl (Nat.le_of_ble_eq_true rfl)).trans hp, (hstatus _ rfl (Nat.le_of_ble_eq_true rfl)).trans hn,
        (hstatus _ rfl (Nat.le_of_ble_eq_true rfl)).trans hs, fun h => by simp at h, fun _ _ h => by simp at h, fun _ _ _ => ⟨hl.state, ?_, hfc'⟩,
        ((hframe.mono.then hnew).then (w.setLane_frame hk 2)).then (Dev.sendTrn_frame _ k)⟩
      rw [← hfree]
      exact congrArg Lane.nonceTx hlane

/-! ### Block lock (03 R61, 09 R215) -/

/-- A lane has block lock. -/
def Lane.lockTaken (x : Lane) : Lane := { x with locked := true, runLost := false }

theorem Dev.blockLock_eq {s : Dev} {k : Nat} (h2 : 2 ≤ s.rd (F.VL_LSTAT_STATE k)) (h6 : s.rd (F.VL_LSTAT_STATE k) ≤ 6) (ms : List Meas) :
    s.blockLock k ms = if s.rd (F.VL_LSTAT_STATE k) ≠ 2 then s.modLane k Lane.lockTaken else
      match agreeAll laneTols ms with
      | some (some vs) => if laneOk vs then (s.modLane k Lane.lockTaken).setRx k vs else s.modLane k Lane.lockTaken
      | _ => (s.modLane k Lane.lockTaken).raise 0x0F01 0 (srcWord 15) k := if_neg (by omega)

/-- A receiver's register lies in CAL. -/
theorem calLaneReg_mem {a k : Nat} {w : List Nat} (h1 : 0xf1000 ≤ a) (h2 : a < 0xf1010) (hk : k < 128) (hw : 15 ∈ w) : blockOf (a + 0x10 * k) ∈ w := by
  have h : blockOf (a + 0x10 * k) = 15 := by
    simp only [blockOf]
    omega
  rwa [h]

theorem Dev.setRx_frame (s : Dev) {k : Nat} (hk : k < 128) (vs : List Int) : Dev.Frame [15] [] s (s.setRx k vs) := by
  have hreg {a : Nat} (h1 : 0xf1000 ≤ a) (h2 : a < 0xf1010) : blockOf (a + 0x10 * k) ∈ [15] := calLaneReg_mem h1 h2 hk (by decide)
  exact (((((((Dev.Frame.refl _ _ s).wr _ _ (hreg (by decide) (by decide))).wr _ _ (hreg (by decide) (by decide))).wr _ _ (hreg (by decide) (by decide))).wr _ _
    (hreg (by decide) (by decide))).wr _ _ (hreg (by decide) (by decide))).wr _ _ (hreg (by decide) (by decide)))

theorem uns_lt (w : Nat) (v : Int) : uns w v < 2 ^ w := by
  have h0 : (0 : Int) < ((2 ^ w : Nat) : Int) := by exact_mod_cast Nat.two_pow_pos w
  have h := Int.emod_lt_of_pos v h0
  have h1 := Int.emod_nonneg v (ne_of_gt h0)
  unfold uns
  omega

theorem Dev.setRx_spec (s : Dev) (k : Nat) (vs : List Int) : (s.setRx k vs).rd (F.CAL_LRX0_RXDLY k) = uns 6 (vs.getD 5 0) ∧
    (s.setRx k vs).rd (F.CAL_LRX0_THM k) = uns 6 (vs.getD 0 0) ∧ (s.setRx k vs).rd (F.CAL_LRX1_TH1 k) = uns 6 (vs.getD 1 0) ∧
    (s.setRx k vs).rd (F.CAL_LRX1_TH4 k) = uns 6 (vs.getD 4 0) := by
  have hself (u : Dev) (f : Fld) (v : Int) (hf : f.fits = true) (hw : f.w = 6) : (u.wr f (uns 6 v)).rd f = uns 6 v := by
    rw [Dev.rd_wr_self _ _ _ hf, hw]
    exact Nat.mod_eq_of_lt (uns_lt 6 v)
  have hlo {f g : Fld} (h : f.lo + f.w ≤ g.lo ∨ g.lo + g.w ≤ f.lo) : f.apart g = true := Fld.apart_of_lo h
  have hreg {f g : Fld} (hf : f.reg = 0xf1004 + 0x10 * k) (hg : g.reg = 0xf1000 + 0x10 * k) : f.apart g = true := Fld.apart_of_reg (by omega)
  have hle {a b : Nat} (h : Nat.ble a b = true) : a ≤ b := Nat.le_of_ble_eq_true h
  refine ⟨?_, ?_, ?_, hself _ _ _ rfl rfl⟩
  · rw [Dev.setRx, Dev.rd_wr_apart _ _ _ _ rfl (hreg rfl rfl), Dev.rd_wr_apart _ _ _ _ rfl (hreg rfl rfl), Dev.rd_wr_apart _ _ _ _ rfl (hreg rfl rfl),
      Dev.rd_wr_apart _ _ _ _ rfl (hreg rfl rfl), Dev.rd_wr_apart _ _ _ _ rfl (hlo (.inr (hle rfl)))]
    exact hself _ _ _ rfl rfl
  · rw [Dev.setRx, Dev.rd_wr_apart _ _ _ _ rfl (hreg rfl rfl), Dev.rd_wr_apart _ _ _ _ rfl (hreg rfl rfl), Dev.rd_wr_apart _ _ _ _ rfl (hreg rfl rfl),
      Dev.rd_wr_apart _ _ _ _ rfl (hreg rfl rfl)]
    exact hself _ _ _ rfl rfl
  · rw [Dev.setRx, Dev.rd_wr_apart _ _ _ _ rfl (hlo (.inr (hle rfl))), Dev.rd_wr_apart _ _ _ _ rfl (hlo (.inr (hle rfl))),
      Dev.rd_wr_apart _ _ _ _ rfl (hlo (.inr (hle rfl)))]
    exact hself _ _ _ rfl rfl

/-! ### TRN blocks (03 R58, R61 to R63) -/

/-- What a TRN that passes brings to its lane. -/
def Lane.trnTaken (b : Trn) (x : Lane) : Lane := { x with nonceRx := b.nonceTx, trnGood := min 8 (x.trnGood + 1) }

/-- The complement of a TRN passes its CRC: the receiver inverts. -/
def Dev.rxInverted (s : Dev) (k : Nat) : Dev := (s.wrB (F.VL_LSTAT_RX_INV k) (!s.on (F.VL_LSTAT_RX_INV k))).raise 0x0610 0 (laneSrc k)

/-- A TRN passes its CRC, or its complement does. -/
def Dev.trnTaken (s : Dev) (k : Nat) (b : Trn) : Dev := (if b.crcOk then s else s.rxInverted k).modLane k (Lane.trnTaken b)

theorem Dev.trnTaken_frame (s : Dev) {k : Nat} (hk : k < 128) (b : Trn) : Dev.Frame [6] [.vl, .fc] s (s.trnTaken k b) := by
  refine Dev.Frame.modLane ?_ _ _
  split
  · exact .refl _ _ s
  · exact ((Dev.Frame.refl _ _ s).wrB _ _ (laneReg_mem (by decide) (by decide) hk (by decide))).raise _ _ _ _ _

/-- A TRN that passes its CRC leaves the lines. -/
theorem Dev.trnTaken_good (s : Dev) {b : Trn} (h : b.crcOk = true) (k : Nat) : s.trnTaken k b = s.modLane k (Lane.trnTaken b) := by
  rw [Dev.trnTaken, if_pos h]

theorem Dev.trnTaken_lane (s : Dev) (k : Nat) (b : Trn) : (s.trnTaken k b).lane k = Lane.trnTaken b (s.lane k) := by
  have h : (if b.crcOk then s else s.rxInverted k).lane k = s.lane k := by split <;> rfl
  rw [← h]
  exact Dev.lane_modLane_self _ _ _

theorem Dev.trnTaken_state (s : Dev) (k : Nat) (b : Trn) : (s.trnTaken k b).rd (F.VL_LSTAT_STATE k) = s.rd (F.VL_LSTAT_STATE k) := by
  show (if b.crcOk then s else s.rxInverted k).rd (F.VL_LSTAT_STATE k) = _
  split
  · rfl
  · exact Dev.rd_wrB_apart _ _ _ _ rfl (Fld.apart_of_lo (.inr (Nat.le_of_ble_eq_true rfl)))

theorem Dev.trnTaken_rxInv (s : Dev) (k : Nat) (b : Trn) : (s.trnTaken k b).on (F.VL_LSTAT_RX_INV k) =
    if b.crcOk then s.on (F.VL_LSTAT_RX_INV k) else !s.on (F.VL_LSTAT_RX_INV k) := by
  show (if b.crcOk then s else s.rxInverted k).on (F.VL_LSTAT_RX_INV k) = _
  split
  · rfl
  · exact Dev.on_wrB_self _ _ _ rfl rfl

/-- The echo of a TRN names the lane's nonce, or the other lane's. -/
def Dev.trnEchoes (s : Dev) (k : Nat) (b : Trn) : Bool :=
  b.nonceEcho == (s.lane k).nonceTx || (b.nonceEcho == (s.lane (mate k)).nonceTx && b.nonceEcho != 0)

/-- What a TRN does at each step of training. -/
theorem Dev.trnIn_eq {s : Dev} {k : Nat} {b : Trn} (h2 : 2 ≤ s.rd (F.VL_LSTAT_STATE k)) (h6 : s.rd (F.VL_LSTAT_STATE k) ≤ 6) (hh : b.hdrOk = true)
    (hl : (s.lane k).locked = true) (hc : b.crcOk = true ∨ s.rd (F.VL_LSTAT_STATE k) = 2 ∧ b.crcInv = true) : s.trnIn k b =
      match s.rd (F.VL_LSTAT_STATE k) with
      | 2 => if 8 ≤ ((s.trnTaken k b).lane k).trnGood then ((s.trnTaken k b).setLane k 3).sendTrn k else (s.trnTaken k b).sendTrn k
      | 3 => if b.fromEic && b.id != 0 && (s.trnTaken k b).trnEchoes k b && decide (3 ≤ b.tstate.toNat) then (s.trnTaken k b).identDone k b
          else (s.trnTaken k b).sendTrn k
      | 5 => if b.tlock then ((s.trnTaken k b).tlockTaken k b.tlock).setLane k 6 else (s.trnTaken k b).tlockTaken k b.tlock
      | _ => (s.trnTaken k b).tlockTaken k b.tlock := by
  have hno : ¬(s.rd (F.VL_LSTAT_STATE k) < 2 ∨ 6 < s.rd (F.VL_LSTAT_STATE k)) := by omega
  have hcrc : ¬((!b.crcOk && !(s.rd (F.VL_LSTAT_STATE k) == 2 && b.crcInv)) = true) := by
    obtain h | ⟨h, h'⟩ := hc
    · simp [h]
    · simp [h, h']
  unfold Dev.trnIn
  extract_lets st
  rw [if_neg hno, hh, hl, if_neg (by decide), if_neg (by decide), if_neg hcrc]
  rfl

theorem Dev.tlockTaken_state (s : Dev) (k : Nat) (b : Bool) : (s.tlockTaken k b).rd (F.VL_LSTAT_STATE k) = s.rd (F.VL_LSTAT_STATE k) :=
  Dev.rd_wrB_apart _ _ _ _ rfl (Fld.apart_of_lo (.inr (Nat.le_of_ble_eq_true rfl)))

/-! ### The lane leaves IDENT (03 R63) -/

/-- What the EIC tells of its port and its identity. -/
def Dev.identShown (s : Dev) (k : Nat) (b : Trn) : Dev :=
  ((s.wrB (F.VL_LSTAT_EIC_PORT k) b.endp).wr (F.VL_EIC_ID_LO k) b.id.toNat).wr (F.VL_EIC_ID_HI k) (b.id.toNat / 2 ^ 32)

/-- The lane echoes the other lane's nonce. -/
def Dev.isSplit (s : Dev) (k : Nat) (b : Trn) : Bool := b.nonceEcho == (s.lane (mate k)).nonceTx && b.nonceEcho != (s.lane k).nonceTx

/-- A SPLIT vat is one on both its lanes. -/
def Dev.splitShown (s : Dev) (k : Nat) (split : Bool) : Dev :=
  if split then (s.wrB (F.VL_LSTAT_SPLIT k) true).wrB (F.VL_LSTAT_SPLIT (mate k)) true else s.wrB (F.VL_LSTAT_SPLIT k) false

/-- Wiring that is not straight is told. -/
def Dev.wiringTold (s : Dev) (k : Nat) (told : Bool) : Dev :=
  Dev.when told (fun s => s.raise 0x0611 0 (laneSrc k) (s.reg (R.VL_LSTAT k)).toNat) s

/-- What a lane shows as it leaves IDENT. -/
def Dev.identTaken (s : Dev) (k : Nat) (b : Trn) : Dev :=
  ((s.identShown k b).splitShown k (s.isSplit k b)).wiringTold k (b.endp != (k % 2 == 1) || s.isSplit k b)

theorem Dev.identDone_eq (s : Dev) (k : Nat) (b : Trn) : s.identDone k b =
    if ((s.identTaken k b).boundId (k / 2)).getD b.id = b.id then
      (((s.identTaken k b).modVat (k / 2) (fun x => { x with eicId := x.eicId.or (some b.id) })).setLane k 4).sendTrn k
    else (s.identTaken k b).laneFault k 5 8 := rfl

theorem Dev.wiringTold_regs (s : Dev) (k : Nat) (told : Bool) : Dev.RegsAs s (s.wiringTold k told) := by
  cases told
  · exact fun _ => rfl
  · exact fun _ => rfl

theorem Dev.wiringTold_frame (s : Dev) (k : Nat) (told : Bool) : Dev.Frame [] [.fc] s (s.wiringTold k told) :=
  .when _ _ s ((Dev.Frame.refl _ _ s).raise _ _ _ _ _)

theorem Dev.splitShown_reg (s : Dev) (k : Nat) (split : Bool) {off : Nat} (h1 : off ≠ R.VL_LSTAT k) (h2 : off ≠ R.VL_LSTAT (mate k)) :
    (s.splitShown k split).reg off = s.reg off := by
  unfold Dev.splitShown
  split
  · exact (Dev.reg_wrB_ne _ (Ne.symm h2) _).trans (Dev.reg_wrB_ne s (Ne.symm h1) _)
  · exact Dev.reg_wrB_ne s (Ne.symm h1) _

theorem Dev.splitShown_rd (s : Dev) (k : Nat) (split : Bool) {f : Fld} (hf : f.reg = R.VL_LSTAT k) (hlo : f.lo + f.w ≤ 10) :
    (s.splitShown k split).rd f = s.rd f := by
  have hself (u : Dev) (b : Bool) : (u.wrB (F.VL_LSTAT_SPLIT k) b).rd f = u.rd f := Dev.rd_wrB_apart u _ f b rfl (Fld.apart_of_lo (.inr hlo))
  have hne := mate_ne k
  unfold Dev.splitShown
  split
  · refine (Dev.rd_wrB_apart _ _ f true rfl (Fld.apart_of_reg ?_)).trans (hself s true)
    rw [hf]
    simp only [F.VL_LSTAT_SPLIT, R.VL_LSTAT]
    omega
  · exact hself s false

theorem Dev.splitShown_on (s : Dev) (k : Nat) (split : Bool) : (s.splitShown k split).on (F.VL_LSTAT_SPLIT k) = split := by
  have hne := mate_ne k
  cases split with
  | true =>
    refine (Dev.on_wr_apart _ _ _ _ rfl (Fld.apart_of_reg ?_)).trans (Dev.on_wrB_self s _ true rfl rfl)
    simp only [F.VL_LSTAT_SPLIT]
    omega
  | false => exact Dev.on_wrB_self s _ false rfl rfl

theorem Dev.identTaken_frame (s : Dev) {k : Nat} (hk : k < 128) (b : Trn) : Dev.Frame [6] [.fc] s (s.identTaken k b) := by
  have hm := mate_lt hk
  have hshown : Dev.Frame [6] [.fc] s (s.identShown k b) :=
    (((Dev.Frame.refl _ _ s).wrB _ _ (laneReg_mem (by decide) (by decide) hk (by decide))).wr _ _ (laneReg_mem (by decide) (by decide) hk (by decide))).wr _ _
      (laneReg_mem (by decide) (by decide) hk (by decide))
  have hsplit (u : Dev) (c : Bool) : Dev.Frame [6] [.fc] u (u.splitShown k c) := by
    unfold Dev.splitShown
    split
    · exact ((Dev.Frame.refl _ _ u).wrB _ _ (laneReg_mem (by decide) (by decide) hk (by decide))).wrB _ _
        (laneReg_mem (by decide) (by decide) hm (by decide))
    · exact (Dev.Frame.refl _ _ u).wrB _ _ (laneReg_mem (by decide) (by decide) hk (by decide))
  exact (hshown.trans (hsplit _ _)).then (Dev.wiringTold_frame _ k _)

theorem Dev.identTaken_spec (s : Dev) (k : Nat) (b : Trn) : (s.identTaken k b).on (F.VL_LSTAT_EIC_PORT k) = b.endp ∧
    (s.identTaken k b).rd (F.VL_EIC_ID_LO k) = b.id.toNat % 2 ^ 32 ∧ (s.identTaken k b).rd (F.VL_EIC_ID_HI k) = b.id.toNat / 2 ^ 32 ∧
    (s.identTaken k b).on (F.VL_LSTAT_SPLIT k) = s.isSplit k b ∧ (s.identTaken k b).rd (F.VL_LSTAT_STATE k) = s.rd (F.VL_LSTAT_STATE k) ∧
    (s.identTaken k b).vl = s.vl := by
  have hregs := ((s.identShown k b).splitShown k (s.isSplit k b)).wiringTold_regs k (b.endp != (k % 2 == 1) || s.isSplit k b)
  have hid {f g : Fld} (hf : 0x61018 + 0x40 * k ≤ f.reg) (hf' : f.reg < 0x61020 + 0x40 * k) (hg : g.reg = R.VL_LSTAT k) : f.apart g = true :=
    Fld.apart_of_reg (by rw [hg]; simp only [R.VL_LSTAT]; omega)
  have hstatus {f : Fld} (hf : f.reg = R.VL_LSTAT k) : (s.identShown k b).rd f = (s.wrB (F.VL_LSTAT_EIC_PORT k) b.endp).rd f := by
    rw [Dev.identShown, Dev.rd_wr_apart _ _ f _ rfl (hid (by simp only [F.VL_EIC_ID_HI]; omega) (by simp only [F.VL_EIC_ID_HI]; omega) hf),
      Dev.rd_wr_apart _ _ f _ rfl (hid (by simp only [F.VL_EIC_ID_LO]; omega) (by simp only [F.VL_EIC_ID_LO]; omega) hf)]
  have hkeep {f : Fld} (h1 : 0x61018 + 0x40 * k ≤ f.reg) (h2 : f.reg < 0x61020 + 0x40 * k) : (s.identTaken k b).rd f = (s.identShown k b).rd f := by
    rw [Dev.identTaken, hregs.rd, Dev.rd, Dev.rd, Dev.splitShown_reg _ _ _ (by simp only [R.VL_LSTAT]; omega)
      (by simp only [R.VL_LSTAT, mate]; omega)]
  refine ⟨?_, ?_, ?_, (hregs.on _).trans (Dev.splitShown_on _ _ _), ?_, ?_⟩
  · rw [Dev.on, Dev.identTaken, hregs.rd, Dev.splitShown_rd _ _ _ rfl (Nat.le_of_ble_eq_true rfl), hstatus rfl]
    exact Dev.on_wrB_self s _ _ rfl rfl
  · rw [hkeep (by simp only [F.VL_EIC_ID_LO]; omega) (by simp only [F.VL_EIC_ID_LO]; omega), Dev.identShown,
      Dev.rd_wr_apart _ _ _ _ rfl (Fld.apart_of_reg (by simp only [F.VL_EIC_ID_HI, F.VL_EIC_ID_LO]; omega))]
    exact Dev.rd_wr_self _ _ _ rfl
  · rw [hkeep (by simp only [F.VL_EIC_ID_HI]; omega) (by simp only [F.VL_EIC_ID_HI]; omega)]
    refine (Dev.rd_wr_self _ _ _ rfl).trans (Nat.mod_eq_of_lt ?_)
    have := b.id.isLt
    show b.id.toNat / 2 ^ 32 < 2 ^ 8
    omega
  · rw [Dev.identTaken, hregs.rd, Dev.splitShown_rd _ _ _ rfl (Nat.le_of_ble_eq_true rfl), hstatus rfl]
    exact Dev.rd_wrB_apart _ _ _ _ rfl (Fld.apart_of_lo (.inr (Nat.le_of_ble_eq_true rfl)))
  · have hsplit (u : Dev) (c : Bool) : (u.splitShown k c).vl = u.vl := by
      cases c
      · exact Dev.wrB_vl _ _ _
      · exact (Dev.wrB_vl _ _ _).trans (Dev.wrB_vl _ _ _)
    rw [Dev.identTaken, (Dev.wiringTold_frame _ k _).part .vl, hsplit]
    rfl

theorem Dev.identTaken_low (s : Dev) (k : Nat) (b : Trn) {off : Nat} (h : off < 0x61000) : (s.identTaken k b).reg off = s.reg off := by
  have hregs := ((s.identShown k b).splitShown k (s.isSplit k b)).wiringTold_regs k (b.endp != (k % 2 == 1) || s.isSplit k b)
  rw [Dev.identTaken, hregs off, Dev.splitShown_reg _ _ _ (by simp only [R.VL_LSTAT]; omega) (by simp only [R.VL_LSTAT]; omega), Dev.identShown,
    Dev.reg_wr_ne _ (by simp only [F.VL_EIC_ID_HI]; omega), Dev.reg_wr_ne _ (by simp only [F.VL_EIC_ID_LO]; omega),
    Dev.reg_wrB_ne _ (by simp only [F.VL_LSTAT_EIC_PORT]; omega)]

theorem Dev.boundId_congr {s t : Dev} (hon : t.on F.VL_CFG_STRICT_ID = s.on F.VL_CFG_STRICT_ID) (hplan : t.plan = s.plan) {v : Nat}
    (hvat : t.vat v = s.vat v) : t.boundId v = s.boundId v := by
  unfold Dev.boundId
  rw [hon, hplan, hvat]

theorem Dev.identTaken_boundId (s : Dev) {k : Nat} (hk : k < 128) (b : Trn) (v : Nat) : (s.identTaken k b).boundId v = s.boundId v := by
  have hf := s.identTaken_frame hk b
  have hvl := (s.identTaken_spec k b).2.2.2.2.2
  refine Dev.boundId_congr ?_ (Dev.plan_congr (hf.on F.GL_STAT_PLAN) (hf.on F.GL_STAT_BANK) (hf.part .plan0) (hf.part .plan1)) (Dev.vat_of_vl hvl v)
  rw [Dev.on, Dev.on, Dev.rd, Dev.rd, Dev.identTaken_low s k b (by decide)]

/-! ### Delay exchanges (03 R74; 09 R216) -/

/-- One exchange, doubled: the delay down, the delay up and the time offset. -/
def Dev.exchange (s : Dev) (l r : Nat) (d : Drsp) (t1 : BitVec 64) : Exch :=
  let at1 : Int := t1.toInt + s.rd (F.CAL_LTXLAT l)
  let rt : Int := d.t4.toInt - s.rd (F.CAL_LRXLAT r) - at1 - d.turn.toNat
  let asym := sgn 16 (s.rd (F.VL_LASYM l))
  ⟨rt + 2 * asym, rt - 2 * asym, sgn 33 (uns 33 (2 * (d.t2.toNat : Int) - 2 * at1 - (rt + 2 * asym)))⟩

/-- A lane closes an exchange. -/
def Lane.exchTaken (e : Exch) (x : Lane) : Lane := { x with dreq := none, nDelay := min 16 (x.nDelay + 1), exch := (e :: x.exch).take 16 }

/-- The exchange is counted. -/
def Dev.exchTaken (s : Dev) (l v : Nat) (e : Exch) : Dev := (s.modLane l (Lane.exchTaken e)).pcClock 0x0607 1 (some v)

/-- The means are shown. -/
def Dev.delaysShown (s : Dev) (l : Nat) (dn up off : Int) : Dev :=
  ((s.wr (F.VL_LDLY_DN l) (uns 16 dn)).wr (F.VL_LDLY_UP l) (uns 16 up)).wr (F.VL_LTOFF l) (uns 32 off)

/-- The checks of DELAY and ACTIVE. -/
def Dev.delayJudged (s : Dev) (l st : Nat) (long : Bool) (jump : Prop) [Decidable jump] : Dev :=
  if st = 4 then
    if (s.lane l).nDelay < 16 then s
    else if long then s.laneFault l 6 8
    else (s.setLane l 5).sendTrn l
  else if long then s.laneFault l 6 8
  else if jump then s.laneFault l 11 1
  else s

/-- The transmitter that receiver r belongs to: on a SPLIT vat that of the other lane. -/
def Dev.sender (s : Dev) (r : Nat) : Nat := if s.on (F.VL_LSTAT_SPLIT r) then mate r else r

/-- What an exchange leaves before its checks. -/
def Dev.exchShown (s : Dev) (l v : Nat) (e : Exch) (dn up off : Int) : Dev := ((s.exchTaken l v e).delaysShown l dn up off).toffJudge l v off

theorem Dev.exchTaken_lane (s : Dev) (l v : Nat) (e : Exch) : (s.exchTaken l v e).lane l = Lane.exchTaken e (s.lane l) := by
  rw [Dev.lane, Dev.exchTaken, (Dev.pcClock_frame _ _ _ _).part .vl]
  exact s.lane_modLane_self l _

theorem Dev.exchTaken_rd (s : Dev) (l v : Nat) (e : Exch) {f : Fld} (h : blockOf f.reg = 6) : (s.exchTaken l v e).rd f = s.rd f :=
  (Dev.pcClock_frame (s.modLane l (Lane.exchTaken e)) 0x0607 1 (some v)).rd f (by rw [h]; decide)

/-- An exchange closes. -/
def Dev.exchDone (s : Dev) (l r : Nat) (e : Exch) : Dev :=
  let u := s.exchTaken l (r / 2) e
  let ex := (u.lane l).exch
  let dn := mean2 (ex.map (·.dn))
  let up := mean2 (ex.map (·.up))
  let off := mean2 (ex.map (·.off))
  let w := (u.delaysShown l dn up off).toffJudge l (r / 2) off
  let lim : Int := 256 * w.rd F.VL_CFG_DJUMP_LIM
  w.delayJudged l (s.rd (F.VL_LSTAT_STATE l)) (decide (10240 < dn) || decide (10240 < up))
    (lim < (dn - sgn 16 (u.rd (F.VL_LDLY_DN l))).natAbs ∨ lim < (up - sgn 16 (u.rd (F.VL_LDLY_UP l))).natAbs)

theorem Dev.drspIn_eq {s : Dev} {r : Nat} {d : Drsp} {t1 : BitVec 64} (hr : s.receives r = true) (hh : d.hdrOk = true) (hc : d.crcOk = true)
    (hq : (s.lane (s.sender r)).dreq = some (d.nonce, t1))
    (hst : s.rd (F.VL_LSTAT_STATE (s.sender r)) = 4 ∨ s.rd (F.VL_LSTAT_STATE (s.sender r)) = 6) :
    s.drspIn r d = s.exchDone (s.sender r) r (s.exchange (s.sender r) r d t1) := by
  have hno : ¬(d.nonce ≠ d.nonce ∨ s.rd (F.VL_LSTAT_STATE (s.sender r)) ≠ 4 ∧ s.rd (F.VL_LSTAT_STATE (s.sender r)) ≠ 6) := by
    rintro (h | ⟨h4, h6⟩)
    · exact h rfl
    · exact hst.elim h4 h6
  unfold Dev.drspIn
  extract_lets v l st t4 asym
  have hl : l = s.sender r := rfl
  clear_value l
  subst hl
  rw [hr, hh, hc, if_neg (by decide), if_neg (by decide), if_neg (by decide), hq]
  dsimp -zeta only
  rw [if_neg hno]
  rfl

/-- Windows and parts that an exchange may reach. -/
def exchWindows : List Nat := [6, 11, 12, 13, 14, 18, 21]
def exchParts : List Part := [.gl, .cal, .de, .evq, .fc, .freeCtr, .trc, .vl]

/-- The lane's exchanges stay, and so do the registers of VL. -/
structure Dev.ExchKept (l : Nat) (s t : Dev) : Prop where
  lane : ∃ b, t.lane l = { s.lane l with toffBad := b }
  frame : Dev.Frame [11, 12, 13, 14, 18, 21] exchParts s t

theorem Dev.ExchKept.then {l : Nat} {s t u : Dev} {w : List Nat} {p : List Part} (h : Dev.ExchKept l s t) (k : Dev.Frame w p t u)
    (hw : ∀ b ∈ w, b ∈ [11, 12, 13, 14, 18, 21] := by decide) (hp : ∀ x ∈ p, x ∈ exchParts := by decide) (hvl : Part.vl ∉ p := by decide) :
    Dev.ExchKept l s u := by
  obtain ⟨b, hb⟩ := h.lane
  refine ⟨⟨b, ?_⟩, h.frame.then k hw hp⟩
  rw [← hb, Dev.lane, Dev.lane, k.part .vl hvl]

theorem Dev.ExchKept.judge (l v b : Nat) (f : Vat → Vat) (s : Dev) :
    Dev.ExchKept l s ((s.modLane l (fun x => { x with toffBad := b })).modVat v f) :=
  ⟨⟨b, s.lane_modLane_self l (fun x => { x with toffBad := b })⟩, ((Dev.Frame.refl _ _ s).modLane _ _).modVat _ _⟩

theorem Dev.toffJudge_kept (s : Dev) (l v : Nat) (toff : Int) : Dev.ExchKept l s (s.toffJudge l v toff) := by
  have hfc (u : Dev) (x : Fc) : Dev.Frame [] [.fc] u { u with fc := x } := (Dev.Frame.refl _ _ u).fc x
  unfold Dev.toffJudge
  split
  · extract_lets b t u
    have ht : Dev.ExchKept l s t := .judge l v _ _ s
    clear_value t
    split
    · exact (ht.then (hfc t _)).then (Dev.raiseCond_frame _ R.FC_EICT_LO _ _ _ (by decide) (by decide))
    · exact ht
  · extract_lets t u
    have ht : Dev.ExchKept l s t := .judge l v _ _ s
    clear_value t
    split
    · split
      · exact (ht.then ((Dev.Frame.refl [18] [] t).wr2 R.FC_EICT_LO _)).then (Dev.glSync_frame _)
      · split
        · exact ht
        · exact ht.then (hfc t _)
    · exact ht

theorem Dev.vatLost_lanes (s : Dev) (v : Nat) : (s.vatLost v).vl.lanes = s.vl.lanes := by
  have h : (s.vatLost v).vl = (((s.raise 0x0612 2 (srcWord 6 v)).regardHeld v).accZero v).vl := (Dev.glSync_frame _).part .vl
  rw [h]
  rfl

/-- What a training collected is gone when its lane leaves service. -/
theorem Dev.laneLeave_lane (s : Dev) (k st : Nat) : (s.laneLeave k st).lane k = (s.lane k).left := by
  have hmoved : (s.laneMoved k st).lane k = (s.lane k).left := by
    have h := (s.setLane k st).lane_modLane_self k Lane.left
    unfold Dev.laneMoved Dev.when
    split
    · exact h
    · exact h
  rw [← hmoved, Dev.laneLeave_eq]
  unfold Dev.when
  split
  · exact congrArg (Tbl.get · k) (Dev.vatLost_lanes _ _)
  · rfl

theorem Dev.laneFault_lane (s : Dev) (k cause st : Nat) : (s.laneFault k cause st).lane k = (s.lane k).left := (s.faultTold k cause).laneLeave_lane k st

/-- What the end of an exchange shows stays through what its checks do. -/
structure Dev.ExchShown (l : Nat) (s t : Dev) : Prop where
  regs : ∀ off, 0x61008 + 0x40 * l ≤ off → off < 0x61014 + 0x40 * l → t.reg off = s.reg off
  dreq : (s.lane l).dreq = none → (t.lane l).dreq = none
  frame : Dev.Frame exchWindows exchParts s t

theorem Dev.ExchShown.fault {l : Nat} (hl : l < 128) (s : Dev) (cause st : Nat) (hst : st < 16) : Dev.ExchShown l s (s.laneFault l cause st) :=
  ⟨fun off h1 h2 => s.laneFault_reg hl hst (by omega) (by simp only [R.VL_LSTAT]; omega) (by simp only [R.VL_RETRAIN]; omega) (by simp only [blockOf]; omega),
    fun _ => by rw [s.laneFault_lane]; rfl, (s.laneFault_frame hl cause st).mono (by decide) (by decide)⟩

theorem Dev.ExchShown.time {l : Nat} (hl : l < 128) (s : Dev) : Dev.ExchShown l s ((s.setLane l 5).sendTrn l) :=
  ⟨fun off h1 h2 => (s.setLane_left hl (show 5 < 16 by decide)).regs off (by omega) (by simp only [R.VL_LSTAT]; omega)
    (by simp only [R.VL_RETRAIN]; omega) (by simp only [blockOf]; omega), fun h => h, ((s.setLane_frame hl 5).mono).then (Dev.sendTrn_frame _ l)⟩

/-- The checks of DELAY and ACTIVE, by their outcomes. -/
theorem Dev.delayJudged_spec (s : Dev) {l : Nat} (hl : l < 128) (hst : s.rd (F.VL_LSTAT_STATE l) = 4 ∨ s.rd (F.VL_LSTAT_STATE l) = 6) (long : Bool)
    (jump : Prop) [Decidable jump] : ∃ d, s.delayJudged l (s.rd (F.VL_LSTAT_STATE l)) long jump = d ∧ Dev.ExchShown l s d ∧
      (s.rd (F.VL_LSTAT_STATE l) = 4 ∧ (s.lane l).nDelay < 16 → d = s) ∧
      (¬(s.rd (F.VL_LSTAT_STATE l) = 4 ∧ (s.lane l).nDelay < 16) → long = true → d.rd (F.VL_LSTAT_STATE l) = 8 ∧ d.rd (F.VL_LSTAT_CAUSE l) = 6) ∧
      (s.rd (F.VL_LSTAT_STATE l) = 4 → ¬(s.lane l).nDelay < 16 → long = false → d.rd (F.VL_LSTAT_STATE l) = 5 ∧ d.lane l = s.lane l) ∧
      (s.rd (F.VL_LSTAT_STATE l) = 6 → long = false → jump → d.rd (F.VL_LSTAT_STATE l) = 1 ∧ d.rd (F.VL_LSTAT_CAUSE l) = 11) ∧
      (s.rd (F.VL_LSTAT_STATE l) = 6 → long = false → ¬jump → d = s) := by
  have hlong : (s.laneFault l 6 8).rd (F.VL_LSTAT_STATE l) = 8 ∧ (s.laneFault l 6 8).rd (F.VL_LSTAT_CAUSE l) = 6 :=
    ⟨s.laneFault_state hl (by decide), s.laneFault_cause hl (by decide) (by decide)⟩
  have hjump : (s.laneFault l 11 1).rd (F.VL_LSTAT_STATE l) = 1 ∧ (s.laneFault l 11 1).rd (F.VL_LSTAT_CAUSE l) = 11 :=
    ⟨s.laneFault_state hl (by decide), s.laneFault_cause hl (by decide) (by decide)⟩
  have htime : ((s.setLane l 5).sendTrn l).rd (F.VL_LSTAT_STATE l) = 5 ∧ ((s.setLane l 5).sendTrn l).lane l = s.lane l :=
    ⟨s.setLane_state hl (by decide), rfl⟩
  have hself : Dev.ExchShown l s s := ⟨fun _ _ _ => rfl, id, .refl _ _ s⟩
  have hf6 := Dev.ExchShown.fault hl s 6 8 (by decide)
  have hf11 := Dev.ExchShown.fault hl s 11 1 (by decide)
  have ht := Dev.ExchShown.time hl s
  unfold Dev.delayJudged
  generalize s.laneFault l 6 8 = a at *
  generalize s.laneFault l 11 1 = b at *
  generalize (s.setLane l 5).sendTrn l = c at *
  obtain h4 | h6 := hst
  · rw [if_pos h4]
    by_cases hn : (s.lane l).nDelay < 16
    · rw [if_pos hn]
      exact ⟨s, rfl, hself, fun _ => rfl, fun h => absurd ⟨h4, hn⟩ h, fun _ h => absurd hn h, fun h => by omega, fun h => by omega⟩
    · rw [if_neg hn]
      cases long with
      | true => exact ⟨a, rfl, hf6, fun h => absurd h.2 hn, fun _ _ => hlong, fun _ _ h => by simp at h, fun h => by omega, fun h => by omega⟩
      | false => exact ⟨c, rfl, ht, fun h => absurd h.2 hn, fun _ h => by simp at h, fun _ _ _ => htime, fun h => by omega, fun h => by omega⟩
  · rw [if_neg (by omega)]
    cases long with
    | true => exact ⟨a, rfl, hf6, fun h => by omega, fun _ _ => hlong, fun h => by omega, fun _ h => by simp at h, fun _ h => by simp at h⟩
    | false =>
      by_cases hj : jump
      · rw [if_neg Bool.false_ne_true, if_pos hj]
        exact ⟨b, rfl, hf11, fun h => by omega, fun _ h => by simp at h, fun h => by omega, fun _ _ _ => hjump, fun _ _ h => absurd hj h⟩
      · rw [if_neg Bool.false_ne_true, if_neg hj]
        exact ⟨s, rfl, hself, fun h => by omega, fun _ h => by simp at h, fun h => by omega, fun _ _ h => absurd h hj, fun _ _ _ => rfl⟩

theorem Dev.delaysShown_spec (s : Dev) {l : Nat} (hl : l < 128) (dn up off : Int) :
    (s.delaysShown l dn up off).rd (F.VL_LDLY_DN l) = uns 16 dn % 2 ^ 16 ∧ (s.delaysShown l dn up off).rd (F.VL_LDLY_UP l) = uns 16 up % 2 ^ 16 ∧
    (s.delaysShown l dn up off).rd (F.VL_LTOFF l) = uns 32 off % 2 ^ 32 ∧
    (∀ a, (a < 0x61008 + 0x40 * l ∨ 0x61014 + 0x40 * l ≤ a) → (s.delaysShown l dn up off).reg a = s.reg a) ∧
    Dev.Frame [6] [] s (s.delaysShown l dn up off) := by
  have hap {f g : Fld} {i j : Nat} (hf : f.reg = i + 0x40 * l) (hg : g.reg = j + 0x40 * l) (h : i ≠ j) : f.apart g = true := Fld.apart_of_reg (by omega)
  refine ⟨?_, ?_, Dev.rd_wr_self _ _ _ rfl, fun a ha => ?_, ?_⟩
  · rw [Dev.delaysShown, Dev.rd_wr_apart _ _ _ _ rfl (hap rfl rfl (by decide)), Dev.rd_wr_apart _ _ _ _ rfl (hap rfl rfl (by decide))]
    exact Dev.rd_wr_self _ _ _ rfl
  · rw [Dev.delaysShown, Dev.rd_wr_apart _ _ _ _ rfl (hap rfl rfl (by decide))]
    exact Dev.rd_wr_self _ _ _ rfl
  · rw [Dev.delaysShown, Dev.reg_wr_ne _ (by simp only [F.VL_LTOFF]; omega), Dev.reg_wr_ne _ (by simp only [F.VL_LDLY_UP]; omega),
      Dev.reg_wr_ne _ (by simp only [F.VL_LDLY_DN]; omega)]
  · exact (((Dev.Frame.refl _ _ s).wr _ _ (laneReg_mem (by decide) (by decide) hl (by decide))).wr _ _ (laneReg_mem (by decide) (by decide) hl (by decide))).wr _ _
      (laneReg_mem (by decide) (by decide) hl (by decide))

/-- The mean delay down, and the delay is out of range or has jumped. -/
def delayLong (dn up : Int) : Prop := 10240 < dn ∨ 10240 < up

/-- What the end of an exchange leaves. -/
theorem Dev.exchDone_spec (s : Dev) {l r : Nat} (hl : l < 128) (hst : s.rd (F.VL_LSTAT_STATE l) = 4 ∨ s.rd (F.VL_LSTAT_STATE l) = 6) (e : Exch)
    {ex : List Exch} (hex : ex = (e :: (s.lane l).exch).take 16) {dn up : Int} (hdn : dn = mean2 (ex.map (·.dn))) (hup : up = mean2 (ex.map (·.up)))
    {jump : Prop} (hjump : jump = ((256 * s.rd F.VL_CFG_DJUMP_LIM : Int) < (dn - sgn 16 (s.rd (F.VL_LDLY_DN l))).natAbs ∨
      (256 * s.rd F.VL_CFG_DJUMP_LIM : Int) < (up - sgn 16 (s.rd (F.VL_LDLY_UP l))).natAbs))
    {early : Prop} (hearly : early = (s.rd (F.VL_LSTAT_STATE l) = 4 ∧ (s.lane l).nDelay < 15)) :
    ∃ d, s.exchDone l r e = d ∧ (d.lane l).dreq = none ∧ d.rd (F.VL_LDLY_DN l) = uns 16 dn % 2 ^ 16 ∧ d.rd (F.VL_LDLY_UP l) = uns 16 up % 2 ^ 16 ∧
      d.rd (F.VL_LTOFF l) = uns 32 (mean2 (ex.map (·.off))) % 2 ^ 32 ∧
      (early → d.rd (F.VL_LSTAT_STATE l) = 4 ∧ (d.lane l).exch = ex ∧ (d.lane l).nDelay = (s.lane l).nDelay + 1) ∧
      (¬early → delayLong dn up → d.rd (F.VL_LSTAT_STATE l) = 8 ∧ d.rd (F.VL_LSTAT_CAUSE l) = 6) ∧
      (s.rd (F.VL_LSTAT_STATE l) = 4 → ¬early → ¬delayLong dn up → d.rd (F.VL_LSTAT_STATE l) = 5 ∧ (d.lane l).exch = ex) ∧
      (s.rd (F.VL_LSTAT_STATE l) = 6 → ¬delayLong dn up → jump → d.rd (F.VL_LSTAT_STATE l) = 1 ∧ d.rd (F.VL_LSTAT_CAUSE l) = 11) ∧
      (s.rd (F.VL_LSTAT_STATE l) = 6 → ¬delayLong dn up → ¬jump → d.rd (F.VL_LSTAT_STATE l) = 6 ∧ (d.lane l).exch = ex) ∧
      Dev.Frame exchWindows exchParts s d := by
  have hlane := s.exchTaken_lane l (r / 2) e
  have htaken : Dev.Frame exchWindows exchParts s (s.exchTaken l (r / 2) e) :=
    ((Dev.Frame.refl exchWindows exchParts s).modLane _ _).then (Dev.pcClock_frame _ _ _ _)
  have hrd {f : Fld} (h : blockOf f.reg = 6) := s.exchTaken_rd l (r / 2) e h
  have hb {a : Nat} (h1 : 0x61000 ≤ a) (h2 : a < 0x61040) : blockOf (a + 0x40 * l) = 6 := by simp only [blockOf]; omega
  have hdnOld : (s.exchTaken l (r / 2) e).rd (F.VL_LDLY_DN l) = s.rd (F.VL_LDLY_DN l) := hrd (hb (by decide) (by decide))
  have hupOld : (s.exchTaken l (r / 2) e).rd (F.VL_LDLY_UP l) = s.rd (F.VL_LDLY_UP l) := hrd (hb (by decide) (by decide))
  have hlim : (s.exchTaken l (r / 2) e).rd F.VL_CFG_DJUMP_LIM = s.rd F.VL_CFG_DJUMP_LIM := hrd rfl
  have hstate : (s.exchTaken l (r / 2) e).rd (F.VL_LSTAT_STATE l) = s.rd (F.VL_LSTAT_STATE l) := hrd (hb (by decide) (by decide))
  unfold Dev.exchDone
  generalize s.exchTaken l (r / 2) e = u at *
  dsimp only
  have hexu : (u.lane l).exch = ex := by rw [hlane, hex]; rfl
  rw [hexu, ← hdn, ← hup, hdnOld, hupOld, ← hstate]
  rw [← hstate] at hst hearly
  generalize mean2 (ex.map (·.off)) = off
  obtain ⟨h1, h2, h3, h4, h5⟩ := u.delaysShown_spec hl dn up off
  obtain ⟨⟨b, hb'⟩, hf⟩ := (u.delaysShown l dn up off).toffJudge_kept l (r / 2) off
  have hshown : (u.delaysShown l dn up off).lane l = u.lane l := by rw [Dev.lane, h5.part .vl]; rfl
  rw [hshown] at hb'
  have hwrd {f : Fld} (h : blockOf f.reg = 6) : ((u.delaysShown l dn up off).toffJudge l (r / 2) off).rd f = (u.delaysShown l dn up off).rd f :=
    hf.rd f (by rw [h]; decide)
  have hwlim : ((u.delaysShown l dn up off).toffJudge l (r / 2) off).rd F.VL_CFG_DJUMP_LIM = s.rd F.VL_CFG_DJUMP_LIM := by
    rw [← hlim, hwrd rfl, Dev.rd, Dev.rd, h4 _ (.inl (by simp only [F.VL_CFG_DJUMP_LIM]; omega))]
  have hwstate : ((u.delaysShown l dn up off).toffJudge l (r / 2) off).rd (F.VL_LSTAT_STATE l) = u.rd (F.VL_LSTAT_STATE l) := by
    rw [hwrd (hb (by decide) (by decide)), Dev.rd, Dev.rd, h4 _ (.inl (by simp only [F.VL_LSTAT_STATE]; omega))]
  have hwdn := (hwrd (f := F.VL_LDLY_DN l) (hb (by decide) (by decide))).trans h1
  have hwup := (hwrd (f := F.VL_LDLY_UP l) (hb (by decide) (by decide))).trans h2
  have hwoff := (hwrd (f := F.VL_LTOFF l) (hb (by decide) (by decide))).trans h3
  have hwframe : Dev.Frame exchWindows exchParts s ((u.delaysShown l dn up off).toffJudge l (r / 2) off) := (htaken.then h5).then hf
  generalize (u.delaysShown l dn up off).toffJudge l (r / 2) off = w at *
  rw [← hwstate] at hst hearly ⊢
  have hnd : (w.lane l).nDelay = min 16 ((s.lane l).nDelay + 1) := by rw [hb', hlane]; rfl
  have hwex : (w.lane l).exch = ex := by rw [hb']; exact hexu
  have hwdreq : (w.lane l).dreq = none := by rw [hb', hlane]; rfl
  have hlong : (decide (10240 < dn) || decide (10240 < up)) = true ↔ delayLong dn up := by simp [delayLong]
  have hshort : ¬delayLong dn up → (decide (10240 < dn) || decide (10240 < up)) = false := fun h => by
    rw [← Bool.not_eq_true, hlong]
    exact h
  have hearly' : early ↔ w.rd (F.VL_LSTAT_STATE l) = 4 ∧ (w.lane l).nDelay < 16 := by
    rw [hearly, hnd]
    omega
  rw [hwlim]
  obtain ⟨d, hd, hshown, k1, k2, k3, k4, k5⟩ := w.delayJudged_spec hl hst (decide (10240 < dn) || decide (10240 < up))
    ((256 * s.rd F.VL_CFG_DJUMP_LIM : Int) < (dn - sgn 16 (s.rd (F.VL_LDLY_DN l))).natAbs ∨
      (256 * s.rd F.VL_CFG_DJUMP_LIM : Int) < (up - sgn 16 (s.rd (F.VL_LDLY_UP l))).natAbs)
  rw [← hjump] at k4 k5
  have hdrd {f : Fld} (ha : 0x61008 + 0x40 * l ≤ f.reg) (hb : f.reg < 0x61014 + 0x40 * l) : d.rd f = w.rd f := by
    rw [Dev.rd, Dev.rd, hshown.regs _ ha hb]
  refine ⟨d, hd, hshown.dreq hwdreq, ?_, ?_, ?_, fun h => ?_, fun h hlg => k2 (fun h' => h (hearly'.mpr h')) (hlong.mpr hlg), fun h4 h hlg => ?_,
    fun h6 hlg hj => k4 h6 (hshort hlg) hj, fun h6 hlg hj => ?_, hwframe.trans hshown.frame⟩
  · rw [hdrd (by simp only [F.VL_LDLY_DN]; omega) (by simp only [F.VL_LDLY_DN]; omega), hwdn]
  · rw [hdrd (by simp only [F.VL_LDLY_UP]; omega) (by simp only [F.VL_LDLY_UP]; omega), hwup]
  · rw [hdrd (by simp only [F.VL_LTOFF]; omega) (by simp only [F.VL_LTOFF]; omega), hwoff]
  · have h' := hearly'.mp h
    rw [k1 h']
    exact ⟨h'.1, hwex, by rw [hnd] at h' ⊢; omega⟩
  · obtain ⟨k, hk⟩ := k3 h4 (fun h' => h (hearly'.mpr ⟨h4, h'⟩)) (hshort hlg)
    exact ⟨k, by rw [hk]; exact hwex⟩
  · rw [k5 h6 (hshort hlg) hj]
    exact ⟨h6, hwex⟩

theorem Dev.dreqDue_go {s : Dev} {k : Nat} (nonce : Byte) (t1 : BitVec 64) (h : s.rd (F.VL_LSTAT_STATE k) = 4 ∨ (s.rd (F.VL_LSTAT_STATE k) = 6 ∧
    ∀ a, (s.lane k).dreqAt = some a → s.now < a ∨ a + 2 ^ (s.rd F.VL_CFG_DLY_INT + 6) ≤ s.now)) : ∃ f : Lane → Lane,
    s.dreqDue k nonce t1 = (s.modLane k f).send (.dreq k nonce) ∧ (f (s.lane k)).dreq = some (nonce, t1) ∧
      (s.rd (F.VL_LSTAT_STATE k) = 6 → (f (s.lane k)).dreqAt = some s.now) := by
  obtain h4 | ⟨h6, hearly⟩ := h
  · exact ⟨fun x => { x with dreq := some (nonce, t1) }, if_pos h4, rfl, fun h => by omega⟩
  · have hno : ((s.lane k).dreqAt.any (fun a => decide (a ≤ s.now) && decide (s.now < a + 2 ^ (s.rd F.VL_CFG_DLY_INT + 6)))) = false := by
      cases ha : (s.lane k).dreqAt with
      | none => rfl
      | some a =>
        have h := hearly a ha
        rw [Option.any_some, Bool.and_eq_false_iff, decide_eq_false_iff_not, decide_eq_false_iff_not]
        omega
    refine ⟨fun x => { x with dreq := some (nonce, t1), dreqAt := some s.now }, ?_, rfl, fun _ => rfl⟩
    unfold Dev.dreqDue
    dsimp only
    rw [if_neg (by omega), if_pos ⟨h6, by rw [hno]; rfl⟩]

/-- The two lanes' nonces and the binding that a TRN is judged by. -/
theorem Dev.identDone_spec (s : Dev) {k : Nat} (hk : k < 128) (hst : s.rd (F.VL_LSTAT_STATE k) ≠ 6) (b : Trn) : ∃ d, s.identDone k b = d ∧
    d.on (F.VL_LSTAT_EIC_PORT k) = b.endp ∧ d.rd (F.VL_EIC_ID_LO k) = b.id.toNat % 2 ^ 32 ∧ d.rd (F.VL_EIC_ID_HI k) = b.id.toNat / 2 ^ 32 ∧
    d.on (F.VL_LSTAT_SPLIT k) = s.isSplit k b ∧ ((s.boundId (k / 2)).getD b.id = b.id → d.rd (F.VL_LSTAT_STATE k) = 4) ∧
    ((s.boundId (k / 2)).getD b.id ≠ b.id → d.rd (F.VL_LSTAT_STATE k) = 8 ∧ d.rd (F.VL_LSTAT_CAUSE k) = 5) ∧ Dev.Frame [6] [.vl, .fc, .freeCtr] s d := by
  obtain ⟨h1, h2, h3, h4, h5, -⟩ := s.identTaken_spec k b
  have hf := s.identTaken_frame hk b
  rw [Dev.identDone_eq, s.identTaken_boundId hk]
  rw [← h5] at hst
  generalize s.identTaken k b = u at *
  by_cases hid : (s.boundId (k / 2)).getD b.id = b.id
  · rw [if_pos hid]
    have hl := (u.modVat (k / 2) (fun x => { x with eicId := x.eicId.or (some b.id) })).setLane_left hk (show 4 < 16 by decide)
    have hregs : Dev.RegsAs u (u.modVat (k / 2) (fun x => { x with eicId := x.eicId.or (some b.id) })) := fun _ => rfl
    have hframe : Dev.Frame [6] [.vl, .fc, .freeCtr] s (u.modVat (k / 2) (fun x => { x with eicId := x.eicId.or (some b.id) })) :=
      (hf.mono (w' := [6]) (l' := [.vl, .fc, .freeCtr])).modVat _ _
    generalize u.modVat (k / 2) (fun x => { x with eicId := x.eicId.or (some b.id) }) = w at *
    have hown {f : Fld} {a : Nat} (ha : f.reg = a + 0x40 * k) (ha1 : 0x61000 ≤ a) (ha2 : a < 0x61040) (ha3 : a ≠ 0x61004) (ha4 : a ≠ 0x61030) :
        ((w.setLane k 4).sendTrn k).rd f = u.rd f := by
      rw [← hregs.rd, Dev.rd, Dev.rd, ha]
      exact congrArg (fun x : Word => x.toNat / 2 ^ f.lo % 2 ^ f.w) (hl.own hk ha1 ha2 ha3 ha4)
    have hstatus (f : Fld) (hf : f.reg = R.VL_LSTAT k) (hlo : 4 ≤ f.lo) : ((w.setLane k 4).sendTrn k).on f = u.on f :=
      congrArg (· == 1) ((hl.status f hf hlo).trans (hregs.rd f))
    exact ⟨_, rfl, (hstatus _ rfl (Nat.le_of_ble_eq_true rfl)).trans h1, (hown rfl (by decide) (by decide) (by decide) (by decide)).trans h2,
      (hown rfl (by decide) (by decide) (by decide) (by decide)).trans h3, (hstatus _ rfl (Nat.le_of_ble_eq_true rfl)).trans h4, fun _ => hl.state,
      fun h => absurd hid h, (hframe.then (w.setLane_frame hk 4)).then (Dev.sendTrn_frame _ k)⟩
  · rw [if_neg hid]
    have hown {f : Fld} {a : Nat} (ha : f.reg = a + 0x40 * k) (ha1 : 0x61000 ≤ a) (ha2 : a < 0x61040) (ha3 : a ≠ 0x61004) (ha4 : a ≠ 0x61030) :
        (u.laneFault k 5 8).rd f = u.rd f := by
      rw [Dev.rd, Dev.rd, ha, u.laneFault_reg hk (by decide) (by omega) (by simp only [R.VL_LSTAT]; omega) (by simp only [R.VL_RETRAIN]; omega)
        (by simp only [blockOf]; omega)]
    have hstatus (f : Fld) (hf : f.reg = R.VL_LSTAT k) (hlo : 8 ≤ f.lo) : (u.laneFault k 5 8).on f = u.on f :=
      congrArg (· == 1) (u.laneFault_status hk (by decide) hf hlo)
    exact ⟨_, rfl, (hstatus _ rfl (Nat.le_of_ble_eq_true rfl)).trans h1, (hown rfl (by decide) (by decide) (by decide) (by decide)).trans h2,
      (hown rfl (by decide) (by decide) (by decide) (by decide)).trans h3, (hstatus _ rfl (Nat.le_of_ble_eq_true rfl)).trans h4, fun h => absurd h hid,
      fun _ => ⟨u.laneFault_state hk (by decide), u.laneFault_cause hk (by decide) (by decide)⟩,
      (hf.mono (w' := [6]) (l' := [.vl, .fc, .freeCtr])).then (Dev.laneFault_inactive_frame hk (by decide) hst)⟩

theorem Dev.blockLock_serving {s : Dev} {k : Nat} (h2 : 2 ≤ s.rd (F.VL_LSTAT_STATE k)) (h6 : s.rd (F.VL_LSTAT_STATE k) ≤ 6)
    (h : s.rd (F.VL_LSTAT_STATE k) ≠ 2) (ms : List Meas) : s.blockLock k ms = s.modLane k Lane.lockTaken := by
  rw [Dev.blockLock_eq h2 h6, if_pos h]

/-- The results of a LANE run that ends with block lock: those that agree and are in range are taken. -/
def Dev.runTaken (s : Dev) (k : Nat) (vs : List Int) : Dev := if laneOk vs then s.setRx k vs else s

theorem Dev.blockLock_locking {s : Dev} {k : Nat} (h : s.rd (F.VL_LSTAT_STATE k) = 2) (ms : List Meas) : s.blockLock k ms =
    ((agreeAll laneTols ms).join.elim ((s.modLane k Lane.lockTaken).raise 0x0F01 0 (srcWord 15) k) ((s.modLane k Lane.lockTaken).runTaken k)) := by
  rw [Dev.blockLock_eq (by rw [h]) (by rw [h]; decide), if_neg (by rw [h]; decide)]
  cases agreeAll laneTols ms with
  | none => rfl
  | some r =>
    cases r with
    | none => rfl
    | some vs => rfl

theorem Dev.runTaken_lane (s : Dev) {k : Nat} (hk : k < 128) (vs : List Int) (l : Nat) : (s.runTaken k vs).lane l = s.lane l := by
  unfold Dev.runTaken
  split
  · rw [Dev.lane, (s.setRx_frame hk vs).part .vl]
    rfl
  · rfl

theorem Dev.blockLock_spec {s : Dev} {k : Nat} (hk : k < 128) (h2 : 2 ≤ s.rd (F.VL_LSTAT_STATE k)) (h6 : s.rd (F.VL_LSTAT_STATE k) ≤ 6) (ms : List Meas) :
    ∃ d, s.blockLock k ms = d ∧ (d.lane k).locked = true ∧ (s.rd (F.VL_LSTAT_STATE k) ≠ 2 → Dev.Frame [] [.vl] s d) ∧
      (∀ vs, s.rd (F.VL_LSTAT_STATE k) = 2 → agreeAll laneTols ms = some (some vs) → laneOk vs = true →
        d.rd (F.CAL_LRX0_RXDLY k) = uns 6 (vs.getD 5 0) ∧ d.rd (F.CAL_LRX0_THM k) = uns 6 (vs.getD 0 0) ∧
        d.rd (F.CAL_LRX1_TH1 k) = uns 6 (vs.getD 1 0) ∧ d.rd (F.CAL_LRX1_TH4 k) = uns 6 (vs.getD 4 0) ∧ Dev.Frame [15] [.vl] s d) ∧
      (s.rd (F.VL_LSTAT_STATE k) = 2 → agreeAll laneTols ms = some none → Dev.Frame [] [.vl, .fc, .freeCtr] s d) := by
  have hlane := congrArg Lane.locked (s.lane_modLane_self k Lane.lockTaken)
  have hframe : Dev.Frame [] [.vl] s (s.modLane k Lane.lockTaken) := (Dev.Frame.refl _ _ _).modLane _ _
  by_cases hst : s.rd (F.VL_LSTAT_STATE k) = 2
  · rw [Dev.blockLock_locking hst]
    generalize s.modLane k Lane.lockTaken = u at *
    cases hag : (agreeAll laneTols ms).join with
    | none =>
      refine ⟨_, rfl, hlane, fun h => absurd hst h, fun vs _ h => ?_, fun _ _ =>
        (hframe.mono (w' := []) (l' := [.vl, .fc, .freeCtr])).raise _ _ _ _ _⟩
      rw [h] at hag
      cases hag
    | some ws =>
      refine ⟨u.runTaken k ws, rfl, ?_, fun h => absurd hst h, fun vs _ h hok => ?_, fun _ h => ?_⟩
      · rw [u.runTaken_lane hk]
        exact hlane
      · obtain rfl : vs = ws := by
          rw [h] at hag
          exact Option.some.inj hag
        obtain ⟨k1, k2, k3, k4⟩ := u.setRx_spec k vs
        rw [Dev.runTaken, if_pos hok]
        exact ⟨k1, k2, k3, k4, hframe.mono.then (u.setRx_frame hk vs)⟩
      · rw [h] at hag
        cases hag
  · rw [Dev.blockLock_serving h2 h6 hst]
    exact ⟨_, rfl, hlane, fun _ => hframe, fun vs h => absurd h hst, fun h => absurd h hst⟩

theorem Dev.trnIn_lock {s : Dev} {k : Nat} {b : Trn} (hst : s.rd (F.VL_LSTAT_STATE k) = 2) (hh : b.hdrOk = true) (hl : (s.lane k).locked = true)
    (hc : b.crcOk = true ∨ b.crcInv = true) : s.trnIn k b =
      if 8 ≤ ((s.trnTaken k b).lane k).trnGood then ((s.trnTaken k b).setLane k 3).sendTrn k else (s.trnTaken k b).sendTrn k := by
  rw [Dev.trnIn_eq (by rw [hst]) (by rw [hst]; decide) hh hl (hc.imp_right fun h => ⟨hst, h⟩), hst]
  rfl

theorem Dev.trnIn_ident {s : Dev} {k : Nat} {b : Trn} (hst : s.rd (F.VL_LSTAT_STATE k) = 3) (hh : b.hdrOk = true) (hl : (s.lane k).locked = true)
    (hc : b.crcOk = true) (h : (b.fromEic && b.id != 0 && (s.modLane k (Lane.trnTaken b)).trnEchoes k b && decide (3 ≤ b.tstate.toNat)) = true) :
    s.trnIn k b = (s.modLane k (Lane.trnTaken b)).identDone k b := by
  rw [← Dev.trnTaken_good s hc] at h ⊢
  rw [Dev.trnIn_eq (by rw [hst]; decide) (by rw [hst]; decide) hh hl (.inl hc), hst]
  exact if_pos h

theorem Dev.trnIn_time {s : Dev} {k : Nat} {b : Trn} (hst : s.rd (F.VL_LSTAT_STATE k) = 5) (hh : b.hdrOk = true) (hl : (s.lane k).locked = true)
    (hc : b.crcOk = true) : s.trnIn k b = if b.tlock then ((s.modLane k (Lane.trnTaken b)).tlockTaken k b.tlock).setLane k 6
      else (s.modLane k (Lane.trnTaken b)).tlockTaken k b.tlock := by
  rw [← Dev.trnTaken_good s hc, Dev.trnIn_eq (by rw [hst]; decide) (by rw [hst]; decide) hh hl (.inl hc), hst]
  rfl

theorem Dev.trnIn_serving {s : Dev} {k : Nat} {b : Trn} (hst : s.rd (F.VL_LSTAT_STATE k) = 4 ∨ s.rd (F.VL_LSTAT_STATE k) = 6) (hh : b.hdrOk = true)
    (hl : (s.lane k).locked = true) (hc : b.crcOk = true) : s.trnIn k b = (s.modLane k (Lane.trnTaken b)).tlockTaken k b.tlock := by
  rw [← Dev.trnTaken_good s hc, Dev.trnIn_eq (by omega) (by omega) hh hl (.inl hc)]
  obtain h | h := hst
  · rw [h]
    rfl
  · rw [h]
    rfl

end Sys2Proof.Machine

namespace Sys2Proof.Proofs
open Sys2Proof.Machine

/-- The statement of O38 on a TRN in LOCK. -/
theorem trn_locks {s : State} {lane : BitVec 7} (hrun : Running s) {b : Trn} (hh : b.hdrOk = true) (hl : (s.dev.lane lane.toNat).locked = true)
    (hst : s.dev.rd (F.VL_LSTAT_STATE lane.toNat) = 2) (hc : b.crcOk = true ∨ b.crcInv = true) :
    ∃ t, exec (.trn lane b) s = .next t ∧ (t.dev.lane lane.toNat).nonceRx = b.nonceTx ∧
      (t.dev.lane lane.toNat).trnGood = min 8 ((s.dev.lane lane.toNat).trnGood + 1) ∧
      t.dev.on (F.VL_LSTAT_RX_INV lane.toNat) = (if b.crcOk then s.dev.on (F.VL_LSTAT_RX_INV lane.toNat) else !s.dev.on (F.VL_LSTAT_RX_INV lane.toNat)) ∧
      t.dev.rd (F.VL_LSTAT_STATE lane.toNat) = (if 7 ≤ (s.dev.lane lane.toNat).trnGood then 3 else 2) ∧ Only [6] [.vl, .fc, .freeCtr] s t := by
  have hk : lane.toNat < 128 := lane.isLt
  have hexec : exec (.trn lane b) s = .next { s with dev := s.fresh.dev.trnIn lane.toNat b } := State.onDev_next s _ hrun
  have hst' : s.fresh.dev.rd (F.VL_LSTAT_STATE lane.toNat) = 2 := hst
  rw [Dev.trnIn_lock (s := s.fresh.dev) hst hh hl hc] at hexec
  have hlane : (s.fresh.dev.trnTaken lane.toNat b).lane lane.toNat = Lane.trnTaken b (s.dev.lane lane.toNat) := s.fresh.dev.trnTaken_lane _ b
  have hinv : (s.fresh.dev.trnTaken lane.toNat b).on (F.VL_LSTAT_RX_INV lane.toNat) = _ := s.fresh.dev.trnTaken_rxInv lane.toNat b
  have hstate := (s.fresh.dev.trnTaken_state lane.toNat b).trans hst'
  have hframe : Dev.Frame [6] [.vl, .fc, .freeCtr] s.fresh.dev (s.fresh.dev.trnTaken lane.toNat b) := (s.fresh.dev.trnTaken_frame hk b).mono
  generalize s.fresh.dev.trnTaken lane.toNat b = u at *
  have hgood : (u.lane lane.toNat).trnGood = min 8 ((s.dev.lane lane.toNat).trnGood + 1) := congrArg Lane.trnGood hlane
  by_cases h8 : 8 ≤ (u.lane lane.toNat).trnGood
  · rw [if_pos h8] at hexec
    have hleft := u.setLane_left hk (show 3 < 16 by decide)
    refine ⟨_, hexec, congrArg Lane.nonceRx hlane, hgood, ?_, ?_, ((hframe.then (u.setLane_frame hk 3)).then (Dev.sendTrn_frame _ _)).only⟩
    · exact (congrArg (· == 1) (hleft.status (F.VL_LSTAT_RX_INV lane.toNat) rfl (Nat.le_of_ble_eq_true rfl))).trans hinv
    · rw [if_pos (by omega)]
      exact hleft.state
  · rw [if_neg h8] at hexec
    refine ⟨_, hexec, congrArg Lane.nonceRx hlane, hgood, hinv, ?_, (hframe.then (Dev.sendTrn_frame _ _)).only⟩
    rw [if_neg (by omega)]
    exact hstate

/-- The statement of O38 on a TRN in IDENT that echoes a nonce of the vat. -/
theorem trn_idents {s : State} {lane : BitVec 7} (hrun : Running s) {b : Trn} (hh : b.hdrOk = true) (hl : (s.dev.lane lane.toNat).locked = true)
    (hst : s.dev.rd (F.VL_LSTAT_STATE lane.toNat) = 3) (hc : b.crcOk = true) (he : b.fromEic = true) (hid : b.id ≠ 0) (ht : 3 ≤ b.tstate.toNat)
    (hecho : b.nonceEcho = (s.dev.lane lane.toNat).nonceTx ∨
      (b.nonceEcho = (s.dev.lane (mate lane.toNat)).nonceTx ∧ b.nonceEcho ≠ 0)) :
    ∃ t, exec (.trn lane b) s = .next t ∧ t.dev.on (F.VL_LSTAT_EIC_PORT lane.toNat) = b.endp ∧
      t.dev.rd (F.VL_EIC_ID_LO lane.toNat) = b.id.toNat % 2 ^ 32 ∧ t.dev.rd (F.VL_EIC_ID_HI lane.toNat) = b.id.toNat / 2 ^ 32 ∧
      t.dev.on (F.VL_LSTAT_SPLIT lane.toNat) = s.dev.isSplit lane.toNat b ∧
      ((s.dev.boundId (lane.toNat / 2)).getD b.id = b.id → t.dev.rd (F.VL_LSTAT_STATE lane.toNat) = 4) ∧
      ((s.dev.boundId (lane.toNat / 2)).getD b.id ≠ b.id → t.dev.rd (F.VL_LSTAT_STATE lane.toNat) = 8 ∧ t.dev.rd (F.VL_LSTAT_CAUSE lane.toNat) = 5) ∧
      Only [6] [.vl, .fc, .freeCtr] s t := by
  have hk : lane.toNat < 128 := lane.isLt
  have hexec : exec (.trn lane b) s = .next { s with dev := s.fresh.dev.trnIn lane.toNat b } := State.onDev_next s _ hrun
  have hin := Dev.trnIn_ident (s := s.fresh.dev) (b := b) hst hh hl hc
  have hlane := congrArg Lane.nonceTx (s.fresh.dev.lane_modLane_self lane.toNat (Lane.trnTaken b))
  have hmate : (s.fresh.dev.modLane lane.toNat (Lane.trnTaken b)).lane (mate lane.toNat) = s.dev.lane (mate lane.toNat) :=
    Tbl.get_mod_ne _ (Ne.symm (mate_ne lane.toNat)) _
  have hbound : (s.fresh.dev.modLane lane.toNat (Lane.trnTaken b)).boundId (lane.toNat / 2) = s.dev.boundId (lane.toNat / 2) := rfl
  have hstate : (s.fresh.dev.modLane lane.toNat (Lane.trnTaken b)).rd (F.VL_LSTAT_STATE lane.toNat) = 3 := hst
  have hframe : Dev.Frame [6] [.vl, .fc, .freeCtr] s.fresh.dev (s.fresh.dev.modLane lane.toNat (Lane.trnTaken b)) := (Dev.Frame.refl _ _ _).modLane _ _
  generalize s.fresh.dev.modLane lane.toNat (Lane.trnTaken b) = u at *
  have hnonce : (u.lane lane.toNat).nonceTx = (s.dev.lane lane.toNat).nonceTx := hlane
  have hechoes : u.trnEchoes lane.toNat b = true := by
    rw [Dev.trnEchoes, hnonce, hmate]
    simpa using hecho
  have hsplit : u.isSplit lane.toNat b = s.dev.isSplit lane.toNat b := by rw [Dev.isSplit, Dev.isSplit, hnonce, hmate]
  rw [hin (by rw [he, bne_iff_ne.mpr hid, hechoes, decide_eq_true ht]; rfl)] at hexec
  obtain ⟨d, hd, k1, k2, k3, k4, k5, k6, k7⟩ := u.identDone_spec hk (by rw [hstate]; decide) b
  rw [hd] at hexec
  rw [hbound] at k5 k6
  exact ⟨_, hexec, k1, k2, k3, k4.trans hsplit, k5, k6, (hframe.trans k7).only⟩

/-- The statement of O38 on a TRN in TIME, DELAY or ACTIVE. -/
theorem trn_serves {s : State} {lane : BitVec 7} (hrun : Running s) {b : Trn} (hh : b.hdrOk = true) (hl : (s.dev.lane lane.toNat).locked = true)
    (hc : b.crcOk = true) :
    (s.dev.rd (F.VL_LSTAT_STATE lane.toNat) = 5 → ∃ t, exec (.trn lane b) s = .next t ∧ t.dev.on (F.VL_LSTAT_TLOCK lane.toNat) = b.tlock ∧
      t.dev.rd (F.VL_LSTAT_STATE lane.toNat) = (if b.tlock then 6 else 5) ∧
      (b.tlock = true → bit (t.dev.reg (R.VL_LANE_UP0 + 4 * (lane.toNat / 32))).toNat (lane.toNat % 32) = true) ∧ Only [6] [.vl] s t) ∧
    (s.dev.rd (F.VL_LSTAT_STATE lane.toNat) = 4 ∨ s.dev.rd (F.VL_LSTAT_STATE lane.toNat) = 6 →
      ∃ t, exec (.trn lane b) s = .next t ∧ t.dev.on (F.VL_LSTAT_TLOCK lane.toNat) = b.tlock ∧
      t.dev.rd (F.VL_LSTAT_STATE lane.toNat) = s.dev.rd (F.VL_LSTAT_STATE lane.toNat) ∧ Only [6] [.vl] s t) := by
  have hk : lane.toNat < 128 := lane.isLt
  have hexec : exec (.trn lane b) s = .next { s with dev := s.fresh.dev.trnIn lane.toNat b } := State.onDev_next s _ hrun
  have hon := (s.fresh.dev.modLane lane.toNat (Lane.trnTaken b)).tlockTaken_on lane.toNat b.tlock
  have hstate : ((s.fresh.dev.modLane lane.toNat (Lane.trnTaken b)).tlockTaken lane.toNat b.tlock).rd (F.VL_LSTAT_STATE lane.toNat) =
    s.dev.rd (F.VL_LSTAT_STATE lane.toNat) := Dev.tlockTaken_state _ _ _
  have hframe : Dev.Frame [6] [.vl] s.fresh.dev ((s.fresh.dev.modLane lane.toNat (Lane.trnTaken b)).tlockTaken lane.toNat b.tlock) :=
    ((Dev.Frame.refl [6] [.vl] s.fresh.dev).modLane _ _).then (Dev.tlockTaken_frame _ hk _)
  have htime (h : s.dev.rd (F.VL_LSTAT_STATE lane.toNat) = 5) := Dev.trnIn_time (s := s.fresh.dev) h hh hl hc
  have hserve (h : s.dev.rd (F.VL_LSTAT_STATE lane.toNat) = 4 ∨ s.dev.rd (F.VL_LSTAT_STATE lane.toNat) = 6) :=
    Dev.trnIn_serving (s := s.fresh.dev) h hh hl hc
  generalize (s.fresh.dev.modLane lane.toNat (Lane.trnTaken b)).tlockTaken lane.toNat b.tlock = u at *
  refine ⟨fun hst => ?_, fun hst => ?_⟩
  · rw [htime hst] at hexec
    cases htl : b.tlock with
    | true =>
      rw [htl, if_pos rfl] at hexec
      rw [htl] at hon
      have hleft := u.setLane_left hk (show 6 < 16 by decide)
      exact ⟨_, hexec, (congrArg (· == 1) (hleft.status (F.VL_LSTAT_TLOCK lane.toNat) rfl (Nat.le_of_ble_eq_true rfl))).trans hon, hleft.state,
        fun _ => u.setLane_up _, (hframe.then (u.setLane_frame hk 6)).only⟩
    | false =>
      rw [htl, if_neg Bool.false_ne_true] at hexec
      rw [htl] at hon
      exact ⟨_, hexec, hon, hstate.trans hst, fun h => by simp at h, hframe.only⟩
  · rw [hserve hst] at hexec
    exact ⟨_, hexec, hon, hstate, hframe.only⟩

/-- Settles O38: what a step of training shows stays when its lane goes to the next state, which moves STATE, RETRAIN and VL_LANE_UP alone. -/
theorem laneTraining : Obligations.LaneTraining := by
  unfold Obligations.LaneTraining
  refine ⟨fun s lane hrun => ⟨fun a b c hst => ?_, fun ms h2 h6 => ?_, fun b hh hl => ⟨fun hst hc => trn_locks hrun hh hl hst hc,
    fun hst hc he hid ht hecho => trn_idents hrun hh hl hst hc he hid ht hecho, fun hst hc => (trn_serves hrun hh hl hc).1 hst,
    fun hst hc => (trn_serves hrun hh hl hc).2 hst⟩⟩, fun s lane hrun => ⟨fun nonce t1 => ?_, fun d t1 => ?_⟩⟩
  · have hexec : exec (.detectDone lane a b c) s = .next { s with dev := s.fresh.dev.detectDone lane.toNat a b c } := State.onDev_next s _ hrun
    obtain ⟨d, hd, h1, h2, h3, h4, h5, h6, h7⟩ := Dev.detectDone_spec (s := s.fresh.dev) lane.isLt hst a b c
    rw [hd] at hexec
    exact ⟨_, hexec, h1, h2, h3, h4, h5, h6, h7.only⟩
  · have hexec : exec (.blockLock lane ms) s = .next { s with dev := s.fresh.dev.blockLock lane.toNat ms } := State.onDev_next s _ hrun
    obtain ⟨d, hd, h1, h3, h4, h5⟩ := Dev.blockLock_spec (s := s.fresh.dev) lane.isLt h2 h6 ms
    rw [hd] at hexec
    refine ⟨_, hexec, h1, fun h => (h3 h).only, fun vs h hag hok => ?_, fun h hag => (h5 h hag).only⟩
    obtain ⟨k1, k2, k3, k4, k5⟩ := h4 vs h hag hok
    exact ⟨k1, k2, k3, k4, k5.only⟩
  · intro l st h
    have hexec : exec (.delayExchangeDue lane nonce t1) s = .next { s with dev := s.fresh.dev.dreqDue lane.toNat nonce t1 } := State.onDev_next s _ hrun
    obtain ⟨f, hd, h1, h2⟩ := Dev.dreqDue_go (s := s.fresh.dev) (k := lane.toNat) nonce t1 h
    rw [hd] at hexec
    have hlane := s.fresh.dev.lane_modLane_self lane.toNat f
    exact ⟨_, hexec, (congrArg Lane.dreq hlane).trans h1, fun h6 => (congrArg Lane.dreqAt hlane).trans (h2 h6), rfl,
      (((Dev.Frame.refl [] [.vl] s.fresh.dev).modLane _ _).send _).only⟩
  · intro r l st hr hh hc hq hst
    have hl : l < 128 := by
      show s.dev.sender lane.toNat < 128
      unfold Dev.sender
      split
      · exact mate_lt lane.isLt
      · exact lane.isLt
    have hexec : exec (.drsp lane d) s = .next { s with dev := s.fresh.dev.drspIn lane.toNat d } := State.onDev_next s _ hrun
    have hsender : s.fresh.dev.sender lane.toNat = l := rfl
    have heq := Dev.drspIn_eq (s := s.fresh.dev) hr hh hc hq hst
    rw [hsender] at heq
    rw [heq] at hexec
    obtain ⟨y, hy, h1, h2, h3, h4, h5, h6, h7, h8, h9, h10⟩ := s.fresh.dev.exchDone_spec (r := lane.toNat) hl hst (s.fresh.dev.exchange l lane.toNat d t1)
      rfl rfl rfl rfl rfl
    rw [hy] at hexec
    exact ⟨_, hexec, h1, h2, h3, h4, h5, h6, h7, h8, h9, (h10.mono (by decide) (by decide)).only⟩

end Sys2Proof.Proofs
end

section
-- One proof after another: in parallel the proofs of this text would not fit the memory that its check allows.
set_option Elab.async false
/-!
PROOFS. pm.set, its refusers, and the way down to P3 and P4 (14 R318, R324, R325).
-/
namespace Sys2Proof.Machine

/-! ### pm.set is judged (14 R318, Table 14.2) -/

/-- The power manager itself is against pm.set. -/
def Dev.pmAgainst (s : Dev) (want o : Nat) : Prop :=
  s.on F.PM_STAT_SEQ = true ∨ (2 < o ∧ o ≠ 0xFF) ∨ (want = 2 ∧ o ≠ 2 ∧ o ≠ 0xFF)

/-- The plan is against it. -/
def Dev.planAgainst (s : Dev) (want o : Nat) : Prop := (s.opMin < o ∧ o ≠ 0xFF) ∨ (want = 2 ∧ s.opMin ≠ 2)

/-- The point that pm.set names, or the one requested. -/
def Dev.pmPointOf (s : Dev) (o : Nat) : Nat := if o = 0xFF then s.pm.opReq else o

theorem Dev.pmSet_pm {s : Dev} {want : Nat} {m : Mbx} (h : s.pmAgainst want (m.fld 1 1)) (mb : Nat) : s.pmSet want mb m = s.pmRefuse mb 1 := by
  refine if_pos ?_
  simp only [Dev.pmAgainst] at h
  simp only [Bool.or_eq_true, Bool.and_eq_true, decide_eq_true_eq, bne_iff_ne, beq_iff_eq]
  tauto

theorem Dev.pmSet_rest {s : Dev} {want : Nat} {m : Mbx} (hw : want ≤ 4) (h : ¬s.pmAgainst want (m.fld 1 1)) (mb : Nat) : s.pmSet want mb m =
    if ((s.opMin < m.fld 1 1 && m.fld 1 1 != 0xFF) || (want == 2 && s.opMin != 2)) = true then s.pmRefuse mb 2
    else if m.fld 1 1 < s.rd F.PM_STAT_OPMAX then s.pmRefuse mb 3
    else if (3 ≤ want && s.on F.GL_STAT_ACT_PEND) = true then s.pmRefuse mb 5
    else if want < 3 then s.pmAccept want mb (s.pmPointOf (m.fld 1 1))
    else s.pmRetain want mb (s.pmPointOf (m.fld 1 1)) := by
  refine if_neg ?_
  simp only [Dev.pmAgainst] at h
  simp only [Bool.or_eq_true, Bool.and_eq_true, decide_eq_true_eq, bne_iff_ne, beq_iff_eq]
  have : ¬ 4 < want := by omega
  tauto

theorem Dev.planAgainst_iff (s : Dev) (want o : Nat) :
    ((s.opMin < o && o != 0xFF) || (want == 2 && s.opMin != 2)) = true ↔ s.planAgainst want o := by
  simp only [Dev.planAgainst, Bool.or_eq_true, Bool.and_eq_true, decide_eq_true_eq, bne_iff_ne, beq_iff_eq]

/-- The refuser of Table 14.2 that answers. -/
theorem Dev.pmSet_refused {s : Dev} {want : Nat} {m : Mbx} (hw : want ≤ 4) (mb : Nat) {r : Nat}
    (h : (r = 1 ∧ s.pmAgainst want (m.fld 1 1)) ∨ (r = 2 ∧ ¬s.pmAgainst want (m.fld 1 1) ∧ s.planAgainst want (m.fld 1 1)) ∨
      (r = 3 ∧ ¬s.pmAgainst want (m.fld 1 1) ∧ ¬s.planAgainst want (m.fld 1 1) ∧ m.fld 1 1 < s.rd F.PM_STAT_OPMAX) ∨
      (r = 5 ∧ ¬s.pmAgainst want (m.fld 1 1) ∧ ¬s.planAgainst want (m.fld 1 1) ∧ ¬m.fld 1 1 < s.rd F.PM_STAT_OPMAX ∧
        3 ≤ want ∧ s.on F.GL_STAT_ACT_PEND = true)) : s.pmSet want mb m = s.pmRefuse mb r := by
  rcases h with ⟨rfl, hpm⟩ | ⟨rfl, hpm, hplan⟩ | ⟨rfl, hpm, hplan, hth⟩ | ⟨rfl, hpm, hplan, hth, hwant, hpend⟩
  · exact Dev.pmSet_pm hpm mb
  · rw [Dev.pmSet_rest hw hpm, if_pos ((s.planAgainst_iff _ _).mpr hplan)]
  · rw [Dev.pmSet_rest hw hpm, if_neg (fun h => hplan ((s.planAgainst_iff _ _).mp h)), if_pos hth]
  · rw [Dev.pmSet_rest hw hpm, if_neg (fun h => hplan ((s.planAgainst_iff _ _).mp h)), if_neg hth, if_pos (by simp [hwant, hpend])]

theorem Dev.pmSet_accepts {s : Dev} {want : Nat} {m : Mbx} (hpm : ¬s.pmAgainst want (m.fld 1 1)) (hplan : ¬s.planAgainst want (m.fld 1 1))
    (hth : ¬m.fld 1 1 < s.rd F.PM_STAT_OPMAX) (hw : want < 3) (mb : Nat) : s.pmSet want mb m = s.pmAccept want mb (s.pmPointOf (m.fld 1 1)) := by
  rw [Dev.pmSet_rest (by omega) hpm, if_neg (fun h => hplan ((s.planAgainst_iff _ _).mp h)), if_neg hth, if_neg (by simp; omega), if_pos hw]

theorem Dev.pmSet_retains {s : Dev} {want : Nat} {m : Mbx} (hpm : ¬s.pmAgainst want (m.fld 1 1)) (hplan : ¬s.planAgainst want (m.fld 1 1))
    (hth : ¬m.fld 1 1 < s.rd F.PM_STAT_OPMAX) (hw : 3 ≤ want) (hw4 : want ≤ 4) (hpend : s.on F.GL_STAT_ACT_PEND = false) (mb : Nat) :
    s.pmSet want mb m = s.pmRetain want mb (s.pmPointOf (m.fld 1 1)) := by
  rw [Dev.pmSet_rest hw4 hpm, if_neg (fun h => hplan ((s.planAgainst_iff _ _).mp h)), if_neg hth, if_neg (by simp [hpend]), if_neg (by omega)]

/-! ### A refusal -/

theorem Dev.powerEv_regs (s : Dev) (a b : Nat) : (s.powerEv a b).regs = s.regs := rfl

theorem Dev.pmRefuse_spec (s : Dev) (mb r : Nat) :
    (s.pmRefuse mb r).rd (F.PM_REFUSE (r - 1)) = min (s.rd (F.PM_REFUSE (r - 1)) + 1) 0xFFFFFFFF ∧ (s.pmRefuse mb r).on F.PM_EVT_REFUSED = true := by
  have hregs : Dev.RegsAs ((s.count (F.PM_REFUSE (r - 1))).event F.PM_EVT_REFUSED) (s.pmRefuse mb r) := fun off =>
    (Dev.finish_reg _ _ _ _ _ _ off)
  refine ⟨?_, (hregs.on _).trans (Dev.on_event_self _ _ (by decide) rfl)⟩
  rw [hregs.rd, Dev.rd, Dev.reg_event_ne _ (by simp only [F.PM_EVT_REFUSED, F.PM_REFUSE]; omega)]
  exact Dev.rd_count_self s _ 1 rfl rfl

/-! ### P0, P1 or P2 is requested -/

/-- Of the power manager's own state a step changes the point it goes to, and whose command waits. -/
def Pm.pointed (a b : Option Nat) (c : Nat) (d e : Bool) (m : Option (Nat × Nat)) (p : Pm) : Pm :=
  { p with opTgt := a, avsTgt := b, avsLast := c, avsRetry := d, divider := e, mb := m }

theorem Dev.pmPoint_pm (s : Dev) : ∃ a b c d e, s.pmPoint.pm = s.pm.pointed a b c d e s.pm.mb := by
  have hslice (u : Dev) (n : Nat) : (u.slicePause n).pm = u.pm := (u.slicePause_frame n).part .pm
  have hself (p : Pm) : p = p.pointed p.opTgt p.avsTgt p.avsLast p.avsRetry p.divider p.mb := rfl
  unfold Dev.pmPoint
  extract_lets want op s1 s2
  have h1 : s1.pm = s.pm := hslice s _
  have h2 : s2.pm = s.pm.pointed s.pm.opTgt s.pm.avsTgt s.pm.avsLast s.pm.avsRetry false s.pm.mb := congrArg (fun p : Pm => { p with divider := false }) h1
  have hof (u : Dev) (a b c d e) (h : u.pm = s.pm.pointed a b c d e s.pm.mb) : ∃ a b c d e, u.pm = s.pm.pointed a b c d e s.pm.mb := ⟨a, b, c, d, e, h⟩
  clear_value s1 s2
  split
  · exact hof s _ _ _ _ _ (hself s.pm)
  · split
    · split
      · rw [hslice]
        split
        · exact hof s _ _ _ _ _ (hself s.pm)
        · exact hof (s.avsStart want) _ _ _ _ _ rfl
      · rw [hslice]
        exact hof (s.setPm _) (some want) none s.pm.avsLast false true rfl
    · split
      · rw [hslice]
        exact hof (s.setPm _) (some want) none s.pm.avsLast false true rfl
      · split
        · exact hof (s2.setPm _) (some op) _ _ _ _ (congrArg (fun p : Pm => { p with opTgt := some op }) h2)
        · split
          · exact hof s2 _ _ _ _ _ h2
          · split
            · exact hof (s2.avsStart op) (some op) (some op) op false false
                (congrArg (fun p : Pm => { p with opTgt := some op, avsTgt := some op, avsLast := op, avsRetry := false, divider := false }) h2)
            · exact hof (s2.setPm _) none none _ _ _ (congrArg (fun p : Pm => { p with opTgt := none, avsTgt := none }) h2)

theorem Dev.pmStep_pm (s : Dev) : ∃ a b c d e m, s.pmStep.pm = s.pm.pointed a b c d e m := by
  obtain ⟨a, b, c, d, e, h⟩ := s.pmPoint_pm
  obtain ⟨m, hm⟩ := s.pmPoint.pmCheck_pm
  exact ⟨a, b, c, d, e, m, by rw [Dev.pmStep, hm, h]; rfl⟩

/-- A command that is under way or answered stays so. -/
theorem Dev.pmStep_taken {s : Dev} {k : Nat} (hk : k < 8) (h : (s.mbx.get k).taken = true) : (s.pmStep.mbx.get k).taken = true := by
  have hmb : s.pmPoint.openGate.mbx = s.mbx := by rw [s.pmPoint.openGate_frame.part .mbx, s.pmPoint_frame.part .mbx]
  rw [← hmb] at h
  show ((s.pmPoint.openGate.pmAnswer).mbx.get k).taken = true
  unfold Dev.pmAnswer
  split
  · next mb r _ =>
    split
    · show ((s.pmPoint.openGate.finish mb 0 0 0xFFFFFFFF _).mbx.get k).taken = true
      by_cases he : mb = k
      · subst he
        rw [Dev.finish_mbx, if_neg (by omega), Tbl.get_mod_self]
      · rw [Dev.finish_other _ _ _ _ _ _ _ he]
        exact h
    · exact h
  · exact h

/-- The request of P0, P1 or P2 as the mailbox shows it. -/
def Dev.pmTaken (want mb op : Nat) (s : Dev) : Dev :=
  let defer := want == 0 && s.forced
  let r := if defer then (if s.on F.PM_STAT_F_TH then 3 else 4) else 0
  (Dev.when defer (·.pmNote r) (s.setPm (fun p => { p with undoOp := p.opReq, mb := some (mb, r), opReq := if want = 2 then 2 else op, target := false }))).take mb

/-- The state is requested, at once or with its point. -/
def Dev.pmRequested (want : Nat) (s : Dev) : Dev :=
  if want < 2 && s.rd F.PM_STAT_STATE < 2 && max s.pm.opReq (s.rd F.PM_STAT_OPMAX) < s.rd F.PM_STAT_OP then
    s.setPm (fun p => { p with reqPend := some want })
  else (s.wr F.PM_STAT_REQ want).glSync

theorem Dev.pmAccept_eq (want mb op : Nat) (s : Dev) : s.pmAccept want mb op = ((s.pmTaken want mb op).pmRequested want).pmStep := rfl

theorem Dev.pmTaken_spec (want mb op : Nat) (s : Dev) : ((s.pmTaken want mb op).mbx.get mb).taken = true ∧
    (s.pmTaken want mb op).pm.target = false ∧ (s.pmTaken want mb op).pm.opReq = (if want = 2 then 2 else op) ∧
    (∀ f, blockOf f.reg = 19 → f.reg = R.PM_STAT → (s.pmTaken want mb op).rd f = s.rd f) ∧ Dev.Frame [19] [.evq, .pm, .mbx] s (s.pmTaken want mb op) := by
  unfold Dev.pmTaken
  extract_lets defer r
  have hset : Dev.Frame [19] [.evq, .pm, .mbx] s
      (s.setPm (fun p => { p with undoOp := p.opReq, mb := some (mb, r), opReq := if want = 2 then 2 else op, target := false })) :=
    (Dev.Frame.refl _ _ s).setPm _
  have hr : 3 ≤ r ∨ defer = false := by
    cases hd : defer with
    | true =>
      left
      show 3 ≤ (if defer then (if s.on F.PM_STAT_F_TH then 3 else 4) else 0)
      rw [hd, if_pos rfl]
      split <;> omega
    | false => exact .inr rfl
  have hr7 : r ≤ 7 := by
    show (if defer then (if s.on F.PM_STAT_F_TH then 3 else 4) else 0) ≤ 7
    split
    · split <;> omega
    · omega
  have hpm : (s.setPm (fun p => { p with undoOp := p.opReq, mb := some (mb, r), opReq := if want = 2 then 2 else op, target := false })).pm =
      { s.pm with undoOp := s.pm.opReq, mb := some (mb, r), opReq := if want = 2 then 2 else op, target := false } := rfl
  have hregs : Dev.RegsAs s (s.setPm (fun p => { p with undoOp := p.opReq, mb := some (mb, r), opReq := if want = 2 then 2 else op, target := false })) :=
    fun _ => rfl
  generalize s.setPm (fun p => { p with undoOp := p.opReq, mb := some (mb, r), opReq := if want = 2 then 2 else op, target := false }) = u at *
  have hnote : Dev.Frame [19] [.evq] u (Dev.when defer (·.pmNote r) u) := .when _ _ u (u.pmNote_frame hr7)
  have hstat (f : Fld) (hf : f.reg = R.PM_STAT) : (Dev.when defer (·.pmNote r) u).rd f = s.rd f := by
    rw [← hregs.rd]
    obtain h3 | hno := hr
    · cases defer with
      | true =>
        show (((u.count (F.PM_REFUSE (r - 1))).event F.PM_EVT_REFUSED).powerEv 3 r).rd f = u.rd f
        show ((u.count (F.PM_REFUSE (r - 1))).event F.PM_EVT_REFUSED).rd f = u.rd f
        rw [Dev.rd, Dev.rd, hf, Dev.reg_event_ne _ (by decide), Dev.reg_count_ne _ (by simp only [F.PM_REFUSE, R.PM_STAT]; omega)]
      | false => rfl
    · rw [hno]
      rfl
  generalize Dev.when defer (·.pmNote r) u = w at *
  have hwpm : w.pm = u.pm := hnote.part .pm
  refine ⟨?_, ?_, ?_, fun f _ hf => hstat f hf, (hset.then hnote).take mb⟩
  · show ((w.mbx.mod mb (fun m => { m with taken := true })).get mb).taken = true
    rw [Tbl.get_mod_self]
  · exact (congrArg Pm.target (hwpm.trans hpm))
  · exact (congrArg Pm.opReq (hwpm.trans hpm))

/-- A state is requested with its point, which has to be reached first. -/
def Dev.goesFaster (s : Dev) (want op : Nat) : Prop :=
  want < 2 ∧ s.rd F.PM_STAT_STATE < 2 ∧ max op (s.rd F.PM_STAT_OPMAX) < s.rd F.PM_STAT_OP

theorem Dev.pmRequested_frame (want : Nat) (s : Dev) : Dev.Frame [11, 12, 13, 14, 19, 21] (.pm :: cancelParts) s (s.pmRequested want) := by
  unfold Dev.pmRequested
  split
  · exact (Dev.Frame.refl _ _ s).setPm _
  · exact ((Dev.Frame.refl _ _ s).wr _ _).then (Dev.glSync_frame _)

theorem Dev.pmRequested_spec {s : Dev} {want : Nat} (hw : want < 3) {faster : Prop} (hf : s.goesFaster want s.pm.opReq ↔ faster) :
    (s.pmRequested want).pm.target = s.pm.target ∧ (s.pmRequested want).pm.opReq = s.pm.opReq ∧ (s.pmRequested want).mbx = s.mbx ∧
    (faster → (s.pmRequested want).pm.reqPend = some want) ∧ (¬faster → (s.pmRequested want).rd F.PM_STAT_REQ = want) := by
  have hcond : ((want < 2 && s.rd F.PM_STAT_STATE < 2 && max s.pm.opReq (s.rd F.PM_STAT_OPMAX) < s.rd F.PM_STAT_OP) = true) ↔ faster := by
    rw [← hf]
    simp [Dev.goesFaster, and_assoc]
  unfold Dev.pmRequested
  by_cases h : faster
  · rw [if_pos (hcond.mpr h)]
    exact ⟨rfl, rfl, rfl, fun _ => rfl, fun hn => absurd h hn⟩
  · rw [if_neg (fun hc => h (hcond.mp hc))]
    have hg := (s.wr F.PM_STAT_REQ want).glSync_frame
    have hpm : (s.wr F.PM_STAT_REQ want).glSync.pm = s.pm := hg.part .pm
    refine ⟨by rw [hpm], by rw [hpm], hg.part .mbx, fun hc => absurd hc h, fun _ => ?_⟩
    rw [hg.rd F.PM_STAT_REQ, Dev.rd_wr_self _ _ _ (by decide)]
    exact Nat.mod_eq_of_lt (show want < 8 by omega)

/-- What an accepted pm.set for P0, P1 or P2 leaves. -/
theorem Dev.pmAccept_spec {s : Dev} {want mb op : Nat} (hw : want < 3) (hmb : mb < 8) : ∃ d, s.pmAccept want mb op = d ∧
    (d.mbx.get mb).taken = true ∧ d.pm.target = false ∧ d.pm.opReq = (if want = 2 then 2 else op) ∧
    (s.goesFaster want op → d.pm.reqPend = some want) ∧ (¬s.goesFaster want op → d.rd F.PM_STAT_REQ = want) ∧ Dev.Frame pmWindows pmParts s d := by
  obtain ⟨htaken, htarget, hop, hstat, hframe⟩ := Dev.pmTaken_spec want mb op s
  rw [Dev.pmAccept_eq]
  generalize s.pmTaken want mb op = u at *
  have hfaster : u.goesFaster want u.pm.opReq ↔ s.goesFaster want op := by
    simp only [Dev.goesFaster, hop, hstat F.PM_STAT_STATE (by decide) rfl, hstat F.PM_STAT_OPMAX (by decide) rfl, hstat F.PM_STAT_OP (by decide) rfl]
    refine and_congr_right fun h2 => ?_
    rw [if_neg (by omega)]
  obtain ⟨k1, k2, k3, k4, k5⟩ := Dev.pmRequested_spec hw hfaster
  have hreq := u.pmRequested_frame want
  generalize u.pmRequested want = w at *
  obtain ⟨a, b, c, d, e, m, hpm⟩ := w.pmStep_pm
  refine ⟨_, rfl, Dev.pmStep_taken hmb (by rw [k3]; exact htaken), ?_, ?_, fun hf => ?_, fun hf => ?_,
    ((hframe.mono (w' := pmWindows) (l' := pmParts)).then hreq).then w.pmStep_frame⟩
  · rw [hpm]
    exact k1.trans htarget
  · rw [hpm]
    exact k2.trans hop
  · rw [w.pmStep_reqPend, k4 hf]
  · rw [w.pmStep_rd F.PM_STAT_REQ, k5 hf]

/-! ### P3 or P4 is requested (14 R324, R325) -/

/-- With no stint listed, an operation that stints end by lists none. -/
def Dev.NoStints (s t : Dev) : Prop := s.cal.stints = [] → t.cal.stints = []

theorem Dev.NoStints.of_cal {s t : Dev} (h : t.cal = s.cal) : Dev.NoStints s t := fun hs => by rw [h, hs]

theorem Dev.NoStints.refl (s : Dev) : Dev.NoStints s s := id

theorem Dev.NoStints.trans {s t u : Dev} (h : Dev.NoStints s t) (k : Dev.NoStints t u) : Dev.NoStints s u := fun hs => k (h hs)

theorem Dev.Frame.noStints {w : List Nat} {l : List Part} {s t : Dev} (h : Dev.Frame w l s t) (hl : Part.cal ∉ l := by decide) : Dev.NoStints s t :=
  .of_cal (h.part .cal hl)

theorem Dev.NoStints.each {α : Type} (r : List α) (f : Dev → α → Dev) (hf : ∀ s a, Dev.NoStints s (f s a)) (s : Dev) :
    Dev.NoStints s (Dev.each r f s) := by
  induction r generalizing s with
  | nil => exact .refl s
  | cons a r ih => exact (hf s a).trans (ih (f s a))

theorem Dev.NoStints.when (c : Bool) {f : Dev → Dev} (s : Dev) (hf : Dev.NoStints s (f s)) : Dev.NoStints s (Dev.when c f s) := by
  cases c
  · exact .refl s
  · exact hf

theorem Dev.NoStints.bankOp (s : Dev) (o : BankOp) : Dev.NoStints s (s.bankOp o) := (s.bankOp_frame o).noStints

theorem Dev.NoStints.cancelSlot (r : Nat) (s : Dev) (x : Slot) : Dev.NoStints s (s.cancelSlot r x) := by
  obtain ⟨pdu, y, h⟩ := s.cancelSlot_eq r x
  have hcut : Dev.NoStints s (s.slotCut x) := fun hs => by
    show s.cal.stints.map _ = []
    rw [hs]
    rfl
  rw [h]
  exact (((hcut.trans (Dev.slotTold_frame _ _ _).noStints).trans (.bankOp _ _)).trans (Dev.formNext_frame _).noStints).trans (.of_cal rfl)

theorem Dev.NoStints.glSync (s : Dev) : Dev.NoStints s s.glSync := by
  have htaken (old new : Nat) (u : Dev) : Dev.NoStints u (u.inhTaken old new) := by
    unfold Dev.inhTaken
    extract_lets fresh t v
    have hv : Dev.NoStints u v := (((Dev.Frame.refl [11] [.evq] u).when' _ ((Dev.Frame.refl _ _ u).event _)).when' _ ((Dev.Frame.refl _ _ _).event _)).noStints
    clear_value v
    split
    · exact hv.trans (.each _ _ (fun w x => .cancelSlot _ w x) v)
    · exact hv
  rw [Dev.glSync_eq]
  split
  · exact s.inhShown_frame.noStints
  · exact s.inhShown_frame.noStints.trans (htaken _ _ _)

theorem Dev.NoStints.vatLost (s : Dev) (v : Nat) : Dev.NoStints s (s.vatLost v) := by
  have hheld : (((s.raise 0x0612 2 (srcWord 6 v)).regardHeld v).accZero v).cal = s.cal := rfl
  exact (Dev.NoStints.of_cal hheld).trans (.glSync _)

theorem Dev.NoStints.laneLeave (s : Dev) (k st : Nat) : Dev.NoStints s (s.laneLeave k st) := by
  have hmoved : (s.laneMoved k st).cal = s.cal := by
    have hset : ((s.setLane k st).modLane k Lane.left).cal = s.cal := rfl
    unfold Dev.laneMoved Dev.when
    split
    · exact (Dev.count_cal _ _ _).trans hset
    · exact hset
  rw [Dev.laneLeave_eq]
  exact (Dev.NoStints.of_cal hmoved).trans (.when _ (s.laneMoved k st) (.vatLost _ _))

theorem Dev.NoStints.pmCheck (s : Dev) : Dev.NoStints s s.pmCheck := by
  have htrain (u : Dev) : Dev.NoStints u u.trainAll := by
    refine Dev.NoStints.each _ _ (fun d l => ?_) u
    split
    · unfold Dev.toDetect
      split
      · exact .laneLeave d l 1
      · exact .refl d
    · exact .refl d
  have hgate : Dev.NoStints s s.openGate := by
    rw [Dev.openGate_eq]
    split
    · exact s.gateOpened_frame.noStints.trans (htrain s.gateOpened)
    · exact .refl s
  rw [Dev.pmCheck_eq]
  exact (hgate.trans s.openGate.pmAnswer_frame.noStints).trans (.of_cal (Dev.wrB_cal _ _ _))

theorem Dev.NoStints.injCut (s : Dev) (id : Nat) : Dev.NoStints s (s.injCut id) := by
  unfold Dev.injCut
  split
  · next j _ =>
    dsimp only
    split
    · exact .refl s
    · have hinj (x : Tbl (Option Inj)) : Dev.NoStints s { s with cal := { s.cal with inj := x } } := fun h => h
      exact ((hinj _).trans (Dev.calStat_frame _).noStints).trans ((Dev.Frame.refl [15] [.evq] _).event _).noStints
  · exact .refl s

theorem Dev.NoStints.abortInj (s : Dev) : Dev.NoStints s s.abortInj :=
  (Dev.NoStints.each (List.range 8) (fun s i => s.injCut i) .injCut s).trans (.when _ _ (Dev.masterReset_frame 4 _).noStints)

theorem Dev.NoStints.abortCaps (p : Cap → Bool) (s : Dev) : Dev.NoStints s (s.abortCaps p) := by
  have hcaps (x : List Cap) : Dev.NoStints s { s with cal := { s.cal with caps := x } } := fun h => h
  exact ((hcaps _).trans (.each _ _ (fun d c => ((Dev.Frame.refl [] [.mbx] d).refuse _ _).noStints) _)).trans (Dev.calStat_frame _).noStints

theorem Dev.abortStints_spec (s : Dev) : s.abortStints.cal.stints = [] ∧ Dev.Frame [15] [.cal, .mbx] s s.abortStints := by
  have hcal (x : Cal) : Dev.Frame [15] [.cal, .mbx] s { s with cal := x } := (Dev.Frame.refl _ _ s).cal x
  have heach (u : Dev) : Dev.Frame [] [.mbx] u (Dev.each s.cal.stints (fun s t => s.refuse t.mb 3) u) :=
    .each _ _ u fun d t _ => (Dev.Frame.refl _ _ d).refuse _ _
  have hstat := (Dev.each s.cal.stints (fun s t => s.refuse t.mb 3) { s with cal := { s.cal with stints := [] } }).calStat_frame
  refine ⟨?_, ((hcal _).then (heach _)).then hstat⟩
  show (Dev.each s.cal.stints (fun s t => s.refuse t.mb 3) { s with cal := { s.cal with stints := [] } }).calStat.cal.stints = []
  rw [hstat.part .cal, (heach _).part .cal]

/-- P3 or P4 is requested, before what goes on ends. -/
def Dev.retainAsked (want mb op : Nat) (s : Dev) : Dev :=
  let k := s.gl.dec.foldl (fun a x => max a x.k) 0
  let s := s.setPm (fun p => { p with p3 := .waiting, p4 := want == 4, mb := some (mb, 0), opReq := op, waitK := k })
  ((s.take mb).wr F.PM_STAT_REQ want).glSync

theorem Dev.pmRetain_eq (want mb op : Nat) (s : Dev) : s.pmRetain want mb op =
    (((((s.retainAsked want mb op).abortRuns (fun _ => true)).abortStints).abortInj).abortCaps (fun _ => true)).pmCheck := rfl

/-- The entry to P3 or P4 waits for the press path. -/
def Pm.retained (want mb op k : Nat) (p : Pm) : Pm := { p with p3 := .waiting, p4 := want == 4, mb := some (mb, 0), opReq := op, waitK := k }

/-- What an accepted pm.set for P3 or P4 leaves. -/
theorem Dev.pmRetain_spec {s : Dev} {want mb op : Nat} (hw : 3 ≤ want) (hw4 : want ≤ 4) : ∃ d, s.pmRetain want mb op = d ∧
    d.rd F.PM_STAT_REQ = want ∧ d.pm.p3 = .waiting ∧ d.pm.p4 = (want == 4) ∧ d.pm.mb = some (mb, 0) ∧ d.pm.opReq = op ∧ d.cal.stints = [] := by
  have hask : (s.retainAsked want mb op).pm = s.pm.retained want mb op (s.gl.dec.foldl (fun a x => max a x.k) 0) := (Dev.glSync_frame _).part .pm
  have hreq : (s.retainAsked want mb op).rd F.PM_STAT_REQ = want := by
    unfold Dev.retainAsked
    dsimp only
    rw [(Dev.glSync_frame _).rd F.PM_STAT_REQ, Dev.rd_wr_self _ _ _ (by decide)]
    exact Nat.mod_eq_of_lt (show want < 8 by omega)
  rw [Dev.pmRetain_eq]
  generalize s.retainAsked want mb op = u at *
  have hruns := u.abortRuns_frame (fun _ => true)
  generalize u.abortRuns (fun _ => true) = v at *
  obtain ⟨hnone, hstints⟩ := v.abortStints_spec
  generalize v.abortStints = w at *
  have hinj := w.abortInj_frame
  have hninj := Dev.NoStints.abortInj w
  generalize w.abortInj = x at *
  have hcaps := x.abortCaps_frame (fun _ => true)
  have hncaps := Dev.NoStints.abortCaps (fun _ => true) x
  generalize x.abortCaps (fun _ => true) = y at *
  have hypm : y.pm = u.pm := by rw [hcaps.part .pm, hinj.part .pm, hstints.part .pm, hruns.part .pm]
  have hyreq : y.rd F.PM_STAT_REQ = want := by
    rw [hcaps.rd F.PM_STAT_REQ, hinj.rd F.PM_STAT_REQ, hstints.rd F.PM_STAT_REQ, hruns.rd F.PM_STAT_REQ, hreq]
  have hgatepm : y.openGate.pm = y.pm := y.openGate_frame.part .pm
  have hself : y.openGate.pmAnswer = y.openGate := by
    unfold Dev.pmAnswer
    rw [hgatepm, hypm, hask, Pm.retained]
    refine if_neg fun h => ?_
    have hlt := h.2.1
    rw [y.openGate_frame.rd F.PM_STAT_REQ, hyreq] at hlt
    omega
  have hpm : y.pmCheck.pm = u.pm := by
    rw [Dev.pmCheck_eq, hself, Dev.wrB_pm, hgatepm, hypm]
  refine ⟨_, rfl, (y.pmCheck_rd F.PM_STAT_REQ).trans hyreq, ?_, ?_, ?_, ?_, (Dev.NoStints.pmCheck y) (hncaps (hninj hnone))⟩
  · rw [hpm, hask]
    rfl
  · rw [hpm, hask]
    rfl
  · rw [hpm, hask]
    rfl
  · rw [hpm, hask]
    rfl

end Sys2Proof.Machine
end

section
-- One proof after another: in parallel the proofs of this text would not fit the memory that its check allows.
set_option Elab.async false
/-!
PROOFS. What pm.set answers, and the vats held on the way to P3 and P4 (14 R318, R324, R325).
-/
namespace Sys2Proof.Machine

/-! ### The commands of pm.set -/

theorem pmSet_exec {s : State} (hrun : Running s) {mb : BitVec 3} {m : Mbx} {want : Nat} {i : Instr}
    (hi : (want, i) ∈ [(0, Instr.pmSetP0 mb), (1, Instr.pmSetP1 mb), (2, Instr.pmSetP2 mb), (3, Instr.pmSetP3 mb), (4, Instr.pmSetP4 mb)])
    (hasked : Asked s mb 0x0501 (some want) m) :
    want ≤ 4 ∧ exec i s = .next { s with dev := s.fresh.dev.pmSet want mb.toNat m } := by
  simp only [List.mem_cons, Prod.mk.injEq, List.not_mem_nil, or_false] at hi
  rcases hi with ⟨rfl, rfl⟩ | ⟨rfl, rfl⟩ | ⟨rfl, rfl⟩ | ⟨rfl, rfl⟩ | ⟨rfl, rfl⟩
  · exact ⟨by decide, hasked.run hrun (Dev.pmSet 0)⟩
  · exact ⟨by decide, hasked.run hrun (Dev.pmSet 1)⟩
  · exact ⟨by decide, hasked.run hrun (Dev.pmSet 2)⟩
  · exact ⟨by decide, hasked.run hrun (Dev.pmSet 3)⟩
  · exact ⟨by decide, hasked.run hrun (Dev.pmSet 4)⟩

/-- A refused pm.set is answered, counted and reported. -/
theorem pmRefuse_answers (s : State) (mb : BitVec 3) {r : Nat} (hr : r ≤ 7) : ∃ pl,
    Answered s { s with dev := s.fresh.dev.pmRefuse mb.toNat r } mb 2 0x0C04 (0x1300 + r) pl ∧
    (s.fresh.dev.pmRefuse mb.toNat r).rd (F.PM_REFUSE (r - 1)) = min (s.dev.rd (F.PM_REFUSE (r - 1)) + 1) 0xFFFFFFFF ∧
    (s.fresh.dev.pmRefuse mb.toNat r).on F.PM_EVT_REFUSED = true ∧ Only [19] [.evq, .mbx] s { s with dev := s.fresh.dev.pmRefuse mb.toNat r } := by
  obtain ⟨hcount, hev⟩ := s.fresh.dev.pmRefuse_spec mb.toNat r
  have hmbx : (s.fresh.dev.pmNote r).mbx = s.dev.mbx := (s.fresh.dev.pmNote_frame hr).part .mbx
  exact ⟨_, .of_finish hmbx mb _ _ _ _, hcount, hev, (s.fresh.dev.pmRefuse_frame mb.toNat hr).only⟩

end Sys2Proof.Machine

namespace Sys2Proof.Proofs
open Sys2Proof.Machine

/-- pm.set is refused by the first refuser of Table 14.2 that is against it. -/
theorem pmSet_refusals {s : State} (hrun : Running s) {mb : BitVec 3} {m : Mbx} {want : Nat} {i : Instr}
    (hi : (want, i) ∈ [(0, Instr.pmSetP0 mb), (1, Instr.pmSetP1 mb), (2, Instr.pmSetP2 mb), (3, Instr.pmSetP3 mb), (4, Instr.pmSetP4 mb)])
    (hasked : Asked s mb 0x0501 (some want) m) {r : Nat}
    (h : (r = 1 ∧ s.dev.pmAgainst want (m.fld 1 1)) ∨ (r = 2 ∧ ¬s.dev.pmAgainst want (m.fld 1 1) ∧ s.dev.planAgainst want (m.fld 1 1)) ∨
      (r = 3 ∧ ¬s.dev.pmAgainst want (m.fld 1 1) ∧ ¬s.dev.planAgainst want (m.fld 1 1) ∧ m.fld 1 1 < s.dev.rd F.PM_STAT_OPMAX) ∨
      (r = 5 ∧ ¬s.dev.pmAgainst want (m.fld 1 1) ∧ ¬s.dev.planAgainst want (m.fld 1 1) ∧ ¬m.fld 1 1 < s.dev.rd F.PM_STAT_OPMAX ∧
        3 ≤ want ∧ s.dev.on F.GL_STAT_ACT_PEND = true)) :
    ∃ t pl, exec i s = .next t ∧ Answered s t mb 2 0x0C04 (0x1300 + r) pl ∧
      t.dev.rd (F.PM_REFUSE (r - 1)) = min (s.dev.rd (F.PM_REFUSE (r - 1)) + 1) 0xFFFFFFFF ∧ t.dev.on F.PM_EVT_REFUSED = true ∧
      Only [19] [.evq, .mbx] s t := by
  obtain ⟨hw, hexec⟩ := pmSet_exec hrun hi hasked
  have hr : r ≤ 7 := by
    rcases h with h | h | h | h <;> omega
  have hset : s.fresh.dev.pmSet want mb.toNat m = s.fresh.dev.pmRefuse mb.toNat r := Dev.pmSet_refused hw mb.toNat h
  obtain ⟨pl, hspec⟩ := pmRefuse_answers s mb hr
  exact ⟨_, pl, by rw [hexec, hset], hspec⟩

/-- With nothing against it pm.set is accepted. -/
theorem pmSet_unopposed {s : State} {m : Mbx} {want : Nat} (hseq : s.dev.on F.PM_STAT_SEQ = false) (ho : m.fld 1 1 ≤ 2 ∨ m.fld 1 1 = 0xFF)
    (h2 : want = 2 → m.fld 1 1 = 2 ∨ m.fld 1 1 = 0xFF) (hmin : m.fld 1 1 = 0xFF ∨ m.fld 1 1 ≤ s.dev.opMin) (hmin2 : want = 2 → s.dev.opMin = 2) :
    ¬s.fresh.dev.pmAgainst want (m.fld 1 1) ∧ ¬s.fresh.dev.planAgainst want (m.fld 1 1) := by
  refine ⟨?_, ?_⟩
  · rintro (h | h | h)
    · exact Bool.false_ne_true (hseq.symm.trans h)
    · omega
    · obtain ⟨hw, hn⟩ := h
      have := h2 hw
      omega
  · rintro (h | h)
    · have hlt : s.dev.opMin < m.fld 1 1 := h.1
      omega
    · exact h.2 (hmin2 h.1)

/-- pm.set for P0, P1 or P2 is accepted. -/
theorem pmSet_requests {s : State} (hrun : Running s) {mb : BitVec 3} {m : Mbx} {want : Nat} {i : Instr}
    (hi : (want, i) ∈ [(0, Instr.pmSetP0 mb), (1, Instr.pmSetP1 mb), (2, Instr.pmSetP2 mb), (3, Instr.pmSetP3 mb), (4, Instr.pmSetP4 mb)])
    (hasked : Asked s mb 0x0501 (some want) m) (hpm : ¬s.fresh.dev.pmAgainst want (m.fld 1 1)) (hplan : ¬s.fresh.dev.planAgainst want (m.fld 1 1))
    (hth : s.dev.rd F.PM_STAT_OPMAX ≤ m.fld 1 1) (hw : want < 3) :
    ∃ t, exec i s = .next t ∧ (t.dev.mbx.get mb.toNat).taken = true ∧ t.dev.pm.target = false ∧
      t.dev.pm.opReq = (if want = 2 then 2 else s.dev.pmPointOf (m.fld 1 1)) ∧
      (s.dev.goesFaster want (s.dev.pmPointOf (m.fld 1 1)) → t.dev.pm.reqPend = some want) ∧
      (¬s.dev.goesFaster want (s.dev.pmPointOf (m.fld 1 1)) → t.dev.rd F.PM_STAT_REQ = want) ∧ Only pmWindows pmParts s t := by
  obtain ⟨-, hexec⟩ := pmSet_exec hrun hi hasked
  have hth' : ¬m.fld 1 1 < s.fresh.dev.rd F.PM_STAT_OPMAX := Nat.not_lt.mpr hth
  rw [Dev.pmSet_accepts hpm hplan hth' hw] at hexec
  obtain ⟨d, hd, k1, k2, k3, k4, k5, hframe⟩ :=
    Dev.pmAccept_spec (s := s.fresh.dev) (op := s.fresh.dev.pmPointOf (m.fld 1 1)) hw (mb_lt mb)
  rw [hd] at hexec
  exact ⟨_, hexec, k1, k2, k3, k4, k5, hframe.only⟩

/-- pm.set for P3 or P4 is accepted. -/
theorem pmSet_retains {s : State} (hrun : Running s) {mb : BitVec 3} {m : Mbx} {want : Nat} {i : Instr}
    (hi : (want, i) ∈ [(0, Instr.pmSetP0 mb), (1, Instr.pmSetP1 mb), (2, Instr.pmSetP2 mb), (3, Instr.pmSetP3 mb), (4, Instr.pmSetP4 mb)])
    (hasked : Asked s mb 0x0501 (some want) m) (hpm : ¬s.fresh.dev.pmAgainst want (m.fld 1 1)) (hplan : ¬s.fresh.dev.planAgainst want (m.fld 1 1))
    (hth : s.dev.rd F.PM_STAT_OPMAX ≤ m.fld 1 1) (hw : 3 ≤ want) (hpend : s.dev.on F.GL_STAT_ACT_PEND = false) :
    ∃ t, exec i s = .next t ∧ t.dev.rd F.PM_STAT_REQ = want ∧ t.dev.pm.p3 = .waiting ∧ t.dev.pm.p4 = (want == 4) ∧
      t.dev.pm.mb = some (mb.toNat, 0) ∧ t.dev.pm.opReq = s.dev.pmPointOf (m.fld 1 1) ∧ t.dev.cal.stints = [] ∧ KeepsMem s t := by
  obtain ⟨hw4, hexec⟩ := pmSet_exec hrun hi hasked
  have hth' : ¬m.fld 1 1 < s.fresh.dev.rd F.PM_STAT_OPMAX := Nat.not_lt.mpr hth
  rw [Dev.pmSet_retains hpm hplan hth' hw hw4 hpend] at hexec
  obtain ⟨d, hd, k1, k2, k3, k4, k5, k6⟩ :=
    Dev.pmRetain_spec (s := s.fresh.dev) (mb := mb.toNat) (op := s.fresh.dev.pmPointOf (m.fld 1 1)) hw hw4
  rw [hd] at hexec
  exact ⟨_, hexec, k1, k2, k3, k4, k5, k6, fun _ => rfl, rfl⟩

end Sys2Proof.Proofs
end

section
-- One proof after another: in parallel the proofs of this text would not fit the memory that its check allows.
set_option Elab.async false
/-!
PROOFS. Every vat is held on the way to P3 and P4, and what pm.set completes with then (14 R325).
-/
namespace Sys2Proof.Machine

/-! ### A vat that is held stays held -/

/-- The vat stays held where it was, for the same reasons. -/
structure Dev.HoldKept (v : Nat) (s t : Dev) : Prop where
  held : s.held v = true → t.held v = true
  holds : (t.vat v).holds = (s.vat v).holds

theorem Dev.HoldKept.refl (v : Nat) (s : Dev) : Dev.HoldKept v s s := ⟨id, rfl⟩

theorem Dev.HoldKept.trans {v : Nat} {s t u : Dev} (h : Dev.HoldKept v s t) (k : Dev.HoldKept v t u) : Dev.HoldKept v s u :=
  ⟨fun hs => k.held (h.held hs), k.holds.trans h.holds⟩

theorem Dev.HoldKept.of_held {v : Nat} {s t : Dev} (h : t.held v = s.held v) (k : t.vl = s.vl) : Dev.HoldKept v s t :=
  ⟨fun hs => h.trans hs, by rw [Dev.vat, k, Dev.vat]⟩

theorem Dev.Frame.held {w : List Nat} {l : List Part} {s t : Dev} (h : Dev.Frame w l s t) (v : Nat) (hw : 6 ∉ w := by decide) : t.held v = s.held v :=
  congrArg (bit · v) (h.within.rd2 R.VL_VAT_HELD_LO hw hw)

theorem Dev.Frame.holdKept {w : List Nat} {l : List Part} {s t : Dev} (h : Dev.Frame w l s t) (v : Nat) (hw : 6 ∉ w := by decide)
    (hl : Part.vl ∉ l := by decide) : Dev.HoldKept v s t := .of_held (h.held v hw) (h.part .vl hl)

theorem Dev.HoldKept.each {α : Type} {v : Nat} (r : List α) (f : Dev → α → Dev) (hf : ∀ s, ∀ a ∈ r, Dev.HoldKept v s (f s a)) (s : Dev) :
    Dev.HoldKept v s (Dev.each r f s) := by
  induction r generalizing s with
  | nil => exact .refl v s
  | cons a r ih => exact (hf s a List.mem_cons_self).trans (ih (fun d b hb => hf d b (List.mem_cons_of_mem a hb)) _)

theorem Dev.HoldKept.modVat {v : Nat} (s : Dev) (u : Nat) {f : Vat → Vat} (hf : (f (s.vat u)).holds = (s.vat u).holds) :
    Dev.HoldKept v s (s.modVat u f) := by
  refine ⟨fun hs => hs, ?_⟩
  by_cases h : u = v
  · subst h
    rw [s.modVat_self u f, hf]
  · rw [Dev.modVat_other (Ne.symm h)]

theorem Dev.HoldKept.setHeld {v : Nat} (s : Dev) (u : Nat) (hv : v < 64) : Dev.HoldKept v s (s.setHeld u true) := by
  refine ⟨fun hs => ?_, rfl⟩
  rw [Dev.held, Dev.setHeld, if_pos rfl, Dev.rd2_wr2_self, bit_mod _ hv]
  by_cases h : u = v
  · subst h
    exact bit_setBit_self _ _
  · rw [bit_setBit_other _ h]
    exact hs

/-- A register outside the pair of the held vats is written. -/
theorem Dev.held_setReg (s : Dev) (v : Nat) {k : Nat} (w : Word) (h : k ≠ R.VL_VAT_HELD_LO) (h4 : k ≠ R.VL_VAT_HELD_LO + 4) :
    (s.setReg k w).held v = s.held v := by
  rw [Dev.held, Dev.held, Dev.rd2, Dev.rd2, Dev.reg_setReg_ne _ h, Dev.reg_setReg_ne _ h4]

theorem Dev.HoldKept.setLane {v : Nat} (s : Dev) (k st : Nat) : Dev.HoldKept v s (s.setLane k st) := by
  have h1 : (s.wr (F.VL_LSTAT_STATE k) st).held v = s.held v :=
    Dev.held_setReg s v _ (by simp only [F.VL_LSTAT_STATE, R.VL_VAT_HELD_LO]; omega) (by simp only [F.VL_LSTAT_STATE, R.VL_VAT_HELD_LO]; omega)
  refine .of_held ((Dev.held_setReg _ v _ ?_ ?_).trans h1) rfl
  · simp only [R.VL_LANE_UP0, R.VL_VAT_HELD_LO]
    omega
  · simp only [R.VL_LANE_UP0, R.VL_VAT_HELD_LO]
    omega

theorem Dev.HoldKept.laneMoved {v : Nat} (s : Dev) (k st : Nat) : Dev.HoldKept v s (s.laneMoved k st) := by
  have hset : Dev.HoldKept v s ((s.setLane k st).modLane k Lane.left) := (Dev.HoldKept.setLane s k st).trans ⟨id, rfl⟩
  have hcount (d : Dev) : Dev.HoldKept v d (d.count (F.VL_RETRAIN k)) := .of_held
    (Dev.held_setReg d v _ (by simp only [F.VL_RETRAIN, R.VL_VAT_HELD_LO]; omega) (by simp only [F.VL_RETRAIN, R.VL_VAT_HELD_LO]; omega)) rfl
  unfold Dev.laneMoved Dev.when
  split
  · exact hset.trans (hcount _)
  · exact hset

theorem Dev.HoldKept.vatLost {v : Nat} (s : Dev) (u : Nat) (hv : v < 64) : Dev.HoldKept v s (s.vatLost u) := by
  have hraise : Dev.HoldKept v s (s.raise 0x0612 2 (srcWord 6 u)) := .of_held rfl rfl
  have hheld (d : Dev) : Dev.HoldKept v d (d.regardHeld u) := (Dev.HoldKept.modVat d u rfl).trans (.setHeld _ u hv)
  have hzero (d : Dev) : Dev.HoldKept v d (d.accZero u) := .modVat d u rfl
  exact ((hraise.trans (hheld _)).trans (hzero _)).trans ((Dev.glSync_frame _).holdKept v)

theorem Dev.HoldKept.laneLeave {v : Nat} (s : Dev) (k st : Nat) (hv : v < 64) : Dev.HoldKept v s (s.laneLeave k st) := by
  rw [Dev.laneLeave_eq]
  unfold Dev.when
  split
  · exact (Dev.HoldKept.laneMoved s k st).trans (.vatLost _ _ hv)
  · exact .laneMoved s k st

theorem Dev.HoldKept.openGate {v : Nat} (s : Dev) (hv : v < 64) : Dev.HoldKept v s s.openGate := by
  have htrain (u : Dev) : Dev.HoldKept v u u.trainAll := by
    refine .each _ _ (fun d l _ => ?_) u
    split
    · unfold Dev.toDetect
      split
      · exact .laneLeave d l 1 hv
      · exact .refl v d
    · exact .refl v d
  have hopen : Dev.HoldKept v s s.gateOpened := ⟨id, rfl⟩
  rw [Dev.openGate_eq]
  split
  · exact hopen.trans (htrain _)
  · exact .refl v s

theorem Dev.HoldKept.pmCheck {v : Nat} (s : Dev) (hv : v < 64) : Dev.HoldKept v s s.pmCheck := by
  have hseq (d : Dev) (b : Bool) : Dev.Frame [19] [] d (d.wrB F.PM_STAT_SEQ b) := (Dev.Frame.refl _ _ d).wrB _ _
  rw [Dev.pmCheck_eq]
  exact ((Dev.HoldKept.openGate s hv).trans (s.openGate.pmAnswer_frame.holdKept v)).trans ((hseq _ _).holdKept v)

/-! ### Every vat is held -/

theorem Dev.fourCopies_frame (v : Nat) (s : Dev) (b : LinkBlk) : Dev.Frame [] [] s (s.fourCopies v b) :=
  ⟨fun _ _ => rfl, .fourCopies v s b⟩

theorem Dev.HoldKept.blkFlush {w : Nat} (s : Dev) (v : Nat) : Dev.HoldKept w s (s.blkFlush v) := by
  have hfour (d : Dev) (b : LinkBlk) : Dev.HoldKept w d (d.fourCopies v b) := (d.fourCopies_frame v b).holdKept w
  unfold Dev.blkFlush
  split
  · exact .refl w s
  · exact (Dev.HoldKept.each _ _ (fun d b _ => hfour d b) s).trans (.modVat _ v rfl)
  · split
    · exact .refl w s
    · exact (hfour s _).trans (.modVat _ v rfl)

theorem Dev.HoldKept.sendFour {w : Nat} (s : Dev) (v : Nat) (b : LinkBlk) : Dev.HoldKept w s (s.sendFour v b) := by
  unfold Dev.sendFour
  split
  · exact (Dev.HoldKept.modVat s v rfl).trans (.blkFlush _ v)
  · exact .refl w s

/-- A vat is held for a reason, from an instant on. -/
def Vat.heldFor (reason : Nat) (eff : Option Nat) (x : Vat) : Vat :=
  { x with holds := x.holds ||| BitVec.ofNat 4 (2 ^ reason), relEff := none, holdEff := eff }

theorem Dev.holdVat_eq (reason eff : Nat) (s : Dev) (v : Nat) : ∃ e, s.holdVat reason eff v =
    (((s.modVat v (Vat.heldFor reason e)).holdBlocks v reason eff).setHeld v true) := by
  refine ⟨if s.held v && (s.vat v).relEff.isNone then (s.vat v).holdEff else some eff, rfl⟩

theorem Dev.holdVat_frame (reason eff : Nat) (s : Dev) (v : Nat) : Dev.Frame [6] [.vl] s (s.holdVat reason eff v) :=
  (((Dev.Frame.refl [6] [.vl] s).modVat v _).then (Dev.sendFour_frame _ v _)).setHeld v true

/-- The vat is held, the reason of P3 and P4 among those it is held for. -/
def Dev.heldForP3 (s : Dev) (v : Nat) : Prop := s.held v = true ∧ bit (s.vat v).holds.toNat 2 = true

theorem Dev.HoldKept.heldForP3 {v : Nat} {s t : Dev} (h : Dev.HoldKept v s t) (hs : s.heldForP3 v) : t.heldForP3 v :=
  ⟨h.held hs.1, by rw [h.holds]; exact hs.2⟩

theorem Dev.holdVat_self (eff : Nat) (s : Dev) {v : Nat} (hv : v < 64) : (s.holdVat 2 eff v).heldForP3 v := by
  obtain ⟨e, he⟩ := s.holdVat_eq 2 eff v
  have hsent := Dev.HoldKept.sendFour (w := v) (s.modVat v (Vat.heldFor 2 e)) v (.hold 2 eff)
  have hbit (x : BitVec 4) : bit (x ||| BitVec.ofNat 4 (2 ^ 2)).toNat 2 = true := by
    revert x
    decide
  rw [he]
  refine ⟨Dev.held_setHeld _ hv, ?_⟩
  have hholds : ((((s.modVat v (Vat.heldFor 2 e)).holdBlocks v 2 eff).setHeld v true).vat v).holds = (Vat.heldFor 2 e (s.vat v)).holds :=
    hsent.holds.trans (by rw [Dev.modVat_self])
  rw [hholds]
  exact hbit _

theorem Dev.holdVat_keeps (eff : Nat) (s : Dev) (u : Nat) {v : Nat} (hv : v < 64) (h : s.heldForP3 v) : (s.holdVat 2 eff u).heldForP3 v := by
  by_cases hu : u = v
  · subst hu
    exact s.holdVat_self eff hv
  · obtain ⟨e, he⟩ := s.holdVat_eq 2 eff u
    have hmod : Dev.HoldKept v s (s.modVat u (Vat.heldFor 2 e)) := ⟨id, by rw [Dev.modVat_other (Ne.symm hu)]⟩
    rw [he]
    exact ((hmod.trans (.sendFour _ u _)).trans (.setHeld _ u hv)).heldForP3 h

/-- HOLD of reason 2 has gone to every vat. -/
def Dev.allHeld (s : Dev) : Dev := (Dev.each (List.range 64) (Dev.holdVat 2 s.holdEff) s.useFree).glSync

theorem Dev.allHeld_frame (s : Dev) : Dev.Frame [6, 11, 12, 13, 14, 21] holdParts s s.allHeld :=
  (((Dev.Frame.refl _ _ s).useFree).trans (.each _ _ _ fun d v _ => (d.holdVat_frame 2 _ v).mono)).then (Dev.glSync_frame _)

theorem Dev.allHeld_spec (s : Dev) {v : Nat} (hv : v < 64) : s.allHeld.heldForP3 v :=
  ((Dev.glSync_frame _).holdKept v).heldForP3 (Dev.each_mem (Q := fun _ => True) (fun _ _ _ => trivial)
    (fun d u _ hd => d.holdVat_keeps _ u hv hd) (fun d _ => d.holdVat_self _ hv) _ trivial (List.mem_range.mpr hv))

/-- Every press is checked: the power manager waits for the instant of the HOLD, with no pm.set unanswered. -/
def Pm.heldAt (eff : Nat) (p : Pm) : Pm := { p with p3 := .held, holdEff := eff, mb := none }

/-- With no pm.set waiting a check leaves the power manager as it is. -/
theorem Dev.pmCheck_unasked {s : Dev} (h : s.pm.mb = none) : s.pmCheck.pm = s.pm := by
  have hpm : s.openGate.pm = s.pm := s.openGate_frame.part .pm
  have hself : s.openGate.pmAnswer = s.openGate := by
    unfold Dev.pmAnswer
    rw [hpm, h]
  rw [Dev.pmCheck_eq, hself, Dev.wrB_pm, hpm]

/-- The pm.set that waits is answered. -/
def Dev.retainTold (x : Option (Nat × Nat)) (s : Dev) : Dev := match x with
  | some y => s.ok y.1 (s.pmResp y.2)
  | none => s

theorem Dev.retainTold_frame (x : Option (Nat × Nat)) (s : Dev) : Dev.Frame [] [.mbx] s (s.retainTold x) := by
  cases x with
  | none => exact .refl _ _ s
  | some y => exact (Dev.Frame.refl _ _ s).ok _ _

theorem Dev.p3Hold_eq {s : Dev} (h : s.pm.p3 = .waiting) (hs : s.slotsOver = true) :
    s.p3Hold = ((s.allHeld.setPm (Pm.heldAt s.holdEff)).retainTold s.allHeld.pm.mb).pmCheck := by
  have hif : s.p3Hold = match s.allHeld.pm.mb with
      | some (m, r) => ((s.allHeld.setPm (Pm.heldAt s.holdEff)).ok m ((s.allHeld.setPm (Pm.heldAt s.holdEff)).pmResp r)).pmCheck
      | none => (s.allHeld.setPm (Pm.heldAt s.holdEff)).pmCheck := if_neg (by simp [h, hs])
  rw [hif]
  cases s.allHeld.pm.mb <;> rfl

theorem Dev.p3Hold_spec {s : Dev} (h : s.pm.p3 = .waiting) (hs : s.slotsOver = true) : ∃ d, s.p3Hold = d ∧ d.pm.p3 = .held ∧
    d.pm.holdEff = s.holdEff ∧ d.pm.mb = none ∧ (∀ v, v < 64 → d.heldForP3 v) ∧
    (∀ m r, s.pm.mb = some (m, r) → m < 8 → ∃ pl, (d.mbx.get m).ready = some (0, 0, 0xFFFFFFFF, pl)) ∧ Dev.Frame pmWindows pmParts s d := by
  have hpm : s.allHeld.pm = s.pm := s.allHeld_frame.part .pm
  rw [Dev.p3Hold_eq h hs, hpm]
  have hall (v : Nat) (hv : v < 64) := s.allHeld_spec hv
  have hframe := s.allHeld_frame
  generalize s.allHeld = u at *
  have hset : Dev.Frame [] [.pm] u (u.setPm (Pm.heldAt s.holdEff)) := (Dev.Frame.refl _ _ u).setPm _
  have hself : (u.setPm (Pm.heldAt s.holdEff)).pm = Pm.heldAt s.holdEff s.pm := congrArg (Pm.heldAt s.holdEff) hpm
  generalize u.setPm (Pm.heldAt s.holdEff) = w at *
  have htold := w.retainTold_frame s.pm.mb
  have hready (m r : Nat) (hmb : s.pm.mb = some (m, r)) (hm : m < 8) : ∃ pl, ((w.retainTold s.pm.mb).mbx.get m).ready = some (0, 0, 0xFFFFFFFF, pl) := by
    rw [hmb]
    exact ⟨_, w.finish_ready m 0 0 0xFFFFFFFF _ hm⟩
  generalize w.retainTold s.pm.mb = x at *
  have hxpm : x.pm = Pm.heldAt s.holdEff s.pm := by rw [htold.part .pm, hself]
  have hnone : x.pm.mb = none := by
    rw [hxpm]
    rfl
  have hmbx : x.pmCheck.mbx = x.mbx := Dev.pmCheck_mbx hnone
  have hbefore : Dev.Frame pmWindows pmParts s x :=
    ((hframe.mono (w' := pmWindows) (l' := pmParts)).then hset).then htold
  refine ⟨_, rfl, ?_, ?_, ?_, fun v hv => ?_, fun m r hmb hm => ?_, hbefore.then x.pmCheck_frame⟩
  · rw [Dev.pmCheck_unasked hnone, hxpm]
    rfl
  · rw [Dev.pmCheck_unasked hnone, hxpm]
    rfl
  · rw [Dev.pmCheck_unasked hnone, hnone]
  · exact (Dev.HoldKept.pmCheck x hv).heldForP3 ((htold.holdKept v).heldForP3 ((hset.holdKept v).heldForP3 (hall v hv)))
  · obtain ⟨pl, hpl⟩ := hready m r hmb hm
    exact ⟨pl, by rw [hmbx, hpl]⟩

end Sys2Proof.Machine
end

section
-- One proof after another: in parallel the proofs of this text would not fit the memory that its check allows.
set_option Elab.async false
/-!
PROOFS. The links go to electrical idle and the report ports down (14 R324, R325).
-/
namespace Sys2Proof.Machine

/-! ### The lanes -/

/-- What one of the steps sets, and each step of the list keeps, holds after all of them. -/
theorem Dev.each_sets {α : Type} {P : Dev → Prop} {f : Dev → α → Dev} {x : α} (hset : ∀ s, P (f s x)) (l : List α)
    (hkeep : ∀ s, ∀ a ∈ l, P s → P (f s a)) : ∀ {s : Dev}, x ∈ l → P (Dev.each l f s) := by
  have hrest (m : List α) (hm : m ⊆ l) : ∀ u : Dev, P u → P (Dev.each m f u) := by
    induction m with
    | nil => exact fun u hp => hp
    | cons b m ih => exact fun u hp => ih (List.subset_of_cons_subset hm) _ (hkeep u b (hm List.mem_cons_self) hp)
  intro s hx
  obtain ⟨a, b, rfl⟩ := List.append_of_mem hx
  rw [Dev.each, List.foldl_append]
  exact hrest b (fun y hy => List.mem_append_right _ (List.mem_cons_of_mem _ hy)) _ (hset _)

/-- A lane goes to electrical idle. -/
def Dev.laneIdle (s : Dev) (l : Nat) : Dev := ((s.setLane l 7).modLane l Lane.left).send (.electricalIdle l)

/-- Every lane is idle, and no sense frame is accepted any more. -/
def Dev.lanesIdle (s : Dev) : Dev := Dev.each (List.range 64) Dev.accZero (Dev.each (List.range 128) Dev.laneIdle s)

theorem Dev.laneIdle_frame (s : Dev) {l : Nat} (h : l < 128) : Dev.Frame [6] [.vl] s (s.laneIdle l) :=
  (((s.setLane_frame h 7).mono (w' := [6]) (l' := [.vl])).modLane l Lane.left).send _

theorem Dev.lanesIdle_frame (s : Dev) : Dev.Frame [6] [.vl] s s.lanesIdle :=
  (Dev.Frame.each _ _ s fun d _ hl => d.laneIdle_frame (List.mem_range.mp hl)).trans
    (.each _ _ _ fun d v _ => (Dev.Frame.refl _ _ d).modVat v _)

/-- The lane is in IDLE, and told so. -/
def Dev.idleAt (s : Dev) (l : Nat) : Prop := s.rd (F.VL_LSTAT_STATE l) = 7 ∧ .electricalIdle l ∈ s.tx

theorem Dev.idleAt.mono {s t : Dev} {l : Nat} (h : s.idleAt l) (hr : t.rd (F.VL_LSTAT_STATE l) = s.rd (F.VL_LSTAT_STATE l)) (ht : s.tx ⊆ t.tx) :
    t.idleAt l := ⟨hr.trans h.1, ht h.2⟩

theorem Dev.laneIdle_self (s : Dev) {l : Nat} (h : l < 128) : (s.laneIdle l).idleAt l :=
  ⟨(s.setLane_left h (st := 7) (by decide)).state, List.mem_append_right _ List.mem_cons_self⟩

theorem Dev.laneIdle_keeps (s : Dev) {k l : Nat} (hk128 : k < 128) (hl : l < 128) (h : s.idleAt l) : (s.laneIdle k).idleAt l := by
  by_cases hk : k = l
  · subst hk
    exact s.laneIdle_self hl
  · refine h.mono ?_ (List.subset_append_left _ _)
    have hup : R.VL_LANE_UP0 + 4 * (k / 32) ≠ (F.VL_LSTAT_STATE l).reg := by
      simp only [R.VL_LANE_UP0, F.VL_LSTAT_STATE]
      omega
    have hstat : (F.VL_LSTAT_STATE k).reg ≠ (F.VL_LSTAT_STATE l).reg := by
      simp only [F.VL_LSTAT_STATE]
      omega
    have hreg : (s.setLane k 7).reg (F.VL_LSTAT_STATE l).reg = s.reg (F.VL_LSTAT_STATE l).reg :=
      (Dev.reg_setReg_ne _ hup _).trans (Dev.reg_wr_ne s hstat 7)
    show (s.setLane k 7).rd (F.VL_LSTAT_STATE l) = s.rd (F.VL_LSTAT_STATE l)
    rw [Dev.rd, Dev.rd, hreg]

theorem Dev.lanesIdle_idleAt (s : Dev) {l : Nat} (h : l < 128) : s.lanesIdle.idleAt l := by
  have hlanes : (Dev.each (List.range 128) Dev.laneIdle s).idleAt l := Dev.each_sets (P := (Dev.idleAt · l))
    (fun d => d.laneIdle_self h) _ (fun d _ hk hd => d.laneIdle_keeps (List.mem_range.mp hk) h hd) (List.mem_range.mpr h)
  have hregs := Dev.each_same Dev.regs Dev.accZero (l := List.range 64) (fun _ _ _ => rfl) (Dev.each (List.range 128) Dev.laneIdle s)
  have htx := Dev.each_same Dev.tx Dev.accZero (l := List.range 64) (fun _ _ _ => rfl) (Dev.each (List.range 128) Dev.laneIdle s)
  exact hlanes.mono ((Dev.RegsAs.of_regs hregs).rd _) (by rw [Dev.lanesIdle, htx]; exact List.Subset.refl _)

theorem Dev.lanesIdle_acc (s : Dev) {v : Nat} (h : v < 64) : (s.lanesIdle.vat v).acc = 0 := by
  have hself (d : Dev) : ((d.accZero v).vat v).acc = 0 := by
    rw [Dev.accZero, Dev.modVat_self]
  refine Dev.each_sets (P := fun d => (d.vat v).acc = 0) hself _ (fun d u _ hd => ?_) (List.mem_range.mpr h)
  by_cases hu : u = v
  · subst hu
    exact hself d
  · rw [Dev.accZero, Dev.modVat_other (Ne.symm hu)]
    exact hd

/-! ### The report ports -/

/-- A report port is disabled, without a fault. -/
def Dev.portOff (s : Dev) (p : Port) : Dev :=
  (((Dev.when (s.on (rpFld p F.RPA_STAT_LINK)) (·.count (rpFld p F.RPA_LINK_DOWN)) s).wrB (rpFld p F.RPA_STAT_LINK) false).wrB
    (rpFld p F.RPA_STAT_ALIGNED) false).wrB (rpFld p F.RPA_STAT_FEC_LOCK) false

theorem Dev.portOff_frame (s : Dev) (p : Port) : Dev.Frame [portBlock p] [] s (s.portOff p) := by
  cases p with
  | rpa => exact ((((Dev.Frame.refl [13] [] s).when' _ ((Dev.Frame.refl _ _ s).count _ _ (by decide))).wrB _ _ (by decide)).wrB _ _ (by decide)).wrB _ _ (by decide)
  | rpb => exact ((((Dev.Frame.refl [14] [] s).when' _ ((Dev.Frame.refl _ _ s).count _ _ (by decide))).wrB _ _ (by decide)).wrB _ _ (by decide)).wrB _ _ (by decide)

/-- The port's link is down; where it was up, that is counted. -/
theorem Dev.portOff_spec (s : Dev) (p : Port) : (s.portOff p).on (rpFld p F.RPA_STAT_LINK) = false ∧
    (s.on (rpFld p F.RPA_STAT_LINK) = true → (s.portOff p).rd (rpFld p F.RPA_LINK_DOWN) = min (s.rd (rpFld p F.RPA_LINK_DOWN) + 1) 0xFFFFFFFF) := by
  have hlink (d : Dev) : (((d.wrB (rpFld p F.RPA_STAT_LINK) false).wrB (rpFld p F.RPA_STAT_ALIGNED) false).wrB
      (rpFld p F.RPA_STAT_FEC_LOCK) false).on (rpFld p F.RPA_STAT_LINK) = false := by
    have h1 : (rpFld p F.RPA_STAT_ALIGNED).apart (rpFld p F.RPA_STAT_LINK) = true := by cases p <;> rfl
    have h2 : (rpFld p F.RPA_STAT_FEC_LOCK).apart (rpFld p F.RPA_STAT_LINK) = true := by cases p <;> rfl
    rw [Dev.wrB, Dev.on_wr_apart _ _ _ _ rfl h2, Dev.wrB, Dev.on_wr_apart _ _ _ _ rfl h1, Dev.on_wrB_self _ _ _ rfl rfl]
  refine ⟨hlink _, fun h => ?_⟩
  have hne (f : Fld) (hf : f.reg = R.RPA_STAT) : (rpFld p f).reg ≠ (rpFld p F.RPA_LINK_DOWN).reg := by
    simp only [rpFld, hf, R.RPA_STAT, F.RPA_LINK_DOWN]
    omega
  have hcount := Dev.rd_count_self s (rpFld p F.RPA_LINK_DOWN) 1 rfl rfl
  refine Eq.trans ?_ hcount
  rw [Dev.portOff, h, Dev.rd, Dev.rd, Dev.reg_wrB_ne _ (hne _ rfl), Dev.reg_wrB_ne _ (hne _ rfl), Dev.reg_wrB_ne _ (hne _ rfl)]
  rfl

/-- Both report ports are down. -/
def Dev.portsOff (s : Dev) : Dev :=
  Dev.each [Port.rpa, Port.rpb] Dev.portOff
    (Dev.when ([Port.rpa, Port.rpb].any (fun p => s.on (rpFld p F.RPA_STAT_LINK))) (·.wrB F.DE_STAT_PORTS_DOWN true) s)

theorem Dev.portsOff_frame (s : Dev) : Dev.Frame [12, 13, 14] [] s s.portsOff :=
  ((Dev.Frame.refl [12, 13, 14] [] s).when' _ ((Dev.Frame.refl _ _ s).wrB _ _)).trans
    (.each _ _ _ fun d p _ => (d.portOff_frame p).mono (by cases p <;> decide) (by decide))

theorem Dev.portsOff_tx (s : Dev) : s.portsOff.tx = s.tx := by
  have hwhen (c : Bool) (f : Fld) (v : Nat) (d : Dev) : (Dev.when c (·.wr f v) d).tx = d.tx := by
    cases c <;> rfl
  have hport (d : Dev) (p : Port) : (d.portOff p).tx = d.tx := by
    show (Dev.when _ (fun d => d.count _) d).tx = d.tx
    unfold Dev.when
    split <;> rfl
  exact (Dev.each_same Dev.tx Dev.portOff (fun d p _ => hport d p) _).trans (hwhen _ F.DE_STAT_PORTS_DOWN 1 s)

theorem Dev.portsOff_spec (s : Dev) : (∀ p, s.portsOff.on (rpFld p F.RPA_STAT_LINK) = false ∧ (s.on (rpFld p F.RPA_STAT_LINK) = true →
      s.portsOff.rd (rpFld p F.RPA_LINK_DOWN) = min (s.rd (rpFld p F.RPA_LINK_DOWN) + 1) 0xFFFFFFFF)) ∧
    (s.on (rpFld .rpa F.RPA_STAT_LINK) = true ∨ s.on (rpFld .rpb F.RPA_STAT_LINK) = true → s.portsOff.on F.DE_STAT_PORTS_DOWN = true) := by
  have hdown : s.on (rpFld .rpa F.RPA_STAT_LINK) = true ∨ s.on (rpFld .rpb F.RPA_STAT_LINK) = true →
      (Dev.when ([Port.rpa, Port.rpb].any (fun p => s.on (rpFld p F.RPA_STAT_LINK))) (·.wrB F.DE_STAT_PORTS_DOWN true) s).on F.DE_STAT_PORTS_DOWN = true := by
    intro h
    rw [Dev.when, if_pos (by simpa using h), Dev.on_wrB_self _ _ _ rfl rfl]
  have hframe : Dev.Frame [12] [] s (Dev.when ([Port.rpa, Port.rpb].any (fun p => s.on (rpFld p F.RPA_STAT_LINK))) (·.wrB F.DE_STAT_PORTS_DOWN true) s) :=
    (Dev.Frame.refl _ _ s).when' _ ((Dev.Frame.refl _ _ s).wrB _ _)
  show (∀ p, ((Dev.portOff _ .rpa).portOff .rpb).on (rpFld p F.RPA_STAT_LINK) = false ∧ (_ →
      ((Dev.portOff _ .rpa).portOff .rpb).rd (rpFld p F.RPA_LINK_DOWN) = _)) ∧ (_ → ((Dev.portOff _ .rpa).portOff .rpb).on F.DE_STAT_PORTS_DOWN = true)
  generalize Dev.when ([Port.rpa, Port.rpb].any (fun p => s.on (rpFld p F.RPA_STAT_LINK))) (·.wrB F.DE_STAT_PORTS_DOWN true) s = u at *
  obtain ⟨ha, hacount⟩ := u.portOff_spec .rpa
  have hfa := u.portOff_frame .rpa
  generalize u.portOff .rpa = w at *
  obtain ⟨hb, hbcount⟩ := w.portOff_spec .rpb
  have hfb := w.portOff_frame .rpb
  refine ⟨fun p => ?_, fun h => ?_⟩
  · cases p with
    | rpa =>
      refine ⟨(hfb.on _ (by decide)).trans ha, fun h => ?_⟩
      rw [hfb.rd _ (by decide), hacount ((hframe.on _ (by decide)).trans h), hframe.rd _ (by decide)]
    | rpb =>
      refine ⟨hb, fun h => ?_⟩
      rw [hbcount ((hfa.on _ (by decide)).trans ((hframe.on _ (by decide)).trans h)), hfa.rd _ (by decide), hframe.rd _ (by decide)]
  · exact (hfb.on _ (by decide)).trans ((hfa.on _ (by decide)).trans (hdown h))

/-! ### GL stands still (06 R139) -/

theorem Dev.cmpLoad_tx (s : Dev) : s.cmpLoad.tx = s.tx := by
  unfold Dev.cmpLoad
  extract_lets k j w t u v
  have ht : t.tx = s.tx := rfl
  clear_value t
  have hu : u.tx = t.tx := by
    show Dev.tx (if _ then _ else if _ then _ else _) = t.tx
    split
    · rfl
    · split
      · rfl
      · rfl
  clear_value u
  have hv : v.tx = u.tx := by
    show Dev.tx (if _ then _ else _) = u.tx
    split
    · rfl
    · rfl
  clear_value v
  have hset (i : Nat) (x : Cmp) : (v.setCmp i x).tx = s.tx := (show (v.setCmp i x).tx = v.tx from rfl).trans (hv.trans (hu.trans ht))
  split
  · exact hv.trans (hu.trans ht)
  · split
    · exact hset _ _
    · split
      · exact hset _ _
      · exact hset _ _

theorem Dev.standStill_walking (s : Dev) : s.standStill.gl.walking = false :=
  congrArg Gl.walking ((Dev.cmpLoad_frame { s with gl := { s.gl with walking := false } }).part .gl)

/-- The entry to P3 or P4 has the links idle. -/
def Pm.idled (p : Pm) : Pm := { p with p3 := .idle }

theorem Dev.p3Idle_eq {s : Dev} (h : s.pm.p3 = .held) (hn : s.pm.holdEff < s.now) :
    s.p3Idle = s.lanesIdle.portsOff.standStill.setPm Pm.idled := if_neg (by simp [h, hn])

theorem Dev.p3Idle_spec {s : Dev} (h : s.pm.p3 = .held) (hn : s.pm.holdEff < s.now) : ∃ d, s.p3Idle = d ∧ d.pm.p3 = .idle ∧ d.gl.walking = false ∧
    (∀ l, l < 128 → d.idleAt l) ∧ (∀ v, v < 64 → (d.vat v).acc = 0) ∧
    (∀ p, d.on (rpFld p F.RPA_STAT_LINK) = false ∧ (s.on (rpFld p F.RPA_STAT_LINK) = true →
      d.rd (rpFld p F.RPA_LINK_DOWN) = min (s.rd (rpFld p F.RPA_LINK_DOWN) + 1) 0xFFFFFFFF)) ∧
    (s.on (rpFld .rpa F.RPA_STAT_LINK) = true ∨ s.on (rpFld .rpb F.RPA_STAT_LINK) = true → d.on F.DE_STAT_PORTS_DOWN = true) ∧
    Dev.Frame [6, 12, 13, 14] [.vl, .gl, .pm, .tb] s d := by
  have hidle (l : Nat) (hl : l < 128) := s.lanesIdle_idleAt hl
  have hacc (v : Nat) (hv : v < 64) := s.lanesIdle_acc hv
  have hlanes := s.lanesIdle_frame
  rw [Dev.p3Idle_eq h hn]
  generalize s.lanesIdle = u at *
  obtain ⟨hports, hdown⟩ := u.portsOff_spec
  have hoff := u.portsOff_frame
  have htx := u.portsOff_tx
  generalize u.portsOff = w at *
  have hwalk := w.standStill_walking
  have hstill := w.standStill_frame
  have hstx : w.standStill.tx = w.tx := Dev.cmpLoad_tx _
  generalize w.standStill = x at *
  have hregs : Dev.RegsAs w (x.setPm Pm.idled) := fun off => hstill.within off List.not_mem_nil
  have hvl : (x.setPm Pm.idled).vl = u.vl := by rw [← hoff.part .vl, ← hstill.part .vl]; rfl
  have hport (f : Fld) (p : Port) (hf : f.reg = R.RPA_STAT ∨ f.reg = F.RPA_LINK_DOWN.reg) : u.rd (rpFld p f) = s.rd (rpFld p f) := by
    refine hlanes.rd _ ?_
    simp only [rpFld]
    rcases hf with hf | hf <;> rw [hf] <;> cases p <;> decide
  have hlink (p : Port) : u.on (rpFld p F.RPA_STAT_LINK) = s.on (rpFld p F.RPA_STAT_LINK) := congrArg (· == 1) (hport _ p (.inl rfl))
  refine ⟨_, rfl, rfl, hwalk, fun l hl => (hidle l hl).mono ?_ ?_, fun v hv => ?_, fun p => ⟨?_, fun hp => ?_⟩, fun hor => ?_, ?_⟩
  · rw [hregs.rd]
    have hblk : blockOf (F.VL_LSTAT_STATE l).reg = 6 := by
      simp only [F.VL_LSTAT_STATE, blockOf]
      omega
    exact hoff.rd _ (by rw [hblk]; decide)
  · rw [← htx, ← hstx]
    exact List.Subset.refl _
  · rw [Dev.vat, hvl]
    exact hacc v hv
  · rw [hregs.on]
    exact (hports p).1
  · rw [hregs.rd, (hports p).2 ((hlink p).trans hp), hport _ p (.inr rfl)]
  · rw [hregs.on]
    exact hdown (by rw [hlink, hlink]; exact hor)
  · exact (((hlanes.mono (w' := [6, 12, 13, 14]) (l' := [.vl, .gl, .pm, .tb])).then hoff).then hstill).setPm _

end Sys2Proof.Machine
end

section
-- One proof after another: in parallel the proofs of this text would not fit the memory that its check allows.
set_option Elab.async false
/-!
PROOFS. The stewards halt, and the rails are removed on the way to P4 (14 R325, R329).
-/
namespace Sys2Proof.Machine

/-! ### The effective state changes (14 R317) -/

/-- The state changes, before GL follows it. -/
def Dev.stateSet (st : Nat) (s : Dev) : Dev := (((s.wr F.PM_STAT_STATE st).event F.PM_EVT_STATE_CHG).powerEv 1 0).fitTouch

theorem Dev.toState_eq (st : Nat) (s : Dev) : s.toState st = if s.rd F.PM_STAT_STATE = st then s else (s.stateSet st).glSync := rfl

theorem Dev.stateSet_frame (st : Nat) (s : Dev) : Dev.Frame [19] [.evq, .th] s (s.stateSet st) := by
  have hfit (u : Dev) : Dev.Frame [19] [.evq, .th] u u.fitTouch := by
    unfold Dev.fitTouch
    split
    · exact (Dev.Frame.refl _ _ u).th _
    · exact .refl _ _ u
  exact ((((Dev.Frame.refl _ _ s).wr _ _).event _).emit _).trans (hfit _)

theorem Dev.stateSet_regs (st : Nat) (s : Dev) : (s.stateSet st).regs = ((s.wr F.PM_STAT_STATE st).event F.PM_EVT_STATE_CHG).regs := by
  unfold Dev.stateSet Dev.fitTouch
  split <;> rfl

/-- Parts that a change of the effective state may reach. -/
def stateParts : List Part := .th :: cancelParts

theorem Dev.toState_frame (st : Nat) (s : Dev) : Dev.Frame [11, 12, 13, 14, 19, 21] stateParts s (s.toState st) := by
  rw [Dev.toState_eq]
  split
  · exact .refl _ _ s
  · exact ((s.stateSet_frame st).mono (w' := [11, 12, 13, 14, 19, 21]) (l' := stateParts)).then (Dev.glSync_frame _)

theorem Dev.toState_rd {st : Nat} (h : st < 8) (s : Dev) : (s.toState st).rd F.PM_STAT_STATE = st := by
  rw [Dev.toState_eq]
  split
  · assumption
  · rw [(Dev.glSync_frame _).rd F.PM_STAT_STATE, (Dev.RegsAs.of_regs (s.stateSet_regs st)).rd, Dev.rd_event_apart _ _ _ rfl rfl,
      Dev.rd_wr_self _ _ _ (by decide)]
    exact Nat.mod_eq_of_lt h

/-! ### The rails are removed (14 R329, R339) -/

theorem Tbl.look_filter {α : Type} (p : Nat × α → Bool) {k : Nat} (h : ∀ v, p (k, v) = true) (t : Tbl α) : Tbl.look (t.filter p) k = t.look k := by
  induction t with
  | nil => rfl
  | cons x t ih =>
    obtain ⟨j, v⟩ := x
    by_cases hj : j = k
    · subst hj
      rw [List.filter_cons_of_pos (h v)]
      simp [Tbl.look]
    · cases hp : p (j, v) with
      | true =>
        rw [List.filter_cons_of_pos hp]
        simp [Tbl.look, hj, ih]
      | false =>
        rw [List.filter_cons_of_neg (by simp [hp])]
        simp [Tbl.look, hj, ih]

theorem Dev.noCounts_reg (s : Dev) {off : Nat} (h : isFixed off = false) (hpc : off < 0x150000) : s.noCounts.reg off = s.reg off := by
  have hkeep : ∀ v : Word, (!isFixed (off, v).1 && !(decide (0x150000 ≤ (off, v).1) && decide ((off, v).1 < 0x160000))) = true := by
    intro v
    simp [h]
    omega
  rw [Dev.reg, Dev.reg]
  exact congrArg (fun x : Option Word => x.getD (regReset off)) (Tbl.look_filter _ hkeep s.regs)

theorem isFixed_pmState : isFixed F.PM_STAT_STATE.reg = false := by decide

theorem isFixed_stStat : isFixed F.HIF_ST_STAT_STATE.reg = false := by decide

theorem Dev.nvAbandon_idle {s : Dev} (h : s.nv.cur = none) : s.nvAbandon = s := by
  unfold Dev.nvAbandon
  rw [h]

/-- CORE_EN and PM_OFF_N are low. -/
def Dev.pinsLow (s : Dev) : Dev := (s.coreEn false).drive "PM_OFF_N" false (fun p => { p with offN := false })

/-- So is PPS_OUT. -/
def Dev.railsCut (s : Dev) : Dev := Dev.when s.pinsLow.tb.ppsOut (·.send (.pin "PPS_OUT" false)) s.pinsLow

/-- What the core held is lost. -/
def Dev.coreLost (s : Dev) : Dev :=
  let s := s.setPm (fun p => { p with p3 := .off, wake := .none, mb := none })
  { s with tb := { s.tb with ppsOut := false }, evq := { s.evq with pend := [], pendDrop := 0 }, mbx := [], bm := { s.bm with mem := [] } }

theorem Dev.powerOff_eq (s : Dev) : s.powerOff =
    (((((s.railsCut.nvAbandon).toState 4).wr F.PM_STAT_REQ 4).coreLost.wr F.EVQ_PENDING 0).wr F.HIF_ST_STAT_STATE 0).noCounts := rfl

theorem Dev.railsCut_spec (s : Dev) : s.railsCut.pins.coreEn = false ∧ s.railsCut.pins.offN = false ∧ s.railsCut.nv = s.nv := by
  have hlow : s.pinsLow.pins.coreEn = false ∧ s.pinsLow.pins.offN = false ∧ s.pinsLow.nv = s.nv := ⟨rfl, rfl, rfl⟩
  have hframe : Dev.Frame [] [] s.pinsLow s.railsCut := .when _ _ s.pinsLow ((Dev.Frame.refl _ _ _).send _)
  generalize s.pinsLow = u at *
  obtain ⟨hcore, hoff, hnv⟩ := hlow
  have hpins : s.railsCut.pins = u.pins := hframe.part .pins
  exact ⟨(congrArg Pins.coreEn hpins).trans hcore, (congrArg Pins.offN hpins).trans hoff, by rw [hframe.part .nv, hnv]⟩

theorem Dev.coreLost_reg (s : Dev) (off : Nat) : s.coreLost.reg off = s.reg off := rfl

theorem Dev.powerOff_spec {s : Dev} (h : s.nv.cur = none) : s.powerOff.rd F.PM_STAT_STATE = 4 ∧ s.powerOff.pins.coreEn = false ∧
    s.powerOff.pins.offN = false ∧ s.powerOff.evq.pend = [] ∧ s.powerOff.pc = {} ∧ s.powerOff.nv = s.nv ∧ s.powerOff.mbx = [] ∧
    s.powerOff.rd F.HIF_ST_STAT_STATE = 0 := by
  obtain ⟨hcore, hoff, hnv⟩ := s.railsCut_spec
  rw [Dev.powerOff_eq, Dev.nvAbandon_idle (by rw [hnv, h])]
  generalize s.railsCut = u at *
  have hstate := u.toState_rd (st := 4) (by decide)
  have hframe := u.toState_frame 4
  have hpins : (u.toState 4).pins = u.pins := hframe.part .pins
  have hunv : (u.toState 4).nv = u.nv := hframe.part .nv
  generalize u.toState 4 = w at *
  have hreq : (w.wr F.PM_STAT_REQ 4).coreLost.rd F.PM_STAT_STATE = 4 := (Dev.rd_wr_apart w _ _ _ rfl rfl).trans hstate
  have hrec : (w.wr F.PM_STAT_REQ 4).coreLost.pins = u.pins ∧ (w.wr F.PM_STAT_REQ 4).coreLost.evq.pend = [] ∧
      (w.wr F.PM_STAT_REQ 4).coreLost.nv = s.nv ∧ (w.wr F.PM_STAT_REQ 4).coreLost.mbx = [] := ⟨hpins, rfl, hunv.trans hnv, rfl⟩
  generalize (w.wr F.PM_STAT_REQ 4).coreLost = x at *
  obtain ⟨hxpins, hxevq, hxnv, hxmbx⟩ := hrec
  have hst (d : Dev) : (d.wr F.HIF_ST_STAT_STATE 0).rd F.HIF_ST_STAT_STATE = 0 := Dev.rd_wr_self d _ _ rfl
  refine ⟨?_, ?_, ?_, hxevq, rfl, hxnv, hxmbx, ?_⟩
  · rw [Dev.rd, Dev.noCounts_reg _ isFixed_pmState (by decide)]
    exact (Dev.rd_wr_apart _ _ _ _ rfl rfl).trans ((Dev.rd_wr_apart _ _ _ _ rfl rfl).trans hreq)
  · exact (congrArg Pins.coreEn hxpins).trans hcore
  · exact (congrArg Pins.offN hxpins).trans hoff
  · rw [Dev.rd, Dev.noCounts_reg _ isFixed_stStat (by decide)]
    exact hst _

/-! ### The stewards halt (14 R325) -/

/-- What the stewards' SRAM held of commands is gone. -/
def Dev.commandsGone (s : Dev) : Dev := { s with nv := { s.nv with queue := [] }, mbx := [] }

theorem Dev.commandsGone_frame (s : Dev) : Dev.Frame [] [.nv, .mbx] s s.commandsGone :=
  (Dev.Frame.refl _ _ s).fields rfl fun p hp => by cases p <;> first | exact absurd (by decide) hp | rfl

/-- The commands are gone, and a write that still runs is abandoned, but after a trip. -/
def Dev.workGone (s : Dev) : Dev := (Dev.when (!s.nv.tripped) Dev.nvAbandon s).commandsGone.nvDepth

/-- The record HOST_OFF is written. -/
def Dev.hostOffWritten (s : Dev) : Dev :=
  let r := s.shutRecord 3 0
  r.1.nvWriteNow 0x0020 r.1.nextShut r.2

/-- The entry to P3 goes on with the stewards halted. -/
def Pm.haltedAt (p : Pm) : Pm := { p with p3 := .halted }

/-- The stewards are off, and for P4 the rails go. -/
def Dev.haltedWith (off : Bool) (s : Dev) : Dev :=
  if off then ((if off then s.workGone.hostOffWritten else s.workGone).stTo 0).powerOff
  else ((if off then s.workGone.hostOffWritten else s.workGone).stTo 0).setPm Pm.haltedAt

theorem Dev.p3Halt_eq {s : Dev} (h : s.pm.p3 = .linkDown) : s.p3Halt = s.haltedWith (s.pm.p4 && !s.nv.tripped) := if_neg (by simp [h])

theorem Dev.p3Halt_off {s : Dev} (h : s.pm.p3 = .linkDown) (hp : s.pm.p4 = true) (ht : s.nv.tripped = false) :
    s.p3Halt = (s.workGone.hostOffWritten.stTo 0).powerOff := by
  have hoff : (s.pm.p4 && !s.nv.tripped) = true := by simp [hp, ht]
  rw [Dev.p3Halt_eq h, hoff, Dev.haltedWith, if_pos rfl, if_pos rfl]

theorem Dev.p3Halt_on {s : Dev} (h : s.pm.p3 = .linkDown) (hp : s.pm.p4 = false ∨ s.nv.tripped = true) :
    s.p3Halt = (s.workGone.stTo 0).setPm Pm.haltedAt := by
  have hoff : (s.pm.p4 && !s.nv.tripped) = false := by
    rcases hp with hp | hp <;> simp [hp]
  rw [Dev.p3Halt_eq h, hoff, Dev.haltedWith, if_neg Bool.false_ne_true, if_neg Bool.false_ne_true]

theorem Dev.workGone_frame (s : Dev) : Dev.Frame [16] [.nv, .bm, .freeCtr, .mbx] s s.workGone :=
  ((Dev.Frame.when _ _ s (s.nvAbandon_frame.mono)).then (Dev.commandsGone_frame _)).then (Dev.nvDepth_frame _)

theorem Dev.workGone_spec (s : Dev) : s.workGone.mbx = [] ∧ s.workGone.nv.queue = [] ∧ (s.nv.tripped = false → s.workGone.nv.cur = none) ∧
    (s.nv.tripped = true → s.workGone.nv = { s.nv with queue := [] }) := by
  have hdepth (d : Dev) : d.commandsGone.nvDepth.nv = { d.nv with queue := [] } := Dev.Frame.part (Dev.nvDepth_frame _) .nv
  have hmbx (d : Dev) : d.commandsGone.nvDepth.mbx = [] := Dev.Frame.part (Dev.nvDepth_frame _) .mbx
  refine ⟨hmbx _, ?_, fun h => ?_, fun h => ?_⟩
  · rw [Dev.workGone, hdepth]
  · rw [Dev.workGone, hdepth, h]
    exact s.nvAbandon_cur
  · rw [Dev.workGone, hdepth, h]
    rfl

theorem Dev.hostOffWritten_spec (s : Dev) : s.hostOffWritten.nv.queue = s.nv.queue ∧ s.hostOffWritten.nv.cur = s.nv.cur ∧
    s.hostOffWritten.mbx = s.mbx := by
  have h := Dev.OnDie.nvWriteNow (s.shutRecord 3 0).1 0x0020 (s.shutRecord 3 0).1.nextShut (s.shutRecord 3 0).2
  have hmbx : s.hostOffWritten.mbx = (s.shutRecord 3 0).1.mbx := h.frame.part .mbx
  obtain ⟨p, w, j, hn⟩ := h.rest
  have hnv : s.hostOffWritten.nv = (s.shutRecord 3 0).1.nv.ofDie p w j := hn
  exact ⟨by rw [hnv]; rfl, by rw [hnv]; rfl, hmbx.trans rfl⟩

end Sys2Proof.Machine

namespace Sys2Proof.Proofs
open Sys2Proof.Machine

/-- The stewards halt on the way to P3, or after a thermal trip. -/
theorem stewardsHalt {s : State} (hrun : Running s) (h : s.dev.pm.p3 = .linkDown) :
    ∃ t, exec .p3StewardsHalt s = .next t ∧ t.dev.nv.queue = [] ∧
    t.dev.rd F.HIF_ST_STAT_STATE = 0 ∧ t.dev.mbx = [] ∧ KeepsMem s t ∧ (s.dev.nv.tripped = false → t.dev.nv.cur = none) ∧
    (s.dev.nv.tripped = true → t.dev.nv = { s.dev.nv with queue := [] }) ∧
    (s.dev.pm.p4 = false ∨ s.dev.nv.tripped = true → t.dev.pm.p3 = .halted ∧ Only [0, 16] [.nv, .bm, .pm, .mbx, .freeCtr] s t) ∧
    (s.dev.pm.p4 = true → s.dev.nv.tripped = false → t.dev.rd F.PM_STAT_STATE = 4 ∧ t.dev.pins.coreEn = false ∧ t.dev.pins.offN = false ∧
      t.dev.evq.pend = [] ∧ t.dev.pc = {}) := by
  have hexec : exec .p3StewardsHalt s = .next { s with dev := s.fresh.dev.p3Halt } := State.onDev_next s _ hrun
  obtain ⟨hmbx, hqueue, hcur, hnv⟩ := s.fresh.dev.workGone_spec
  by_cases hp : s.dev.pm.p4 = true ∧ s.dev.nv.tripped = false
  · obtain ⟨hp, ht⟩ := hp
    rw [Dev.p3Halt_off (s := s.fresh.dev) h hp ht] at hexec
    generalize s.fresh.dev.workGone = u at *
    obtain ⟨hwq, hwc, hwm⟩ := u.hostOffWritten_spec
    generalize u.hostOffWritten = w at *
    have hst := w.stTo_frame 0
    have hstnv : (w.stTo 0).nv = w.nv := hst.part .nv
    generalize w.stTo 0 = x at *
    have hxcur : x.nv.cur = none := by rw [hstnv, hwc, hcur ht]
    obtain ⟨k1, k2, k3, k4, k5, k6, k7, k8⟩ := Dev.powerOff_spec hxcur
    exact ⟨_, hexec, by rw [k6, hstnv, hwq, hqueue], k8, k7, ⟨fun _ => rfl, rfl⟩, fun _ => by rw [k6, hxcur],
      fun hc => absurd (ht.symm.trans hc) Bool.false_ne_true,
      fun hc => hc.elim (fun hc => absurd (hc.symm.trans hp) Bool.false_ne_true) (fun hc => absurd (ht.symm.trans hc) Bool.false_ne_true), fun _ _ => ⟨k1, k2, k3, k4, k5⟩⟩
  · have hor : s.dev.pm.p4 = false ∨ s.dev.nv.tripped = true := by
      cases h1 : s.dev.pm.p4 <;> cases h2 : s.dev.nv.tripped <;> simp_all
    have hframe := s.fresh.dev.workGone_frame
    rw [Dev.p3Halt_on (s := s.fresh.dev) h hor] at hexec
    generalize s.fresh.dev.workGone = u at *
    have hst := u.stTo_frame 0
    have hstate := u.stTo_state (st := 0) (by decide)
    have hstnv : (u.stTo 0).nv = u.nv := hst.part .nv
    have hstmbx : (u.stTo 0).mbx = u.mbx := hst.part .mbx
    generalize u.stTo 0 = x at *
    exact ⟨_, hexec, (congrArg Nv.queue hstnv).trans hqueue, hstate, hstmbx.trans hmbx, ⟨fun _ => rfl, rfl⟩,
      fun ht => (congrArg Nv.cur hstnv).trans (hcur ht), fun ht => hstnv.trans (hnv ht),
      fun _ => ⟨rfl, (((hframe.mono (w' := [0, 16]) (l' := [.nv, .bm, .pm, .mbx, .freeCtr])).then hst).setPm _).only⟩,
      fun hp4 ht => absurd ⟨hp4, ht⟩ hp⟩

end Sys2Proof.Proofs
end

section
-- One proof after another: in parallel the proofs of this text would not fit the memory that its check allows.
set_option Elab.async false
/-!
PROOFS. The core goes off at the slow-clock edge (02 R51, 14 R324, R325); the way down to P3 and P4 as a whole.
-/
namespace Sys2Proof.Machine

theorem Dev.fsStat_frame (s : Dev) : Dev.Frame [10] [] s s.fsStat := ((Dev.Frame.refl _ _ s).wr _ _).wr _ _

theorem Dev.deFirstUse_frame (s : Dev) : Dev.Frame [] [.de] s s.deFirstUse := (Dev.Frame.refl _ _ s).de _

theorem Dev.bankCleared_tb (s : Dev) (b : Bool) : (((s.setPlan b none).setDescs b []).setCal b []).tb = s.tb := by
  cases b <;> rfl

theorem Dev.toState_gl (st : Nat) (s : Dev) : (s.toState st).on F.GL_STAT_STAGED = s.on F.GL_STAT_STAGED := by
  rw [Dev.toState_eq]
  split
  · rfl
  · refine congrArg (· == 1) ?_
    rw [Dev.glSync_rd _ F.GL_STAT_STAGED, Dev.inhShown_rd _ F.GL_STAT_STAGED]
    exact (s.stateSet_frame st).rd _

/-- The core is off, the staged plan with it. -/
def Dev.coreGone (s : Dev) : Dev :=
  ((((((s.wrB F.GL_STAT_STAGED false).fsStat).deFirstUse.staleSync).toState 3).setPm (fun p => { p with p3 := .off })).coreEn false)

theorem Dev.coreGone_spec (s : Dev) : s.coreGone.pm.p3 = .off ∧ s.coreGone.rd F.PM_STAT_STATE = 3 ∧ s.coreGone.pins.coreEn = false ∧
    s.coreGone.on F.GL_STAT_STAGED = false ∧ s.coreGone.st = s.st ∧ s.coreGone.mbx = s.mbx ∧ s.coreGone.tb = s.tb := by
  have hoff : (s.wrB F.GL_STAT_STAGED false).on F.GL_STAT_STAGED = false := Dev.on_wrB_self _ _ _ rfl rfl
  have hwr : Dev.Frame [11] [] s (s.wrB F.GL_STAT_STAGED false) := (Dev.Frame.refl _ _ s).wrB _ _
  unfold Dev.coreGone
  generalize s.wrB F.GL_STAT_STAGED false = u at *
  have hu : Dev.Frame [10, 12] [.de, .evq, .fc] u u.fsStat.deFirstUse.staleSync :=
    (((u.fsStat_frame.mono (w' := [10, 12]) (l' := [.de, .evq, .fc])).then (Dev.deFirstUse_frame _)).then (Dev.staleSync_frame _))
  generalize u.fsStat.deFirstUse.staleSync = w at *
  have hw := w.toState_frame 3
  have hstate := w.toState_rd (st := 3) (by decide)
  have hgl := w.toState_gl 3
  generalize w.toState 3 = x at *
  refine ⟨rfl, hstate, rfl, ?_, ?_, ?_, ?_⟩
  · exact hgl.trans ((hu.on F.GL_STAT_STAGED).trans hoff)
  · exact (show x.st = s.st by rw [hw.part .st, hu.part .st, hwr.part .st])
  · exact (show x.mbx = s.mbx by rw [hw.part .mbx, hu.part .mbx, hwr.part .mbx])
  · exact (show x.tb = s.tb by rw [hw.part .tb, hu.part .tb, hwr.part .tb])

theorem Dev.slowClock_eq {s : Dev} (h : s.pm.p3 = .halted) (h4 : s.pm.p4 = false) (ns : Nat) (frac : Word) :
    ∃ d : Dev, s.slowClock ns frac = d.coreGone ∧ d.st = {} ∧ d.mbx = [] ∧ d.tb.uncE = s.reg R.TB_UNC := by
  unfold Dev.slowClock
  rw [if_neg (by simp [h, h4])]
  extract_lets sec u v b w keep x y
  have hu : u.reg R.TB_UNC = s.reg R.TB_UNC :=
    (Dev.Frame.when (w := []) (l := []) s.tb.ppsOut (·.send (.pin "PPS_OUT" false)) s ((Dev.Frame.refl _ _ s).send _)).within _ List.not_mem_nil
  clear_value u
  have hv : v.tb.uncE = u.reg R.TB_UNC := rfl
  clear_value v
  have hw : w.tb = v.tb := by
    show Dev.tb (if _ then _ else _) = v.tb
    split
    · exact v.bankCleared_tb b
    · rfl
  clear_value w
  have hunc : w.tb.uncE = s.reg R.TB_UNC := (congrArg Tb.uncE hw).trans (hv.trans hu)
  exact ⟨_, rfl, rfl, rfl, hunc⟩

end Sys2Proof.Machine

namespace Sys2Proof.Proofs
open Sys2Proof.Machine

/-- The slow-clock edge in P3. -/
theorem slowClockOff {s : State} (hrun : Running s) (ns : BitVec 30) (frac : Word) (h : s.dev.pm.p3 = .halted) (h4 : s.dev.pm.p4 = false) :
    ∃ t, exec (.p3SlowClock ns frac) s = .next t ∧ t.dev.pm.p3 = .off ∧ t.dev.rd F.PM_STAT_STATE = 3 ∧
      t.dev.pins.coreEn = false ∧ t.dev.on F.GL_STAT_STAGED = false ∧ t.dev.st = {} ∧ t.dev.mbx = [] ∧
      t.dev.tb.uncE = s.dev.reg R.TB_UNC ∧ KeepsMem s t := by
  have hexec : exec (.p3SlowClock ns frac) s = .next { s with dev := s.fresh.dev.slowClock ns.toNat frac } := State.onDev_next s _ hrun
  obtain ⟨d, hd, hst, hmbx, hunc⟩ := Dev.slowClock_eq (s := s.fresh.dev) h h4 ns.toNat frac
  obtain ⟨k1, k2, k3, k4, k5, k6, k7⟩ := d.coreGone_spec
  rw [hd] at hexec
  exact ⟨_, hexec, k1, k2, k3, k4, k5.trans hst, k6.trans hmbx, (congrArg Tb.uncE k7).trans hunc, fun _ => rfl, rfl⟩

/-- Settles O45: pm.set by what is against it and by the state it asks for; then each step of the way down by its own law. -/
theorem powerStates : Obligations.PowerStates := by
  intro s hrun
  refine ⟨fun mb m want i hi hasked => ⟨?_, ?_⟩, fun h hs => ?_, fun h hn => ?_, fun h => stewardsHalt hrun h, fun ns frac h => ⟨fun h4 => ?_, fun h4 => ?_⟩⟩
  · intro o pm plan th gl r hr
    exact pmSet_refusals hrun hi hasked hr
  · intro o hseq ho h2 hmin hmin2 hth op faster
    obtain ⟨hpm, hplan⟩ := pmSet_unopposed (s := s) (m := m) (want := want) hseq ho h2 hmin hmin2
    exact ⟨fun hw => pmSet_requests hrun hi hasked hpm hplan hth hw, fun hw hpend => pmSet_retains hrun hi hasked hpm hplan hth hw hpend⟩
  · obtain ⟨d, hd, k1, k2, k3, k4, k5, k6⟩ := Dev.p3Hold_spec (s := s.fresh.dev) h hs
    have hexec : exec .p3HoldSend s = .next { s with dev := s.fresh.dev.p3Hold } := State.onDev_next s _ hrun
    rw [hd] at hexec
    exact ⟨_, hexec, k1, k2, k3, k4, k5, k6.only⟩
  · obtain ⟨d, hd, k1, k2, k3, k4, k5, k6, k7⟩ := Dev.p3Idle_spec (s := s.fresh.dev) h hn
    have hexec : exec .p3ElectricalIdle s = .next { s with dev := s.fresh.dev.p3Idle } := State.onDev_next s _ hrun
    rw [hd] at hexec
    exact ⟨_, hexec, k1, k2, k3, k4, k5, k6, k7.only⟩
  · have hexec : exec (.p3SlowClock ns frac) s = .next { s with dev := s.fresh.dev.slowClock ns.toNat frac } := State.onDev_next s _ hrun
    have hself : s.fresh.dev.slowClock ns.toNat frac = s.fresh.dev := if_pos (.inr h4)
    rw [hexec, hself]
    rfl
  · exact slowClockOff hrun ns frac h h4

end Sys2Proof.Proofs
end

section
-- One proof after another: in parallel the proofs of this text would not fit the memory that its check allows.
set_option Elab.async false
/-!
PROOFS. What the time base's changes of state, its uncertainty and its addend leave alone (02 R41 to R49).
-/
namespace Sys2Proof.Machine

/-- The registers of the sample index, of the slow clock's increment, and of the wakes counted. -/
def timeRegs : List Nat := [R.TB_SAMPLE_LO, R.TB_SAMPLE_LO + 4, R.TB_AON_INC_LO, R.TB_AON_INC_LO + 4, R.PM_WAKES]

/-- The sample index and what else a change of the time base's own state leaves: the power manager but for its answer, the engines, why
a vat is held, and the event of a wake without PTP. -/
structure Dev.TimeKept (s t : Dev) : Prop where
  regs : ∀ off ∈ timeRegs, t.reg off = s.reg off
  noptp : s.on F.TB_EVT_WAKE_NOPTP = true → t.on F.TB_EVT_WAKE_NOPTP = true
  pm : ∃ m, t.pm = { s.pm with mb := m }
  le : t.le = s.le
  holds : ∀ v, v < 64 → (t.vat v).holds = (s.vat v).holds

namespace Dev.TimeKept

theorem refl (s : Dev) : Dev.TimeKept s s := ⟨fun _ _ => rfl, id, ⟨_, rfl⟩, rfl, fun _ _ => rfl⟩

theorem trans {s t u : Dev} (h : Dev.TimeKept s t) (k : Dev.TimeKept t u) : Dev.TimeKept s u := by
  obtain ⟨m, hm⟩ := k.pm
  obtain ⟨m', hm'⟩ := h.pm
  exact ⟨fun off ho => (k.regs off ho).trans (h.regs off ho), fun hs => k.noptp (h.noptp hs), ⟨m, by rw [hm, hm']⟩, k.le.trans h.le,
    fun v hv => (k.holds v hv).trans (h.holds v hv)⟩

theorem now {s t : Dev} (h : Dev.TimeKept s t) : t.now = s.now := by
  rw [Dev.now, Dev.now, Dev.rd2, Dev.rd2, h.regs _ (by decide), h.regs _ (by decide)]

theorem aonInc {s t : Dev} (h : Dev.TimeKept s t) : t.rd2 R.TB_AON_INC_LO = s.rd2 R.TB_AON_INC_LO := by
  rw [Dev.rd2, Dev.rd2, h.regs _ (by decide), h.regs _ (by decide)]

theorem wakes {s t : Dev} (h : Dev.TimeKept s t) : t.rd F.PM_WAKES = s.rd F.PM_WAKES := by
  rw [Dev.rd, Dev.rd, h.regs _ (by decide)]

/-- What keeps to other windows and parts. -/
theorem of_frame {w : List Nat} {l : List Part} {s t : Dev} (h : Dev.Frame w l s t) (hw : 5 ∉ w := by decide) (hw' : 19 ∉ w := by decide)
    (hpm : Part.pm ∉ l := by decide) (hle : Part.le ∉ l := by decide) (hvl : Part.vl ∉ l := by decide) : Dev.TimeKept s t := by
  have hout : ∀ off ∈ timeRegs, blockOf off = 5 ∨ blockOf off = 19 := by decide
  refine ⟨fun off ho => h.within off ?_, fun hs => (h.on F.TB_EVT_WAKE_NOPTP hw).trans hs, ⟨s.pm.mb, h.part .pm hpm⟩, h.part .le hle, fun v _ => ?_⟩
  · rcases hout off ho with hb | hb <;> rw [hb] <;> assumption
  · rw [Dev.vat, h.part .vl hvl, Dev.vat]

/-- A field of another register is written. -/
theorem wr {s t : Dev} (h : Dev.TimeKept s t) (f : Fld) (v : Nat) (hf : f.reg ∉ timeRegs := by decide) (he : f.reg ≠ R.TB_EVT := by decide) :
    Dev.TimeKept s (t.wr f v) := by
  refine h.trans ⟨fun off ho => Dev.reg_wr_ne t (fun e => hf (e ▸ ho)) v, fun hs => ?_, ⟨_, rfl⟩, rfl, fun _ _ => rfl⟩
  have hreg : (t.wr f v).reg F.TB_EVT_WAKE_NOPTP.reg = t.reg F.TB_EVT_WAKE_NOPTP.reg := Dev.reg_wr_ne t he v
  rw [← hs, Dev.on, Dev.on, Dev.rd, Dev.rd, hreg]

theorem wrB {s t : Dev} (h : Dev.TimeKept s t) (f : Fld) (b : Bool) (hf : f.reg ∉ timeRegs := by decide) (he : f.reg ≠ R.TB_EVT := by decide) :
    Dev.TimeKept s (t.wrB f b) := h.wr f _ hf he

/-- Another event of the time base. -/
theorem event {s t : Dev} (h : Dev.TimeKept s t) (f : Fld) (hf : f.reg = R.TB_EVT := by decide) (hfit : f.fits = true := by decide)
    (ha : f.apart F.TB_EVT_WAKE_NOPTP = true := by decide) : Dev.TimeKept s (t.event f) := by
  have hk := Dev.Keeps.event t f
  refine h.trans ⟨fun off ho => Dev.reg_event_ne t ?_, fun hs => ?_, ⟨t.pm.mb, hk .pm (by decide)⟩, hk .le (by decide), fun v _ => ?_⟩
  · have hne : ∀ o ∈ timeRegs, R.TB_EVT ≠ o := by decide
    rw [hf]
    exact hne off ho
  · rw [Dev.on, Dev.rd_event_apart _ _ _ hfit ha]
    exact hs
  · rw [Dev.vat, show (t.event f).vl = t.vl from hk .vl (by decide), Dev.vat]

theorem setTb {s t : Dev} (h : Dev.TimeKept s t) (f : Tb → Tb) : Dev.TimeKept s (t.setTb f) :=
  h.trans ⟨fun _ _ => rfl, id, ⟨_, rfl⟩, rfl, fun _ _ => rfl⟩

theorem send {s t : Dev} (h : Dev.TimeKept s t) (x : Tx) : Dev.TimeKept s (t.send x) :=
  h.trans ⟨fun _ _ => rfl, id, ⟨_, rfl⟩, rfl, fun _ _ => rfl⟩

end Dev.TimeKept

theorem Dev.pmCheck_reg (s : Dev) {off : Nat} (h : off ≠ R.PM_STAT) (hw : blockOf off ∉ laneWindows) : s.pmCheck.reg off = s.reg off := by
  rw [Dev.pmCheck_eq, Dev.reg_wrB_ne _ (Ne.symm h)]
  exact (s.openGate.pmAnswer_frame.within off List.not_mem_nil).trans (s.openGate_frame.within off hw)

namespace Dev.TimeKept

theorem pmCheck (s : Dev) : Dev.TimeKept s s.pmCheck := by
  have hout : ∀ off ∈ timeRegs, off ≠ R.PM_STAT ∧ blockOf off ∉ laneWindows := by decide
  exact ⟨fun off ho => s.pmCheck_reg (hout off ho).1 (hout off ho).2, fun hs => (s.pmCheck_on _).trans hs, s.pmCheck_pm,
    s.pmCheck_frame.part .le, fun v hv => (Dev.HoldKept.pmCheck s hv).holds⟩

theorem stepSync {s t : Dev} (h : Dev.TimeKept s t) : Dev.TimeKept s t.stepSync := h.wrB _ _

theorem setAddend {s t : Dev} (h : Dev.TimeKept s t) (a : BitVec 40) : Dev.TimeKept s (t.setAddend a) := (h.setTb _).wr _ _

theorem growthIn {s t : Dev} (h : Dev.TimeKept s t) : Dev.TimeKept s t.growthIn := h.setTb _

theorem hoClear (s : Dev) : Dev.TimeKept s s.hoClear := by
  unfold Dev.hoClear
  split
  · exact (((refl s).wrB _ _).wrB _ _).trans (.pmCheck _)
  · exact refl s

theorem hoExceed (u : Nat) (s : Dev) : Dev.TimeKept s (s.hoExceed u) := by
  have hraise (d : Dev) : Dev.TimeKept d (d.raise 0x0503 2 (srcWord 5) u) := ⟨fun _ _ => rfl, id, ⟨_, rfl⟩, rfl, fun _ _ => rfl⟩
  have hbase : Dev.TimeKept s ((((s.wrB F.TB_STAT_HO_EXCEED true).event F.TB_EVT_HO_EXCEED).raise 0x0503 2 (srcWord 5) u).setTb (fun t => { t with okCnt := 0 })) :=
    ((((refl s).wrB _ _).event _).trans (hraise _)).setTb _
  unfold Dev.hoExceed
  dsimp only
  generalize ((((s.wrB F.TB_STAT_HO_EXCEED true).event F.TB_EVT_HO_EXCEED).raise 0x0503 2 (srcWord 5) u).setTb (fun t => { t with okCnt := 0 })) = d at *
  split
  · exact (hbase.wrB _ _).trans (.pmCheck _)
  · exact hbase

theorem tbTo (st : Nat) (s : Dev) : Dev.TimeKept s (s.tbTo st) := by
  unfold Dev.tbTo
  split
  · exact refl s
  · extract_lets a b c d
    have ha : Dev.TimeKept s a := by
      show Dev.TimeKept s (if _ then _ else _)
      split
      · exact (refl s).setTb _
      · exact refl s
    clear_value a
    have hb : Dev.TimeKept s b := (((ha.wr _ _).event _).setTb _).stepSync
    clear_value b
    have hc : Dev.TimeKept s c := by
      show Dev.TimeKept s (if _ then _ else _)
      split
      · exact hb.setTb _
      · exact hb
    clear_value c
    have hd : Dev.TimeKept s d := by
      show Dev.TimeKept s (if _ then _ else _)
      split
      · exact (hc.wr _ _).trans (.hoClear _)
      · exact hc
    clear_value d
    split
    · exact (hd.setTb _).send _
    · exact hd

theorem holdover (s : Dev) : Dev.TimeKept s s.holdover := by
  unfold Dev.holdover
  dsimp only
  exact (((((refl s).growthIn).trans (.tbTo 3 _)).wr _ _).setTb _).setAddend _

theorem sourceGone (s : Dev) : Dev.TimeKept s s.sourceGone := by
  unfold Dev.sourceGone
  split
  · exact .holdover s
  · exact refl s

theorem tbUnc (s : Dev) : Dev.TimeKept s s.tbUnc := by
  unfold Dev.tbUnc
  extract_lets u a low st n a' b m b'
  have ha : Dev.TimeKept s a := ((refl s).wr _ _).setTb _
  clear_value a
  have hb : Dev.TimeKept s b := by
    show Dev.TimeKept s (if _ then _ else if _ then _ else if _ then _ else _)
    split
    · exact ha
    · split
      · split
        · exact (ha.setTb _).trans (.hoClear _)
        · exact ha.setTb _
      · split
        · exact ha.trans (.hoExceed _ _)
        · exact ha
  clear_value b
  split
  · split
    · exact (((hb.setTb _).setTb _).wrB _ _).trans (.pmCheck _)
    · exact hb.setTb _
  · exact hb

theorem srcMove (old new : Nat) (s : Dev) : Dev.TimeKept s (s.srcMove old new) := by
  unfold Dev.srcMove
  split
  · exact refl s
  · extract_lets st a
    have ha : Dev.TimeKept s a := (refl s).setTb _
    clear_value a
    split
    · split
      · exact ha.trans (.tbTo _ _)
      · exact ha.trans (.sourceGone _)
    · split
      · exact ha
      · split
        · exact ha.trans (.tbTo _ _)
        · exact ha.trans (.sourceGone _)

end Dev.TimeKept

end Sys2Proof.Machine
end

section
-- One proof after another: in parallel the proofs of this text would not fit the memory that its check allows.
set_option Elab.async false
/-!
PROOFS. The steps of a wake up to its measurement, and the wake fault (14 R326 to R328).
-/
namespace Sys2Proof.Machine

/-! ### The wake begins (14 R326) -/

/-- The voltage of OP2 is written, and the wake waits for its supply. -/
def Pm.waking (attempt : Nat) (p : Pm) : Pm := { p with wake := .supply, attempt := attempt, avsTgt := some 2, avsLast := 2 }

/-- The core is enabled. -/
def Pins.coreOn (p : Pins) : Pins := { p with coreEn := true }

theorem Dev.drive_frame (s : Dev) (n : String) (b : Bool) (f : Pins → Pins) : Dev.Frame [] [.pins] s (s.drive n b f) :=
  ((Dev.Frame.refl _ _ s).send _).pins _

theorem Dev.drive_pins (s : Dev) (n : String) (b : Bool) (f : Pins → Pins) : (s.drive n b f).pins = f s.pins := rfl

theorem Dev.coreEn_on (s : Dev) : (s.coreEn true).pins = s.pins.coreOn := by
  rw [Dev.coreEn, Dev.drive_pins, Bool.and_true]
  rfl

theorem Dev.wakeBegin_frame (s : Dev) (attempt : Nat) : Dev.Frame [] [.pm, .pins] s (s.wakeBegin attempt) :=
  (((Dev.drive_frame s "CORE_EN" true _).mono (w' := []) (l' := [.pm, .pins])).send _).setPm _

theorem Dev.wakeBegin_spec (s : Dev) (attempt : Nat) : (s.wakeBegin attempt).pm = s.pm.waking attempt ∧
    (s.wakeBegin attempt).pins = s.pins.coreOn ∧ Tx.avsWrite (s.opv 2) ∈ (s.wakeBegin attempt).tx := by
  have hpins := s.coreEn_on
  have hpm : (s.coreEn true).pm = s.pm := (Dev.drive_frame s "CORE_EN" true _).part .pm
  unfold Dev.wakeBegin
  generalize s.coreEn true = u at *
  generalize s.opv 2 = mv
  exact ⟨congrArg (Pm.waking attempt) hpm, hpins, List.mem_append_right _ List.mem_cons_self⟩

/-- Unless it is the host's link that wakes the block, PCIE_WAKE_N goes low. -/
def Dev.wakeTold (m : Nat) (s : Dev) : Dev := if m = 8 then s else s.drive "PCIE_WAKE_N" false (fun p => { p with wakeN := false })

theorem Dev.wakeTold_frame (m : Nat) (s : Dev) : Dev.Frame [] [.pins] s (s.wakeTold m) := by
  unfold Dev.wakeTold
  split
  · exact .refl _ _ s
  · exact Dev.drive_frame s _ _ _

theorem Dev.wakeTold_wakeN (m : Nat) (s : Dev) : (s.wakeTold m).pins.wakeN = if m = 8 then s.pins.wakeN else false := by
  unfold Dev.wakeTold
  split
  · rfl
  · rfl

theorem Dev.wakeSource_eq {s : Dev} {mask lanes ticks : Nat} (h : s.pm.p3 = .off) (hw : s.pm.wake = .none) (h4 : s.rd F.PM_STAT_STATE ≠ 4)
    (hm : (s.tickTo ticks).wakeSeen mask lanes &&& (s.reg R.PM_WAKE_CFG).toNat % 32 ≠ 0) : s.wakeSource mask lanes ticks =
      (((s.tickTo ticks).wr F.PM_WAKE_STAT_SRCMASK ((s.tickTo ticks).wakeSeen mask lanes &&& (s.reg R.PM_WAKE_CFG).toNat % 32)).wakeTold
        ((s.tickTo ticks).wakeSeen mask lanes &&& (s.reg R.PM_WAKE_CFG).toNat % 32)).wakeBegin 1 := by
  unfold Dev.wakeSource
  dsimp only
  have hpm : (s.tickTo ticks).pm = s.pm := rfl
  rw [if_neg (by simp [h, h4]), if_neg (by simp [hw, hm])]
  rfl

/-- The supply is there: the wake goes on to its clocks. -/
def Dev.supplied (s : Dev) : Dev :=
  { (s.wr F.PM_STAT_VOP 2).setPm (fun p => { p with wake := .clocks }) with pins := { s.pins with corePg := true } }

theorem Dev.supplied_keeps (s : Dev) : Dev.Keeps [.pm, .pins] s s.supplied := (((Dev.Frame.refl [19] [.pm, .pins] s).wr _ _).setPm _ |>.pins _).keeps

theorem Dev.supplied_regs (s : Dev) : s.supplied.regs = (s.wr F.PM_STAT_VOP 2).regs := by
  have hset (d : Dev) (f : Pm → Pm) (x : Pins) : ({ d.setPm f with pins := x } : Dev).regs = d.regs := rfl
  exact hset _ _ _

theorem Dev.supplyReady_eq {s : Dev} (h : s.pm.wake = .supply) (ha : s.pm.avsTgt = none) : s.supplyReady = s.supplied :=
  if_pos ⟨h, by rw [ha]; rfl⟩

end Sys2Proof.Machine

namespace Sys2Proof.Proofs
open Sys2Proof.Machine

theorem wakeSource_wakes {s : State} (hrun : Running s) (mask : BitVec 5) (lanes : BitVec 128) (ticks : BitVec 64) (h : s.dev.pm.p3 = .off)
    (hw : s.dev.pm.wake = .none) (h4 : s.dev.rd F.PM_STAT_STATE ≠ 4) {m : Nat}
    (hm : m = (s.dev.tickTo ticks.toNat).wakeSeen mask.toNat lanes.toNat &&& (s.dev.reg R.PM_WAKE_CFG).toNat % 32) (h0 : m ≠ 0) :
    ∃ t, exec (.wakeSource mask lanes ticks) s = .next t ∧ t.dev.rd F.PM_WAKE_STAT_SRCMASK = m ∧ t.dev.pins.coreEn = true ∧
      t.dev.pins.wakeN = (if m = 8 then s.dev.pins.wakeN else false) ∧ Tx.avsWrite (s.dev.opv 2) ∈ t.dev.tx ∧
      t.dev.pm = { s.dev.pm with wake := .supply, attempt := 1, avsTgt := some 2, avsLast := 2 } ∧ Only [19] [.pm, .pins, .tb] s t := by
  have hexec : exec (.wakeSource mask lanes ticks) s = .next { s with dev := s.fresh.dev.wakeSource mask.toNat lanes.toNat ticks.toNat } :=
    State.onDev_next s _ hrun
  have hlt : m < 32 := by
    rw [hm]
    exact lt_of_le_of_lt Nat.and_le_right (Nat.mod_lt _ (by decide))
  have hmf : (s.fresh.dev.tickTo ticks.toNat).wakeSeen mask.toNat lanes.toNat &&& (s.fresh.dev.reg R.PM_WAKE_CFG).toNat % 32 = m := hm.symm
  rw [Dev.wakeSource_eq (s := s.fresh.dev) h hw h4 (by rw [hmf]; exact h0), hmf] at hexec
  have hwr : Dev.Frame [19] [.tb] s.fresh.dev ((s.fresh.dev.tickTo ticks.toNat).wr F.PM_WAKE_STAT_SRCMASK m) := ((Dev.Frame.refl _ _ _).tb _).wr _ _
  have hmask : ((s.fresh.dev.tickTo ticks.toNat).wr F.PM_WAKE_STAT_SRCMASK m).rd F.PM_WAKE_STAT_SRCMASK = m :=
    (Dev.rd_wr_self _ _ _ (by decide)).trans (Nat.mod_eq_of_lt hlt)
  have hopv : ((s.fresh.dev.tickTo ticks.toNat).wr F.PM_WAKE_STAT_SRCMASK m).opv 2 = s.dev.opv 2 :=
    Dev.opv_wr _ F.PM_WAKE_STAT_SRCMASK m 2
  generalize (s.fresh.dev.tickTo ticks.toNat).wr F.PM_WAKE_STAT_SRCMASK m = u at *
  have htold := u.wakeTold_frame m
  have hwakeN := u.wakeTold_wakeN m
  generalize u.wakeTold m = w at *
  have hbegin := w.wakeBegin_frame 1
  obtain ⟨hpm, hpins, htx⟩ := w.wakeBegin_spec 1
  generalize w.wakeBegin 1 = x at *
  have hwpm : w.pm = s.dev.pm := by
    rw [htold.part .pm, hwr.part .pm]
    rfl
  have hupins : u.pins = s.dev.pins := hwr.part .pins
  have hwopv : w.opv 2 = s.dev.opv 2 := by
    rw [← hopv]
    exact (htold.rd F.PM_OPV_2 List.not_mem_nil)
  refine ⟨_, hexec, ?_, ?_, ?_, ?_, ?_, (((hwr.mono (w' := [19]) (l' := [.pm, .pins, .tb])).then htold).then hbegin).only⟩
  · exact (hbegin.rd F.PM_WAKE_STAT_SRCMASK List.not_mem_nil).trans ((htold.rd F.PM_WAKE_STAT_SRCMASK List.not_mem_nil).trans hmask)
  · exact congrArg Pins.coreEn hpins
  · rw [← hupins, ← hwakeN]
    exact (congrArg Pins.wakeN hpins : x.pins.wakeN = w.pins.coreOn.wakeN)
  · rw [← hwopv]
    exact htx
  · exact hpm.trans (congrArg (Pm.waking 1) hwpm)

theorem supplyReady_moves {s : State} (hrun : Running s) (h : s.dev.pm.wake = .supply) (ha : s.dev.pm.avsTgt = none) :
    ∃ t, exec .supplyReady s = .next t ∧ t.dev.pm = { s.dev.pm with wake := .clocks } ∧
    t.dev.pins = { s.dev.pins with corePg := true } ∧ Writes (s.dev.wr F.PM_STAT_VOP 2) [.pm, .pins] s t := by
  have hexec : exec .supplyReady s = .next { s with dev := s.fresh.dev.supplyReady } := State.onDev_next s _ hrun
  rw [Dev.supplyReady_eq (s := s.fresh.dev) h ha] at hexec
  have hfresh : Dev.Keeps [] s.dev s.fresh.dev := fun p _ => by cases p <;> rfl
  have hwr : Dev.Keeps [] s.dev (s.dev.wr F.PM_STAT_VOP 2) := (Dev.Keeps.wr s.dev F.PM_STAT_VOP 2)
  have hregs : Dev.RegsAs (s.dev.wr F.PM_STAT_VOP 2) s.fresh.dev.supplied := .of_regs s.fresh.dev.supplied_regs
  exact ⟨_, hexec, rfl, rfl, hregs, (hwr.symm.trans hfresh).all.trans s.fresh.dev.supplied_keeps, fun _ => rfl, rfl⟩

theorem wakeRetry_begins {s : State} (hrun : Running s) (h : s.dev.pm.wake = .retryWait) :
    ∃ t, exec .wakeRetry s = .next t ∧ t.dev.pm = { s.dev.pm with wake := .supply, attempt := 2, avsTgt := some 2, avsLast := 2 } ∧
    t.dev.pins = { s.dev.pins with coreEn := true } ∧ Writes s.dev [.pm, .pins] s t := by
  have hexec : exec .wakeRetry s = .next { s with dev := s.fresh.dev.wakeAgain } := State.onDev_next s _ hrun
  have hgo : s.fresh.dev.wakeAgain = s.fresh.dev.wakeBegin 2 := if_pos h
  rw [hgo] at hexec
  obtain ⟨hpm, hpins, -⟩ := s.fresh.dev.wakeBegin_spec 2
  have hframe := s.fresh.dev.wakeBegin_frame 2
  have hfresh : Dev.Keeps [.pm, .pins] s.dev s.fresh.dev := fun p _ => by cases p <;> rfl
  exact ⟨_, hexec, hpm, hpins, fun off => hframe.within off List.not_mem_nil, hfresh.trans hframe.keeps, fun _ => rfl, rfl⟩

end Sys2Proof.Proofs
end

section
-- One proof after another: in parallel the proofs of this text would not fit the memory that its check allows.
set_option Elab.async false
/-!
PROOFS. The clocks of a wake and its timeouts (14 R327, R328; 12 R295).
-/
namespace Sys2Proof.Machine

/-! ### The clocks are ready -/

/-- The slices of a point take effect at once. -/
def Dev.slicesTo (x : Nat) (s : Dev) : Dev := (s.slicePause x).slicesSwitch

/-- A mask of slices that the pause waits for. -/
def Bm.sliceFor (x : Option Nat) (b : Bm) : Bm := { b with sliceTo := x }

/-- No mask waits. -/
def Dev.slicesStay (s : Dev) : Dev := { s with bm := s.bm.sliceFor none }

theorem Dev.slicesTo_same {s : Dev} {x : Nat} (h : x = s.sliceEff) : s.slicesTo x = s.slicesStay.wrB F.BM_STAT_PAUSE false := by
  unfold Dev.slicesTo Dev.slicePause
  rw [if_pos h]
  rfl

/-- A mask waits for the pause. -/
def Dev.slicesWait (x : Nat) (s : Dev) : Dev := ({ s with bm := s.bm.sliceFor (some x) } : Dev).wrB F.BM_STAT_PAUSE true

/-- The mask takes effect. -/
def Dev.slicesTaken (x : Nat) (s : Dev) : Dev :=
  ((s.setReg R.BM_SLICE_EFF (BitVec.ofNat 32 x)).wrB F.BM_STAT_PAUSE false).slicesStay.event F.BM_EVT_SLICE_CHG

theorem Dev.slicesTo_other {s : Dev} {x : Nat} (h : x ≠ s.sliceEff) : s.slicesTo x = (s.slicesWait x).slicesTaken x := by
  unfold Dev.slicesTo Dev.slicePause
  rw [if_neg h]
  rfl

theorem Dev.slicesWait_frame (x : Nat) (s : Dev) : Dev.Frame [17] [.bm, .evq] s (s.slicesWait x) := ((Dev.Frame.refl _ _ s).bm _).wrB _ _

theorem Dev.slicesTaken_frame (x : Nat) (s : Dev) : Dev.Frame [17] [.bm, .evq] s (s.slicesTaken x) :=
  ((((Dev.Frame.refl [17] [.bm, .evq] s).setReg _ _).wrB _ _).bm _).event _

theorem Dev.slicesTaken_spec (x : Nat) (s : Dev) : (s.slicesTaken x).reg R.BM_SLICE_EFF = BitVec.ofNat 32 x ∧
    (s.slicesTaken x).on F.BM_EVT_SLICE_CHG = true ∧ (s.slicesTaken x).on F.BM_STAT_PAUSE = false ∧ (s.slicesTaken x).bm = s.bm.sliceFor none := by
  have hpause : ((s.setReg R.BM_SLICE_EFF (BitVec.ofNat 32 x)).wrB F.BM_STAT_PAUSE false).on F.BM_STAT_PAUSE = false := Dev.on_wrB_self _ _ _ rfl rfl
  have heff : ((s.setReg R.BM_SLICE_EFF (BitVec.ofNat 32 x)).wrB F.BM_STAT_PAUSE false).reg R.BM_SLICE_EFF = BitVec.ofNat 32 x :=
    (Dev.reg_wrB_ne _ (by decide) _).trans (Dev.reg_setReg_self _ _ _)
  have hbm : ((s.setReg R.BM_SLICE_EFF (BitVec.ofNat 32 x)).wrB F.BM_STAT_PAUSE false).bm = s.bm := rfl
  unfold Dev.slicesTaken
  generalize (s.setReg R.BM_SLICE_EFF (BitVec.ofNat 32 x)).wrB F.BM_STAT_PAUSE false = u at *
  have hstay : Dev.RegsAs u u.slicesStay := fun _ => rfl
  refine ⟨?_, Dev.on_event_self _ _ (by decide) rfl, ?_, ?_⟩
  · exact (Dev.reg_event_ne _ (by decide)).trans heff
  · rw [Dev.on, Dev.rd_event_apart _ _ _ rfl rfl]
    exact hpause
  · rw [← hbm]
    exact Dev.Keeps.event u.slicesStay _ .bm (by decide)

theorem Dev.slicesTo_spec (x : Nat) (s : Dev) : (s.slicesTo x).reg R.BM_SLICE_EFF = BitVec.ofNat 32 x ∧
    (x ≠ s.sliceEff → (s.slicesTo x).on F.BM_EVT_SLICE_CHG = true) ∧ (s.slicesTo x).on F.BM_STAT_PAUSE = false ∧
    (s.slicesTo x).bm = s.bm.sliceFor none ∧ Dev.Frame [17] [.bm, .evq] s (s.slicesTo x) := by
  by_cases h : x = s.sliceEff
  · rw [Dev.slicesTo_same h]
    refine ⟨?_, fun hn => absurd h hn, Dev.on_wrB_self _ _ _ rfl rfl, rfl, ((Dev.Frame.refl _ _ s).bm _).wrB _ _⟩
    have hreg : (s.slicesStay.wrB F.BM_STAT_PAUSE false).reg R.BM_SLICE_EFF = s.reg R.BM_SLICE_EFF := Dev.reg_wrB_ne s.slicesStay (by decide) false
    rw [hreg, h, Dev.sliceEff, BitVec.ofNat_toNat, BitVec.setWidth_eq]
  · rw [Dev.slicesTo_other h]
    have hwait := s.slicesWait_frame x
    have hbm : (s.slicesWait x).bm = s.bm.sliceFor (some x) := rfl
    generalize s.slicesWait x = u at *
    obtain ⟨k1, k2, k3, k4⟩ := u.slicesTaken_spec x
    exact ⟨k1, fun _ => k2, k3, k4.trans (by rw [hbm]; rfl), hwait.trans (u.slicesTaken_frame x)⟩

/-- The change of point is over; a wake goes on to its measurement, and the bring-up has its core. -/
def Pm.clocked (p : Pm) : Pm :=
  { p with p3 := if p.p3 = .boot then .none else p.p3, wake := if p.p3 = .boot then .none else .measuring,
           opTgt := none, avsTgt := none, avsRetry := false, divider := false }

theorem Dev.clocksReady_eq {s : Dev} (h : s.pm.wake = .clocks) :
    s.clocksReady = ((s.opSet 2).slicesTo (s.sliceFor 2)).setPm Pm.clocked := by
  unfold Dev.clocksReady
  rw [if_pos h]
  rfl

/-! ### A step passes its timeout -/

/-- The timeout is shown and counted, and the core disabled. -/
def Dev.stepFailed (ticks r : Nat) (s : Dev) : Dev :=
  let s := (s.tickTo ticks).setPm (fun p => { p with avsTgt := none })
  (((s.wr F.PM_WAKE_STAT_REFUSER r).count F.PM_WAKE_FAILS).count (F.PM_REFUSE (r - 1))).coreEn false

/-- A retry is to come. -/
def Dev.wakeRetries (r : Nat) (s : Dev) : Dev :=
  (((s.raise 0x1303 1 (srcWord 19) r).event F.PM_EVT_WAKE_RETRY).powerEv 5 r).setPm (fun p => { p with wake := .retryWait })

/-- The wake fault is shown, and its record waits in the always-on domain. -/
def Dev.wakeFaulted (r : Nat) (s : Dev) : Dev :=
  ((((s.wrB F.PM_STAT_WAKEFLT true).wr F.PM_WAKE_STAT_RESULT 3).drive "PM_FAULT_N" false (fun p => { p with faultN := false })).shutAon 4 r)

/-- It is reported. -/
def Dev.wakeFaultTold (r : Nat) (s : Dev) : Dev :=
  (((s.raise 0x1304 3 (srcWord 19) r).event F.PM_EVT_WAKE_FAULT).powerEv 6 r).setPm (fun p => { p with wake := .none })

theorem Dev.wakeTimeout_eq {s : Dev} {ticks : Nat} (h : s.pm.p3 = .off) (hw : s.pm.wake = .supply ∨ s.pm.wake = .clocks) :
    s.wakeTimeout ticks = if (s.stepFailed ticks (if s.pm.wake = .supply then 6 else 7)).pm.attempt < 2 then
        (s.stepFailed ticks (if s.pm.wake = .supply then 6 else 7)).wakeRetries (if s.pm.wake = .supply then 6 else 7)
      else ((s.stepFailed ticks (if s.pm.wake = .supply then 6 else 7)).wakeFaulted (if s.pm.wake = .supply then 6 else 7)).wakeFaultTold
        (if s.pm.wake = .supply then 6 else 7) := if_pos ⟨h, hw⟩

theorem Dev.stepFailed_spec (ticks : Nat) {r : Nat} (hr : r = 6 ∨ r = 7) (s : Dev) : (s.stepFailed ticks r).pins.coreEn = false ∧
    (s.stepFailed ticks r).rd F.PM_WAKE_STAT_REFUSER = r ∧ (s.stepFailed ticks r).rd F.PM_WAKE_FAILS = min (s.rd F.PM_WAKE_FAILS + 1) 0xFFFFFFFF ∧
    (s.stepFailed ticks r).pm.attempt = s.pm.attempt ∧ Dev.Frame [19] [.pm, .pins, .tb] s (s.stepFailed ticks r) := by
  have hstart : Dev.Frame [19] [.pm, .pins, .tb] s ((s.tickTo ticks).setPm (fun p => { p with avsTgt := none })) := ((Dev.Frame.refl _ _ s).tb _).setPm _
  have hregs : Dev.RegsAs s ((s.tickTo ticks).setPm (fun p => { p with avsTgt := none })) := fun _ => rfl
  have hatt : ((s.tickTo ticks).setPm (fun p => { p with avsTgt := none })).pm.attempt = s.pm.attempt := rfl
  unfold Dev.stepFailed
  dsimp only
  generalize (s.tickTo ticks).setPm (fun p => { p with avsTgt := none }) = u at *
  have hcnt : (F.PM_REFUSE (r - 1)).reg ≠ F.PM_WAKE_STAT_REFUSER.reg ∧ (F.PM_REFUSE (r - 1)).reg ≠ F.PM_WAKE_FAILS.reg ∧
      blockOf (F.PM_REFUSE (r - 1)).reg ∈ [19] := by
    rcases hr with rfl | rfl <;> decide
  obtain ⟨hne, hne', hblk⟩ := hcnt
  have hcore (d : Dev) : (d.coreEn false).pins.coreEn = false ∧ (d.coreEn false).pm = d.pm ∧ Dev.Frame [] [.pins] d (d.coreEn false) :=
    ⟨rfl, rfl, Dev.drive_frame d _ _ _⟩
  obtain ⟨hoff, hpm, hframe⟩ := hcore (((u.wr F.PM_WAKE_STAT_REFUSER r).count F.PM_WAKE_FAILS).count (F.PM_REFUSE (r - 1)))
  refine ⟨hoff, ?_, ?_, (congrArg Pm.attempt hpm).trans hatt, ?_⟩
  · rw [hframe.rd _ List.not_mem_nil, Dev.rd, Dev.reg_count_ne _ hne, Dev.reg_count_ne _ (by decide)]
    refine (Dev.rd_wr_self u F.PM_WAKE_STAT_REFUSER r (by decide)).trans (Nat.mod_eq_of_lt (show r < 8 by omega))
  · rw [hframe.rd _ List.not_mem_nil, Dev.rd, Dev.reg_count_ne _ hne', ← Dev.rd, Dev.rd_count_self _ _ 1 rfl rfl, Dev.rd,
      Dev.reg_wr_ne _ (by decide), ← Dev.rd, hregs.rd]
    rfl
  · exact (((hstart.wr _ _).count _).count _ 1 hblk).then hframe

theorem Dev.shutAon_spec (s : Dev) (cause refuser : Nat) : (s.shutAon cause refuser).nv.aon.isSome = true ∧
    Dev.Frame [16] [.nv, .freeCtr] s (s.shutAon cause refuser) := by
  have hrec : Dev.Frame [16] [.nv, .freeCtr] s (s.shutRecord cause refuser).1 := (Dev.Frame.refl _ _ s).freeCtr _
  unfold Dev.shutAon
  generalize s.shutRecord cause refuser = r at *
  exact ⟨rfl, (hrec.nv _).wrB _ _⟩

theorem Dev.wakeRetries_spec (r : Nat) (s : Dev) : Dev.RegsAs (s.wr F.PM_EVT_WAKE_RETRY 1) (s.wakeRetries r) ∧
    (s.wakeRetries r).on F.PM_EVT_WAKE_RETRY = true ∧ (s.wakeRetries r).pm.wake = .retryWait ∧ Dev.Frame [19] [.fc, .evq, .pm] s (s.wakeRetries r) := by
  have hraise : Dev.RegsAs s (s.raise 0x1303 1 (srcWord 19) r) := fun _ => rfl
  have hframe : Dev.Frame [19] [.fc, .evq, .pm] s (s.raise 0x1303 1 (srcWord 19) r) := (Dev.Frame.refl _ _ s).raise _ _ _ _ _
  unfold Dev.wakeRetries
  generalize s.raise 0x1303 1 (srcWord 19) r = u at *
  exact ⟨hraise.event _, Dev.on_event_self u _ (by decide) rfl, rfl, ((hframe.event _).emit _).setPm _⟩

theorem Dev.wakeFaultTold_spec (r : Nat) (s : Dev) : Dev.RegsAs (s.wr F.PM_EVT_WAKE_FAULT 1) (s.wakeFaultTold r) ∧
    (s.wakeFaultTold r).on F.PM_EVT_WAKE_FAULT = true ∧ (s.wakeFaultTold r).pm.wake = .none ∧ Dev.Frame [19] [.fc, .evq, .pm] s (s.wakeFaultTold r) := by
  have hraise : Dev.RegsAs s (s.raise 0x1304 3 (srcWord 19) r) := fun _ => rfl
  have hframe : Dev.Frame [19] [.fc, .evq, .pm] s (s.raise 0x1304 3 (srcWord 19) r) := (Dev.Frame.refl _ _ s).raise _ _ _ _ _
  unfold Dev.wakeFaultTold
  generalize s.raise 0x1304 3 (srcWord 19) r = u at *
  exact ⟨hraise.event _, Dev.on_event_self u _ (by decide) rfl, rfl, ((hframe.event _).emit _).setPm _⟩

theorem Dev.wakeFaulted_spec (r : Nat) (s : Dev) : (s.wakeFaulted r).on F.PM_STAT_WAKEFLT = true ∧ (s.wakeFaulted r).rd F.PM_WAKE_STAT_RESULT = 3 ∧
    (s.wakeFaulted r).pins.faultN = false ∧ (s.wakeFaulted r).pins.coreEn = s.pins.coreEn ∧ (s.wakeFaulted r).nv.aon.isSome = true ∧
    (s.wakeFaulted r).rd F.PM_WAKE_STAT_REFUSER = s.rd F.PM_WAKE_STAT_REFUSER ∧ (s.wakeFaulted r).rd F.PM_WAKE_FAILS = s.rd F.PM_WAKE_FAILS ∧
    Dev.Frame [16, 19] [.pins, .nv, .freeCtr] s (s.wakeFaulted r) := by
  have hflt : ((s.wrB F.PM_STAT_WAKEFLT true).wr F.PM_WAKE_STAT_RESULT 3).on F.PM_STAT_WAKEFLT = true := by
    rw [Dev.on_wr_apart _ _ _ _ rfl rfl, Dev.on_wrB_self _ _ _ rfl rfl]
  have hres : ((s.wrB F.PM_STAT_WAKEFLT true).wr F.PM_WAKE_STAT_RESULT 3).rd F.PM_WAKE_STAT_RESULT = 3 := Dev.rd_wr_self _ _ _ rfl
  have hkeep (f : Fld) (h1 : F.PM_STAT_WAKEFLT.apart f = true) (h2 : F.PM_WAKE_STAT_RESULT.apart f = true) :
      ((s.wrB F.PM_STAT_WAKEFLT true).wr F.PM_WAKE_STAT_RESULT 3).rd f = s.rd f :=
    (Dev.rd_wr_apart _ _ _ _ rfl h2).trans (Dev.rd_wrB_apart _ _ _ _ rfl h1)
  have hframe : Dev.Frame [16, 19] [.pins, .nv, .freeCtr] s ((s.wrB F.PM_STAT_WAKEFLT true).wr F.PM_WAKE_STAT_RESULT 3) :=
    ((Dev.Frame.refl _ _ s).wrB _ _).wr _ _
  have hcore : ((s.wrB F.PM_STAT_WAKEFLT true).wr F.PM_WAKE_STAT_RESULT 3).pins = s.pins :=
    (((Dev.Frame.refl [19] [] s).wrB F.PM_STAT_WAKEFLT true).wr F.PM_WAKE_STAT_RESULT 3).part .pins
  unfold Dev.wakeFaulted
  generalize (s.wrB F.PM_STAT_WAKEFLT true).wr F.PM_WAKE_STAT_RESULT 3 = u at *
  have hdrive := u.drive_frame "PM_FAULT_N" false (fun p => { p with faultN := false })
  have hpins : (u.drive "PM_FAULT_N" false (fun p => { p with faultN := false })).pins.faultN = false ∧
      (u.drive "PM_FAULT_N" false (fun p => { p with faultN := false })).pins.coreEn = u.pins.coreEn := ⟨rfl, rfl⟩
  generalize u.drive "PM_FAULT_N" false (fun p => { p with faultN := false }) = w at *
  obtain ⟨haon, hshut⟩ := w.shutAon_spec 4 r
  have hall : Dev.Frame [16] [.pins, .nv, .freeCtr] u (w.shutAon 4 r) := (hdrive.mono (w' := [16])).then hshut
  have hwpins : (w.shutAon 4 r).pins = w.pins := hshut.part .pins
  refine ⟨(hall.on _).trans hflt, (hall.rd _).trans hres, (congrArg Pins.faultN hwpins).trans hpins.1, ?_, haon, ?_, ?_, hframe.then hall⟩
  · exact (congrArg Pins.coreEn hwpins).trans (hpins.2.trans (congrArg Pins.coreEn hcore))
  · exact (hall.rd _).trans (hkeep _ rfl rfl)
  · exact (hall.rd _).trans (hkeep _ rfl rfl)

end Sys2Proof.Machine

namespace Sys2Proof.Proofs
open Sys2Proof.Machine

theorem clocksReady_moves {s : State} (hrun : Running s) (h : s.dev.pm.wake = .clocks) :
    ∃ t, exec .clocksReady s = .next t ∧ t.dev.pm.opTgt = none ∧
    (s.dev.pm.p3 ≠ .boot → t.dev.pm.wake = .measuring ∧ t.dev.pm.p3 = s.dev.pm.p3) ∧
    (s.dev.pm.p3 = .boot → t.dev.pm.wake = .none ∧ t.dev.pm.p3 = .none) ∧
    t.dev.rd F.PM_STAT_OP = 2 ∧ t.dev.reg R.BM_SLICE_EFF = BitVec.ofNat 32 (s.dev.sliceFor 2) ∧
    (s.dev.sliceFor 2 ≠ s.dev.sliceEff → t.dev.on F.BM_EVT_SLICE_CHG = true) ∧ t.dev.bm = { s.dev.bm with sliceTo := none } ∧
    t.dev.on F.BM_STAT_PAUSE = false ∧ Only [17, 19, 21] [.pm, .evq, .th, .bm] s t := by
  have hexec : exec .clocksReady s = .next { s with dev := s.fresh.dev.clocksReady } := State.onDev_next s _ hrun
  rw [Dev.clocksReady_eq (s := s.fresh.dev) h] at hexec
  obtain ⟨hop, -⟩ := s.fresh.dev.opSet_spec (o := 2) (by decide)
  have hset := s.fresh.dev.opSet_frame 2
  have hfor : s.fresh.dev.sliceFor 2 = s.dev.sliceFor 2 := rfl
  have heff : (s.fresh.dev.opSet 2).sliceEff = s.dev.sliceEff := congrArg BitVec.toNat (hset.within R.BM_SLICE_EFF (by decide))
  rw [hfor] at hexec
  generalize s.fresh.dev.opSet 2 = u at *
  obtain ⟨k1, k2, k3, k4, k5⟩ := u.slicesTo_spec (s.dev.sliceFor 2)
  rw [heff] at k2
  generalize u.slicesTo (s.dev.sliceFor 2) = w at *
  have hpm : w.pm = s.dev.pm := by
    rw [k5.part .pm, hset.part .pm]
    rfl
  have hubm : u.bm = s.dev.bm := hset.part .bm
  have hwop : w.rd F.PM_STAT_OP = 2 := (k5.rd F.PM_STAT_OP).trans hop
  have hp3 : (Pm.clocked w.pm).p3 = if s.dev.pm.p3 = .boot then .none else s.dev.pm.p3 := by
    rw [hpm]
    rfl
  have hwake : (Pm.clocked w.pm).wake = if s.dev.pm.p3 = .boot then .none else .measuring := by
    rw [hpm]
    rfl
  refine ⟨_, hexec, rfl, fun hb => ⟨hwake.trans (if_neg hb), hp3.trans (if_neg hb)⟩, fun hb => ⟨hwake.trans (if_pos hb), hp3.trans (if_pos hb)⟩,
    hwop, k1, k2, ?_, k3, ((((hset.mono (w' := [17, 19, 21]) (l' := [.pm, .evq, .th, .bm])).then k5).setPm _).only)⟩
  exact k4.trans (congrArg (Bm.sliceFor none) hubm)

theorem wakeTimeout_fails {s : State} (hrun : Running s) (ticks : BitVec 64) (h : s.dev.pm.p3 = .off) (hw : s.dev.pm.wake = .supply ∨ s.dev.pm.wake = .clocks) :
    ∃ t, exec (.wakeStepTimeout ticks) s = .next t ∧ t.dev.pins.coreEn = false ∧
      t.dev.rd F.PM_WAKE_STAT_REFUSER = (if s.dev.pm.wake = .supply then 6 else 7) ∧
      t.dev.rd F.PM_WAKE_FAILS = min (s.dev.rd F.PM_WAKE_FAILS + 1) 0xFFFFFFFF ∧
      (s.dev.pm.attempt < 2 → t.dev.pm.wake = .retryWait ∧ t.dev.on F.PM_EVT_WAKE_RETRY = true) ∧
      (2 ≤ s.dev.pm.attempt → t.dev.pm.wake = .none ∧ t.dev.on F.PM_STAT_WAKEFLT = true ∧
        t.dev.rd F.PM_WAKE_STAT_RESULT = 3 ∧ t.dev.pins.faultN = false ∧ t.dev.on F.PM_EVT_WAKE_FAULT = true ∧
        t.dev.nv.aon.isSome = true) ∧
      Only [16, 19] [.pm, .pins, .evq, .fc, .freeCtr, .nv, .tb] s t := by
  have hexec : exec (.wakeStepTimeout ticks) s = .next { s with dev := s.fresh.dev.wakeTimeout ticks.toNat } := State.onDev_next s _ hrun
  rw [Dev.wakeTimeout_eq (s := s.fresh.dev) h hw] at hexec
  have hr : (if s.dev.pm.wake = .supply then 6 else 7) = 6 ∨ (if s.dev.pm.wake = .supply then 6 else 7) = 7 := by
    split
    · exact .inl rfl
    · exact .inr rfl
  rw [show s.fresh.dev.pm = s.dev.pm from rfl] at hexec
  generalize (if s.dev.pm.wake = .supply then 6 else 7) = r at *
  obtain ⟨hcore, hrefuser, hfails, hatt, hframe⟩ := s.fresh.dev.stepFailed_spec ticks.toNat hr
  generalize s.fresh.dev.stepFailed ticks.toNat r = u at *
  by_cases h2 : s.dev.pm.attempt < 2
  · rw [if_pos (by rw [hatt]; exact h2)] at hexec
    obtain ⟨hregs, hev, hwait, hret⟩ := u.wakeRetries_spec r
    have hpins : (u.wakeRetries r).pins = u.pins := hret.part .pins
    refine ⟨_, hexec, (congrArg Pins.coreEn hpins).trans hcore, ?_, ?_, fun _ => ⟨hwait, hev⟩, fun hc => absurd hc (Nat.not_le.mpr h2),
      ((hframe.mono (w' := [16, 19]) (l' := [.pm, .pins, .evq, .fc, .freeCtr, .nv, .tb])).then hret).only⟩
    · exact (hregs.rd _).trans ((Dev.rd_wr_apart _ _ _ _ rfl rfl).trans hrefuser)
    · exact (hregs.rd _).trans ((Dev.rd_wr_apart _ _ _ _ rfl rfl).trans hfails)
  · rw [if_neg (by rw [hatt]; exact h2)] at hexec
    obtain ⟨k1, k2, k3, k4, k5, k6, k7, k8⟩ := u.wakeFaulted_spec r
    generalize u.wakeFaulted r = w at *
    obtain ⟨hregs, hev, hnone, htold⟩ := w.wakeFaultTold_spec r
    have hpins : (w.wakeFaultTold r).pins = w.pins := htold.part .pins
    have hnv : (w.wakeFaultTold r).nv = w.nv := htold.part .nv
    have hkeep (f : Fld) (hf : F.PM_EVT_WAKE_FAULT.apart f = true) : (w.wakeFaultTold r).rd f = w.rd f := (hregs.rd f).trans (Dev.rd_wr_apart _ _ _ _ rfl hf)
    refine ⟨_, hexec, (congrArg Pins.coreEn hpins).trans (k4.trans hcore), (hkeep _ rfl).trans (k6.trans hrefuser), (hkeep _ rfl).trans (k7.trans hfails),
      fun hc => absurd hc h2, fun _ => ⟨hnone, ?_, (hkeep _ rfl).trans k2, (congrArg Pins.faultN hpins).trans k3, hev, ?_⟩,
      (((hframe.mono (w' := [16, 19]) (l' := [.pm, .pins, .evq, .fc, .freeCtr, .nv, .tb])).then k8).then htold).only⟩
    · exact (congrArg (· == 1) (hkeep F.PM_STAT_WAKEFLT rfl)).trans k1
    · exact (congrArg (fun n : Nv => n.aon.isSome) hnv).trans k5

end Sys2Proof.Proofs
end

section
-- One proof after another: in parallel the proofs of this text would not fit the memory that its check allows.
set_option Elab.async false
/-!
PROOFS. The host clears a wake fault (14 R328).
-/
namespace Sys2Proof.Machine

/-- The entry of PM_EVT in the register map. -/
def pmEvtSpec : RegSpec :=
  ⟨"PM_EVT", 0x130004, 0x0, 1, 0x0, 2, [rf 7 7 .w1c, rf 6 6 .w1c, rf 5 5 .w1c, rf 4 4 .w1c, rf 3 3 .w1c, rf 2 2 .w1c, rf 1 1 .w1c, rf 0 0 .w1c]⟩

theorem regAt_pmEvt : regAt R.PM_EVT = some pmEvtSpec := rfl

/-- A bit that clears where 1 is written. -/
theorem w1c_written (b old v : Nat) : (rf b b .w1c).written v old = setField old b 1 (old / 2 ^ b % 2 - (old / 2 ^ b % 2 &&& v / 2 ^ b % 2)) := by
  have h : b + 1 - b = 1 := by omega
  simp only [FieldSpec.written, rf, FieldSpec.take, h, pow_one]

theorem pmEvtSpec_fault (old v : Nat) (h : bit v 5 = true) : pmEvtSpec.written old v / 2 ^ 5 % 2 ^ 1 = 0 := by
  have hself (x : Nat) : (rf 5 5 .w1c).written v x / 2 ^ 5 % 2 ^ 1 = 0 := by
    have hv : v / 2 ^ 5 % 2 = 1 := by simpa [bit] using h
    rw [w1c_written, setField_get_self, hv, Nat.and_one_is_mod]
    omega
  have hlow (b x : Nat) (hb : b + 1 ≤ 5) : (rf b b .w1c).written v x / 2 ^ 5 % 2 ^ 1 = x / 2 ^ 5 % 2 ^ 1 := by
    rw [w1c_written]
    exact setField_get_above _ _ _ _ _ _ hb
  show (rf 0 0 .w1c).written v ((rf 1 1 .w1c).written v ((rf 2 2 .w1c).written v ((rf 3 3 .w1c).written v ((rf 4 4 .w1c).written v
    ((rf 5 5 .w1c).written v ((rf 6 6 .w1c).written v ((rf 7 7 .w1c).written v old))))))) / 2 ^ 5 % 2 ^ 1 = 0
  rw [hlow 0 _ (by decide), hlow 1 _ (by decide), hlow 2 _ (by decide), hlow 3 _ (by decide), hlow 4 _ (by decide), hself]

theorem Dev.store_pmEvt (v : Nat) (s : Dev) (h : bit v 5 = true) : (s.store R.PM_EVT v).on F.PM_EVT_WAKE_FAULT = false ∧
    Dev.Frame [19] [] s (s.store R.PM_EVT v) := by
  refine ⟨?_, ?_⟩
  · have hrd : (s.store R.PM_EVT v).rd F.PM_EVT_WAKE_FAULT = 0 := by
      show ((s.store R.PM_EVT v).reg R.PM_EVT).toNat / 2 ^ 5 % 2 ^ 1 = 0
      rw [Dev.store_reg_self regAt_pmEvt, BitVec.toNat_ofNat]
      have hfault := pmEvtSpec_fault (s.reg R.PM_EVT).toNat v h
      omega
    rw [Dev.on, hrd]
    rfl
  · rw [Dev.store_plain regAt_pmEvt rfl]
    exact (Dev.Frame.refl _ _ s).setReg _ _

theorem Dev.regPut_pmEvt (v : Nat) (s : Dev) : s.regPut R.PM_EVT v 0 0 =
    if s.on F.PM_EVT_WAKE_FAULT && !(s.store R.PM_EVT v).on F.PM_EVT_WAKE_FAULT then (s.store R.PM_EVT v).wakeFaultCleared else s.store R.PM_EVT v := by
  unfold Dev.regPut
  show Dev.putPm R.PM_EVT v s = _
  unfold Dev.putPm
  rfl

theorem Dev.wakeFaultCleared_spec (s : Dev) : s.wakeFaultCleared.on F.PM_STAT_WAKEFLT = false ∧
    s.wakeFaultCleared.on F.PM_EVT_WAKE_FAULT = s.on F.PM_EVT_WAKE_FAULT ∧ s.wakeFaultCleared.pins = { s.pins with faultN := true } ∧
    Dev.Frame [19] [.pins] s s.wakeFaultCleared := by
  have hoff : (s.wrB F.PM_STAT_WAKEFLT false).on F.PM_STAT_WAKEFLT = false := Dev.on_wrB_self _ _ _ rfl rfl
  have hev : (s.wrB F.PM_STAT_WAKEFLT false).on F.PM_EVT_WAKE_FAULT = s.on F.PM_EVT_WAKE_FAULT := Dev.on_wr_apart _ _ _ _ rfl rfl
  have hframe : Dev.Frame [19] [.pins] s (s.wrB F.PM_STAT_WAKEFLT false) := (Dev.Frame.refl _ _ s).wrB _ _
  have hpins : (s.wrB F.PM_STAT_WAKEFLT false).pins = s.pins := ((Dev.Frame.refl [19] [] s).wrB F.PM_STAT_WAKEFLT false).part .pins
  unfold Dev.wakeFaultCleared
  generalize s.wrB F.PM_STAT_WAKEFLT false = u at *
  have hdrive := u.drive_frame "PM_FAULT_N" true (fun p => { p with faultN := true })
  refine ⟨(hdrive.on _ List.not_mem_nil).trans hoff, (hdrive.on _ List.not_mem_nil).trans hev, ?_, hframe.then hdrive⟩
  rw [Dev.drive_pins, hpins]

end Sys2Proof.Machine

namespace Sys2Proof.Proofs
open Sys2Proof.Machine

theorem wakeFault_clears {s : State} (hrun : Running s) (via : Via) (v : Word) (hmay : MayWrite s via R.PM_EVT) (hon : s.dev.on F.PM_EVT_WAKE_FAULT = true) :
    ∃ t, exec (.wakeFaultClear via v) s = .next t ∧ t.dev.on F.PM_EVT_WAKE_FAULT = false ∧
      t.dev.on F.PM_STAT_WAKEFLT = false ∧ t.dev.pins = { s.dev.pins with faultN := true } ∧ Only [19, 21] [.pins, .bm] s t := by
  have hexec : exec (.wakeFaultClear via v) s = _ := hmay.writes hrun (setBit v.toNat 5)
  have h6 := Dev.t6_frame via R.PM_EVT true s.fresh.dev
  have hon6 : (s.fresh.dev.t6 via R.PM_EVT true).on F.PM_EVT_WAKE_FAULT = true := (h6.on _).trans hon
  have hpins6 : (s.fresh.dev.t6 via R.PM_EVT true).pins = s.dev.pins := h6.part .pins
  rw [Dev.regPut_pmEvt] at hexec
  generalize s.fresh.dev.t6 via R.PM_EVT true = u at *
  obtain ⟨hoff, hstore⟩ := u.store_pmEvt (setBit v.toNat 5) (bit_setBit_self _ _)
  generalize u.store R.PM_EVT (setBit v.toNat 5) = w at *
  rw [if_pos (by rw [hon6, hoff]; rfl)] at hexec
  obtain ⟨k1, k2, k3, k4⟩ := w.wakeFaultCleared_spec
  refine ⟨_, hexec, k2.trans hoff, k1, ?_, (((h6.mono (w' := [19, 21]) (l' := [.pins, .bm])).then hstore).then k4).only⟩
  rw [show ({ s with dev := w.wakeFaultCleared } : State).dev.pins = w.wakeFaultCleared.pins from rfl, k3, hstore.part .pins, hpins6]

end Sys2Proof.Proofs
end

section
-- One proof after another: in parallel the proofs of this text would not fit the memory that its check allows.
set_option Elab.async false
/-!
PROOFS. Time is carried over P3 and the engines are released on it (02 R51, R52; 14 R327, R330).
-/
namespace Sys2Proof.Machine

/-! ### The release of the engines -/

theorem Dev.wakeCheck_frame (s : Dev) : Dev.Frame [9] [.tw, .evq, .fc] s s.wakeCheck := by
  unfold Dev.wakeCheck
  split
  · exact .refl _ _ s
  · exact .each _ _ s fun d v _ => ((((Dev.Frame.refl [9] [.tw, .evq, .fc] d).tw _).wr2 _ _).event _).raise _ _ _ _ _

theorem Dev.resyncAgain_frame (n : Nat) (s : Dev) : Dev.Frame [] [.tw] s (s.resyncAgain n) := (Dev.Frame.refl _ _ s).tw _

/-- The engines go on from the sample index of the time, with no frame open. -/
def Dev.enginesAt (s : Dev) : Dev := { s with le := { s.le with frame := s.now, isOpen := false } }

/-- No sense frame is accepted any more, and no block waits. -/
def Vat.fresh (x : Vat) : Vat := { x with acc := 0, blkAt := none, blks := [] }

/-- That of every vat. -/
def Dev.vatsFresh (s : Dev) : Dev := Dev.each (List.range 64) (fun s v => s.modVat v Vat.fresh) s

/-- The engines are released, before the power manager goes on. -/
def Dev.enginesFree (s : Dev) : Dev := (s.enginesAt.vatsFresh.wakeCheck).resyncAgain (s.enginesAt.vatsFresh.now + 1)

/-- The power manager goes on, and HOLD of reason 2 is withdrawn. -/
def Dev.p3Over (s : Dev) : Dev :=
  Dev.each (List.range 64) (Dev.unhold 2) (s.setPm (fun p => { p with p3 := .none, target := decide (3 ≤ s.rd F.PM_STAT_REQ) })).stepSync

/-- GL takes up its position again, and a change of source that waited for the release is made. -/
def Dev.released (s : Dev) : Dev :=
  let s := if s.fc.latch then s else s.resume s.now
  let s := match s.tb.srcPend with
    | some old => (s.setTb (fun t => { t with srcPend := none })).srcMove old (s.rd F.TB_CFG_SRC)
    | none => s
  s.glSync.pmCheck

theorem Dev.enginesOut_go {s : Dev} (h : s.pm.p3 = .woken) (ho : s.pm.opTgt = none) : s.enginesOut = s.enginesFree.p3Over.released := by
  unfold Dev.enginesOut
  rw [if_neg (by simp [h, ho])]
  rfl

theorem Dev.enginesOut_wait {s : Dev} (ho : s.pm.opTgt ≠ none) : s.enginesOut = s :=
  if_pos (.inr (Option.isSome_iff_ne_none.mpr ho))

theorem Dev.TimeKept.released (s : Dev) : Dev.TimeKept s s.released := by
  unfold Dev.released
  extract_lets a b
  have ha : Dev.TimeKept s a := by
    show Dev.TimeKept s (if _ then _ else _)
    split
    · exact .refl s
    · exact .of_frame (s.resume_frame _)
  clear_value a
  have hb : Dev.TimeKept a b := by
    show Dev.TimeKept a (match a.tb.srcPend with | some _ => _ | none => _)
    split
    · exact ((Dev.TimeKept.refl a).setTb _).trans (.srcMove _ _ _)
    · exact .refl a
  clear_value b
  exact ((ha.trans hb).trans (.of_frame b.glSync_frame)).trans (.pmCheck _)

theorem Dev.each_holds {f : Nat → Vat → Vat} (hf : ∀ v x, (f v x).holds = x.holds) (l : List Nat) (s : Dev) (v : Nat) :
    ((Dev.each l (fun s v => s.modVat v (f v)) s).vat v).holds = (s.vat v).holds :=
  Dev.each_same (fun d => (d.vat v).holds) _ (fun d u _ => by
    by_cases h : u = v
    · subst h
      simp only [Dev.modVat_self, hf]
    · simp only [Dev.modVat_other (Ne.symm h)]) s

theorem Dev.vatsFresh_frame (s : Dev) : Dev.Frame [] [.vl] s s.vatsFresh := .each _ _ s fun d v _ => (Dev.Frame.refl _ _ d).modVat v _

theorem Dev.enginesFree_spec (s : Dev) : s.enginesFree.now = s.now ∧ (s.on F.TB_EVT_WAKE_NOPTP = true → s.enginesFree.on F.TB_EVT_WAKE_NOPTP = true) ∧
    s.enginesFree.le.frame = s.now ∧ s.enginesFree.le.isOpen = false ∧ ∀ v, (s.enginesFree.vat v).holds = (s.vat v).holds := by
  have hat : Dev.Frame [] [.le] s s.enginesAt := (Dev.Frame.refl _ _ s).le _
  have hle : s.enginesAt.le.frame = s.now ∧ s.enginesAt.le.isOpen = false := ⟨rfl, rfl⟩
  unfold Dev.enginesFree
  generalize s.enginesAt = d at *
  have hfresh := d.vatsFresh_frame
  have hholds (v : Nat) : (d.vatsFresh.vat v).holds = (d.vat v).holds := Dev.each_holds (f := fun _ => Vat.fresh) (fun _ _ => rfl) _ d v
  generalize d.vatsFresh = u at *
  have hframe : Dev.Frame [9] [.tw, .evq, .fc] u ((u.wakeCheck).resyncAgain (u.now + 1)) := (u.wakeCheck_frame).then (Dev.resyncAgain_frame _ _)
  generalize (u.wakeCheck).resyncAgain (u.now + 1) = w at *
  have hall : Dev.Frame [9] [.tw, .evq, .fc, .vl, .le] s w :=
    ((hat.mono (w' := [9]) (l' := [.tw, .evq, .fc, .vl, .le])).then hfresh).then hframe
  have hwle : w.le = d.le := by rw [hframe.part .le, hfresh.part .le]
  refine ⟨hall.within.rd2 R.TB_SAMPLE_LO (by decide) (by decide), fun hs => (hall.on _).trans hs, ?_, ?_, fun v => ?_⟩
  · rw [hwle]
    exact hle.1
  · rw [hwle]
    exact hle.2
  · rw [Dev.vat, hframe.part .vl]
    exact (hholds v).trans (by rw [Dev.vat, hat.part .vl, Dev.vat])

theorem Dev.unholdAll_holds (l : List Nat) (hl : l.Nodup) (s : Dev) {v : Nat} (hv : v ∈ l) :
    ((Dev.each l (Dev.unhold 2) s).vat v).holds = (s.vat v).holds &&& ~~~(4 : BitVec 4) := by
  induction l generalizing s with
  | nil => exact absurd hv List.not_mem_nil
  | cons u l ih =>
    obtain ⟨hu, hl⟩ := List.nodup_cons.mp hl
    show ((Dev.each l (Dev.unhold 2) (s.unhold 2 u)).vat v).holds = _
    obtain rfl | hmem := List.mem_cons.mp hv
    · have hrest : ((Dev.each l (Dev.unhold 2) (s.unhold 2 v)).vat v).holds = ((s.unhold 2 v).vat v).holds :=
        Dev.each_same (fun d => (d.vat v).holds) _ (fun d w hw => by
          have hne : v ≠ w := fun e => hu (by rw [e]; exact hw)
          show ((d.unhold 2 w).vat v).holds = (d.vat v).holds
          rw [Dev.unhold, Dev.modVat_other hne]) _
      rw [hrest, Dev.unhold, Dev.modVat_self]
      rfl
    · have hne : v ≠ u := fun e => hu (by rw [← e]; exact hmem)
      rw [ih hl (s.unhold 2 u) hmem, Dev.unhold, Dev.modVat_other hne]

theorem Dev.p3Over_spec (s : Dev) : s.p3Over.now = s.now ∧ (s.on F.TB_EVT_WAKE_NOPTP = true → s.p3Over.on F.TB_EVT_WAKE_NOPTP = true) ∧
    s.p3Over.pm.p3 = .none ∧ s.p3Over.le = s.le ∧ ∀ v, v < 64 → (s.p3Over.vat v).holds = (s.vat v).holds &&& ~~~(4 : BitVec 4) := by
  have hpm : (s.setPm (fun p => { p with p3 := .none, target := decide (3 ≤ s.rd F.PM_STAT_REQ) })).pm.p3 = .none := rfl
  have hset : Dev.Frame [] [.pm] s (s.setPm (fun p => { p with p3 := .none, target := decide (3 ≤ s.rd F.PM_STAT_REQ) })) := (Dev.Frame.refl _ _ s).setPm _
  unfold Dev.p3Over
  generalize s.setPm (fun p => { p with p3 := .none, target := decide (3 ≤ s.rd F.PM_STAT_REQ) }) = u at *
  have hstep : Dev.TimeKept u u.stepSync := (Dev.TimeKept.refl u).stepSync
  have hsync : u.stepSync.pm = u.pm ∧ u.stepSync.le = u.le ∧ u.stepSync.vl = u.vl := ⟨rfl, rfl, rfl⟩
  generalize u.stepSync = w at *
  obtain ⟨hwpm, hwle, hwvl⟩ := hsync
  have hframe : Dev.Frame [] [.vl] w (Dev.each (List.range 64) (Dev.unhold 2) w) := .each _ _ _ fun d v _ => (Dev.Frame.refl _ _ d).modVat v _
  have hholds (v : Nat) (hv : v < 64) := Dev.unholdAll_holds (List.range 64) List.nodup_range w (List.mem_range.mpr hv)
  generalize Dev.each (List.range 64) (Dev.unhold 2) w = x at *
  refine ⟨?_, fun hs => ?_, ?_, ?_, fun v hv => ?_⟩
  · rw [← (show u.now = s.now from hset.within.rd2 R.TB_SAMPLE_LO List.not_mem_nil List.not_mem_nil), ← hstep.now]
    exact hframe.within.rd2 R.TB_SAMPLE_LO List.not_mem_nil List.not_mem_nil
  · exact (hframe.on _ List.not_mem_nil).trans (hstep.noptp ((hset.on _ List.not_mem_nil).trans hs))
  · rw [hframe.part .pm, hwpm, hpm]
  · rw [hframe.part .le, hwle, hset.part .le]
  · rw [hholds v hv, Dev.vat, hwvl, hset.part .vl, Dev.vat]

/-- TB_WAKE_WAIT passes with no offset. -/
def Dev.noPtp (s : Dev) : Dev := if s.tbState = 5 then (s.holdover).event F.TB_EVT_WAKE_NOPTP else s

theorem Dev.noPtp_spec (s : Dev) : Dev.TimeKept s s.noPtp ∧ (s.tbState = 5 → s.noPtp.on F.TB_EVT_WAKE_NOPTP = true) := by
  have hevent (d : Dev) : Dev.TimeKept d (d.event F.TB_EVT_WAKE_NOPTP) := by
    have hk := Dev.Keeps.event d F.TB_EVT_WAKE_NOPTP
    have hne : ∀ o ∈ timeRegs, F.TB_EVT_WAKE_NOPTP.reg ≠ o := by decide
    refine ⟨fun off ho => Dev.reg_event_ne d (hne off ho), fun _ => Dev.on_event_self _ _ (by decide) rfl, ⟨d.pm.mb, hk .pm (by decide)⟩,
      hk .le (by decide), fun v _ => ?_⟩
    rw [Dev.vat, show (d.event F.TB_EVT_WAKE_NOPTP).vl = d.vl from hk .vl (by decide), Dev.vat]
  unfold Dev.noPtp
  split
  · exact ⟨(Dev.TimeKept.holdover s).trans (hevent _), fun _ => Dev.on_event_self _ _ (by decide) rfl⟩
  · next h => exact ⟨.refl s, fun hc => absurd hc h⟩

/-- What the engines' release leaves. -/
theorem Dev.enginesOut_spec {s : Dev} (h : s.pm.p3 = .woken) (ho : s.pm.opTgt = none) : s.enginesOut.now = s.now ∧
    (s.on F.TB_EVT_WAKE_NOPTP = true → s.enginesOut.on F.TB_EVT_WAKE_NOPTP = true) ∧ s.enginesOut.pm.p3 = .none ∧
    s.enginesOut.le.frame = s.now ∧ s.enginesOut.le.isOpen = false ∧
    ∀ v, v < 64 → (s.enginesOut.vat v).holds = (s.vat v).holds &&& ~~~(4 : BitVec 4) := by
  rw [Dev.enginesOut_go h ho]
  obtain ⟨a1, a2, a3, a4, a5⟩ := s.enginesFree_spec
  generalize s.enginesFree = u at *
  obtain ⟨b1, b2, b3, b4, b5⟩ := u.p3Over_spec
  generalize u.p3Over = w at *
  have hk := Dev.TimeKept.released w
  obtain ⟨m, hm⟩ := hk.pm
  refine ⟨hk.now.trans (b1.trans a1), fun hs => hk.noptp (b2 (a2 hs)), ?_, ?_, ?_, fun v hv => ?_⟩
  · rw [hm]
    exact b3
  · rw [hk.le, b4, a3]
  · rw [hk.le, b4, a4]
  · rw [hk.holds v hv, b5 v hv, a5 v]

end Sys2Proof.Machine

namespace Sys2Proof.Proofs
open Sys2Proof.Machine

theorem wakeWait_releases {s : State} (hrun : Running s) (h : s.dev.pm.p3 = .woken) : ∃ t, exec .wakeWaitExpiry s = .next t ∧ t.dev.now = s.dev.now ∧
    (s.dev.pm.opTgt = none → t.dev.pm.p3 = .none ∧ t.dev.le.frame = s.dev.now ∧ t.dev.le.isOpen = false ∧
      (∀ v, v < 64 → (t.dev.vat v).holds = (s.dev.vat v).holds &&& ~~~(4 : BitVec 4))) ∧
    (s.dev.pm.opTgt ≠ none → t.dev.pm.p3 = .woken) ∧ (s.dev.tbState = 5 → t.dev.on F.TB_EVT_WAKE_NOPTP = true) ∧ KeepsMem s t := by
  have hexec : exec .wakeWaitExpiry s = .next { s with dev := s.fresh.dev.wakeWaitOver } := State.onDev_next s _ hrun
  have hgo : s.fresh.dev.wakeWaitOver = s.fresh.dev.noPtp.enginesOut.tbUnc := if_neg (not_not.mpr h)
  rw [hgo] at hexec
  obtain ⟨hkept, hev⟩ := s.fresh.dev.noPtp_spec
  generalize s.fresh.dev.noPtp = u at *
  obtain ⟨m, hm⟩ := hkept.pm
  have hp3 : u.pm.p3 = .woken := by
    rw [hm]
    exact h
  have hop : u.pm.opTgt = s.dev.pm.opTgt := by
    rw [hm]
    rfl
  have hunc := Dev.TimeKept.tbUnc u.enginesOut
  obtain ⟨m', hm'⟩ := hunc.pm
  by_cases ho : s.dev.pm.opTgt = none
  · obtain ⟨k1, k2, k3, k4, k5, k6⟩ := Dev.enginesOut_spec hp3 (hop.trans ho)
    refine ⟨_, hexec, hunc.now.trans (k1.trans hkept.now), fun _ => ⟨?_, ?_, ?_, fun v hv => ?_⟩, fun hc => absurd ho hc,
      fun h5 => hunc.noptp (k2 (hev h5)), fun _ => rfl, rfl⟩
    · rw [hm']
      exact k3
    · rw [hunc.le, k4, hkept.now]
      rfl
    · rw [hunc.le, k5]
    · rw [hunc.holds v hv, k6 v hv, hkept.holds v hv]
      rfl
  · have hwait : u.enginesOut = u := Dev.enginesOut_wait (by rw [hop]; exact ho)
    rw [hwait] at hexec hunc hm'
    refine ⟨_, hexec, hunc.now.trans hkept.now, fun hc => absurd hc ho, fun _ => ?_, fun h5 => hunc.noptp (hev h5), fun _ => rfl, rfl⟩
    rw [hm']
    exact hp3

end Sys2Proof.Proofs
end

section
-- One proof after another: in parallel the proofs of this text would not fit the memory that its check allows.
set_option Elab.async false
/-!
PROOFS. The slow clock has been measured, and time is carried over P3 (02 R51; 14 R327, R330).
-/
namespace Sys2Proof.Machine

theorem Dev.jumpTb_frame (t32 : Nat) (s : Dev) : Dev.Frame [5] [.tb] s (s.jumpTb t32) := (((Dev.Frame.refl [5] [.tb] s).tb _).wr2 _ _).tb _

theorem Dev.jumpTb_now (t32 : Nat) (s : Dev) : (s.jumpTb t32).now = t32 / 2 ^ 32 / 1000 % 2 ^ 64 := by
  have h : (s.setTime t32).now = t32 / 2 ^ 32 / 1000 % 2 ^ 64 := Dev.rd2_wr2_self _ R.TB_SAMPLE_LO _
  exact h

theorem Dev.setTb_now (f : Tb → Tb) (s : Dev) : (s.setTb f).now = s.now := rfl

theorem Dev.setTb_frame (f : Tb → Tb) (s : Dev) : Dev.Frame [] [.tb] s (s.setTb f) := (Dev.Frame.refl _ _ s).tb _

theorem Dev.TimeKept.wr2 {s t : Dev} (h : Dev.TimeKept s t) (k v : Nat) (hk : ∀ off ∈ timeRegs, k ≠ off ∧ k + 4 ≠ off := by decide)
    (he : k ≠ R.TB_EVT ∧ k + 4 ≠ R.TB_EVT := by decide) : Dev.TimeKept s (t.wr2 k v) := by
  refine h.trans ⟨fun off ho => Dev.reg_wr2_ne t (hk off ho).1 (hk off ho).2 v, fun hs => ?_, ⟨_, rfl⟩, rfl, fun _ _ => rfl⟩
  have hreg : (t.wr2 k v).reg F.TB_EVT_WAKE_NOPTP.reg = t.reg F.TB_EVT_WAKE_NOPTP.reg := Dev.reg_wr2_ne t he.1 he.2 v
  rw [← hs, Dev.on, Dev.on, Dev.rd, Dev.rd, hreg]

/-- The wake is counted and reported: among the registers of PM, PM_WAKES counts. -/
theorem Dev.wakeCounted_spec (n : Nat) (s : Dev) :
    ((((s.count F.PM_WAKES).wr F.PM_WAKE_STAT_RESULT n).event F.PM_EVT_WAKE).powerEv 4 0).rd F.PM_WAKES = min (s.rd F.PM_WAKES + 1) 0xFFFFFFFF ∧
    ((((s.count F.PM_WAKES).wr F.PM_WAKE_STAT_RESULT n).event F.PM_EVT_WAKE).powerEv 4 0).on F.PM_EVT_WAKE = true ∧
    Dev.Frame [19] [.evq] s ((((s.count F.PM_WAKES).wr F.PM_WAKE_STAT_RESULT n).event F.PM_EVT_WAKE).powerEv 4 0) := by
  have hcount : ((s.count F.PM_WAKES).wr F.PM_WAKE_STAT_RESULT n).rd F.PM_WAKES = min (s.rd F.PM_WAKES + 1) 0xFFFFFFFF := by
    rw [Dev.rd_wr_apart _ _ _ _ rfl rfl, Dev.rd_count_self _ _ 1 rfl rfl]
    rfl
  have hframe : Dev.Frame [19] [.evq] s ((s.count F.PM_WAKES).wr F.PM_WAKE_STAT_RESULT n) := ((Dev.Frame.refl _ _ s).count _).wr _ _
  generalize (s.count F.PM_WAKES).wr F.PM_WAKE_STAT_RESULT n = u at *
  have hregs : Dev.RegsAs (u.event F.PM_EVT_WAKE) ((u.event F.PM_EVT_WAKE).powerEv 4 0) := fun _ => rfl
  refine ⟨?_, (hregs.on _).trans (Dev.on_event_self _ _ (by decide) rfl), (hframe.event _).emit _⟩
  rw [hregs.rd, Dev.rd_event_apart _ _ _ rfl rfl]
  exact hcount

theorem Dev.laneWake_frame (s : Dev) {l : Nat} (h : l < 128) : Dev.Frame laneWindows laneParts s
    (if s.rd (F.VL_LSTAT_STATE l) = 7 then (if s.mayTrain l then s.toDetect l else s.wr (F.VL_LSTAT_STATE l) 0) else s) := by
  have hb : blockOf (F.VL_LSTAT_STATE l).reg ∈ laneWindows := by
    have : blockOf (F.VL_LSTAT_STATE l).reg = 6 := by
      simp only [F.VL_LSTAT_STATE, blockOf]
      omega
    rw [this]
    decide
  split
  · split
    · exact s.toDetect_frame h
    · exact (Dev.Frame.refl _ _ s).wr _ _ hb
  · exact .refl _ _ s

theorem Dev.wakeMeasured_spec {s : Dev} (h : s.pm.wake = .measuring) {incW : Nat} (hinc : incW < 2 ^ 64) (ticks : Nat) : ∃ d, s.wakeMeasured incW ticks = d ∧
    d.pm.p3 = .woken ∧ d.pm.wake = .none ∧ d.now = (s.tb.timeE + ticks * (s.tb.incE.toNat + incW) / 2) / 2 ^ 32 / 1000 % 2 ^ 64 ∧
    d.rd2 R.TB_AON_INC_LO = incW ∧ d.rd F.PM_WAKES = min (s.rd F.PM_WAKES + 1) 0xFFFFFFFF ∧ d.on F.PM_EVT_WAKE = true := by
  refine ⟨_, rfl, ?_⟩
  unfold Dev.wakeMeasured
  rw [if_neg (not_not.mpr h)]
  extract_lets e diff unc us a b c d f g k l m n
  have hnow : a.now = (s.tb.timeE + e) / 2 ^ 32 / 1000 % 2 ^ 64 := (Dev.setTb_now _ _).trans (Dev.jumpTb_now _ s)
  have ha : Dev.Frame [5] [.tb] s a := (Dev.jumpTb_frame _ s).then (Dev.setTb_frame _ _)
  clear_value a
  have hc : Dev.Frame [] [.de] a c := (Dev.Frame.refl _ _ a).de _
  clear_value c
  have hcinc : (c.wr2 R.TB_AON_INC_LO incW).rd2 R.TB_AON_INC_LO = incW := (Dev.rd2_wr2_self _ _ _).trans (Nat.mod_eq_of_lt hinc)
  have hcnow : (c.wr2 R.TB_AON_INC_LO incW).now = (s.tb.timeE + e) / 2 ^ 32 / 1000 % 2 ^ 64 := by
    rw [← hnow, ← (show c.now = a.now from hc.within.rd2 R.TB_SAMPLE_LO List.not_mem_nil List.not_mem_nil)]
    exact Dev.rd2_wr2_ne c (by decide) (by decide) (by decide) incW
  have hcwakes : (c.wr2 R.TB_AON_INC_LO incW).rd F.PM_WAKES = s.rd F.PM_WAKES := by
    rw [((Dev.Frame.refl [5] [] c).wr2 R.TB_AON_INC_LO incW).rd F.PM_WAKES, hc.rd F.PM_WAKES, ha.rd F.PM_WAKES]
  have hd : Dev.TimeKept (c.wr2 R.TB_AON_INC_LO incW) d := (Dev.TimeKept.tbTo 5 _).trans (.tbUnc _)
  clear_value d
  have hf : Dev.TimeKept d f := ((Dev.TimeKept.refl d).wr2 (R.PM_RES_P_LO 3) _).wr _ _
  clear_value f
  have hg : Dev.TimeKept f g := .of_frame (w := [21]) (l := []) (.each _ _ f fun x j hj => by
    have hj16 : j < 16 := List.mem_range.mp hj
    have h1 : blockOf (R.PC_EVCNT_LO j) ∈ [21] := by
      simp only [R.PC_EVCNT_LO, blockOf, List.mem_singleton]
      omega
    have h2 : blockOf (R.PC_EVCNT_LO j + 4) ∈ [21] := by
      simp only [R.PC_EVCNT_LO, blockOf, List.mem_singleton]
      omega
    split
    · exact ((Dev.Frame.refl [21] [] x).wr2 _ _ h1 h2).setReg _ _
    · exact .refl _ _ x)
  clear_value g
  have hkept := (hd.trans hf).trans hg
  obtain ⟨hwakes, hev, hl⟩ := g.wakeCounted_spec g.pm.attempt
  change l.rd _ = _ at hwakes
  change l.on _ = true at hev
  change Dev.Frame _ _ g l at hl
  clear_value l
  have hm : Dev.Frame [] [.pm] l m := (Dev.Frame.refl _ _ l).setPm _
  have hmpm : m.pm.p3 = .woken ∧ m.pm.wake = .none := ⟨rfl, rfl⟩
  clear_value m
  have hn : Dev.Frame laneWindows laneParts m n := .each _ _ m fun x j hj => x.laneWake_frame (List.mem_range.mp hj)
  clear_value n
  have hnpm : n.pm = m.pm := hn.part .pm
  obtain ⟨a1, a2, a3, a4, a5, a6, hpm⟩ := n.pmStep_pm
  have hlast : Dev.Frame [6, 11, 12, 13, 14, 17, 19, 21] (.pm :: pmParts) g n.pmStep :=
    (((hl.mono (w' := [6, 11, 12, 13, 14, 17, 19, 21]) (l' := .pm :: pmParts)).then hm).then hn).then n.pmStep_frame
  refine ⟨?_, ?_, ?_, ?_, ?_, ?_⟩
  · rw [hpm]
    exact (congrArg Pm.p3 hnpm).trans hmpm.1
  · rw [hpm]
    exact (congrArg Pm.wake hnpm).trans hmpm.2
  · exact (hlast.within.rd2 R.TB_SAMPLE_LO (by decide) (by decide)).trans (hkept.now.trans hcnow)
  · exact (hlast.within.rd2 R.TB_AON_INC_LO (by decide) (by decide)).trans (hkept.aonInc.trans hcinc)
  · rw [n.pmStep_rd F.PM_WAKES, hn.rd F.PM_WAKES, hm.rd F.PM_WAKES, hwakes, hkept.wakes, hcwakes]
  · rw [Dev.on, n.pmStep_rd F.PM_EVT_WAKE, hn.rd F.PM_EVT_WAKE, hm.rd F.PM_EVT_WAKE]
    exact hev

end Sys2Proof.Machine

namespace Sys2Proof.Proofs
open Sys2Proof.Machine

/-- Settles O46, one law per step of the wake. -/
theorem wake : Obligations.Wake := by
  intro s hrun
  refine ⟨fun mask lanes ticks h hw h4 => ?_, fun h ha => supplyReady_moves hrun h ha,
    fun h => clocksReady_moves hrun h, fun ticks h hw => wakeTimeout_fails hrun ticks h hw, fun h => wakeRetry_begins hrun h,
    fun via v hmay hon => wakeFault_clears hrun via v hmay hon, fun incW ticks h => ?_, fun h => wakeWait_releases hrun h⟩
  · intro m h0
    exact wakeSource_wakes hrun mask lanes ticks h hw h4 rfl h0
  have hexec : exec (.wakeMeasured incW ticks) s = .next { s with dev := s.fresh.dev.wakeMeasured incW.toNat ticks.toNat } := State.onDev_next s _ hrun
  obtain ⟨d, hd, k1, k2, k3, k4, k5, k6⟩ := Dev.wakeMeasured_spec (s := s.fresh.dev) h incW.isLt ticks.toNat
  rw [hd] at hexec
  exact ⟨_, hexec, k1, k2, k3, k4, k5, k6, fun _ => rfl, rfl⟩

end Sys2Proof.Proofs
end

section
-- One proof after another: in parallel the proofs of this text would not fit the memory that its check allows.
set_option Elab.async false
/-!
PROOFS. What the servo, a step of the time and the release of the engines leave of what PTP and PPS brought (02 R38, R39, R48).
-/
namespace Sys2Proof.Machine

/-- What tells of the inputs: the PTP timescale and the PPS state, the UTC offset, the shadow offset. -/
def inputFields : List Fld := [F.TB_STAT_TS_TAI, F.TB_STAT_PPS_QUAL, F.TB_STAT_PPS_POL, F.TB_UTC_OFFSET, F.TB_SHADOW_OFFSET]

/-- What a port holds beside the instant of its latest request. -/
def PtpPort.sameAs (x y : PtpPort) : Prop := x.master = y.master ∧ x.lost = y.lost ∧ x.pend = y.pend ∧ x.offset = y.offset

/-- The inputs of the time base are in t as in s. -/
def Tb.sameInputs (s t : Tb) : Prop := t.pa.sameAs s.pa ∧ t.pb.sameAs s.pb ∧ t.ppsCnt = s.ppsCnt

theorem Tb.sameInputs.refl (s : Tb) : Tb.sameInputs s s := ⟨⟨rfl, rfl, rfl, rfl⟩, ⟨rfl, rfl, rfl, rfl⟩, rfl⟩

theorem PtpPort.sameAs.trans {x y z : PtpPort} (h : y.sameAs x) (k : z.sameAs y) : z.sameAs x :=
  ⟨k.1.trans h.1, k.2.1.trans h.2.1, k.2.2.1.trans h.2.2.1, k.2.2.2.trans h.2.2.2⟩

/-- What PTP and PPS have brought stays. -/
structure Dev.InputsKept (s t : Dev) : Prop where
  fields : ∀ f ∈ inputFields, t.rd f = s.rd f
  tb : Tb.sameInputs s.tb t.tb

namespace Dev.InputsKept

theorem refl (s : Dev) : Dev.InputsKept s s := ⟨fun _ _ => rfl, .refl _⟩

theorem trans {s t u : Dev} (h : Dev.InputsKept s t) (k : Dev.InputsKept t u) : Dev.InputsKept s u :=
  ⟨fun f hf => (k.fields f hf).trans (h.fields f hf),
    h.tb.1.trans k.tb.1, h.tb.2.1.trans k.tb.2.1, k.tb.2.2.trans h.tb.2.2⟩

theorem of_frame {w : List Nat} {l : List Part} {s t : Dev} (h : Dev.Frame w l s t) (hw : 5 ∉ w := by decide) (hl : Part.tb ∉ l := by decide) :
    Dev.InputsKept s t := by
  have hblk : ∀ f ∈ inputFields, blockOf f.reg = 5 := by decide
  refine ⟨fun f hf => h.rd f (by rw [hblk f hf]; exact hw), ?_⟩
  rw [show t.tb = s.tb from h.part .tb hl]
  exact .refl _

theorem then_ {w : List Nat} {l : List Part} {s t u : Dev} (h : Dev.InputsKept s t) (k : Dev.Frame w l t u) (hw : 5 ∉ w := by decide)
    (hl : Part.tb ∉ l := by decide) : Dev.InputsKept s u := h.trans (.of_frame k hw hl)

theorem wr {s t : Dev} (h : Dev.InputsKept s t) (f : Fld) (v : Nat) (hfit : f.fits = true := by decide)
    (ha : ∀ g ∈ inputFields, f.apart g = true := by decide) : Dev.InputsKept s (t.wr f v) :=
  h.trans ⟨fun g hg => Dev.rd_wr_apart t f g v hfit (ha g hg), .refl _⟩

theorem wrB {s t : Dev} (h : Dev.InputsKept s t) (f : Fld) (b : Bool) (hfit : f.fits = true := by decide)
    (ha : ∀ g ∈ inputFields, f.apart g = true := by decide) : Dev.InputsKept s (t.wrB f b) := h.wr f _ hfit ha

theorem event {s t : Dev} (h : Dev.InputsKept s t) (f : Fld) (hfit : f.fits = true := by decide)
    (ha : ∀ g ∈ inputFields, f.apart g = true := by decide) : Dev.InputsKept s (t.event f) := by
  refine h.trans ⟨fun g hg => Dev.rd_event_apart t f g hfit (ha g hg), ?_⟩
  rw [show (t.event f).tb = t.tb from Dev.Keeps.event t f .tb (by decide)]
  exact .refl _

theorem raise {s t : Dev} (h : Dev.InputsKept s t) (c v : Nat) (r : BitVec 28) (i : Nat := 0) : Dev.InputsKept s (t.raise c v r i) :=
  h.then_ ((Dev.Frame.refl [] [.fc] t).raise c v r i)

theorem setTb {s t : Dev} (h : Dev.InputsKept s t) (f : Tb → Tb)
    (hf : ∀ x, Tb.sameInputs x (f x) := by exact fun x => ⟨⟨rfl, rfl, rfl, rfl⟩, ⟨rfl, rfl, rfl, rfl⟩, rfl⟩) : Dev.InputsKept s (t.setTb f) :=
  h.trans ⟨fun _ _ => rfl, hf _⟩

theorem pmCheck {s t : Dev} (h : Dev.InputsKept s t) : Dev.InputsKept s t.pmCheck := h.then_ t.pmCheck_frame

theorem stepSync {s t : Dev} (h : Dev.InputsKept s t) : Dev.InputsKept s t.stepSync := h.wrB _ _

theorem setAddend {s t : Dev} (h : Dev.InputsKept s t) (a : BitVec 40) : Dev.InputsKept s (t.setAddend a) := (h.setTb _).wr _ _

theorem hoClear (s : Dev) : Dev.InputsKept s s.hoClear := by
  unfold Dev.hoClear
  split
  · exact (((refl s).wrB _ _).wrB _ _).pmCheck
  · exact refl s

theorem hoExceed (u : Nat) (s : Dev) : Dev.InputsKept s (s.hoExceed u) := by
  have hbase : Dev.InputsKept s ((((s.wrB F.TB_STAT_HO_EXCEED true).event F.TB_EVT_HO_EXCEED).raise 0x0503 2 (srcWord 5) u).setTb (fun t => { t with okCnt := 0 })) :=
    (((((refl s).wrB _ _).event _).raise _ _ _ _).setTb _)
  unfold Dev.hoExceed
  dsimp only
  generalize ((((s.wrB F.TB_STAT_HO_EXCEED true).event F.TB_EVT_HO_EXCEED).raise 0x0503 2 (srcWord 5) u).setTb (fun t => { t with okCnt := 0 })) = d at *
  split
  · exact (hbase.wrB _ _).pmCheck
  · exact hbase

theorem tbTo (st : Nat) (s : Dev) : Dev.InputsKept s (s.tbTo st) := by
  unfold Dev.tbTo
  split
  · exact refl s
  · extract_lets a b c d
    have ha : Dev.InputsKept s a := by
      show Dev.InputsKept s (if _ then _ else _)
      split
      · exact (refl s).setTb _
      · exact refl s
    clear_value a
    have hb : Dev.InputsKept s b := (((ha.wr _ _).event _).setTb _).stepSync
    clear_value b
    have hc : Dev.InputsKept s c := by
      show Dev.InputsKept s (if _ then _ else _)
      split
      · exact hb.setTb _
      · exact hb
    clear_value c
    have hd : Dev.InputsKept s d := by
      show Dev.InputsKept s (if _ then _ else _)
      split
      · exact (hc.wr _ _).trans (.hoClear _)
      · exact hc
    clear_value d
    split
    · exact (hd.setTb _).then_ ((Dev.Frame.refl [] [] _).send _)
    · exact hd

theorem holdover (s : Dev) : Dev.InputsKept s s.holdover := by
  unfold Dev.holdover
  dsimp only
  exact ((((((refl s).setTb _).trans (.tbTo 3 _)).wr _ _).setTb _).setAddend _)

theorem sourceGone (s : Dev) : Dev.InputsKept s s.sourceGone := by
  unfold Dev.sourceGone
  split
  · exact .holdover s
  · exact refl s

theorem tbUnc (s : Dev) : Dev.InputsKept s s.tbUnc := by
  unfold Dev.tbUnc
  extract_lets u a low st n a' b m b'
  have ha : Dev.InputsKept s a := ((refl s).wr _ _).setTb _
  clear_value a
  have hb : Dev.InputsKept s b := by
    show Dev.InputsKept s (if _ then _ else if _ then _ else if _ then _ else _)
    split
    · exact ha
    · split
      · split
        · exact (ha.setTb _).trans (.hoClear _)
        · exact ha.setTb _
      · split
        · exact ha.trans (.hoExceed _ _)
        · exact ha
  clear_value b
  split
  · split
    · exact (((hb.setTb _).setTb _).wrB _ _).pmCheck
    · exact hb.setTb _
  · exact hb

theorem srcMove (old new : Nat) (s : Dev) : Dev.InputsKept s (s.srcMove old new) := by
  unfold Dev.srcMove
  split
  · exact refl s
  · extract_lets st a
    have ha : Dev.InputsKept s a := (refl s).setTb _
    clear_value a
    split
    · split
      · exact ha.trans (.tbTo _ _)
      · exact ha.trans (.sourceGone _)
    · split
      · exact ha
      · split
        · exact ha.trans (.tbTo _ _)
        · exact ha.trans (.sourceGone _)

end Dev.InputsKept

end Sys2Proof.Machine
end

section
-- One proof after another: in parallel the proofs of this text would not fit the memory that its check allows.
set_option Elab.async false
/-!
PROOFS. An offset of the source in use reaches the servo, or the time is stepped; what PTP and PPS brought stays (02 R39, R41, R48, R52).
-/
namespace Sys2Proof.Machine

/-! ### GL's walk leaves the time base but for its comparators -/

theorem Dev.decidePos_tb (late : Bool) (q : Pos) (p : Plan) (s : Dev) : (s.decidePos late q p).tb = s.tb := by
  obtain ⟨x, b, f, nx, st, h⟩ := Dev.decidePos_eq late q p s
  have hnotes : (s.decisionNotes x b f).tb = s.tb := (s.decisionNotes_frame x b f).part .tb
  have hlist (u : Dev) : (u.slotListed q nx x st).tb = u.tb := rfl
  have hdrain (u : Dev) : (u.drainSlot p x).tb = u.tb :=
    Dev.drainSlot_each u p x (P := fun a b => b.tb = a.tb) (fun _ => rfl) (fun h k => k.trans h) fun v o => (Dev.bankOp_frame v o).part .tb
  rw [h, (Dev.formNext_frame _).part .tb, (Dev.announce_frame _ _ _).part .tb, hdrain, hlist, hnotes]

theorem Dev.decideLate_tb (s : Dev) : s.decideLate.tb = s.tb := by
  unfold Dev.decideLate
  extract_lets q
  split
  · rfl
  · exact Dev.decidePos_tb _ _ _ s

namespace Dev.InputsKept

/-- What keeps to other windows, and the time base with it. -/
theorem of_tb {w : List Nat} {l : List Part} {s t : Dev} (h : Dev.Frame w l s t) (ht : t.tb = s.tb) (hw : 5 ∉ w := by decide) : Dev.InputsKept s t := by
  have hblk : ∀ f ∈ inputFields, blockOf f.reg = 5 := by decide
  refine ⟨fun f hf => h.rd f (by rw [hblk f hf]; exact hw), ?_⟩
  rw [ht]
  exact .refl _

theorem decideLate (s : Dev) : Dev.InputsKept s s.decideLate := .of_tb s.decideLate_frame s.decideLate_tb

theorem setCmp {s t : Dev} (h : Dev.InputsKept s t) (i : Nat) (x : Cmp) : Dev.InputsKept s (t.setCmp i x) :=
  h.trans ⟨fun _ _ => rfl, ⟨rfl, rfl, rfl, rfl⟩, ⟨rfl, rfl, rfl, rfl⟩, rfl⟩

theorem cmpLoad (s : Dev) : Dev.InputsKept s s.cmpLoad := by
  unfold Dev.cmpLoad
  extract_lets k j w t u v
  have ht : Dev.InputsKept s t := (refl s).setCmp _ _
  clear_value t
  have hu : Dev.InputsKept s u := by
    show Dev.InputsKept s (if _ then _ else if _ then _ else _)
    split
    · exact ht.setCmp _ _
    · split
      · exact ht.setCmp _ _
      · exact ht
  clear_value u
  have hv : Dev.InputsKept s v := by
    show Dev.InputsKept s (if _ then _ else _)
    split
    · exact hu
    · exact hu.setCmp _ _
  clear_value v
  split
  · exact hv
  · split
    · exact hv.setCmp _ _
    · split
      · exact hv.setCmp _ _
      · exact hv.setCmp _ _

theorem resume (n : Nat) (s : Dev) : Dev.InputsKept s (s.resume n) := by
  obtain h | ⟨k, e, m, c, q, atB, x, y, t, ht, -, h⟩ := s.resume_eq n
  · rw [h]
    exact refl s
  · rw [h]
    have hdue : Dev.Frame [] [.gl] t ((t.walkFrom x m).dueAt q) := ((Dev.Frame.refl _ _ t).gl _).gl _
    have hbase := ((of_frame ht).then_ hdue).trans (.decideLate _)
    generalize ((t.walkFrom x m).dueAt q).decideLate = u at *
    have hlate : Dev.InputsKept s (Dev.when (!atB) Dev.decideLate u) := by
      cases atB with
      | true => exact hbase
      | false => exact hbase.trans (.decideLate u)
    generalize Dev.when (!atB) Dev.decideLate u = v at *
    have hload := hlate.trans (.cmpLoad v)
    generalize v.cmpLoad = z at *
    cases atB with
    | true => exact hload.setCmp _ _
    | false => exact hload

/-! ### The release of the engines -/

theorem enginesOut (s : Dev) : Dev.InputsKept s s.enginesOut := by
  unfold Dev.enginesOut
  split
  · exact refl s
  · extract_lets le0 a b c d e f g
    have ha : Dev.InputsKept s a := of_frame (w := []) (l := [.le]) ((Dev.Frame.refl _ _ s).le _)
    clear_value a
    have hb : Dev.InputsKept s b := ha.then_ (w := []) (l := [.vl]) (.each _ _ a fun d v _ => (Dev.Frame.refl _ _ d).modVat v _)
    clear_value b
    have hc : Dev.InputsKept s c := (hb.then_ b.wakeCheck_frame).then_ (Dev.resyncAgain_frame _ _)
    clear_value c
    have hd : Dev.InputsKept s d := (hc.then_ ((Dev.Frame.refl [] [.pm] c).setPm _)).stepSync
    clear_value d
    have he : Dev.InputsKept s e := hd.then_ (w := []) (l := [.vl]) (.each _ _ d fun d v _ => (Dev.Frame.refl _ _ d).modVat v _)
    clear_value e
    have hf : Dev.InputsKept s f := by
      show Dev.InputsKept s (if _ then _ else _)
      split
      · exact he
      · exact he.trans (.resume _ e)
    clear_value f
    have hg : Dev.InputsKept s g := by
      show Dev.InputsKept s (match f.tb.srcPend with | some _ => _ | none => _)
      split
      · exact (hf.setTb _).trans (.srcMove _ _ _)
      · exact hf
    clear_value g
    exact (hg.then_ g.glSync_frame).pmCheck

/-! ### A step of the time -/

theorem wr2 {s t : Dev} (h : Dev.InputsKept s t) (k v : Nat) (hk : ∀ f ∈ inputFields, k ≠ f.reg ∧ k + 4 ≠ f.reg := by decide) : Dev.InputsKept s (t.wr2 k v) :=
  h.trans ⟨fun f hf => by rw [Dev.rd, Dev.rd, Dev.reg_wr2_ne t (hk f hf).1 (hk f hf).2], .refl _⟩

theorem jumpTb (t32 : Nat) (s : Dev) : Dev.InputsKept s (s.jumpTb t32) := by
  have htime : Dev.InputsKept s (s.setTime t32) := by
    unfold Dev.setTime
    dsimp only
    exact ((refl s).setTb _).wr2 _ _
  unfold Dev.jumpTb
  dsimp only
  exact htime.setTb _

theorem jump (t32 : Nat) (s : Dev) : Dev.InputsKept s (s.jump t32) := by
  unfold Dev.jump
  extract_lets old a mv
  have ha : Dev.InputsKept s a := jumpTb t32 s
  clear_value a
  exact ha.trans ⟨fun _ _ => rfl, .refl _⟩

theorem stepBy (o : Int) (s : Dev) : Dev.InputsKept s (s.stepBy o) := ((jump _ s).wr _ _).event _

/-! ### The servo -/

theorem slewTo (ask : Int) (s : Dev) : Dev.InputsKept s (s.slewTo ask) := by
  unfold Dev.slewTo
  extract_lets cur up a base slew ask'
  have ha : Dev.InputsKept s a := by
    show Dev.InputsKept s (if _ then _ else if _ then _ else _)
    split
    · exact (refl s).setTb _
    · split
      · exact refl s
      · exact (refl s).setTb _
  clear_value a
  exact ha.setAddend _

theorem servo (o : Int) (s : Dev) : Dev.InputsKept s (s.servo o) := by
  unfold Dev.servo
  extract_lets bw m f a n b c
  have ha : Dev.InputsKept s a := (slewTo _ s).wr _ _
  clear_value a
  have hb : Dev.InputsKept s b := ha.setTb _
  clear_value b
  have hc : Dev.InputsKept s c := by
    show Dev.InputsKept s (if _ then _ else _)
    split
    · exact hb.trans (.tbTo _ _)
    · exact hb
  clear_value c
  exact hc.trans (.tbUnc c)

theorem acquireOr (o : Int) (s : Dev) : Dev.InputsKept s (s.acquireOr o) := by
  unfold Dev.acquireOr
  split
  · exact ((stepBy o s).setTb _).trans (.tbUnc _)
  · exact servo o s

theorem hoReturn (s : Dev) : Dev.InputsKept s s.hoReturn := by
  unfold Dev.hoReturn
  split
  · exact hoExceed _ s
  · exact refl s

theorem tbOffset (o : Int) (s : Dev) : Dev.InputsKept s (s.tbOffset o) := by
  unfold Dev.tbOffset
  split
  · exact refl s
  · extract_lets a back
    have ha : Dev.InputsKept s a := (refl s).stepSync
    clear_value a
    split
    · exact (ha.trans (.tbTo _ _)).trans (.acquireOr o _)
    · exact (((ha.trans (.hoReturn _)).trans (.tbTo _ _)).setTb _).trans (.acquireOr o _)
    · exact (((ha.trans (.stepBy o _)).trans (.tbTo _ _)).trans (.tbUnc _)).trans (.enginesOut _)
    · exact ((ha.trans (.tbTo _ _)).setTb _).trans (.acquireOr o _)
    · exact ha.trans (.acquireOr o _)

end Dev.InputsKept

end Sys2Proof.Machine
end

section
-- One proof after another: in parallel the proofs of this text would not fit the memory that its check allows.
set_option Elab.async false
/-!
PROOFS. Messages of PTP: Sync and Follow_Up, Announce, delay exchanges, lost transmitters (02 R38, R39).
-/
namespace Sys2Proof.Machine

/-! ### A port's own state -/

theorem Dev.setPtp_self (p : Port) (f : PtpPort → PtpPort) (s : Dev) : (s.setPtp p f).ptp p = f (s.ptp p) := by
  cases p <;> rfl

theorem Dev.setPtp_other (p : Port) (f : PtpPort → PtpPort) (s : Dev) : (s.setPtp p f).ptp (otherPort p) = s.ptp (otherPort p) := by
  cases p <;> rfl

theorem otherPort_of_ne {p q : Port} (h : q ≠ p) : q = otherPort p := by
  cases p <;> cases q <;> first | rfl | exact absurd rfl h

theorem Dev.setPtp_frame (p : Port) (f : PtpPort → PtpPort) (s : Dev) : Dev.Frame [] [.tb] s (s.setPtp p f) := (Dev.Frame.refl _ _ s).tb _

theorem Dev.ptp_of_tb {s t : Dev} (h : t.tb = s.tb) (p : Port) : t.ptp p = s.ptp p := by
  cases p
  · exact congrArg Tb.pa h
  · exact congrArg Tb.pb h

theorem Dev.InputsKept.ptp {s t : Dev} (h : Dev.InputsKept s t) (p : Port) : (t.ptp p).sameAs (s.ptp p) := by
  cases p
  · exact h.tb.1
  · exact h.tb.2.1

/-- A command that changes no register, and parts of the block in l only. -/
theorem Dev.Frame.writes {l : List Part} {s : State} {d : Dev} (h : Dev.Frame [] l s.fresh.dev d) : Writes s.dev l s { s with dev := d } :=
  ⟨fun off => h.within off List.not_mem_nil, (show Dev.Keeps l s.dev s.fresh.dev from fun p _ => by cases p <;> rfl).trans h.keeps, fun _ => rfl, rfl⟩

/-! ### What is shown of the ports -/

theorem Dev.showMaster_frame (s : Dev) : Dev.Frame [5] [] s s.showMaster := by
  unfold Dev.showMaster
  split
  · exact ((Dev.Frame.refl _ _ s).wr _ _).wrB _ _
  · exact .refl _ _ s

theorem Dev.showShadow_frame (s : Dev) : Dev.Frame [5] [] s s.showShadow := (Dev.Frame.refl _ _ s).wr _ _

theorem Dev.portMove_frame (p : Port) (o : Option Int) (s : Dev) : Dev.Frame [5] [.evq, .fc] s (s.portMove p o) := by
  unfold Dev.portMove
  split
  · exact .refl _ _ s
  · extract_lets old a
    have ha : Dev.Frame [5] [.evq, .fc] s a :=
      ((((Dev.Frame.refl [5] [.evq, .fc] s).wrB _ _).event _).then (Dev.showMaster_frame _)).then (Dev.showShadow_frame _)
    clear_value a old
    split
    · split
      · exact ha.raise _ _ _ _ _
      · exact ha
    · exact ha

/-! ### A Sync's offset -/

theorem Dev.syncOffset_spec (p : Port) (raw : Int) (s : Dev) : ((s.syncOffset p raw).ptp p).pend = (s.ptp p).pend ∧
    ((s.syncOffset p raw).ptp p).lost = false ∧ ((s.syncOffset p raw).ptp p).offset = some (raw - (s.ptp p).delay) := by
  unfold Dev.syncOffset
  extract_lets o was a b c
  have ha : a.ptp p = { s.ptp p with lost := false } := s.setPtp_self p _
  clear_value a
  have hb : b.ptp p = a.ptp p := by
    show Dev.ptp (if _ then _ else _) p = _
    split
    · exact Dev.ptp_of_tb ((a.portMove_frame p _).part .tb) p
    · rfl
  clear_value b
  have hc : c.ptp p = { b.ptp p with offset := some o } := b.setPtp_self p _
  clear_value c
  have hpend : (c.ptp p).pend = (s.ptp p).pend := by rw [hc, hb, ha]
  have hlost : (c.ptp p).lost = false := by rw [hc, hb, ha]
  have hoff : (c.ptp p).offset = some o := by rw [hc]
  have hkept (d : Dev) (hd : Dev.InputsKept c d) : (d.ptp p).pend = (s.ptp p).pend ∧ (d.ptp p).lost = false ∧ (d.ptp p).offset = some o := by
    obtain ⟨-, h2, h3, h4⟩ := hd.ptp p
    exact ⟨h3.trans hpend, h2.trans hlost, h4.trans hoff⟩
  split
  · split
    · exact hkept _ ((Dev.InputsKept.of_frame (c.pcClock_frame 0x0501 1 none)).trans (.tbOffset o _))
    · exact hkept c (.refl c)
  · have hsame := Dev.ptp_of_tb (c.showShadow_frame.part .tb) p
    rw [hsame]
    exact ⟨hpend, hlost, hoff⟩

end Sys2Proof.Machine

namespace Sys2Proof.Proofs
open Sys2Proof.Machine

/-- A Sync, or its Follow_Up. -/
theorem sync_taken {s : State} (hrun : Running s) (p : Port) (h : PtpHdr) (seq : BitVec 16) (origin rx : Int) (htakes : s.dev.ptpTakes p h (-7) 0 = true)
    (hbest : s.dev.fromBest p h = true) (hsw : s.dev.on F.TB_REF_STAT_SWITCHING = false) (hcal : s.dev.portInCal p = false) :
    (∃ t, exec (.ptpSync p h seq true origin rx) s = .next t ∧ (t.dev.ptp p).pend = some { seq := seq, rx := stampFix rx (-s.dev.rpRxlat p) } ∧
      t.dev.ptp (otherPort p) = s.dev.ptp (otherPort p) ∧ Writes s.dev [.tb] s t) ∧
    (∃ t, exec (.ptpSync p h seq false origin rx) s = .next t ∧ (t.dev.ptp p).pend = none ∧ (t.dev.ptp p).lost = false ∧
      (t.dev.ptp p).offset = some (stampFix rx (-s.dev.rpRxlat p) - origin - (s.dev.ptp p).delay) ∧ KeepsMem s t) := by
  have hexec (two : Bool) : exec (.ptpSync p h seq two origin rx) s = .next { s with dev := s.fresh.dev.ptpSync p h seq two origin rx } :=
    State.onDev_next s _ hrun
  have hin : ¬(!s.fresh.dev.ptpTakes p h (-7) 0 || !s.fresh.dev.fromBest p h || s.fresh.dev.on F.TB_REF_STAT_SWITCHING || s.fresh.dev.portInCal p) = true := by
    rw [show s.fresh.dev.ptpTakes p h (-7) 0 = true from htakes, show s.fresh.dev.fromBest p h = true from hbest,
      show s.fresh.dev.on F.TB_REF_STAT_SWITCHING = false from hsw, show s.fresh.dev.portInCal p = false from hcal]
    decide
  have htwo : s.fresh.dev.ptpSync p h seq true origin rx =
      s.fresh.dev.setPtp p (fun x => { x with pend := some { seq := seq, rx := stampFix rx (-s.dev.rpRxlat p) } }) := if_neg hin
  have hone : s.fresh.dev.ptpSync p h seq false origin rx =
      (s.fresh.dev.setPtp p (fun x => { x with pend := none })).syncOffset p (stampFix rx (-s.dev.rpRxlat p) - origin) := if_neg hin
  refine ⟨⟨_, hexec true, ?_, ?_, ?_⟩, ⟨_, hexec false, ?_⟩⟩
  · rw [htwo, Dev.setPtp_self]
  · rw [htwo, Dev.setPtp_other]
    cases p <;> rfl
  · rw [htwo]
    exact (Dev.setPtp_frame p _ _).writes
  · obtain ⟨h1, h2, h3⟩ := Dev.syncOffset_spec p (stampFix rx (-s.dev.rpRxlat p) - origin) (s.fresh.dev.setPtp p (fun x => { x with pend := none }))
    rw [hone]
    rw [Dev.setPtp_self] at h1 h3
    refine ⟨h1, h2, h3.trans ?_, fun _ => rfl, rfl⟩
    cases p <;> rfl

end Sys2Proof.Proofs
end

section
-- One proof after another: in parallel the proofs of this text would not fit the memory that its check allows.
set_option Elab.async false
/-!
PROOFS. Announce, delay exchanges and lost transmitters (02 R38, R39).
-/
namespace Sys2Proof.Machine

/-! ### An Announce -/

theorem Dev.showMaster_spec {s : Dev} {a : Announce} (h : (s.ptp s.selected).master = some a) :
    s.showMaster.rd F.TB_UTC_OFFSET = a.utc.toNat % 2 ^ 16 ∧ s.showMaster.on F.TB_STAT_TS_TAI = a.ptpScale := by
  unfold Dev.showMaster
  rw [h]
  exact ⟨(Dev.rd_wrB_apart _ _ _ _ rfl rfl).trans (Dev.rd_wr_self s F.TB_UTC_OFFSET _ rfl), Dev.on_wrB_self _ _ _ rfl rfl⟩

theorem Dev.ptpAnnounce_spec {s : Dev} {p : Port} {h : PtpHdr} (a : Announce) (htakes : s.ptpTakes p h (-3) 3 = true)
    (hm : (s.ptp p).master = none) : ((s.ptpAnnounce p h a).ptp p).master = some { a with parent := h.src } ∧
    ((s.ptpAnnounce p h a).ptp p).lost = false ∧ (s.selected = p →
      (s.ptpAnnounce p h a).rd F.TB_UTC_OFFSET = a.utc.toNat % 2 ^ 16 ∧ (s.ptpAnnounce p h a).on F.TB_STAT_TS_TAI = a.ptpScale) := by
  unfold Dev.ptpAnnounce
  rw [if_neg (by simp [htakes])]
  extract_lets a' take fresh b sel win c d
  have htake : take = true := by
    simp only [take]
    rw [hm]
  rw [if_neg (by simp [htake])]
  clear_value take
  have hfresh : fresh = true := by
    simp only [fresh]
    rw [hm]
    rfl
  have hb : b.ptp p = { s.ptp p with master := some a', lost := if fresh then false else (s.ptp p).lost } := s.setPtp_self p _
  rw [hfresh] at hb
  have hbreg : Dev.RegsAs s b := fun _ => rfl
  clear_value b fresh
  have hsel : sel = s.selected := by
    show (if b.on F.TB_STAT_PORT then Port.rpb else .rpa) = if s.on F.TB_STAT_PORT then Port.rpb else .rpa
    rw [hbreg.on]
  have hc : c.ptp p = b.ptp p := by
    show Dev.ptp (if _ then _ else _) p = _
    split
    · exact Dev.ptp_of_tb ((b.portMove_frame p _).part .tb) p
    · rfl
  have hcb : s.selected = p → c = b := fun hs => by
    refine if_neg ?_
    simp only [win, hsel, hs]
    simp
  clear_value c win
  have hbsel : b.selected = sel := rfl
  clear_value sel
  have hd : d.ptp p = c.ptp p := Dev.ptp_of_tb (c.showMaster_frame.part .tb) p
  have hlast (e : Dev) (he : e.ptp p = c.ptp p) : (e.ptp p).master = some a' ∧ (e.ptp p).lost = false := by
    rw [he, hc, hb]
    exact ⟨rfl, rfl⟩
  have hkept (e : Dev) (he : Dev.InputsKept d e) : (e.ptp p).master = some a' ∧ (e.ptp p).lost = false := by
    obtain ⟨h1, h2, -, -⟩ := he.ptp p
    obtain ⟨k1, k2⟩ := hlast d hd
    exact ⟨h1.trans k1, h2.trans k2⟩
  have hshown : s.selected = p → d.rd F.TB_UTC_OFFSET = a.utc.toNat % 2 ^ 16 ∧ d.on F.TB_STAT_TS_TAI = a.ptpScale := fun hs => by
    have hmaster : (c.ptp c.selected).master = some a' := by
      rw [hcb hs, hbsel, hsel, hs, hb]
    exact Dev.showMaster_spec (a := a') hmaster
  have hstay (e : Dev) (he : Dev.InputsKept d e) (hs : s.selected = p) : e.rd F.TB_UTC_OFFSET = a.utc.toNat % 2 ^ 16 ∧ e.on F.TB_STAT_TS_TAI = a.ptpScale := by
    obtain ⟨k1, k2⟩ := hshown hs
    exact ⟨(he.fields F.TB_UTC_OFFSET (by decide)).trans k1, (congrArg (· == 1) (he.fields F.TB_STAT_TS_TAI (by decide))).trans k2⟩
  split
  · split
    · have hk := Dev.InputsKept.tbTo 1 d
      exact ⟨(hkept _ hk).1, (hkept _ hk).2, hstay _ hk⟩
    · exact ⟨(hkept d (.refl d)).1, (hkept d (.refl d)).2, hstay d (.refl d)⟩
  · next hne =>
    refine ⟨(hlast c rfl).1, (hlast c rfl).2, fun hs => absurd ?_ hne⟩
    rw [hcb hs, hbsel, hsel, hs]

/-! ### A transmitter is lost -/

theorem Dev.hoClear_state (s : Dev) : s.hoClear.tbState = s.tbState := by
  unfold Dev.hoClear
  split
  · have hcheck (d : Dev) : d.pmCheck.tbState = d.tbState := d.pmCheck_frame.rd F.TB_STAT_STATE
    rw [hcheck]
    exact (Dev.rd_wrB_apart _ F.PM_STAT_F_HO F.TB_STAT_STATE _ rfl rfl).trans (Dev.rd_wrB_apart _ F.TB_STAT_HO_EXCEED F.TB_STAT_STATE _ rfl rfl)
  · rfl

/-- A time base that is out of FREE, or whose gate is open, goes where it is told. -/
theorem Dev.tbTo_state {s : Dev} {st : Nat} (h : st < 8) (hgo : s.tbState ≠ 0 ∨ s.vl.gate = true) : (s.tbTo st).tbState = st := by
  unfold Dev.tbTo
  split
  · next hif =>
    rcases hif with hif | hif
    · exact hif
    · simp only [Bool.and_eq_true, Bool.not_eq_true', beq_iff_eq] at hif
      rcases hgo with hgo | hgo
      · exact absurd hif.2 hgo
      · exact absurd (hif.1.symm.trans hgo) Bool.false_ne_true
  · extract_lets a b c d
    have hb : b.tbState = st := by
      have h1 (e : Dev) : e.stepSync.tbState = e.tbState := Dev.rd_wrB_apart _ F.TB_STAT_STEP_OK F.TB_STAT_STATE _ rfl rfl
      have h2 (e : Dev) : (e.setTb (fun t => { t with lockCnt := 0 })).tbState = e.tbState := rfl
      have h3 (e : Dev) : (e.event F.TB_EVT_STATE_CHG).tbState = e.tbState := Dev.rd_event_apart _ _ _ rfl rfl
      have h4 : (a.wr F.TB_STAT_STATE st).tbState = st := (Dev.rd_wr_self a F.TB_STAT_STATE st rfl).trans (Nat.mod_eq_of_lt h)
      exact (h1 _).trans ((h2 _).trans ((h3 _).trans h4))
    clear_value b
    have hc : c.tbState = b.tbState := by
      show Dev.tbState (if _ then _ else _) = _
      split
      · rfl
      · rfl
    clear_value c
    have hd : d.tbState = c.tbState := by
      show Dev.tbState (if _ then _ else _) = _
      split
      · exact (Dev.hoClear_state _).trans (Dev.rd_wr_apart c F.TB_UNC F.TB_STAT_STATE _ rfl rfl)
      · rfl
    clear_value d
    have hlast : d.tbState = st := hd.trans (hc.trans hb)
    split
    · exact hlast
    · exact hlast

theorem Dev.holdover_spec {s : Dev} (h : s.tbState ≠ 0) : s.holdover.tbState = 3 ∧ s.holdover.tb.hoSecs = 0 := by
  have hto : (s.growthIn.tbTo 3).tbState = 3 := Dev.tbTo_state (s := s.growthIn) (by decide) (.inl h)
  unfold Dev.holdover
  extract_lets f u a b
  have ha : a.tbState = 3 := (Dev.rd_wr_apart _ F.TB_HO_FERR F.TB_STAT_STATE _ rfl rfl).trans hto
  clear_value a
  have hb : b.tbState = 3 ∧ b.tb.hoSecs = 0 := ⟨ha, rfl⟩
  clear_value b
  refine ⟨?_, hb.2⟩
  exact (Dev.rd_wr_apart _ F.TB_FREQ_ADJ F.TB_STAT_STATE _ rfl rfl).trans hb.1

theorem Dev.sourceGone_spec {s : Dev} (h : s.tbState = 2 ∨ s.tbState = 4) : s.sourceGone.tbState = 3 ∧ s.sourceGone.tb.hoSecs = 0 := by
  unfold Dev.sourceGone
  rw [if_pos h]
  exact Dev.holdover_spec (by omega)

theorem Dev.showShadow_selected (s : Dev) : s.showShadow.selected = s.selected := by
  have h : s.showShadow.on F.TB_STAT_PORT = s.on F.TB_STAT_PORT := Dev.on_wr_apart s F.TB_SHADOW_OFFSET F.TB_STAT_PORT _ rfl rfl
  rw [Dev.selected, Dev.selected, h]

theorem Dev.showShadow_tbSrc (s : Dev) : s.showShadow.tbSrc = s.tbSrc := by
  have h : s.showShadow.rd F.TB_CFG_SRC = s.rd F.TB_CFG_SRC := Dev.rd_wr_apart s F.TB_SHADOW_OFFSET F.TB_CFG_SRC _ rfl rfl
  rw [Dev.tbSrc, Dev.tbSrc, h, s.showShadow_frame.part .tb]

/-- With no offset of the other port the shadow offset has none. -/
theorem Dev.showShadow_none {s : Dev} (h : (s.ptp (otherPort s.selected)).offset = none) : s.showShadow.rd F.TB_SHADOW_OFFSET = 0x80000000 := by
  unfold Dev.showShadow
  dsimp only
  rw [h]
  exact Dev.rd_wr_self s F.TB_SHADOW_OFFSET _ rfl

theorem Dev.ptpLost_spec (p : Port) (gone : Bool) (s : Dev) : ((s.ptpLost p gone).ptp p).lost = true ∧
    ((s.ptpLost p gone).ptp p).master = (if gone then none else (s.ptp p).master) ∧
    (s.selected ≠ p → ((s.ptpLost p gone).ptp p).offset = none ∧ (s.ptpLost p gone).rd F.TB_SHADOW_OFFSET = 0x80000000 ∧
      ((s.ptp s.selected).good = true → Dev.Frame [5] [.tb] s (s.ptpLost p gone))) ∧
    ((s.ptp (otherPort p)).good = false → s.tbSrc = 0 → s.tbState = 2 ∨ s.tbState = 4 →
      (s.ptpLost p gone).tbState = 3 ∧ (s.ptpLost p gone).tb.hoSecs = 0) := by
  unfold Dev.ptpLost
  extract_lets a b
  have ha : a.ptp p = { s.ptp p with lost := true, master := if gone then none else (s.ptp p).master } := s.setPtp_self p _
  have hother : a.ptp (otherPort p) = s.ptp (otherPort p) := s.setPtp_other p _
  have haframe : Dev.Frame [] [.tb] s a := s.setPtp_frame p _
  have hasel : a.selected = s.selected := by rw [Dev.selected, Dev.selected, haframe.on _ List.not_mem_nil]
  have hsrc : a.tbSrc = s.tbSrc := by cases p <;> rfl
  have hstate : a.tbState = s.tbState := haframe.rd _ List.not_mem_nil
  have hbptp : b.ptp p = { a.ptp p with offset := none } := (Dev.ptp_of_tb ((Dev.showShadow_frame _).part .tb) p).trans (a.setPtp_self p _)
  have hbother : b.ptp (otherPort p) = a.ptp (otherPort p) := (Dev.ptp_of_tb ((Dev.showShadow_frame _).part .tb) _).trans (a.setPtp_other p _)
  have hbframe : Dev.Frame [5] [.tb] s b := ((haframe.mono (w' := [5])).then (a.setPtp_frame p _)).then (Dev.showShadow_frame _)
  have hbsel : b.selected = a.selected := (a.setPtp p (fun x => { x with offset := none })).showShadow_selected
  have hbsrc : b.tbSrc = a.tbSrc := (Dev.showShadow_tbSrc _).trans (by cases p <;> rfl)
  have hbstate : b.tbState = a.tbState := Dev.rd_wr_apart (a.setPtp p (fun x => { x with offset := none })) F.TB_SHADOW_OFFSET F.TB_STAT_STATE _ rfl rfl
  have hbshadow : a.selected ≠ p → b.rd F.TB_SHADOW_OFFSET = 0x80000000 := fun hne =>
    Dev.showShadow_none (by
      have hs : (a.setPtp p (fun x => { x with offset := none })).selected = a.selected := rfl
      rw [hs, show otherPort a.selected = p from (otherPort_of_ne (Ne.symm hne)).symm, Dev.setPtp_self])
  clear_value b a
  have hmaster (d : Dev) (hd : d.ptp p = a.ptp p ∨ d.ptp p = { a.ptp p with offset := none }) :
      (d.ptp p).lost = true ∧ (d.ptp p).master = if gone then none else (s.ptp p).master := by
    rcases hd with hd | hd <;> rw [hd, ha] <;> exact ⟨rfl, rfl⟩
  by_cases hne : a.selected ≠ p
  · rw [if_pos hne]
    have hsel : s.selected = otherPort p := otherPort_of_ne (hasel ▸ hne)
    have hgood : (b.ptp b.selected).good = (s.ptp s.selected).good := by
      rw [hbsel, hasel, hsel, hbother, hother]
    obtain ⟨hl, hm⟩ := hmaster b (.inr hbptp)
    by_cases hg : (s.ptp s.selected).good = true
    · rw [if_neg (by simp [hgood, hg])]
      refine ⟨hl, hm, fun _ => ⟨by rw [hbptp], hbshadow hne, fun _ => hbframe⟩, fun hbad => ?_⟩
      rw [← hsel, hg] at hbad
      cases hbad
    · by_cases hs0 : b.tbSrc = 0
      · rw [if_pos (by simp [hgood, hg, hs0])]
        have hk := Dev.InputsKept.sourceGone b
        obtain ⟨h1, h2, -, h4⟩ := hk.ptp p
        exact ⟨h2.trans hl, h1.trans hm, fun _ => ⟨h4.trans (by rw [hbptp]), (hk.fields _ (by decide)).trans (hbshadow hne), fun hc => absurd hc hg⟩,
          fun _ _ hst => Dev.sourceGone_spec (by rw [hbstate, hstate]; exact hst)⟩
      · rw [if_neg (by simp [hs0])]
        exact ⟨hl, hm, fun _ => ⟨by rw [hbptp], hbshadow hne, fun hc => absurd hc hg⟩,
          fun _ h0 => absurd (hbsrc.trans (hsrc.trans h0)) hs0⟩
  · rw [if_neg hne]
    obtain ⟨hl, hm⟩ := hmaster a (.inl rfl)
    have hself : ¬s.selected ≠ p := hasel ▸ hne
    by_cases hg : (a.ptp (otherPort p)).good = true
    · rw [if_pos hg]
      exact ⟨hl, hm, fun hc => absurd hc hself, fun hbad => absurd (hother ▸ hg) (by rw [hbad]; decide)⟩
    · rw [if_neg hg]
      by_cases h0 : a.tbSrc = 0
      · rw [if_pos h0]
        obtain ⟨h1, h2, -, -⟩ := (Dev.InputsKept.sourceGone a).ptp p
        exact ⟨h2.trans hl, h1.trans hm, fun hc => absurd hc hself, fun _ _ hst => Dev.sourceGone_spec (by rw [hstate]; exact hst)⟩
      · rw [if_neg h0]
        exact ⟨hl, hm, fun hc => absurd hc hself, fun _ hc => absurd (hsrc.trans hc) h0⟩

end Sys2Proof.Machine
end

section
-- One proof after another: in parallel the proofs of this text would not fit the memory that its check allows.
set_option Elab.async false
/-!
PROOFS. Edges of PPS, and the inputs of the time base as a whole (02 R38, R39, R48, R50).
-/
namespace Sys2Proof.Machine

theorem Dev.InputsKept.ppsUse (diff : Int) (s : Dev) : Dev.InputsKept s (s.ppsUse diff) := by
  unfold Dev.ppsUse
  split
  · split
    · extract_lets a sec b
      have ha : Dev.InputsKept s a := (Dev.InputsKept.refl s).setTb _
      clear_value a
      have hb : Dev.InputsKept s b := ((ha.trans (.jump _ a)).wr _ _).event _
      clear_value b
      split
      · split
        · split
          · exact hb.trans (.tbTo _ _)
          · exact hb
        · exact ((hb.trans (.tbTo _ _)).trans (.tbUnc _)).trans (.enginesOut _)
        · exact hb
      · exact ha.event _
    · exact .tbOffset _ s
  · split
    · extract_lets a
      have ha : Dev.InputsKept s a := (Dev.InputsKept.refl s).wr _ _
      clear_value a
      split
      · exact (ha.event _).raise _ _ _ _
      · exact ha
    · exact .refl s

/-- The edges counted so far. -/
def Tb.edge (falling : Bool) (n : Nat) (t : Tb) : Tb := { t with ppsCand := falling, ppsCnt := n }

/-- How many good edges in a row this one makes. -/
def Dev.edgesWith (s : Dev) (falling periodOk : Bool) : Nat := if falling = s.tb.ppsCand ∧ periodOk then min 3 (s.tb.ppsCnt + 1) else 0

/-- A qualified edge is seen. -/
def Dev.edgeSeen (falling : Bool) (s : Dev) : Dev :=
  let s := if s.tb.ppsPolKnown && s.on F.TB_STAT_PPS_POL != falling then
      (s.event F.TB_EVT_PPS_POL_CHG).raise 0x0505 0 (srcWord 5)
    else s
  let s := (s.setTb (fun t => { t with ppsPolKnown := true })).wrB F.TB_STAT_PPS_POL falling
  s.wrB F.TB_STAT_PPS_QUAL true

theorem Dev.ppsEdge_eq {s : Dev} {falling shorter : Bool} (hin : s.on F.TB_PPS_CFG_IN_EN = true)
    (hact : (if s.on F.TB_PPS_CFG_POL_AUTO then shorter else falling == s.on F.TB_PPS_CFG_POL_FORCE) = true) (periodOk : Bool) (diff : Int) :
    s.ppsEdge falling shorter periodOk diff = if s.edgesWith falling periodOk < 3 then s.setTb (Tb.edge falling (s.edgesWith falling periodOk))
      else ((s.setTb (Tb.edge falling (s.edgesWith falling periodOk))).edgeSeen falling).ppsUse diff := by
  unfold Dev.ppsEdge
  rw [hact, hin]
  exact if_neg (by decide)

theorem Dev.edgeSeen_spec (falling : Bool) (s : Dev) : (s.edgeSeen falling).on F.TB_STAT_PPS_QUAL = true ∧ (s.edgeSeen falling).on F.TB_STAT_PPS_POL = falling := by
  unfold Dev.edgeSeen
  extract_lets a b
  have hb : b.on F.TB_STAT_PPS_POL = falling := Dev.on_wrB_self _ _ _ rfl rfl
  clear_value b
  exact ⟨Dev.on_wrB_self _ _ _ rfl rfl, (Dev.on_wr_apart _ _ _ _ rfl rfl).trans hb⟩

theorem Dev.ppsGone_spec (s : Dev) : s.ppsGone.on F.TB_STAT_PPS_QUAL = false ∧ s.ppsGone.tb.ppsCnt = 0 ∧
    (s.tbSrc = 1 → s.tbState = 2 ∨ s.tbState = 4 → s.ppsGone.tbState = 3) := by
  unfold Dev.ppsGone
  extract_lets a
  have hqual : a.on F.TB_STAT_PPS_QUAL = false := Dev.on_wrB_self _ _ _ rfl rfl
  have hcnt : a.tb.ppsCnt = 0 := rfl
  have hsrc : a.tbSrc = s.tbSrc := by
    have h : a.rd F.TB_CFG_SRC = s.rd F.TB_CFG_SRC := Dev.rd_wrB_apart (s.setTb (fun t => { t with ppsCnt := 0 })) F.TB_STAT_PPS_QUAL F.TB_CFG_SRC _ rfl rfl
    have ht : a.tb.srcPend = s.tb.srcPend := rfl
    rw [Dev.tbSrc, Dev.tbSrc, h, ht]
  have hstate : a.tbState = s.tbState := Dev.rd_wrB_apart (s.setTb (fun t => { t with ppsCnt := 0 })) F.TB_STAT_PPS_QUAL F.TB_STAT_STATE _ rfl rfl
  clear_value a
  by_cases h1 : a.tbSrc = 1
  · rw [if_pos h1]
    have hk := Dev.InputsKept.sourceGone a
    exact ⟨(congrArg (· == 1) (hk.fields F.TB_STAT_PPS_QUAL (by decide))).trans hqual, hk.tb.2.2.trans hcnt,
      fun _ hst => (Dev.sourceGone_spec (by rw [hstate]; exact hst)).1⟩
  · rw [if_neg h1]
    exact ⟨hqual, hcnt, fun hc => absurd (hsrc.trans hc) h1⟩

/-! ### A request goes out -/

/-- The request that a port sends. -/
def Dev.requestOn (s : Dev) (p : Port) (udp : Bool) : Tx :=
  .ptpRequest p udp (s.on F.TB_PTP_CFG_DELAY_MECH) (s.on F.TB_PTP_CFG_MCAST_DA)
    (BitVec.ofNat 48 (s.rd (rpFld p F.RPA_MAC_HI) * 2 ^ 32 + s.rd (rpFld p F.RPA_MAC_LO))) (BitVec.ofNat 8 (s.rd F.TB_PTP_CFG_DOMAIN)) ((s.ptp p).reqSeq + 1)

/-- A request is out. -/
def PtpPort.asked (q : BitVec 16) (n : Nat) (x : PtpPort) : PtpPort := { x with reqSeq := q, reqOut := true, reqAt := some n }

theorem Dev.ptpRequest_go {s : Dev} {p : Port} (hon : s.ptpOn p = true)
    (hdue : ∀ a, (s.ptp p).reqAt = some a → s.now < a ∨ 1000000 ≤ (s.now - a) * 2 ^ s.rd F.TB_PTP_CFG_LOG_REQ) :
    s.ptpRequest p = Dev.when (s.rd F.TB_PTP_CFG_TRANSPORT != 0) (·.send (s.requestOn p true)) (Dev.when (s.rd F.TB_PTP_CFG_TRANSPORT != 1)
      (·.send (s.requestOn p false)) (s.setPtp p (PtpPort.asked ((s.ptp p).reqSeq + 1) s.now))) := by
  have hearly : (s.ptp p).reqAt.any (fun a => decide (a ≤ s.now) && decide ((s.now - a) * 2 ^ s.rd F.TB_PTP_CFG_LOG_REQ < 1000000)) = false := by
    cases h : (s.ptp p).reqAt with
    | none => rfl
    | some a =>
      have ha := hdue a h
      simp only [Option.any_some, Bool.and_eq_false_iff, decide_eq_false_iff_not, Nat.not_le, Nat.not_lt]
      exact ha
  unfold Dev.ptpRequest
  dsimp only
  rw [hearly, hon]
  exact if_pos rfl

theorem Dev.sentOver (c d : Bool) (x y : Tx) (s : Dev) : (Dev.when d (·.send y) (Dev.when c (·.send x) s)).tx =
    s.tx ++ ((if c then [x] else []) ++ (if d then [y] else [])) := by
  cases c <;> cases d <;> simp [Dev.when, Dev.send]

theorem Dev.sentOver_frame (c d : Bool) (x y : Tx) (s : Dev) : Dev.Frame [] [] s (Dev.when d (·.send y) (Dev.when c (·.send x) s)) :=
  (Dev.Frame.when c _ s ((Dev.Frame.refl _ _ s).send x)).when' d ((Dev.Frame.refl _ _ _).send y)

end Sys2Proof.Machine

namespace Sys2Proof.Proofs
open Sys2Proof.Machine

/-- A Follow_Up of a Sync that waits for it. -/
theorem followUp_taken {s : State} (hrun : Running s) (p : Port) (h : PtpHdr) (seq : BitVec 16) (origin rx : Int)
    (htakes : s.dev.ptpTakes p h (-7) 0 = true) (hbest : s.dev.fromBest p h = true) (hpend : (s.dev.ptp p).pend = some { seq := seq, rx := rx }) :
    ∃ t, exec (.ptpFollowUp p h seq origin) s = .next t ∧ (t.dev.ptp p).pend = none ∧
      (t.dev.ptp p).offset = some (rx - origin - (s.dev.ptp p).delay) ∧ KeepsMem s t := by
  have hexec : exec (.ptpFollowUp p h seq origin) s = .next { s with dev := s.fresh.dev.ptpFollowUp p h seq origin } := State.onDev_next s _ hrun
  have hfresh : s.fresh.dev.ptp p = s.dev.ptp p := Dev.ptp_of_tb rfl p
  have hgo : s.fresh.dev.ptpFollowUp p h seq origin = (s.fresh.dev.setPtp p (fun x => { x with pend := none })).syncOffset p (rx - origin) := by
    unfold Dev.ptpFollowUp
    rw [if_neg (by rw [show s.fresh.dev.ptpTakes p h (-7) 0 = true from htakes, show s.fresh.dev.fromBest p h = true from hbest]; decide), hfresh, hpend]
    exact if_pos rfl
  obtain ⟨h1, -, h3⟩ := Dev.syncOffset_spec p (rx - origin) (s.fresh.dev.setPtp p (fun x => { x with pend := none }))
  rw [Dev.setPtp_self] at h1 h3
  rw [hgo] at hexec
  exact ⟨_, hexec, h1, h3.trans (by rw [hfresh]), fun _ => rfl, rfl⟩

/-- A Sync or Follow_Up that the time base does not take leaves everything. -/
theorem sync_left {s : State} (hrun : Running s) (p : Port) (h : PtpHdr) (seq : BitVec 16) (origin rx : Int) (two : Bool)
    (hout : s.dev.fromBest p h = false ∨ s.dev.on F.TB_REF_STAT_SWITCHING = true ∨ s.dev.portInCal p = true) :
    exec (.ptpSync p h seq two origin rx) s = .next s.fresh := by
  have hexec : exec (.ptpSync p h seq two origin rx) s = .next { s with dev := s.fresh.dev.ptpSync p h seq two origin rx } := State.onDev_next s _ hrun
  have hstay : s.fresh.dev.ptpSync p h seq two origin rx = s.fresh.dev := if_pos (by
    simp only [Bool.or_eq_true, Bool.not_eq_true']
    rcases hout with hb | hsw | hcal
    · exact .inl (.inl (.inr hb))
    · exact .inl (.inr hsw)
    · exact .inr hcal)
  rw [hexec, hstay]
  rfl

theorem followUp_left {s : State} (hrun : Running s) (p : Port) (h : PtpHdr) (seq : BitVec 16) (origin : Int) (hout : s.dev.fromBest p h = false) :
    exec (.ptpFollowUp p h seq origin) s = .next s.fresh := by
  have hexec : exec (.ptpFollowUp p h seq origin) s = .next { s with dev := s.fresh.dev.ptpFollowUp p h seq origin } := State.onDev_next s _ hrun
  have hstay : s.fresh.dev.ptpFollowUp p h seq origin = s.fresh.dev := if_pos (by
    simp only [Bool.or_eq_true, Bool.not_eq_true']
    exact .inr hout)
  rw [hexec, hstay]
  rfl

/-- A delay response that answers the port's request. -/
theorem delayResp_taken {s : State} (hrun : Running s) (p : Port) (h : PtpHdr) (seq : BitVec 16) (t1 t2 t3 t4 : Int)
    (htakes : s.dev.ptpTakes p h (-128) 127 = true) (hout : (s.dev.ptp p).reqOut = true) (hseq : (s.dev.ptp p).reqSeq = seq) {peer : Bool}
    (hpeer : peer = s.dev.on F.TB_PTP_CFG_DELAY_MECH) {sum : Int}
    (hsum : sum = if peer then (t2 - stampFix t1 (s.dev.rpTxlat p)) + (stampFix t4 (-s.dev.rpRxlat p) - t3)
      else (stampFix t2 (-s.dev.rpRxlat p) - t1) + (t4 - stampFix t3 (s.dev.rpTxlat p))) :
    ∃ t, exec (.ptpDelayResp p h peer seq t1 t2 t3 t4) s = .next t ∧
      t.dev.ptp p = { s.dev.ptp p with reqOut := false, delay := divRne sum 2 } ∧ Writes s.dev [.tb] s t := by
  have hexec : exec (.ptpDelayResp p h peer seq t1 t2 t3 t4) s = .next { s with dev := s.fresh.dev.ptpDelayResp p h peer seq t1 t2 t3 t4 } :=
    State.onDev_next s _ hrun
  have hfresh : s.fresh.dev.ptp p = s.dev.ptp p := Dev.ptp_of_tb rfl p
  have hgo : s.fresh.dev.ptpDelayResp p h peer seq t1 t2 t3 t4 = s.fresh.dev.setPtp p (fun x => { x with reqOut := false, delay := divRne sum 2 }) := by
    have hmech : (peer == s.fresh.dev.on F.TB_PTP_CFG_DELAY_MECH) = true := beq_iff_eq.mpr hpeer
    rw [hsum]
    unfold Dev.ptpDelayResp
    dsimp only
    rw [show s.fresh.dev.ptpTakes p h (-128) 127 = true from htakes, hfresh, hout, hseq, hmech, beq_self_eq_true]
    exact if_pos rfl
  rw [hgo] at hexec
  refine ⟨_, hexec, ?_, (Dev.setPtp_frame p _ _).writes⟩
  rw [show ({ s with dev := s.fresh.dev.setPtp p (fun x => { x with reqOut := false, delay := divRne sum 2 }) } : State).dev.ptp p = _ from Dev.setPtp_self p _ _, hfresh]

/-- An edge of PPS of the polarity in use. -/
theorem ppsEdge_counts {s : State} (hrun : Running s) (falling shorter periodOk : Bool) (diff : Int) (hin : s.dev.on F.TB_PPS_CFG_IN_EN = true)
    (hact : (if s.dev.on F.TB_PPS_CFG_POL_AUTO then shorter else falling == s.dev.on F.TB_PPS_CFG_POL_FORCE) = true) {n : Nat}
    (hn : n = s.dev.edgesWith falling periodOk) :
    (n < 3 → ∃ t, exec (.ppsEdge falling shorter periodOk diff) s = .next t ∧
      t.dev.tb = { s.dev.tb with ppsCand := falling, ppsCnt := n } ∧ Writes s.dev [.tb] s t) ∧
    (n = 3 → ∃ t, exec (.ppsEdge falling shorter periodOk diff) s = .next t ∧ t.dev.on F.TB_STAT_PPS_QUAL = true ∧
      t.dev.on F.TB_STAT_PPS_POL = falling ∧ KeepsMem s t) := by
  have hexec : exec (.ppsEdge falling shorter periodOk diff) s = .next { s with dev := s.fresh.dev.ppsEdge falling shorter periodOk diff } :=
    State.onDev_next s _ hrun
  have hnf : s.fresh.dev.edgesWith falling periodOk = n := hn.symm
  rw [Dev.ppsEdge_eq (s := s.fresh.dev) hin hact, hnf] at hexec
  refine ⟨fun hlt => ?_, fun h3 => ?_⟩
  · rw [if_pos hlt] at hexec
    exact ⟨_, hexec, rfl, Dev.Frame.writes ((Dev.Frame.refl _ _ _).tb _)⟩
  · rw [if_neg (by omega)] at hexec
    obtain ⟨hq, hp⟩ := (s.fresh.dev.setTb (Tb.edge falling n)).edgeSeen_spec falling
    generalize (s.fresh.dev.setTb (Tb.edge falling n)).edgeSeen falling = u at *
    have hk := Dev.InputsKept.ppsUse diff u
    exact ⟨_, hexec, (congrArg (· == 1) (hk.fields F.TB_STAT_PPS_QUAL (by decide))).trans hq,
      (congrArg (· == 1) (hk.fields F.TB_STAT_PPS_POL (by decide))).trans hp, fun _ => rfl, rfl⟩

/-- A request goes out over each transport configured. -/
theorem request_sent {s : State} (hrun : Running s) (p : Port) (hon : s.dev.ptpOn p = true)
    (hdue : ∀ a, (s.dev.ptp p).reqAt = some a → s.dev.now < a ∨ 1000000 ≤ (s.dev.now - a) * 2 ^ s.dev.rd F.TB_PTP_CFG_LOG_REQ) :
    ∃ t, exec (.ptpRequestSend p) s = .next t ∧
      t.dev.tx = (if s.dev.rd F.TB_PTP_CFG_TRANSPORT = 1 then [] else [s.dev.requestOn p false]) ++
        (if s.dev.rd F.TB_PTP_CFG_TRANSPORT = 0 then [] else [s.dev.requestOn p true]) ∧
      t.dev.ptp p = PtpPort.asked ((s.dev.ptp p).reqSeq + 1) s.dev.now (s.dev.ptp p) ∧ Writes s.dev [.tb] s t := by
  have hexec : exec (.ptpRequestSend p) s = .next { s with dev := s.fresh.dev.ptpRequest p } := State.onDev_next s _ hrun
  have hfresh : s.fresh.dev.ptp p = s.dev.ptp p := Dev.ptp_of_tb rfl p
  have hout (udp : Bool) : s.fresh.dev.requestOn p udp = s.dev.requestOn p udp := by
    rw [Dev.requestOn, Dev.requestOn, hfresh]
    rfl
  have hway : s.fresh.dev.rd F.TB_PTP_CFG_TRANSPORT = s.dev.rd F.TB_PTP_CFG_TRANSPORT := rfl
  rw [Dev.ptpRequest_go (s := s.fresh.dev) hon (by rw [hfresh]; exact hdue), hout, hout, hfresh, hway] at hexec
  have hset := Dev.setPtp_frame p (PtpPort.asked ((s.dev.ptp p).reqSeq + 1) s.fresh.dev.now) s.fresh.dev
  have hself := Dev.setPtp_self p (PtpPort.asked ((s.dev.ptp p).reqSeq + 1) s.fresh.dev.now) s.fresh.dev
  have htx : (s.fresh.dev.setPtp p (PtpPort.asked ((s.dev.ptp p).reqSeq + 1) s.fresh.dev.now)).tx = [] := rfl
  generalize s.fresh.dev.setPtp p (PtpPort.asked ((s.dev.ptp p).reqSeq + 1) s.fresh.dev.now) = u at *
  have hsent := u.sentOver_frame (s.dev.rd F.TB_PTP_CFG_TRANSPORT != 1) (s.dev.rd F.TB_PTP_CFG_TRANSPORT != 0) (s.dev.requestOn p false) (s.dev.requestOn p true)
  have hlist := u.sentOver (s.dev.rd F.TB_PTP_CFG_TRANSPORT != 1) (s.dev.rd F.TB_PTP_CFG_TRANSPORT != 0) (s.dev.requestOn p false) (s.dev.requestOn p true)
  refine ⟨_, hexec, ?_, ?_, (hset.then hsent).writes⟩
  · refine hlist.trans ?_
    rw [htx]
    simp only [bne_iff_ne, ne_eq, ite_not, List.nil_append]
  · exact ((Dev.ptp_of_tb (hsent.part .tb) p).trans hself).trans (by rw [hfresh]; rfl)

/-- Settles O57, one law per input: what the servo and the engines' release do with an offset leaves what the input brought. -/
theorem timeInputs : Obligations.TimeInputs := by
  intro s hrun
  refine ⟨fun p h seq origin rx htakes => ?_, fun p h a htakes hm => ?_, fun p h seq t1 t2 t3 t4 htakes hout hseq => ?_,
    fun p hon hdue => request_sent hrun p hon hdue, fun p gone => ?_, fun falling shorter periodOk diff hin hact => ?_, ?_, fun hen hst hpm hout => ?_, fun hout => ?_⟩
  · intro at_
    exact ⟨fun hbest hsw hcal => sync_taken hrun p h seq origin rx htakes hbest hsw hcal, fun hout two => sync_left hrun p h seq origin rx two hout,
      fun hout => followUp_left hrun p h seq origin hout, fun hbest hpend => followUp_taken hrun p h seq origin rx htakes hbest hpend⟩
  · have hexec : exec (.ptpAnnounce p h a) s = .next { s with dev := s.fresh.dev.ptpAnnounce p h a } := State.onDev_next s _ hrun
    obtain ⟨k1, k2, k3⟩ := Dev.ptpAnnounce_spec (s := s.fresh.dev) a htakes ((congrArg PtpPort.master (Dev.ptp_of_tb rfl p)).trans hm)
    exact ⟨_, hexec, k1, k2, k3, fun _ => rfl, rfl⟩
  · intro peer out in_ sum
    exact delayResp_taken hrun p h seq t1 t2 t3 t4 htakes hout hseq rfl rfl
  · have hexec : exec (if gone then .announceReceiptTimeout p else .syncTimeout p) s = .next { s with dev := s.fresh.dev.ptpLost p gone } := by
      cases gone with
      | true => exact State.onDev_next s _ hrun
      | false => exact State.onDev_next s _ hrun
    have hfresh (q : Port) : s.fresh.dev.ptp q = s.dev.ptp q := Dev.ptp_of_tb rfl q
    obtain ⟨k1, k2, k3, k4⟩ := s.fresh.dev.ptpLost_spec p gone
    rw [hfresh] at k2 k4
    refine ⟨_, hexec, k1, k2, fun hne => ?_, k4, fun _ => rfl, rfl⟩
    obtain ⟨m1, m2, m3⟩ := k3 hne
    exact ⟨m1, m2, fun hg => (m3 (by rw [hfresh]; exact hg)).only⟩
  · intro n
    exact ppsEdge_counts hrun falling shorter periodOk diff hin hact rfl
  · have hexec : exec .ppsLost s = .next { s with dev := s.fresh.dev.ppsGone } := State.onDev_next s _ hrun
    obtain ⟨k1, k2, k3⟩ := s.fresh.dev.ppsGone_spec
    exact ⟨_, hexec, k1, k2, k3, fun _ => rfl, rfl⟩
  · have hexec : exec (.ppsOut true) s = .next { s with dev := s.fresh.dev.ppsDrive true } := State.onDev_next s _ hrun
    have hgo : s.fresh.dev.ppsDrive true = (s.fresh.dev.setTb (fun t => { t with ppsOut := true })).send (.pin "PPS_OUT" true) := by
      unfold Dev.ppsDrive
      rw [if_pos rfl]
      refine if_pos ?_
      simp only [Bool.and_eq_true, bne_iff_ne, decide_eq_true_eq, Bool.not_eq_true']
      exact ⟨⟨⟨hen, hst⟩, hpm⟩, hout⟩
    rw [hgo] at hexec
    exact ⟨_, hexec, rfl, rfl, Dev.Frame.writes (((Dev.Frame.refl _ _ _).tb _).send _)⟩
  · have hexec : exec (.ppsOut false) s = .next { s with dev := s.fresh.dev.ppsDrive false } := State.onDev_next s _ hrun
    have hgo : s.fresh.dev.ppsDrive false = (s.fresh.dev.setTb (fun t => { t with ppsOut := false })).send (.pin "PPS_OUT" false) := by
      unfold Dev.ppsDrive
      rw [if_neg Bool.false_ne_true]
      exact if_pos hout
    rw [hgo] at hexec
    exact ⟨_, hexec, rfl, rfl, Dev.Frame.writes (((Dev.Frame.refl _ _ _).tb _).send _)⟩

end Sys2Proof.Proofs
end

section
-- One proof after another: in parallel the proofs of this text would not fit the memory that its check allows.
set_option Elab.async false
/-!
PROOFS. The banks of a plan, and what staging a plan and discarding one leave (06 R132, R148, 08 R205, R207).
-/
namespace Sys2Proof.Machine

/-! ### One bank -/


theorem Fs.map_eq (f : Fs) (b : Bool) (n : Nat) : f.map b n = (f.mapOf b).get n := by cases b <;> rfl

@[simp] theorem Fs.mapOf_setMap_self (f : Fs) (b : Bool) (m : Tbl (Option Nat)) : (f.setMap b m).mapOf b = m := by cases b <;> rfl

@[simp] theorem Fs.setMap_slots (f : Fs) (b : Bool) (m : Tbl (Option Nat)) : (f.setMap b m).slots = f.slots := by cases b <;> rfl

@[simp] theorem Dev.planBank_setPlan_self (s : Dev) (b : Bool) (p : Option Plan) : (s.setPlan b p).planBank b = p := by cases b <;> rfl

theorem Dev.setPlan_frame (s : Dev) (b : Bool) (p : Option Plan) : Dev.Frame [] [.plan0, .plan1] s (s.setPlan b p) := by
  cases b with
  | true => exact (Dev.Frame.refl _ _ s).plan1 _
  | false => exact (Dev.Frame.refl _ _ s).plan0 _

/-- The frame of what changes the plan, the descriptors and the calibration of a bank. -/
theorem Dev.bankSet_frame (s : Dev) (b : Bool) (p : Option Plan) (d : Tbl Desc) (c : Tbl Word) :
    Dev.Frame [] [.plan0, .plan1, .le] s (((s.setPlan b p).setDescs b d).setCal b c) := by
  have hput := (s.setPlan_frame b p).mono (w' := []) (l' := [.plan0, .plan1, .le])
  cases b with
  | true => exact (hput.le _).le _
  | false => exact (hput.le _).le _

theorem Dev.bankSet_plan (s : Dev) (b : Bool) (p : Option Plan) (d : Tbl Desc) (c : Tbl Word) :
    (((s.setPlan b p).setDescs b d).setCal b c).planBank b = p := by cases b <;> rfl

theorem Dev.bankSet_descs (s : Dev) (b : Bool) (p : Option Plan) (d : Tbl Desc) (c : Tbl Word) :
    (((s.setPlan b p).setDescs b d).setCal b c).descsOf b = d := by cases b <;> rfl

theorem Dev.bankSet_fs (s : Dev) (b : Bool) (p : Option Plan) (d : Tbl Desc) (c : Tbl Word) :
    (((s.setPlan b p).setDescs b d).setCal b c).fs = s.fs := by cases b <;> rfl

/-- The map of a bank is replaced, and no demand word of the bank is bad any more (07 R183). -/
def Dev.mapPut (b : Bool) (m : Tbl (Option Nat)) (s : Dev) : Dev :=
  { s with fs := s.fs.setMap b m, de := { s.de with badMap := s.de.badMap.filter (fun x => x.1 != b) } }

theorem Dev.mapPut_frame (b : Bool) (m : Tbl (Option Nat)) (s : Dev) : Dev.Frame [] [.fs, .de] s (s.mapPut b m) :=
  ((Dev.Frame.refl _ _ s).fs (s.fs.setMap b m)).de { s.de with badMap := s.de.badMap.filter (fun x => x.1 != b) }

theorem Dev.clearBank_frame (s : Dev) (b : Bool) : Dev.Frame [] [.fs, .plan0, .plan1, .le, .de] s (s.clearBank b) :=
  ((s.bankSet_frame b none [] []).mono).then (Dev.mapPut_frame b [] _)

theorem Dev.clearBank_planBank (s : Dev) {b c : Bool} (h : c ≠ b) : (s.clearBank b).planBank c = s.planBank c := by
  cases b <;> cases c <;> first | rfl | exact absurd rfl h

theorem Dev.clearBank_tx (s : Dev) (b : Bool) : (s.clearBank b).tx = s.tx := by cases b <;> rfl

/-- What leaves the banks leaves the plan and the descriptors of each. -/
theorem Dev.Frame.planBank {w : List Nat} {l : List Part} {s t : Dev} (h : Dev.Frame w l s t) (b : Bool)
    (h0 : Part.plan0 ∉ l := by decide) (h1 : Part.plan1 ∉ l := by decide) : t.planBank b = s.planBank b := by
  rw [Dev.planBank, Dev.planBank, h.part .plan0 h0, h.part .plan1 h1]

theorem Dev.Frame.descsOf {w : List Nat} {l : List Part} {s t : Dev} (h : Dev.Frame w l s t) (b : Bool)
    (hl : Part.le ∉ l := by decide) : t.descsOf b = s.descsOf b := by
  rw [Dev.descsOf, Dev.descsOf, h.part .le hl]

/-! ### A staged plan discarded -/

theorem Dev.fsStat_staged (s : Dev) : s.fsStat.on F.GL_STAT_STAGED = s.on F.GL_STAT_STAGED :=
  congrArg (· == 1) (s.fsStat_frame.rd F.GL_STAT_STAGED)

theorem Dev.discardStaged_frame (s : Dev) : Dev.Frame [10, 11] [.fs, .plan0, .plan1, .le, .de] s s.discardStaged := by
  unfold Dev.discardStaged
  split
  · exact (((s.clearBank_frame _).mono).wr _ _).then (Dev.fsStat_frame _)
  · exact .refl _ _ s

theorem Dev.discardStaged_tx (s : Dev) : s.discardStaged.tx = s.tx := by
  unfold Dev.discardStaged
  split
  · exact s.clearBank_tx _
  · rfl

theorem Dev.discardStaged_staged (s : Dev) : s.discardStaged.on F.GL_STAT_STAGED = false := by
  unfold Dev.discardStaged
  split
  next h => exact (Dev.fsStat_staged _).trans (Dev.on_wrB_self _ F.GL_STAT_STAGED false rfl rfl)
  next h => exact Bool.eq_false_iff.mpr h

theorem Dev.discardStaged_plan (s : Dev) (h : s.on F.GL_STAT_BANK ≠ s.stagedBank) : s.discardStaged.plan = s.plan := by
  unfold Dev.discardStaged
  split
  · have hclear := s.clearBank_frame s.stagedBank
    have hbank := s.clearBank_planBank h
    generalize s.clearBank s.stagedBank = c at hclear hbank ⊢
    have hon (f : Fld) (hf : blockOf f.reg ∉ [10]) (ha : F.GL_STAT_STAGED.apart f = true) :
        ((c.wr F.GL_STAT_STAGED 0).fsStat).on f = s.on f :=
      ((Dev.fsStat_frame _).on f hf).trans ((c.on_wr_apart _ f 0 rfl ha).trans (hclear.on f (by simp)))
    have hfs : ((c.wr F.GL_STAT_STAGED 0).fsStat).planBank (s.on F.GL_STAT_BANK) = c.planBank (s.on F.GL_STAT_BANK) :=
      (Dev.fsStat_frame _).planBank _
    rw [Dev.plan, Dev.plan, hon F.GL_STAT_PLAN (by decide) (by decide), hon F.GL_STAT_BANK (by decide) (by decide), hfs, hbank]
  · rfl

/-! ### A plan staged -/

theorem Dev.leFs_frame (s : Dev) (x : Le) (f : Fs) : Dev.Frame [] [.le, .fs] s { s with le := x, fs := f } :=
  ((Dev.Frame.refl _ _ s).le x).fs f

theorem Dev.keepOld_frame (s : Dev) : Dev.Frame [] [.le, .fs] s s.keepOld := by
  unfold Dev.keepOld
  dsimp only
  split
  · split
    · exact Dev.leFs_frame s _ _
    · exact .refl _ _ s
  · exact .refl _ _ s

/-- The plan is in the staged bank, and GL and FS do not show it yet. -/
def Dev.planPut (p : Plan) (m : Tbl (Option Nat)) (s : Dev) : Dev :=
  let b := s.stagedBank
  (((((s.keepOld.setPlan b (some p)).setDescs b p.descs).setCal b p.cal).mapPut b m).bmWipe 0).bmWipe 3

theorem Dev.stagePlan_eq (s : Dev) (p : Plan) (m : Tbl (Option Nat)) :
    s.stagePlan p m = ((s.planPut p m).wrB F.GL_STAT_STAGED true).fsStat := rfl

theorem Dev.planPut_frame (s : Dev) (p : Plan) (m : Tbl (Option Nat)) :
    Dev.Frame [] [.bm, .fs, .plan0, .plan1, .le, .de] s (s.planPut p m) := by
  have hput : Dev.Frame [] [.bm, .fs, .plan0, .plan1, .le, .de] s
      ((((s.keepOld.setPlan s.stagedBank (some p)).setDescs s.stagedBank p.descs).setCal s.stagedBank p.cal).mapPut s.stagedBank m) :=
    ((s.keepOld_frame.mono).then (Dev.bankSet_frame _ _ _ _ _)).then (Dev.mapPut_frame _ _ _)
  exact (hput.bmWipe 0).bmWipe 3

theorem Dev.planPut_plan (s : Dev) (p : Plan) (m : Tbl (Option Nat)) : (s.planPut p m).planBank s.stagedBank = some p :=
  Dev.bankSet_plan s.keepOld _ _ _ _

theorem Dev.planPut_descs (s : Dev) (p : Plan) (m : Tbl (Option Nat)) : (s.planPut p m).descsOf s.stagedBank = p.descs :=
  Dev.bankSet_descs s.keepOld _ _ _ _

theorem Dev.planPut_fs (s : Dev) (p : Plan) (m : Tbl (Option Nat)) : (s.planPut p m).fs = s.keepOld.fs.setMap s.stagedBank m :=
  congrArg (fun f : Fs => f.setMap s.stagedBank m) (Dev.bankSet_fs s.keepOld _ _ _ _)

/-- What staging shows, and what it leaves of the bank as it was put. -/
theorem Dev.stagePlan_spec (s : Dev) (p : Plan) (m : Tbl (Option Nat)) :
    Dev.Frame [10, 11] [.bm, .fs, .plan0, .plan1, .le, .de] s (s.stagePlan p m) ∧ (s.stagePlan p m).on F.GL_STAT_STAGED = true ∧
      (s.stagePlan p m).planBank s.stagedBank = some p ∧ (s.stagePlan p m).descsOf s.stagedBank = p.descs ∧
      (s.stagePlan p m).fs = s.keepOld.fs.setMap s.stagedBank m := by
  have hput := s.planPut_frame p m
  have hplan := s.planPut_plan p m
  have hdescs := s.planPut_descs p m
  have hfs := s.planPut_fs p m
  rw [Dev.stagePlan_eq]
  generalize s.planPut p m = u at *
  have hshow : Dev.Frame [10, 11] [] u (u.wrB F.GL_STAT_STAGED true).fsStat := ((Dev.Frame.refl _ _ u).wrB _ _).then (Dev.fsStat_frame _)
  refine ⟨(hput.mono).then hshow, (Dev.fsStat_staged _).trans (Dev.on_wrB_self _ _ true rfl rfl), (hshow.planBank _).trans hplan, (hshow.descsOf _).trans hdescs, ?_⟩
  exact hfs ▸ hshow.part .fs

end Sys2Proof.Machine
end

section
-- One proof after another: in parallel the proofs of this text would not fit the memory that its check allows.
set_option Elab.async false
/-!
PROOFS. plan.load and its end (08 R204, R205, R207).
-/
namespace Sys2Proof.Machine

theorem Dev.OnDie.tapReads (s : Dev) (im : List Byte) : Dev.OnDie s (s.tapReads im) :=
  .each _ _ s fun d v => by
    cases d.tapSlot v with
    | none => exact .refl d
    | some x => exact .nvCheck d x.1

/-- A load that fails completes REFUSED with its code. -/
theorem Dev.loadFail_ready (s : Dev) {mb : Nat} (h : mb < 8) (e : LoadErr) :
    ((s.loadFail mb e).mbx.get mb).ready = some (2, e.code, 0xFFFFFFFF, e.bytes s.free.toNat) := Dev.finish_ready _ _ _ _ _ _ h

theorem Dev.loadFail_frame (s : Dev) (mb : Nat) (e : LoadErr) : Dev.Frame [] [.mbx, .freeCtr] s (s.loadFail mb e) :=
  (Dev.Frame.when _ _ _ ((Dev.Frame.refl _ _ s).useFree)).finish _ _ _ _ _

/-- The request of plan.load goes out for a host image; a plan record is read at once. -/
def Dev.loadAsk (mb : Nat) (m : Mbx) (s : Dev) : Dev :=
  if m.fld 0 1 = 0 then (s.take mb).send (.hostRead (BitVec.ofNat 64 (m.fld 8 8)) (m.fld 4 4)) else s.take mb

theorem Dev.loadAsk_frame (mb : Nat) (m : Mbx) (s : Dev) : Dev.Frame [] [.mbx] s (s.loadAsk mb m) := by
  unfold Dev.loadAsk
  split
  · exact ((Dev.Frame.refl _ _ s).take _).send _
  · exact (Dev.Frame.refl _ _ s).take _

theorem Dev.loadAsk_mbx (mb : Nat) (m : Mbx) (s : Dev) : (s.loadAsk mb m).mbx = (s.take mb).mbx := by
  unfold Dev.loadAsk
  split <;> rfl

theorem Dev.loadAsk_tx (mb : Nat) {m : Mbx} (s : Dev) (h : m.fld 0 1 = 0) :
    (s.loadAsk mb m).tx = s.tx ++ [.hostRead (BitVec.ofNat 64 (m.fld 8 8)) (m.fld 4 4)] := by
  rw [Dev.loadAsk, if_pos h]
  rfl

theorem Dev.planLoad_go (mb : Nat) {m : Mbx} (s : Dev) (hp : s.on F.GL_STAT_ACT_PEND = false) (hc : m.conflict = false) :
    s.planLoad mb m = s.discardStaged.loadAsk mb m := by
  rw [Dev.planLoad, if_neg (by simp [hp]), if_neg (by simp [hc])]
  rfl

/-- What an image that passes every check does: its forms take their slots, and its plan is staged (R205). -/
def Dev.loadStage (im : List Byte) (p : Plan) (forms : List (Nat × List Byte)) (pl : List (Nat × Nat × Bool)) (s : Dev) : Dev :=
  let s := s.tapReads im
  let fs := pl.foldl (fun (f : Fs) (x : Nat × Nat × Bool) => f.writeSlot x.2.1 x.2.2 (((forms.find? (·.1 == x.1)).map (·.2)).getD [])) s.fs
  ({ s with fs := fs }).stagePlan p (pl.map (fun (x : Nat × Nat × Bool) => (x.1, some x.2.1)))

/-- The payload that answers a load (11 Table 11.7). -/
def loadAnswer (p : Plan) : List Byte :=
  (({} : LoadErr).bytes 0) ++ toLe 8 p.planid.toNat ++ [BitVec.ofNat 8 p.opmin, BitVec.ofNat 8 p.topUse.1] ++ toLe 2 p.topUse.2.1 ++
    toLe 2 p.topUse.2.2

/-- The end of a load, for the request of mailbox k. -/
def Dev.loadEnd (k : Nat) (m : Mbx) (image : Option (List Byte)) (s : Dev) : Dev :=
  match s.loadBytes m image with
  | none => s.loadFail k { code := 0x0A02 }
  | some im => match s.loadImage im (m.fld 4 4) with
    | .inl e => s.loadFail k e
    | .inr (p, forms, pl) => (s.loadStage im p forms pl).ok k (loadAnswer p)

theorem Dev.loadDone_eq {s : Dev} {k : Nat} (h : s.loadingMb = some k) (image : Option (List Byte)) :
    s.loadDone image =
      (Dev.when ((s.mbx.get k).fld 0 1 != 0) (·.nvCheck 1472) s).loadEnd k (s.mbx.get k) image := by
  unfold Dev.loadDone Dev.loadEnd
  rw [h]
  rfl

theorem Dev.loadStage_spec (s : Dev) (im : List Byte) (p : Plan) (forms : List (Nat × List Byte)) (pl : List (Nat × Nat × Bool)) :
    Dev.Frame [10, 11, 16] [.bm, .fs, .plan0, .plan1, .le, .de, .nv, .evq, .fc] s (s.loadStage im p forms pl) ∧
      (s.loadStage im p forms pl).planBank s.stagedBank = some p ∧ (s.loadStage im p forms pl).on F.GL_STAT_STAGED = true ∧
      (s.loadStage im p forms pl).descsOf s.stagedBank = p.descs ∧
      (s.loadStage im p forms pl).fs.mapOf s.stagedBank = pl.map (fun x => (x.1, some x.2.1)) := by
  unfold Dev.loadStage
  extract_lets u fs
  have hu : Dev.Frame [10, 11, 16] [.bm, .fs, .plan0, .plan1, .le, .de, .nv, .evq, .fc] s { u with fs := fs } :=
    ((Dev.OnDie.tapReads s im).frame.mono).fs _
  have hb : ({ u with fs := fs } : Dev).stagedBank = s.stagedBank :=
    congrArg (fun n => n % 2 == 0) ((Dev.OnDie.tapReads s im).frame.rd F.GL_STAT_EPOCH)
  clear_value fs
  generalize ({ u with fs := fs } : Dev) = v at *
  obtain ⟨hf, hon, hplan, hdescs, hfs⟩ := v.stagePlan_spec p (pl.map (fun x => (x.1, some x.2.1)))
  rw [hb] at hplan hdescs hfs
  exact ⟨hu.then hf, hplan, hon, hdescs, by rw [hfs, Fs.mapOf_setMap_self]⟩

end Sys2Proof.Machine

namespace Sys2Proof.Proofs
open Sys2Proof.Machine

/-- Settles O30: the request first, then the three ends of a load that `Dev.loadEnd` names. -/
theorem planLoad : Obligations.PlanLoad := by
  intro s mb m hrun
  refine ⟨fun hask => ⟨fun hpend hc => ?_, fun hpend => ?_, fun hpend hc => ?_⟩, ?_⟩
  · have hexec : exec (.planLoad mb) s = .next { s with dev := s.fresh.dev.planLoad mb.toNat m } := hask.run hrun _
    rw [s.fresh.dev.planLoad_go mb.toNat hpend hc] at hexec
    have hd := s.fresh.dev.discardStaged_frame
    have hstaged := s.fresh.dev.discardStaged_staged
    have htx := s.fresh.dev.discardStaged_tx
    have hplan := s.fresh.dev.discardStaged_plan
    have hmbx : s.fresh.dev.discardStaged.mbx = s.dev.mbx := hd.part .mbx
    generalize s.fresh.dev.discardStaged = d at *
    have hsent := d.loadAsk_frame mb.toNat m
    refine ⟨_, hexec, .of_take s mb ?_, ?_, fun h => ?_, fun h => ?_, ((hd.mono).then hsent).only⟩
    · rw [Dev.loadAsk_mbx, Dev.take, hmbx]
    · exact (congrArg (· == 1) (hsent.rd F.GL_STAT_STAGED)).trans hstaged
    · exact (d.loadAsk_tx _ h).trans (by rw [htx]; rfl)
    · exact (Dev.plan_congr (hsent.on _) (hsent.on _) (hsent.part .plan0) (hsent.part .plan1)).trans (hplan h)
  · have hexec : exec (.planLoad mb) s = .next { s with dev := s.fresh.dev.planLoad mb.toNat m } := hask.run hrun _
    have hpend' : s.fresh.dev.on F.GL_STAT_ACT_PEND = true := hpend
    rw [Dev.planLoad, if_pos hpend'] at hexec
    exact ⟨_, _, hexec, .of_finish rfl _ _ _ _ _, ((Dev.Frame.refl _ _ _).finish _ _ _ _ _).only⟩
  · have hexec : exec (.planLoad mb) s = .next { s with dev := s.fresh.dev.planLoad mb.toNat m } := hask.run hrun _
    have hpend' : s.fresh.dev.on F.GL_STAT_ACT_PEND = false := hpend
    rw [Dev.planLoad, if_neg (by simp [hpend']), if_pos hc] at hexec
    exact ⟨_, hexec, .of_finish rfl _ _ _ _ _, ((Dev.Frame.refl _ _ _).refuse _ _).only⟩
  · intro image k hk hm rec_ d wins parts
    have hexec : exec (.planLoadDone image) s = .next { s with dev := s.fresh.dev.loadDone image } := State.onDev_next s _ hrun
    have hgo : s.fresh.dev.loadDone image = d.loadEnd k m image := by
      rw [Dev.loadDone_eq (s := s.fresh.dev) hk image, show s.fresh.dev.mbx.get k = m from hm]
      by_cases h : m.fld 0 1 = 0 <;> simp [d, rec_, h, Dev.when]
    have hd : Dev.Frame wins parts s.fresh.dev d := by
      by_cases h : m.fld 0 1 = 0
      · simp only [d, wins, parts, rec_, h, ne_eq, not_true_eq_false, if_false]
        exact .refl _ _ _
      · simp only [d, wins, parts, rec_, h, ne_eq, not_false_eq_true, if_true]
        exact (Dev.OnDie.nvCheck _ _).frame.mono
    have hparts : [Part.mbx, .freeCtr] ⊆ parts ∧ parts ⊆ [.mbx, .bm, .fs, .plan0, .plan1, .le, .de, .nv, .evq, .fc, .freeCtr] := by
      by_cases h : m.fld 0 1 = 0 <;> simp [parts, rec_, h]
    have hwins : wins ⊆ [16] := by
      by_cases h : m.fld 0 1 = 0 <;> simp [wins, rec_, h]
    have hbank : d.stagedBank = s.dev.stagedBank :=
      congrArg (fun n => n % 2 == 0) (hd.rd F.GL_STAT_EPOCH (fun hw => absurd (hwins hw) (by decide)))
    rw [hgo] at hexec
    clear_value d wins parts
    refine ⟨_, hexec, ?_⟩
    unfold Dev.loadEnd
    cases d.loadBytes m image with
    | none => exact ⟨fun h => ⟨_, d.loadFail_ready h _⟩, (hd.trans ((d.loadFail_frame k _).mono (by simp) hparts.1)).only⟩
    | some im =>
      dsimp only
      cases d.loadImage im (m.fld 4 4) with
      | inl e => exact ⟨fun h => ⟨_, d.loadFail_ready h e⟩, (hd.trans ((d.loadFail_frame k e).mono (by simp) hparts.1)).only⟩
      | inr x =>
        obtain ⟨p, forms, pl⟩ := x
        obtain ⟨hf, hplan, hon, hdescs, hmap⟩ := d.loadStage_spec im p forms pl
        rw [hbank] at hplan hdescs hmap
        dsimp only
        generalize d.loadStage im p forms pl = u at *
        have hbig : Dev.Frame [10, 11, 16] [.mbx, .bm, .fs, .plan0, .plan1, .le, .de, .nv, .evq, .fc, .freeCtr] s.fresh.dev u :=
          (hd.mono (fun b hb => .tail _ (.tail _ (hwins hb))) hparts.2).then hf
        have hok : Dev.Frame [] [.mbx] u (u.ok k (loadAnswer p)) := (Dev.Frame.refl _ _ u).ok _ _
        exact ⟨(hok.planBank _).trans hplan, (hok.on _).trans hon, (hok.descsOf _).trans hdescs,
          (congrArg (fun f : Fs => f.mapOf s.dev.stagedBank) (hok.part .fs)).trans hmap, fun h => ⟨_, u.finish_ready _ _ _ _ _ h⟩, (hbig.ok _ _).only⟩

end Sys2Proof.Proofs
end

section
-- One proof after another: in parallel the proofs of this text would not fit the memory that its check allows.
set_option Elab.async false
/-!
PROOFS. form.write on the staged plan or on a copy of the plan in force (06 R148, R149).
-/
namespace Sys2Proof.Machine

/-! ### The copy of the plan in force -/

theorem Dev.stagePlan_rd (s : Dev) (p : Plan) (m : Tbl (Option Nat)) (f : Fld) (hf : blockOf f.reg ∉ [10] := by decide)
    (ha : F.GL_STAT_STAGED.apart f = true := by decide) : (s.stagePlan p m).rd f = s.rd f := by
  have hput := (s.planPut_frame p m).rd f (by simp)
  rw [Dev.stagePlan_eq, ← hput]
  exact ((Dev.fsStat_frame _).rd f hf).trans (Dev.rd_wrB_apart _ _ _ _ rfl ha)

/-- A bank's plan, descriptors, calibration and slots are kept until its plan is retired. -/
def Dev.keepBank (b : Bool) (p : Plan) (s : Dev) : Dev :=
  { s with le := { s.le with kept := some { bank := b, plan := p, descs := s.descsOf b, cal := s.calOf b } },
           fs := { s.fs with kept := (s.fs.mapOf b).filterMap (·.2) } }

theorem Dev.keepOld_eq (s : Dev) : s.keepOld = match s.planBank s.stagedBank with
    | some p => if s.gl.retireAt.isSome && s.le.kept.isNone && !s.on F.GL_STAT_STAGED then s.keepBank s.stagedBank p else s
    | none => s := rfl

theorem Dev.Silent.keepOld : Dev.Silent Dev.keepOld := fun s l => by
  have hbank : (s.setTx l).stagedBank = s.stagedBank := rfl
  have hplan (b : Bool) : (s.setTx l).planBank b = s.planBank b := rfl
  rw [Dev.keepOld_eq, Dev.keepOld_eq, hbank, hplan]
  cases s.planBank s.stagedBank with
  | none => rfl
  | some p =>
    exact Dev.Silent.ite (f := Dev.keepBank s.stagedBank p)
      (fun s => (s.gl.retireAt.isSome && s.le.kept.isNone && !s.on F.GL_STAT_STAGED) = true) (fun _ _ => rfl) (fun _ _ => rfl) .id s l

theorem Dev.Silent.bankPut (b : Bool) (p : Plan) (m : Tbl (Option Nat)) :
    Dev.Silent (fun u => (((u.setPlan b (some p)).setDescs b p.descs).setCal b p.cal).mapPut b m) := by
  cases b <;> exact fun _ _ => rfl

theorem Dev.Silent.bmWipe (k : Nat) : Dev.Silent (·.bmWipe k) := fun _ _ => rfl

theorem Dev.Silent.planPut (p : Plan) (m : Tbl (Option Nat)) : Dev.Silent (·.planPut p m) := fun s l => by
  have hbank : (s.setTx l).stagedBank = s.stagedBank := rfl
  dsimp only [Dev.planPut]
  rw [hbank, Dev.Silent.keepOld s l]
  exact Dev.Silent.comp (.bmWipe 3) (.comp (.bmWipe 0) (.bankPut s.stagedBank p m)) s.keepOld l

theorem Dev.Silent.wr (f : Fld) (v : Nat) : Dev.Silent (·.wr f v) := fun _ _ => rfl

theorem Dev.Silent.fsStat : Dev.Silent Dev.fsStat := fun s l =>
  Dev.Silent.comp (.wr F.FS_STAT_BAD ((s.fs.slots.filter (·.2.bad)).length))
    (.wr F.FS_STAT_USED ((s.fs.map0 ++ s.fs.map1).filterMap (·.2) ++ s.fs.kept).eraseDups.length) s l

theorem Dev.Silent.stagePlan (p : Plan) (m : Tbl (Option Nat)) : Dev.Silent (·.stagePlan p m) :=
  Dev.Silent.comp .fsStat (Dev.Silent.comp (.wr F.GL_STAT_STAGED 1) (.planPut p m))

theorem Dev.Silent.stageCopy : Dev.Silent Dev.stageCopy := fun s l => by
  unfold Dev.stageCopy
  by_cases h : s.on F.GL_STAT_STAGED = true
  · exact (if_pos h).trans (congrArg (Dev.setTx l) (if_pos h)).symm
  · refine (if_neg h).trans ((?_ : _ = _).trans (congrArg (Dev.setTx l) (if_neg h)).symm)
    have hplan : (s.setTx l).plan = s.plan := rfl
    rw [hplan]
    cases s.plan with
    | none => rfl
    | some p => exact Dev.Silent.stagePlan p _ s l

/-- The plan that form.write edits: the staged one, or the plan in force that it copies. -/
def Dev.editPlan (s : Dev) : Option Plan := if s.on F.GL_STAT_STAGED then s.planBank s.stagedBank else s.plan

/-- With a plan to edit, a plan is staged then, in the same bank, beside the same bank in force. -/
theorem Dev.stageCopy_spec {s : Dev} {p : Plan} (h : s.editPlan = some p) :
    Dev.Frame [10, 11] [.bm, .fs, .plan0, .plan1, .le, .de] s s.stageCopy ∧ s.stageCopy.on F.GL_STAT_STAGED = true ∧
      s.stageCopy.stagedBank = s.stagedBank := by
  unfold Dev.stageCopy
  unfold Dev.editPlan at h
  by_cases hs : s.on F.GL_STAT_STAGED = true
  · rw [if_pos hs]
    exact ⟨.refl _ _ s, hs, rfl⟩
  · rw [if_neg hs] at h
    rw [if_neg hs, h]
    obtain ⟨hf, hon, -⟩ := s.stagePlan_spec p (s.fs.mapOf (s.on F.GL_STAT_BANK))
    exact ⟨hf, hon, congrArg (fun n => n % 2 == 0) (s.stagePlan_rd p _ F.GL_STAT_EPOCH)⟩

/-! ### The operations -/

/-- With no code against it, the operation acts on the copy. -/
theorem Dev.formOp_go {s : Dev} {p : Plan} (mb : Nat) {m : Mbx} (codes : Dev → Plan → List (Option Nat)) (act : Plan → Dev → Dev)
    (hpend : s.on F.GL_STAT_ACT_PEND = false) (hc : m.conflict = false) (hp : s.editPlan = some p)
    (hok : lowestCode false (codes s p) = none) : s.formOp mb m codes act = act p s.stageCopy := by
  unfold Dev.editPlan at hp
  unfold Dev.formOp
  rw [if_neg (by simp [hpend]), hc]
  dsimp only
  rw [hp]
  dsimp only
  rw [hok]
  rfl

/-- A form of the staged plan is written to its slot, unless it shares that. -/
def Dev.formPut (n slot : Nat) (shared : Bool) (by_ : List Byte) (d : Dev) : Dev :=
  let b := d.stagedBank
  let f := d.fs.writeSlot slot shared by_
  let d := { d with fs := f.setMap b ((f.mapOf b).set n (some slot)),
                    de := { d.de with badMap := d.de.badMap.filter (fun y => y != (b, n)) } }
  (d.bmWipe 0).fsStat

theorem Dev.formPut_spec (n slot : Nat) (shared : Bool) (by_ : List Byte) (d : Dev) :
    Dev.Frame [10] [.fs, .de, .bm] d (d.formPut n slot shared by_) ∧ (d.formPut n slot shared by_).tx = d.tx ∧
      (d.formPut n slot shared by_).fs = (d.fs.writeSlot slot shared by_).setMap d.stagedBank
        (((d.fs.writeSlot slot shared by_).mapOf d.stagedBank).set n (some slot)) := by
  unfold Dev.formPut
  extract_lets b f e u
  have hu : Dev.Frame [10] [.fs, .de, .bm] d u := ((Dev.Frame.refl [10] [.fs, .de, .bm] d).fs (f.setMap b ((f.mapOf b).set n (some slot)))).de _
  have hfs : u.fs = f.setMap b ((f.mapOf b).set n (some slot)) := rfl
  have htx : u.tx = d.tx := rfl
  clear_value u
  exact ⟨(hu.bmWipe 0).then (Dev.fsStat_frame _), htx, (show (u.bmWipe 0).fsStat.fs = u.fs from (Dev.fsStat_frame _).part .fs).trans hfs⟩

theorem Fs.writeSlot_mapOf (f : Fs) (slot : Nat) (shared : Bool) (by_ : List Byte) (b : Bool) :
    (f.writeSlot slot shared by_).mapOf b = f.mapOf b := by cases shared <;> rfl

/-- A form of the staged plan leaves the map. -/
def Dev.formDrop (n : Nat) (d : Dev) : Dev :=
  ({ d with fs := d.fs.setMap d.stagedBank ((d.fs.mapOf d.stagedBank).set n none) } : Dev).fsStat

theorem Dev.formDrop_spec (n : Nat) (d : Dev) : Dev.Frame [10] [.fs] d (d.formDrop n) ∧
    (d.formDrop n).fs = d.fs.setMap d.stagedBank ((d.fs.mapOf d.stagedBank).set n none) :=
  ⟨((Dev.Frame.refl [10] [.fs] d).fs _).then (Dev.fsStat_frame _), rfl⟩

theorem Dev.formDelete_go {s : Dev} {p : Plan} (mb : Nat) {m : Mbx} (hpend : s.on F.GL_STAT_ACT_PEND = false) (hc : m.conflict = false)
    (hp : s.editPlan = some p) (hg : gateCode p.gate (s.editForms.filter (fun x => x.1 != m.fld 2 2)) = none) :
    s.formDelete mb m = (s.stageCopy.formDrop (m.fld 2 2)).ok mb [] := by
  unfold Dev.formDelete
  exact Dev.formOp_go mb _ _ hpend hc hp (by rw [hg]; rfl)

theorem Dev.formRelevel_go {s : Dev} {p : Plan} (mb : Nat) {m : Mbx} (hpend : s.on F.GL_STAT_ACT_PEND = false) (hc : m.conflict = false)
    (hp : s.editPlan = some p) (hl : levelBad m.payload 8 = none) :
    s.formRelevel mb m =
      (s.stageCopy.setPlan s.stageCopy.stagedBank (some { p with level := levelsAt m.payload 8 })).ok mb [] := by
  unfold Dev.formRelevel
  exact Dev.formOp_go mb _ _ hpend hc hp (by rw [hl]; rfl)

/-- Where form n with these bytes goes: its slot, and whether it shares it. -/
def Dev.formPlace (n : Nat) (by_ : List Byte) (d : Dev) : Option (Nat × Nat × Bool) :=
  (placeForms d.fs d.forceBank d.fs.taken [(n, by_)]).bind List.head?

/-- The form is read from host memory. -/
def Mbx.formRead (m : Mbx) : Tx := .hostRead (BitVec.ofNat 64 (m.fld 8 8)) 6144

theorem Dev.formWrite_go {s : Dev} {p : Plan} (mb : Nat) {m : Mbx} {f : List Byte} {slot : Nat} {shared : Bool}
    (hpend : s.on F.GL_STAT_ACT_PEND = false) (hc : m.conflict = false) (hp : s.editPlan = some p)
    (hcode : formCode p.topo.toNat p.descs f = 0) (hg : gateCode p.gate (withForm s.editForms (m.fld 2 2) f) = none)
    (hfits : (s.formPlace (m.fld 2 2) f).isSome = true) (hplace : s.stageCopy.formPlace (m.fld 2 2) f = some (m.fld 2 2, slot, shared)) :
    s.formWrite (some f) mb m =
      ((s.stageCopy.setTx (s.tx ++ [m.formRead])).formPut (m.fld 2 2) slot shared f).ok mb
        (toLe 2 slot ++ [if shared then 1 else 0]) := by
  have hreads : (!s.on F.GL_STAT_ACT_PEND && (s.on F.GL_STAT_STAGED || s.on F.GL_STAT_PLAN)) = true := by
    unfold Dev.editPlan at hp
    by_cases hs : s.on F.GL_STAT_STAGED = true
    · simp [hpend, hs]
    · rw [if_neg hs, Dev.plan] at hp
      by_cases hpl : s.on F.GL_STAT_PLAN = true
      · simp [hpend, hpl]
      · simp [hpl] at hp
  have hcopy := Dev.Silent.stageCopy s (s.tx ++ [m.formRead])
  unfold Dev.formWrite
  dsimp only
  rw [hreads]
  refine (Dev.formOp_go (s := s.setTx (s.tx ++ [m.formRead])) mb _ _ hpend hc hp ?_).trans ?_
  · have hplaced : ((placeForms s.fs s.forceBank s.fs.taken [(m.fld 2 2, f)]).bind List.head?).isNone = false := by
      rw [← Option.not_isSome, Bool.not_eq_eq_eq_not]
      exact hfits
    show lowestCode false [if formCode p.topo.toNat p.descs f = 0 then none else some (formCode p.topo.toNat p.descs f),
      if ((placeForms s.fs s.forceBank s.fs.taken [(m.fld 2 2, f)]).bind List.head?).isNone then some 0x0609 else none,
      (gateCode p.gate (withForm s.editForms (m.fld 2 2) f)).map (·.1)] = none
    rw [hcode, hplaced, hg]
    rfl
  · rw [hcopy]
    show (match s.stageCopy.formPlace (m.fld 2 2) f with
      | some x => ((s.stageCopy.setTx _).formPut (m.fld 2 2) x.2.1 x.2.2 f).ok mb (toLe 2 x.2.1 ++ [if x.2.2 then 1 else 0])
      | none => s.stageCopy.setTx _) = _
    rw [hplace]

end Sys2Proof.Machine

namespace Sys2Proof.Proofs
open Sys2Proof.Machine

/-- Settles O32: each operation on the copy that `Dev.stageCopy` makes, by the equation that says which edit it is. -/
theorem formWrite : Obligations.FormWrite := by
  intro s mb m p hrun hpend hc hedit b d n
  have hfresh : s.fresh.dev.stageCopy = d.setTx [] := Dev.Silent.stageCopy s.dev []
  obtain ⟨hd, hon, hbank⟩ := Dev.stageCopy_spec (s := s.fresh.dev) hedit
  rw [hfresh] at hd hon hbank
  have hall (l : List Tx) : Dev.Frame [10, 11] [.fs, .de, .mbx, .bm, .plan0, .plan1, .le] s.fresh.dev (d.setTx l) :=
    Dev.Frame.tx hd.mono l
  have hmbx : d.mbx = s.dev.mbx := hd.part .mbx
  have hstaged : d.on F.GL_STAT_STAGED = true := hon
  have hdb : d.stagedBank = b := hbank
  clear_value d
  refine ⟨fun hask f slot shared hcode hg hfits hplace => ?_, fun hask hg => ?_, fun hask hl => ?_⟩
  · have hexec : exec (.formWrite mb (some f)) s = .next { s with dev := s.fresh.dev.formWrite (some f) mb.toNat m } := hask.run hrun _
    have hplaced : s.fresh.dev.stageCopy.formPlace n f = some (n, slot, shared) := by
      rw [hfresh]
      exact congrArg (fun o : Option (List (Nat × Nat × Bool)) => o.bind List.head?) hplace
    rw [Dev.formWrite_go (s := s.fresh.dev) mb.toNat hpend hc hedit hcode hg hfits hplaced, hfresh] at hexec
    let l : List Tx := [m.formRead]
    obtain ⟨hf, htx, hfs⟩ := (d.setTx l).formPut_spec n slot shared f
    have hmap : ((d.setTx l).formPut n slot shared f).fs.mapOf b = (d.fs.mapOf b).set n (some slot) := by
      rw [hfs, show (d.setTx l).stagedBank = b from hdb, Fs.mapOf_setMap_self, Fs.writeSlot_mapOf]
      rfl
    have hslot (hs : shared = false) : ((d.setTx l).formPut n slot shared f).fs.slots.get slot = { bytes := f, bad := false } := by
      rw [hfs, Fs.setMap_slots, hs]
      exact Tbl.get_set_self _ _ _
    have hshown : ((d.setTx l).formPut n slot shared f).on F.GL_STAT_STAGED = true := (hf.on _).trans hstaged
    have hmb : ((d.setTx l).formPut n slot shared f).mbx = s.dev.mbx := (show _ = (d.setTx l).mbx from hf.part .mbx).trans hmbx
    have hframe := (hall l).then hf
    change exec _ s = .next { s with dev := ((d.setTx l).formPut n slot shared f).ok _ _ } at hexec
    generalize (d.setTx l).formPut n slot shared f = u at *
    have hok : Dev.Frame [] [.mbx] u (u.ok mb.toNat (toLe 2 slot ++ [if shared then 1 else 0])) := (Dev.Frame.refl _ _ u).ok _ _
    have hfs' : (u.ok mb.toNat (toLe 2 slot ++ [if shared then 1 else 0])).fs = u.fs := hok.part .fs
    refine ⟨_, hexec, ?_, fun hs => ?_, fun k hk => ?_, (hok.on _).trans hshown, ?_, .of_finish hmb _ _ _ _ _, (hframe.ok _ _).only⟩
    · rw [hfs', Fs.map_eq, hmap, Tbl.get_set_self]
    · rw [hfs', hslot hs]
    · rw [hfs', Fs.map_eq, hmap, Tbl.get_set_ne _ (Ne.symm hk), ← Fs.map_eq]
    · exact (u.finish_tx _ _ _ _ _).trans htx
  · have hexec : exec (.formDelete mb) s = .next { s with dev := s.fresh.dev.formDelete mb.toNat m } := hask.run hrun _
    rw [Dev.formDelete_go (s := s.fresh.dev) mb.toNat hpend hc hedit hg, hfresh] at hexec
    obtain ⟨hf, hfs⟩ := (d.setTx []).formDrop_spec n
    have hmap : ((d.setTx []).formDrop n).fs.mapOf b = (d.fs.mapOf b).set n none := by
      rw [hfs, show (d.setTx []).stagedBank = b from hdb, Fs.mapOf_setMap_self]
      rfl
    have hshown : ((d.setTx []).formDrop n).on F.GL_STAT_STAGED = true := (hf.on _).trans hstaged
    have hmb : ((d.setTx []).formDrop n).mbx = s.dev.mbx := (show _ = (d.setTx []).mbx from hf.part .mbx).trans hmbx
    have hframe := (hall []).then hf
    generalize (d.setTx []).formDrop n = u at *
    have hok : Dev.Frame [] [.mbx] u (u.ok mb.toNat []) := (Dev.Frame.refl _ _ u).ok _ _
    have hfs' : (u.ok mb.toNat []).fs = u.fs := hok.part .fs
    refine ⟨_, hexec, ?_, fun k hk => ?_, (hok.on _).trans hshown, .of_finish hmb _ _ _ _ _, (hframe.ok _ _).only⟩
    · rw [hfs', Fs.map_eq, hmap, Tbl.get_set_self]
    · rw [hfs', Fs.map_eq, hmap, Tbl.get_set_ne _ (Ne.symm hk), ← Fs.map_eq]
  · have hexec : exec (.formRelevel mb) s = .next { s with dev := s.fresh.dev.formRelevel mb.toNat m } := hask.run hrun _
    rw [Dev.formRelevel_go (s := s.fresh.dev) mb.toNat hpend hc hedit hl, hfresh, show (d.setTx []).stagedBank = b from hdb] at hexec
    have hplan := (d.setTx []).planBank_setPlan_self b (some { p with level := levelsAt m.payload 8 })
    have hf := (d.setTx []).setPlan_frame b (some { p with level := levelsAt m.payload 8 })
    have hmb : ((d.setTx []).setPlan b (some { p with level := levelsAt m.payload 8 })).mbx = s.dev.mbx :=
      (show _ = (d.setTx []).mbx from hf.part .mbx).trans hmbx
    have hframe := (hall []).then hf
    generalize (d.setTx []).setPlan b (some { p with level := levelsAt m.payload 8 }) = u at *
    have hok : Dev.Frame [] [.mbx] u (u.ok mb.toNat []) := (Dev.Frame.refl _ _ u).ok _ _
    exact ⟨_, hexec, (hok.planBank b).trans hplan, (hok.on _).trans ((hf.on F.GL_STAT_STAGED).trans hstaged), .of_finish hmb _ _ _ _ _, (hframe.ok _ _).only⟩

end Sys2Proof.Proofs
end
